-- ==== Sys2Proof/Word.lean ====
section
/-! DEFINITION. The words of the device: 64-bit scalar words, 32-bit vector lanes, bytes (R1, R203). -/

namespace Sys2Proof

/-- A 64-bit scalar word (R203). -/
abbrev Word := BitVec 64
/-- A 32-bit vector lane (R232, R373). -/
abbrev Lane := BitVec 32
/-- A byte of memory. -/
abbrev Byte := BitVec 8
/-- A 16-bit parcel of code (R263). -/
abbrev Parcel := BitVec 16

end Sys2Proof
end

