-- ==== Sys2Proof/Syntax.lean ====
section
/-! DEFINITION. The operations and events of the device: one constructor per row of the opcode table.
The first 245 have an encoding (R271 to R276), and their constructors carry the operand fields of the word. The other
130 are the device's own steps, which have none: what such an event is about stands in an `Arg` beside it. -/

namespace Sys2Proof

/-- A scalar register field, x0 to x31 (R272). -/
abbrev XReg := BitVec 5
/-- A vector register field, v0 to v63 (R272). -/
abbrev VName := BitVec 6
/-- A predicate field, p0 to p7 (R272). -/
abbrev PReg := BitVec 3
/-- A rope name, rp0 to rp15 (R122). -/
abbrev RopeName := BitVec 4
/-- A stall count, 0 to 7, bits [3:1] of every word (R266); it belongs to the word, and no constructor repeats it. -/
abbrev Stall := BitVec 3
/-- A tensor map register, tm0 to tm7 (R388). -/
abbrev TMap := BitVec 3
/-- A level, L0 to L3 (R203). -/
abbrev Level := Fin 4

/-- The kind of an access (R115). -/
inductive Kind where
  | w | s | acq | rel | ar
  deriving DecidableEq, Repr

/-- A scope (R114): core, cluster, die, package, system. -/
inductive Scope where
  | c | k | d | v | y
  deriving DecidableEq, Repr

/-- The two-bit order field of LDX, STX, VLD, VST, VGATH and VSCAT (R344): weak, strong, and acquire for a load or
release for a store, the last two at scope .v. -/
inductive Ord where
  | w | s | sync
  deriving DecidableEq, Repr

/-- The size field of LDX and STX: 1, 2, 4 or 8 bytes (R344). -/
inductive Size where
  | b | h | w | d
  deriving DecidableEq, Repr

/-- The two planes of the fabric (R81). -/
inductive Plane where
  | control | data
  deriving DecidableEq, Repr

/-- A firmware image as the ROM sees it: its version, whether each signature verifies, and its digest (R480). -/
structure Image where
  version : Nat
  ecdsaOk : Bool
  lmsOk   : Bool
  digest  : Nat := 0
  deriving DecidableEq, Repr

/-- What an event is about: the unit it happens at, the packet, operation or page it concerns, and what comes in from
outside the device with it. An event reads the fields its docstring names and no others. -/
structure Arg where
  chip   : Nat := 0
  /-- A fabric node (R78). -/
  node   : Nat := 0
  /-- A physical core slot, 0 to 8 (R83). -/
  slot   : Nat := 0
  lev    : Level := 0
  plane  : Plane := .control
  /-- A scale-up port (R80) and a lane of it (R94). -/
  port   : Nat := 0
  lane   : Nat := 0
  /-- The number of a packet, flit, operation, walk, invalidation or belay message. -/
  id     : Nat := 0
  /-- A word, line, page or offset. -/
  addr   : Nat := 0
  vd     : Nat := 0
  /-- A stage, mailbox, group, queue, launch, slot of a table or other small number. -/
  index  : Nat := 0
  /-- A stack, pseudo-channel, bank and row of HBM4 (R454, R455). -/
  stack  : Nat := 0
  pc     : Nat := 0
  bank   : Nat := 0
  row    : Nat := 0
  /-- A host connection and sequence number (R475). -/
  conn   : Nat := 0
  seq    : Nat := 0
  /-- A length, power or other quantity. -/
  value  : Nat := 0
  /-- A yes or no the event brings. -/
  flag   : Bool := false
  /-- The register of a control-register write, and the control register (R331). -/
  reg    : XReg := 0
  cr     : BitVec 12 := 0
  /-- A message type (R207). -/
  ty     : BitVec 8 := 0
  /-- The pattern of an illegal encoding (R277). -/
  code   : BitVec 48 := 0
  bytes  : List Byte := []
  words  : List Word := []
  image  : Image := ⟨0, false, false, 0⟩
  /-- The OP of a host request that R477 does not list (R476). -/
  op     : Option Nat := none
  deriving DecidableEq, Repr

/-- The operations and events of the opcode table. -/
inductive Instr where
  /-- PADD (R13). Advances a pointer by a signed byte offset, keeping its tag and trapping PTR_OVF on overflow. -/
  | padd (rb : XReg) (ra : XReg) (rd : XReg)
  /-- PSUB (R13). Moves a pointer back by a signed byte offset, keeping its tag and trapping PTR_OVF on overflow. -/
  | psub (rb : XReg) (ra : XReg) (rd : XReg)
  /-- PTAG (R13). Replaces the seven tag bits of a pointer without checking them. -/
  | ptag (rb : XReg) (ra : XReg) (rd : XReg)
  /-- PGET (R13). Returns the tag bits of a pointer, zero-extended. -/
  | pget (ra : XReg) (rd : XReg)
  /-- PSTRIP (R13). Returns the address bits of a pointer with the tag cleared. -/
  | pstrip (ra : XReg) (rd : XReg)
  /-- ADD (R308). Adds two registers modulo 2^64. -/
  | add (rb : XReg) (ra : XReg) (rd : XReg)
  /-- SUB (R308). Subtracts two registers modulo 2^64. -/
  | sub (rb : XReg) (ra : XReg) (rd : XReg)
  /-- AND (R308). Bitwise AND of two registers. -/
  | and_ (rb : XReg) (ra : XReg) (rd : XReg)
  /-- OR (R308). Bitwise OR of two registers. -/
  | or_ (rb : XReg) (ra : XReg) (rd : XReg)
  /-- XOR (R308). Bitwise XOR of two registers. -/
  | xor_ (rb : XReg) (ra : XReg) (rd : XReg)
  /-- SHL (R308). Shifts left by the low six bits of rb. -/
  | shl (rb : XReg) (ra : XReg) (rd : XReg)
  /-- SHR (R308). Shifts right with zeros by the low six bits of rb. -/
  | shr (rb : XReg) (ra : XReg) (rd : XReg)
  /-- SRA (R308). Shifts right arithmetically by the low six bits of rb. -/
  | sra (rb : XReg) (ra : XReg) (rd : XReg)
  /-- ROT (R308). Rotates left by the low six bits of rb. -/
  | rot (rb : XReg) (ra : XReg) (rd : XReg)
  /-- SLT (R308). Sets 1 when ra is less than rb, signed. -/
  | slt (rb : XReg) (ra : XReg) (rd : XReg)
  /-- SLTN (R308). Sets 1 when ra is less than rb, unsigned. -/
  | sltn (rb : XReg) (ra : XReg) (rd : XReg)
  /-- MIN (R308). Signed minimum of two registers. -/
  | min_ (rb : XReg) (ra : XReg) (rd : XReg)
  /-- MAX (R308). Signed maximum of two registers. -/
  | max_ (rb : XReg) (ra : XReg) (rd : XReg)
  /-- MINN (R308). Unsigned minimum of two registers. -/
  | minn (rb : XReg) (ra : XReg) (rd : XReg)
  /-- MAXN (R308). Unsigned maximum of two registers. -/
  | maxn (rb : XReg) (ra : XReg) (rd : XReg)
  /-- SEL (R309). Selects ra when the old rd is non-zero, else rb. -/
  | sel (rb : XReg) (ra : XReg) (rd : XReg)
  /-- CLZ (R308). Counts leading zero bits. -/
  | clz (ra : XReg) (rd : XReg)
  /-- CTZ (R308). Counts trailing zero bits. -/
  | ctz (ra : XReg) (rd : XReg)
  /-- POPC (R308). Counts set bits. -/
  | popc (ra : XReg) (rd : XReg)
  /-- BREV (R308). Reverses the bit order of a register. -/
  | brev (ra : XReg) (rd : XReg)
  /-- ADDI (R310). Adds a sign-extended 12-bit immediate. -/
  | addi (imm : BitVec 12) (ra : XReg) (rd : XReg)
  /-- ANDI (R310). ANDs with a zero-extended immediate. -/
  | andi (imm : BitVec 12) (ra : XReg) (rd : XReg)
  /-- ORI (R310). ORs with a zero-extended immediate. -/
  | ori (imm : BitVec 12) (ra : XReg) (rd : XReg)
  /-- XORI (R310). XORs with a zero-extended immediate. -/
  | xori (imm : BitVec 12) (ra : XReg) (rd : XReg)
  /-- SLTI (R310). Sets 1 when ra is below a signed immediate. -/
  | slti (imm : BitVec 12) (ra : XReg) (rd : XReg)
  /-- SHLI (R310). Shifts left by an immediate amount. -/
  | shli (amt : BitVec 6) (ra : XReg) (rd : XReg)
  /-- SHRI (R310). Shifts right with zeros by an immediate amount. -/
  | shri (amt : BitVec 6) (ra : XReg) (rd : XReg)
  /-- SRAI (R310). Shifts right arithmetically by an immediate amount. -/
  | srai (amt : BitVec 6) (ra : XReg) (rd : XReg)
  /-- ROTI (R310). Rotates left by an immediate amount. -/
  | roti (amt : BitVec 6) (ra : XReg) (rd : XReg)
  /-- LUI (R310). Loads a sign-extended 17-bit immediate shifted left by 12. -/
  | lui (imm : BitVec 17) (rd : XReg)
  /-- ADDPC (R310). Adds a shifted 17-bit immediate to the instruction's own address. -/
  | addpc (imm : BitVec 17) (rd : XReg)
  /-- BXT (R313). Extracts a bit field and sign-extends it. -/
  | bxt (width : BitVec 6) (off : BitVec 6) (ra : BitVec 4) (rd : BitVec 4)
  /-- BXTN (R313). Extracts a bit field and zero-extends it. -/
  | bxtn (width : BitVec 6) (off : BitVec 6) (ra : BitVec 4) (rd : BitVec 4)
  /-- BINS (R313). Inserts a bit field into rd. -/
  | bins (width : BitVec 6) (off : BitVec 6) (ra : BitVec 4) (rd : BitVec 4)
  /-- MUL (R314). Multiplies modulo 2^64. -/
  | mul (rb : XReg) (ra : XReg) (rd : XReg)
  /-- MULH (R314). High half of the signed 128-bit product. -/
  | mulh (rb : XReg) (ra : XReg) (rd : XReg)
  /-- MULHN (R314). High half of the unsigned 128-bit product. -/
  | mulhn (rb : XReg) (ra : XReg) (rd : XReg)
  /-- DIV (R315). Signed quotient, with defined results for division by zero and overflow. -/
  | div (rb : XReg) (ra : XReg) (rd : XReg)
  /-- DIVN (R315). Unsigned quotient, with a defined result for division by zero. -/
  | divn (rb : XReg) (ra : XReg) (rd : XReg)
  /-- REM (R315). Signed remainder. -/
  | rem (rb : XReg) (ra : XReg) (rd : XReg)
  /-- REMN (R315). Unsigned remainder. -/
  | remn (rb : XReg) (ra : XReg) (rd : XReg)
  /-- BEQ (R316). Branches when ra equals rb. -/
  | beq (off : BitVec 9) (rb : XReg) (ra : XReg)
  /-- BNE (R316). Branches when ra differs from rb. -/
  | bne (off : BitVec 9) (rb : XReg) (ra : XReg)
  /-- BLT (R316). Branches when ra is below rb, signed. -/
  | blt (off : BitVec 9) (rb : XReg) (ra : XReg)
  /-- BGE (R316). Branches when ra is at or above rb, signed. -/
  | bge (off : BitVec 9) (rb : XReg) (ra : XReg)
  /-- BLO (R316). Branches when ra is below rb, unsigned. -/
  | blo (off : BitVec 9) (rb : XReg) (ra : XReg)
  /-- BHS (R316). Branches when ra is at or above rb, unsigned. -/
  | bhs (off : BitVec 9) (rb : XReg) (ra : XReg)
  /-- BZ (R317). Branches when ra is zero. -/
  | bz (off : BitVec 12) (ra : XReg)
  /-- BNZ (R317). Branches when ra is non-zero. -/
  | bnz (off : BitVec 12) (ra : XReg)
  /-- J (R318). Jumps by a signed parcel offset. -/
  | j (off : BitVec 22)
  /-- JAL (R318). Jumps by a parcel offset and writes the return address into x1. -/
  | jal (off : BitVec 22)
  /-- JALR (R319). Jumps to a register plus immediate and writes the link into rd. -/
  | jalr (imm : BitVec 12) (ra : XReg) (rd : XReg)
  /-- LOOP (R324). Decrements LCOUNT, advances the rotation base and branches while the count stays non-zero. -/
  | loop (off : BitVec 12) (stp : BitVec 5)
  /-- TRAP (R328). Raises USER with the given code. -/
  | trap (code : BitVec 12)
  /-- ABORT (R330). Ends the activation, or the trapped activation, as a fault. -/
  | abort (code : BitVec 12)
  /-- MFCR (R331). Reads a control register into rd. -/
  | mfcr (cr : BitVec 12) (rd : XReg)
  /-- MTCR (R331). Writes ra into a control register. -/
  | mtcr (cr : BitVec 12) (ra : XReg)
  /-- MFID (R333). Reads an identity register. -/
  | mfid (id : BitVec 6) (rd : XReg)
  /-- SLEEP (R334). Makes the level not ready for ra cycles or until a mailbox write lands. -/
  | sleep (ra : XReg)
  /-- WAITX (R335). Waits until CPDONE reaches ra, then acquires. -/
  | waitx (ra : XReg)
  /-- LNCH (R336). Releases, reads a launch record and enqueues it on a launch queue. -/
  | lnch (queue : BitVec 3) (ra : XReg) (rd : XReg)
  /-- SLAVE (R338). Makes the level follow the fetch stream of a leader core. -/
  | slave (leader : BitVec 3)
  /-- LD (R343). Loads 8 bytes with the given kind, scope and rope. -/
  | ld (rsel : Bool) (sc : Scope) (kind : Kind) (off : BitVec 5) (ra : XReg) (rd : XReg)
  /-- ST (R343). Stores 8 bytes with the given kind, scope and rope. -/
  | st (rsel : Bool) (sc : Scope) (kind : Kind) (off : BitVec 5) (ra : XReg) (rs : XReg)
  /-- LDX (R345). Loads 1 to 8 bytes at ra plus a scaled index, sign- or zero-extended. -/
  | ldx (rsel : Bool) (ord : Ord) (zx : Bool) (size : Size) (rb : XReg) (ra : XReg) (rd : XReg)
  /-- STX (R345). Stores 1 to 8 bytes at ra plus a scaled index. -/
  | stx (rsel : Bool) (ord : Ord) (size : Size) (rb : XReg) (ra : XReg) (rs : XReg)
  /-- LDFE_FF (R346). Waits for the word's bit full, reads it and leaves it full. -/
  | ldfeFf (rsel : Bool) (sc : Scope) (kind : Kind) (ra : XReg) (rd : XReg)
  /-- LDFE_FE (R346). Waits for the word's bit full, reads it and sets it empty. -/
  | ldfeFe (rsel : Bool) (sc : Scope) (kind : Kind) (ra : XReg) (rd : XReg)
  /-- STFE_EF (R346). Waits for the word's bit empty, writes it and sets it full. -/
  | stfeEf (rsel : Bool) (sc : Scope) (kind : Kind) (ra : XReg) (rs : XReg)
  /-- STFE_XF (R346). Writes the word and sets its bit full. -/
  | stfeXf (rsel : Bool) (sc : Scope) (kind : Kind) (ra : XReg) (rs : XReg)
  /-- FEQ (R346). Reads the word's full/empty bit without waiting or changing it. -/
  | feq (rsel : Bool) (sc : Scope) (kind : Kind) (ra : XReg) (rd : XReg)
  /-- AMO_ADD (R349). Atomically adds rd to the word and returns the old value. -/
  | amoAdd (rsel : Bool) (sc : Scope) (kind : Kind) (ra : XReg) (rd : XReg)
  /-- AMO_AND (R349). Atomic AND returning the old value. -/
  | amoAnd (rsel : Bool) (sc : Scope) (kind : Kind) (ra : XReg) (rd : XReg)
  /-- AMO_OR (R349). Atomic OR returning the old value. -/
  | amoOr (rsel : Bool) (sc : Scope) (kind : Kind) (ra : XReg) (rd : XReg)
  /-- AMO_XOR (R349). Atomic XOR returning the old value. -/
  | amoXor (rsel : Bool) (sc : Scope) (kind : Kind) (ra : XReg) (rd : XReg)
  /-- AMO_MIN (R349). Atomic signed minimum returning the old value. -/
  | amoMin (rsel : Bool) (sc : Scope) (kind : Kind) (ra : XReg) (rd : XReg)
  /-- AMO_MAX (R349). Atomic signed maximum returning the old value. -/
  | amoMax (rsel : Bool) (sc : Scope) (kind : Kind) (ra : XReg) (rd : XReg)
  /-- AMO_MINN (R349). Atomic unsigned minimum returning the old value. -/
  | amoMinn (rsel : Bool) (sc : Scope) (kind : Kind) (ra : XReg) (rd : XReg)
  /-- AMO_MAXN (R349). Atomic unsigned maximum returning the old value. -/
  | amoMaxn (rsel : Bool) (sc : Scope) (kind : Kind) (ra : XReg) (rd : XReg)
  /-- AMO_SWAP (R349). Atomic swap returning the old value. -/
  | amoSwap (rsel : Bool) (sc : Scope) (kind : Kind) (ra : XReg) (rd : XReg)
  /-- AMO_CAS (R349). Atomic compare-and-swap with the compare value in rd and the new value in rd+1. -/
  | amoCas (rsel : Bool) (sc : Scope) (kind : Kind) (ra : XReg) (rd : XReg)
  /-- AMO_FADD_F32 (R349). Atomic FP32 add in RNE on 4 bytes, setting no flag. -/
  | amoFaddF32 (rsel : Bool) (sc : Scope) (kind : Kind) (ra : XReg) (rd : XReg)
  /-- AMO_FMAX_F32 (R349). Atomic FP32 maximum on 4 bytes. -/
  | amoFmaxF32 (rsel : Bool) (sc : Scope) (kind : Kind) (ra : XReg) (rd : XReg)
  /-- FENCE (R132). Orders the operations of every rope of the thread at a scope. -/
  | fence (sc : Scope)
  /-- FENCE_SC (R133). A fence that also joins the single total order of FENCE.SC. -/
  | fenceSc (sc : Scope)
  /-- FENCEF (R134). Stores a flag word in mode .xf only after every earlier operation of the rope has performed. -/
  | fencef (sc : Scope) (rope : RopeName) (ra : XReg) (rs : XReg)
  /-- ROPE_FORK (R125). Makes a new rope ordered after the source rope's earlier operations. -/
  | ropeFork (rpS : RopeName) (rpD : RopeName)
  /-- ROPE_JOIN (R125). Makes a new rope ordered after two ropes' earlier operations. -/
  | ropeJoin (rpA : RopeName) (rpD : RopeName) (rpB : RopeName)
  /-- ROPE_XFER (R127). Writes a handle naming the current point of a rope. -/
  | ropeXfer (rpS : RopeName) (rd : XReg)
  /-- ROPE_ADOPT (R128). Makes a new rope ordered after the operations a handle names, via a service request to the sender core. -/
  | ropeAdopt (rpD : RopeName) (rs : XReg)
  /-- ROPE_DROP (R126). Releases a rope name. -/
  | ropeDrop (rope : RopeName)
  /-- ROPE_WAIT (R165). Stalls until every operation issued on a rope has performed. -/
  | ropeWait (rope : RopeName)
  /-- SEND (R353). Sends a message with argument words to a core as a release at scope .y. -/
  | send (rope : RopeName) (ra : XReg)
  /-- SENDC (R353). Sends a message carrying code to a core. -/
  | sendc (rope : RopeName) (rb : XReg) (ra : XReg)
  /-- SPAWN (R354). Sends a child activation to a core and waits, running it inline on a decline. -/
  | spawn (rope : RopeName) (rb : XReg) (ra : XReg)
  /-- AREAD (R357). Reads memory asynchronously, landing the reply in scratchpad and starting a reply activation. -/
  | aread (rope : RopeName) (rb : XReg) (ra : XReg)
  /-- TBIND (R356). Binds a reply tag to a level and handler PC. -/
  | tbind (rb : XReg) (ra : XReg)
  /-- MCLD (R361). Requests lines from a home slice for multicast landing at the group's members. -/
  | mcld (rope : RopeName) (rb : XReg) (ra : XReg) (rc : XReg)
  /-- MCST (R360). Multicasts one 256-byte line from scratchpad to every member of a group. -/
  | mcst (rope : RopeName) (rb : XReg) (ra : XReg) (rc : XReg)
  /-- MCJOIN (R359). Writes a group table entry on the issuing chip from a memory image. -/
  | mcjoin (rb : XReg) (ra : XReg)
  /-- EVPOST (R179). Posts key, value and class to the key's home cairn store. -/
  | evpost (cls : BitVec 4) (rb : XReg) (ra : XReg) (rope : RopeName)
  /-- EVPOSTS (R185). Posts and waits for the acknowledgement, raising EV_NACK_STRICT on BUSY. -/
  | evposts (cls : BitVec 4) (rb : XReg) (ra : XReg) (rd : XReg)
  /-- EVCFG (R178). Writes a class descriptor to every store and core of the virtual device. -/
  | evcfg (cls : BitVec 4) (ra : XReg)
  /-- EVFLUSH (R194). Sets a flush mark on a class at every store. -/
  | evflush (cls : BitVec 4)
  /-- EVQUIET (R198). Waits until the quiescence detector reports quiet or a cycle bound passes. -/
  | evquiet (ra : XReg) (rd : XReg)
  /-- EVCOUNT (R195). Returns the pending entries and spill records of a class at the own store. -/
  | evcount (ra : XReg) (rd : XReg)
  /-- GJOIN (R226). Joins a group, or becomes a pending joiner during a barrier. -/
  | gjoin (group : BitVec 6)
  /-- GLEAVE (R226). Leaves a group, possibly completing a barrier. -/
  | gleave (group : BitVec 6)
  /-- GBAR (R226). Arrives at the group's barrier and waits for completion. -/
  | gbar (group : BitVec 6) (rd : XReg)
  /-- GCOUNT (R226). Returns the group's member count. -/
  | gcount (group : BitVec 6) (rd : XReg)
  /-- PREF (R367). Asks the home slice to hold a line. -/
  | pref (off : BitVec 5) (ra : XReg)
  /-- CFLUSH (R367). Writes a dirty line back from its home slice and drops the core's L1 copy. -/
  | cflush (off : BitVec 5) (ra : XReg)
  /-- CINV (R367). Drops the issuing core's L1 copy of a line. -/
  | cinv (off : BitVec 5) (ra : XReg)
  /-- TLBINV (R41). Invalidates the issuing core's TLB entries covering one page. -/
  | tlbinv (ra : XReg)
  /-- TLBINV_B (R39). Broadcasts invalidation of one page to every TLB and walk cache of the virtual device and waits for acknowledgement. -/
  | tlbinvB (ra : XReg)
  /-- VADD_F (R377). Lane-wise FP32 add. -/
  | vaddF (pg : PReg) (vb : VName) (va : VName) (vd : VName)
  /-- VSUB_F (R377). Lane-wise FP32 subtract. -/
  | vsubF (pg : PReg) (vb : VName) (va : VName) (vd : VName)
  /-- VMUL_F (R377). Lane-wise FP32 multiply. -/
  | vmulF (pg : PReg) (vb : VName) (va : VName) (vd : VName)
  /-- VFMA_F (R377). Lane-wise fused multiply-add into vd. -/
  | vfmaF (pg : PReg) (vb : VName) (va : VName) (vd : VName)
  /-- VFMS_F (R377). Lane-wise fused c minus a times b. -/
  | vfmsF (pg : PReg) (vb : VName) (va : VName) (vd : VName)
  /-- VMIN_F (R378). Lane-wise FP32 minimum. -/
  | vminF (pg : PReg) (vb : VName) (va : VName) (vd : VName)
  /-- VMAX_F (R378). Lane-wise FP32 maximum. -/
  | vmaxF (pg : PReg) (vb : VName) (va : VName) (vd : VName)
  /-- VADD_I (R377). Lane-wise integer add modulo 2^32. -/
  | vaddI (pg : PReg) (vb : VName) (va : VName) (vd : VName)
  /-- VSUB_I (R377). Lane-wise integer subtract modulo 2^32. -/
  | vsubI (pg : PReg) (vb : VName) (va : VName) (vd : VName)
  /-- VMUL_I (R377). Lane-wise integer multiply modulo 2^32. -/
  | vmulI (pg : PReg) (vb : VName) (va : VName) (vd : VName)
  /-- VMULH_I (R377). Lane-wise high half of the signed 64-bit product. -/
  | vmulhI (pg : PReg) (vb : VName) (va : VName) (vd : VName)
  /-- VMIN_I (R377). Lane-wise signed minimum. -/
  | vminI (pg : PReg) (vb : VName) (va : VName) (vd : VName)
  /-- VMAX_I (R377). Lane-wise signed maximum. -/
  | vmaxI (pg : PReg) (vb : VName) (va : VName) (vd : VName)
  /-- VMINN (R377). Lane-wise unsigned minimum. -/
  | vminn (pg : PReg) (vb : VName) (va : VName) (vd : VName)
  /-- VMAXN (R377). Lane-wise unsigned maximum. -/
  | vmaxn (pg : PReg) (vb : VName) (va : VName) (vd : VName)
  /-- VAND (R377). Lane-wise AND. -/
  | vand (pg : PReg) (vb : VName) (va : VName) (vd : VName)
  /-- VANDN (R377). Lane-wise a AND NOT b. -/
  | vandn (pg : PReg) (vb : VName) (va : VName) (vd : VName)
  /-- VOR (R377). Lane-wise OR. -/
  | vor (pg : PReg) (vb : VName) (va : VName) (vd : VName)
  /-- VXOR (R377). Lane-wise XOR. -/
  | vxor (pg : PReg) (vb : VName) (va : VName) (vd : VName)
  /-- VSHL (R377). Lane-wise left shift. -/
  | vshl (pg : PReg) (vb : VName) (va : VName) (vd : VName)
  /-- VSHR (R377). Lane-wise logical right shift. -/
  | vshr (pg : PReg) (vb : VName) (va : VName) (vd : VName)
  /-- VSRA (R377). Lane-wise arithmetic right shift. -/
  | vsra (pg : PReg) (vb : VName) (va : VName) (vd : VName)
  /-- VROT (R377). Lane-wise rotate left. -/
  | vrot (pg : PReg) (vb : VName) (va : VName) (vd : VName)
  /-- VSEL (R378). Selects va or vb per lane by the predicate, writing every lane. -/
  | vsel (pg : PReg) (vb : VName) (va : VName) (vd : VName)
  /-- VMAC_I (R377). Lane-wise integer multiply-accumulate. -/
  | vmacI (pg : PReg) (vb : VName) (va : VName) (vd : VName)
  /-- VCPY (R379). Copies lanes. -/
  | vcpy (pg : PReg) (va : VName) (vd : VName)
  /-- VNEG_F (R380). Inverts the sign bit of each lane. -/
  | vnegF (pg : PReg) (va : VName) (vd : VName)
  /-- VABS_F (R380). Clears the sign bit of each lane. -/
  | vabsF (pg : PReg) (va : VName) (vd : VName)
  /-- VSQRT_F (R380). Lane-wise rounded square root. -/
  | vsqrtF (pg : PReg) (va : VName) (vd : VName)
  /-- VNOT (R379). Lane-wise NOT. -/
  | vnot (pg : PReg) (va : VName) (vd : VName)
  /-- VNEG_I (R379). Lane-wise integer negation. -/
  | vnegI (pg : PReg) (va : VName) (vd : VName)
  /-- VABS_I (R380). Lane-wise integer absolute value. -/
  | vabsI (pg : PReg) (va : VName) (vd : VName)
  /-- VCLZ (R379). Lane-wise leading zero count. -/
  | vclz (pg : PReg) (va : VName) (vd : VName)
  /-- VPOPC (R379). Lane-wise population count. -/
  | vpopc (pg : PReg) (va : VName) (vd : VName)
  /-- VCVT_F_I (R379). Converts signed INT32 lanes to FP32. -/
  | vcvtFI (pg : PReg) (va : VName) (vd : VName)
  /-- VCVT_F_N (R379). Converts unsigned INT32 lanes to FP32. -/
  | vcvtFN (pg : PReg) (va : VName) (vd : VName)
  /-- VCVT_I_F (R379). Converts FP32 lanes to INT32 with saturation. -/
  | vcvtIF (pg : PReg) (va : VName) (vd : VName)
  /-- VNAR_BF16 (R380). Narrows lanes to BF16 values held as FP32. -/
  | vnarBf16 (pg : PReg) (va : VName) (vd : VName)
  /-- VNAR_FP16 (R380). Narrows lanes to FP16 values held as FP32. -/
  | vnarFp16 (pg : PReg) (va : VName) (vd : VName)
  /-- VNAR_E4M3 (R380). Narrows lanes to E4M3 values held as FP32. -/
  | vnarE4m3 (pg : PReg) (va : VName) (vd : VName)
  /-- VNAR_E5M2 (R380). Narrows lanes to E5M2 values held as FP32. -/
  | vnarE5m2 (pg : PReg) (va : VName) (vd : VName)
  /-- VNAR_E2M1 (R380). Narrows lanes to E2M1 values held as FP32. -/
  | vnarE2m1 (pg : PReg) (va : VName) (vd : VName)
  /-- VNAR_I8 (R380). Narrows lanes to INT8 values held as INT32. -/
  | vnarI8 (pg : PReg) (va : VName) (vd : VName)
  /-- VCMP_F_EQ (R381). Writes a predicate of FP32 equality. -/
  | vcmpFEq (pg : PReg) (vb : VName) (va : VName) (pd : PReg)
  /-- VCMP_F_NE (R381). Writes a predicate of FP32 inequality. -/
  | vcmpFNe (pg : PReg) (vb : VName) (va : VName) (pd : PReg)
  /-- VCMP_F_LT (R381). Writes a predicate of FP32 less-than. -/
  | vcmpFLt (pg : PReg) (vb : VName) (va : VName) (pd : PReg)
  /-- VCMP_F_LE (R381). Writes a predicate of FP32 less-or-equal. -/
  | vcmpFLe (pg : PReg) (vb : VName) (va : VName) (pd : PReg)
  /-- VCMP_F_UN (R381). Writes a predicate of unordered FP32 lanes. -/
  | vcmpFUn (pg : PReg) (vb : VName) (va : VName) (pd : PReg)
  /-- VCMP_I_EQ (R381). Writes a predicate of INT32 equality. -/
  | vcmpIEq (pg : PReg) (vb : VName) (va : VName) (pd : PReg)
  /-- VCMP_I_NE (R381). Writes a predicate of INT32 inequality. -/
  | vcmpINe (pg : PReg) (vb : VName) (va : VName) (pd : PReg)
  /-- VCMP_I_LT (R381). Writes a predicate of signed less-than. -/
  | vcmpILt (pg : PReg) (vb : VName) (va : VName) (pd : PReg)
  /-- VCMP_I_LE (R381). Writes a predicate of signed less-or-equal. -/
  | vcmpILe (pg : PReg) (vb : VName) (va : VName) (pd : PReg)
  /-- VCMP_I_LO (R381). Writes a predicate of unsigned less-than. -/
  | vcmpILo (pg : PReg) (vb : VName) (va : VName) (pd : PReg)
  /-- VCMP_I_LS (R381). Writes a predicate of unsigned less-or-equal. -/
  | vcmpILs (pg : PReg) (vb : VName) (va : VName) (pd : PReg)
  /-- VLD (R385). Loads 64 consecutive elements, converting the format. -/
  | vld (rsel : Bool) (ord : Ord) (pg : PReg) (ra : XReg) (vd : VName)
  /-- VST (R385). Stores 64 consecutive elements, converting the format. -/
  | vst (rsel : Bool) (ord : Ord) (pg : PReg) (ra : XReg) (vd : VName)
  /-- VLD_LS (R386). Loads 4 bytes per lane from each lane's private slice. -/
  | vldLs (pg : PReg) (va : VName) (vd : VName)
  /-- VST_LS (R386). Stores 4 bytes per lane into each lane's private slice. -/
  | vstLs (pg : PReg) (va : VName) (vd : VName)
  /-- VGATH (R387). Gathers one element per lane by signed index. -/
  | vgath (rsel : Bool) (pg : PReg) (vb : VName) (ra : XReg) (vd : VName)
  /-- VSCAT (R387). Scatters one element per lane by signed index. -/
  | vscat (rsel : Bool) (pg : PReg) (vb : VName) (ra : XReg) (vd : VName)
  /-- TMLD (R389). Reads a 64-byte tensor map descriptor into a tensor map register. -/
  | tmld (ra : XReg) (tm : TMap)
  /-- SOPEN (R392). Opens a vector register as a stream on a copy of a tensor map, forking a private rope. -/
  | sopen (rope : RopeName) (tm : TMap) (vs : BitVec 2)
  /-- SCLOSE (R392). Closes a stream, waiting for pushed stores of a write stream. -/
  | sclose (vs : BitVec 2)
  /-- SSTAT (R389). Returns the state of a stream register. -/
  | sstat (rd : XReg) (vs : BitVec 2)
  /-- PAND (R382). Predicate AND. -/
  | pand (pb : PReg) (pa : PReg) (pd : PReg)
  /-- POR (R382). Predicate OR. -/
  | por (pb : PReg) (pa : PReg) (pd : PReg)
  /-- PXOR (R382). Predicate XOR. -/
  | pxor (pb : PReg) (pa : PReg) (pd : PReg)
  /-- PNOT (R382). Predicate NOT. -/
  | pnot (pa : PReg) (pd : PReg)
  /-- PCNT (R382). Counts the set bits of a predicate. -/
  | pcnt (rd : XReg) (pa : PReg)
  /-- PFIRST (R382). Returns the index of a predicate's lowest set bit. -/
  | pfirst (rd : XReg) (pa : PReg)
  /-- PSET (R382). Writes a scalar register into a predicate. -/
  | pset (rs : XReg) (pd : PReg)
  /-- PGET_PREDICATE (R382). Reads a predicate into a scalar register. -/
  | pgetPredicate (rd : XReg) (pa : PReg)
  /-- VRADD_F (R394). Reduces active lanes by FP32 addition through the fixed tree in RNE. -/
  | vraddF (pg : PReg) (va : VName) (rd : XReg)
  /-- VRMAX_F (R394). Reduces active lanes by FP32 maximum. -/
  | vrmaxF (pg : PReg) (va : VName) (rd : XReg)
  /-- VRMIN_F (R394). Reduces active lanes by FP32 minimum. -/
  | vrminF (pg : PReg) (va : VName) (rd : XReg)
  /-- VRADD_I (R394). Reduces active lanes by integer addition. -/
  | vraddI (pg : PReg) (va : VName) (rd : XReg)
  /-- VRMAX_I (R394). Reduces active lanes by signed maximum. -/
  | vrmaxI (pg : PReg) (va : VName) (rd : XReg)
  /-- VRMIN_I (R394). Reduces active lanes by signed minimum. -/
  | vrminI (pg : PReg) (va : VName) (rd : XReg)
  /-- VRAND (R394). Reduces active lanes by AND. -/
  | vrand (pg : PReg) (va : VName) (rd : XReg)
  /-- VROR (R394). Reduces active lanes by OR. -/
  | vror (pg : PReg) (va : VName) (rd : XReg)
  /-- VRXOR (R394). Reduces active lanes by XOR. -/
  | vrxor (pg : PReg) (va : VName) (rd : XReg)
  /-- VBCAST (R395). Broadcasts the low 32 bits of a scalar register to every lane. -/
  | vbcast (rs : XReg) (vd : VName)
  /-- VEXT (R395). Extracts one lane into a scalar register. -/
  | vext (lane : BitVec 6) (va : VName) (rd : XReg)
  /-- VINS (R395). Inserts a scalar into one lane. -/
  | vins (lane : BitVec 6) (rs : XReg) (vd : VName)
  /-- VPERM (R395). Permutes lanes by indices in vb. -/
  | vperm (vb : VName) (va : VName) (vd : VName)
  /-- VSLIDE_UP (R395). Slides lanes up by n, filling zeros. -/
  | vslideUp (lane : BitVec 6) (va : VName) (vd : VName)
  /-- VSLIDE_DN (R395). Slides lanes down by n, filling zeros. -/
  | vslideDn (lane : BitVec 6) (va : VName) (vd : VName)
  /-- VIOTA (R395). Writes each lane's index. -/
  | viota (vd : VName)
  /-- VFEXP2 (R397). Computes 2^a correctly rounded for a in [-1, 1]. -/
  | vfexp2 (pg : PReg) (va : VName) (vd : VName)
  /-- VRINT (R398). Rounds lanes to integer values in the captured mode. -/
  | vrint (pg : PReg) (va : VName) (vd : VName)
  /-- VEXPI (R399). Scales the old vd lane by 2^n with one rounding. -/
  | vexpi (pg : PReg) (va : VName) (vd : VName)
  /-- VEXPX (R400). Extracts the binary exponent of each lane as INT32. -/
  | vexpx (pg : PReg) (va : VName) (vd : VName)
  /-- VRCP (R401). Reciprocal estimate with 9 significant bits from a defined table. -/
  | vrcp (pg : PReg) (va : VName) (vd : VName)
  /-- VRSQ (R402). Reciprocal square-root estimate with 9 significant bits. -/
  | vrsq (pg : PReg) (va : VName) (vd : VName)
  /-- MXQ (R424). Pushes a matrix command record from vector lanes as a release at scope .c. -/
  | mxq (vs : VName) (rd : XReg)
  /-- MXWAIT (R425). Waits until RETIRED reaches a command number, then acquires. -/
  | mxwait (ra : XReg)
  /-- MXSTAT (R426). Samples the matrix unit's state. -/
  | mxstat (rd : XReg)
  /-- MXSTAT_C (R426). Samples the matrix unit's state and clears FLT and the flags. -/
  | mxstatC (rd : XReg)
  /-- RACK_TAKE (R235). Borrows rack sets from the pool, queueing in FIFO order. -/
  | rackTake (n : BitVec 4)
  /-- RACK_GIVE (R429). Returns borrowed rack sets to the pool after outstanding writes land. -/
  | rackGive (n : BitVec 4)
  /-- RACK_QRY (R430). Returns the level's rack holding and the free pool. -/
  | rackQry (rd : XReg)
  /-- C_MV (R275). Compact register move. -/
  | cMv (b : BitVec 4) (a : BitVec 4)
  /-- C_ADD (R275). Compact add into rd. -/
  | cAdd (b : BitVec 4) (a : BitVec 4)
  /-- C_SUB (R275). Compact subtract from rd. -/
  | cSub (b : BitVec 4) (a : BitVec 4)
  /-- C_ADDI (R275). Compact add of a 4-bit immediate. -/
  | cAddi (imm : BitVec 4) (a : BitVec 4)
  /-- C_LI (R275). Compact load of a 4-bit immediate. -/
  | cLi (imm : BitVec 4) (a : BitVec 4)
  /-- C_LD (R275). Compact weak 8-byte load on rp0. -/
  | cLd (b : BitVec 4) (a : BitVec 4)
  /-- C_ST (R275). Compact weak 8-byte store on rp0. -/
  | cSt (b : BitVec 4) (a : BitVec 4)
  /-- C_AND (R275). Compact AND into rd. -/
  | cAnd (b : BitVec 4) (a : BitVec 4)
  /-- C_OR (R275). Compact OR into rd. -/
  | cOr (b : BitVec 4) (a : BitVec 4)
  /-- C_SHLI (R275). Compact left shift by an immediate. -/
  | cShli (imm : BitVec 4) (a : BitVec 4)
  /-- C_SHRI (R275). Compact logical right shift by an immediate. -/
  | cShri (imm : BitVec 4) (a : BitVec 4)
  /-- C_BNZ (R275). Compact branch when ra is non-zero. -/
  | cBnz (off : BitVec 4) (a : BitVec 4)
  /-- C_J (R275). Compact jump by an 8-bit parcel offset. -/
  | cJ (off : BitVec 8)
  /-- ROPE_PREFIX (R274). Names the rope of the following format-M word, issuing with it as one instruction. -/
  | ropePrefix (rope : RopeName)
  /-- NOP (R326). Does nothing. -/
  | nop
  /-- HINT_YIELD (R326). Makes the level not ready in the cycle after issue. -/
  | hintYield
  /-- HINT_ALIGN (R224). Waits up to 64 cycles for detached followers to reach the leader's PC. -/
  | hintAlign
  /-- DONE (R215). Ends the activation or returns from an inline child. -/
  | done_
  /-- TRET (R436). Ends a trap-forward activation and resumes the trapped level at L3's TRAPPC. -/
  | tret
  /-- UNSLAVE (R339). Ends follower mode at the level. -/
  | unslave
  /-- TLBINV_ALL (R41). Invalidates all of the virtual device's entries in the issuing core's TLB. -/
  | tlbinvAll
  /-- TLBINV_B_ALL (R39). Broadcasts invalidation of all the virtual device's entries and waits for acknowledgement. -/
  | tlbinvBAll
  /-- C_DONE (R275). Compact DONE. -/
  | cDone
  /-- C_YIELD (R275). Compact HINT.YIELD. -/
  | cYield
  /-- PERFORM (R117). An access arriving at its owner performs in one indivisible step, or waits in the retry list, or is refused. Reads id (packet). -/
  | perform
  /-- RETRY_LIST_SERVICE (R71). The owner serves the oldest waiting full/empty entry whose condition holds, one per cycle. Reads addr (word). -/
  | retryListService
  /-- NACK_RESEND (R72). A refused request is re-sent after its doubling backoff expires. Reads id (packet). -/
  | nackResend
  /-- WITHDRAWAL (R73). A withdrawal reaches a word's owner, which removes the waiting entry or answers that it found none. Reads id (packet). -/
  | withdrawal
  /-- WATCHDOG (R206). An activation's watchdog count reaches LIMIT and ends it with WATCHDOG or FE_TIMEOUT. Reads chip, node, slot; lev. -/
  | watchdog
  /-- STORE_BUFFER_DRAIN (R58). A store-buffer entry leaves for its destination and updates any L1 copy. Reads chip, node, slot; id (operation). -/
  | storeBufferDrain
  /-- RESPONSE (R105). A response reaches the source, ending the request or raising the status as a cause, possibly late. Reads id (packet). -/
  | response
  /-- ROUTE_FLIT (R88). A router orders its arriving flits and sends each to an ejection, productive or deflection port. Reads chip, node; plane. -/
  | routeFlit
  /-- INJECT_FLIT (R92). A node injects a ready flit into a free output port. Reads chip, node; plane. -/
  | injectFlit
  /-- LINK_RECEIVE (R96). A scale-up receiver accepts an in-sequence flit into the chip-edge router or refuses it for replay. Reads chip, port; plane. -/
  | linkReceive
  /-- LINK_REPLAY (R95). A port replays flits from its replay store from the first missing sequence number. Reads chip, port; plane. -/
  | linkReplay
  /-- LINK_ACKNOWLEDGE (R95). A receiver's acknowledgement frees replay-store copies at the sender. Reads chip, port; plane. -/
  | linkAcknowledge
  /-- LANE_FAILURE (R94). A scale-up lane fails and is replaced by the spare through retraining or lowers the port. Reads chip, port; lane. -/
  | laneFailure
  /-- RETRAINING_END (R97). A port returns to service after retraining and replays unacknowledged flits. Reads chip, port. -/
  | retrainingEnd
  /-- PORT_OUT_OF_SERVICE (R97). A port fails to return within 1 ms and is reported; its replay stores leave by the other port. Reads chip, port. -/
  | portOutOfService
  /-- REASSEMBLY (R98). A flit of a multi-flit message takes or joins a reassembly slot, and the complete message is handed to its unit. Reads chip, node; id (flit). -/
  | reassembly
  /-- MESSAGE_ARRIVAL (R212). A message reaches a core and takes a thread slot as pending or is answered BUSY or ACCESS. Reads id (packet). -/
  | messageArrival
  /-- DISPATCH_ENTRY_FILL (R210). A dispatch-table entry read for an uncached type completes and fills the core's cache. Reads chip, node, slot; ty. -/
  | dispatchEntryFill
  /-- ACTIVATION_START (R214). The oldest pending slot starts when its level has no running activation. Reads chip, node, slot; lev. -/
  | activationStart
  /-- EVENT_DELIVERY (R213). A claimed event message reaches its reserved slot over the cluster crossbar. Reads chip, node, slot; index (thread slot). -/
  | eventDelivery
  /-- TABLE_WALK (R33). A walker completes a two-stage walk, filling TLBs, denying, or sending a page request. Reads id (walk); flag (from the walk cache). -/
  | tableWalk
  /-- PAGE_ANSWER (R34). The page service answers RETRY or DENY to every access waiting on a page request. Reads vd; index (stage); addr (page); flag (denied). -/
  | pageAnswer
  /-- TLB_INVALIDATION_ACK (R39). A cluster acknowledges a broadcast invalidation once its translated accesses have performed. Reads chip, node; id (invalidation). -/
  | tlbInvalidationAck
  /-- CPGO_READ (R371). A read of CPGO snapshots the shadows and queues a copy transfer as a release. Reads reg. -/
  | cpgoRead
  /-- COPY_SECTOR (R372). A copy channel performs one 512-byte sector, parking on a miss and advancing CPDONE at transfer end. Reads chip, node, slot. -/
  | copySector
  /-- MMA (R418). The sequencer starts an MMA that adds A times the latch into an accumulator. Reads chip, node, slot. -/
  | mma
  /-- LDB (R420). The sequencer loads or opens a B latch, dequantising to BF16. Reads chip, node, slot. -/
  | ldb
  /-- ROTB (R421). The sequencer sends a latch over the ring into the next core's latch. Reads chip, node, slot. -/
  | rotb
  /-- STC (R422). The sequencer drains an accumulator to scratchpad with format conversion. Reads chip, node, slot. -/
  | stc
  /-- ZC (R422). The sequencer zeroes an accumulator. Reads chip, node, slot. -/
  | zc
  /-- MNOTE (R422). The sequencer writes a value to a mailbox as a release. Reads chip, node, slot. -/
  | mnote
  /-- MFEN (R412). The sequencer orders later commands after earlier commands' memory effects. Reads chip, node, slot. -/
  | mfen
  /-- RING_TRANSFER_END (R421). A ring transfer ends, making the destination latch LOADED. Reads chip, node, slot. -/
  | ringTransferEnd
  /-- COMMAND_RETIRE (R414). A matrix command retires in order, incrementing RETIRED as a release and setting FLAGS. Reads chip, node, slot. -/
  | commandRetire
  /-- MATRIX_COMMAND_DISCARD (R427). A command waiting LIMIT cycles at the head is discarded with every later command. Reads chip, node, slot. -/
  | matrixCommandDiscard
  /-- GOVERNOR_WINDOW (R259). A 64-cycle governor window ends and the cluster's MMA start count resets. Reads chip, node. -/
  | governorWindow
  /-- MAILBOX_LANDING (R307). An asynchronous mailbox write lands from the landing queue at the end of a cycle. Reads chip, node, slot; index (mailbox). -/
  | mailboxLanding
  /-- RACK_GRANT (R235). The head TAKE of the rack queue is granted when enough sets are free. Reads chip, node, slot. -/
  | rackGrant
  /-- SLEEP_END (R334). A SLEEP's cycle count expires and its level becomes ready. Reads chip, node, slot; lev. -/
  | sleepEnd
  /-- ADOPT_SERVICE (R128). An ADOPT service request reaches the core named by the handle. Reads id (packet). -/
  | adoptService
  /-- ADOPT_ANSWER (R128). The sequencer answers an ADOPT once the rope's settled count passes the handle's point. Reads id (packet). -/
  | adoptAnswer
  /-- FENCEF_MARKER (R135). A counted FENCEF marker reaches the flag's node, which performs the flag once the counted writes have performed. Reads id (packet). -/
  | fencefMarker
  /-- AREAD_REPLY (R357). An AREAD reply writes its landing and makes a type 0x02 activation pending. Reads id (packet). -/
  | areadReply
  /-- POST (R181). The bank port handles an arriving post by folding, creating, spilling or refusing it. Reads id (packet). -/
  | post
  /-- CLAIM (R187). The store selects an eligible entry, removes it and sends its event to a reserved slot. Reads chip, node. -/
  | claim
  /-- REFILL (R193). The store moves the head spill record of a ring into a pending entry. Reads chip, node. -/
  | refill
  /-- POST_SEND (R180). A core sends a buffered post once no earlier post of its level to the key is unacknowledged. Reads chip, node, slot; id (post). -/
  | postSend
  /-- POST_ACK (R183). A post acknowledgement reaches the core, freeing the buffer entry or scheduling a re-send. Reads id (packet). -/
  | postAck
  /-- QUIESCENCE_SWEEP (R197). A detector sweep returns to the root and reports quiet after two unchanged quiet sweeps. Reads vd. -/
  | quiescenceSweep
  /-- ENQUEUE (R240). A host enqueue places a launch record on a queue and returns its ID or 0. Reads chip; conn; seq; vd; port; op; addr (queue); words (record). -/
  | hostEnqueue
  /-- LAUNCH_START (R242). The launch unit starts the highest-priority ready record, checking it. Reads vd. -/
  | launchStart
  /-- ENTRY_PRESENTATION (R247). The launch unit presents an entry activation to a core with a free slot at the level. Reads vd; index (active core). -/
  | entryPresentation
  /-- LAUNCH_COMPLETION (R248). A launch completes once its activations and operations have ended, writing status and advancing LWMARK and HEAD. Reads vd; id (launch). -/
  | launchCompletion
  /-- QUANTUM_EXPIRY (R254). The running virtual device's quantum expires and another runnable one is due. Reads vd. -/
  | quantumExpiry
  /-- RESUME (R445). A saved virtual device is restored onto its block and resumed. Reads vd. -/
  | resume
  /-- CORE_REPAIR (R442). A supervisor returns, spares or loses a stopped core. Reads chip, node, slot; flag (self-test passes). -/
  | coreRepair
  /-- MULTICAST_STORE_LANDING (R109). A member unit translates and writes a multicast line, answering OK or DENIED. Reads id (packet). -/
  | multicastStoreLanding
  /-- COMBINED_ACK (R110). A multicast response reaches a combining register, which sends one combined acknowledgement upstream when complete. Reads id (packet). -/
  | combinedAck
  /-- MCLD_REQUEST (R112). An MCLD request reaches the home slice and opens or merges into the group's merge entry. Reads id (packet). -/
  | mcldRequest
  /-- MCLD_LINE_SEND (R487). The home slice reads and sends one line as a multicast flit or as a unicast. Reads chip, node; index (group). -/
  | mcldLineSend
  /-- MCLD_LINE_ARRIVAL (R488). A multicast line reaches a core, landing for its registration or being discarded. Reads id (packet). -/
  | mcldLineArrival
  /-- MERGE_REPORT (R489). A merge entry ends and its combined acknowledgement goes to member 0. Reads chip, node; index (group). -/
  | mergeReport
  /-- LINE_CLEAR (R75). A memory controller clears a marked line in the background under the current owner's key. Reads addr (line). -/
  | lineClear
  /-- BUDGET_WINDOW (R453). A 4,096-cycle bandwidth window ends and held requests proceed. Reads chip. -/
  | budgetWindow
  /-- ROW_THROTTLE_EVENT (R454). A row tracker reaches RHTH, refreshing neighbours and parking the tenant's requests. Reads chip, stack, pc, bank; row; vd. -/
  | rowThrottleEvent
  /-- THROTTLE_END (R454). The 2,048-cycle throttle period ends and the side queue drains. Reads chip, stack, pc, bank; vd. -/
  | throttleEnd
  /-- INJECTION_CAP_WINDOW (R262). A 64-cycle injection cap window ends and the flit count resets. Reads chip, node. -/
  | injectionCapWindow
  /-- POWER_SAMPLE (R483). Supervisors measure module power and lower or restore caps. Reads chip; value (watts). -/
  | powerSample
  /-- COOLANT_TRIP (R483). The coolant temperature passes its trip and governor caps are held at 1. Reads chip. -/
  | coolantTrip
  /-- PSEUDO_CHANNEL_REPAIR (R460). A failing pseudo-channel is copied to the spare and remapped, or reported. Reads chip; stack; pc. -/
  | pseudoChannelRepair
  /-- SUPERVISOR_FAILOVER (R460). A spare supervisor core takes over from one that stopped responding. Reads chip; index (supervisor). -/
  | supervisorFailover
  /-- SPLIT (R449). Splits a free buddy block into two free halves. Reads chip. -/
  | partSplit
  /-- MERGE (R449). Merges a split block whose halves are free. Reads chip. -/
  | partMerge
  /-- CREATE (R451). Creates a virtual device on a block from its creation descriptor. Reads chip. -/
  | vdCreate
  /-- DESTROY (R449). Resets and clears a virtual device and frees its block when empty. Reads chip. -/
  | vdDestroy
  /-- S2INV_PAGE (R42). Invalidates stage-2 translations of one IPA page on the chip. Reads chip; vd; addr (page). -/
  | s2invPage
  /-- S2INV_ALL (R42). Invalidates every stage-2 translation of a virtual device on the chip. Reads chip; vd. -/
  | s2invAll
  /-- RTSWAP (R102). Swaps the shadow routing table into every router of the chip. Reads chip. -/
  | rtswap
  /-- PAGEANS_RETRY (R466). The hypervisor answers a stage-2 page request with RETRY. Reads chip; vd; addr (page). -/
  | pageansRetry
  /-- PAGEANS_DENY (R466). The hypervisor answers a stage-2 page request with DENY. Reads chip; vd; addr (page). -/
  | pageansDeny
  /-- RESET (R446). Resets a virtual device over its reset scope in five steps. Reads chip; index (slot). -/
  | vdReset
  /-- BIVOUAC (R461). Freezes a running virtual device into bivouac for its wake class. Reads chip; index (slot). -/
  | vdBivouac
  /-- THAW (R443). Thaws a frozen master, resetting its levels, slots, queue and channel. Reads chip; index (slot). -/
  | vdThaw
  /-- DISPINIT (R470). Loads a dispatch base into every core of the virtual device on the chip. Reads chip; index (slot); words (value). -/
  | dispinit
  /-- GROUP_TABLE_WRITE (R465). A hypervisor write of a group entry's word 0 makes routers derive the tree anew. Reads chip; index (group); words (value). -/
  | groupTableWrite
  /-- SUPERVISOR_REGISTER_WRITE (R466). A write to a supervisor-space register without its own row. Reads chip; addr (offset); value (size); words (value). -/
  | supervisorRegisterWrite
  /-- DISPBASE_WRITE (R210). Writing DISPBASE empties the dispatch cache and loads entries 0x00 to 0x1F. Reads reg. -/
  | dispbaseWrite
  /-- TAGBASE_WRITE (R355). Writing TAGBASE loads all 64 reply-tag entries. Reads reg. -/
  | tagbaseWrite
  /-- RACKFLOOR_WRITE (R233). Writing RACKFLOOR sets the level floors, subject to its conditions. Reads reg. -/
  | rackfloorWrite
  /-- FCR_WRITE (R297). Writing FCR waits for earlier flags, then sets modes and flags. Reads reg. -/
  | fcrWrite
  /-- MXGOV_WRITE (R259). Writing MXGOV sets the cluster's governor BUDGET. Reads reg. -/
  | mxgovWrite
  /-- CONTROL_REGISTER_WRITE (R331). A write to a control register without its own row, including clear-on-write counters. Reads cr; reg. -/
  | controlRegisterWrite
  /-- WRITE (R477). Host request writing payload bytes into a virtual device's mapped space. Reads chip; conn; seq; vd; port; op; addr; bytes. -/
  | hostWrite
  /-- READ (R477). Host request reading bytes of mapped space as strong loads. Reads chip; conn; seq; vd; port; op; addr; value (length). -/
  | hostRead
  /-- WAKE (R477). Host request writing 1 to a virtual device's wake register. Reads chip; conn; seq; vd; port; op; addr. -/
  | hostWake
  /-- SUPERVISOR_SPACE_READ (R478). MGMT request reading supervisor space. Reads chip; conn; seq; vd; port; op; addr; words (command word). -/
  | supervisorSpaceRead
  /-- SUPERVISOR_SPACE_WRITE (R478). MGMT request writing supervisor space. Reads chip; conn; seq; vd; port; op; addr; words (command word, data). -/
  | supervisorSpaceWrite
  /-- GET_VERSION (R457). SPDM request for supported versions. Reads chip; conn; seq; vd; port; op; addr; words (command word). -/
  | getVersion
  /-- GET_CAPABILITIES (R457). SPDM request for capabilities. Reads chip; conn; seq; vd; port; op; addr; words (command word). -/
  | getCapabilities
  /-- NEGOTIATE_ALGORITHMS (R457). SPDM request negotiating algorithms. Reads chip; conn; seq; vd; port; op; addr; words (command word). -/
  | negotiateAlgorithms
  /-- GET_DIGESTS (R457). SPDM request for certificate digests. Reads chip; conn; seq; vd; port; op; addr; words (command word). -/
  | getDigests
  /-- GET_CERTIFICATE (R457). SPDM request for a certificate. Reads chip; conn; seq; vd; port; op; addr; words (command word). -/
  | getCertificate
  /-- CHALLENGE (R457). SPDM challenge of the responder. Reads chip; conn; seq; vd; port; op; addr; words (command word). -/
  | challenge
  /-- GET_MEASUREMENTS (R457). SPDM request for the measurement blocks. Reads chip; conn; seq; vd; port; op; addr; words (command word); index. -/
  | getMeasurements
  /-- KEY_EXCHANGE (R457). SPDM ECDHE key exchange. Reads chip; conn; seq; vd; port; op; addr; words (command word). -/
  | keyExchange
  /-- FINISH (R457). SPDM request finishing session establishment. Reads chip; conn; seq; vd; port; op; addr; words (command word); flag (accepted). -/
  | finish
  /-- END_SESSION (R457). SPDM request ending a session. Reads chip; conn; seq; vd; port; op; addr; words (command word). -/
  | endSession
  /-- KEY_INSTALL (R457). Vendor-defined request installing a virtual device's key inside an accepted session. Reads chip; conn; seq; vd; port; op; addr; words (command word); index (VDID). -/
  | keyInstall
  /-- ENTER_ON (R482). Power command entering ON from STANDBY and retraining links. Reads chip; conn; seq; vd; port; op; addr; words (command word). -/
  | enterOn
  /-- ENTER_STANDBY (R482). Power command entering STANDBY when every virtual device is in bivouac or destroyed. Reads chip; conn; seq; vd; port; op; addr; words (command word). -/
  | enterStandby
  /-- ENTER_OFF (R482). Power command entering OFF from STANDBY. Reads chip; conn; seq; vd; port; op; addr; words (command word). -/
  | enterOff
  /-- SET_MODULE_CAP (R483). Power command setting the module power cap. Reads chip; conn; seq; vd; port; op; addr; words (command word). -/
  | setModuleCap
  /-- POWER_ON (R480). Power-on boots the package from signed firmware and rests it in STANDBY. Reads chip; words (supervisors that fail the self-test). -/
  | powerOn
  /-- BELAY_READ (R474). A supervisor's belay READ reaches a stop, which answers it. Reads chip; id (message). -/
  | belayRead
  /-- BELAY_WRITE (R474). A supervisor's belay WRITE reaches a stop, which performs and answers it. Reads chip; id (message). -/
  | belayWrite
  /-- BELAY_ANSWER (R474). A belay ANSWER reaches the supervisor that asked. Reads chip; id (message). -/
  | belayAnswer
  /-- BELAY_EVENT (R474). A belay EVENT reaches the lead supervisor, which writes an event-ring entry. Reads chip; id (message). -/
  | belayEvent
  /-- ILLEGAL_ENCODING (R277). An issued pattern that is no instruction (parcel 0x0000, a reserved major, an unassigned fn or a broken must-be-zero field) raises ILLEGAL before any effect. Reads code. -/
  | illegalEncoding
  /-- INSTRUCTION_FETCH_FAULT (R263). A fetch whose parcel fails translation or X permission, or lies past the end of inbox code, raises its cause and no part of the word executes. -/
  | instructionFetchFault
  /-- EVQUIET_TIMEOUT (R198). The cycle bound of a waiting EVQUIET runs out before quiet is reported, and it writes 0. Reads chip, node, slot; lev. -/
  | evquietTimeout
  /-- ALIGN_TIMEOUT (R224). The 64-cycle wait of HINT.ALIGN ends without the followers arriving, and the leader's level issues on. Reads chip, node, slot; lev. -/
  | alignTimeout
  /-- RESET_DRAIN_END (R446). The drain wait of 4,096 + 1,024 × H cycles ends, and the reset proceeds to the collectives and clearing steps. Reads vd. -/
  | resetDrainEnd
  /-- CONTEXT_SAVE_END (R255). The context transfer of pre-emption step 6 completes, and the virtual device stops running on its block. Reads vd. -/
  | contextSaveEnd
  /-- BIVOUAC_ENTERED (R461). The last entry step of bivouac ends, and the residency state moves from ENTERING to BIVOUAC. Reads vd. -/
  | bivouacEntered
  /-- WAKE_END (R462). The wake finishes restoring the entry steps in reverse, and the virtual device becomes runnable, leaving WAKING. Reads vd. -/
  | wakeEnd
  /-- REFRESH_WINDOW (R454). A stack's refresh window ends, and the activation trackers and event counts start anew. Reads chip; stack. -/
  | refreshWindow
  /-- SOFT_ERROR (R65). A bit error strikes a stored word, leaving it correctable or uncorrectable until an access reads or overwrites it. Reads addr (word); flag (correctable). -/
  | softError
  /-- CORE_MAP_REWRITE (R21). After a Spare repair's copy ends, the supervisor rewrites the core map, so accesses issued after it reach the spare slot. Reads chip, node, slot. -/
  | coreMapRewrite
  /-- PSEUDO_CHANNEL_REMAP (R460). The line-by-line copy of a failing pseudo-channel to the spare ends, and the channel is remapped. Reads chip; stack; pc. -/
  | pseudoChannelRemap
  /-- RECOVERY_IMAGE_WRITE (R480). In recovery, an image received through MGMT is verified and written to a flash slot. Reads chip; conn; seq; vd; port; op; addr; index (slot); image. -/
  | recoveryImageWrite
  deriving DecidableEq, Repr

end Sys2Proof
end

