-- ==== Sys2Proof/WellFormed.lean ====
section
/-! DEFINITION. Which instruction terms stand for something: operand combinations the encoding rules refuse as
instructions (R115, R277, R285, R344, R346), and what an event may name. -/

namespace Sys2Proof

/-- The control registers that R285 assigns. -/
def crNumbers : List Nat :=
  [0x000, 0x001, 0x002, 0x003, 0x004, 0x005, 0x006, 0x007, 0x008, 0x009, 0x010, 0x011, 0x012, 0x013, 0x014, 0x015,
   0x020, 0x021, 0x022, 0x023, 0x024, 0x025, 0x026, 0x027, 0x028, 0x029, 0x02A, 0x02B, 0x02C, 0x040, 0x041, 0x042,
   0x043, 0x044, 0x050, 0x051, 0x052, 0x053, 0x060, 0x061, 0x062, 0x063, 0x064]

/-- A control register number that R285 assigns. -/
def crAssigned (n : Nat) : Bool := crNumbers.contains n

/-- A kind the class admits, with scope 0b000 for a weak access (R115). -/
def kindOk (sc : Scope) (kind : Kind) (admits : List Kind) : Bool :=
  admits.contains kind && (kind != .w || sc == .c)

/-- The units an event names exist: 512 chips of 1,024 nodes (R78, R80), slots 0 to 8 of a node (R83), twelve ports of
nine lanes (R80, R94), 16-bit VDIDs (R451). -/
def Arg.ok (a : Arg) : Bool :=
  decide (a.chip < 512 ∧ a.node < 1024 ∧ a.slot < 9 ∧ a.port < 12 ∧ a.lane < 9 ∧ a.vd < 65536)

/-- The instruction terms that stand for an instruction or event. C.MV x0, x0 is one, though the parcel 0x0000 is not
(R275): the decoder refuses that parcel whole. -/
def Instr.wellFormed (i : Instr) : Bool :=
  match i with
  | .padd _ _ _ => true
  | .psub _ _ _ => true
  | .ptag _ _ _ => true
  | .pget _ _ => true
  | .pstrip _ _ => true
  | .add _ _ _ => true
  | .sub _ _ _ => true
  | .and_ _ _ _ => true
  | .or_ _ _ _ => true
  | .xor_ _ _ _ => true
  | .shl _ _ _ => true
  | .shr _ _ _ => true
  | .sra _ _ _ => true
  | .rot _ _ _ => true
  | .slt _ _ _ => true
  | .sltn _ _ _ => true
  | .min_ _ _ _ => true
  | .max_ _ _ _ => true
  | .minn _ _ _ => true
  | .maxn _ _ _ => true
  | .sel _ _ _ => true
  | .clz _ _ => true
  | .ctz _ _ => true
  | .popc _ _ => true
  | .brev _ _ => true
  | .addi _ _ _ => true
  | .andi _ _ _ => true
  | .ori _ _ _ => true
  | .xori _ _ _ => true
  | .slti _ _ _ => true
  | .shli _ _ _ => true
  | .shri _ _ _ => true
  | .srai _ _ _ => true
  | .roti _ _ _ => true
  | .lui _ _ => true
  | .addpc _ _ => true
  | .bxt _ _ _ _ => true
  | .bxtn _ _ _ _ => true
  | .bins _ _ _ _ => true
  | .mul _ _ _ => true
  | .mulh _ _ _ => true
  | .mulhn _ _ _ => true
  | .div _ _ _ => true
  | .divn _ _ _ => true
  | .rem _ _ _ => true
  | .remn _ _ _ => true
  | .beq _ _ _ => true
  | .bne _ _ _ => true
  | .blt _ _ _ => true
  | .bge _ _ _ => true
  | .blo _ _ _ => true
  | .bhs _ _ _ => true
  | .bz _ _ => true
  | .bnz _ _ => true
  | .j _ => true
  | .jal _ => true
  | .jalr _ _ _ => true
  | .loop _ _ => true
  | .nop => true
  | .hintYield => true
  | .hintAlign => true
  | .done_ => true
  | .trap _ => true
  | .tret => true
  | .abort _ => true
  | .mfcr cr _ => crAssigned cr.toNat
  | .mtcr cr _ => crAssigned cr.toNat
  | .mfid _ _ => true
  | .sleep _ => true
  | .waitx _ => true
  | .lnch _ _ _ => true
  | .slave _ => true
  | .unslave => true
  | .ld _ sc kind _ _ _ => kindOk sc kind [.w, .s, .acq]
  | .st _ sc kind _ _ _ => kindOk sc kind [.w, .s, .rel]
  | .ldx _ _ zx size _ _ _ => !(zx && size == .d)
  | .stx _ _ _ _ _ _ => true
  | .ldfeFf _ sc kind _ _ => kindOk sc kind [.w, .s, .acq]
  | .ldfeFe _ sc kind _ _ => kindOk sc kind [.w, .s, .acq, .ar]
  | .stfeEf _ sc kind _ _ => kindOk sc kind [.w, .s, .rel, .ar]
  | .stfeXf _ sc kind _ _ => kindOk sc kind [.w, .s, .rel, .ar]
  | .feq _ sc kind _ _ => kindOk sc kind [.w, .s, .acq, .rel, .ar]
  | .amoAdd _ sc kind _ _ => kindOk sc kind [.w, .s, .acq, .rel, .ar]
  | .amoAnd _ sc kind _ _ => kindOk sc kind [.w, .s, .acq, .rel, .ar]
  | .amoOr _ sc kind _ _ => kindOk sc kind [.w, .s, .acq, .rel, .ar]
  | .amoXor _ sc kind _ _ => kindOk sc kind [.w, .s, .acq, .rel, .ar]
  | .amoMin _ sc kind _ _ => kindOk sc kind [.w, .s, .acq, .rel, .ar]
  | .amoMax _ sc kind _ _ => kindOk sc kind [.w, .s, .acq, .rel, .ar]
  | .amoMinn _ sc kind _ _ => kindOk sc kind [.w, .s, .acq, .rel, .ar]
  | .amoMaxn _ sc kind _ _ => kindOk sc kind [.w, .s, .acq, .rel, .ar]
  | .amoSwap _ sc kind _ _ => kindOk sc kind [.w, .s, .acq, .rel, .ar]
  | .amoCas _ sc kind _ _ => kindOk sc kind [.w, .s, .acq, .rel, .ar]
  | .amoFaddF32 _ sc kind _ _ => kindOk sc kind [.w, .s, .acq, .rel, .ar]
  | .amoFmaxF32 _ sc kind _ _ => kindOk sc kind [.w, .s, .acq, .rel, .ar]
  | .fence _ => true
  | .fenceSc _ => true
  | .fencef _ _ _ _ => true
  | .ropeFork _ _ => true
  | .ropeJoin _ _ _ => true
  | .ropeXfer _ _ => true
  | .ropeAdopt _ _ => true
  | .ropeDrop _ => true
  | .ropeWait _ => true
  | .send _ _ => true
  | .sendc _ _ _ => true
  | .spawn _ _ _ => true
  | .aread _ _ _ => true
  | .tbind _ _ => true
  | .mcld _ _ _ _ => true
  | .mcst _ _ _ _ => true
  | .mcjoin _ _ => true
  | .evpost _ _ _ _ => true
  | .evposts _ _ _ _ => true
  | .evcfg _ _ => true
  | .evflush _ => true
  | .evquiet _ _ => true
  | .evcount _ _ => true
  | .gjoin _ => true
  | .gleave _ => true
  | .gbar _ _ => true
  | .gcount _ _ => true
  | .pref _ _ => true
  | .cflush _ _ => true
  | .cinv _ _ => true
  | .tlbinv _ => true
  | .tlbinvAll => true
  | .tlbinvB _ => true
  | .tlbinvBAll => true
  | .vaddF _ _ _ _ => true
  | .vsubF _ _ _ _ => true
  | .vmulF _ _ _ _ => true
  | .vfmaF _ _ _ _ => true
  | .vfmsF _ _ _ _ => true
  | .vminF _ _ _ _ => true
  | .vmaxF _ _ _ _ => true
  | .vaddI _ _ _ _ => true
  | .vsubI _ _ _ _ => true
  | .vmulI _ _ _ _ => true
  | .vmulhI _ _ _ _ => true
  | .vminI _ _ _ _ => true
  | .vmaxI _ _ _ _ => true
  | .vminn _ _ _ _ => true
  | .vmaxn _ _ _ _ => true
  | .vand _ _ _ _ => true
  | .vandn _ _ _ _ => true
  | .vor _ _ _ _ => true
  | .vxor _ _ _ _ => true
  | .vshl _ _ _ _ => true
  | .vshr _ _ _ _ => true
  | .vsra _ _ _ _ => true
  | .vrot _ _ _ _ => true
  | .vsel _ _ _ _ => true
  | .vmacI _ _ _ _ => true
  | .vcpy _ _ _ => true
  | .vnegF _ _ _ => true
  | .vabsF _ _ _ => true
  | .vsqrtF _ _ _ => true
  | .vnot _ _ _ => true
  | .vnegI _ _ _ => true
  | .vabsI _ _ _ => true
  | .vclz _ _ _ => true
  | .vpopc _ _ _ => true
  | .vcvtFI _ _ _ => true
  | .vcvtFN _ _ _ => true
  | .vcvtIF _ _ _ => true
  | .vnarBf16 _ _ _ => true
  | .vnarFp16 _ _ _ => true
  | .vnarE4m3 _ _ _ => true
  | .vnarE5m2 _ _ _ => true
  | .vnarE2m1 _ _ _ => true
  | .vnarI8 _ _ _ => true
  | .vcmpFEq _ _ _ _ => true
  | .vcmpFNe _ _ _ _ => true
  | .vcmpFLt _ _ _ _ => true
  | .vcmpFLe _ _ _ _ => true
  | .vcmpFUn _ _ _ _ => true
  | .vcmpIEq _ _ _ _ => true
  | .vcmpINe _ _ _ _ => true
  | .vcmpILt _ _ _ _ => true
  | .vcmpILe _ _ _ _ => true
  | .vcmpILo _ _ _ _ => true
  | .vcmpILs _ _ _ _ => true
  | .vld _ _ _ _ _ => true
  | .vst _ _ _ _ _ => true
  | .vldLs _ _ _ => true
  | .vstLs _ _ _ => true
  | .vgath _ _ _ _ _ => true
  | .vscat _ _ _ _ _ => true
  | .tmld _ _ => true
  | .sopen _ _ _ => true
  | .sclose _ => true
  | .sstat _ _ => true
  | .pand _ _ _ => true
  | .por _ _ _ => true
  | .pxor _ _ _ => true
  | .pnot _ _ => true
  | .pcnt _ _ => true
  | .pfirst _ _ => true
  | .pset _ _ => true
  | .pgetPredicate _ _ => true
  | .vraddF _ _ _ => true
  | .vrmaxF _ _ _ => true
  | .vrminF _ _ _ => true
  | .vraddI _ _ _ => true
  | .vrmaxI _ _ _ => true
  | .vrminI _ _ _ => true
  | .vrand _ _ _ => true
  | .vror _ _ _ => true
  | .vrxor _ _ _ => true
  | .vbcast _ _ => true
  | .vext _ _ _ => true
  | .vins _ _ _ => true
  | .vperm _ _ _ => true
  | .vslideUp _ _ _ => true
  | .vslideDn _ _ _ => true
  | .viota _ => true
  | .vfexp2 _ _ _ => true
  | .vrint _ _ _ => true
  | .vexpi _ _ _ => true
  | .vexpx _ _ _ => true
  | .vrcp _ _ _ => true
  | .vrsq _ _ _ => true
  | .mxq _ _ => true
  | .mxwait _ => true
  | .mxstat _ => true
  | .mxstatC _ => true
  | .rackTake _ => true
  | .rackGive _ => true
  | .rackQry _ => true
  | .cMv _ _ => true
  | .cAdd _ _ => true
  | .cSub _ _ => true
  | .cAddi _ _ => true
  | .cLi _ _ => true
  | .cLd _ _ => true
  | .cSt _ _ => true
  | .cAnd _ _ => true
  | .cOr _ _ => true
  | .cShli _ _ => true
  | .cShri _ _ => true
  | .cBnz _ _ => true
  | .cJ _ => true
  | .cDone => true
  | .cYield => true
  | .ropePrefix _ => true
  | .perform => true
  | .retryListService => true
  | .nackResend => true
  | .withdrawal => true
  | .watchdog => true
  | .storeBufferDrain => true
  | .response => true
  | .routeFlit => true
  | .injectFlit => true
  | .linkReceive => true
  | .linkReplay => true
  | .linkAcknowledge => true
  | .laneFailure => true
  | .retrainingEnd => true
  | .portOutOfService => true
  | .reassembly => true
  | .messageArrival => true
  | .dispatchEntryFill => true
  | .activationStart => true
  | .eventDelivery => true
  | .tableWalk => true
  | .pageAnswer => true
  | .tlbInvalidationAck => true
  | .cpgoRead => true
  | .copySector => true
  | .mma => true
  | .ldb => true
  | .rotb => true
  | .stc => true
  | .zc => true
  | .mnote => true
  | .mfen => true
  | .ringTransferEnd => true
  | .commandRetire => true
  | .matrixCommandDiscard => true
  | .governorWindow => true
  | .mailboxLanding => true
  | .rackGrant => true
  | .sleepEnd => true
  | .adoptService => true
  | .adoptAnswer => true
  | .fencefMarker => true
  | .areadReply => true
  | .post => true
  | .claim => true
  | .refill => true
  | .postSend => true
  | .postAck => true
  | .quiescenceSweep => true
  | .hostEnqueue => true
  | .launchStart => true
  | .entryPresentation => true
  | .launchCompletion => true
  | .quantumExpiry => true
  | .resume => true
  | .coreRepair => true
  | .multicastStoreLanding => true
  | .combinedAck => true
  | .mcldRequest => true
  | .mcldLineSend => true
  | .mcldLineArrival => true
  | .mergeReport => true
  | .lineClear => true
  | .budgetWindow => true
  | .rowThrottleEvent => true
  | .throttleEnd => true
  | .injectionCapWindow => true
  | .powerSample => true
  | .coolantTrip => true
  | .pseudoChannelRepair => true
  | .supervisorFailover => true
  | .partSplit => true
  | .partMerge => true
  | .vdCreate => true
  | .vdDestroy => true
  | .s2invPage => true
  | .s2invAll => true
  | .rtswap => true
  | .pageansRetry => true
  | .pageansDeny => true
  | .vdReset => true
  | .vdBivouac => true
  | .vdThaw => true
  | .dispinit => true
  | .groupTableWrite => true
  | .supervisorRegisterWrite => true
  | .dispbaseWrite => true
  | .tagbaseWrite => true
  | .rackfloorWrite => true
  | .fcrWrite => true
  | .mxgovWrite => true
  | .controlRegisterWrite => true
  | .hostWrite => true
  | .hostRead => true
  | .hostWake => true
  | .supervisorSpaceRead => true
  | .supervisorSpaceWrite => true
  | .getVersion => true
  | .getCapabilities => true
  | .negotiateAlgorithms => true
  | .getDigests => true
  | .getCertificate => true
  | .challenge => true
  | .getMeasurements => true
  | .keyExchange => true
  | .finish => true
  | .endSession => true
  | .keyInstall => true
  | .enterOn => true
  | .enterStandby => true
  | .enterOff => true
  | .setModuleCap => true
  | .powerOn => true
  | .belayRead => true
  | .belayWrite => true
  | .belayAnswer => true
  | .belayEvent => true
  | .illegalEncoding => true
  | .instructionFetchFault => true
  | .evquietTimeout => true
  | .alignTimeout => true
  | .resetDrainEnd => true
  | .contextSaveEnd => true
  | .bivouacEntered => true
  | .wakeEnd => true
  | .refreshWindow => true
  | .softError => true
  | .coreMapRewrite => true
  | .pseudoChannelRemap => true
  | .recoveryImageWrite => true

end Sys2Proof
end

