-- ==== Sys2Proof/Decode.lean ====
section
/-! DEFINITION. The decoder of instruction words (R263, R271 to R277) and the encoder, from the same encodings.
Fields are read as (low bit, width) of the word, and words are written as lists of (width, value), low bits first. -/

namespace Sys2Proof

/-- The field of `n` bits of `w` whose lowest bit is bit `lo`. -/
def fld (w lo n : Nat) : Nat := w / 2 ^ lo % 2 ^ n

/-- The word whose fields, from the low bits up, have the given widths and values. -/
def pack : List (Nat × Nat) → Nat
  | [] => 0
  | (n, v) :: rest => v % 2 ^ n + 2 ^ n * pack rest

/-- The kind code (R115). -/
def Kind.code : Kind → Nat
  | .w => 0 | .s => 1 | .acq => 2 | .rel => 3 | .ar => 4
/-- Reading a kind code; 5 to 7 are reserved (R115). -/
def Kind.ofCode : Nat → Option Kind
  | 0 => some .w | 1 => some .s | 2 => some .acq | 3 => some .rel | 4 => some .ar | _ => none
/-- The scope code (R114). -/
def Scope.code : Scope → Nat
  | .c => 0 | .k => 1 | .d => 2 | .v => 3 | .y => 4
/-- Reading a scope code; 5 to 7 are reserved (R115). -/
def Scope.ofCode : Nat → Option Scope
  | 0 => some .c | 1 => some .k | 2 => some .d | 3 => some .v | 4 => some .y | _ => none
/-- The ord code (R344). -/
def Ord.code : Ord → Nat
  | .w => 0 | .s => 1 | .sync => 2
/-- Reading an ord code; 3 raises ILLEGAL (R344). -/
def Ord.ofCode : Nat → Option Ord
  | 0 => some .w | 1 => some .s | 2 => some .sync | _ => none
/-- The size code (R344). -/
def Size.code : Size → Nat
  | .b => 0 | .h => 1 | .w => 2 | .d => 3
/-- Reading a size code (R344). -/
def Size.ofCode : Nat → Option Size
  | 0 => some .b | 1 => some .h | 2 => some .w | 3 => some .d | _ => none
/-- Reading a one-bit field. -/
def bit1 (w lo : Nat) : Bool := fld w lo 1 == 1

/-- Major 0x0C (R276): PADD, PSUB, PTAG, PGET, PSTRIP. -/
def decodeMajor0C (w : Nat) : Option Instr :=
  if fld w 25 7 = 0 then
    some (.padd (BitVec.ofNat 5 (fld w 20 5)) (BitVec.ofNat 5 (fld w 15 5)) (BitVec.ofNat 5 (fld w 10 5)))
  else if fld w 25 7 = 1 then
    some (.psub (BitVec.ofNat 5 (fld w 20 5)) (BitVec.ofNat 5 (fld w 15 5)) (BitVec.ofNat 5 (fld w 10 5)))
  else if fld w 25 7 = 2 then
    some (.ptag (BitVec.ofNat 5 (fld w 20 5)) (BitVec.ofNat 5 (fld w 15 5)) (BitVec.ofNat 5 (fld w 10 5)))
  else if fld w 20 12 = 96 then
    some (.pget (BitVec.ofNat 5 (fld w 15 5)) (BitVec.ofNat 5 (fld w 10 5)))
  else if fld w 20 12 = 128 then
    some (.pstrip (BitVec.ofNat 5 (fld w 15 5)) (BitVec.ofNat 5 (fld w 10 5)))
  else none

/-- Major 0x01 (R276): ADD, SUB, AND, OR, XOR, SHL, SHR, SRA, ROT, SLT, SLTN, MIN, MAX, MINN, MAXN, SEL, CLZ, CTZ, POPC, BREV. -/
def decodeMajor01 (w : Nat) : Option Instr :=
  if fld w 25 7 = 0 then
    some (.add (BitVec.ofNat 5 (fld w 20 5)) (BitVec.ofNat 5 (fld w 15 5)) (BitVec.ofNat 5 (fld w 10 5)))
  else if fld w 25 7 = 1 then
    some (.sub (BitVec.ofNat 5 (fld w 20 5)) (BitVec.ofNat 5 (fld w 15 5)) (BitVec.ofNat 5 (fld w 10 5)))
  else if fld w 25 7 = 2 then
    some (.and_ (BitVec.ofNat 5 (fld w 20 5)) (BitVec.ofNat 5 (fld w 15 5)) (BitVec.ofNat 5 (fld w 10 5)))
  else if fld w 25 7 = 3 then
    some (.or_ (BitVec.ofNat 5 (fld w 20 5)) (BitVec.ofNat 5 (fld w 15 5)) (BitVec.ofNat 5 (fld w 10 5)))
  else if fld w 25 7 = 4 then
    some (.xor_ (BitVec.ofNat 5 (fld w 20 5)) (BitVec.ofNat 5 (fld w 15 5)) (BitVec.ofNat 5 (fld w 10 5)))
  else if fld w 25 7 = 5 then
    some (.shl (BitVec.ofNat 5 (fld w 20 5)) (BitVec.ofNat 5 (fld w 15 5)) (BitVec.ofNat 5 (fld w 10 5)))
  else if fld w 25 7 = 6 then
    some (.shr (BitVec.ofNat 5 (fld w 20 5)) (BitVec.ofNat 5 (fld w 15 5)) (BitVec.ofNat 5 (fld w 10 5)))
  else if fld w 25 7 = 7 then
    some (.sra (BitVec.ofNat 5 (fld w 20 5)) (BitVec.ofNat 5 (fld w 15 5)) (BitVec.ofNat 5 (fld w 10 5)))
  else if fld w 25 7 = 8 then
    some (.rot (BitVec.ofNat 5 (fld w 20 5)) (BitVec.ofNat 5 (fld w 15 5)) (BitVec.ofNat 5 (fld w 10 5)))
  else if fld w 25 7 = 9 then
    some (.slt (BitVec.ofNat 5 (fld w 20 5)) (BitVec.ofNat 5 (fld w 15 5)) (BitVec.ofNat 5 (fld w 10 5)))
  else if fld w 25 7 = 10 then
    some (.sltn (BitVec.ofNat 5 (fld w 20 5)) (BitVec.ofNat 5 (fld w 15 5)) (BitVec.ofNat 5 (fld w 10 5)))
  else if fld w 25 7 = 11 then
    some (.min_ (BitVec.ofNat 5 (fld w 20 5)) (BitVec.ofNat 5 (fld w 15 5)) (BitVec.ofNat 5 (fld w 10 5)))
  else if fld w 25 7 = 12 then
    some (.max_ (BitVec.ofNat 5 (fld w 20 5)) (BitVec.ofNat 5 (fld w 15 5)) (BitVec.ofNat 5 (fld w 10 5)))
  else if fld w 25 7 = 13 then
    some (.minn (BitVec.ofNat 5 (fld w 20 5)) (BitVec.ofNat 5 (fld w 15 5)) (BitVec.ofNat 5 (fld w 10 5)))
  else if fld w 25 7 = 14 then
    some (.maxn (BitVec.ofNat 5 (fld w 20 5)) (BitVec.ofNat 5 (fld w 15 5)) (BitVec.ofNat 5 (fld w 10 5)))
  else if fld w 25 7 = 15 then
    some (.sel (BitVec.ofNat 5 (fld w 20 5)) (BitVec.ofNat 5 (fld w 15 5)) (BitVec.ofNat 5 (fld w 10 5)))
  else if fld w 20 12 = 512 then
    some (.clz (BitVec.ofNat 5 (fld w 15 5)) (BitVec.ofNat 5 (fld w 10 5)))
  else if fld w 20 12 = 544 then
    some (.ctz (BitVec.ofNat 5 (fld w 15 5)) (BitVec.ofNat 5 (fld w 10 5)))
  else if fld w 20 12 = 576 then
    some (.popc (BitVec.ofNat 5 (fld w 15 5)) (BitVec.ofNat 5 (fld w 10 5)))
  else if fld w 20 12 = 608 then
    some (.brev (BitVec.ofNat 5 (fld w 15 5)) (BitVec.ofNat 5 (fld w 10 5)))
  else none

/-- Major 0x02 (R276): ADDI. -/
def decodeMajor02 (w : Nat) : Option Instr :=
  some (.addi (BitVec.ofNat 12 (fld w 20 12)) (BitVec.ofNat 5 (fld w 15 5)) (BitVec.ofNat 5 (fld w 10 5)))

/-- Major 0x03 (R276): ANDI. -/
def decodeMajor03 (w : Nat) : Option Instr :=
  some (.andi (BitVec.ofNat 12 (fld w 20 12)) (BitVec.ofNat 5 (fld w 15 5)) (BitVec.ofNat 5 (fld w 10 5)))

/-- Major 0x04 (R276): ORI. -/
def decodeMajor04 (w : Nat) : Option Instr :=
  some (.ori (BitVec.ofNat 12 (fld w 20 12)) (BitVec.ofNat 5 (fld w 15 5)) (BitVec.ofNat 5 (fld w 10 5)))

/-- Major 0x05 (R276): XORI. -/
def decodeMajor05 (w : Nat) : Option Instr :=
  some (.xori (BitVec.ofNat 12 (fld w 20 12)) (BitVec.ofNat 5 (fld w 15 5)) (BitVec.ofNat 5 (fld w 10 5)))

/-- Major 0x06 (R276): SLTI. -/
def decodeMajor06 (w : Nat) : Option Instr :=
  some (.slti (BitVec.ofNat 12 (fld w 20 12)) (BitVec.ofNat 5 (fld w 15 5)) (BitVec.ofNat 5 (fld w 10 5)))

/-- Major 0x07 (R276): SHLI, SHRI, SRAI, ROTI. -/
def decodeMajor07 (w : Nat) : Option Instr :=
  if fld w 26 6 = 0 then
    some (.shli (BitVec.ofNat 6 (fld w 20 6)) (BitVec.ofNat 5 (fld w 15 5)) (BitVec.ofNat 5 (fld w 10 5)))
  else if fld w 26 6 = 1 then
    some (.shri (BitVec.ofNat 6 (fld w 20 6)) (BitVec.ofNat 5 (fld w 15 5)) (BitVec.ofNat 5 (fld w 10 5)))
  else if fld w 26 6 = 2 then
    some (.srai (BitVec.ofNat 6 (fld w 20 6)) (BitVec.ofNat 5 (fld w 15 5)) (BitVec.ofNat 5 (fld w 10 5)))
  else if fld w 26 6 = 3 then
    some (.roti (BitVec.ofNat 6 (fld w 20 6)) (BitVec.ofNat 5 (fld w 15 5)) (BitVec.ofNat 5 (fld w 10 5)))
  else none

/-- Major 0x08 (R276): LUI. -/
def decodeMajor08 (w : Nat) : Option Instr :=
  some (.lui (BitVec.ofNat 17 (fld w 15 17)) (BitVec.ofNat 5 (fld w 10 5)))

/-- Major 0x09 (R276): ADDPC. -/
def decodeMajor09 (w : Nat) : Option Instr :=
  some (.addpc (BitVec.ofNat 17 (fld w 15 17)) (BitVec.ofNat 5 (fld w 10 5)))

/-- Major 0x0A (R276): BXT, BXTN, BINS. -/
def decodeMajor0A (w : Nat) : Option Instr :=
  if fld w 14 1 = 0 ∧ fld w 19 1 = 0 then
    some (.bxt (BitVec.ofNat 6 (fld w 26 6)) (BitVec.ofNat 6 (fld w 20 6)) (BitVec.ofNat 4 (fld w 15 4)) (BitVec.ofNat 4 (fld w 10 4)))
  else if fld w 14 1 = 1 ∧ fld w 19 1 = 0 then
    some (.bxtn (BitVec.ofNat 6 (fld w 26 6)) (BitVec.ofNat 6 (fld w 20 6)) (BitVec.ofNat 4 (fld w 15 4)) (BitVec.ofNat 4 (fld w 10 4)))
  else if fld w 14 1 = 0 ∧ fld w 19 1 = 1 then
    some (.bins (BitVec.ofNat 6 (fld w 26 6)) (BitVec.ofNat 6 (fld w 20 6)) (BitVec.ofNat 4 (fld w 15 4)) (BitVec.ofNat 4 (fld w 10 4)))
  else none

/-- Major 0x0B (R276): MUL, MULH, MULHN, DIV, DIVN, REM, REMN. -/
def decodeMajor0B (w : Nat) : Option Instr :=
  if fld w 25 7 = 0 then
    some (.mul (BitVec.ofNat 5 (fld w 20 5)) (BitVec.ofNat 5 (fld w 15 5)) (BitVec.ofNat 5 (fld w 10 5)))
  else if fld w 25 7 = 1 then
    some (.mulh (BitVec.ofNat 5 (fld w 20 5)) (BitVec.ofNat 5 (fld w 15 5)) (BitVec.ofNat 5 (fld w 10 5)))
  else if fld w 25 7 = 2 then
    some (.mulhn (BitVec.ofNat 5 (fld w 20 5)) (BitVec.ofNat 5 (fld w 15 5)) (BitVec.ofNat 5 (fld w 10 5)))
  else if fld w 25 7 = 3 then
    some (.div (BitVec.ofNat 5 (fld w 20 5)) (BitVec.ofNat 5 (fld w 15 5)) (BitVec.ofNat 5 (fld w 10 5)))
  else if fld w 25 7 = 4 then
    some (.divn (BitVec.ofNat 5 (fld w 20 5)) (BitVec.ofNat 5 (fld w 15 5)) (BitVec.ofNat 5 (fld w 10 5)))
  else if fld w 25 7 = 5 then
    some (.rem (BitVec.ofNat 5 (fld w 20 5)) (BitVec.ofNat 5 (fld w 15 5)) (BitVec.ofNat 5 (fld w 10 5)))
  else if fld w 25 7 = 6 then
    some (.remn (BitVec.ofNat 5 (fld w 20 5)) (BitVec.ofNat 5 (fld w 15 5)) (BitVec.ofNat 5 (fld w 10 5)))
  else none

/-- Major 0x0E (R276): BEQ, BNE, BLT, BGE, BLO, BHS. -/
def decodeMajor0E (w : Nat) : Option Instr :=
  if fld w 20 3 = 0 then
    some (.beq (BitVec.ofNat 9 (fld w 23 9)) (BitVec.ofNat 5 (fld w 15 5)) (BitVec.ofNat 5 (fld w 10 5)))
  else if fld w 20 3 = 1 then
    some (.bne (BitVec.ofNat 9 (fld w 23 9)) (BitVec.ofNat 5 (fld w 15 5)) (BitVec.ofNat 5 (fld w 10 5)))
  else if fld w 20 3 = 2 then
    some (.blt (BitVec.ofNat 9 (fld w 23 9)) (BitVec.ofNat 5 (fld w 15 5)) (BitVec.ofNat 5 (fld w 10 5)))
  else if fld w 20 3 = 3 then
    some (.bge (BitVec.ofNat 9 (fld w 23 9)) (BitVec.ofNat 5 (fld w 15 5)) (BitVec.ofNat 5 (fld w 10 5)))
  else if fld w 20 3 = 4 then
    some (.blo (BitVec.ofNat 9 (fld w 23 9)) (BitVec.ofNat 5 (fld w 15 5)) (BitVec.ofNat 5 (fld w 10 5)))
  else if fld w 20 3 = 5 then
    some (.bhs (BitVec.ofNat 9 (fld w 23 9)) (BitVec.ofNat 5 (fld w 15 5)) (BitVec.ofNat 5 (fld w 10 5)))
  else none

/-- Major 0x0F (R276): BZ, BNZ. -/
def decodeMajor0F (w : Nat) : Option Instr :=
  if fld w 15 5 = 0 then
    some (.bz (BitVec.ofNat 12 (fld w 20 12)) (BitVec.ofNat 5 (fld w 10 5)))
  else if fld w 15 5 = 1 then
    some (.bnz (BitVec.ofNat 12 (fld w 20 12)) (BitVec.ofNat 5 (fld w 10 5)))
  else none

/-- Major 0x10 (R276): J. -/
def decodeMajor10 (w : Nat) : Option Instr :=
  some (.j (BitVec.ofNat 22 (fld w 10 22)))

/-- Major 0x11 (R276): JAL. -/
def decodeMajor11 (w : Nat) : Option Instr :=
  some (.jal (BitVec.ofNat 22 (fld w 10 22)))

/-- Major 0x12 (R276): JALR. -/
def decodeMajor12 (w : Nat) : Option Instr :=
  some (.jalr (BitVec.ofNat 12 (fld w 20 12)) (BitVec.ofNat 5 (fld w 15 5)) (BitVec.ofNat 5 (fld w 10 5)))

/-- Major 0x13 (R276): LOOP. -/
def decodeMajor13 (w : Nat) : Option Instr :=
  if fld w 15 5 = 0 then
    some (.loop (BitVec.ofNat 12 (fld w 20 12)) (BitVec.ofNat 5 (fld w 10 5)))
  else none

/-- Major 0x00 (R276): NOP, HINT_YIELD, HINT_ALIGN, DONE, TRAP, TRET, ABORT, MFCR, MTCR, MFID, SLEEP, WAITX, LNCH, SLAVE, UNSLAVE. -/
def decodeMajor00 (w : Nat) : Option Instr :=
  if fld w 10 22 = 0 then
    some (.nop)
  else if fld w 10 22 = 1 then
    some (.hintYield)
  else if fld w 10 22 = 2 then
    some (.hintAlign)
  else if fld w 10 22 = 3 then
    some (.done_)
  else if fld w 10 10 = 4 then
    some (.trap (BitVec.ofNat 12 (fld w 20 12)))
  else if fld w 10 22 = 5 then
    some (.tret)
  else if fld w 10 10 = 6 then
    some (.abort (BitVec.ofNat 12 (fld w 20 12)))
  else if fld w 10 5 = 7 then
    some (.mfcr (BitVec.ofNat 12 (fld w 20 12)) (BitVec.ofNat 5 (fld w 15 5)))
  else if fld w 10 5 = 8 then
    some (.mtcr (BitVec.ofNat 12 (fld w 20 12)) (BitVec.ofNat 5 (fld w 15 5)))
  else if fld w 10 5 = 9 ∧ fld w 26 6 = 0 then
    some (.mfid (BitVec.ofNat 6 (fld w 20 6)) (BitVec.ofNat 5 (fld w 15 5)))
  else if fld w 10 5 = 10 ∧ fld w 20 12 = 0 then
    some (.sleep (BitVec.ofNat 5 (fld w 15 5)))
  else if fld w 10 5 = 11 ∧ fld w 20 12 = 0 then
    some (.waitx (BitVec.ofNat 5 (fld w 15 5)))
  else if fld w 10 5 = 12 ∧ fld w 28 4 = 0 then
    some (.lnch (BitVec.ofNat 3 (fld w 25 3)) (BitVec.ofNat 5 (fld w 20 5)) (BitVec.ofNat 5 (fld w 15 5)))
  else if fld w 10 10 = 13 ∧ fld w 23 9 = 0 then
    some (.slave (BitVec.ofNat 3 (fld w 20 3)))
  else if fld w 10 22 = 14 then
    some (.unslave)
  else none

/-- Major 0x14 (R276): LD. -/
def decodeMajor14 (w : Nat) : Option Instr :=
  (Scope.ofCode (fld w 28 3)).bind fun sc => (Kind.ofCode (fld w 25 3)).bind fun kind => some (.ld (bit1 w 31) sc kind (BitVec.ofNat 5 (fld w 20 5)) (BitVec.ofNat 5 (fld w 15 5)) (BitVec.ofNat 5 (fld w 10 5)))

/-- Major 0x15 (R276): ST. -/
def decodeMajor15 (w : Nat) : Option Instr :=
  (Scope.ofCode (fld w 28 3)).bind fun sc => (Kind.ofCode (fld w 25 3)).bind fun kind => some (.st (bit1 w 31) sc kind (BitVec.ofNat 5 (fld w 20 5)) (BitVec.ofNat 5 (fld w 15 5)) (BitVec.ofNat 5 (fld w 10 5)))

/-- Major 0x16 (R276): LDX, STX. -/
def decodeMajor16 (w : Nat) : Option Instr :=
  if fld w 28 1 = 0 then
    (Ord.ofCode (fld w 29 2)).bind fun ord => (Size.ofCode (fld w 25 2)).bind fun size => some (.ldx (bit1 w 31) ord (bit1 w 27) size (BitVec.ofNat 5 (fld w 20 5)) (BitVec.ofNat 5 (fld w 15 5)) (BitVec.ofNat 5 (fld w 10 5)))
  else if fld w 27 2 = 2 then
    (Ord.ofCode (fld w 29 2)).bind fun ord => (Size.ofCode (fld w 25 2)).bind fun size => some (.stx (bit1 w 31) ord size (BitVec.ofNat 5 (fld w 20 5)) (BitVec.ofNat 5 (fld w 15 5)) (BitVec.ofNat 5 (fld w 10 5)))
  else none

/-- Major 0x17 (R276): LDFE_FF, LDFE_FE, STFE_EF, STFE_XF, FEQ. -/
def decodeMajor17 (w : Nat) : Option Instr :=
  if fld w 20 5 = 0 then
    (Scope.ofCode (fld w 28 3)).bind fun sc => (Kind.ofCode (fld w 25 3)).bind fun kind => some (.ldfeFf (bit1 w 31) sc kind (BitVec.ofNat 5 (fld w 15 5)) (BitVec.ofNat 5 (fld w 10 5)))
  else if fld w 20 5 = 1 then
    (Scope.ofCode (fld w 28 3)).bind fun sc => (Kind.ofCode (fld w 25 3)).bind fun kind => some (.ldfeFe (bit1 w 31) sc kind (BitVec.ofNat 5 (fld w 15 5)) (BitVec.ofNat 5 (fld w 10 5)))
  else if fld w 20 5 = 2 then
    (Scope.ofCode (fld w 28 3)).bind fun sc => (Kind.ofCode (fld w 25 3)).bind fun kind => some (.stfeEf (bit1 w 31) sc kind (BitVec.ofNat 5 (fld w 15 5)) (BitVec.ofNat 5 (fld w 10 5)))
  else if fld w 20 5 = 3 then
    (Scope.ofCode (fld w 28 3)).bind fun sc => (Kind.ofCode (fld w 25 3)).bind fun kind => some (.stfeXf (bit1 w 31) sc kind (BitVec.ofNat 5 (fld w 15 5)) (BitVec.ofNat 5 (fld w 10 5)))
  else if fld w 20 5 = 4 then
    (Scope.ofCode (fld w 28 3)).bind fun sc => (Kind.ofCode (fld w 25 3)).bind fun kind => some (.feq (bit1 w 31) sc kind (BitVec.ofNat 5 (fld w 15 5)) (BitVec.ofNat 5 (fld w 10 5)))
  else none

/-- Major 0x18 (R276): AMO_ADD, AMO_AND, AMO_OR, AMO_XOR, AMO_MIN, AMO_MAX, AMO_MINN, AMO_MAXN, AMO_SWAP, AMO_CAS, AMO_FADD_F32, AMO_FMAX_F32. -/
def decodeMajor18 (w : Nat) : Option Instr :=
  if fld w 20 5 = 0 then
    (Scope.ofCode (fld w 28 3)).bind fun sc => (Kind.ofCode (fld w 25 3)).bind fun kind => some (.amoAdd (bit1 w 31) sc kind (BitVec.ofNat 5 (fld w 15 5)) (BitVec.ofNat 5 (fld w 10 5)))
  else if fld w 20 5 = 1 then
    (Scope.ofCode (fld w 28 3)).bind fun sc => (Kind.ofCode (fld w 25 3)).bind fun kind => some (.amoAnd (bit1 w 31) sc kind (BitVec.ofNat 5 (fld w 15 5)) (BitVec.ofNat 5 (fld w 10 5)))
  else if fld w 20 5 = 2 then
    (Scope.ofCode (fld w 28 3)).bind fun sc => (Kind.ofCode (fld w 25 3)).bind fun kind => some (.amoOr (bit1 w 31) sc kind (BitVec.ofNat 5 (fld w 15 5)) (BitVec.ofNat 5 (fld w 10 5)))
  else if fld w 20 5 = 3 then
    (Scope.ofCode (fld w 28 3)).bind fun sc => (Kind.ofCode (fld w 25 3)).bind fun kind => some (.amoXor (bit1 w 31) sc kind (BitVec.ofNat 5 (fld w 15 5)) (BitVec.ofNat 5 (fld w 10 5)))
  else if fld w 20 5 = 4 then
    (Scope.ofCode (fld w 28 3)).bind fun sc => (Kind.ofCode (fld w 25 3)).bind fun kind => some (.amoMin (bit1 w 31) sc kind (BitVec.ofNat 5 (fld w 15 5)) (BitVec.ofNat 5 (fld w 10 5)))
  else if fld w 20 5 = 5 then
    (Scope.ofCode (fld w 28 3)).bind fun sc => (Kind.ofCode (fld w 25 3)).bind fun kind => some (.amoMax (bit1 w 31) sc kind (BitVec.ofNat 5 (fld w 15 5)) (BitVec.ofNat 5 (fld w 10 5)))
  else if fld w 20 5 = 6 then
    (Scope.ofCode (fld w 28 3)).bind fun sc => (Kind.ofCode (fld w 25 3)).bind fun kind => some (.amoMinn (bit1 w 31) sc kind (BitVec.ofNat 5 (fld w 15 5)) (BitVec.ofNat 5 (fld w 10 5)))
  else if fld w 20 5 = 7 then
    (Scope.ofCode (fld w 28 3)).bind fun sc => (Kind.ofCode (fld w 25 3)).bind fun kind => some (.amoMaxn (bit1 w 31) sc kind (BitVec.ofNat 5 (fld w 15 5)) (BitVec.ofNat 5 (fld w 10 5)))
  else if fld w 20 5 = 8 then
    (Scope.ofCode (fld w 28 3)).bind fun sc => (Kind.ofCode (fld w 25 3)).bind fun kind => some (.amoSwap (bit1 w 31) sc kind (BitVec.ofNat 5 (fld w 15 5)) (BitVec.ofNat 5 (fld w 10 5)))
  else if fld w 20 5 = 9 then
    (Scope.ofCode (fld w 28 3)).bind fun sc => (Kind.ofCode (fld w 25 3)).bind fun kind => some (.amoCas (bit1 w 31) sc kind (BitVec.ofNat 5 (fld w 15 5)) (BitVec.ofNat 5 (fld w 10 5)))
  else if fld w 20 5 = 10 then
    (Scope.ofCode (fld w 28 3)).bind fun sc => (Kind.ofCode (fld w 25 3)).bind fun kind => some (.amoFaddF32 (bit1 w 31) sc kind (BitVec.ofNat 5 (fld w 15 5)) (BitVec.ofNat 5 (fld w 10 5)))
  else if fld w 20 5 = 11 then
    (Scope.ofCode (fld w 28 3)).bind fun sc => (Kind.ofCode (fld w 25 3)).bind fun kind => some (.amoFmaxF32 (bit1 w 31) sc kind (BitVec.ofNat 5 (fld w 15 5)) (BitVec.ofNat 5 (fld w 10 5)))
  else none

/-- Major 0x19 (R276): FENCE, FENCE_SC, FENCEF, ROPE_FORK, ROPE_JOIN, ROPE_XFER, ROPE_ADOPT, ROPE_DROP, ROPE_WAIT. -/
def decodeMajor19 (w : Nat) : Option Instr :=
  if fld w 10 15 = 0 ∧ fld w 28 4 = 0 then
    (Scope.ofCode (fld w 25 3)).bind fun sc => some (.fence sc)
  else if fld w 10 15 = 0 ∧ fld w 28 4 = 1 then
    (Scope.ofCode (fld w 25 3)).bind fun sc => some (.fenceSc sc)
  else if fld w 24 1 = 0 ∧ fld w 28 4 = 2 then
    (Scope.ofCode (fld w 25 3)).bind fun sc => some (.fencef sc (BitVec.ofNat 4 (fld w 20 4)) (BitVec.ofNat 5 (fld w 15 5)) (BitVec.ofNat 5 (fld w 10 5)))
  else if fld w 10 10 = 0 ∧ fld w 28 4 = 3 then
    some (.ropeFork (BitVec.ofNat 4 (fld w 24 4)) (BitVec.ofNat 4 (fld w 20 4)))
  else if fld w 14 6 = 0 ∧ fld w 28 4 = 4 then
    some (.ropeJoin (BitVec.ofNat 4 (fld w 24 4)) (BitVec.ofNat 4 (fld w 20 4)) (BitVec.ofNat 4 (fld w 10 4)))
  else if fld w 15 9 = 0 ∧ fld w 28 4 = 5 then
    some (.ropeXfer (BitVec.ofNat 4 (fld w 24 4)) (BitVec.ofNat 5 (fld w 10 5)))
  else if fld w 10 5 = 0 ∧ fld w 24 8 = 96 then
    some (.ropeAdopt (BitVec.ofNat 4 (fld w 20 4)) (BitVec.ofNat 5 (fld w 15 5)))
  else if fld w 10 10 = 0 ∧ fld w 24 8 = 112 then
    some (.ropeDrop (BitVec.ofNat 4 (fld w 20 4)))
  else if fld w 10 10 = 0 ∧ fld w 24 8 = 128 then
    some (.ropeWait (BitVec.ofNat 4 (fld w 20 4)))
  else none

/-- Major 0x1A (R276): SEND, SENDC, SPAWN, AREAD, TBIND. -/
def decodeMajor1A (w : Nat) : Option Instr :=
  if fld w 10 5 = 0 ∧ fld w 20 8 = 0 then
    some (.send (BitVec.ofNat 4 (fld w 28 4)) (BitVec.ofNat 5 (fld w 15 5)))
  else if fld w 10 5 = 0 ∧ fld w 25 3 = 1 then
    some (.sendc (BitVec.ofNat 4 (fld w 28 4)) (BitVec.ofNat 5 (fld w 20 5)) (BitVec.ofNat 5 (fld w 15 5)))
  else if fld w 10 5 = 0 ∧ fld w 25 3 = 2 then
    some (.spawn (BitVec.ofNat 4 (fld w 28 4)) (BitVec.ofNat 5 (fld w 20 5)) (BitVec.ofNat 5 (fld w 15 5)))
  else if fld w 10 5 = 0 ∧ fld w 25 3 = 3 then
    some (.aread (BitVec.ofNat 4 (fld w 28 4)) (BitVec.ofNat 5 (fld w 20 5)) (BitVec.ofNat 5 (fld w 15 5)))
  else if fld w 10 5 = 0 ∧ fld w 25 7 = 4 then
    some (.tbind (BitVec.ofNat 5 (fld w 20 5)) (BitVec.ofNat 5 (fld w 15 5)))
  else none

/-- Major 0x1B (R276): MCLD, MCST, MCJOIN. -/
def decodeMajor1B (w : Nat) : Option Instr :=
  if fld w 25 3 = 0 then
    some (.mcld (BitVec.ofNat 4 (fld w 28 4)) (BitVec.ofNat 5 (fld w 20 5)) (BitVec.ofNat 5 (fld w 15 5)) (BitVec.ofNat 5 (fld w 10 5)))
  else if fld w 25 3 = 1 then
    some (.mcst (BitVec.ofNat 4 (fld w 28 4)) (BitVec.ofNat 5 (fld w 20 5)) (BitVec.ofNat 5 (fld w 15 5)) (BitVec.ofNat 5 (fld w 10 5)))
  else if fld w 10 5 = 0 ∧ fld w 25 7 = 2 then
    some (.mcjoin (BitVec.ofNat 5 (fld w 20 5)) (BitVec.ofNat 5 (fld w 15 5)))
  else none

/-- Major 0x1C (R276): EVPOST, EVPOSTS, EVCFG, EVFLUSH, EVQUIET, EVCOUNT. -/
def decodeMajor1C (w : Nat) : Option Instr :=
  if fld w 14 1 = 0 ∧ fld w 25 3 = 0 then
    some (.evpost (BitVec.ofNat 4 (fld w 28 4)) (BitVec.ofNat 5 (fld w 20 5)) (BitVec.ofNat 5 (fld w 15 5)) (BitVec.ofNat 4 (fld w 10 4)))
  else if fld w 25 3 = 1 then
    some (.evposts (BitVec.ofNat 4 (fld w 28 4)) (BitVec.ofNat 5 (fld w 20 5)) (BitVec.ofNat 5 (fld w 15 5)) (BitVec.ofNat 5 (fld w 10 5)))
  else if fld w 10 5 = 0 ∧ fld w 20 8 = 64 then
    some (.evcfg (BitVec.ofNat 4 (fld w 28 4)) (BitVec.ofNat 5 (fld w 15 5)))
  else if fld w 10 18 = 98304 then
    some (.evflush (BitVec.ofNat 4 (fld w 28 4)))
  else if fld w 20 12 = 128 then
    some (.evquiet (BitVec.ofNat 5 (fld w 15 5)) (BitVec.ofNat 5 (fld w 10 5)))
  else if fld w 20 12 = 160 then
    some (.evcount (BitVec.ofNat 5 (fld w 15 5)) (BitVec.ofNat 5 (fld w 10 5)))
  else none

/-- Major 0x1D (R276): GJOIN, GLEAVE, GBAR, GCOUNT. -/
def decodeMajor1D (w : Nat) : Option Instr :=
  if fld w 10 16 = 0 then
    some (.gjoin (BitVec.ofNat 6 (fld w 26 6)))
  else if fld w 10 16 = 1024 then
    some (.gleave (BitVec.ofNat 6 (fld w 26 6)))
  else if fld w 15 11 = 64 then
    some (.gbar (BitVec.ofNat 6 (fld w 26 6)) (BitVec.ofNat 5 (fld w 10 5)))
  else if fld w 15 11 = 96 then
    some (.gcount (BitVec.ofNat 6 (fld w 26 6)) (BitVec.ofNat 5 (fld w 10 5)))
  else none

/-- Major 0x1E (R276): PREF, CFLUSH, CINV, TLBINV, TLBINV_ALL, TLBINV_B, TLBINV_B_ALL. -/
def decodeMajor1E (w : Nat) : Option Instr :=
  if fld w 10 5 = 0 ∧ fld w 25 7 = 0 then
    some (.pref (BitVec.ofNat 5 (fld w 20 5)) (BitVec.ofNat 5 (fld w 15 5)))
  else if fld w 10 5 = 0 ∧ fld w 25 7 = 1 then
    some (.cflush (BitVec.ofNat 5 (fld w 20 5)) (BitVec.ofNat 5 (fld w 15 5)))
  else if fld w 10 5 = 0 ∧ fld w 25 7 = 2 then
    some (.cinv (BitVec.ofNat 5 (fld w 20 5)) (BitVec.ofNat 5 (fld w 15 5)))
  else if fld w 10 5 = 0 ∧ fld w 20 12 = 96 then
    some (.tlbinv (BitVec.ofNat 5 (fld w 15 5)))
  else if fld w 10 22 = 98305 then
    some (.tlbinvAll)
  else if fld w 10 5 = 0 ∧ fld w 20 12 = 128 then
    some (.tlbinvB (BitVec.ofNat 5 (fld w 15 5)))
  else if fld w 10 22 = 131073 then
    some (.tlbinvBAll)
  else none

/-- Major 0x20 (R276): VADD_F, VSUB_F. -/
def decodeMajor20 (w : Nat) : Option Instr :=
  if fld w 31 1 = 0 then
    some (.vaddF (BitVec.ofNat 3 (fld w 28 3)) (BitVec.ofNat 6 (fld w 22 6)) (BitVec.ofNat 6 (fld w 16 6)) (BitVec.ofNat 6 (fld w 10 6)))
  else if fld w 31 1 = 1 then
    some (.vsubF (BitVec.ofNat 3 (fld w 28 3)) (BitVec.ofNat 6 (fld w 22 6)) (BitVec.ofNat 6 (fld w 16 6)) (BitVec.ofNat 6 (fld w 10 6)))
  else none

/-- Major 0x21 (R276): VMUL_F. -/
def decodeMajor21 (w : Nat) : Option Instr :=
  if fld w 31 1 = 0 then
    some (.vmulF (BitVec.ofNat 3 (fld w 28 3)) (BitVec.ofNat 6 (fld w 22 6)) (BitVec.ofNat 6 (fld w 16 6)) (BitVec.ofNat 6 (fld w 10 6)))
  else none

/-- Major 0x22 (R276): VFMA_F, VFMS_F. -/
def decodeMajor22 (w : Nat) : Option Instr :=
  if fld w 31 1 = 0 then
    some (.vfmaF (BitVec.ofNat 3 (fld w 28 3)) (BitVec.ofNat 6 (fld w 22 6)) (BitVec.ofNat 6 (fld w 16 6)) (BitVec.ofNat 6 (fld w 10 6)))
  else if fld w 31 1 = 1 then
    some (.vfmsF (BitVec.ofNat 3 (fld w 28 3)) (BitVec.ofNat 6 (fld w 22 6)) (BitVec.ofNat 6 (fld w 16 6)) (BitVec.ofNat 6 (fld w 10 6)))
  else none

/-- Major 0x23 (R276): VMIN_F, VMAX_F. -/
def decodeMajor23 (w : Nat) : Option Instr :=
  if fld w 31 1 = 0 then
    some (.vminF (BitVec.ofNat 3 (fld w 28 3)) (BitVec.ofNat 6 (fld w 22 6)) (BitVec.ofNat 6 (fld w 16 6)) (BitVec.ofNat 6 (fld w 10 6)))
  else if fld w 31 1 = 1 then
    some (.vmaxF (BitVec.ofNat 3 (fld w 28 3)) (BitVec.ofNat 6 (fld w 22 6)) (BitVec.ofNat 6 (fld w 16 6)) (BitVec.ofNat 6 (fld w 10 6)))
  else none

/-- Major 0x24 (R276): VADD_I, VSUB_I. -/
def decodeMajor24 (w : Nat) : Option Instr :=
  if fld w 31 1 = 0 then
    some (.vaddI (BitVec.ofNat 3 (fld w 28 3)) (BitVec.ofNat 6 (fld w 22 6)) (BitVec.ofNat 6 (fld w 16 6)) (BitVec.ofNat 6 (fld w 10 6)))
  else if fld w 31 1 = 1 then
    some (.vsubI (BitVec.ofNat 3 (fld w 28 3)) (BitVec.ofNat 6 (fld w 22 6)) (BitVec.ofNat 6 (fld w 16 6)) (BitVec.ofNat 6 (fld w 10 6)))
  else none

/-- Major 0x25 (R276): VMUL_I, VMULH_I. -/
def decodeMajor25 (w : Nat) : Option Instr :=
  if fld w 31 1 = 0 then
    some (.vmulI (BitVec.ofNat 3 (fld w 28 3)) (BitVec.ofNat 6 (fld w 22 6)) (BitVec.ofNat 6 (fld w 16 6)) (BitVec.ofNat 6 (fld w 10 6)))
  else if fld w 31 1 = 1 then
    some (.vmulhI (BitVec.ofNat 3 (fld w 28 3)) (BitVec.ofNat 6 (fld w 22 6)) (BitVec.ofNat 6 (fld w 16 6)) (BitVec.ofNat 6 (fld w 10 6)))
  else none

/-- Major 0x26 (R276): VMIN_I, VMAX_I. -/
def decodeMajor26 (w : Nat) : Option Instr :=
  if fld w 31 1 = 0 then
    some (.vminI (BitVec.ofNat 3 (fld w 28 3)) (BitVec.ofNat 6 (fld w 22 6)) (BitVec.ofNat 6 (fld w 16 6)) (BitVec.ofNat 6 (fld w 10 6)))
  else if fld w 31 1 = 1 then
    some (.vmaxI (BitVec.ofNat 3 (fld w 28 3)) (BitVec.ofNat 6 (fld w 22 6)) (BitVec.ofNat 6 (fld w 16 6)) (BitVec.ofNat 6 (fld w 10 6)))
  else none

/-- Major 0x27 (R276): VMINN, VMAXN. -/
def decodeMajor27 (w : Nat) : Option Instr :=
  if fld w 31 1 = 0 then
    some (.vminn (BitVec.ofNat 3 (fld w 28 3)) (BitVec.ofNat 6 (fld w 22 6)) (BitVec.ofNat 6 (fld w 16 6)) (BitVec.ofNat 6 (fld w 10 6)))
  else if fld w 31 1 = 1 then
    some (.vmaxn (BitVec.ofNat 3 (fld w 28 3)) (BitVec.ofNat 6 (fld w 22 6)) (BitVec.ofNat 6 (fld w 16 6)) (BitVec.ofNat 6 (fld w 10 6)))
  else none

/-- Major 0x28 (R276): VAND, VANDN. -/
def decodeMajor28 (w : Nat) : Option Instr :=
  if fld w 31 1 = 0 then
    some (.vand (BitVec.ofNat 3 (fld w 28 3)) (BitVec.ofNat 6 (fld w 22 6)) (BitVec.ofNat 6 (fld w 16 6)) (BitVec.ofNat 6 (fld w 10 6)))
  else if fld w 31 1 = 1 then
    some (.vandn (BitVec.ofNat 3 (fld w 28 3)) (BitVec.ofNat 6 (fld w 22 6)) (BitVec.ofNat 6 (fld w 16 6)) (BitVec.ofNat 6 (fld w 10 6)))
  else none

/-- Major 0x29 (R276): VOR, VXOR. -/
def decodeMajor29 (w : Nat) : Option Instr :=
  if fld w 31 1 = 0 then
    some (.vor (BitVec.ofNat 3 (fld w 28 3)) (BitVec.ofNat 6 (fld w 22 6)) (BitVec.ofNat 6 (fld w 16 6)) (BitVec.ofNat 6 (fld w 10 6)))
  else if fld w 31 1 = 1 then
    some (.vxor (BitVec.ofNat 3 (fld w 28 3)) (BitVec.ofNat 6 (fld w 22 6)) (BitVec.ofNat 6 (fld w 16 6)) (BitVec.ofNat 6 (fld w 10 6)))
  else none

/-- Major 0x2A (R276): VSHL, VSHR. -/
def decodeMajor2A (w : Nat) : Option Instr :=
  if fld w 31 1 = 0 then
    some (.vshl (BitVec.ofNat 3 (fld w 28 3)) (BitVec.ofNat 6 (fld w 22 6)) (BitVec.ofNat 6 (fld w 16 6)) (BitVec.ofNat 6 (fld w 10 6)))
  else if fld w 31 1 = 1 then
    some (.vshr (BitVec.ofNat 3 (fld w 28 3)) (BitVec.ofNat 6 (fld w 22 6)) (BitVec.ofNat 6 (fld w 16 6)) (BitVec.ofNat 6 (fld w 10 6)))
  else none

/-- Major 0x2B (R276): VSRA, VROT. -/
def decodeMajor2B (w : Nat) : Option Instr :=
  if fld w 31 1 = 0 then
    some (.vsra (BitVec.ofNat 3 (fld w 28 3)) (BitVec.ofNat 6 (fld w 22 6)) (BitVec.ofNat 6 (fld w 16 6)) (BitVec.ofNat 6 (fld w 10 6)))
  else if fld w 31 1 = 1 then
    some (.vrot (BitVec.ofNat 3 (fld w 28 3)) (BitVec.ofNat 6 (fld w 22 6)) (BitVec.ofNat 6 (fld w 16 6)) (BitVec.ofNat 6 (fld w 10 6)))
  else none

/-- Major 0x2C (R276): VSEL. -/
def decodeMajor2C (w : Nat) : Option Instr :=
  if fld w 31 1 = 0 then
    some (.vsel (BitVec.ofNat 3 (fld w 28 3)) (BitVec.ofNat 6 (fld w 22 6)) (BitVec.ofNat 6 (fld w 16 6)) (BitVec.ofNat 6 (fld w 10 6)))
  else none

/-- Major 0x2D (R276): VMAC_I. -/
def decodeMajor2D (w : Nat) : Option Instr :=
  if fld w 31 1 = 0 then
    some (.vmacI (BitVec.ofNat 3 (fld w 28 3)) (BitVec.ofNat 6 (fld w 22 6)) (BitVec.ofNat 6 (fld w 16 6)) (BitVec.ofNat 6 (fld w 10 6)))
  else none

/-- Major 0x30 (R276): VCPY, VNEG_F, VABS_F, VSQRT_F, VNOT, VNEG_I, VABS_I, VCLZ, VPOPC, VCVT_F_I, VCVT_F_N, VCVT_I_F, VNAR_BF16, VNAR_FP16, VNAR_E4M3, VNAR_E5M2, VNAR_E2M1, VNAR_I8. -/
def decodeMajor30 (w : Nat) : Option Instr :=
  if fld w 25 7 = 0 then
    some (.vcpy (BitVec.ofNat 3 (fld w 22 3)) (BitVec.ofNat 6 (fld w 16 6)) (BitVec.ofNat 6 (fld w 10 6)))
  else if fld w 25 7 = 1 then
    some (.vnegF (BitVec.ofNat 3 (fld w 22 3)) (BitVec.ofNat 6 (fld w 16 6)) (BitVec.ofNat 6 (fld w 10 6)))
  else if fld w 25 7 = 2 then
    some (.vabsF (BitVec.ofNat 3 (fld w 22 3)) (BitVec.ofNat 6 (fld w 16 6)) (BitVec.ofNat 6 (fld w 10 6)))
  else if fld w 25 7 = 3 then
    some (.vsqrtF (BitVec.ofNat 3 (fld w 22 3)) (BitVec.ofNat 6 (fld w 16 6)) (BitVec.ofNat 6 (fld w 10 6)))
  else if fld w 25 7 = 4 then
    some (.vnot (BitVec.ofNat 3 (fld w 22 3)) (BitVec.ofNat 6 (fld w 16 6)) (BitVec.ofNat 6 (fld w 10 6)))
  else if fld w 25 7 = 5 then
    some (.vnegI (BitVec.ofNat 3 (fld w 22 3)) (BitVec.ofNat 6 (fld w 16 6)) (BitVec.ofNat 6 (fld w 10 6)))
  else if fld w 25 7 = 6 then
    some (.vabsI (BitVec.ofNat 3 (fld w 22 3)) (BitVec.ofNat 6 (fld w 16 6)) (BitVec.ofNat 6 (fld w 10 6)))
  else if fld w 25 7 = 7 then
    some (.vclz (BitVec.ofNat 3 (fld w 22 3)) (BitVec.ofNat 6 (fld w 16 6)) (BitVec.ofNat 6 (fld w 10 6)))
  else if fld w 25 7 = 8 then
    some (.vpopc (BitVec.ofNat 3 (fld w 22 3)) (BitVec.ofNat 6 (fld w 16 6)) (BitVec.ofNat 6 (fld w 10 6)))
  else if fld w 25 7 = 16 then
    some (.vcvtFI (BitVec.ofNat 3 (fld w 22 3)) (BitVec.ofNat 6 (fld w 16 6)) (BitVec.ofNat 6 (fld w 10 6)))
  else if fld w 25 7 = 17 then
    some (.vcvtFN (BitVec.ofNat 3 (fld w 22 3)) (BitVec.ofNat 6 (fld w 16 6)) (BitVec.ofNat 6 (fld w 10 6)))
  else if fld w 25 7 = 18 then
    some (.vcvtIF (BitVec.ofNat 3 (fld w 22 3)) (BitVec.ofNat 6 (fld w 16 6)) (BitVec.ofNat 6 (fld w 10 6)))
  else if fld w 25 7 = 24 then
    some (.vnarBf16 (BitVec.ofNat 3 (fld w 22 3)) (BitVec.ofNat 6 (fld w 16 6)) (BitVec.ofNat 6 (fld w 10 6)))
  else if fld w 25 7 = 25 then
    some (.vnarFp16 (BitVec.ofNat 3 (fld w 22 3)) (BitVec.ofNat 6 (fld w 16 6)) (BitVec.ofNat 6 (fld w 10 6)))
  else if fld w 25 7 = 26 then
    some (.vnarE4m3 (BitVec.ofNat 3 (fld w 22 3)) (BitVec.ofNat 6 (fld w 16 6)) (BitVec.ofNat 6 (fld w 10 6)))
  else if fld w 25 7 = 27 then
    some (.vnarE5m2 (BitVec.ofNat 3 (fld w 22 3)) (BitVec.ofNat 6 (fld w 16 6)) (BitVec.ofNat 6 (fld w 10 6)))
  else if fld w 25 7 = 28 then
    some (.vnarE2m1 (BitVec.ofNat 3 (fld w 22 3)) (BitVec.ofNat 6 (fld w 16 6)) (BitVec.ofNat 6 (fld w 10 6)))
  else if fld w 25 7 = 29 then
    some (.vnarI8 (BitVec.ofNat 3 (fld w 22 3)) (BitVec.ofNat 6 (fld w 16 6)) (BitVec.ofNat 6 (fld w 10 6)))
  else none

/-- Major 0x31 (R276): VCMP_F_EQ, VCMP_F_NE, VCMP_F_LT, VCMP_F_LE, VCMP_F_UN, VCMP_I_EQ, VCMP_I_NE, VCMP_I_LT, VCMP_I_LE, VCMP_I_LO, VCMP_I_LS. -/
def decodeMajor31 (w : Nat) : Option Instr :=
  if fld w 13 3 = 0 ∧ fld w 31 1 = 0 then
    some (.vcmpFEq (BitVec.ofNat 3 (fld w 28 3)) (BitVec.ofNat 6 (fld w 22 6)) (BitVec.ofNat 6 (fld w 16 6)) (BitVec.ofNat 3 (fld w 10 3)))
  else if fld w 13 3 = 1 ∧ fld w 31 1 = 0 then
    some (.vcmpFNe (BitVec.ofNat 3 (fld w 28 3)) (BitVec.ofNat 6 (fld w 22 6)) (BitVec.ofNat 6 (fld w 16 6)) (BitVec.ofNat 3 (fld w 10 3)))
  else if fld w 13 3 = 2 ∧ fld w 31 1 = 0 then
    some (.vcmpFLt (BitVec.ofNat 3 (fld w 28 3)) (BitVec.ofNat 6 (fld w 22 6)) (BitVec.ofNat 6 (fld w 16 6)) (BitVec.ofNat 3 (fld w 10 3)))
  else if fld w 13 3 = 3 ∧ fld w 31 1 = 0 then
    some (.vcmpFLe (BitVec.ofNat 3 (fld w 28 3)) (BitVec.ofNat 6 (fld w 22 6)) (BitVec.ofNat 6 (fld w 16 6)) (BitVec.ofNat 3 (fld w 10 3)))
  else if fld w 13 3 = 4 ∧ fld w 31 1 = 0 then
    some (.vcmpFUn (BitVec.ofNat 3 (fld w 28 3)) (BitVec.ofNat 6 (fld w 22 6)) (BitVec.ofNat 6 (fld w 16 6)) (BitVec.ofNat 3 (fld w 10 3)))
  else if fld w 13 3 = 0 ∧ fld w 31 1 = 1 then
    some (.vcmpIEq (BitVec.ofNat 3 (fld w 28 3)) (BitVec.ofNat 6 (fld w 22 6)) (BitVec.ofNat 6 (fld w 16 6)) (BitVec.ofNat 3 (fld w 10 3)))
  else if fld w 13 3 = 1 ∧ fld w 31 1 = 1 then
    some (.vcmpINe (BitVec.ofNat 3 (fld w 28 3)) (BitVec.ofNat 6 (fld w 22 6)) (BitVec.ofNat 6 (fld w 16 6)) (BitVec.ofNat 3 (fld w 10 3)))
  else if fld w 13 3 = 2 ∧ fld w 31 1 = 1 then
    some (.vcmpILt (BitVec.ofNat 3 (fld w 28 3)) (BitVec.ofNat 6 (fld w 22 6)) (BitVec.ofNat 6 (fld w 16 6)) (BitVec.ofNat 3 (fld w 10 3)))
  else if fld w 13 3 = 3 ∧ fld w 31 1 = 1 then
    some (.vcmpILe (BitVec.ofNat 3 (fld w 28 3)) (BitVec.ofNat 6 (fld w 22 6)) (BitVec.ofNat 6 (fld w 16 6)) (BitVec.ofNat 3 (fld w 10 3)))
  else if fld w 13 3 = 4 ∧ fld w 31 1 = 1 then
    some (.vcmpILo (BitVec.ofNat 3 (fld w 28 3)) (BitVec.ofNat 6 (fld w 22 6)) (BitVec.ofNat 6 (fld w 16 6)) (BitVec.ofNat 3 (fld w 10 3)))
  else if fld w 13 3 = 5 ∧ fld w 31 1 = 1 then
    some (.vcmpILs (BitVec.ofNat 3 (fld w 28 3)) (BitVec.ofNat 6 (fld w 22 6)) (BitVec.ofNat 6 (fld w 16 6)) (BitVec.ofNat 3 (fld w 10 3)))
  else none

/-- Major 0x32 (R276): VLD, VLD_LS. -/
def decodeMajor32 (w : Nat) : Option Instr :=
  if fld w 21 3 = 0 ∧ fld w 27 2 = 0 then
    (Ord.ofCode (fld w 29 2)).bind fun ord => some (.vld (bit1 w 31) ord (BitVec.ofNat 3 (fld w 24 3)) (BitVec.ofNat 5 (fld w 16 5)) (BitVec.ofNat 6 (fld w 10 6)))
  else if fld w 22 2 = 0 ∧ fld w 27 5 = 1 then
    some (.vldLs (BitVec.ofNat 3 (fld w 24 3)) (BitVec.ofNat 6 (fld w 16 6)) (BitVec.ofNat 6 (fld w 10 6)))
  else none

/-- Major 0x33 (R276): VST, VST_LS. -/
def decodeMajor33 (w : Nat) : Option Instr :=
  if fld w 21 3 = 0 ∧ fld w 27 2 = 0 then
    (Ord.ofCode (fld w 29 2)).bind fun ord => some (.vst (bit1 w 31) ord (BitVec.ofNat 3 (fld w 24 3)) (BitVec.ofNat 5 (fld w 16 5)) (BitVec.ofNat 6 (fld w 10 6)))
  else if fld w 22 2 = 0 ∧ fld w 27 5 = 1 then
    some (.vstLs (BitVec.ofNat 3 (fld w 24 3)) (BitVec.ofNat 6 (fld w 16 6)) (BitVec.ofNat 6 (fld w 10 6)))
  else none

/-- Major 0x34 (R276): VGATH, VSCAT. -/
def decodeMajor34 (w : Nat) : Option Instr :=
  if fld w 30 1 = 0 then
    some (.vgath (bit1 w 31) (BitVec.ofNat 3 (fld w 27 3)) (BitVec.ofNat 6 (fld w 21 6)) (BitVec.ofNat 5 (fld w 16 5)) (BitVec.ofNat 6 (fld w 10 6)))
  else if fld w 30 1 = 1 then
    some (.vscat (bit1 w 31) (BitVec.ofNat 3 (fld w 27 3)) (BitVec.ofNat 6 (fld w 21 6)) (BitVec.ofNat 5 (fld w 16 5)) (BitVec.ofNat 6 (fld w 10 6)))
  else none

/-- Major 0x35 (R276): TMLD, SOPEN, SCLOSE, SSTAT. -/
def decodeMajor35 (w : Nat) : Option Instr :=
  if fld w 10 2 = 0 ∧ fld w 20 12 = 0 then
    some (.tmld (BitVec.ofNat 5 (fld w 15 5)) (BitVec.ofNat 3 (fld w 12 3)))
  else if fld w 15 5 = 0 ∧ fld w 24 8 = 32 then
    some (.sopen (BitVec.ofNat 4 (fld w 20 4)) (BitVec.ofNat 3 (fld w 12 3)) (BitVec.ofNat 2 (fld w 10 2)))
  else if fld w 12 20 = 262144 then
    some (.sclose (BitVec.ofNat 2 (fld w 10 2)))
  else if fld w 12 3 = 0 ∧ fld w 20 12 = 1536 then
    some (.sstat (BitVec.ofNat 5 (fld w 15 5)) (BitVec.ofNat 2 (fld w 10 2)))
  else none

/-- Major 0x36 (R276): PAND, POR, PXOR, PNOT, PCNT, PFIRST, PSET, PGET_PREDICATE. -/
def decodeMajor36 (w : Nat) : Option Instr :=
  if fld w 19 13 = 0 then
    some (.pand (BitVec.ofNat 3 (fld w 16 3)) (BitVec.ofNat 3 (fld w 13 3)) (BitVec.ofNat 3 (fld w 10 3)))
  else if fld w 19 13 = 512 then
    some (.por (BitVec.ofNat 3 (fld w 16 3)) (BitVec.ofNat 3 (fld w 13 3)) (BitVec.ofNat 3 (fld w 10 3)))
  else if fld w 19 13 = 1024 then
    some (.pxor (BitVec.ofNat 3 (fld w 16 3)) (BitVec.ofNat 3 (fld w 13 3)) (BitVec.ofNat 3 (fld w 10 3)))
  else if fld w 16 16 = 12288 then
    some (.pnot (BitVec.ofNat 3 (fld w 13 3)) (BitVec.ofNat 3 (fld w 10 3)))
  else if fld w 10 3 = 0 ∧ fld w 16 3 = 0 ∧ fld w 24 8 = 64 then
    some (.pcnt (BitVec.ofNat 5 (fld w 19 5)) (BitVec.ofNat 3 (fld w 13 3)))
  else if fld w 10 3 = 0 ∧ fld w 16 3 = 0 ∧ fld w 24 8 = 80 then
    some (.pfirst (BitVec.ofNat 5 (fld w 19 5)) (BitVec.ofNat 3 (fld w 13 3)))
  else if fld w 13 6 = 0 ∧ fld w 24 8 = 96 then
    some (.pset (BitVec.ofNat 5 (fld w 19 5)) (BitVec.ofNat 3 (fld w 10 3)))
  else if fld w 10 3 = 0 ∧ fld w 16 3 = 0 ∧ fld w 24 8 = 112 then
    some (.pgetPredicate (BitVec.ofNat 5 (fld w 19 5)) (BitVec.ofNat 3 (fld w 13 3)))
  else none

/-- Major 0x37 (R276): VRADD_F, VRMAX_F, VRMIN_F, VRADD_I, VRMAX_I, VRMIN_I, VRAND, VROR, VRXOR. -/
def decodeMajor37 (w : Nat) : Option Instr :=
  if fld w 15 1 = 0 ∧ fld w 25 7 = 0 then
    some (.vraddF (BitVec.ofNat 3 (fld w 22 3)) (BitVec.ofNat 6 (fld w 16 6)) (BitVec.ofNat 5 (fld w 10 5)))
  else if fld w 15 1 = 0 ∧ fld w 25 7 = 1 then
    some (.vrmaxF (BitVec.ofNat 3 (fld w 22 3)) (BitVec.ofNat 6 (fld w 16 6)) (BitVec.ofNat 5 (fld w 10 5)))
  else if fld w 15 1 = 0 ∧ fld w 25 7 = 2 then
    some (.vrminF (BitVec.ofNat 3 (fld w 22 3)) (BitVec.ofNat 6 (fld w 16 6)) (BitVec.ofNat 5 (fld w 10 5)))
  else if fld w 15 1 = 0 ∧ fld w 25 7 = 3 then
    some (.vraddI (BitVec.ofNat 3 (fld w 22 3)) (BitVec.ofNat 6 (fld w 16 6)) (BitVec.ofNat 5 (fld w 10 5)))
  else if fld w 15 1 = 0 ∧ fld w 25 7 = 4 then
    some (.vrmaxI (BitVec.ofNat 3 (fld w 22 3)) (BitVec.ofNat 6 (fld w 16 6)) (BitVec.ofNat 5 (fld w 10 5)))
  else if fld w 15 1 = 0 ∧ fld w 25 7 = 5 then
    some (.vrminI (BitVec.ofNat 3 (fld w 22 3)) (BitVec.ofNat 6 (fld w 16 6)) (BitVec.ofNat 5 (fld w 10 5)))
  else if fld w 15 1 = 0 ∧ fld w 25 7 = 6 then
    some (.vrand (BitVec.ofNat 3 (fld w 22 3)) (BitVec.ofNat 6 (fld w 16 6)) (BitVec.ofNat 5 (fld w 10 5)))
  else if fld w 15 1 = 0 ∧ fld w 25 7 = 7 then
    some (.vror (BitVec.ofNat 3 (fld w 22 3)) (BitVec.ofNat 6 (fld w 16 6)) (BitVec.ofNat 5 (fld w 10 5)))
  else if fld w 15 1 = 0 ∧ fld w 25 7 = 8 then
    some (.vrxor (BitVec.ofNat 3 (fld w 22 3)) (BitVec.ofNat 6 (fld w 16 6)) (BitVec.ofNat 5 (fld w 10 5)))
  else none

/-- Major 0x38 (R276): VBCAST, VEXT, VINS, VPERM, VSLIDE_UP, VSLIDE_DN, VIOTA. -/
def decodeMajor38 (w : Nat) : Option Instr :=
  if fld w 21 11 = 0 then
    some (.vbcast (BitVec.ofNat 5 (fld w 16 5)) (BitVec.ofNat 6 (fld w 10 6)))
  else if fld w 15 1 = 0 ∧ fld w 28 4 = 1 then
    some (.vext (BitVec.ofNat 6 (fld w 22 6)) (BitVec.ofNat 6 (fld w 16 6)) (BitVec.ofNat 5 (fld w 10 5)))
  else if fld w 21 1 = 0 ∧ fld w 28 4 = 2 then
    some (.vins (BitVec.ofNat 6 (fld w 22 6)) (BitVec.ofNat 5 (fld w 16 5)) (BitVec.ofNat 6 (fld w 10 6)))
  else if fld w 28 4 = 3 then
    some (.vperm (BitVec.ofNat 6 (fld w 22 6)) (BitVec.ofNat 6 (fld w 16 6)) (BitVec.ofNat 6 (fld w 10 6)))
  else if fld w 28 4 = 4 then
    some (.vslideUp (BitVec.ofNat 6 (fld w 22 6)) (BitVec.ofNat 6 (fld w 16 6)) (BitVec.ofNat 6 (fld w 10 6)))
  else if fld w 28 4 = 5 then
    some (.vslideDn (BitVec.ofNat 6 (fld w 22 6)) (BitVec.ofNat 6 (fld w 16 6)) (BitVec.ofNat 6 (fld w 10 6)))
  else if fld w 16 16 = 24576 then
    some (.viota (BitVec.ofNat 6 (fld w 10 6)))
  else none

/-- Major 0x39 (R276): VFEXP2, VRINT, VEXPI, VEXPX, VRCP, VRSQ. -/
def decodeMajor39 (w : Nat) : Option Instr :=
  if fld w 25 7 = 0 then
    some (.vfexp2 (BitVec.ofNat 3 (fld w 22 3)) (BitVec.ofNat 6 (fld w 16 6)) (BitVec.ofNat 6 (fld w 10 6)))
  else if fld w 25 7 = 1 then
    some (.vrint (BitVec.ofNat 3 (fld w 22 3)) (BitVec.ofNat 6 (fld w 16 6)) (BitVec.ofNat 6 (fld w 10 6)))
  else if fld w 25 7 = 2 then
    some (.vexpi (BitVec.ofNat 3 (fld w 22 3)) (BitVec.ofNat 6 (fld w 16 6)) (BitVec.ofNat 6 (fld w 10 6)))
  else if fld w 25 7 = 3 then
    some (.vexpx (BitVec.ofNat 3 (fld w 22 3)) (BitVec.ofNat 6 (fld w 16 6)) (BitVec.ofNat 6 (fld w 10 6)))
  else if fld w 25 7 = 4 then
    some (.vrcp (BitVec.ofNat 3 (fld w 22 3)) (BitVec.ofNat 6 (fld w 16 6)) (BitVec.ofNat 6 (fld w 10 6)))
  else if fld w 25 7 = 5 then
    some (.vrsq (BitVec.ofNat 3 (fld w 22 3)) (BitVec.ofNat 6 (fld w 16 6)) (BitVec.ofNat 6 (fld w 10 6)))
  else none

/-- Major 0x3A (R276): MXQ, MXWAIT, MXSTAT, MXSTAT_C. -/
def decodeMajor3A (w : Nat) : Option Instr :=
  if fld w 15 5 = 0 ∧ fld w 26 6 = 0 then
    some (.mxq (BitVec.ofNat 6 (fld w 20 6)) (BitVec.ofNat 5 (fld w 10 5)))
  else if fld w 10 5 = 0 ∧ fld w 20 12 = 256 then
    some (.mxwait (BitVec.ofNat 5 (fld w 15 5)))
  else if fld w 15 17 = 16384 then
    some (.mxstat (BitVec.ofNat 5 (fld w 10 5)))
  else if fld w 15 17 = 18432 then
    some (.mxstatC (BitVec.ofNat 5 (fld w 10 5)))
  else none

/-- Major 0x3B (R276): RACK_TAKE, RACK_GIVE, RACK_QRY. -/
def decodeMajor3B (w : Nat) : Option Instr :=
  if fld w 10 10 = 0 ∧ fld w 24 8 = 0 then
    some (.rackTake (BitVec.ofNat 4 (fld w 20 4)))
  else if fld w 10 10 = 0 ∧ fld w 24 8 = 16 then
    some (.rackGive (BitVec.ofNat 4 (fld w 20 4)))
  else if fld w 15 17 = 16384 then
    some (.rackQry (BitVec.ofNat 5 (fld w 10 5)))
  else none

/-- The 16-bit forms and the ROPE prefix (R274, R275). -/
def decode16 (w : Nat) : Option Instr :=
  if fld w 4 4 = 0 then
    some (.cMv (BitVec.ofNat 4 (fld w 12 4)) (BitVec.ofNat 4 (fld w 8 4)))
  else if fld w 4 4 = 1 then
    some (.cAdd (BitVec.ofNat 4 (fld w 12 4)) (BitVec.ofNat 4 (fld w 8 4)))
  else if fld w 4 4 = 2 then
    some (.cSub (BitVec.ofNat 4 (fld w 12 4)) (BitVec.ofNat 4 (fld w 8 4)))
  else if fld w 4 4 = 3 then
    some (.cAddi (BitVec.ofNat 4 (fld w 12 4)) (BitVec.ofNat 4 (fld w 8 4)))
  else if fld w 4 4 = 4 then
    some (.cLi (BitVec.ofNat 4 (fld w 12 4)) (BitVec.ofNat 4 (fld w 8 4)))
  else if fld w 4 4 = 5 then
    some (.cLd (BitVec.ofNat 4 (fld w 12 4)) (BitVec.ofNat 4 (fld w 8 4)))
  else if fld w 4 4 = 6 then
    some (.cSt (BitVec.ofNat 4 (fld w 12 4)) (BitVec.ofNat 4 (fld w 8 4)))
  else if fld w 4 4 = 7 then
    some (.cAnd (BitVec.ofNat 4 (fld w 12 4)) (BitVec.ofNat 4 (fld w 8 4)))
  else if fld w 4 4 = 8 then
    some (.cOr (BitVec.ofNat 4 (fld w 12 4)) (BitVec.ofNat 4 (fld w 8 4)))
  else if fld w 4 4 = 9 then
    some (.cShli (BitVec.ofNat 4 (fld w 12 4)) (BitVec.ofNat 4 (fld w 8 4)))
  else if fld w 4 4 = 10 then
    some (.cShri (BitVec.ofNat 4 (fld w 12 4)) (BitVec.ofNat 4 (fld w 8 4)))
  else if fld w 4 4 = 11 then
    some (.cBnz (BitVec.ofNat 4 (fld w 12 4)) (BitVec.ofNat 4 (fld w 8 4)))
  else if fld w 4 4 = 12 then
    some (.cJ (BitVec.ofNat 8 (fld w 8 8)))
  else if fld w 4 4 = 13 ∧ fld w 8 8 = 0 then
    some (.cDone)
  else if fld w 4 4 = 14 ∧ fld w 8 8 = 0 then
    some (.cYield)
  else if fld w 4 4 = 15 ∧ fld w 12 4 = 0 then
    some (.ropePrefix (BitVec.ofNat 4 (fld w 8 4)))
  else none

/-- A 32-bit word by its major opcode (R276); the other majors are reserved (R277). -/
def decode32 (w : Nat) : Option Instr :=
  match fld w 4 6 with
  | 0x00 => decodeMajor00 w
  | 0x01 => decodeMajor01 w
  | 0x02 => decodeMajor02 w
  | 0x03 => decodeMajor03 w
  | 0x04 => decodeMajor04 w
  | 0x05 => decodeMajor05 w
  | 0x06 => decodeMajor06 w
  | 0x07 => decodeMajor07 w
  | 0x08 => decodeMajor08 w
  | 0x09 => decodeMajor09 w
  | 0x0A => decodeMajor0A w
  | 0x0B => decodeMajor0B w
  | 0x0C => decodeMajor0C w
  | 0x0E => decodeMajor0E w
  | 0x0F => decodeMajor0F w
  | 0x10 => decodeMajor10 w
  | 0x11 => decodeMajor11 w
  | 0x12 => decodeMajor12 w
  | 0x13 => decodeMajor13 w
  | 0x14 => decodeMajor14 w
  | 0x15 => decodeMajor15 w
  | 0x16 => decodeMajor16 w
  | 0x17 => decodeMajor17 w
  | 0x18 => decodeMajor18 w
  | 0x19 => decodeMajor19 w
  | 0x1A => decodeMajor1A w
  | 0x1B => decodeMajor1B w
  | 0x1C => decodeMajor1C w
  | 0x1D => decodeMajor1D w
  | 0x1E => decodeMajor1E w
  | 0x20 => decodeMajor20 w
  | 0x21 => decodeMajor21 w
  | 0x22 => decodeMajor22 w
  | 0x23 => decodeMajor23 w
  | 0x24 => decodeMajor24 w
  | 0x25 => decodeMajor25 w
  | 0x26 => decodeMajor26 w
  | 0x27 => decodeMajor27 w
  | 0x28 => decodeMajor28 w
  | 0x29 => decodeMajor29 w
  | 0x2A => decodeMajor2A w
  | 0x2B => decodeMajor2B w
  | 0x2C => decodeMajor2C w
  | 0x2D => decodeMajor2D w
  | 0x30 => decodeMajor30 w
  | 0x31 => decodeMajor31 w
  | 0x32 => decodeMajor32 w
  | 0x33 => decodeMajor33 w
  | 0x34 => decodeMajor34 w
  | 0x35 => decodeMajor35 w
  | 0x36 => decodeMajor36 w
  | 0x37 => decodeMajor37 w
  | 0x38 => decodeMajor38 w
  | 0x39 => decodeMajor39 w
  | 0x3A => decodeMajor3A w
  | 0x3B => decodeMajor3B w
  | _ => none

/-- Bit 0 of a parcel decides the length of the word (R263). -/
def isLong (parcel : Nat) : Bool := fld parcel 0 1 == 1

/-- The instruction of one parcel, or of a parcel and the parcel after it, when the pattern is an instruction
(R263, R277). The parcel 0x0000 is no instruction (R275). -/
def decodeWord (w : Nat) : Option Instr :=
  if isLong w then (decode32 w).filter Instr.wellFormed
  else if w % 65536 = 0 then none
  else (decode16 (w % 65536)).filter Instr.wellFormed

/-- The stall count of a word, bits [3:1] (R266). -/
def stallOf (w : Nat) : Nat := fld w 1 3

/-- The number of bytes a word takes: 4 when bit 0 is set, else 2 (R263). -/
def wordBytes (w : Nat) : Nat := if isLong w then 4 else 2

/-- Little-endian bytes as a number (R263). -/
def leNat : List Byte → Nat
  | [] => 0
  | b :: bs => b.toNat + 256 * leNat bs

/-- The low `n` bytes of a number, lowest first (R263). -/
def leBytes : Nat → Nat → List Byte
  | 0, _ => []
  | n + 1, v => BitVec.ofNat 8 v :: leBytes n (v / 256)

/-- The instruction at the head of a list of code bytes, and the bytes after it. -/
def decodeBytes (bs : List Byte) : Option (Instr × List Byte) :=
  match bs with
  | b0 :: b1 :: rest =>
    let p := leNat [b0, b1]
    if isLong p then
      match rest with
      | b2 :: b3 :: rest' => (decodeWord (leNat [b0, b1, b2, b3])).map fun i => (i, rest')
      | _ => none
    else (decodeWord p).map fun i => (i, rest)
  | _ => none

/-- The instruction the decoder reads from the bits of an opcode-table row, laid out as code bytes with zeros above. -/
def decodeTableWord (nbits w : Nat) : Option Instr :=
  (decodeBytes (leBytes 6 (w % 2 ^ nbits))).map Prod.fst

/-- Bit 0 of an instruction's word: clear for the 16-bit forms (R263). -/
def Instr.long (i : Instr) : Bool :=
  match i with
  | .cMv _ _ => false
  | .cAdd _ _ => false
  | .cSub _ _ => false
  | .cAddi _ _ => false
  | .cLi _ _ => false
  | .cLd _ _ => false
  | .cSt _ _ => false
  | .cAnd _ _ => false
  | .cOr _ _ => false
  | .cShli _ _ => false
  | .cShri _ _ => false
  | .cBnz _ _ => false
  | .cJ _ => false
  | .cDone => false
  | .cYield => false
  | .ropePrefix _ => false
  | _ => true

/-- The fields of an instruction's word above its stall count, as widths and values, low bits first; an event of the
device has no word. -/
def Instr.fields (i : Instr) : List (Nat × Nat) :=
  match i with
  | .padd rb ra rd => [(6, 12), (5, rd.toNat), (5, ra.toNat), (5, rb.toNat), (7, 0)]
  | .psub rb ra rd => [(6, 12), (5, rd.toNat), (5, ra.toNat), (5, rb.toNat), (7, 1)]
  | .ptag rb ra rd => [(6, 12), (5, rd.toNat), (5, ra.toNat), (5, rb.toNat), (7, 2)]
  | .pget ra rd => [(6, 12), (5, rd.toNat), (5, ra.toNat), (12, 96)]
  | .pstrip ra rd => [(6, 12), (5, rd.toNat), (5, ra.toNat), (12, 128)]
  | .add rb ra rd => [(6, 1), (5, rd.toNat), (5, ra.toNat), (5, rb.toNat), (7, 0)]
  | .sub rb ra rd => [(6, 1), (5, rd.toNat), (5, ra.toNat), (5, rb.toNat), (7, 1)]
  | .and_ rb ra rd => [(6, 1), (5, rd.toNat), (5, ra.toNat), (5, rb.toNat), (7, 2)]
  | .or_ rb ra rd => [(6, 1), (5, rd.toNat), (5, ra.toNat), (5, rb.toNat), (7, 3)]
  | .xor_ rb ra rd => [(6, 1), (5, rd.toNat), (5, ra.toNat), (5, rb.toNat), (7, 4)]
  | .shl rb ra rd => [(6, 1), (5, rd.toNat), (5, ra.toNat), (5, rb.toNat), (7, 5)]
  | .shr rb ra rd => [(6, 1), (5, rd.toNat), (5, ra.toNat), (5, rb.toNat), (7, 6)]
  | .sra rb ra rd => [(6, 1), (5, rd.toNat), (5, ra.toNat), (5, rb.toNat), (7, 7)]
  | .rot rb ra rd => [(6, 1), (5, rd.toNat), (5, ra.toNat), (5, rb.toNat), (7, 8)]
  | .slt rb ra rd => [(6, 1), (5, rd.toNat), (5, ra.toNat), (5, rb.toNat), (7, 9)]
  | .sltn rb ra rd => [(6, 1), (5, rd.toNat), (5, ra.toNat), (5, rb.toNat), (7, 10)]
  | .min_ rb ra rd => [(6, 1), (5, rd.toNat), (5, ra.toNat), (5, rb.toNat), (7, 11)]
  | .max_ rb ra rd => [(6, 1), (5, rd.toNat), (5, ra.toNat), (5, rb.toNat), (7, 12)]
  | .minn rb ra rd => [(6, 1), (5, rd.toNat), (5, ra.toNat), (5, rb.toNat), (7, 13)]
  | .maxn rb ra rd => [(6, 1), (5, rd.toNat), (5, ra.toNat), (5, rb.toNat), (7, 14)]
  | .sel rb ra rd => [(6, 1), (5, rd.toNat), (5, ra.toNat), (5, rb.toNat), (7, 15)]
  | .clz ra rd => [(6, 1), (5, rd.toNat), (5, ra.toNat), (12, 512)]
  | .ctz ra rd => [(6, 1), (5, rd.toNat), (5, ra.toNat), (12, 544)]
  | .popc ra rd => [(6, 1), (5, rd.toNat), (5, ra.toNat), (12, 576)]
  | .brev ra rd => [(6, 1), (5, rd.toNat), (5, ra.toNat), (12, 608)]
  | .addi imm ra rd => [(6, 2), (5, rd.toNat), (5, ra.toNat), (12, imm.toNat)]
  | .andi imm ra rd => [(6, 3), (5, rd.toNat), (5, ra.toNat), (12, imm.toNat)]
  | .ori imm ra rd => [(6, 4), (5, rd.toNat), (5, ra.toNat), (12, imm.toNat)]
  | .xori imm ra rd => [(6, 5), (5, rd.toNat), (5, ra.toNat), (12, imm.toNat)]
  | .slti imm ra rd => [(6, 6), (5, rd.toNat), (5, ra.toNat), (12, imm.toNat)]
  | .shli amt ra rd => [(6, 7), (5, rd.toNat), (5, ra.toNat), (6, amt.toNat), (6, 0)]
  | .shri amt ra rd => [(6, 7), (5, rd.toNat), (5, ra.toNat), (6, amt.toNat), (6, 1)]
  | .srai amt ra rd => [(6, 7), (5, rd.toNat), (5, ra.toNat), (6, amt.toNat), (6, 2)]
  | .roti amt ra rd => [(6, 7), (5, rd.toNat), (5, ra.toNat), (6, amt.toNat), (6, 3)]
  | .lui imm rd => [(6, 8), (5, rd.toNat), (17, imm.toNat)]
  | .addpc imm rd => [(6, 9), (5, rd.toNat), (17, imm.toNat)]
  | .bxt width off ra rd => [(6, 10), (4, rd.toNat), (1, 0), (4, ra.toNat), (1, 0), (6, off.toNat), (6, width.toNat)]
  | .bxtn width off ra rd => [(6, 10), (4, rd.toNat), (1, 1), (4, ra.toNat), (1, 0), (6, off.toNat), (6, width.toNat)]
  | .bins width off ra rd => [(6, 10), (4, rd.toNat), (1, 0), (4, ra.toNat), (1, 1), (6, off.toNat), (6, width.toNat)]
  | .mul rb ra rd => [(6, 11), (5, rd.toNat), (5, ra.toNat), (5, rb.toNat), (7, 0)]
  | .mulh rb ra rd => [(6, 11), (5, rd.toNat), (5, ra.toNat), (5, rb.toNat), (7, 1)]
  | .mulhn rb ra rd => [(6, 11), (5, rd.toNat), (5, ra.toNat), (5, rb.toNat), (7, 2)]
  | .div rb ra rd => [(6, 11), (5, rd.toNat), (5, ra.toNat), (5, rb.toNat), (7, 3)]
  | .divn rb ra rd => [(6, 11), (5, rd.toNat), (5, ra.toNat), (5, rb.toNat), (7, 4)]
  | .rem rb ra rd => [(6, 11), (5, rd.toNat), (5, ra.toNat), (5, rb.toNat), (7, 5)]
  | .remn rb ra rd => [(6, 11), (5, rd.toNat), (5, ra.toNat), (5, rb.toNat), (7, 6)]
  | .beq off rb ra => [(6, 14), (5, ra.toNat), (5, rb.toNat), (3, 0), (9, off.toNat)]
  | .bne off rb ra => [(6, 14), (5, ra.toNat), (5, rb.toNat), (3, 1), (9, off.toNat)]
  | .blt off rb ra => [(6, 14), (5, ra.toNat), (5, rb.toNat), (3, 2), (9, off.toNat)]
  | .bge off rb ra => [(6, 14), (5, ra.toNat), (5, rb.toNat), (3, 3), (9, off.toNat)]
  | .blo off rb ra => [(6, 14), (5, ra.toNat), (5, rb.toNat), (3, 4), (9, off.toNat)]
  | .bhs off rb ra => [(6, 14), (5, ra.toNat), (5, rb.toNat), (3, 5), (9, off.toNat)]
  | .bz off ra => [(6, 15), (5, ra.toNat), (5, 0), (12, off.toNat)]
  | .bnz off ra => [(6, 15), (5, ra.toNat), (5, 1), (12, off.toNat)]
  | .j off => [(6, 16), (22, off.toNat)]
  | .jal off => [(6, 17), (22, off.toNat)]
  | .jalr imm ra rd => [(6, 18), (5, rd.toNat), (5, ra.toNat), (12, imm.toNat)]
  | .loop off stp => [(6, 19), (5, stp.toNat), (5, 0), (12, off.toNat)]
  | .nop => [(6, 0), (22, 0)]
  | .hintYield => [(6, 0), (22, 1)]
  | .hintAlign => [(6, 0), (22, 2)]
  | .done_ => [(6, 0), (22, 3)]
  | .trap code => [(6, 0), (10, 4), (12, code.toNat)]
  | .tret => [(6, 0), (22, 5)]
  | .abort code => [(6, 0), (10, 6), (12, code.toNat)]
  | .mfcr cr rd => [(6, 0), (5, 7), (5, rd.toNat), (12, cr.toNat)]
  | .mtcr cr ra => [(6, 0), (5, 8), (5, ra.toNat), (12, cr.toNat)]
  | .mfid id rd => [(6, 0), (5, 9), (5, rd.toNat), (6, id.toNat), (6, 0)]
  | .sleep ra => [(6, 0), (5, 10), (5, ra.toNat), (12, 0)]
  | .waitx ra => [(6, 0), (5, 11), (5, ra.toNat), (12, 0)]
  | .lnch queue ra rd => [(6, 0), (5, 12), (5, rd.toNat), (5, ra.toNat), (3, queue.toNat), (4, 0)]
  | .slave leader => [(6, 0), (10, 13), (3, leader.toNat), (9, 0)]
  | .unslave => [(6, 0), (22, 14)]
  | .ld rsel sc kind off ra rd => [(6, 20), (5, rd.toNat), (5, ra.toNat), (5, off.toNat), (3, kind.code), (3, sc.code), (1, rsel.toNat)]
  | .st rsel sc kind off ra rs => [(6, 21), (5, rs.toNat), (5, ra.toNat), (5, off.toNat), (3, kind.code), (3, sc.code), (1, rsel.toNat)]
  | .ldx rsel ord zx size rb ra rd => [(6, 22), (5, rd.toNat), (5, ra.toNat), (5, rb.toNat), (2, size.code), (1, zx.toNat), (1, 0), (2, ord.code), (1, rsel.toNat)]
  | .stx rsel ord size rb ra rs => [(6, 22), (5, rs.toNat), (5, ra.toNat), (5, rb.toNat), (2, size.code), (2, 2), (2, ord.code), (1, rsel.toNat)]
  | .ldfeFf rsel sc kind ra rd => [(6, 23), (5, rd.toNat), (5, ra.toNat), (5, 0), (3, kind.code), (3, sc.code), (1, rsel.toNat)]
  | .ldfeFe rsel sc kind ra rd => [(6, 23), (5, rd.toNat), (5, ra.toNat), (5, 1), (3, kind.code), (3, sc.code), (1, rsel.toNat)]
  | .stfeEf rsel sc kind ra rs => [(6, 23), (5, rs.toNat), (5, ra.toNat), (5, 2), (3, kind.code), (3, sc.code), (1, rsel.toNat)]
  | .stfeXf rsel sc kind ra rs => [(6, 23), (5, rs.toNat), (5, ra.toNat), (5, 3), (3, kind.code), (3, sc.code), (1, rsel.toNat)]
  | .feq rsel sc kind ra rd => [(6, 23), (5, rd.toNat), (5, ra.toNat), (5, 4), (3, kind.code), (3, sc.code), (1, rsel.toNat)]
  | .amoAdd rsel sc kind ra rd => [(6, 24), (5, rd.toNat), (5, ra.toNat), (5, 0), (3, kind.code), (3, sc.code), (1, rsel.toNat)]
  | .amoAnd rsel sc kind ra rd => [(6, 24), (5, rd.toNat), (5, ra.toNat), (5, 1), (3, kind.code), (3, sc.code), (1, rsel.toNat)]
  | .amoOr rsel sc kind ra rd => [(6, 24), (5, rd.toNat), (5, ra.toNat), (5, 2), (3, kind.code), (3, sc.code), (1, rsel.toNat)]
  | .amoXor rsel sc kind ra rd => [(6, 24), (5, rd.toNat), (5, ra.toNat), (5, 3), (3, kind.code), (3, sc.code), (1, rsel.toNat)]
  | .amoMin rsel sc kind ra rd => [(6, 24), (5, rd.toNat), (5, ra.toNat), (5, 4), (3, kind.code), (3, sc.code), (1, rsel.toNat)]
  | .amoMax rsel sc kind ra rd => [(6, 24), (5, rd.toNat), (5, ra.toNat), (5, 5), (3, kind.code), (3, sc.code), (1, rsel.toNat)]
  | .amoMinn rsel sc kind ra rd => [(6, 24), (5, rd.toNat), (5, ra.toNat), (5, 6), (3, kind.code), (3, sc.code), (1, rsel.toNat)]
  | .amoMaxn rsel sc kind ra rd => [(6, 24), (5, rd.toNat), (5, ra.toNat), (5, 7), (3, kind.code), (3, sc.code), (1, rsel.toNat)]
  | .amoSwap rsel sc kind ra rd => [(6, 24), (5, rd.toNat), (5, ra.toNat), (5, 8), (3, kind.code), (3, sc.code), (1, rsel.toNat)]
  | .amoCas rsel sc kind ra rd => [(6, 24), (5, rd.toNat), (5, ra.toNat), (5, 9), (3, kind.code), (3, sc.code), (1, rsel.toNat)]
  | .amoFaddF32 rsel sc kind ra rd => [(6, 24), (5, rd.toNat), (5, ra.toNat), (5, 10), (3, kind.code), (3, sc.code), (1, rsel.toNat)]
  | .amoFmaxF32 rsel sc kind ra rd => [(6, 24), (5, rd.toNat), (5, ra.toNat), (5, 11), (3, kind.code), (3, sc.code), (1, rsel.toNat)]
  | .fence sc => [(6, 25), (15, 0), (3, sc.code), (4, 0)]
  | .fenceSc sc => [(6, 25), (15, 0), (3, sc.code), (4, 1)]
  | .fencef sc rope ra rs => [(6, 25), (5, rs.toNat), (5, ra.toNat), (4, rope.toNat), (1, 0), (3, sc.code), (4, 2)]
  | .ropeFork rpS rpD => [(6, 25), (10, 0), (4, rpD.toNat), (4, rpS.toNat), (4, 3)]
  | .ropeJoin rpA rpD rpB => [(6, 25), (4, rpB.toNat), (6, 0), (4, rpD.toNat), (4, rpA.toNat), (4, 4)]
  | .ropeXfer rpS rd => [(6, 25), (5, rd.toNat), (9, 0), (4, rpS.toNat), (4, 5)]
  | .ropeAdopt rpD rs => [(6, 25), (5, 0), (5, rs.toNat), (4, rpD.toNat), (8, 96)]
  | .ropeDrop rope => [(6, 25), (10, 0), (4, rope.toNat), (8, 112)]
  | .ropeWait rope => [(6, 25), (10, 0), (4, rope.toNat), (8, 128)]
  | .send rope ra => [(6, 26), (5, 0), (5, ra.toNat), (8, 0), (4, rope.toNat)]
  | .sendc rope rb ra => [(6, 26), (5, 0), (5, ra.toNat), (5, rb.toNat), (3, 1), (4, rope.toNat)]
  | .spawn rope rb ra => [(6, 26), (5, 0), (5, ra.toNat), (5, rb.toNat), (3, 2), (4, rope.toNat)]
  | .aread rope rb ra => [(6, 26), (5, 0), (5, ra.toNat), (5, rb.toNat), (3, 3), (4, rope.toNat)]
  | .tbind rb ra => [(6, 26), (5, 0), (5, ra.toNat), (5, rb.toNat), (7, 4)]
  | .mcld rope rb ra rc => [(6, 27), (5, rc.toNat), (5, ra.toNat), (5, rb.toNat), (3, 0), (4, rope.toNat)]
  | .mcst rope rb ra rc => [(6, 27), (5, rc.toNat), (5, ra.toNat), (5, rb.toNat), (3, 1), (4, rope.toNat)]
  | .mcjoin rb ra => [(6, 27), (5, 0), (5, ra.toNat), (5, rb.toNat), (7, 2)]
  | .evpost cls rb ra rope => [(6, 28), (4, rope.toNat), (1, 0), (5, ra.toNat), (5, rb.toNat), (3, 0), (4, cls.toNat)]
  | .evposts cls rb ra rd => [(6, 28), (5, rd.toNat), (5, ra.toNat), (5, rb.toNat), (3, 1), (4, cls.toNat)]
  | .evcfg cls ra => [(6, 28), (5, 0), (5, ra.toNat), (8, 64), (4, cls.toNat)]
  | .evflush cls => [(6, 28), (18, 98304), (4, cls.toNat)]
  | .evquiet ra rd => [(6, 28), (5, rd.toNat), (5, ra.toNat), (12, 128)]
  | .evcount ra rd => [(6, 28), (5, rd.toNat), (5, ra.toNat), (12, 160)]
  | .gjoin group => [(6, 29), (16, 0), (6, group.toNat)]
  | .gleave group => [(6, 29), (16, 1024), (6, group.toNat)]
  | .gbar group rd => [(6, 29), (5, rd.toNat), (11, 64), (6, group.toNat)]
  | .gcount group rd => [(6, 29), (5, rd.toNat), (11, 96), (6, group.toNat)]
  | .pref off ra => [(6, 30), (5, 0), (5, ra.toNat), (5, off.toNat), (7, 0)]
  | .cflush off ra => [(6, 30), (5, 0), (5, ra.toNat), (5, off.toNat), (7, 1)]
  | .cinv off ra => [(6, 30), (5, 0), (5, ra.toNat), (5, off.toNat), (7, 2)]
  | .tlbinv ra => [(6, 30), (5, 0), (5, ra.toNat), (12, 96)]
  | .tlbinvAll => [(6, 30), (22, 98305)]
  | .tlbinvB ra => [(6, 30), (5, 0), (5, ra.toNat), (12, 128)]
  | .tlbinvBAll => [(6, 30), (22, 131073)]
  | .vaddF pg vb va vd => [(6, 32), (6, vd.toNat), (6, va.toNat), (6, vb.toNat), (3, pg.toNat), (1, 0)]
  | .vsubF pg vb va vd => [(6, 32), (6, vd.toNat), (6, va.toNat), (6, vb.toNat), (3, pg.toNat), (1, 1)]
  | .vmulF pg vb va vd => [(6, 33), (6, vd.toNat), (6, va.toNat), (6, vb.toNat), (3, pg.toNat), (1, 0)]
  | .vfmaF pg vb va vd => [(6, 34), (6, vd.toNat), (6, va.toNat), (6, vb.toNat), (3, pg.toNat), (1, 0)]
  | .vfmsF pg vb va vd => [(6, 34), (6, vd.toNat), (6, va.toNat), (6, vb.toNat), (3, pg.toNat), (1, 1)]
  | .vminF pg vb va vd => [(6, 35), (6, vd.toNat), (6, va.toNat), (6, vb.toNat), (3, pg.toNat), (1, 0)]
  | .vmaxF pg vb va vd => [(6, 35), (6, vd.toNat), (6, va.toNat), (6, vb.toNat), (3, pg.toNat), (1, 1)]
  | .vaddI pg vb va vd => [(6, 36), (6, vd.toNat), (6, va.toNat), (6, vb.toNat), (3, pg.toNat), (1, 0)]
  | .vsubI pg vb va vd => [(6, 36), (6, vd.toNat), (6, va.toNat), (6, vb.toNat), (3, pg.toNat), (1, 1)]
  | .vmulI pg vb va vd => [(6, 37), (6, vd.toNat), (6, va.toNat), (6, vb.toNat), (3, pg.toNat), (1, 0)]
  | .vmulhI pg vb va vd => [(6, 37), (6, vd.toNat), (6, va.toNat), (6, vb.toNat), (3, pg.toNat), (1, 1)]
  | .vminI pg vb va vd => [(6, 38), (6, vd.toNat), (6, va.toNat), (6, vb.toNat), (3, pg.toNat), (1, 0)]
  | .vmaxI pg vb va vd => [(6, 38), (6, vd.toNat), (6, va.toNat), (6, vb.toNat), (3, pg.toNat), (1, 1)]
  | .vminn pg vb va vd => [(6, 39), (6, vd.toNat), (6, va.toNat), (6, vb.toNat), (3, pg.toNat), (1, 0)]
  | .vmaxn pg vb va vd => [(6, 39), (6, vd.toNat), (6, va.toNat), (6, vb.toNat), (3, pg.toNat), (1, 1)]
  | .vand pg vb va vd => [(6, 40), (6, vd.toNat), (6, va.toNat), (6, vb.toNat), (3, pg.toNat), (1, 0)]
  | .vandn pg vb va vd => [(6, 40), (6, vd.toNat), (6, va.toNat), (6, vb.toNat), (3, pg.toNat), (1, 1)]
  | .vor pg vb va vd => [(6, 41), (6, vd.toNat), (6, va.toNat), (6, vb.toNat), (3, pg.toNat), (1, 0)]
  | .vxor pg vb va vd => [(6, 41), (6, vd.toNat), (6, va.toNat), (6, vb.toNat), (3, pg.toNat), (1, 1)]
  | .vshl pg vb va vd => [(6, 42), (6, vd.toNat), (6, va.toNat), (6, vb.toNat), (3, pg.toNat), (1, 0)]
  | .vshr pg vb va vd => [(6, 42), (6, vd.toNat), (6, va.toNat), (6, vb.toNat), (3, pg.toNat), (1, 1)]
  | .vsra pg vb va vd => [(6, 43), (6, vd.toNat), (6, va.toNat), (6, vb.toNat), (3, pg.toNat), (1, 0)]
  | .vrot pg vb va vd => [(6, 43), (6, vd.toNat), (6, va.toNat), (6, vb.toNat), (3, pg.toNat), (1, 1)]
  | .vsel pg vb va vd => [(6, 44), (6, vd.toNat), (6, va.toNat), (6, vb.toNat), (3, pg.toNat), (1, 0)]
  | .vmacI pg vb va vd => [(6, 45), (6, vd.toNat), (6, va.toNat), (6, vb.toNat), (3, pg.toNat), (1, 0)]
  | .vcpy pg va vd => [(6, 48), (6, vd.toNat), (6, va.toNat), (3, pg.toNat), (7, 0)]
  | .vnegF pg va vd => [(6, 48), (6, vd.toNat), (6, va.toNat), (3, pg.toNat), (7, 1)]
  | .vabsF pg va vd => [(6, 48), (6, vd.toNat), (6, va.toNat), (3, pg.toNat), (7, 2)]
  | .vsqrtF pg va vd => [(6, 48), (6, vd.toNat), (6, va.toNat), (3, pg.toNat), (7, 3)]
  | .vnot pg va vd => [(6, 48), (6, vd.toNat), (6, va.toNat), (3, pg.toNat), (7, 4)]
  | .vnegI pg va vd => [(6, 48), (6, vd.toNat), (6, va.toNat), (3, pg.toNat), (7, 5)]
  | .vabsI pg va vd => [(6, 48), (6, vd.toNat), (6, va.toNat), (3, pg.toNat), (7, 6)]
  | .vclz pg va vd => [(6, 48), (6, vd.toNat), (6, va.toNat), (3, pg.toNat), (7, 7)]
  | .vpopc pg va vd => [(6, 48), (6, vd.toNat), (6, va.toNat), (3, pg.toNat), (7, 8)]
  | .vcvtFI pg va vd => [(6, 48), (6, vd.toNat), (6, va.toNat), (3, pg.toNat), (7, 16)]
  | .vcvtFN pg va vd => [(6, 48), (6, vd.toNat), (6, va.toNat), (3, pg.toNat), (7, 17)]
  | .vcvtIF pg va vd => [(6, 48), (6, vd.toNat), (6, va.toNat), (3, pg.toNat), (7, 18)]
  | .vnarBf16 pg va vd => [(6, 48), (6, vd.toNat), (6, va.toNat), (3, pg.toNat), (7, 24)]
  | .vnarFp16 pg va vd => [(6, 48), (6, vd.toNat), (6, va.toNat), (3, pg.toNat), (7, 25)]
  | .vnarE4m3 pg va vd => [(6, 48), (6, vd.toNat), (6, va.toNat), (3, pg.toNat), (7, 26)]
  | .vnarE5m2 pg va vd => [(6, 48), (6, vd.toNat), (6, va.toNat), (3, pg.toNat), (7, 27)]
  | .vnarE2m1 pg va vd => [(6, 48), (6, vd.toNat), (6, va.toNat), (3, pg.toNat), (7, 28)]
  | .vnarI8 pg va vd => [(6, 48), (6, vd.toNat), (6, va.toNat), (3, pg.toNat), (7, 29)]
  | .vcmpFEq pg vb va pd => [(6, 49), (3, pd.toNat), (3, 0), (6, va.toNat), (6, vb.toNat), (3, pg.toNat), (1, 0)]
  | .vcmpFNe pg vb va pd => [(6, 49), (3, pd.toNat), (3, 1), (6, va.toNat), (6, vb.toNat), (3, pg.toNat), (1, 0)]
  | .vcmpFLt pg vb va pd => [(6, 49), (3, pd.toNat), (3, 2), (6, va.toNat), (6, vb.toNat), (3, pg.toNat), (1, 0)]
  | .vcmpFLe pg vb va pd => [(6, 49), (3, pd.toNat), (3, 3), (6, va.toNat), (6, vb.toNat), (3, pg.toNat), (1, 0)]
  | .vcmpFUn pg vb va pd => [(6, 49), (3, pd.toNat), (3, 4), (6, va.toNat), (6, vb.toNat), (3, pg.toNat), (1, 0)]
  | .vcmpIEq pg vb va pd => [(6, 49), (3, pd.toNat), (3, 0), (6, va.toNat), (6, vb.toNat), (3, pg.toNat), (1, 1)]
  | .vcmpINe pg vb va pd => [(6, 49), (3, pd.toNat), (3, 1), (6, va.toNat), (6, vb.toNat), (3, pg.toNat), (1, 1)]
  | .vcmpILt pg vb va pd => [(6, 49), (3, pd.toNat), (3, 2), (6, va.toNat), (6, vb.toNat), (3, pg.toNat), (1, 1)]
  | .vcmpILe pg vb va pd => [(6, 49), (3, pd.toNat), (3, 3), (6, va.toNat), (6, vb.toNat), (3, pg.toNat), (1, 1)]
  | .vcmpILo pg vb va pd => [(6, 49), (3, pd.toNat), (3, 4), (6, va.toNat), (6, vb.toNat), (3, pg.toNat), (1, 1)]
  | .vcmpILs pg vb va pd => [(6, 49), (3, pd.toNat), (3, 5), (6, va.toNat), (6, vb.toNat), (3, pg.toNat), (1, 1)]
  | .vld rsel ord pg ra vd => [(6, 50), (6, vd.toNat), (5, ra.toNat), (3, 0), (3, pg.toNat), (2, 0), (2, ord.code), (1, rsel.toNat)]
  | .vst rsel ord pg ra vd => [(6, 51), (6, vd.toNat), (5, ra.toNat), (3, 0), (3, pg.toNat), (2, 0), (2, ord.code), (1, rsel.toNat)]
  | .vldLs pg va vd => [(6, 50), (6, vd.toNat), (6, va.toNat), (2, 0), (3, pg.toNat), (5, 1)]
  | .vstLs pg va vd => [(6, 51), (6, vd.toNat), (6, va.toNat), (2, 0), (3, pg.toNat), (5, 1)]
  | .vgath rsel pg vb ra vd => [(6, 52), (6, vd.toNat), (5, ra.toNat), (6, vb.toNat), (3, pg.toNat), (1, 0), (1, rsel.toNat)]
  | .vscat rsel pg vb ra vd => [(6, 52), (6, vd.toNat), (5, ra.toNat), (6, vb.toNat), (3, pg.toNat), (1, 1), (1, rsel.toNat)]
  | .tmld ra tm => [(6, 53), (2, 0), (3, tm.toNat), (5, ra.toNat), (12, 0)]
  | .sopen rope tm vs => [(6, 53), (2, vs.toNat), (3, tm.toNat), (5, 0), (4, rope.toNat), (8, 32)]
  | .sclose vs => [(6, 53), (2, vs.toNat), (20, 262144)]
  | .sstat rd vs => [(6, 53), (2, vs.toNat), (3, 0), (5, rd.toNat), (12, 1536)]
  | .pand pb pa pd => [(6, 54), (3, pd.toNat), (3, pa.toNat), (3, pb.toNat), (13, 0)]
  | .por pb pa pd => [(6, 54), (3, pd.toNat), (3, pa.toNat), (3, pb.toNat), (13, 512)]
  | .pxor pb pa pd => [(6, 54), (3, pd.toNat), (3, pa.toNat), (3, pb.toNat), (13, 1024)]
  | .pnot pa pd => [(6, 54), (3, pd.toNat), (3, pa.toNat), (16, 12288)]
  | .pcnt rd pa => [(6, 54), (3, 0), (3, pa.toNat), (3, 0), (5, rd.toNat), (8, 64)]
  | .pfirst rd pa => [(6, 54), (3, 0), (3, pa.toNat), (3, 0), (5, rd.toNat), (8, 80)]
  | .pset rs pd => [(6, 54), (3, pd.toNat), (6, 0), (5, rs.toNat), (8, 96)]
  | .pgetPredicate rd pa => [(6, 54), (3, 0), (3, pa.toNat), (3, 0), (5, rd.toNat), (8, 112)]
  | .vraddF pg va rd => [(6, 55), (5, rd.toNat), (1, 0), (6, va.toNat), (3, pg.toNat), (7, 0)]
  | .vrmaxF pg va rd => [(6, 55), (5, rd.toNat), (1, 0), (6, va.toNat), (3, pg.toNat), (7, 1)]
  | .vrminF pg va rd => [(6, 55), (5, rd.toNat), (1, 0), (6, va.toNat), (3, pg.toNat), (7, 2)]
  | .vraddI pg va rd => [(6, 55), (5, rd.toNat), (1, 0), (6, va.toNat), (3, pg.toNat), (7, 3)]
  | .vrmaxI pg va rd => [(6, 55), (5, rd.toNat), (1, 0), (6, va.toNat), (3, pg.toNat), (7, 4)]
  | .vrminI pg va rd => [(6, 55), (5, rd.toNat), (1, 0), (6, va.toNat), (3, pg.toNat), (7, 5)]
  | .vrand pg va rd => [(6, 55), (5, rd.toNat), (1, 0), (6, va.toNat), (3, pg.toNat), (7, 6)]
  | .vror pg va rd => [(6, 55), (5, rd.toNat), (1, 0), (6, va.toNat), (3, pg.toNat), (7, 7)]
  | .vrxor pg va rd => [(6, 55), (5, rd.toNat), (1, 0), (6, va.toNat), (3, pg.toNat), (7, 8)]
  | .vbcast rs vd => [(6, 56), (6, vd.toNat), (5, rs.toNat), (11, 0)]
  | .vext lane va rd => [(6, 56), (5, rd.toNat), (1, 0), (6, va.toNat), (6, lane.toNat), (4, 1)]
  | .vins lane rs vd => [(6, 56), (6, vd.toNat), (5, rs.toNat), (1, 0), (6, lane.toNat), (4, 2)]
  | .vperm vb va vd => [(6, 56), (6, vd.toNat), (6, va.toNat), (6, vb.toNat), (4, 3)]
  | .vslideUp lane va vd => [(6, 56), (6, vd.toNat), (6, va.toNat), (6, lane.toNat), (4, 4)]
  | .vslideDn lane va vd => [(6, 56), (6, vd.toNat), (6, va.toNat), (6, lane.toNat), (4, 5)]
  | .viota vd => [(6, 56), (6, vd.toNat), (16, 24576)]
  | .vfexp2 pg va vd => [(6, 57), (6, vd.toNat), (6, va.toNat), (3, pg.toNat), (7, 0)]
  | .vrint pg va vd => [(6, 57), (6, vd.toNat), (6, va.toNat), (3, pg.toNat), (7, 1)]
  | .vexpi pg va vd => [(6, 57), (6, vd.toNat), (6, va.toNat), (3, pg.toNat), (7, 2)]
  | .vexpx pg va vd => [(6, 57), (6, vd.toNat), (6, va.toNat), (3, pg.toNat), (7, 3)]
  | .vrcp pg va vd => [(6, 57), (6, vd.toNat), (6, va.toNat), (3, pg.toNat), (7, 4)]
  | .vrsq pg va vd => [(6, 57), (6, vd.toNat), (6, va.toNat), (3, pg.toNat), (7, 5)]
  | .mxq vs rd => [(6, 58), (5, rd.toNat), (5, 0), (6, vs.toNat), (6, 0)]
  | .mxwait ra => [(6, 58), (5, 0), (5, ra.toNat), (12, 256)]
  | .mxstat rd => [(6, 58), (5, rd.toNat), (17, 16384)]
  | .mxstatC rd => [(6, 58), (5, rd.toNat), (17, 18432)]
  | .rackTake n => [(6, 59), (10, 0), (4, n.toNat), (8, 0)]
  | .rackGive n => [(6, 59), (10, 0), (4, n.toNat), (8, 16)]
  | .rackQry rd => [(6, 59), (5, rd.toNat), (17, 16384)]
  | .cMv b a => [(4, 0), (4, a.toNat), (4, b.toNat)]
  | .cAdd b a => [(4, 1), (4, a.toNat), (4, b.toNat)]
  | .cSub b a => [(4, 2), (4, a.toNat), (4, b.toNat)]
  | .cAddi imm a => [(4, 3), (4, a.toNat), (4, imm.toNat)]
  | .cLi imm a => [(4, 4), (4, a.toNat), (4, imm.toNat)]
  | .cLd b a => [(4, 5), (4, a.toNat), (4, b.toNat)]
  | .cSt b a => [(4, 6), (4, a.toNat), (4, b.toNat)]
  | .cAnd b a => [(4, 7), (4, a.toNat), (4, b.toNat)]
  | .cOr b a => [(4, 8), (4, a.toNat), (4, b.toNat)]
  | .cShli imm a => [(4, 9), (4, a.toNat), (4, imm.toNat)]
  | .cShri imm a => [(4, 10), (4, a.toNat), (4, imm.toNat)]
  | .cBnz off a => [(4, 11), (4, a.toNat), (4, off.toNat)]
  | .cJ off => [(4, 12), (8, off.toNat)]
  | .cDone => [(4, 13), (8, 0)]
  | .cYield => [(4, 14), (8, 0)]
  | .ropePrefix rope => [(4, 15), (4, rope.toNat), (4, 0)]
  | .perform => []
  | .retryListService => []
  | .nackResend => []
  | .withdrawal => []
  | .watchdog => []
  | .storeBufferDrain => []
  | .response => []
  | .routeFlit => []
  | .injectFlit => []
  | .linkReceive => []
  | .linkReplay => []
  | .linkAcknowledge => []
  | .laneFailure => []
  | .retrainingEnd => []
  | .portOutOfService => []
  | .reassembly => []
  | .messageArrival => []
  | .dispatchEntryFill => []
  | .activationStart => []
  | .eventDelivery => []
  | .tableWalk => []
  | .pageAnswer => []
  | .tlbInvalidationAck => []
  | .cpgoRead => []
  | .copySector => []
  | .mma => []
  | .ldb => []
  | .rotb => []
  | .stc => []
  | .zc => []
  | .mnote => []
  | .mfen => []
  | .ringTransferEnd => []
  | .commandRetire => []
  | .matrixCommandDiscard => []
  | .governorWindow => []
  | .mailboxLanding => []
  | .rackGrant => []
  | .sleepEnd => []
  | .adoptService => []
  | .adoptAnswer => []
  | .fencefMarker => []
  | .areadReply => []
  | .post => []
  | .claim => []
  | .refill => []
  | .postSend => []
  | .postAck => []
  | .quiescenceSweep => []
  | .hostEnqueue => []
  | .launchStart => []
  | .entryPresentation => []
  | .launchCompletion => []
  | .quantumExpiry => []
  | .resume => []
  | .coreRepair => []
  | .multicastStoreLanding => []
  | .combinedAck => []
  | .mcldRequest => []
  | .mcldLineSend => []
  | .mcldLineArrival => []
  | .mergeReport => []
  | .lineClear => []
  | .budgetWindow => []
  | .rowThrottleEvent => []
  | .throttleEnd => []
  | .injectionCapWindow => []
  | .powerSample => []
  | .coolantTrip => []
  | .pseudoChannelRepair => []
  | .supervisorFailover => []
  | .partSplit => []
  | .partMerge => []
  | .vdCreate => []
  | .vdDestroy => []
  | .s2invPage => []
  | .s2invAll => []
  | .rtswap => []
  | .pageansRetry => []
  | .pageansDeny => []
  | .vdReset => []
  | .vdBivouac => []
  | .vdThaw => []
  | .dispinit => []
  | .groupTableWrite => []
  | .supervisorRegisterWrite => []
  | .dispbaseWrite => []
  | .tagbaseWrite => []
  | .rackfloorWrite => []
  | .fcrWrite => []
  | .mxgovWrite => []
  | .controlRegisterWrite => []
  | .hostWrite => []
  | .hostRead => []
  | .hostWake => []
  | .supervisorSpaceRead => []
  | .supervisorSpaceWrite => []
  | .getVersion => []
  | .getCapabilities => []
  | .negotiateAlgorithms => []
  | .getDigests => []
  | .getCertificate => []
  | .challenge => []
  | .getMeasurements => []
  | .keyExchange => []
  | .finish => []
  | .endSession => []
  | .keyInstall => []
  | .enterOn => []
  | .enterStandby => []
  | .enterOff => []
  | .setModuleCap => []
  | .powerOn => []
  | .belayRead => []
  | .belayWrite => []
  | .belayAnswer => []
  | .belayEvent => []
  | .illegalEncoding => []
  | .instructionFetchFault => []
  | .evquietTimeout => []
  | .alignTimeout => []
  | .resetDrainEnd => []
  | .contextSaveEnd => []
  | .bivouacEntered => []
  | .wakeEnd => []
  | .refreshWindow => []
  | .softError => []
  | .coreMapRewrite => []
  | .pseudoChannelRemap => []
  | .recoveryImageWrite => []

/-- The word of an instruction with a stall count (R266, R271 to R276). -/
def encode (stl : Stall) (i : Instr) : Nat :=
  pack ((1, i.long.toNat) :: (3, stl.toNat) :: i.fields)

/-- An instruction that has a word, and not an event of the device. -/
def Instr.encoded (i : Instr) : Bool := !i.fields.isEmpty

/-- The code bytes of an instruction's word. -/
def encodeBytes (stl : Stall) (i : Instr) : List Byte := leBytes (if i.long then 4 else 2) (encode stl i)

end Sys2Proof
end

