-- ==== Sys2Proof/Machine/Base.lean ====
section
/-! DEFINITION. Plain containers of the state: association lists with rising keys, tables, little-endian words,
and the byte memory in its canonical form. -/

namespace Sys2Proof.Machine

/-- A sparse table by number: a list of (key, value) with strictly rising keys. -/
abbrev AMap (α : Type) := List (Nat × α)

/-- The value at a key. -/
def AMap.find? {α : Type} : AMap α → Nat → Option α
  | [], _ => none
  | (k, v) :: rest, a => if a = k then some v else AMap.find? rest a

/-- The value at a key, or a default. -/
def AMap.get {α : Type} (m : AMap α) (d : α) (a : Nat) : α := (AMap.find? m a).getD d

/-- The table with a key set. -/
def AMap.put {α : Type} : AMap α → Nat → α → AMap α
  | [], a, v => [(a, v)]
  | (k, w) :: rest, a, v =>
    if a < k then (a, v) :: (k, w) :: rest
    else if a = k then (a, v) :: rest
    else (k, w) :: AMap.put rest a v

/-- The table without a key. -/
def AMap.del {α : Type} : AMap α → Nat → AMap α
  | [], _ => []
  | (k, w) :: rest, a => if a = k then rest else (k, w) :: AMap.del rest a

/-- The list `f 0, …, f (n - 1)`. -/
def tabFrom {α : Type} (f : Nat → α) : Nat → Nat → List α
  | 0, _ => []
  | n + 1, i => f i :: tabFrom f n (i + 1)

/-- The list `f 0, …, f (n - 1)`. -/
def tab {α : Type} (n : Nat) (f : Nat → α) : List α := tabFrom f n 0

theorem tabFrom_length {α : Type} (f : Nat → α) (n i : Nat) : (tabFrom f n i).length = n := by
  induction n generalizing i with
  | zero => rfl
  | succ n ih => simp [tabFrom, ih]

@[simp] theorem tab_length {α : Type} (n : Nat) (f : Nat → α) : (tab n f).length = n := tabFrom_length f n 0

/-- The vector whose element `i` is `f i`. -/
def vecTab {α : Type} (n : Nat) (f : Nat → α) : Vector α n := ⟨⟨tab n f⟩, by simp⟩

/-- A vector register: 64 lanes of 32 bits (R232, R373). -/
abbrev VReg := Vector Lane 64

/-- The vector register whose lane `i` is `f i`. -/
def VReg.tab (f : Nat → Lane) : VReg := vecTab 64 f

/-- The vector register of zeros. -/
def VReg.zero : VReg := VReg.tab fun _ => 0

/-- Lane `i` of a vector register; zero beyond lane 63. -/
def VReg.lane (v : VReg) (i : Nat) : Lane := v.toList.getD i 0

/-- A sorted list of numbers with one more. -/
def insertNat (a : Nat) : List Nat → List Nat
  | [] => [a]
  | k :: rest => if a < k then a :: k :: rest else if a = k then k :: rest else k :: insertNat a rest

/-- A list sorted by `le`; elements that tie keep their order. -/
def sortBy {α : Type} (le : α → α → Bool) : List α → List α
  | [] => []
  | a :: rest => insertFirst le a (sortBy le rest)
where
  /-- One more element, before those it ties with. -/
  insertFirst (le : α → α → Bool) (a : α) : List α → List α
    | [] => [a]
    | b :: rest => if le a b then a :: b :: rest else b :: insertFirst le a rest

/-- A byte memory: (address, byte) pairs with strictly rising addresses and no zero byte, since an address that is not
listed reads zero (R69). -/
abbrev Memory := List Host.Cell

/-- What an address that nothing has written reads as: zero (R69). -/
def unlistedByte : Byte := 0

/-- The byte at an address. -/
def Memory.read : Memory → Nat → Byte
  | [], _ => unlistedByte
  | (k, b) :: rest, a => if a = k then b else Memory.read rest a

/-- The memory without an address. -/
def Memory.drop : Memory → Nat → Memory
  | [], _ => []
  | (k, b) :: rest, a => if a = k then rest else if a < k then (k, b) :: rest else (k, b) :: Memory.drop rest a

/-- The memory with a byte listed at an address. -/
def Memory.put : Memory → Nat → Byte → Memory
  | [], a, v => [(a, v)]
  | (k, b) :: rest, a, v =>
    if a < k then (a, v) :: (k, b) :: rest
    else if a = k then (a, v) :: rest
    else (k, b) :: Memory.put rest a v

/-- A write of one byte keeps the canonical form: writing what an unlisted address reads as removes the entry. -/
def Memory.write (m : Memory) (a : Nat) (v : Byte) : Memory :=
  if v = unlistedByte then m.drop a else m.put a v

/-- The canonical form: strictly rising addresses from `lo` up, and no listed byte equal to an unlisted one. -/
def Memory.wfFrom : Nat → Memory → Bool
  | _, [] => true
  | lo, (k, b) :: rest => decide (lo ≤ k) && b != unlistedByte && Memory.wfFrom (k + 1) rest

/-- The memory is in canonical form. -/
def Memory.wf (m : Memory) : Bool := Memory.wfFrom 0 m

/-- Writes consecutive bytes. -/
def Memory.writeBytes (m : Memory) (a : Nat) : List Byte → Memory
  | [] => m
  | b :: bs => Memory.writeBytes (m.write a b) (a + 1) bs

/-- Reads consecutive bytes. -/
def Memory.readBytes (m : Memory) (a n : Nat) : List Byte := tab n fun i => m.read (a + i)

/-- Reads `n` bytes as a little-endian number (R263, R416). -/
def Memory.readNat (m : Memory) (a n : Nat) : Nat := leNat (m.readBytes a n)

/-- Clears `n` bytes from an address to what an unlisted address reads as. -/
def Memory.clear (m : Memory) (a n : Nat) : Memory := m.filter fun c => !(decide (a ≤ c.1) && decide (c.1 < a + n))

end Sys2Proof.Machine
end

