-- ==== Sys2Proof/Machine/Flags.lean ====
section
/-! DEFINITION. Number formats, rounding and the sticky flags (R287 to R305): exact values, RoundF32, Sat, conversions,
arithmetic, the special functions, and the flags each computation raises. -/

namespace Sys2Proof.Machine

/-! ### Exact values -/

/-- An exact value: a NaN, an infinity, or ± mag × 2^exp (a zero keeps its sign). -/
inductive FVal where
  | nan
  | inf (neg : Bool)
  | num (neg : Bool) (mag : Nat) (exp : Int)
  deriving DecidableEq, Repr

/-- The rounding modes (R294). -/
inductive RMode where
  | rne | rtz | rdn | rup | rna
  deriving DecidableEq, Repr

/-- The mode of a code; 5 to 7 are reserved (R294). -/
def RMode.ofCode : Nat → Option RMode
  | 0 => some .rne | 1 => some .rtz | 2 => some .rdn | 3 => some .rup | 4 => some .rna | _ => none

/-- The captured modes (R296). -/
structure Modes where
  rm  : RMode
  ftz : Bool
  daz : Bool
  deriving DecidableEq, Repr

/-- The sticky flags, in the bit positions of FCR (R294). -/
abbrev Flags := BitVec 5
def flagNV : Flags := 16
def flagDZ : Flags := 8
def flagOF : Flags := 4
def flagUF : Flags := 2
def flagNX : Flags := 1

/-- The number of bits of a magnitude: 0 for 0. -/
def bitLen (n : Nat) : Nat := if n = 0 then 0 else n.log2 + 1

/-- `m × 2^e` rounded to a multiple of `2^q` in a mode: the multiple and whether it differs. A shift beyond the magnitude
is cut short, which changes nothing. -/
def roundQ (neg : Bool) (m : Nat) (e q : Int) (mode : RMode) : Nat × Bool :=
  if q ≤ e then (m * 2 ^ (e - q).toNat, false)
  else
    let sh := min (q - e).toNat (bitLen m + 2)
    let k := m / 2 ^ sh
    let r := m % 2 ^ sh
    let half := 2 ^ (sh - 1)
    let up := match mode with
      | .rne => decide (half < r) || (decide (r = half) && decide (k % 2 = 1))
      | .rtz => false
      | .rdn => neg && decide (0 < r)
      | .rup => !neg && decide (0 < r)
      | .rna => decide (half ≤ r) && decide (0 < r)
    (k + up.toNat, decide (r ≠ 0))

/-! ### Formats (R287) -/

/-- A floating-point format: mantissa bits, exponent bits, bias, whether the top exponent is all infinities and NaNs, and
the code of the default NaN where it has one. -/
structure Format where
  mbits : Nat
  ebits : Nat
  bias  : Int
  ieee  : Bool
  nan   : Option Nat
  deriving DecidableEq, Repr

def fp32 : Format := ⟨23, 8, 127, true, some 0x7FC00000⟩
def fp16 : Format := ⟨10, 5, 15, true, some 0x7E00⟩
def bf16 : Format := ⟨7, 8, 127, true, some 0x7FC0⟩
def e4m3 : Format := ⟨3, 4, 7, false, some 0x7F⟩
def e5m2 : Format := ⟨2, 5, 15, true, some 0x7E⟩
def e2m1 : Format := ⟨1, 2, 1, false, none⟩

/-- The exponent of the subnormal step of a format. -/
def Format.step (f : Format) : Int := 1 - f.bias - f.mbits
/-- The exponent of the smallest normal number. -/
def Format.emin (f : Format) : Int := 1 - f.bias
/-- The bits of a format. -/
def Format.bits (f : Format) : Nat := 1 + f.ebits + f.mbits

/-- The largest finite value, as mantissa and exponent (R287): E4M3's is 448, since its top mantissa is a NaN. -/
def Format.largest (f : Format) : Nat × Int :=
  if f.ieee then (2 ^ (f.mbits + 1) - 1, 2 ^ f.ebits - 2 - f.bias - f.mbits)
  else match f.nan with
    | some _ => (2 ^ (f.mbits + 1) - 2, 2 ^ f.ebits - 1 - f.bias - f.mbits)
    | none => (2 ^ (f.mbits + 1) - 1, 2 ^ f.ebits - 1 - f.bias - f.mbits)

/-- The value of a code (R287). -/
def Format.decode (f : Format) (c : Nat) : FVal :=
  let neg := fld c (f.ebits + f.mbits) 1 == 1
  let e := fld c f.mbits f.ebits
  let m := fld c 0 f.mbits
  let top := 2 ^ f.ebits - 1
  if f.ieee ∧ e = top then (if m = 0 then .inf neg else .nan)
  else if ¬ f.ieee ∧ f.nan.isSome ∧ e = top ∧ m = 2 ^ f.mbits - 1 then .nan
  else if e = 0 then .num neg m f.step
  else .num neg (2 ^ f.mbits + m) (e - f.bias - f.mbits)

/-- The code of a value that the format holds exactly, `k × 2^q` with the sign. -/
def Format.encode (f : Format) (neg : Bool) (k : Nat) (q : Int) : Nat :=
  let sign := if neg then 2 ^ (f.ebits + f.mbits) else 0
  if k = 0 then sign
  else
    let l := bitLen k
    let top : Int := q + l                     -- the value lies in [2^(top-1), 2^top)
    if top - 1 < f.emin then sign + (if q ≥ f.step then k * 2 ^ (q - f.step).toNat else k / 2 ^ (f.step - q).toNat)
    else
      let m := if l ≤ f.mbits + 1 then k * 2 ^ (f.mbits + 1 - l) else k / 2 ^ (l - (f.mbits + 1))
      sign + (top - 1 + f.bias).toNat * 2 ^ f.mbits + (m - 2 ^ f.mbits)

/-- The code of an infinity of an IEEE format. -/
def Format.infCode (f : Format) (neg : Bool) : Nat :=
  (if neg then 2 ^ (f.ebits + f.mbits) else 0) + (2 ^ f.ebits - 1) * 2 ^ f.mbits

/-! ### RoundF32 (R300) and Sat (R301) -/

/-- A result with its flags. -/
abbrev Flagged (α : Type) := α × Flags

/-- RoundF32: an exact value rounded to FP32, with the flags raised. -/
def roundF32 (x : FVal) (m : RMode) (ftz : Bool) : Flagged Lane :=
  match x with
  | .nan => (0x7FC00000, 0)
  | .inf neg => (BitVec.ofNat 32 (fp32.infCode neg), 0)
  | .num neg mag e =>
    if mag = 0 then (BitVec.ofNat 32 (fp32.encode neg 0 0), 0)
    else
      let top : Int := e + bitLen mag
      let r := roundQ neg mag e (top - 24) m
      if 129 < top ∨ (top = 129) ∨ (top = 128 ∧ 2 ^ 24 ≤ r.1) then
        let toInf := match m with
          | .rne | .rna => true
          | .rup => !neg
          | .rdn => neg
          | .rtz => false
        (BitVec.ofNat 32 (if toInf then fp32.infCode neg else fp32.encode neg (2 ^ 24 - 1) 104), flagOF ||| flagNX)
      else
        let tiny := decide (top ≤ -126)
        let (k, ix) := if tiny then roundQ neg mag e (-149) m else r
        let q : Int := if tiny then -149 else top - 24
        let fl : Flags := (if ix then flagNX else 0) ||| (if tiny && ix then flagUF else 0)
        let sub := decide (0 < k) && decide (q + bitLen k ≤ -126)
        if ftz && sub then (BitVec.ofNat 32 (fp32.encode neg 0 0), fl ||| flagUF ||| flagNX)
        else (BitVec.ofNat 32 (fp32.encode neg k q), fl)

/-- Sat to a floating-point format: the result as a value, none for its default NaN (R301). -/
def satFloat (x : FVal) (f : Format) (m : RMode) (ftz : Bool) : Flagged FVal :=
  match x with
  | .nan => if f.nan.isSome then (.nan, 0) else (.num false 0 0, flagNV)
  | .inf neg => (.num neg f.largest.1 f.largest.2, flagOF ||| flagNX)
  | .num neg mag e =>
    if mag = 0 then (.num neg 0 0, 0)
    else
      let top : Int := e + bitLen mag
      let q := max (top - (f.mbits + 1)) f.step
      let big := decide (f.largest.2 + f.mbits + 3 < top)
      let (k, ix) := if big then (0, true) else roundQ neg mag e q m
      -- compare k × 2^q with the largest finite value
      let tooBig := big || (if q ≤ f.largest.2 then decide (f.largest.1 * 2 ^ (f.largest.2 - q).toNat < k)
        else decide (f.largest.1 < k * 2 ^ (q - f.largest.2).toNat))
      if tooBig then (.num neg f.largest.1 f.largest.2, flagOF ||| flagNX)
      else
        let tiny := decide (top ≤ f.emin)
        let fl : Flags := (if ix then flagNX else 0) ||| (if tiny && ix then flagUF else 0)
        let sub := decide (0 < k) && decide (q + bitLen k ≤ f.emin)
        if ftz && sub && (f == fp16 || f == bf16) then (.num neg 0 0, fl ||| flagUF ||| flagNX)
        else (.num neg k q, fl)

/-- The code of a value that Sat gave for a format (R301). -/
def Format.codeOf (f : Format) (x : FVal) : Nat :=
  match x with
  | .nan => f.nan.getD 0
  | .inf neg => f.infCode neg
  | .num neg k q => f.encode neg k q

/-- Sat to a two's-complement integer of `n` bits (R301). -/
def satInt (x : FVal) (n : Nat) (m : RMode) : Flagged Int :=
  let hi : Int := 2 ^ (n - 1) - 1
  let lo : Int := -(2 ^ (n - 1))
  match x with
  | .nan => (0, flagNV)
  | .inf neg => (if neg then lo else hi, flagNV)
  | .num neg mag e =>
    if decide (70 < e + bitLen mag) && decide (mag ≠ 0) then (if neg then lo else hi, flagNV)
    else
      let (k, ix) := roundQ neg mag e 0 m
      let y : Int := if neg then -(k : Int) else k
      if hi < y then (hi, flagNV) else if y < lo then (lo, flagNV) else (y, if ix then flagNX else 0)

/-- An FP32 lane's value, a subnormal counting as a zero of its sign under DAZ (R298). -/
def laneVal (a : Lane) (daz : Bool) : FVal :=
  match fp32.decode a.toNat with
  | .num neg mag e => if daz && decide (mag < 2 ^ 23) && decide (e = -149) then .num neg 0 0 else .num neg mag e
  | v => v

/-- A lane after DAZ, as bits. -/
def dazLane (a : Lane) (daz : Bool) : Lane :=
  if daz && fld a.toNat 23 8 == 0 then BitVec.ofNat 32 (a.toNat / 2 ^ 31 * 2 ^ 31) else a

/-! ### Arithmetic on exact values -/

/-- The sign of an exact zero sum of operands with signs `a` and `b` (R378). -/
def zeroSign (a b : Bool) (m : RMode) : Bool := if a = b then a else m == .rdn

/-- The exact sum, with NV for opposite infinities. -/
def fAdd (x y : FVal) (m : RMode) : Flagged FVal :=
  match x, y with
  | .nan, _ => (.nan, 0)
  | _, .nan => (.nan, 0)
  | .inf a, .inf b => if a = b then (.inf a, 0) else (.nan, flagNV)
  | .inf a, _ => (.inf a, 0)
  | _, .inf b => (.inf b, 0)
  | .num a m1 e1, .num b m2 e2 =>
    if m1 = 0 ∧ m2 = 0 then (.num (zeroSign a b m) 0 0, 0)
    else if m1 = 0 then (.num b m2 e2, 0)
    else if m2 = 0 then (.num a m1 e1, 0)
    else
      let e := min e1 e2
      let i1 : Int := m1 * 2 ^ (e1 - e).toNat
      let i2 : Int := m2 * 2 ^ (e2 - e).toNat
      let t := (if a then -i1 else i1) + (if b then -i2 else i2)
      if t = 0 then (.num (m == .rdn) 0 0, 0) else (.num (decide (t < 0)) t.natAbs e, 0)

/-- The negated value. -/
def fNeg : FVal → FVal
  | .nan => .nan
  | .inf a => .inf (!a)
  | .num a m e => .num (!a) m e

/-- The exact product, with NV for a zero times an infinity. -/
def fMul (x y : FVal) : Flagged FVal :=
  match x, y with
  | .nan, _ => (.nan, 0)
  | _, .nan => (.nan, 0)
  | .inf a, .inf b => (.inf (a != b), 0)
  | .inf a, .num b m _ => if m = 0 then (.nan, flagNV) else (.inf (a != b), 0)
  | .num a m _, .inf b => if m = 0 then (.nan, flagNV) else (.inf (a != b), 0)
  | .num a m1 e1, .num b m2 e2 => (.num (a != b) (m1 * m2) (e1 + e2), 0)

/-- The exact a × b + c: an invalid product sets NV even beside a NaN (R378). -/
def fFma (a b c : FVal) (m : RMode) : Flagged FVal :=
  let (p, f1) := fMul a b
  let (r, f2) := fAdd p c m
  (r, f1 ||| f2)

/-- The integer square root of `n`, from its bit `k` down. -/
def isqrtFrom (n : Nat) : Nat → Nat → Nat
  | 0, acc => acc
  | k + 1, acc =>
    let t := acc + 2 ^ k
    isqrtFrom n k (if t * t ≤ n then t else acc)

/-- The integer square root. -/
def isqrt (n : Nat) : Nat := isqrtFrom n (n.log2 / 2 + 1) 0

/-- A value strictly between `m × 2^e` and `(m + 1) × 2^e` when `more` is set, else `m × 2^e`. It rounds as the real value
does at every step of at least `2^(e+1)`. -/
def fInside (neg : Bool) (m : Nat) (e : Int) (more : Bool) : FVal :=
  if more then .num neg (4 * m + 1) (e - 2) else .num neg m e

/-- The square root (R380). -/
def fSqrt (x : FVal) : Flagged FVal :=
  match x with
  | .nan => (.nan, 0)
  | .inf neg => if neg then (.nan, flagNV) else (.inf false, 0)
  | .num neg m e =>
    if m = 0 then (.num neg 0 0, 0)
    else if neg then (.nan, flagNV)
    else
      let odd := e % 2
      let m' := m * 2 ^ (64 + odd.toNat)
      let r := isqrt m'
      (fInside false r ((e - odd - 64) / 2) (decide (r * r ≠ m')), 0)

/-- RoundF32 of an exact computation's value, joining the flags of both. -/
def roundTo (x : Flagged FVal) (md : Modes) : Flagged Lane :=
  let (r, f) := roundF32 x.1 md.rm md.ftz
  (r, x.2 ||| f)

/-- Whether a value is a NaN. -/
def FVal.isNan : FVal → Bool
  | .nan => true
  | _ => false

/-- Whether x < y as extended reals; both zeros are equal, and a NaN is below nothing. -/
def fLt (x y : FVal) : Bool :=
  match x, y with
  | .nan, _ => false
  | _, .nan => false
  | .inf a, .inf b => a && !b
  | .inf a, .num _ _ _ => a
  | .num _ _ _, .inf b => !b
  | .num a m1 e1, .num b m2 e2 =>
    let e := min e1 e2
    let i1 : Int := m1 * 2 ^ (e1 - e).toNat
    let i2 : Int := m2 * 2 ^ (e2 - e).toNat
    decide ((if a then -i1 else i1) < (if b then -i2 else i2))

/-- Whether x = y as extended reals. -/
def fEq (x y : FVal) : Bool := !x.isNan && !y.isNan && !fLt x y && !fLt y x

/-- The sign of a value's bits, true for negative. -/
def signOf (a : Lane) : Bool := a.getLsbD 31

/-- MAX.F32: the greater, +0 above −0, a NaN giving the default NaN (R182). -/
def maxF32 (a b : Lane) : Lane :=
  let x := laneVal a false
  let y := laneVal b false
  if x.isNan || y.isNan then 0x7FC00000
  else if fLt x y then b else if fLt y x then a else if signOf a then b else a

/-- MIN.F32: the lesser, −0 below +0, a NaN giving the default NaN (R182). -/
def minF32 (a b : Lane) : Lane :=
  let x := laneVal a false
  let y := laneVal b false
  if x.isNan || y.isNan then 0x7FC00000
  else if fLt x y then a else if fLt y x then b else if signOf a then a else b

/-- MAXABS.F32: the larger magnitude, `v` on a tie (R182). -/
def maxAbsF32 (v p : Lane) : Lane :=
  let x := laneVal (v &&& 0x7FFFFFFF) false
  let y := laneVal (p &&& 0x7FFFFFFF) false
  if x.isNan || y.isNan then 0x7FC00000 else if fLt x y then p else v

/-- ADD.F32 in RNE with neither FTZ nor DAZ and no flag (R182, R349). -/
def addF32 (a b : Lane) : Lane := (roundF32 (fAdd (laneVal a false) (laneVal b false) .rne).1 .rne false).1

/-! ### Conversions (R290, R302) -/

/-- An element of a floating-point format as an FP32 lane: exact, a NaN keeping its sign and mantissa (R302). -/
def widen (f : Format) (c : Nat) (daz : Bool) : Lane :=
  match f.decode c with
  | .nan => BitVec.ofNat 32 (fld c (f.ebits + f.mbits) 1 * 2 ^ 31 + 0xFF * 2 ^ 23 + fld c 0 f.mbits * 2 ^ (23 - f.mbits))
  | .inf neg => BitVec.ofNat 32 (fp32.infCode neg)
  | .num neg m e =>
    let m := if daz && (f == fp16 || f == bf16) && fld c f.mbits f.ebits == 0 then 0 else m
    BitVec.ofNat 32 (fp32.encode neg m e)

/-- The exact value of a block element (R290): its code, whether INT4X, the scale byte and the spare byte. -/
def blockVal (int4 : Bool) (code scale spare : Nat) : FVal :=
  if scale = 0xFF then .nan
  else
    let s : Int := scale - 127
    if int4 then
      let v : Int := if code < 8 then code else (code : Int) - 16
      .num (decide (v < 0)) v.natAbs s
    else if code = 8 then
      match e4m3.decode spare with
      | .num neg m e => .num neg m (e + s)
      | v => v
    else match e2m1.decode code with
      | .num neg m e => .num neg m (e + s)
      | v => v

/-- A block element as an FP32 lane: exact, or the infinity of its sign (R290). -/
def blockLane (int4 : Bool) (code scale spare : Nat) : Lane :=
  (roundF32 (blockVal int4 code scale spare) .rne false).1

/-- RoundBF16 (R419). -/
def roundBF16 (x : FVal) : Nat :=
  match x with
  | .nan => 0x7FC0
  | .inf neg => bf16.infCode neg
  | .num neg mag e =>
    if mag = 0 then bf16.encode neg 0 0
    else
      let top : Int := e + bitLen mag
      let q := max (top - 8) (-133)
      if 130 < top then bf16.infCode neg
      else
        let k := (roundQ neg mag e q .rne).1
        if 128 < q + bitLen k then bf16.infCode neg else bf16.encode neg k q

/-- The element code a converting store writes for a block element, and its flags (R291, R301). -/
def blockStore (int4 : Bool) (a : Lane) (scale : Nat) (md : Modes) : Flagged Nat :=
  if scale = 0xFF then (0, flagNV)
  else
    let x := match laneVal a md.daz with
      | .num neg m e => .num neg m (e + 127 - scale)
      | v => v
    if int4 then
      let (y, f) := satInt x 4 md.rm
      (if 0 ≤ y then y.toNat else (y + 16).toNat, f)
    else
      let (y, f) := satFloat x e2m1 md.rm md.ftz
      let c := e2m1.codeOf y
      (if c = 8 then 0 else c, f)

/-! ### The special functions (R397 to R402) -/

/-- ln 2 × 2^256, rounded down. -/
def ln2Fix : Nat := 80260960185991308862233904206310070533990667611589946606122867505419956976171

/-- The Taylor series of 2^256 × e^(y / 2^256), from term `n` with value `t`. -/
def expSeries (y : Nat) : Nat → Nat → Nat → Nat
  | 0, _, _ => 0
  | fuel + 1, n, t => t + expSeries y fuel (n + 1) (t * y / 2 ^ 256 / (n + 1))

/-- 2^a of a value in [−1, 1] (R397): exact at −1, 0 and 1, else from 256-bit fixed point (log entry 9). -/
def fExp2 (x : FVal) : Flagged FVal :=
  match x with
  | .nan => (.nan, 0)
  | .inf _ => (.nan, flagNV)
  | .num neg m e =>
    if m = 0 then (.num false 1 0, 0)
    else if 1 < e + bitLen m ∨ (e + bitLen m = 1 ∧ m ≠ 2 ^ (bitLen m - 1)) then (.nan, flagNV)
    else if e + bitLen m = 1 then (.num false 1 (if neg then -1 else 1), 0)
    else
      let a := m * 2 ^ (e + 256).toNat            -- |a| × 2^256, exact
      let f := if neg then 2 ^ 256 - a else a
      let s := expSeries (f * ln2Fix / 2 ^ 256) 80 0 (2 ^ 256)
      (fInside false (s / 2 ^ 136) (-120 - neg.toNat) true, 0)

/-- VEXPX's exponent (R400). -/
def fExponent (x : FVal) : Flagged Lane :=
  match x with
  | .num _ m e => if m = 0 then (0x80000000, flagNV) else (BitVec.ofInt 32 (e + bitLen m - 1), 0)
  | _ => (0x7FFFFFFF, flagNV)

/-- The mantissa field m and exponent e of a finite non-zero value, |a| = (1 + m × 2^−23) × 2^e (R401, R402). -/
def normParts (mag : Nat) (exp : Int) : Nat × Int :=
  (mag * 2 ^ (24 - bitLen mag) - 2 ^ 23, exp + bitLen mag - 1)

/-- VRCP (R401). -/
def fRcp (x : FVal) (md : Modes) : Flagged Lane :=
  match x with
  | .nan => (0x7FC00000, 0)
  | .inf neg => (BitVec.ofNat 32 (fp32.encode neg 0 0), 0)
  | .num neg mag exp =>
    if mag = 0 then (BitVec.ofNat 32 (fp32.infCode neg), flagDZ)
    else
      let (m, e) := normParts mag exp
      let d := 513 + 2 * (m / 2 ^ 15)
      roundTo (.num neg ((2 ^ 19 + d) / (2 * d)) (-e - 9), 0) md

/-- VRSQ (R402). -/
def fRsq (x : FVal) : Flagged Lane :=
  match x with
  | .nan => (0x7FC00000, 0)
  | .inf neg => if neg then (0x7FC00000, flagNV) else (0, 0)
  | .num neg mag exp =>
    if mag = 0 then (BitVec.ofNat 32 (fp32.infCode neg), flagDZ)
    else if neg then (0x7FC00000, flagNV)
    else
      let (m, e) := normParts mag exp
      let j := e % 2
      let d := (257 + 2 * (m / 2 ^ 16)) * 2 ^ j.toNat
      let t := (isqrt (2 ^ 28 / d) + 1) / 2
      (BitVec.ofNat 32 (fp32.encode false t (-9 - (e - j) / 2)), 0)

/-- VRINT (R398). -/
def fRint (x : FVal) (md : Modes) : Flagged Lane :=
  match x with
  | .nan => (0x7FC00000, 0)
  | .inf neg => (BitVec.ofNat 32 (fp32.infCode neg), 0)
  | .num neg m e =>
    if m = 0 then (BitVec.ofNat 32 (fp32.encode neg 0 0), 0)
    else
      let (k, ix) := roundQ neg m e (max 0 e) md.rm
      (BitVec.ofNat 32 (fp32.encode neg k (max 0 e)), if ix then flagNX else 0)

/-- VEXPI: c × 2^n with one rounding (R399). -/
def fScale (c : FVal) (n : Int) : FVal :=
  match c with
  | .num neg m e => .num neg m (if m = 0 then 0 else e + n)
  | v => v

/-! ### The matrix sum (R303) -/

/-- The exact sum of products, by a sum of signed numbers at the least exponent −266. -/
def sumFixed : List FVal → Int
  | [] => 0
  | .num neg m e :: rest => (if neg then -1 else 1) * ((m * 2 ^ (e + 300).toNat : Nat) : Int) + sumFixed rest
  | _ :: rest => sumFixed rest

/-- One element of an MMA: C + the sum of A[k] × B[k], the two roundings of R303 and the flags of R411. -/
def mmaElem (c : Lane) (as bs : List FVal) : Flagged Lane :=
  let ps := (as.zip bs).map fun ab => fMul ab.1 ab.2
  let invalid := ps.any fun p => p.2 != 0
  let vals := ps.map Prod.fst
  let posInf := vals.any (· == .inf false)
  let negInf := vals.any (· == .inf true)
  let anyNan := vals.any FVal.isNan
  let nv : Flags := if invalid || (posInf && negInf) then flagNV else 0
  let t : FVal := if anyNan || (posInf && negInf) then .nan
    else if posInf then .inf false else if negInf then .inf true
    else
      let sum := sumFixed vals
      if sum = 0 then .num (vals.all fun v => match v with | .num neg m _ => neg && m == 0 | _ => false) 0 0
      else .num (decide (sum < 0)) sum.natAbs (-300)
  let (tr, f1) := roundF32 t .rne false
  let (sum, f2) := fAdd (laneVal c false) (laneVal tr false) .rne
  let (r, f3) := roundF32 sum .rne false
  (r, nv ||| f1 ||| f2 ||| f3)

end Sys2Proof.Machine
end

