-- ==== Sys2Proof/Config.lean ====
section
/-! DEFINITION. What the spec leaves open as values. A free value is a constant with no body, applied to the counter
`State.free`, which every use advances: nothing can be proved about the value it stands for (log entry 3). -/

namespace Sys2Proof.Config

/-- An undefined 64-bit value: a scalar the spec calls undefined, a payload whose contents it does not give. -/
opaque freeWord : Nat → Word
/-- An undefined 32-bit lane (R205, R233, R235, R392, R404). -/
opaque freeLane : Nat → Lane
/-- A choice the spec leaves to the device (R62, R205, R265). -/
opaque freeBool : Nat → Bool
/-- A number the spec leaves to the device, such as which entry a replacement takes (R30, R57). -/
opaque freeNat : Nat → Nat
/-- The bank of its stack, pseudo-channel × 32 + bank, that holds a local HBM offset: the spec gives no mapping (R454). -/
opaque bankOf : Nat → Nat
/-- The row of its bank that holds a local HBM offset: the spec gives no mapping (R454). -/
opaque rowOf : Nat → Nat

/-- The supervisor's count of corrected soft errors, past which it is told: the spec gives no number (R65, R474). -/
opaque softLimit : Nat

end Sys2Proof.Config
end

