-- ==== Sys2Proof/Machine/State.lean ====
section
/-! DEFINITION. The state of the device as plain data: everything the spec gives the machine, and the model's own
fields (agenda, current issuer, event argument, counters), and the state after reset. -/

namespace Sys2Proof.Machine

/-- Why a step stops. -/
inductive Fault where
  /-- Raised by `step` for an agenda turn whose event names a unit that does not exist (`Arg.ok`); the device has no such
  turn, so this is safe. -/
  | noSuchUnit
  deriving DecidableEq, Repr

/-- Why a meaning is missing. -/
inductive Refusal where
  /-- Raised by `exec` for an instruction that has no meaning yet, with its mnemonic; safe. -/
  | notModelled (mnemonic : String)
  deriving DecidableEq, Repr

/-- A unit of a fabric node (R83): 0 to 8 core slots, 9 copy unit, 10 L2 slice, 11 die-scratchpad slice, 12 cairn store,
13 router, 14 supervisor and service functions. -/
structure UnitId where
  chip : Nat
  node : Nat
  unit : Nat
  deriving DecidableEq, Repr

/-- The AMO operators (R348). -/
inductive AmoOp where
  | add | and | or | xor | min | max | minn | maxn | swap | cas | faddF32 | fmaxF32
  deriving DecidableEq, Repr

/-- The full/empty modes other than .xx (R67). -/
inductive FeMode where
  | ff | fe | ef | xf
  deriving DecidableEq, Repr

/-- What an access does at its owner (R117): a load, a store of the masked bits, an AMO, a full/empty access, or FEQ. -/
inductive AccClass where
  | load | store | amo (op : AmoOp) | fe (m : FeMode) | feq
  deriving DecidableEq, Repr

/-- An access as its owner sees it (R117, R150). -/
structure Acc where
  pa   : Nat            -- physical address (R15)
  size : Nat            -- bytes: 1, 2, 4 or 8
  cls  : AccClass
  data : Word := 0      -- store data, AMO operand, full/empty value
  data2 : Word := 0     -- the new value of a CAS
  mask : Word := -1     -- the bits of `data` a store writes
  kind : Kind := .w
  mt   : Nat := 0       -- memory type (R25)
  vd   : Nat := 0
  src  : UnitId := ⟨0, 0, 0⟩
  rope : Nat := 0       -- rope name
  uid  : Nat := 0       -- and the rope by its unique number
  mx   : Bool := false  -- an access of the matrix sequencer
  fill : Bool := false  -- a weak load of a cacheable line asks for the line (R57)
  fcr  : Word := 0      -- the issuing level's FCR, for a store that pushes a command (R296)
  deriving DecidableEq, Repr

/-- A message that starts an activation (R207, R213, R352). -/
structure Msg where
  ty     : Nat
  args   : List Word                -- x10 to x13
  pc     : Word := 0                -- named by SPAWN, a launch record or a binding
  lev    : Nat := 0                 -- where the message itself names the level
  code   : Option (List Byte) := none
  launch : Nat := 0
  schk   : Bool := false
  tile   : List Word := []          -- TX0 to TZN, inherited by a spawned child (R231)
  remote : Bool := true             -- made by another core (R138)
  deriving DecidableEq, Repr

/-- A post of the cairn (R179). -/
structure Post where
  key  : Nat
  cls  : Nat
  val  : Word
  lev  : Nat
  deriving DecidableEq, Repr

/-- A multicast word and its operands (R358). -/
structure Mcast where
  group : Nat
  lmask : Nat
  cmode : Nat
  mb    : Nat
  rb    : Word
  rc    : Nat
  mt    : Nat := 0           -- memory type of an MCLD's lines at their home slice (R25, R62)
  deriving DecidableEq, Repr

/-- What a packet carries (R84, R104). -/
inductive Payload where
  | access (a : Acc) (op : Nat)                                  -- request of an access, with its reply tag
  | marker (a : Acc) (op count : Nat)                            -- the flag store of a FENCEF, and the writes it follows (R135)
  | resp (op status : Nat) (data : Word) (line : Option (Nat × List Byte × List Nat))
  | withdraw (op : Nat)                                          -- withdrawal of a waiting access (R73)
  | withdrawn (op : Nat) (removed : Bool)
  | flush (line : Nat) (op : Nat)                                -- CFLUSH at the home slice (R367)
  | message (m : Msg) (op : Nat)                                 -- SEND, SENDC, SPAWN (R352)
  | adopt (h : Word) (op : Nat)                                  -- ADOPT service request (R128)
  | adopted (op : Nat)
  | aread (pa len : Nat) (op : Nat)                              -- AREAD request (R357)
  | areadReply (op status : Nat) (data : List Byte)
  | post (p : Post) (op : Nat)                                   -- cairn post (R179)
  | postAck (op status : Nat) (outcome : Nat)
  | mcst (m : Mcast) (data : List Byte) (op : Nat)               -- a multicast store on its way to the root (R360)
  | mcData (m : Mcast) (data : List Byte) (line : Nat) (root : UnitId)   -- a multicast store inside the tree
  | mcldReq (m : Mcast) (pa : Nat) (lines : List (Nat × Nat)) (op : Nat)   -- an MCLD request at the home slice (R361)
  | mcldLine (group pa : Nat) (data : List Byte) (bad : List Nat) (line : Nat) (unicast : Bool) (home : UnitId)
  | comb (group line pos neg : Nat) (first : Nat) (dst : UnitId)   -- a response or combined acknowledgement (R110)
  | mcDone (op pos neg : Nat) (first : Nat)                      -- the root's combined acknowledgement to the issuer
  | entry (core launch tile : Nat)                               -- an entry on its way to another chip's launch unit (R245)
  | mcldAnswer (op status : Nat)                                 -- NOT_MEMBER from the slice (R361), or BUSY
  | merge (mb pos : Nat) (group neg first : Nat) (rb : Word) (cmode : Nat)   -- the report of a merge entry (R489)
  | nack (op : Nat) (slotless : Bool)                            -- BUSY (R100); a spawn's BUSY for thread slots
  | copyData (k part : Nat) (words : List (Nat × Nat × Word × Option Bool))   -- words of a copy sector for one owner: address,
                                                                 -- memory type, value, full/empty bit (R68, R87)
  | copyAck (k part status : Nat)                                -- and their acknowledgement
  | lineBusy (group line : Nat)                                  -- BUSY for a line of an MCLD at its root (R111)
  deriving DecidableEq, Repr

/-- Where a packet is. -/
inductive Stage where
  | outbox (next : Nat)      -- waiting at its source, with the index of the next flit to inject
  | flying                   -- every flit injected
  | arrived                  -- delivered to its unit
  deriving DecidableEq, Repr

/-- A packet: one message of one or more flits (R98). -/
structure Packet where
  id      : Nat
  src     : UnitId
  dst     : UnitId
  vd      : Nat
  plane   : Plane
  last    : Nat              -- FLAST (R87)
  payload : Payload
  stage   : Stage
  age     : Nat              -- AGE of the flit that brought it here, which a copy made of it goes on with (R108)
  eject   : Nat              -- the ejection port it left the fabric by (R51)
  tag     : Nat              -- TAG, among its source unit's multi-flit messages (R87, R98)
  deriving DecidableEq, Repr

/-- A flit at a router: on an input port (0 +X, 1 −X, 2 +Y, 3 −Y, 4 the scale-up port), a multicast copy made there (5), or ejected and still to be
reassembled (6). -/
structure Flit where
  id    : Nat
  pkt   : Nat
  idx   : Nat
  plane : Plane
  age   : Nat                -- R89
  chip  : Nat
  node  : Nat
  port  : Nat
  rnode : Option Nat := none -- a multicast copy's resume node (R108)
  up    : Nat := 0           -- 1 + the tree port a copy leaves its resume node by; 0: it follows the tree there
  entry : Nat := 0           -- entry node of the tree on this chip (R107)
  deriving DecidableEq, Repr

/-- How an operation's answer is used. -/
inductive Dest where
  | drop                                       -- nothing to write
  | reg (r size : Nat) (signed : Bool)         -- scalar register, from bytes of the given size
  | part (coll idx : Nat)                      -- part of a multi-part result
  deriving DecidableEq, Repr

/-- What an operation asks for. -/
inductive Work where
  | mem (a : Acc)
  | flag (a : Acc) (count : Nat)               -- FENCEF, with the rope's writes to the flag's node (R134, R135)
  | cinv (line : Nat)                          -- CINV, and the L1 part of CFLUSH (R367)
  | cflush (line : Nat)
  | message (m : Msg) (target : UnitId)
  | spawn (m : Msg) (target : UnitId)
  | adopt (h : Word) (rope : Nat)
  | aread (pa len tag : Nat) (dst : Nat) (args : List Word)
  | post (p : Post) (strict : Option Nat)      -- EVPOSTS carries its destination register
  | mcst (m : Mcast) (pa : Nat) (line : Option (List Byte))  -- where its line lies, and the line once it is read (R360)
  | mcld (m : Mcast) (pa : Nat) (lines : List (Nat × Nat))   -- each line wanted with its physical address
  | tret                                       -- the release and acquire of a TRET, inside the core (R436)
  deriving DecidableEq, Repr

/-- Where an operation stands. -/
inductive OpState where
  | held                    -- kept at the source by the ordering rules
  | awaiting                -- its data is still to be read: a block element, a message's code
  | buffered                -- in the store buffer (R58)
  | sent
  | waiting                 -- in its owner's retry list (R70)
  | backoff (until_ : Nat)  -- refused with BUSY: re-sent once this cycle has come (R72)
  | withdrawing             -- its withdrawal is under way (R73)
  | rewithdraw (until_ : Nat)   -- the withdrawal found no entry: sent again once this cycle has come (R73)
  | taking (store : Nat)    -- a load that takes its value from another level's buffered store (R58), not yet in its register
  | kept (store : Nat)      -- and in its register: what comes after the load comes after that store (R120)
  deriving DecidableEq, Repr

/-- A combined translation of R27, as a TLB holds it (R30). -/
structure TlbEntry where
  vd    : Nat
  page  : Nat                -- address bits above the page size
  log   : Nat                -- page size 2^log: 16, 21 or 30 (R23)
  frame : Nat                -- physical frame base
  ipa   : Nat                -- intermediate address of the page
  s1    : Nat × Nat          -- stage-1 leaf: level and permission bits R 1, W 2, X 4
  s2    : Nat × Nat
  mt    : Nat
  deriving DecidableEq, Repr

/-- An operation that an agent has issued and that is not known to have performed. -/
structure Op where
  id     : Nat
  lev    : Nat               -- issuing level; 4 the copy channel, 5 the matrix sequencer
  act    : Nat               -- activation count of the level (R342)
  launch : Nat
  po     : Nat               -- program order of the level
  rope   : Nat               -- rope, by its unique number
  name   : Nat := 0          -- and by the name it was issued under (R150)
  idx    : Nat               -- position on the rope
  kind   : Kind
  scope  : Scope
  pc     : Word              -- the issuing instruction (R342)
  va     : Word              -- the address as the program names it (R340)
  work   : Work
  dest   : Dest
  st     : OpState
  fence  : Nat := 0          -- operations of the level before its last fence (R132)
  epoch  : Option Nat := none  -- the L1 epoch its fill belongs to; none: the fill is not kept (R59, R367)
  xl     : Option TlbEntry := none   -- the entry that translated it (R39)
  quiet  : Bool := false     -- its instruction has raised a late cause already (R342)
  ev     : Bool := false     -- an event activation issued it (R198)
  nacks  : Nat := 0          -- times it was refused (R72)
  deriving DecidableEq, Repr

/-- The element formats (R292). -/
inductive Fmt where
  | raw | f32 | bf16 | fp16 | e4m3 | e5m2 | i8 | e2m1x (n : Nat) | int4x (n : Nat)
  deriving DecidableEq, Repr

/-- One element write of a vector store whose value is still to come: its lane, whether a block element takes the high
nibble, whether it is issued, since a higher lane may replace it (R147), and the operation (R289, R291). -/
structure LaneOp where
  lane : Nat
  high : Bool
  live : Bool
  op   : Op
  deriving DecidableEq, Repr

/-- What happens when every part of a multi-part result is in. Part `4 × lane + j` is an element (0), its block's scale (1)
and spare (2), or the scale that a block store reads (3). -/
inductive Finish where
  | vload (place : Nat) (fmt : Fmt) (old : VReg) (mask nib : Word) (daz : Bool)
  | vpush (stream : Nat) (fmt : Fmt) (mask nib : Word) (dst : Fmt) (fcr : Word) (ops : List LaneOp)   -- a load pushes (R391)
  | vstore (dst : Fmt) (vals : VReg) (fcr : Word) (ops : List LaneOp)       -- a block store, once its scales are read (R291)
  | chunk (stream : Nat) (fmt : Fmt) (mask nib : Word) (daz : Bool)         -- a chunk of a read stream (R391)
  | lnch (rd queue : Nat)
  | tbind (tag lev : Nat) (pc : Word)
  | evcfg (cls : Nat)
  | tmld (m : Nat)
  | mcjoin (group : Nat)
  | sendc (op : Nat)                                                        -- the message, once its code is read (R353)
  | dispload (base : Word)                                                    -- with the register's new value (R306)
  | tagload (base : Word)
  deriving DecidableEq, Repr

/-- A multi-part result being gathered. -/
structure Coll where
  id     : Nat
  lev    : Nat
  act    : Nat
  launch : Nat
  pc     : Word
  left   : Nat               -- parts still to come
  vals   : AMap Word
  finish : Finish
  bad    : Option (Nat × Nat × Word) := none   -- lowest failing part: part, cause, address
  share  : List (Nat × Nat) := []    -- lanes served by the reads of another, which names the same element (R387)
  deriving DecidableEq, Repr

/-- Whether a gathering outlives its activation: it ends in an effect that the activation has issued, not in a register or
table that only the waiting activation would have had (R153, R215). -/
def Coll.issues (c : Coll) : Bool :=
  match c.finish with
  | .vload _ _ _ _ _ _ => false
  | .chunk _ _ _ _ _ => false
  | .tmld _ => false
  | .dispload _ => false
  | .tagload _ => false
  | _ => true

/-- A rope in its sequencer slot (R124 to R128). -/
structure Rope where
  uid     : Nat
  lev     : Nat
  epoch   : Nat
  issued  : Nat                     -- operations issued on it
  preds   : List (Nat × Nat × Nat)  -- (rope, count, since): the first `count` operations of that rope come before the
                                    -- operations of this one from its number `since` on
  adopt   : List Nat                -- the ADOPTs, and the TRET, whose answers its operations wait for
  wrote   : AMap Nat                -- its writes to each node since its last FENCEF flag there (R135)
  dropped : Bool
  deriving DecidableEq, Repr

/-- A register an interlock names. -/
inductive Reg where
  | x (n : Nat) | v (n : Nat) | p (n : Nat) | tm (n : Nat)
  deriving DecidableEq, Repr

/-- A register's value. -/
inductive RVal where
  | word (w : Word)
  | vec (v : VReg)
  deriving DecidableEq, Repr

/-- An outstanding fixed-latency result (R267, R268). -/
structure Pend where
  reg    : Reg
  val    : RVal
  lam    : Nat
  credit : Nat
  deriving DecidableEq, Repr

/-- An open stream (R389 to R392). -/
structure Stream where
  desc  : List Word          -- the descriptor copied by SOPEN
  pos   : Nat                -- chunks popped or pushed
  done  : Nat                -- elements popped or pushed
  rope  : Nat                -- private rope, by its sequencer slot
  buf   : Option (Bool × VReg)   -- the next chunk of a read stream, once read, and the DAZ it was read under
  asked : Bool               -- the next chunk is being read
  deriving DecidableEq, Repr

/-- An activation (R205, R213, R216). -/
structure Act where
  ty      : Nat
  launch  : Nat
  slot    : Nat              -- thread slot; 16 + k for the trap forward of level k
  start   : Nat              -- cycle of the start (R206)
  tile    : List Word        -- TX0, TXN, TY0, TYN, TZ0, TZN (R231)
  code    : Option (List Byte)   -- inbox code (R217)
  inbox   : Bool             -- the PC is in the inbox code (R218)
  deriving DecidableEq, Repr

/-- Why a level is not ready (R251). -/
inductive Wait where
  | ready
  | page                             -- a walk or the page service; the instruction issues again (R35)
  | waitx (id : Nat)
  | sleep (until_ : Nat)
  | gbar (group rd : Nat)
  | evquiet (rd bound : Nat) (always : Bool)
  | ropeWait (uid : Nat)
  | take (n : Nat)
  | fence (po : Nat) (all acq : Bool)
  | spawn (op : Nat) (rb : Word)
  | evposts (op rd : Nat)
  | mxwait (n : Nat)
  | cpgo (rd : Nat) (snap : List Word)
  | tlbinv (id : Nat)
  | coll (id : Nat)                  -- a multi-part result its instruction waits for
  | align (until_ : Nat)
  | trapped                          -- its trap forward is pending or running (R435)
  | gone (op cause : Nat)            -- the watchdog's withdrawal is under way (R73)
  deriving DecidableEq, Repr

/-- A level's trap record (R435). -/
structure TrapRec where
  args     : List Word       -- TRAPCAUSE, TRAPPC, TRAPVAL, TRAPADDR
  resume   : Word
  accepted : Nat             -- acceptance cycle
  running  : Bool
  inbox    : Bool
  deriving DecidableEq, Repr

/-- A decided translation of a 64 KiB page: an entry, or a denial with its TRAPVAL (R37, R433). -/
inductive Xlate where
  | hit (e : TlbEntry)
  | denied (trapval : Word)
  | lost (cause : Nat)               -- a table entry that no walker can read: ACCESS where there is no memory (R16), ECC_UNCORR
                                     -- for an uncorrectable error (R65)
  deriving DecidableEq, Repr

/-- A level's follower mode (R222): its leader's active core number, whether it is attached, the count of the leader's
activation that it attached to, and the addresses that the leader has issued since and the follower has not. -/
structure Follow where
  leader   : Nat
  attached : Bool
  act      : Nat
  ahead    : List Word
  deriving DecidableEq, Repr

/-- The per-level state of a core (R203). -/
structure Lvl where
  pc        : Word := 0
  x         : Vector Word 32 := Vector.replicate 32 0
  p         : Vector Word 8 := Vector.replicate 8 0
  rope      : List (Option Nat) := some 0 :: List.replicate 15 none   -- rp0 to rp15: a sequencer slot
  fcr       : Word := 0
  stallchk  : Word := 0
  inlineN   : Word := 0
  trapcause : Word := 0
  trappc    : Word := 0
  trapval   : Word := 0
  trapaddr  : Word := 0
  rbase     : Word := 0
  lcount    : Word := 0
  act       : Option Act := none
  acts      : Nat := 0               -- activations so far (R342)
  ipc       : Word := 0              -- address of the instruction being issued
  word      : Nat := 0               -- its pattern
  pfx       : Option Nat := none     -- the rope of a ROPE prefix (R274)
  pend      : List Pend := []
  ilock     : List (Reg × Nat) := [] -- interlocked writes outstanding, with their operation or collector
  wait      : Wait := .ready
  again     : Bool := false          -- the instruction did not issue and will be tried again
  readyAt   : Nat := 0               -- R266
  waited    : Nat := 0               -- the wait count of R252
  po        : Nat := 0               -- operations issued so far in program order
  fence     : Nat := 0               -- operations before the last fence (R132)
  fenceAll  : List (Nat × Nat) := [] -- (rope, count): what comes before every write after the fence
  fenceRead : List (Nat × Nat) := [] -- and before every operation after it
  readPts   : List (Nat × Nat) := [] -- what comes before what follows the level's reads so far
  strongs   : List ((Nat × Nat) × List (Nat × Nat)) := []   -- words of its non-weak accesses, and what comes before the
                                     -- next non-weak access to them (R123)
  held      : List Nat := [0]        -- rack sets held, floor first (R232)
  streams   : List (Option Stream) := [none, none, none, none]
  trap      : Option TrapRec := none
  follow    : Option Follow := none         -- follower mode (R222)
  xl        : List (Nat × Xlate) := []      -- decided translations of the waiting instruction, by page
  dropped   : Nat := 0               -- activation count below which load results are discarded (R215)
  deriving DecidableEq, Repr

/-- The state of a thread slot (R213). -/
inductive SlotState where
  | free | reserved | pending | running
  deriving DecidableEq, Repr

/-- A thread slot (R213). -/
structure Slot where
  st       : SlotState := .free
  msg      : Msg := ⟨0, [], 0, 0, none, 0, false, [], false⟩
  lev      : Nat := 0
  accepted : Nat := 0
  post     : Option Post := none     -- the post behind a claimed event (R202)
  home     : Nat := 0
  deriving DecidableEq, Repr

/-- A line of L1 (R57). -/
structure L1Line where
  addr  : Nat
  data  : List Byte
  bad   : List Nat           -- words with an uncorrectable error (R65)
  deriving DecidableEq, Repr

/-- A cached dispatch or reply-tag entry (R209, R355). -/
structure DispEntry where
  pc   : Word := 0
  v    : Bool := false
  code : Bool := false
  schk : Bool := false
  lev  : Nat := 0
  deriving DecidableEq, Repr

/-- Words of a sector on their way to one owner (R372). -/
structure CopyPart where
  id    : Nat
  dst   : UnitId
  tag   : Nat                -- TAG of its two flits (R87)
  words : List (Nat × Nat × Word × Option Bool)
  xls   : List TlbEntry      -- the entries that translated them (R39)
  va    : Word               -- the destination address of its first word
  nacks : Nat := 0           -- times it was refused, and the cycle from which it is sent again (R72, R100)
  again : Option Nat := none
  deriving DecidableEq, Repr

/-- A transfer of the copy channel (R369 to R372). -/
structure Xfer where
  id     : Nat
  snap   : List Word         -- CPSRC, CPDST, CPLEN, CPSTR0-2, CPCNT0-2, CPFLAGS
  lev    : Nat
  act    : Nat
  launch : Nat
  pc     : Word
  sector : Nat
  parked : Bool              -- waits on the page service (R36); once resumed, it tries its sector again (R258)
  retry  : Bool := false
  xl     : List (Nat × Xlate)
  after  : List Nat          -- operations of rp0 the release waits for (R143)
  flight : List CopyPart := []   -- parts of its sector on their way to their owners
  bad    : Option (Nat × Word × Word) := none   -- the cause, TRAPVAL and address of a part that was not performed: the transfer
                                 -- ends with it when its other parts are answered (R372)
  deriving DecidableEq, Repr

/-- The copy channel of a core (R369, R370). -/
structure Chan where
  shadow  : List Word := [0, 0, 0, 0, 0, 0, 1, 1, 1, 0]   -- CPSRC CPDST CPLEN CPSTR0-2 CPCNT0-2 CPFLAGS
  lastId  : Nat := 0
  done    : Word := 0
  queue   : List Xfer := []
  stopped : Bool := false
  deriving DecidableEq, Repr

/-- The state of a B latch (R404). -/
inductive LatchState where
  | isOpen | reserved | loaded | leaving
  deriving DecidableEq, Repr

/-- A matrix command with who pushed it (R408). -/
structure Cmd where
  num    : Nat               -- PUSHED after its push
  words  : List Word
  lev    : Nat
  act    : Nat
  launch : Nat
  pc     : Word
  fcr    : Word              -- RM, FTZ and DAZ captured at the push (R296)
  ser    : Bool              -- SER as it stood at the push (R410)
  head   : Nat               -- cycle from which its wait to start counts (R427)
  after  : List Nat          -- operations the push's release waits for
  done   : Bool              -- its own effects are complete
  flags  : Nat               -- flags it raises when it retires
  start  : Nat               -- cycle of its start
  deriving DecidableEq, Repr

/-- A ring transfer under way (R421). -/
structure RingXfer where
  cmd  : Nat                         -- its ROTB
  src  : Nat                         -- latch sent
  slot : Nat                         -- physical slot of the next core
  dst  : Nat                         -- and its latch
  deriving DecidableEq, Repr

/-- The matrix unit of a core (R403 to R411). -/
structure Mx where
  acc     : AMap Lane := []          -- element (acc × 16 + row) × 64 + column of the accumulators
  latch   : AMap (BitVec 16) := []   -- element (latch × 32 + row) × 64 + column
  st0     : LatchState := .isOpen
  st1     : LatchState := .isOpen
  queue   : List Cmd := []           -- pushed, not started
  run     : List Cmd := []           -- started, not retired
  pushed  : Nat := 0                 -- modulo 2^32
  retired : Nat := 0
  mode    : Word := 0
  flt     : Bool := false
  stall   : Word := 0                -- MXSTALL
  window  : Memory := []             -- the matrix queue window (R405)
  ring    : List RingXfer := []      -- transfers under way, oldest first
  busy    : List (Nat × Nat) := []   -- commands that read a latch: (command, latch)
  last    : Option Nat := none       -- cycle of the last start (R412)
  junk    : Option Nat := some 0     -- which undefined contents what is not listed holds (R404); none: zero (R445, R452)
  stopped : Bool := false
  deriving DecidableEq, Repr

/-- A write on its way to a mailbox (R307). -/
structure MbWrite where
  at_ : Nat                          -- cycle in which it arrived
  cls : Nat                          -- 0 an MNOTE, 1 a multicast completion, 2 a merge report
  val : Word                         -- stored by an MNOTE, added by the others
  cmd : Nat                          -- the MNOTE's number
  deriving DecidableEq, Repr

/-- A scratchpad word as a store found it, which matrix commands queued then may still read (R415). -/
structure OldWord where
  core : Nat
  word : Nat                         -- its scratchpad offset divided by 8
  val  : Nat
  cmds : List Nat
  deriving DecidableEq, Repr

/-- A multicast load registered at its core (R361). -/
structure McldReg where
  op    : Nat
  m     : Mcast
  lev   : Nat
  launch : Nat
  lines : List (Nat × Nat)   -- its lines, with their physical addresses
  xls   : List TlbEntry      -- the entries that translated them (R39)
  left  : List Nat           -- lines not settled
  pos   : Nat
  neg   : Nat
  first : Nat
  deriving DecidableEq, Repr

/-- Whether a core runs (R440 to R443). -/
inductive RunState where
  | running | stopped | frozen | lost
  deriving DecidableEq, Repr

/-- A physical core (R203). -/
structure Core where
  run      : RunState := .running
  owner    : Nat := 0
  lv       : Vector Lvl 4 := #v[{}, { held := [1] }, { held := [2] }, { held := [3] }]
  slots    : List Slot := List.replicate 16 {}
  vreg     : AMap VReg := []         -- the 128 vector registers; one not listed holds zero
  floor    : Word := 0x1111          -- RACKFLOOR
  takes    : List (Nat × Nat) := []  -- waiting TAKEs: level, n
  lanes    : Memory := []            -- lane slices: lane × 256 + offset
  lanesBad : List Nat := []
  l1       : List L1Line := []
  l1Use    : List Nat := []          -- lines of L1 used lately (R57)
  epoch    : Nat := 0
  tlb      : List TlbEntry := []
  tlbUse   : List TlbEntry := []     -- entries of the TLB used lately (R30)
  port     : Nat := 0                -- requester the scratchpad port's rotation starts at (R51)
  want     : List (Nat × Nat) := []  -- own units that wait for their turn at it, 1 the sequencer and 2 the channel, with the
                                     -- cycle in which they last asked
  ops      : List Op := []
  colls    : List Coll := []
  ropes    : AMap Rope := []
  mb       : Vector Word 4 := Vector.replicate 4 0
  mbq      : List (List MbWrite) := [[], [], [], []]   -- landing queues of 8, each followed by the writes that wait for room
  ended    : List Nat := []          -- what ended its cycle: mailboxes on which a write landed, 4 a command's retirement
  dispbase : Word := 0
  disp     : AMap DispEntry := []
  dispAsk  : AMap (List Nat) := []   -- types being read on demand, and the arrivals answered BUSY meanwhile (R210)
  dispBad  : AMap Nat := []          -- and the status with which an arrival whose read failed is answered when it comes again
  tagbase  : Word := 0
  tags     : AMap DispEntry := []
  tagBusy  : List Nat := []
  tagPend  : List (Nat × Msg × Nat) := []   -- reply activations pending at their level: tag, message, cycle
  chan     : Chan := {}
  mx       : Mx := {}
  tm       : Vector (List Word) 8 := Vector.replicate 8 (List.replicate 8 0)
  injstat  : Word := 0
  evretry  : Word := 0
  tracectl : Word := 0
  traceptr : Word := 0
  mclds    : List McldReg := []
  mcOut    : List Nat := []          -- groups with a multicast of this core in flight (R111)
  lastIssue : Option Nat := none     -- cycle of the last issue (R204)
  evActs   : Nat := 0                -- activity count of the quiescence detector (R197)
  deriving DecidableEq, Repr

/-- An entry of a cairn store (R174). -/
structure CairnEntry where
  vd  : Nat
  key : Nat
  cls : Nat
  val : Word
  seq : Nat
  deriving DecidableEq, Repr

/-- A cairn store's state of one virtual device (R175, R190, R191). -/
structure CairnVd where
  counter : Nat := 0
  heads   : AMap Nat := []
  tails   : AMap Nat := []
  flush   : List Nat := []
  lastLev : Nat := 0                 -- level last served
  lastCls : AMap Nat := []           -- class last served at each level; 15 at the start
  lastCore : Nat := 7
  refillC : Nat := 15                -- class last refilled
  acts    : Nat := 0                 -- activity count (R197)
  stopped : Bool := false            -- claims and refills stopped for a pre-emption (R199)
  saving  : Bool := false
  waitPg  : Option Nat := none       -- the post whose ring write waits on the page service (R192)
  deriving DecidableEq, Repr

/-- A combining register (R110). -/
structure Comb where
  group  : Nat
  line   : Nat
  vd     : Nat
  expect : Nat
  pos    : Nat
  neg    : Nat
  first  : Nat
  up     : UnitId × Bool             -- where its acknowledgement goes; true when this is the root
  root   : Option (Nat × UnitId)     -- at the root: the issuer's operation and unit
  deriving DecidableEq, Repr

/-- A line of an MCLD in its slice's send buffer, until it is answered (R488): along the tree, or to one core. -/
structure SentLine where
  line  : Nat
  to_   : Option UnitId
  data  : List Byte
  bad   : List Nat
  nacks : Nat := 0           -- times it was refused, and the cycle from which it is sent again (R72, R111)
  again : Option Nat := none
  deriving DecidableEq, Repr

/-- A merge entry of an MCLD at its home slice (R112). -/
structure Merge where
  group  : Nat
  vd     : Nat
  pa     : Nat
  rb     : Word
  lines  : List (Nat × Nat)          -- lines some request joined, with their physical addresses
  sent   : List Nat
  owed   : List (UnitId × Nat)       -- unicast lines owed: member core, line
  buf    : List SentLine             -- lines sent, whose answers are still to come
  pos    : Nat
  neg    : Nat
  first  : Nat
  mt     : Nat                       -- memory type of its lines (R62)
  deriving DecidableEq, Repr

/-- A reassembly slot in use: the message by its source unit and TAG (R98, R99). -/
structure Reasm where
  src    : UnitId
  tag    : Nat
  vd     : Nat
  got    : List Nat                  -- flits in
  shared : Bool                      -- a shared slot, not one of a floor
  deriving DecidableEq, Repr

/-- A cluster, one fabric node (R78). -/
structure Cluster where
  map      : List Nat := [0, 1, 2, 3, 4, 5, 6, 7]   -- core map: active core to physical slot (R21)
  tlb      : List TlbEntry := []     -- copy unit
  tlbUse   : List TlbEntry := []     -- entries of it used lately (R30)
  portL    : Nat := 0                -- input the L2 slice's rotation starts at (R51)
  portD    : Nat := 0                -- and the die-scratchpad slice's
  icache   : List ((Nat × Nat) × Parcel) := []      -- parcels fetched: (virtual device, physical address)
  budget   : Nat := 16
  cap      : Nat := 16               -- the hypervisor's CAP (R259, R469)
  repair   : Option Nat := none      -- slot being copied to the spare (R442)
  starts   : Nat := 0                -- MMA starts in the governor's window (R259)
  startWin : Nat := 0                -- the window of 64 cycles they belong to
  lastMma  : Nat := 7
  cairn    : List CairnEntry := []
  cairnVd  : AMap CairnVd := []
  reasm    : List Reasm := []
  fwrites  : List ((UnitId × Nat × Nat) × Nat) := []   -- writes performed here of a source unit, virtual device and rope
                                     -- since its last FENCEF flag here (R135)
  combs    : List Comb := []
  root     : AMap Nat := []          -- multicast in flight per group at its root node (R111)
  merges   : List Merge := []
  inj      : List Nat := [0, 0]      -- flits injected in a window: control, data (R262)
  injWin   : Nat := 0                -- the window of 64 cycles they belong to
  injUnit  : List Nat := [14, 14]    -- unit that injected last (R92)
  used     : List (List Nat) := [[], []]   -- output ports taken in this router cycle
  old      : List Bool := [false, false]   -- an old flit arrived in this router cycle
  starved  : Nat := 0                -- port actions of the cairn store since a refill became ready (R186)
  traceN   : AMap Nat := []          -- records written in the L2 slice's ring of each virtual device (R151)
  traceD   : AMap Nat := []          -- and in the die-scratchpad slice's
  lost     : Nat := 0                -- flits ejected with unit code 15 (R83)
  deriving DecidableEq, Repr

/-- A scale-up port (R94 to R97). -/
structure Port where
  lanes   : List Bool := List.replicate 9 true      -- lanes in working order
  spare   : Option Nat := none       -- the failed lane that lane 8 stands in for
  since   : Nat := 0                 -- cycle in which it last left service or began to retrain
  inService : Bool := true
  training : Bool := false
  dead    : Bool := false            -- out of service beyond 1 ms (R97)
  seqOut  : List Nat := [0, 0]       -- next sequence number to send, by plane
  store   : List (List (Nat × Flit)) := [[], []]    -- replay stores (R95)
  wire    : List (List (Nat × Flit)) := [[], []]    -- sent, not yet received
  seqIn   : List Nat := [0, 0]       -- next sequence number to accept
  deriving DecidableEq, Repr

/-- The package power states (R482), recovery (R480), and the retraining with which ON begins. -/
inductive Power where
  | off | recovery | standby | training | on
  deriving DecidableEq, Repr

/-- A block of the buddy tree (R449). -/
inductive Block where
  | free | split | assigned
  deriving DecidableEq, Repr

/-- A virtual-device slot of a chip (R469). -/
structure VdSlot where
  desc     : List Word := [0, 0, 0, 0]
  vd       : Nat := 0
  s1base   : Word := 0
  s2base   : Word := 0
  refused  : Bool := false
  cmdarg   : Word := 0
  dispinit : Word := 0
  tracecfg : Word := 0
  queue0   : List Word := List.replicate 8 0
  scope    : List Nat := []          -- chips of the reset-scope map
  grants   : List Nat := []          -- die-scratchpad slices granted
  caps     : AMap Nat := []          -- governor CAP by local node; 16 where not listed
  inj      : AMap Nat := []          -- injection caps: 2 × local node + plane
  chips    : List Nat := []          -- chip list
  keyed    : Bool := false
  deriving DecidableEq, Repr

/-- A bank's trackers and side queue (R454). -/
structure Bank where
  counts : List ((Nat × Nat) × Nat) := []     -- (row, VDID) activations
  events : AMap Nat := []                     -- events by VDID
  row    : Option (Nat × Nat) := none         -- open row and who opened it
  parked : List (Nat × Nat) := []             -- VDID, end cycle
  side   : List Nat := []                     -- packets parked
  deriving DecidableEq, Repr

/-- The state of an SPDM session (R457). -/
structure Spdm where
  version  : Bool := false
  caps     : Bool := false
  algs     : Bool := false
  keyex    : Bool := false
  session  : Bool := false
  accepted : Bool := false           -- the verifier accepted measurements 1 to 5
  deriving DecidableEq, Repr

/-- A message of the belay network (R474). -/
structure Belay where
  id : Nat
  w0 : Word
  w1 : Word
  deriving DecidableEq, Repr

/-- An HBM4 pseudo-channel's repair state (R460). -/
inductive PcState where
  | good | copying | remapped | failed
  deriving DecidableEq, Repr

/-- A walker's report of a malformed entry (R26). -/
structure Report where
  vd    : Nat
  stage : Nat
  level : Nat
  input : Nat                        -- the address the stage was translating
  deriving DecidableEq, Repr

/-- A package (R78, R466 to R483). -/
structure Chip where
  power    : Power := .standby
  flash    : List Image := [⟨0, true, true, 0⟩, ⟨0, false, false, 0⟩]   -- slots A and B
  rollback : Nat := 0
  version  : Nat := 0                -- running firmware, and its digest, which is measurement 1 (R480)
  digest   : Nat := 0
  hbmGiB   : List Nat := List.replicate 8 59        -- populated extents, in whole GiB within R4's capacities (R16)
  expGiB   : List Nat := List.replicate 8 715
  modCap   : Nat := 3200
  throttled : Bool := false
  coolant  : Bool := false
  coolantReports : Nat := 0          -- coolant trips reported to the host (R483)
  sups     : List Bool := List.replicate 16 true    -- supervisor cores in service (R442)
  duty     : List Nat := [0, 1, 4, 5, 8, 9, 12, 13]   -- the two of each die that run the firmware (R480)
  lead     : Nat := 0
  supCause : Option Nat := none      -- the cause that the last write of a supervisor core raised there (R465)
  blocks   : AMap Block := [(10 * 1024, .free)]     -- level × 1,024 + first node
  partq    : List Word := []
  partRef  : Bool := false
  partDone : Nat := 0
  s2inv    : List Nat := []          -- invalidations in progress
  table    : AMap Word := []         -- routing table: PREF and MASK by chip
  shadow   : AMap Word := []
  lag      : Option (Nat × Nat × AMap Word) := none   -- the last swap: its cycle, the free value from which each router's own
                                     -- delay comes, and the table that a router keeps until then (R102, R103)
  swaps    : Nat := 0
  evbase   : Word := 0
  evhead   : Word := 0
  evtail   : Word := 0
  evlost   : Word := 0
  reports  : List Report := []       -- malformed entries reported to the hypervisor (R26)
  groups   : AMap (List Word) := []  -- group table (R106)
  kept     : AMap (List Word) := []  -- entries that multicasts in flight still use (R107)
  stage    : AMap (List Word) := []  -- words 1 to 7 written and not in effect before word 0 is (R465)
  capLow   : Nat := 16               -- what the supervisors lower CAP to (R483)
  injLow   : Nat := 0                -- and the injection caps; 0: not lowered
  slots    : AMap VdSlot := []
  ports    : AMap Port := []
  banks    : AMap Bank := []
  rhth     : List Nat := List.replicate 8 4000      -- RHTH and tRC of each stack (R454)
  trc      : List Nat := List.replicate 8 50
  pcs      : AMap PcState := []      -- stack × 64 + pseudo-channel
  spare    : List Nat := []          -- stacks whose spare pseudo-channel is used
  repairs  : Nat := 0                -- generation count of measurement 3
  budget   : AMap Nat := []          -- VDID × 16 + stack: lines in a window of 4,096 cycles, and the window's number (R453)
  budgetWin : Nat := 0
  frames   : AMap Nat := []          -- owner of each 64 KiB frame (R456)
  keys     : List Nat := []          -- VDIDs with an installed key
  spdm     : Spdm := {}
  belay    : List Belay := []
  softErrs : Nat := 0
  deriving DecidableEq, Repr

/-- A launch that has started and not completed (R242). -/
structure Launch where
  id     : Nat
  queue  : Nat
  idx    : Nat                       -- record number in its queue
  words  : List Word
  next   : AMap Nat                  -- next tile of each core that has begun
  fault  : Option (List Word)        -- first fault record (R439), and the cycle of its report (R438)
  faultAt : Nat := 0
  count  : Nat                       -- faults reported
  halted : Bool                      -- a fault under the main launch rule: no further entry starts (R249)
  deriving DecidableEq, Repr

/-- A launch queue's counters (R238); word 0 stands in the slot. -/
structure Queue where
  tail : Nat := 0
  head : Nat := 0
  next : Nat := 0
  done : List Nat := []              -- record numbers completed at or above HEAD
  ids  : AMap Nat := []              -- launch IDs of the records at or above HEAD
  read : Option (List Word) := none  -- the record at NEXT, once the launch unit has read it (R242)
  deriving DecidableEq, Repr

/-- The header of a transport message (R476), and the Ethernet port by which the request came and its answer leaves (R475): 0 on
die 0, 1 on die 2 (R1). -/
structure Header where
  conn : Nat
  seq  : Nat
  vd   : Nat
  op   : Nat
  addr : Nat
  port : Nat
  deriving DecidableEq, Repr

/-- An enqueue that waits for the page service (R241): its sender, a level's LNCH with its register and collector or a host
request, the queue and the record. -/
structure Enqueue where
  core  : Nat
  lev   : Nat
  act   : Nat
  rd    : Nat
  id    : Nat
  host  : Option Header
  queue : Nat
  words : List Word
  deriving DecidableEq, Repr

/-- A group (R225). -/
structure Group where
  members : List (Nat × Nat) := []   -- (core of the virtual device, level)
  arrived : List (Nat × Nat) := []
  joiners : List (Nat × Nat) := []
  waiting : List (Nat × Nat) := []   -- joiners that wait at GBAR
  leavers : List (Nat × Nat) := []   -- members that leave when the barrier completes (R228)
  owner   : List ((Nat × Nat) × Nat) := []   -- launch whose activation made the membership
  deriving DecidableEq, Repr

/-- Residency (R461). -/
inductive Residency where
  | run | entering | bivouac | waking
  deriving DecidableEq, Repr

/-- A virtual device (R451, R452). -/
structure VDev where
  chips    : List Nat                -- chip list
  slot     : AMap Nat                -- its slot on each chip
  base     : AMap Nat                -- first node of its block on each chip
  plog     : Nat
  wake     : Nat
  floor    : Nat
  limit    : Nat
  savebase : Nat
  wakeAddr : Nat
  budget   : Nat
  qlog     : Nat
  s1       : Word := 0               -- S1BASE and S2BASE in effect (R24)
  s2       : Word := 0
  classes  : AMap (List Word) := []  -- class table (R176)
  queues   : List Queue := List.replicate 8 {}
  nextId   : Nat := 1
  lwmark   : Nat := 1
  launches : List Launch := []
  doneIds  : List Nat := []          -- completed IDs at or above LWMARK
  groups   : AMap Group := []
  res      : Residency := .run
  running  : Bool := false
  since    : Nat := 0                -- cycle its quantum began (R254)
  step     : Nat := 0                -- pre-emption step under way (R255); 0 none
  forBiv   : Bool := false           -- the steps are those of bivouac
  reset    : Nat := 0                -- reset step under way (R446)
  dying    : Bool := false           -- the reset is that of a DESTROY (R449)
  drainEnd : Nat := 0
  drainMark : Nat := 0               -- number of the first packet sent after the reset began (R446)
  aborts   : List (Nat × Nat) := []  -- group aborts that step 4 of the reset sends: core of the virtual device, group (R447)
  scope    : List Nat := []
  frozen   : List (Nat × Nat) := []  -- core key, master
  saved    : AMap Core := []         -- the context a pre-emption saves (R445), by active core of the virtual device
  cairnSaved : List (Nat × List CairnEntry × CairnVd) := []   -- and of each cairn store, by cluster of it (R200)
  scratch  : List (Nat × Byte) := [] -- saved scratchpads and slices
  words    : List (Nat × Nat) := []  -- of them: the words with a full bit (0) or an error (1 correctable, 2 not)
  budgets  : AMap Nat := []          -- saved BUDGET by cluster
  reasms   : List (Nat × Reasm) := []   -- saved reassemblies by cluster (R101)
  sweep    : Option Nat := none      -- activity sum of the last quiet sweep
  created  : List Nat := []          -- chips on which CREATE has been done
  ran      : Bool := false           -- it has run since its creation
  lost     : List Nat := []          -- active cores retired by a Lost repair
  enqueueWait : List Enqueue := []
  failing  : List (Nat × Nat × Nat) := []    -- records that failed their check, whose completion waits on a page: queue,
                                     -- record number, ID (R241, R243)
  deriving DecidableEq, Repr

/-- A TLB invalidation in progress (R39, R42). -/
structure Inval where
  id    : Nat
  vd    : Nat                        -- 0: every virtual device of the chip
  page  : Option (Nat × Bool)        -- address; true for an IPA
  left  : List (Nat × Option (List (Nat × Nat)))   -- clusters still to acknowledge; once its entries are dropped, the
                                     -- (core, operation) pairs whose accesses must perform first
  core  : Option (Nat × Nat)         -- issuing core key and level
  chip  : Nat
  deriving DecidableEq, Repr

/-- Who waits for a walk (R33). -/
inductive Walker where
  | level (core lev act : Nat)       -- with the activation's count
  | copyUnit (node : Nat) (core : Nat)
  | cairn (node vd key : Nat)        -- a store's ring: for the post of a packet, or 0 for a refill
  | launch (vd key : Nat)            -- the launch unit, by the enqueue, queue or launch it acts for
  | landing (node pkt : Nat)         -- the copy unit of a node, for a multicast landing (R109)
  | host (conn : Nat)
  | dispatch (core ty : Nat)
  deriving DecidableEq, Repr

/-- A walk in flight or waiting for the page service (R33, R34). -/
structure Walk where
  id    : Nat
  vd    : Nat
  page  : Nat                        -- virtual address bits [55:16]
  who   : List Walker
  asked : Option (Nat × Nat × Nat)   -- waits on the page service: stage, page and the level of the entry met
  deriving DecidableEq, Repr

/-- A cached table entry (R33). -/
structure WalkEntry where
  vd    : Nat
  addr  : Nat                        -- physical address of the entry
  val   : Word
  deriving DecidableEq, Repr

/-- A waiting access of a retry list (R70). -/
structure Waiter where
  owner : UnitId
  acc   : Acc
  op    : Nat
  order : Nat
  deriving DecidableEq, Repr

/-- What an uncleared or unwritten-back line holds in the media (R62, R74). -/
structure MediaLine where
  line : Nat
  data : List Byte
  fe   : List Nat
  deriving DecidableEq, Repr

/-- An answer to the host: the header of its request, its number among the answers of the connection, and what it carries (R475 to
R478). -/
structure Answer where
  head   : Header
  out    : Nat
  status : Nat
  data   : List Word
  bytes  : List Byte
  deriving DecidableEq, Repr

/-- A connection of the host with a package: its VDID, the next sequence number of its requests, and of its answers (R475). -/
structure Conn where
  conn : Nat
  chip : Nat
  vd   : Nat
  next : Nat
  sent : Nat
  deriving DecidableEq, Repr

/-- A host request being worked on, such as one whose translation waits for the page service. -/
structure HostReq where
  head  : Header
  chip  : Nat
  addr  : Nat                        -- of its next access
  bytes : List Byte                  -- still to be written, or read so far
  left  : Nat                        -- bytes still to be read
  deriving DecidableEq, Repr

/-- A turn of one agent: a core issues, an event happens, or a cycle passes. -/
inductive Turn where
  | issue (chip node slot : Nat)
  | event (i : Instr) (a : Arg)
  | cycle
  deriving DecidableEq, Repr

/-- The issuing level an encoded instruction acts for. -/
structure Issuer where
  chip : Nat := 0
  node : Nat := 0
  slot : Nat := 0
  lev  : Level := 0
  deriving DecidableEq, Repr

/-- The state of the whole device. -/
structure State where
  now     : Nat := 0                 -- the cycle of the one clock (R3)
  agenda  : List Turn := []          -- the turns that come next; empty: the scheduler of `Step` picks one
  cur     : Issuer := {}
  arg     : Arg := {}
  free    : Nat := 0                 -- the model's own: the next free value (log entry 3)
  nextId  : Nat := 16                -- numbers of operations, packets, ropes; 0 to 3 are the levels' rp0
  mem     : Memory := []             -- bytes by physical address
  fe      : List Nat := []           -- words whose full/empty bit is full, by address
  bad     : List (Nat × Bool) := []  -- words with a bit error; true: uncorrectable (R65)
  media   : List MediaLine := []     -- lines written in L2 and not written back (R62)
  l2      : List Nat := []           -- lines that the L2 slices hold (R43)
  olds    : List OldWord := []       -- scratchpad words as queued matrix commands may still see them (R415)
  clear   : List Nat := []           -- lines whose clearing-map bit is set (R75)
  touched : List Nat := []           -- lines whose bit, set at the boot (R481), is no longer
  retry   : List Waiter := []
  pkts    : List Packet := []
  flits   : List Flit := []
  walks   : List Walk := []
  told    : List (Walker × Nat × Xlate) := []   -- decided pages that the device's own accesses have still to take up
  wcache  : List WalkEntry := []
  invals  : List Inval := []
  cores   : AMap Core := []          -- (chip × 1,024 + node) × 9 + slot
  clus    : AMap Cluster := []       -- chip × 1,024 + node
  chips   : AMap Chip := []
  vds     : AMap VDev := []
  conns   : List Conn := []
  hostQ   : List HostReq := []
  answers : List Answer := []
  deriving DecidableEq, Repr

/-- The device right after reset: booted, every package resting in STANDBY (R482), every table empty. -/
def State.reset : State := {}

end Sys2Proof.Machine
end

