-- ==== Sys2Proof/Machine/Ops.lean ====
section
/-! DEFINITION. The named operations over the state: finding and changing a core, a level, a register; the register rack;
free values; the event ring; groups; taking a cause (`raiseAt`), faults (R438 to R443), the end of an activation (R215)
and the return from a trap (`trapReturn`, R436). -/

namespace Sys2Proof.Machine

/-! ### Finding units -/

/-- The number of a physical core (R83). -/
def coreKey (chip node slot : Nat) : Nat := (chip * 1024 + node) * 9 + slot
/-- The number of a cluster, its global source number (R82). -/
def nodeKey (chip node : Nat) : Nat := chip * 1024 + node
/-- The chip of a core number. -/
def keyChip (k : Nat) : Nat := k / 9 / 1024
/-- The node of a core number. -/
def keyNode (k : Nat) : Nat := k / 9 % 1024
/-- The cluster number of a core number. -/
def keyCluster (k : Nat) : Nat := k / 9
/-- The slot of a core number. -/
def keySlot (k : Nat) : Nat := k % 9
/-- A level from its number. -/
def lvOf (n : Nat) : Level := ⟨n % 4, Nat.mod_lt n (by decide)⟩

/-- The die of a node (R78). -/
def nodeDie (n : Nat) : Nat := (n / 32 / 16) * 2 + (n % 32) / 16
/-- The cluster-in-die of a node (R78). -/
def nodeInDie (n : Nat) : Nat := (n / 32 % 16) * 16 + n % 32 % 16
/-- The node of a cluster of a die (R78). -/
def dieNode (d c : Nat) : Nat := 32 * ((d / 2) * 16 + c / 16) + (d % 2) * 16 + c % 16

/-- A core. -/
def State.core (s : State) (k : Nat) : Core := AMap.get s.cores {} k
/-- The state with a core replaced. -/
def State.setCore (s : State) (k : Nat) (c : Core) : State := { s with cores := AMap.put s.cores k c }
/-- The state with a core changed. -/
def State.updCore (s : State) (k : Nat) (f : Core → Core) : State := s.setCore k (f (s.core k))
/-- A cluster. -/
def State.clu (s : State) (k : Nat) : Cluster := AMap.get s.clus {} k
/-- The state with a cluster changed. -/
def State.updClu (s : State) (k : Nat) (f : Cluster → Cluster) : State :=
  { s with clus := AMap.put s.clus k (f (s.clu k)) }
/-- A package. -/
def State.chip (s : State) (c : Nat) : Chip := AMap.get s.chips {} c
/-- The state with a package changed. -/
def State.updChip (s : State) (c : Nat) (f : Chip → Chip) : State :=
  { s with chips := AMap.put s.chips c (f (s.chip c)) }
/-- A virtual device, if it exists. -/
def State.vdev? (s : State) (v : Nat) : Option VDev := AMap.find? s.vds v
/-- The state with a virtual device changed, if it exists. -/
def State.updVd (s : State) (v : Nat) (f : VDev → VDev) : State :=
  match s.vdev? v with
  | some d => { s with vds := AMap.put s.vds v (f d) }
  | none => s

/-- A level of a core. -/
def Core.lvl (c : Core) (l : Level) : Lvl := c.lv.get l
/-- The core with a level replaced. -/
def Core.setLvl (c : Core) (l : Level) (x : Lvl) : Core := { c with lv := c.lv.set l.val x l.isLt }
/-- The levels of a core, L0 first. -/
def Core.levels (c : Core) : List Lvl := [c.lvl 0, c.lvl 1, c.lvl 2, c.lvl 3]
/-- The core with every level changed. -/
def Core.mapLvls (c : Core) (f : Lvl → Lvl) : Core := { c with lv := #v[f (c.lvl 0), f (c.lvl 1), f (c.lvl 2), f (c.lvl 3)] }
/-- A level of the state. -/
def State.lvl (s : State) (k : Nat) (l : Level) : Lvl := (s.core k).lvl l
/-- The state with a level replaced. -/
def State.setLvl (s : State) (k : Nat) (l : Level) (x : Lvl) : State := s.setCore k ((s.core k).setLvl l x)
/-- The state with a level changed. -/
def State.updLvl (s : State) (k : Nat) (l : Level) (f : Lvl → Lvl) : State := s.setLvl k l (f (s.lvl k l))

/-- The issuing core's number. -/
def State.curKey (s : State) : Nat := coreKey s.cur.chip s.cur.node s.cur.slot
/-- The issuing core. -/
def State.curCore (s : State) : Core := s.core s.curKey
/-- The issuing level. -/
def State.curLvl (s : State) : Lvl := s.curCore.lvl s.cur.lev
/-- The state with the issuing core replaced. -/
def State.setCurCore (s : State) (c : Core) : State := s.setCore s.curKey c
/-- The state with the issuing level replaced. -/
def State.setCurLvl (s : State) (l : Lvl) : State := s.setCurCore (s.curCore.setLvl s.cur.lev l)
/-- The virtual device the issuing core runs for (R450). -/
def State.curVd (s : State) : Nat := s.curCore.owner

/-! ### Numbers of the virtual device -/

/-- The position of the first element that equals `a`. -/
def indexOf? (l : List Nat) (a : Nat) : Option Nat := l.findIdx? (· == a)

/-- The active core number of a physical slot (R21). -/
def activeOf (c : Cluster) (slot : Nat) : Option Nat := indexOf? c.map slot
/-- The physical slot of an active core (R21). -/
def slotOf (c : Cluster) (act : Nat) : Nat := c.map.getD act 0

/-- The cluster count of a virtual device (R245). -/
def VDev.clusters (v : VDev) : Nat := v.chips.length * 2 ^ v.plog
/-- VDCORES (R230). -/
def VDev.cores (v : VDev) : Nat := 8 * v.clusters
/-- The chip and node of a virtual-device cluster (R245). -/
def VDev.place (v : VDev) (k : Nat) : Nat × Nat :=
  let chip := v.chips.getD (k / 2 ^ v.plog) 0
  (chip, AMap.get v.base 0 chip + k % 2 ^ v.plog)
/-- The core number of an active core of the virtual device (R230, R245). -/
def State.vdCoreKey (s : State) (v : VDev) (n : Nat) : Nat :=
  let (chip, node) := v.place (n / 8)
  coreKey chip node (slotOf (s.clu (nodeKey chip node)) (n % 8))
/-- The virtual-device cluster of a node, if it is one of them. -/
def VDev.clusterOf (v : VDev) (chip node : Nat) : Option Nat :=
  match indexOf? v.chips chip with
  | some i =>
    let b := AMap.get v.base 0 chip
    if b ≤ node ∧ node < b + 2 ^ v.plog then some (i * 2 ^ v.plog + (node - b)) else none
  | none => none
/-- The VDCORE number of a core (R230); zero for a core outside it. -/
def State.vdCoreOf (s : State) (v : VDev) (k : Nat) : Nat :=
  8 * (v.clusterOf (keyChip k) (keyNode k)).getD 0 + (activeOf (s.clu (keyCluster k)) (keySlot k)).getD 0

/-! ### Free values -/

/-- An undefined 64-bit value, and the state whose next free value is another. -/
def State.freeWord (s : State) : Word × State := (Config.freeWord s.free, { s with free := s.free + 1 })
/-- A choice of the device. -/
def State.freeBool (s : State) : Bool × State := (Config.freeBool s.free, { s with free := s.free + 1 })
/-- A number the device chooses. -/
def State.freeNat (s : State) : Nat × State := (Config.freeNat s.free, { s with free := s.free + 1 })
/-- An undefined vector register. -/
def State.freeVReg (s : State) : VReg × State :=
  (VReg.tab fun i => Config.freeLane (s.free + i), { s with free := s.free + 64 })

/-! ### Registers -/

/-- A scalar register: x0 reads zero (R203). -/
def Lvl.rx (l : Lvl) (r : XReg) : Word := if r = 0 then 0 else l.x.get r.toFin

/-- The level without outstanding results of a register: a later producer supersedes them (R270). -/
def Lvl.forget (l : Lvl) (r : Reg) : Lvl := { l with pend := l.pend.filter fun e => e.reg != r }

/-- A result of latency 1, visible to the next instruction: x0 ignores writes (R203, R267, R306). -/
def Lvl.wx (l : Lvl) (r : XReg) (v : Word) : Lvl :=
  if r = 0 then l else { (l.forget (.x r.toNat)) with x := l.x.set r.toFin.val v r.toFin.isLt }

/-- A result of latency `lam` (R267, R268). -/
def Lvl.wxLat (l : Lvl) (r : XReg) (v : Word) (lam : Nat) : Lvl :=
  if r = 0 then l else { l with pend := l.pend ++ [⟨.x r.toNat, .word v, lam, 0⟩] }

/-- A predicate: p0 reads all ones (R382). -/
def Lvl.rp (l : Lvl) (p : PReg) : Word := if p = 0 then -1 else l.p.get p.toFin
/-- A predicate result; p0 discards it (R381, R382). -/
def Lvl.wp (l : Lvl) (p : PReg) (v : Word) : Lvl :=
  if p = 0 then l else { (l.forget (.p p.toNat)) with p := l.p.set p.toFin.val v p.toFin.isLt }
/-- A predicate result of latency `lam`. -/
def Lvl.wpLat (l : Lvl) (p : PReg) (v : Word) (lam : Nat) : Lvl :=
  if p = 0 then l else { l with pend := l.pend ++ [⟨.p p.toNat, .word v, lam, 0⟩] }

/-- A vector register by its place in the rack. -/
def Core.rv (c : Core) (k : Nat) : VReg := AMap.get c.vreg VReg.zero k
/-- The core with a vector register written. -/
def Core.wv (c : Core) (k : Nat) (v : VReg) : Core := { c with vreg := AMap.put c.vreg k v }

/-- A register's value put in its place. -/
def Core.land (c : Core) (l : Level) (r : Reg) (v : RVal) : Core :=
  match r, v with
  | .x n, .word w =>
    if n % 32 = 0 then c else
      c.setLvl l { c.lvl l with x := (c.lvl l).x.set (n % 32) w (Nat.mod_lt n (by decide)) }
  | .p n, .word w =>
    if n % 8 = 0 then c else
      c.setLvl l { c.lvl l with p := (c.lvl l).p.set (n % 8) w (Nat.mod_lt n (by decide)) }
  | .v n, .vec w => c.wv n w
  | _, _ => c

/-- The results still outstanding once every entry that `due` accepts is visible: an entry goes when it is due, or when a
later result of its register is (R268, R269). -/
def Pend.stay (due : Pend → Bool) : List Pend → List Pend
  | [] => []
  | e :: es => if due e || es.any (fun f => due f && f.reg == e.reg) then Pend.stay due es else e :: Pend.stay due es

/-- Makes the results that `due` accepts visible, oldest first. -/
def Core.commit (c : Core) (l : Level) (due : Pend → Bool) : Core :=
  let ps := (c.lvl l).pend
  let c' := (ps.filter due).foldl (fun c e => c.land l e.reg e.val) c
  c'.setLvl l { c'.lvl l with pend := Pend.stay due ps }

/-- Adds an instruction's 1 + S to the credit of every outstanding result, and makes those with their latency reached
visible (R268). -/
def Core.credit (c : Core) (l : Level) (n : Nat) : Core :=
  let x := c.lvl l
  let c := c.setLvl l { x with pend := x.pend.map fun e => { e with credit := e.credit + n } }
  c.commit l fun e => decide (e.lam ≤ e.credit)

/-- Makes every outstanding result visible, as a trap or fault does first (R269, R435). -/
def Core.commitAll (c : Core) (l : Level) : Core := c.commit l fun _ => true

/-! ### The register rack -/

/-- The floor of a level in sets (R233). -/
def Core.floorOf (c : Core) (l : Level) : Nat := fld c.floor.toNat (4 * l.val) 4
/-- The sum of the floors. -/
def Core.floors (c : Core) : Nat := c.floorOf 0 + c.floorOf 1 + c.floorOf 2 + c.floorOf 3
/-- The sets a level has borrowed. -/
def Core.borrowed (c : Core) (l : Level) : Nat := (c.lvl l).held.length - c.floorOf l
/-- FREE: the pool's sets not lent (R234). -/
def Core.rackFree (c : Core) : Nat :=
  8 - c.floors - (c.borrowed 0 + c.borrowed 1 + c.borrowed 2 + c.borrowed 3)
/-- The first set of a level's floor: floors take the sets in level order. -/
def Core.floorBase (c : Core) (l : Level) : Nat :=
  match l.val with
  | 0 => 0
  | 1 => c.floorOf 0
  | 2 => c.floorOf 0 + c.floorOf 1
  | _ => c.floorOf 0 + c.floorOf 1 + c.floorOf 2
/-- The sets of a level's floor. -/
def Core.floorSets (c : Core) (l : Level) : List Nat := tab (c.floorOf l) fun i => c.floorBase l + i
/-- The pool sets that no level holds, lowest first. -/
def Core.poolSets (c : Core) : List Nat :=
  (tab (8 - c.floors) fun i => c.floors + i).filter fun k =>
    !((c.lvl 0).held.contains k || (c.lvl 1).held.contains k || (c.lvl 2).held.contains k || (c.lvl 3).held.contains k)

/-- The name a vector field reaches after rotation, 0 to 63 (R323, R374). -/
def Lvl.rotate (l : Lvl) (n : Nat) : Nat :=
  if fld l.rbase.toNat 8 1 = 1 ∧ 32 ≤ n then 32 + (n + 32 - fld l.rbase.toNat 0 5) % 32 else n

/-- The place in the rack of a vector name, or none when the level's sets do not reach it (R232, R374). -/
def Lvl.place (l : Lvl) (n : Nat) : Option Nat :=
  if fld l.rbase.toNat 8 1 = 1 ∧ 32 ≤ n ∧ l.held.length < 4 then none
  else
    let m := l.rotate n
    (l.held[m / 16]?).map fun set => set * 16 + m % 16

/-! ### The program counter -/

/-- The issuing level moved past a word of `n` bytes, any ROPE prefix used up. -/
def Lvl.step (l : Lvl) (n : Nat) : Lvl := { l with pc := l.pc + BitVec.ofNat 64 n, pfx := none }
/-- The issuing level at another address. -/
def Lvl.goto (l : Lvl) (a : Word) : Lvl := { l with pc := a, pfx := none }
/-- The instruction did not issue: it is tried again from its first parcel. -/
def Lvl.retryNow (l : Lvl) : Lvl := { l with pc := l.ipc, pfx := none, again := true }
/-- The state in which the instruction is tried again in a later cycle. -/
def State.replay (s : State) : State := s.setCurLvl s.curLvl.retryNow
/-- The state in which the level waits, and the instruction then issues again. -/
def State.replayWait (s : State) (w : Wait) : State := s.setCurLvl { s.curLvl.retryNow with wait := w }

/-- The launch ID of the issuing activation; 0 without one (R216). -/
def Lvl.launch (l : Lvl) : Nat := (l.act.map Act.launch).getD 0

/-- Whether the level runs inbox code at present (R218). -/
def Lvl.inInbox (l : Lvl) : Bool := (l.act.map Act.inbox).getD false

/-- Whether an activation count is that of the activation that runs at a level. -/
def Lvl.isAct (l : Lvl) (act : Nat) : Bool := l.acts == act && l.act.isSome

/-! ### Causes (R432) -/

namespace Cause
def illegal : Nat := 0x01
def stallShort : Nat := 0x02
def misalign : Nat := 0x03
def access : Nat := 0x04
def fmtBad : Nat := 0x05
def ptrOvf : Nat := 0x06
def xlateDeny : Nat := 0x07
def feTimeout : Nat := 0x08
def ropeExh : Nat := 0x09
def rackHold : Nat := 0x0A
def rackBig : Nat := 0x0B
def inlineDeep : Nat := 0x0C
def watchdog : Nat := 0x0D
def eccUncorr : Nat := 0x0E
def violation : Nat := 0x0F
def user : Nat := 0x10
def groupAbort : Nat := 0x11
def evNackStrict : Nat := 0x12
end Cause

/-- The causes that can reach a handler (R432). -/
def trappable (cause : Nat) : Bool :=
  cause == Cause.stallShort || cause == Cause.misalign || cause == Cause.fmtBad || cause == Cause.ptrOvf ||
    cause == Cause.user

/-! ### The hypervisor's event ring (R471) and the belay network (R473) -/

/-- Writes words at a physical address, little-endian. -/
def State.pokeWords (s : State) (pa : Nat) (ws : List Word) : State :=
  { s with mem := s.mem.writeBytes pa ((ws.map fun w => leBytes 8 w.toNat).flatten) }

/-- Appends an entry to a chip's event ring, or counts it in EVLOST (R471). A ring whose size code is outside 6 to 16
keeps nothing (log entry 12). -/
def State.ringEntry (s : State) (chip ty vd : Nat) (body : List Word) : State :=
  let c := s.chip chip
  let log := fld c.evbase.toNat 0 5
  let lost := { c with evlost := if c.evlost = -1 then c.evlost else c.evlost + 1 }
  if log < 6 ∨ 16 < log ∨ 2 ^ log ≤ (c.evtail - c.evhead).toNat then s.updChip chip fun _ => lost
  else
    let base := chip * 2 ^ 47 + fld c.evbase.toNat 12 35 * 4096
    let w0 := BitVec.ofNat 64 (ty * 2 ^ 56 + vd * 2 ^ 40 + chip * 2 ^ 31)
    let ws := tab 8 fun i => if i = 0 then w0 else body.getD (i - 1) 0
    (s.pokeWords (base + 64 * (c.evtail.toNat % 2 ^ log)) ws).updChip chip fun c => { c with evtail := c.evtail + 1 }

/-- An EVENT sent over the belay network to the lead supervisor (R474). -/
def State.belayEvent (s : State) (chip die stop code : Nat) (data : Word) : State :=
  let lead := (s.chip chip).lead
  let w0 := 3 * 2 ^ 60 + die * 2 ^ 58 + stop * 2 ^ 49 + (lead / 4) * 2 ^ 47 + (256 + lead % 4) * 2 ^ 38 + code * 2 ^ 32
  { (s.updChip chip fun c => { c with belay := c.belay ++ [⟨s.nextId, BitVec.ofNat 64 w0, data⟩] }) with
    nextId := s.nextId + 1 }

/-- The physical window of a core (R15). -/
def windowOf (k : Nat) : Nat := nodeDie (keyNode k) * 2304 + nodeInDie (keyNode k) * 9 + keySlot k

/-! ### Groups (R225 to R228) -/

/-- The state with a level's wait for a barrier ended and the status in its destination register (R226). -/
def State.gbarResume (s : State) (v : VDev) (status : Word) (m : Nat × Nat) : State :=
  let k := s.vdCoreKey v m.1
  let l := lvOf m.2
  let x := s.lvl k l
  match x.wait with
  | .gbar _ rd =>
    let c := (s.core k).setLvl l { x with wait := .ready, ilock := x.ilock.filter fun e => e.1 != .x rd }
    let c := c.land l (.x rd) (.word status)
    -- completion is an acquire at scope .y: L1 is emptied (R141, R59)
    s.setCore k { c with l1 := [], epoch := c.epoch + 1 }
  | _ => s

/-- The group once its barrier has completed: no one has arrived, the joiners are members, leavers have gone, and the
joiners that wait at GBAR have arrived at the next barrier (R226, R228). -/
def Group.completed (g : Group) : Group :=
  let members := (g.members ++ g.joiners).filter fun m => !g.leavers.contains m
  { g with members := members, joiners := [], leavers := [], arrived := g.waiting, waiting := [] }

/-- The state with a group replaced. -/
def State.setGroup (s : State) (vd g : Nat) (grp : Group) : State :=
  s.updVd vd fun v => { v with groups := AMap.put v.groups g grp }

/-- Completes barriers while every member has arrived (R226, R227). The fuel is the number of members, since each
completion resumes at least one of them. -/
def State.barrierFuel : Nat → State → Nat → Nat → Word → State
  | 0, s, _, _, _ => s
  | n + 1, s, vd, g, status =>
    match s.vdev? vd with
    | none => s
    | some v =>
      let grp := AMap.get v.groups {} g
      if grp.arrived ≠ [] ∧ grp.arrived.length = grp.members.length then
        let s := grp.arrived.foldl (fun s m => s.gbarResume v status m) s
        let s := s.setGroup vd g grp.completed
        State.barrierFuel n s vd g 0
      else s

/-- Completes the barrier of a group if its last member has arrived (R226). -/
def State.barrier (s : State) (vd g : Nat) : State :=
  let n := match s.vdev? vd with
    | some v => (AMap.get v.groups {} g).members.length + (AMap.get v.groups {} g).joiners.length + 1
    | none => 0
  State.barrierFuel n s vd g 0

/-- GLEAVE of a pair (R226). With `deferred`, a member that has arrived leaves when the barrier completes (R228). -/
def State.gleave (s : State) (vd g : Nat) (m : Nat × Nat) (deferred : Bool) : State :=
  match s.vdev? vd with
  | none => s
  | some v =>
    let grp := AMap.get v.groups {} g
    if grp.joiners.contains m then
      s.setGroup vd g { grp with joiners := grp.joiners.filter (· != m), waiting := grp.waiting.filter (· != m) }
    else if grp.members.contains m then
      if grp.arrived.contains m then
        if deferred then
          s.setGroup vd g { grp with leavers := grp.leavers ++ [m] }
        else s
      else
        (s.setGroup vd g { grp with members := grp.members.filter (· != m) }).barrier vd g
    else s

/-- An arrival withdrawn because its member's watchdog expired: it stays a member, and a GLEAVE of it that waits for the
barrier goes on waiting (R227, R228, log entry 94). -/
def State.gwithdraw (s : State) (vd g : Nat) (m : Nat × Nat) : State :=
  match s.vdev? vd with
  | none => s
  | some v =>
    let grp := AMap.get v.groups {} g
    if grp.joiners.contains m then
      s.setGroup vd g { grp with waiting := grp.waiting.filter (· != m) }
    else
      let arrived := grp.arrived.filter (· != m)
      if arrived = [] then
        -- no barrier is in progress any more: the pending joiners become members, and those that wait arrive
        (s.setGroup vd g { grp with members := grp.members ++ grp.joiners, joiners := [], arrived := grp.waiting,
                                    waiting := [] }).barrier vd g
      else s.setGroup vd g { grp with arrived := arrived }

/-- A pair leaves every group of its virtual device (R228, R440). -/
def State.leaveAll (s : State) (vd : Nat) (m : Nat × Nat) : State :=
  match s.vdev? vd with
  | none => s
  | some v => v.groups.foldl (fun s g => s.gleave vd g.1 m true) s

/-- The memberships that activations of a launch made end with it, each as a GLEAVE (R228). -/
def State.leaveLaunch (s : State) (vd id : Nat) : State :=
  match s.vdev? vd with
  | none => s
  | some v => v.groups.foldl (fun s (g : Nat × Group) =>
    (g.2.owner.filter fun (o : (Nat × Nat) × Nat) => o.2 == id).foldl (fun s o => s.gleave vd g.1 o.1 true) s) s

/-! ### Ending an activation (R215) -/

/-- A claimed event that never started goes back to its home store as a post (R202, R249). -/
def State.returnPost (s : State) (k : Nat) (p : Post) : State :=
  let chip := keyChip k
  let node := keyNode k
  { s with nextId := s.nextId + 1,
           pkts := s.pkts ++ [⟨s.nextId, ⟨chip, node, keySlot k⟩, ⟨chip, node, 12⟩, (s.core k).owner, .control, 0,
             .post p 0, .arrived, 0, 0, 0⟩] }

/-- Drops every rope of a level except rp0 (R126). -/
def Core.dropRopes (c : Core) (l : Level) : Core :=
  let x := c.lvl l
  let names := x.rope
  let c := { c with ropes := c.ropes.map fun (r : Nat × Rope) =>
    if (names.drop 1).contains (some r.1) then (r.1, { r.2 with dropped := true }) else r }
  c.setLvl l { x with rope := names.take 1 ++ List.replicate 15 none }

/-- The private ropes of a level's streams are dropped, and the streams closed without waiting (R393). -/
def Core.closeStreams (c : Core) (l : Level) : Core :=
  let x := c.lvl l
  let mine := x.streams.filterMap fun st => st.map Stream.rope
  let c := { c with ropes := c.ropes.map fun (r : Nat × Rope) => if mine.contains r.1 then (r.1, { r.2 with dropped := true }) else r }
  c.setLvl l { x with streams := [none, none, none, none] }

/-- The end of an activation at a level: borrowed sets returned, ropes dropped, streams closed, pending load results
discarded, follower mode ended, the slot and its inbox buffer freed (R215, R393). -/
def Core.endAct (c : Core) (l : Level) : Core :=
  let c := (c.dropRopes l).closeStreams l
  let x := c.lvl l
  let slot := (x.act.map Act.slot).getD 99
  let evs := match x.act with
    | some a => if 0x10 ≤ a.ty ∧ a.ty ≤ 0x1F then 1 else 0
    | none => 0
  let c := { c with slots := c.slots.mapIdx (fun i sl => if i = slot then {} else sl),
                    takes := c.takes.filter (fun t => t.1 != l.val),
                    colls := c.colls.filter (fun k => k.lev != l.val || k.issues),
                    evActs := c.evActs + evs }
  c.setLvl l { c.lvl l with held := x.held.take (c.floorOf l), ilock := [], wait := .ready, follow := none, act := none,
                            pfx := none, again := false, waited := 0, trap := none, xl := [], dropped := x.acts }

/-! ### Faults (R438 to R443) -/

/-- A fault record's word 0 (R439). -/
def faultWord0 (k lev src unit cause : Nat) (late : Bool) : Word :=
  BitVec.ofNat 64 (keyChip k * 2 ^ 55 + keyNode k * 2 ^ 45 + unit * 2 ^ 41 + lev * 2 ^ 39 + src * 2 ^ 11 +
    (if late then 0x400 else 0) + lev * 2 ^ 8 + cause)

/-- Whether a slot's message type is discarded when its launch has faulted (R249). -/
def discardsOnFault (ty : Nat) : Bool := ty == 0 || ty == 1 || ty == 2 || decide (0x20 ≤ ty)

/-- A message waiting to be re-sent (R353). -/
def Op.resending (o : Op) : Bool :=
  match o.work, o.st with
  | .message _ _, .backoff _ => true
  | _, _ => false

/-- A type a cairn claim makes (R187). -/
def isEventType (ty : Nat) : Bool := decide (0x10 ≤ ty) && decide (ty ≤ 0x1F)

/-- The core after its virtual device's launch `id` has faulted: pending slots of the launch are discarded by type, and a
message still being re-sent is dropped (R249, R353). The tag of a reply so dropped stays busy (R357; DEDUCED, log entry 142). -/
def Core.dropLaunch (c : Core) (id : Nat) : Core :=
  { c with slots := c.slots.map (fun sl =>
             if (sl.st == .pending || sl.st == .reserved) && sl.msg.launch == id &&
               (discardsOnFault sl.msg.ty || isEventType sl.msg.ty) then {} else sl),
           tagPend := c.tagPend.filter (fun t => t.2.1.launch != id),
           ops := c.ops.filter (fun o => !(o.launch == id && o.resending)) }

/-- The posts behind a core's claimed events of a launch that have not started (R202, R249). -/
def Core.claimed (c : Core) (id : Option Nat) : List Post :=
  c.slots.filterMap fun sl =>
    if (sl.st == .pending || sl.st == .reserved) && isEventType sl.msg.ty && (id.isNone || id == some sl.msg.launch)
    then sl.post else none

/-- Whether a launch runs in isolated-core mode (R229, R440). -/
def VDev.iso (v : VDev) (launch : Nat) : Bool :=
  v.launches.any fun j => j.id == launch && fld (j.words.getD 4 0).toNat 21 1 == 1

/-- The place of a fault record in the order of the reports of one cycle: global source number, core slot, level (R438). -/
def recordOrder (r : List Word) : Nat := (r.headD 0).toNat / 2 ^ 39

/-- A launch once a fault's report has reached its launch unit: the first is recorded, the reports of one cycle in their order
(R438). -/
def Launch.record (j : Launch) (r : List Word) (now : Nat) : Launch :=
  match j.fault with
  | none => { j with fault := some r, faultAt := now }
  | some f => if j.faultAt = now ∧ recordOrder r < recordOrder f then { j with fault := some r } else j

/-- Reports a fault to the launch unit: the first one is recorded and all are counted (R438). Under the main launch rule, that
of a launch outside isolated-core mode and of every VIOLATION (R443), no further entry starts and the pending slots of the
launch are dealt with by type (R249), but for those of a frozen core, which stay as they were (R443). A fault of no launch goes to
the hypervisor. -/
def State.report (s : State) (vd launch : Nat) (record : List Word) : State :=
  match s.vdev? vd with
  | none => s
  | some v =>
    if v.launches.any (fun j => j.id == launch) && launch != 0 then
      let main := !v.iso launch || fld (record.getD 0 0).toNat 0 8 == Cause.violation
      let s := s.updVd vd fun v => { v with launches := v.launches.map fun j =>
        if j.id = launch then { j.record record s.now with count := min (j.count + 1) 0x7FFF, halted := j.halted || main } else j }
      s.cores.foldl (fun s kc =>
        if main ∧ kc.2.owner = vd ∧ kc.2.run ≠ .frozen then
          let posts := kc.2.claimed (some launch)
          let s := s.updCore kc.1 fun c => c.dropLaunch launch
          posts.foldl (fun s p => s.returnPost kc.1 p) s
        else s) s
    else s.ringEntry (v.chips.getD 0 0) 0x02 vd (0 :: record)

/-- The tile counts GX, GY, GZ of a launch record (R230). -/
def gridOf (w : List Word) : Nat × Nat × Nat :=
  let f := fun i lo n => fld (w.getD i 0).toNat lo n
  let up := fun (d t : Nat) => (d + t - 1) / t
  (up (f 2 0 32) (f 3 32 16), up (f 2 32 32) (f 3 48 16), up (f 3 0 32) (f 4 0 16))

/-- The number of tiles of a launch record, G of R230. -/
def tilesOf (w : List Word) : Nat :=
  let g := gridOf w
  g.1 * g.2.1 * g.2.2

/-- The mark of a core that receives no further entry of a launch. -/
def noEntry : Nat := 2 ^ 200

/-- Whether an entry of the launch still waits for core `n` of the virtual device: its next tile, or its one entry with
zero extents (R230). -/
def Launch.entryLeft (j : Launch) (n : Nat) : Bool :=
  match AMap.find? j.next n with
  | none => true
  | some t => decide (t < tilesOf j.words)

/-- The launches that lose an activation when a core stops: those of its slots, levels and pending replies, and those of the AREADs
whose reply will start nothing (R440). -/
def Core.losing (c : Core) : List Nat :=
  ((c.slots.filter fun sl => sl.st != .free).map fun sl => sl.msg.launch) ++
    ([0, 1, 2, 3].filterMap fun i => ((c.lvl (lvOf i)).act.map Act.launch)) ++ (c.tagPend.map fun t => t.2.1.launch) ++
    c.ops.filterMap fun o => match o.work with
      | .aread _ _ _ _ _ => some o.launch
      | _ => none

/-- An isolated-core stop: every level's activation ends as by a fault, pending slots are discarded, claimed events go
back as posts, entries that wait for the core are discarded, and the pairs leave their groups (R228, R440). -/
def State.isoStop (s : State) (k : Nat) (record : List Word) (cause : Nat) : State :=
  let c := s.core k
  let vd := c.owner
  match s.vdev? vd with
  | none => s
  | some v =>
    let n := s.vdCoreOf v k
    let hit := c.losing
    let posts := c.claimed none
    let s := s.updCore k fun c =>
      let c := (((c.endAct 0).endAct 1).endAct 2).endAct 3
      { c with run := .stopped, slots := List.replicate 16 {}, tagPend := [] }
    let s := posts.foldl (fun s p => s.returnPost k p) s
    let sent := fun (j : Launch) => s.pkts.any fun p => match p.payload with
      | .entry m id _ => m == n && id == j.id && p.vd == vd
      | _ => false
    let f := fun (j : Launch) =>
      let j := if hit.contains j.id || j.entryLeft n || sent j then j.record record s.now else j
      { j with next := AMap.put j.next n noEntry }
    let s := s.updVd vd fun v => { v with launches := v.launches.map f }
    let s := [0, 1, 2, 3].foldl (fun s i => s.leaveAll vd (n, i)) s
    s.belayEvent (keyChip k) (nodeDie (keyNode k)) (nodeInDie (keyNode k)) 0x01
      (BitVec.ofNat 64 (cause * 2 ^ 16 + windowOf k))

/-- A copy channel that a freeze stops: a sector on its way finishes, and what has not started is discarded (R443). -/
def Chan.stop (c : Chan) : Chan := { c with stopped := true, queue := c.queue.filter fun t => t.flight != [] }

/-- A VIOLATION freezes its master: 0 the core, 1 its copy channel, 2 its matrix sequencer; a frozen core's channel and
sequencer stop with it (R443). -/
def State.freeze (s : State) (k master : Nat) : State :=
  let s := s.updCore k fun c => match master with
    | 0 => { c with run := .frozen, chan := c.chan.stop, mx := { c.mx with stopped := true, queue := [] } }
    | 1 => { c with chan := c.chan.stop }
    | _ => { c with mx := { c.mx with stopped := true, queue := [] } }
  let s := s.updVd (s.core k).owner fun v => { v with frozen := v.frozen ++ [(k, master)] }
  s.belayEvent (keyChip k) (nodeDie (keyNode k)) (nodeInDie (keyNode k)) 0x02
    (BitVec.ofNat 64 (master * 2 ^ 16 + windowOf k))

/-- Whether a launch runs in isolated-core mode on the virtual device of a core. -/
def State.isoOn (s : State) (k launch : Nat) : Bool :=
  match s.vdev? (s.core k).owner with
  | some v => v.iso launch
  | none => false

/-- A fault of a launch that a master of a core has raised: 0 the core, 1 its copy channel, 2 its matrix sequencer. A VIOLATION
freezes the master before its report deals with the other cores' slots (R443); in isolated-core mode another cause stops a core that
runs (R440). -/
def State.reportStop (s : State) (k src launch cause : Nat) (record : List Word) : State :=
  let vd := (s.core k).owner
  if cause = Cause.violation then (s.freeze k src).report vd launch record
  else
    let iso := s.isoOn k launch
    let s := s.report vd launch record
    if iso && (s.core k).run == .running then s.isoStop k record cause else s

/-- The cause in a level's trap registers. -/
def Lvl.cause (x : Lvl) : Nat := fld x.trapcause.toNat 0 8

/-- The fault record of a level, from its trap registers (R439). -/
def Lvl.record (x : Lvl) (k : Nat) (l : Level) : List Word :=
  [faultWord0 k l.val 0 (keySlot k) x.cause (fld x.trapcause.toNat 10 1 == 1), x.trappc, x.trapval, x.trapaddr]

/-- The fault of a level's activation with the cause in its trap registers (R438): the report, and then the freeze, the
isolated-core stop, or the end of the activation. -/
def State.faultLevel (s : State) (k : Nat) (l : Level) : State :=
  let x := s.lvl k l
  match x.act with
  | none => s
  | some a =>
    let stops := x.cause = Cause.violation ∨ s.isoOn k a.launch = true
    let s := s.reportStop k 0 a.launch x.cause (x.record k l)
    if stops then s else s.updCore k fun c => c.endAct l

/-- The level whose trap forward runs at L3, if any (R435). -/
def Core.forwarded (c : Core) : Option Level :=
  match (c.lvl 3).act with
  | some a => if 16 ≤ a.slot ∧ a.ty = 5 then some (lvOf (a.slot - 16)) else none
  | none => none

/-- A forward activation that ends by a fault ends the trapped activation as a fault with its recorded cause: both are reported in the
cycle, before a stop ends them; a VIOLATION at L3 leaves the trapped level as it was (R437, R438, R443). -/
def State.faultForward (s : State) (k : Nat) (t : Level) : State :=
  let x := s.lvl k t
  if (s.lvl k 3).cause = Cause.violation then s.faultLevel k 3
  else
    let s := s.report (s.core k).owner x.launch (x.record k t)
    (s.faultLevel k 3).updCore k fun c => c.endAct t

/-- A fault at a level, and what it takes with it: a forward activation that ends by a fault ends the trapped activation as
a fault with its recorded cause; a level that faults while its forward is pending or running ends the forward (R437). -/
def State.fault (s : State) (k : Nat) (l : Level) : State :=
  let c := s.core k
  match (if l = 3 then c.forwarded else none) with
  | some t => s.faultForward k t
  | none =>
    let s := if (c.lvl l).trap.isSome ∧ c.forwarded = some l then s.updCore k fun c => c.endAct 3 else s
    s.faultLevel k l

/-! ### Taking a cause (R431 to R435) -/

/-- The resume address of a forwarded cause (R435). -/
def resumeAddr (cause : Nat) (pc next : Word) : Word :=
  if cause = Cause.stallShort ∨ cause = Cause.user then pc else next

/-- Taking a cause at a level: outstanding results become visible, the trap registers are written, and the cause goes to
the handler of type 0x05 (the level's trap record is filled and waits to start at L3) or becomes a fault (R269, R431,
R434, R435, R438). `next` is the address after the instruction. -/
def State.raiseAt (s : State) (k : Nat) (l : Level) (cause : Nat) (pc next val addr : Word) (late : Bool) : State :=
  let c := (s.core k).commitAll l
  let x := c.lvl l
  let x := { x with trapcause := BitVec.ofNat 64 ((if late then 0x400 else 0) + l.val * 256 + cause),
                    trappc := pc, trapval := val, trapaddr := addr, pfx := none, xl := [], again := true }
  let isFwd := match x.act with
    | some a => a.ty == 5
    | none => true
  if trappable cause && l != 3 && !isFwd && (AMap.get c.disp {} 5).v then
    let r := resumeAddr cause pc next
    let t : TrapRec := ⟨[x.trapcause, pc, val, addr], r, s.now, false, x.inInbox⟩
    s.setCore k (c.setLvl l { x with wait := .trapped, pc := r, trap := some t })
  else (s.setCore k (c.setLvl l x)).fault k l

/-- The number of bytes of the instruction at the level, a prefixed pair as one (R263, R274). -/
def Lvl.instrBytes (l : Lvl) : Nat := if 2 ^ 32 ≤ l.word then 6 else if isLong l.word then 4 else 2

/-- Taking a cause at the issuing instruction, with TRAPPC its own address (R432). -/
def State.raise (s : State) (cause : Nat) (val addr : Word) : State :=
  let l := s.curLvl
  s.raiseAt s.curKey s.cur.lev cause l.ipc (l.ipc + BitVec.ofNat 64 l.instrBytes) val addr false

/-- ILLEGAL with the instruction's own word as TRAPVAL (R277). -/
def State.illegal (s : State) : State := s.raise Cause.illegal (BitVec.ofNat 64 s.curLvl.word) 0

/-- The return from a trap (R436): the forward activation ends as DONE does, and the trapped level resumes at L3's
TRAPPC. A resume address with bit 0 set raises MISALIGN at the TRET, since the PC is a multiple of 2 (R263, log entry 103). None
when the issuing activation is no trap forward. -/
def State.trapReturn (s : State) : Option State :=
  let k := s.curKey
  match (s.core k).forwarded with
  | some t =>
    if s.cur.lev = 3 then
      let resume := (s.lvl k 3).trappc
      if resume.getLsbD 0 then some (s.raise Cause.misalign 0 resume)
      else
        let s := s.updCore k fun c => c.endAct 3
        some (s.updLvl k t fun x => { x with wait := .ready, trap := none, pc := resume })
    else none
  | none => none

/-! ### Answering -/

/-- A meaning's usual answer. -/
abbrev Outc := Host.Outcome State Fault Refusal

/-- The issuing level after an instruction of `n` bytes with a change of the level. -/
def State.retire (s : State) (n : Nat) (f : Lvl → Lvl) : State := s.setCurLvl ((f s.curLvl).step n)

end Sys2Proof.Machine
end

