-- ==== Sys2Proof/Machine/Space.lean ====
section
/-! DEFINITION. Physical memory at its owners: the map of R15, homes (R43, R62), the full/empty bit (R66, R67), errors
(R65), the clearing map (R76), the arrival trace rings (R148 to R151), and an access performing in one indivisible step
(R117, R136). -/

namespace Sys2Proof.Machine

/-! ### The map (R15, R16, R43) -/

/-- A unit's memory behind a physical address. -/
inductive Region where
  | hbm (chip stack off : Nat)
  | tier (chip exp off : Nat)
  | scratch (chip window off : Nat)
  | slice (chip die cluster off : Nat)
  | window (core off : Nat)              -- a matrix queue window (R405), beyond the 56-bit addresses
  | reserved
  deriving DecidableEq, Repr

/-- The number that stands for an offset of a core's matrix queue window: R15 gives it no physical address. -/
def windowPa (core off : Nat) : Nat := 2 ^ 56 + core * 4096 + off

/-- What lies at a physical address (R15). -/
def regionOf (pa : Nat) : Region :=
  if 2 ^ 56 ≤ pa then .window ((pa - 2 ^ 56) / 4096) (pa % 4096)
  else
    let chip := fld pa 47 9
    let l := fld pa 0 47
    if l < 0x008000000000 then .hbm chip (l / 2 ^ 36) (l % 2 ^ 36)
    else if 0x010000000000 ≤ l ∧ l < 0x070000000000 then
      .tier chip ((l - 0x010000000000) / 0x00C000000000) ((l - 0x010000000000) % 0x00C000000000)
    else if 0x080000000000 ≤ l ∧ l < 0x080000000000 + 9216 * 0x10000 then
      .scratch chip ((l - 0x080000000000) / 0x10000) (l % 0x10000)
    else if 0x080040000000 ≤ l ∧ l < 0x080048000000 then
      .slice chip ((l - 0x080040000000) / 0x2000000) ((l - 0x080040000000) % 0x2000000 / 0x20000) (l % 0x20000)
    else .reserved

/-- The physical address of an offset in a core's scratchpad (R15). -/
def scratchPa (core off : Nat) : Nat := keyChip core * 2 ^ 47 + 0x080000000000 + windowOf core * 0x10000 + off
/-- The physical address of an offset in a die-scratchpad slice (R15). -/
def slicePa (chip die cluster off : Nat) : Nat :=
  chip * 2 ^ 47 + 0x080040000000 + die * 0x2000000 + cluster * 0x20000 + off
/-- The core of a physical window of a chip (R15). -/
def windowCore (chip w : Nat) : Nat := coreKey chip (dieNode (w / 2304) (w % 2304 / 9)) (w % 9)

/-- The unit that owns the word at a physical address (R43, R62, R117). An address that nothing owns goes to the service
unit of its chip's first node, which refuses it. -/
def ownerOf (pa : Nat) : UnitId :=
  match regionOf pa with
  | .hbm c s _ => ⟨c, dieNode (s / 2) (fld pa 16 8), 10⟩
  | .tier c e _ => ⟨c, dieNode (e / 2) (fld pa 16 8), 10⟩
  | .scratch c w _ => ⟨c, keyNode (windowCore c w), w % 9⟩
  | .slice c d k _ => ⟨c, dieNode d k, 11⟩
  | .window k _ => ⟨keyChip k, keyNode k, keySlot k⟩
  | .reserved => ⟨fld pa 47 9, 0, 14⟩

/-- Whether memory is there (R16). -/
def State.populated (s : State) (pa : Nat) : Bool :=
  match regionOf pa with
  | .hbm c k off => decide (off < (s.chip c).hbmGiB.getD k 0 * 2 ^ 30)
  | .tier c e off => decide (off < (s.chip c).expGiB.getD e 0 * 2 ^ 30)
  | .reserved => false
  | _ => true

/-- Whether an address is in mapped memory, HBM or the second tier (R17). -/
def mappedPa (pa : Nat) : Bool :=
  match regionOf pa with
  | .hbm _ _ _ => true
  | .tier _ _ _ => true
  | _ => false

/-! ### Words -/

/-- Whether the line's clearing-map bit is set (R75). -/
def State.marked (s : State) (pa : Nat) : Bool := s.clear.contains (pa / 256)

/-- `n` bytes at a physical address, as their owner reads them (R69, R76). -/
def State.peek (s : State) (pa n : Nat) : Nat :=
  match regionOf pa with
  | .window k off => (s.core k).mx.window.readNat off n
  | _ => if s.marked pa then 0 else s.mem.readNat pa n

/-- The bytes at a physical address. -/
def State.peekBytes (s : State) (pa n : Nat) : List Byte := leBytes n (s.peek pa n)

/-- The full/empty bit of the word (R66, R76). -/
def State.isFull (s : State) (pa : Nat) : Bool := s.fe.contains (pa / 8) && !s.marked pa

/-- The pseudo-channel of its stack that holds an HBM4 word: one of the 63 that hold data, since number 63 is held back as the
spare (R5). -/
def pcOf (pa : Nat) : Nat := Config.bankOf (pa % 2 ^ 47) / 32 % 63

/-- Whether an HBM4 word lies on a pseudo-channel that could not be repaired (R460). -/
def State.pcFailed (s : State) (pa : Nat) : Bool :=
  match regionOf pa with
  | .hbm c k _ =>
    let p := (s.chip c).pcs
    (p.any fun x => x.2 == .failed) && AMap.find? p (k * 64 + pcOf pa) == some .failed
  | _ => false

/-- Whether a line still has the mark that every populated frame got at the boot: its words read zero with their bits empty (R76,
R481; log entry 144). -/
def State.untouched (s : State) (pa : Nat) : Bool := mappedPa pa && !s.touched.contains (pa / 256)

/-- Whether the word holds an uncorrectable error (R65, R460). -/
def State.isBad (s : State) (pa : Nat) : Bool := (s.bad.contains (pa / 8, true) && !s.marked pa) || s.pcFailed pa

/-! ### L2 (R43, R44, R62) -/

/-- The set of its slice that a line of mapped space falls into: PA[25:24] followed by PA[11:8] (R43). -/
def l2Set (pa : Nat) : Nat := fld pa 24 2 * 16 + fld pa 8 4

/-- Whether two lines compete for one set of one slice. -/
def sameL2Set (a b : Nat) : Bool := ownerOf a == ownerOf b && l2Set a == l2Set b

/-- The stack that a mapped physical address counts for, with an expander as a stack of its own (R453). -/
def stackOf (pa : Nat) : Nat :=
  match regionOf pa with
  | .tier _ e _ => 8 + e
  | .hbm _ k _ => k
  | _ => 0

/-- The number, in its package, of the bank that holds an HBM4 address, on one of the 63 channels that hold data (R5). -/
def bankNo (pa : Nat) : Nat := stackOf pa * 2048 + pcOf pa * 32 + Config.bankOf (pa % 2 ^ 47) % 32

/-- A bank that an access of a virtual device reaches: opening a row other than the open one counts an activation of the pair
(R454). -/
def Bank.openRow (b : Bank) (row vd : Nat) : Bank :=
  if (b.row.map Prod.fst) = some row then b
  else
    let n := ((b.counts.find? fun c => c.1 == (row, vd)).map Prod.snd).getD 0
    { b with row := some (row, vd), counts := b.counts.filter (fun c => c.1 != (row, vd)) ++ [((row, vd), n + 1)] }

/-- The lines counted in the window of 4,096 cycles that a cycle lies in (R453). -/
def Chip.budgetIn (c : Chip) (now : Nat) : AMap Nat := if c.budgetWin = now / 4096 then c.budget else []

/-- Lines counted against a virtual device at a stack, in the window of a cycle (R453, R454). -/
def Chip.countLines (c : Chip) (now key n : Nat) : Chip :=
  { c with budget := AMap.put (c.budgetIn now) key (AMap.get (c.budgetIn now) 0 key + n), budgetWin := now / 4096 }

/-- A line served by its memory controller or second-tier port: it counts against the virtual device's budget, and may open a row
(R453, R454). -/
def State.lineAccess (s : State) (vd pa : Nat) : State :=
  s.updChip (fld pa 47 9) fun c =>
    let c := c.countLines s.now (vd * 16 + stackOf pa) 1
    if 8 ≤ stackOf pa then c
    else { c with banks := AMap.put c.banks (bankNo pa)
                    ((AMap.get c.banks {} (bankNo pa)).openRow (Config.rowOf (pa % 2 ^ 47)) vd) }

/-- A line that L2 does not hold so served. -/
def State.memServe (s : State) (vd pa : Nat) : State :=
  if !mappedPa pa || s.l2.contains (pa / 256) then s else s.lineAccess vd pa

/-- The owner of the frame that an address lies in (R456). -/
def State.frameOwner (s : State) (pa : Nat) : Option Nat := AMap.find? (s.chip (fld pa 47 9)).frames (pa % 2 ^ 47 / 2 ^ 16)

/-- A frame that no virtual device owns belongs to the first that writes it: the spec gives the hypervisor's assignment of frames
no form (R75, R456). -/
def State.ownFrame (s : State) (pa vd : Nat) : State :=
  if mappedPa pa && (AMap.find? (s.chip (fld pa 47 9)).frames (pa % 2 ^ 47 / 2 ^ 16)).isNone then
    s.updChip (fld pa 47 9) fun c => { c with frames := AMap.put c.frames (pa % 2 ^ 47 / 2 ^ 16) vd }
  else s

/-- A line of L2 written back, which counts for its frame's owner (R62, R453, log entry 89). -/
def State.writeBack (s : State) (line : Nat) : State :=
  if s.media.any fun m => m.line == line then
    let t := { s with media := s.media.filter fun m => m.line != line }
    match s.frameOwner (line * 256) with
    | some vd => t.lineAccess vd (line * 256)
    | none => t
  else s

/-- An access of mapped space at its home slice: a miss allocates the line, except under memory type 0b10, and a full set of 16
lines loses one of the device's choosing, which is written back (R43, R62). -/
def State.l2Fill (s : State) (pa mt : Nat) : State :=
  let line := pa / 256
  if !mappedPa pa || mt == 2 || s.l2.contains line then s
  else
    let same := s.l2.filter fun l => sameL2Set (l * 256) pa
    if same.length < 16 then { s with l2 := s.l2 ++ [line] }
    else
      let (pick, s) := s.freeNat
      let gone := same.getD (pick % same.length) 0
      { s.writeBack gone with l2 := s.l2.filter (· != gone) ++ [line] }

/-- The accesses of a run, line by line, at their home slices. -/
def State.l2Run (s : State) (pa n mt : Nat) : State :=
  (tab ((pa % 256 + n + 255) / 256) fun i => pa / 256 * 256 + 256 * i).foldl (fun s a => s.l2Fill a mt) s

/-- A line that a unit reaches at its home slice with no gate before it: served from memory where L2 does not hold it (R62, R453). -/
def State.lineServe (s : State) (vd pa mt : Nat) : State := (s.memServe vd pa).l2Fill pa mt

/-- The lines of a run, each so reached. -/
def State.runServe (s : State) (vd pa n mt : Nat) : State :=
  (tab ((pa % 256 + n + 255) / 256) fun i => pa / 256 * 256 + 256 * i).foldl (fun s a => s.lineServe vd a mt) s

/-- The line made ready to be written: a marked line is cleared first (R76), and a line that L2 will hold keeps what the
media hold until it is written back (R62). -/
def State.readyLine (s : State) (pa mt : Nat) : State :=
  let line := pa / 256
  let s := s.l2Fill pa mt
  let s := if mappedPa pa then { s with touched := insertNat line s.touched } else s
  let s := if s.marked pa then
      { s with mem := s.mem.clear (line * 256) 256, fe := s.fe.filter (fun w => w / 32 != line),
               bad := s.bad.filter (fun w => w.1 / 32 != line), clear := s.clear.filter (· != line) }
    else s
  if mappedPa pa && mt != 2 && !(s.media.any fun m => m.line == line) then
    let img : MediaLine := ⟨line, s.peekBytes (line * 256) 256, s.fe.filter fun w => w / 32 == line⟩
    { s with media := s.media ++ [img] }
  else s

/-- A non-zero write to a wake register starts the wake of its virtual device (R462). -/
def State.wakeWatch (s : State) (pa v : Nat) : State :=
  if v = 0 then s
  else { s with vds := s.vds.map fun (e : Nat × VDev) =>
    if e.2.wakeAddr / 8 = pa / 8 ∧ (e.2.res = .bivouac ∨ e.2.res = .entering) then (e.1, { e.2 with res := .waking })
    else e }

/-- A scratchpad word about to be written: the matrix commands that its core has queued may still see it as it is (R415). -/
def State.keepOld (s : State) (pa n : Nat) : State :=
  match regionOf pa with
  | .scratch c w off =>
    let k := windowCore c w
    match (s.core k).mx.queue with
    | [] => s
    | q => { s with olds := s.olds ++ tab ((off + n - 1) / 8 - off / 8 + 1) fun i =>
        ⟨k, off / 8 + i, s.peek (scratchPa k ((off / 8 + i) * 8)) 8, q.map Cmd.num⟩ }
  | _ => s

/-- `n` bytes written at a physical address. -/
def State.poke (s : State) (pa n v mt : Nat) : State :=
  match regionOf pa with
  | .window k off => s.updCore k fun c => { c with mx := { c.mx with window := c.mx.window.writeBytes off (leBytes n v) } }
  | _ =>
    let s := (s.keepOld pa n).readyLine pa mt
    ({ s with mem := s.mem.writeBytes pa (leBytes n v) }).wakeWatch pa v

/-- The full/empty bit of the word set. -/
def State.setFull (s : State) (pa : Nat) (full : Bool) : State :=
  { s with fe := if full then insertNat (pa / 8) s.fe else s.fe.filter (· != pa / 8) }

/-- A bit error gone from the word. -/
def State.dropBad (s : State) (pa : Nat) : State := { s with bad := s.bad.filter fun w => w.1 != pa / 8 }

/-- The die and the belay stop that report for the memory at a physical address: a stack's or expander's, or the node's own (R473). -/
def memStop (pa : Nat) : Nat × Nat :=
  match regionOf pa with
  | .hbm _ k _ => (k / 2, 260 + k % 2)
  | .tier _ e _ => (e / 2, 262 + e % 2)
  | _ => let u := ownerOf pa; (nodeDie u.node, nodeInDie u.node)

/-- The supervisor's count of corrected soft errors, one more; the one that passes its limit is told (R65, R474, log entry 57). -/
def State.countSoft (s : State) (pa : Nat) : State :=
  let chip := fld pa 47 9
  let n := (s.chip chip).softErrs + 1
  let s := s.updChip chip fun c => { c with softErrs := n }
  if n = Config.softLimit + 1 then
    s.belayEvent chip (memStop pa).1 (memStop pa).2 0x04 (BitVec.ofNat 64 ((ownerOf pa).unit * 2 ^ 32 + n % 2 ^ 32))
  else s

/-- An access that reads the word corrects a single-bit error (R65). -/
def State.correct (s : State) (pa : Nat) : State :=
  if s.bad.contains (pa / 8, false) && !s.marked pa then (s.dropBad pa).countSoft pa else s

/-! ### Aligned runs, for copies, lines and landings -/

/-- Whether any word of a run holds an uncorrectable error. -/
def State.badRun (s : State) (pa n : Nat) : Bool := (tab ((n + 7) / 8) fun i => s.isBad (pa + 8 * i)).any id

/-- Writes whole 8-byte words: each is new data, and an uncorrectable word is good again, its bit set full (R65). With
`bits`, each word also takes a full/empty bit (R68). -/
def State.pokeRun (s : State) (pa mt : Nat) : List Word → List (Option Bool) → State
  | [], _ => s
  | w :: ws, bits =>
    let bad := s.isBad pa
    let s := (s.poke pa 8 w.toNat mt)
    let s := match bits.headD none with
      | some b => s.setFull pa b
      | none => if bad then s.setFull pa true else s
    let s := if bad then (s.dropBad pa).countSoft pa else s.dropBad pa
    State.pokeRun s (pa + 8) mt ws bits.tail

/-- Eight-byte words of a run. -/
def State.peekRun (s : State) (pa n : Nat) : List Word := tab (n / 8) fun i => BitVec.ofNat 64 (s.peek (pa + 8 * i) 8)

/-! ### Atomic operators (R348, R349) -/

/-- The new value of the word, from the old one and the operands. -/
def amoNew (op : AmoOp) (old v v' : Word) : Word :=
  match op with
  | .add => old + v
  | .and => old &&& v
  | .or => old ||| v
  | .xor => old ^^^ v
  | .min => if old.slt v then old else v
  | .max => if old.slt v then v else old
  | .minn => if old.ult v then old else v
  | .maxn => if old.ult v then v else old
  | .swap => v
  | .cas => if old = v then v' else old
  | .faddF32 => (addF32 (old.setWidth 32) (v.setWidth 32)).setWidth 64
  | .fmaxF32 => (maxF32 (old.setWidth 32) (v.setWidth 32)).setWidth 64

/-! ### Arrival traces (R148 to R151) -/

/-- CLASS of R150. -/
def AccClass.trace : AccClass → Nat
  | .load => 0 | .store => 1 | .amo _ => 2 | .fe _ => 3 | .feq => 3

/-- FEMODE of R150. -/
def AccClass.feMode : AccClass → Nat
  | .fe .ff => 1 | .fe .fe => 2 | .fe .ef => 3 | .fe .xf => 4 | _ => 0

/-- The record of an arrival. -/
def traceRecord (a : Acc) (seq : Nat) : List Word :=
  [BitVec.ofNat 64 (seq % 2 ^ 24 * 2 ^ 40 + a.src.chip * 2 ^ 31 + a.src.node * 2 ^ 21 + a.src.unit * 2 ^ 17 +
     a.mx.toNat * 2 ^ 16 + a.rope * 2 ^ 12 + a.kind.code * 2 ^ 9 + a.cls.trace * 2 ^ 7 + a.cls.feMode * 2 ^ 4 +
     a.size.log2),
   BitVec.ofNat 64 (a.pa % 2 ^ 47)]

/-- The slot number of a virtual device on a chip. -/
def State.vdSlot (s : State) (vd chip : Nat) : Nat :=
  match s.vdev? vd with
  | some v => AMap.get v.slot 0 chip
  | none => 0

/-- The virtual device's slot record on a chip (R469); an empty one where it has no slot. -/
def State.vdSlotRec (s : State) (vd chip : Nat) : VdSlot :=
  match (s.vdev? vd).bind fun v => AMap.find? v.slot chip with
  | some n => AMap.get (s.chip chip).slots {} n
  | none => {}

/-- An arrival at a core's port recorded in its ring, where that is enabled (R148). -/
def State.traceCore (s : State) (k : Nat) (a : Acc) : State :=
  let core := s.core k
  if fld core.tracectl.toNat 0 1 = 1 then
    let n := fld core.traceptr.toNat 0 32
    let base := scratchPa k (fld core.tracectl.toNat 12 4 * 0x1000 + 16 * (n % 256))
    let s := s.pokeRun base 2 (traceRecord a n) []
    s.updCore k fun c => { c with traceptr := BitVec.ofNat 64 ((n + 1) % 2 ^ 32) }
  else s

/-- An arrival at a port or slice, recorded where its ring is enabled (R148, R151). One in a matrix queue window, which has no
physical address, is recorded with its offset in the core's own space (R405; DESIGN CHOICE, log entry 16). -/
def State.trace (s : State) (a : Acc) : State :=
  match regionOf a.pa with
  | .scratch c w _ =>
    s.traceCore (windowCore c w) a
  | .window k off => s.traceCore k { a with pa := 0x10000 + off }
  | .reserved => s
  | _ =>
    let o := ownerOf a.pa
    let cfg := (s.vdSlotRec a.vd o.chip).tracecfg
    if fld cfg.toNat 63 1 = 1 then
      let key := nodeKey o.chip o.node
      let n := AMap.get (if o.unit = 10 then (s.clu key).traceN else (s.clu key).traceD) 0 a.vd
      let ring := o.node * 0x1000 + (if o.unit = 10 then 0 else 0x400000)
      let base := o.chip * 2 ^ 47 + fld cfg.toNat 23 24 * 2 ^ 23 + ring + 16 * (n % 256)
      let s := if s.pcFailed base then s else ((s.memServe a.vd base).ownFrame base a.vd).pokeRun base 2 (traceRecord a n) []
      s.updClu key fun c =>
        if o.unit = 10 then { c with traceN := AMap.put c.traceN a.vd (n + 1) } else { c with traceD := AMap.put c.traceD a.vd (n + 1) }
    else s

/-! ### Performing (R117) -/

/-- What comes of an access at its owner. -/
inductive Perf where
  | done (data : Word) (s : State)
  | wait
  | access
  | ecc

/-- Whether an access reads the word, so that an uncorrectable error stops it (R65). -/
def Acc.readsWord (a : Acc) : Bool :=
  match a.cls with
  | .store => a.size != 8 || a.mask != -1
  | .fe .xf => false
  | _ => true

/-- Whether the access's full/empty condition holds (R67). -/
def State.holds (s : State) (a : Acc) : Bool :=
  match a.cls with
  | .fe .ff => s.isFull a.pa
  | .fe .fe => s.isFull a.pa
  | .fe .ef => !s.isFull a.pa
  | _ => true

/-- Writes `a.size` bytes of which only those under the mask change (R118, R345), with any error in the word gone after a
whole-word write (R65). -/
def State.store (s : State) (a : Acc) (v : Word) : State :=
  let old := BitVec.ofNat 64 (s.peek a.pa a.size)
  let new := (v &&& a.mask) ||| (old &&& ~~~a.mask)
  let bad := s.isBad a.pa
  let s := s.poke a.pa a.size new.toNat a.mt
  if a.readsWord then s
  else if bad then ((s.setFull a.pa true).dropBad a.pa).countSoft a.pa
  else s.dropBad a.pa

/-- An access performs at its owner in one indivisible step: the test and setting of the full/empty bit, the read, and the
write (R67, R117, R136). -/
def State.perform (s : State) (a : Acc) : Perf :=
  if !s.populated a.pa then .access
  else if (a.readsWord && s.isBad a.pa) || s.pcFailed a.pa then .ecc
  else if !s.holds a then .wait
  else
    let s := if a.readsWord then s.correct a.pa else s
    let old := BitVec.ofNat 64 (s.peek a.pa a.size)
    match a.cls with
    | .load => .done old s
    | .store => .done 0 (s.store a a.data)
    | .amo op => .done old (s.store { a with mask := -1 } (amoNew op old a.data a.data2))
    | .fe .ff => .done old s
    | .fe .fe => .done old (s.readyLine a.pa a.mt |>.setFull a.pa false)
    | .fe .ef => .done 0 ((s.store a a.data).setFull a.pa true)
    | .fe .xf => .done 0 ((s.store a a.data).setFull a.pa true)
    | .feq => .done (if s.isFull a.pa then 1 else 0) s

end Sys2Proof.Machine
end

