-- ==== Sys2Proof/Machine/Port.lean ====
section
/-! DEFINITION. The ports of the scratchpads and slices: the gates of a memory controller (R453, R454), the waiters served first
(R71), the rotation among a port's requesters (R51), and the words that a queued matrix command may still see as they were
(R415). -/

namespace Sys2Proof.Machine

/-- The unit of a core. -/
def coreUnit (k : Nat) : UnitId := ⟨keyChip k, keyNode k, keySlot k⟩
/-- The core of a unit. -/
def UnitId.core (u : UnitId) : Nat := coreKey u.chip u.node u.unit

/-- Whether a store into the matrix queue window pushes its slot (R406). -/
def Acc.pushes (a : Acc) : Bool := a.cls == .store && decide (2 ^ 56 ≤ a.pa) && decide (a.pa % 64 + a.size = 64)

/-- Whether a unit's port is being copied to the spare: arrivals there are answered BUSY (R442). -/
def State.copying (s : State) (u : UnitId) : Bool := (s.clu (nodeKey u.chip u.node)).repair == some u.unit

/-! ### The memory controller's gates (R453, R454) -/

/-- Whether an access may go on to memory now. -/
inductive Gate where
  | go (s : State)
  | hold (s : State)
  | busy

/-- Whether a virtual device's requests to the stack of an address wait for the next window (R453). -/
def State.overBudget (s : State) (vd pa : Nat) : Bool :=
  let used := AMap.get ((s.chip (fld pa 47 9)).budgetIn s.now) 0 (vd * 16 + stackOf pa)
  match s.vdev? vd with
  | some v => v.budget != 0 && decide (v.budget ≤ used)
  | none => false

/-- The bank of an address of HBM4. -/
def State.bankAt (s : State) (pa : Nat) : Bank := AMap.get (s.chip (fld pa 47 9)).banks {} (bankNo pa)

/-- Whether a package serves nothing: its logic is powered in ON alone, and from the retraining with which that begins (R482). -/
def State.dark (s : State) (chip : Nat) : Bool := !((s.chip chip).power == .on || (s.chip chip).power == .training)

/-- Whether a virtual device's request for a line waits at the home slice: for a package that serves nothing, and, where L2 does not
hold the line, for its budget, or for a bank that parks its requests (R453, R454, R482). -/
def State.memWaits (s : State) (vd pa : Nat) : Bool :=
  mappedPa pa && (s.dark (fld pa 47 9) || (!s.l2.contains (pa / 256) &&
    (s.overBudget vd pa || (decide (stackOf pa < 8) && (s.bankAt pa).parked.any fun t => t.1 == vd))))

/-- The packets of a virtual device in a bank's side queue, in arrival order. -/
def State.sideOf (s : State) (b : Bank) (vd : Nat) : List Nat :=
  b.side.filter fun i => (s.pkts.find? fun q => q.id == i).any fun q => q.vd == vd

/-- The gates: the package's power, the bandwidth budget, and a bank that parks the virtual device's requests in its side queue,
which drains first once their cycles are over, each tenant's part for itself. A line held in L2 passes the last two. -/
def State.gate (s : State) (p : Packet) (a : Acc) : Gate :=
  if !mappedPa a.pa then .go s
  else if s.dark (fld a.pa 47 9) then .hold s
  else if s.l2.contains (a.pa / 256) then .go s
  else if s.overBudget a.vd a.pa then .hold s
  else if 8 ≤ stackOf a.pa then .go (s.memServe a.vd a.pa)
  else
    let bank := s.bankAt a.pa
    let put := fun (s : State) (side : List Nat) => s.updChip (fld a.pa 47 9) fun c =>
      { c with banks := AMap.put c.banks (bankNo a.pa) { AMap.get c.banks {} (bankNo a.pa) with side := side } }
    if bank.parked.any fun t => t.1 == a.vd then
      if bank.side.contains p.id then .hold s
      else
        let side := bank.side.filter fun i => s.pkts.any fun q => q.id == i
        if side.length < 32 then .hold (put s (side ++ [p.id])) else .busy
    else match s.sideOf bank a.vd with
      | [] => .go (s.memServe a.vd a.pa)
      | i :: _ => if i = p.id then .go (put (s.memServe a.vd a.pa) (bank.side.erase p.id)) else .hold s

/-! ### Waiters (R71) -/

/-- The waiters of a word at its owner whose condition holds, oldest first (R71). -/
def State.served (s : State) (pa : Nat) : List Waiter :=
  sortBy (fun a b => decide (a.order ≤ b.order)) (s.retry.filter fun w => w.acc.pa / 8 == pa / 8 && s.holds w.acc)

/-- Whether a waiter on a run of words is to be served before the next access of them (R71). -/
def State.owed (s : State) (pa n : Nat) : Bool :=
  s.retry.any fun w => decide (pa / 8 ≤ w.acc.pa / 8 ∧ w.acc.pa < pa + n) && s.holds w.acc

/-- Whether an access writes its word. -/
def Acc.writes (a : Acc) : Bool :=
  match a.cls with
  | .load => false
  | .feq => false
  | .fe .ff => false
  | _ => true

/-! ### Counted writes (R135) -/

/-- A write of a rope that performs at a node, counted there since the rope's last FENCEF flag. -/
def State.countWrite (s : State) (node : Nat) (a : Acc) : State :=
  if a.writes then
    s.updClu node fun c =>
      let key := (a.src, a.vd, a.uid)
      { c with fwrites := c.fwrites.filter (fun e => e.1 != key) ++ [(key, ((c.fwrites.find? fun e => e.1 == key).map Prod.snd).getD 0 + 1)] }
  else s

/-- The count given up when the flag performs. -/
def State.countEnd (s : State) (node : Nat) (a : Acc) : State :=
  s.updClu node fun c => { c with fwrites := c.fwrites.filter fun e => e.1 != (a.src, a.vd, a.uid) }

/-- Whether the writes that a FENCEF's marker counts have performed: the node has counted them, or its source has none of the
rope outstanding before the flag. -/
def State.markerDue (s : State) (p : Packet) (a : Acc) (op count : Nat) : Bool :=
  let seen := (((s.clu (nodeKey p.dst.chip p.dst.node)).fwrites.find? fun e => e.1 == (a.src, a.vd, a.uid)).map Prod.snd).getD 0
  decide (count ≤ seen) || !((s.core a.src.core).ops.any fun q => q.rope == a.uid && decide (q.id < op))

/-! ### The rotation (R51) -/

/-- The input of its owner's port that a packet comes by. A scratchpad's rotation is: issuing core 0, matrix sequencer 1, copy
channel 2, crossbar 3, fabric 4; a slice's: crossbar 0, ejection ports 1 and 2, walkers 3, memory controller 4. -/
def Packet.input (p : Packet) : Nat :=
  let near := p.src.chip == p.dst.chip && p.src.node == p.dst.node
  if p.dst.unit < 9 then (if p.src == p.dst then 0 else if near then 3 else 4)
  else if near then 0 else 1 + min p.eject 1

/-- The core and operation that a reply tag names. -/
def State.opOf (s : State) (id : Nat) : Option (Nat × Op) :=
  List.findSome? (fun (kc : Nat × Core) => (kc.2.ops.find? fun o => o.id == id).map fun o => (kc.1, o)) s.cores

/-- Where in its scratchpad an AREAD reply, or a line of a core's own MCLD, lands: the address and the length (R357, R361). -/
def State.landsAt (s : State) (p : Packet) : Option (Nat × Nat) :=
  let k := p.dst.core
  match p.payload with
  | .areadReply op 0 _ => (s.opOf op).bind fun o => match o.2.work with
    | .aread _ len _ dst _ => some (scratchPa k dst, len)
    | _ => none
  | .mcldLine g pa _ [] line _ _ =>
    if p.dst.unit < 9 then
      ((s.core k).mclds.find? fun r => r.m.group == g && r.left.contains line && r.lines.contains (line, pa)).map fun r =>
        (scratchPa k (r.m.rc + 256 * line), 256)
    else none
  | _ => none

/-- The access that a packet brings to a port, if it brings one. -/
def State.brings (s : State) (p : Packet) : Option Acc :=
  if p.stage != .arrived then none
  else match p.payload with
    | .access a _ => some a
    | .marker a _ _ => some a
    | .aread pa len _ => some { pa := pa, size := len, cls := .load, vd := p.vd, src := p.src }
    | .copyData _ _ ws => some { pa := (ws.headD (0, 0, 0, none)).1, size := 8, cls := .store, vd := p.vd, src := p.src }
    | .flush line _ => some { pa := line * 256, size := 256, cls := .load, vd := p.vd, src := p.src }
    | _ => (s.landsAt p).map fun l => { pa := l.1, size := l.2, cls := .store, vd := p.vd, src := p.src }

/-- Whether a packet at its owner's port is ready to be served: no gate holds it back, no waiter of its word comes first, and the
queue that its push needs has room. -/
def State.portReady (s : State) (p : Packet) : Bool :=
  let due := match p.payload with
    | .marker a op count => s.markerDue p a op count
    | _ => true
  match s.brings p with
  | none => false
  | some a =>
    if !due then false
    else if 2 ^ 56 ≤ a.pa then !(a.pushes && decide (64 ≤ (s.core p.dst.core).mx.queue.length))
    else !s.owed a.pa a.size && (match s.gate p a with
      | .hold _ => false
      | _ => true)

/-- The input at which a port's rotation starts. -/
def State.portStart (s : State) (u : UnitId) : Nat :=
  if u.unit < 9 then (s.core u.core).port
  else if u.unit = 10 then (s.clu (nodeKey u.chip u.node)).portL else (s.clu (nodeKey u.chip u.node)).portD

/-- The place of an input in the rotation of a port. -/
def State.portRank (s : State) (u : UnitId) (input : Nat) : Nat := (input + 5 - s.portStart u) % 5

/-- Whether no unit of a core's own that asked for its port in this cycle or the last comes before an input in the rotation (R51). -/
def State.ownTurn (s : State) (u : UnitId) (input : Nat) : Bool :=
  decide (9 ≤ u.unit) || (s.core u.core).want.all fun w =>
    w.1 == input || decide (w.2 + 1 < s.now) || decide (s.portRank u input < s.portRank u w.1)

/-- A unit of a core's own asks for its port (R51). -/
def State.portAsk (s : State) (k input : Nat) : State :=
  s.updCore k fun c => { c with want := (c.want.filter fun w => w.1 != input) ++ [(input, s.now)] }

/-- Whether a packet is the one its port serves: the first requester of the rotation with an access ready, in order of arrival at
one input (R51). -/
def State.portTurn (s : State) (p : Packet) : Bool :=
  let r := s.portRank p.dst p.input
  s.ownTurn p.dst p.input &&
  let rivals := fun (qs : List Packet) => qs.filter fun q => q.dst == p.dst && q.id != p.id && s.portReady q
  ((rivals (s.pkts.takeWhile fun q => q.id != p.id)).all fun q => decide (r < s.portRank q.dst q.input)) &&
    (rivals s.pkts).all fun q => decide (r ≤ s.portRank q.dst q.input)

/-- Whether a landing waits: for its turn at the port (R51), for the waiters of the words it lands on (R71), or for the end of a copy of
the port to the spare (R442). -/
def State.landingWaits (s : State) (p : Packet) : Bool :=
  (s.landsAt p).any fun l => !s.portTurn p || s.owed l.1 l.2 || s.copying p.dst

/-- Whether a unit of the port's own side, a sequencer or channel, may be served: nothing ready comes before it (R51). -/
def State.unitTurn (s : State) (u : UnitId) (input : Nat) : Bool :=
  s.ownTurn u input && s.pkts.all fun q => !(q.dst == u && s.portReady q) || decide (s.portRank u input < s.portRank u q.input)

/-- The rotation goes on from the input after the one served. -/
def State.portServed (s : State) (u : UnitId) (input : Nat) : State :=
  let n := (input + 1) % 5
  if u.unit < 9 then s.updCore u.core fun c => { c with port := n, want := c.want.filter fun w => w.1 != input }
  else s.updClu (nodeKey u.chip u.node) fun c => if u.unit = 10 then { c with portL := n } else { c with portD := n }

/-! ### What a queued matrix command may still see (R415) -/

/-- The commands of a core that see a write for certain no longer see its words as they were before. -/
def State.settleOld (s : State) (pa n : Nat) (sees : Cmd → Bool) : State :=
  match regionOf pa with
  | .scratch c w off =>
    let k := windowCore c w
    let certain := ((s.core k).mx.queue.filter sees).map Cmd.num
    { s with olds := (s.olds.map fun (o : OldWord) =>
        if o.core = k ∧ off / 8 ≤ o.word ∧ o.word ≤ (off + n - 1) / 8 then
          { o with cmds := o.cmds.filter fun i => !certain.contains i }
        else o).filter fun o => o.cmds != [] }
  | _ => s

end Sys2Proof.Machine
end

