-- ==== Sys2Proof/Machine/Access.lean ====
section
/-! DEFINITION. Accesses at their source: the checks of R340 (tag, alignment, space, translation), ropes (R122 to R128),
operations held back by the ordering rules until they may go (R120, R121, R123, R130 to R134), the store buffer and L1
(R57 to R61), packets, and what completion settles. -/

namespace Sys2Proof.Machine

/-! ### Tags and addresses (R9, R10, R340) -/

/-- The fmt code of a pointer. -/
def fmtCode (p : Word) : Nat := fld p.toNat 60 4
/-- The blog field of a pointer. -/
def blogOf (p : Word) : Nat := fld p.toNat 57 3

/-- Whether a pointer's tag is good (R10, R292, R293). -/
def tagOk (p : Word) : Bool :=
  let f := fmtCode p
  if f = 8 ∨ f = 9 then decide (2 ≤ blogOf p ∧ blogOf p ≤ 4) else decide (f < 8) && blogOf p == 0

/-- The permission bits of R28. -/
def permR : Nat := 1
def permW : Nat := 2
def permX : Nat := 4

/-- One element access of an instruction. -/
structure El where
  lane : Nat
  va   : Word
  size : Nat
  cls  : AccClass
  need : Nat                 -- permissions (R28)
  data : Word := 0
  data2 : Word := 0
  mask : Word := -1
  strange : Bool := false    -- the lane's tag bits differ from the pointer's (R384)
  part : Nat := 0            -- place of the part in a multi-part result
  deriving DecidableEq, Repr

/-- Where an address leads before translation (R18, R19). -/
inductive Lead where
  | mapped (va : Nat)
  | phys (pa : Nat)
  | bad (cause : Nat)
  deriving DecidableEq, Repr

/-- The record of an active launch. -/
def VDev.active (v : VDev) (launch : Nat) : Option Launch := v.launches.find? fun j => j.id == launch

/-- Whether two clusters of the virtual device are in one co-placed group of the launch (R54, R246). -/
def VDev.coplaced (v : VDev) (launch a b : Nat) : Bool :=
  match v.active launch with
  | some j => let n := 2 ^ fld (j.words.getD 4 0).toNat 23 4; a / n == b / n
  | none => a == b

/-- The place a pointer's 57 address bits lead to, for core `k` and an activation of a launch (R18, R19). -/
def State.lead (s : State) (k launch : Nat) (p : Word) : Lead :=
  let va := p.toNat % 2 ^ 57
  if va < 2 ^ 56 then .mapped va
  else
    let off := va - 2 ^ 56
    let chip := keyChip k
    let c := s.core k
    match s.vdev? c.owner with
    | none => .bad Cause.access
    | some v =>
      let own := keyNode k - AMap.get v.base 0 chip
      if off < 0x10000 then .phys (scratchPa k off)
      else if off < 0x11000 then .phys (windowPa k (off - 0x10000))
      else if 0x80000 ≤ off ∧ off < 0x100000 then
        let o := off - 0x80000
        .phys (scratchPa (coreKey chip (keyNode k) (slotOf (s.clu (keyCluster k)) (o / 0x10000))) (o % 0x10000))
      else if 0x10000000 ≤ off ∧ off < 0x18000000 then
        let o := off - 0x10000000
        let node := dieNode (o / 0x2000000) (o % 0x2000000 / 0x20000)
        if (s.vdSlotRec c.owner chip).grants.contains node then .phys (slicePa chip (o / 0x2000000) (o % 0x2000000 / 0x20000) (o % 0x20000))
        else .bad Cause.violation
      else if 0x100000000 ≤ off ∧ off < 0x120000000 then
        let o := off - 0x100000000
        let m := o / 0x80000
        let i := (indexOf? v.chips chip).getD 0 * 2 ^ v.plog
        if m < 2 ^ v.plog && (m == own || v.coplaced launch (i + m) (i + own)) then
          let node := AMap.get v.base 0 chip + m
          .phys (scratchPa (coreKey chip node (slotOf (s.clu (nodeKey chip node)) (o % 0x80000 / 0x10000))) (o % 0x10000))
        else .bad Cause.access
      else .bad Cause.access

/-! ### Translation at the source (R30 to R37) -/

/-- The TLB entry of a virtual device that covers an address. -/
def tlbFind (tlb : List TlbEntry) (vd va : Nat) : Option TlbEntry :=
  tlb.find? fun e => e.vd == vd && va / 2 ^ e.log == e.page

/-- What translation gives. -/
inductive Xres where
  | ok (pa mt : Nat) (e : TlbEntry)
  | denied (trapval : Word)
  | lost (cause : Nat)
  | miss
  deriving DecidableEq, Repr

/-- TRAPVAL of an XLATE_DENY (R433). -/
def denyVal (reason level stage : Nat) : Word := BitVec.ofNat 64 (reason * 32 + level * 4 + stage)

/-- A translation judged against the permissions the access needs: stage 1 is looked at first (R28, R433). -/
def TlbEntry.judge (e : TlbEntry) (va need : Nat) : Xres :=
  if e.s1.2 &&& need ≠ need then .denied (denyVal 0 e.s1.1 1)
  else if e.s2.2 &&& need ≠ need then .denied (denyVal 0 e.s2.1 2)
  else .ok (e.frame + va % 2 ^ e.log) e.mt e

/-- The translation of an address from what is at hand: the decided pages of the waiting access, then the TLB. -/
def translate (tlb : List TlbEntry) (xl : List (Nat × Xlate)) (vd va need : Nat) : Xres :=
  match AMap.find? xl (va / 2 ^ 16) with
  | some (.hit e) => e.judge va need
  | some (.denied t) => .denied t
  | some (.lost c) => .lost c
  | none =>
    match tlbFind tlb vd va with
    | some e => e.judge va need
    | none => .miss

/-- The translation of a mapped-space address for an access of a virtual device: denied while a stage is disabled, whatever
the TLBs hold (R24). -/
def State.xlate (s : State) (tlb : List TlbEntry) (xl : List (Nat × Xlate)) (vd va need : Nat) : Xres :=
  match s.vdev? vd with
  | none => .denied (denyVal 3 0 1)
  | some v =>
    if !v.s1.getLsbD 0 then .denied (denyVal 3 0 1)
    else if !v.s2.getLsbD 0 then .denied (denyVal 3 0 2)
    else translate tlb xl vd va need

/-! ### Replacement (R30, R57) -/

/-- The entries used lately, once `e` of `all` is used: when every one has been, only the last use counts (not-recently-used,
R30, R57). -/
def nruUse {α : Type} [DecidableEq α] (all used : List α) (e : α) : List α :=
  let u := (used.filter fun x => x != e && all.contains x) ++ [e]
  if all.all fun x => u.contains x then [e] else u

/-- The entry that goes: one of those not used lately, which the device chooses (log entry 28). -/
def nruVictim {α : Type} [DecidableEq α] (all used : List α) (pick : Nat) : Option α :=
  let idle := all.filter fun x => !used.contains x
  let from_ := if idle.isEmpty then all else idle
  from_[pick % from_.length]?

/-- The status of R86 for a table entry that no walker can read. -/
def lostStatus (cause : Nat) : Nat := if cause = Cause.eccUncorr then 4 else 3

/-- Sends a miss to the walkers: a walk in flight for the page serves it (R33). -/
def State.askWalk (s : State) (vd page : Nat) (w : Walker) : State :=
  if s.walks.any fun x => x.vd == vd && x.page == page then
    { s with walks := s.walks.map fun x =>
      if x.vd == vd && x.page == page && !x.who.contains w then { x with who := x.who ++ [w] } else x }
  else { s with walks := s.walks ++ [⟨s.nextId, vd, page, [w], none⟩], nextId := s.nextId + 1 }

/-- A TLB of 64 entries with one more, given those used lately. A full one loses an entry not recently used (R30). -/
def tlbAdd (tlb used : List TlbEntry) (e : TlbEntry) (pick : Nat) : List TlbEntry :=
  let rest := tlb.filter fun x => x != e
  (if rest.length < 64 then rest else rest.filter fun x => some x != nruVictim rest used pick) ++ [e]

/-- A core whose TLB gains an entry. -/
def Core.tlbFill (c : Core) (e : TlbEntry) (pick : Nat) : Core :=
  let tlb := tlbAdd c.tlb c.tlbUse e pick
  { c with tlb := tlb, tlbUse := nruUse tlb c.tlbUse e }

/-- A cluster whose copy unit's TLB gains an entry. -/
def Cluster.tlbFill (c : Cluster) (e : TlbEntry) (pick : Nat) : Cluster :=
  let tlb := tlbAdd c.tlb c.tlbUse e pick
  { c with tlb := tlb, tlbUse := nruUse tlb c.tlbUse e }

/-- A core that has used an entry of its TLB. -/
def Core.tlbHit (c : Core) (e : Option TlbEntry) : Core :=
  match e with
  | some e => if c.tlb.contains e then { c with tlbUse := nruUse c.tlb c.tlbUse e } else c
  | none => c

/-- A cluster whose copy unit has used an entry of its TLB. -/
def Cluster.tlbHit (c : Cluster) (e : Option TlbEntry) : Cluster :=
  match e with
  | some e => if c.tlb.contains e then { c with tlbUse := nruUse c.tlb c.tlbUse e } else c
  | none => c

/-- A checked element: its physical address, memory type and translation. -/
structure Placed where
  el : El
  pa : Nat
  mt : Nat
  xl : Option TlbEntry
  deriving DecidableEq, Repr

/-- What the checks of R340 decide for all elements of an instruction (R32). -/
inductive Checked where
  | ok (ps : List Placed)
  | fail (cause : Nat) (val addr : Word)
  | wait (pages : List Nat)
  deriving DecidableEq, Repr

/-- Whether an element may reach where it leads (R47, R384, R405). -/
def El.admitted (e : El) (win : Bool) : Lead → Option Nat
  | .bad c => some c
  | .phys pa => if e.strange then some Cause.access else if 2 ^ 56 ≤ pa ∧ !win then some Cause.access else none
  | .mapped _ => if e.strange then some Cause.access else none

/-- The checks of R340 after the tag, in order and each over every element: alignment, space, translation; the lowest
failing lane decides. -/
def State.check (s : State) (k launch : Nat) (tlb : List TlbEntry) (xl : List (Nat × Xlate)) (win : Bool)
    (els : List El) : Checked :=
  match els.find? fun e => e.va.toNat % e.size != 0 with
  | some e => .fail Cause.misalign 0 e.va
  | none =>
    let led := els.map fun e => (e, s.lead k launch e.va)
    match led.findSome? fun el => (el.1.admitted win el.2).map fun c => (c, el.1.va) with
    | some (c, a) => .fail c (if c = Cause.violation then a else 0) a
    | none =>
      let vd := (s.core k).owner
      let xs := led.map fun el => match el.2 with
        | .mapped va => (el.1, some (va, s.xlate tlb xl vd va el.1.need), 0)
        | .phys pa => (el.1, none, pa)
        | .bad _ => (el.1, none, 0)
      let pages := xs.filterMap fun x => match x.2.1 with
        | some (va, .miss) => some (va / 2 ^ 16)
        | _ => none
      if pages ≠ [] then .wait pages.eraseDups
      else match xs.findSome? fun x => match x.2.1 with
          | some (_, .denied t) => some (Cause.xlateDeny, t, x.1.va)
          | some (_, .lost c) => some (c, 0, x.1.va)
          | _ => none with
        | some (c, t, a) => .fail c t a
        | none => .ok (xs.map fun x => match x.2.1 with
            | some (_, .ok pa mt e) => ⟨x.1, pa, mt, some e⟩
            | _ => ⟨x.1, x.2.2, 2, none⟩)

/-- Whether the level runs an event activation. -/
def Lvl.isEvent (l : Lvl) : Bool := ((l.act.map Act.ty).map isEventType).getD false

/-- The checks for the issuing level, with its TLB. -/
def State.checkCur (s : State) (win : Bool) (els : List El) : Checked :=
  s.check s.curKey s.curLvl.launch s.curCore.tlb s.curLvl.xl win els

/-- The issuing level waits for translations: its walks are asked for and the instruction issues again (R32, R35). -/
def State.awaitPages (s : State) (pages : List Nat) : State :=
  (pages.foldl (fun s p => s.askWalk s.curVd p (.level s.curKey s.cur.lev.val s.curLvl.acts)) s).replayWait .page

/-! ### Ropes (R122 to R128) -/

/-- The rope in a sequencer slot. Slots 0 to 3 hold the rp0 ropes of the levels. -/
def Core.ropeAt (c : Core) (slot : Nat) : Rope := AMap.get c.ropes ⟨slot, slot, 0, 0, [], [], [], false⟩ slot
/-- The core with a rope replaced. -/
def Core.setRope (c : Core) (slot : Nat) (r : Rope) : Core := { c with ropes := AMap.put c.ropes slot r }
/-- The slot of a rope by its number. -/
def Core.ropeSlot (c : Core) (uid : Nat) : Option Nat :=
  if uid < 4 then some uid else (List.find? (fun (r : Nat × Rope) => r.2.uid == uid) c.ropes).map Prod.fst
/-- The rope with a number. -/
def Core.ropeOf (c : Core) (uid : Nat) : Option Rope := (c.ropeSlot uid).map c.ropeAt

/-- The sequencer slot a rope name of a level holds; rp0 is the level's own. -/
def Lvl.slotOf (l : Lvl) (lev : Level) (name : Nat) : Option Nat := if name = 0 then some lev.val else l.rope.getD name none

/-- Whether a slot is free: never used, or its rope dropped and every operation of it performed (R124). -/
def Core.slotFree (c : Core) (slot : Nat) : Bool :=
  match AMap.find? c.ropes slot with
  | none => true
  | some r => r.dropped && !(c.ops.any fun o => o.rope == r.uid)

/-- The lowest free slot of the 60 that are not rp0's. -/
def Core.freeSlot (c : Core) : Option Nat := (tab 60 fun i => i + 4).find? c.slotFree

/-- The operations of a rope not yet performed (R124). -/
def Core.outstanding (c : Core) (uid : Nat) : Nat := (c.ops.filter fun o => o.rope == uid).length

/-- The settled count D: the operations before the first on the rope that has not performed (R128). -/
def Core.settledCount (c : Core) (uid issued : Nat) : Nat :=
  (c.ops.filter fun o => o.rope == uid).foldl (fun d o => min d o.idx) issued

/-- A new rope after others in a level's name, with its predecessors and the ADOPTs it waits for (R125). -/
def Core.makeRope (c : Core) (lev : Level) (name slot uid : Nat) (preds : List (Nat × Nat × Nat)) (adopt : List Nat) : Core :=
  let epoch := match AMap.find? c.ropes slot with
    | some r => r.epoch + 1
    | none => 0
  let c := c.setRope slot ⟨uid, lev.val, epoch, 0, preds, adopt, [], false⟩
  if name = 0 then c else c.setLvl lev { c.lvl lev with rope := (c.lvl lev).rope.set name (some slot) }

/-- A level's rope name released (R126). -/
def Core.dropName (c : Core) (lev : Level) (name : Nat) : Core :=
  match (c.lvl lev).rope.getD name none with
  | some slot =>
    let c := c.setRope slot { c.ropeAt slot with dropped := true }
    c.setLvl lev { c.lvl lev with rope := (c.lvl lev).rope.set name none }
  | none => c

/-- What comes before an operation that the first `n` operations of a rope come before: those, and what comes before them
(R120, R125). -/
def Rope.upTo (r : Rope) (n : Nat) : List (Nat × Nat) :=
  if n = 0 then []
  else (r.uid, n) :: (r.preds.filter fun q => decide (q.2.2 < n)).map fun q => (q.1, q.2.1)

/-- What comes before a rope made from this one: its operations so far and its own predecessors (R125). -/
def Rope.point (r : Rope) : List (Nat × Nat × Nat) := (r.uid, r.issued, 0) :: r.preds.map fun q => (q.1, q.2.1, 0)

/-- The points at which something has still to perform: only those can make an operation wait. -/
def Core.pending (c : Core) (pts : List (Nat × Nat)) : List (Nat × Nat) :=
  (pts.filter fun q => c.ops.any fun o => o.rope == q.1 && decide (o.idx < q.2)).eraseDups

/-- A rope whose operations from the next one on come after the given points as well. -/
def Core.after (c : Core) (r : Rope) (pts : List (Nat × Nat)) : Rope :=
  let new := (c.pending pts).filter fun q => q.1 != r.uid && !(r.preds.any fun p => p.1 == q.1 && decide (q.2 ≤ p.2.1))
  { r with preds := (r.preds.filter fun p => c.ops.any fun o => o.rope == p.1 && decide (o.idx < p.2.1)) ++
             new.map fun q => (q.1, q.2, r.issued) }

/-- Points together with others, one count for each rope. -/
def joinPoints (a b : List (Nat × Nat)) : List (Nat × Nat) :=
  b.foldl (fun a q => if a.any fun p => p.1 == q.1 && decide (q.2 ≤ p.2) then a else a.filter (fun p => p.1 != q.1) ++ [q]) a

/-- A fence of a level: what comes before the writes after it is all that the level has issued, and before every operation
after it all that comes before what follows its reads (R132). -/
def Core.fenced (c : Core) (l : Level) : Core :=
  let x := c.lvl l
  let all := (c.ops.filter fun o => o.lev == l.val).map fun o => (o.rope, o.idx + 1)
  c.setLvl l { x with fence := x.po, fenceAll := joinPoints [] all, fenceRead := c.pending x.readPts }

/-! ### Which operations wait for which -/

/-- The words an operation touches, as runs: the number of the first, and how many. A cache operation touches its line; a
multicast store touches its line until it has read it. -/
def Op.runs (o : Op) : List (Nat × Nat) :=
  match o.work with
  | .mem a => [(a.pa / 8, 1)]
  | .flag a _ => [(a.pa / 8, 1)]
  | .cinv l => [(l * 32, 32)]
  | .cflush l => [(l * 32, 32)]
  | .aread pa len _ _ _ => [(pa / 8, len / 8)]
  | .mcst _ pa line => if line.isSome then [] else [(pa / 8, 32)]
  | .mcld _ _ ls => ls.map fun x => (x.2 / 8, 32)
  | _ => []

/-- Whether two runs have a word in common. -/
def runsMeet (a b : Nat × Nat) : Bool := decide (a.1 < b.1 + b.2 ∧ b.1 < a.1 + a.2)

/-- Whether two operations touch the same word, or one is a cache operation on the other's line. -/
def Op.meets (p o : Op) : Bool := p.runs.any fun a => o.runs.any fun b => runsMeet a b

/-- Whether an operation touches a word of a line. -/
def Op.onLine (o : Op) (line : Nat) : Bool := o.runs.any fun a => runsMeet a (line * 32, 32)

/-- Whether an operation is not weak (R60, R115): AMOs and full/empty accesses never are. -/
def Op.strong (o : Op) : Bool :=
  match o.work with
  | .mem a => match a.cls with
    | .load => o.kind != .w
    | .store => o.kind != .w
    | _ => true
  | .flag _ _ => true
  | .aread _ _ _ _ _ => true
  | _ => false

/-- Whether an operation is a release on its rope (R61, R131, R134, R138, R140, R145, R360, R361, R436). -/
def Op.releases (o : Op) : Bool :=
  match o.work with
  | .mem a => o.kind == .rel || o.kind == .ar || a.pushes
  | .flag _ _ => true
  | .message _ _ => true
  | .spawn _ _ => true
  | .post _ _ => true
  | .mcst _ _ _ => true
  | .mcld _ _ _ => true
  | .tret => true
  | _ => false

/-- Whether later operations of its rope wait for an operation: an acquire (R130, R131), or a push while the queue holds 64
records (R406). -/
def Core.holdsRope (c : Core) (o : Op) : Bool :=
  match o.work with
  | .mem a => o.kind == .acq || o.kind == .ar || (a.pushes && decide (64 ≤ c.mx.queue.length))
  | _ => false

/-- Whether a class of access has a value to obtain (R121, R132). -/
def AccClass.reads : AccClass → Bool
  | .store => false
  | .fe .ef => false
  | .fe .xf => false
  | _ => true

/-- Whether an operation reads memory and has not got its value (R121, R132): a multicast store reads its line as it
leaves. -/
def Op.isRead (o : Op) : Bool :=
  match o.work, o.st with
  | _, .kept _ => false
  | .mem a, _ => a.cls.reads
  | .aread _ _ _ _ _, _ => true
  | .mcld _ _ _, _ => true
  | .mcst _ _ line, _ => line.isNone
  | _, _ => false

/-- Whether an operation writes memory (R121, R132). -/
def Op.isWrite (o : Op) : Bool :=
  match o.work with
  | .mem a => match a.cls with
    | .load => false
    | .feq => false
    | _ => true
  | .flag _ _ => true
  | .mcst _ _ _ => true
  | _ => false

/-- The node that owns what an operation touches, as a number. -/
def Op.home (o : Op) : Option Nat :=
  match o.work with
  | .mem a => let u := ownerOf a.pa; some (nodeKey u.chip u.node)
  | .flag a _ => let u := ownerOf a.pa; some (nodeKey u.chip u.node)
  | _ => none

/-- A later write on a FENCEF's rope to the flag's node waits for the flag (R134). -/
def Op.flagHolds (p o : Op) : Bool :=
  match p.work with
  | .flag _ _ => o.isWrite && p.home == o.home
  | _ => false

/-- A write of a FENCEF's own rope to the flag's node: the marker counts it and leaves without waiting for it (R135). -/
def Op.counted (p o : Op) : Bool :=
  match p.work, o.work with
  | .mem _, .flag _ _ => p.rope == o.rope && p.isWrite && p.home == o.home
  | _, _ => false

/-- Whether `p` comes before `o` on `o`'s rope: earlier on it, or among the operations its making put before it (R125). -/
def Core.ropeBefore (c : Core) (p o : Op) : Bool :=
  (p.rope == o.rope && decide (p.po < o.po)) ||
    (match c.ropeOf o.rope with
     | some r => r.preds.any fun q => q.1 == p.rope && decide (p.idx < q.2.1 ∧ q.2.2 ≤ o.idx)
     | none => false)

/-- Whether `o` waits for `p`, leaving aside operations on one word of one rope. -/
def Core.waitsFor (c : Core) (o p : Op) : Bool :=
  let before := c.ropeBefore p o
  let early := p.lev == o.lev && decide (p.po < o.po)
  (before && ((o.releases && !p.counted o) || c.holdsRope p || p.flagHolds o)) ||
    (early && o.strong && p.strong && p.meets o) ||
    (early && o.isWrite && p.isRead) ||
    (p.lev == o.lev && decide (p.po < o.fence) && (o.isWrite || p.isRead))

/-- Whether `o` waits for `p` because both touch one word and `p` is earlier on the rope (R120, R123). -/
def Core.wordWaits (c : Core) (o p : Op) : Bool := c.ropeBefore p o && p.meets o

/-- Whether a rope waits for an ADOPT's answer, or for a TRET (R128, R436). -/
def Core.adopting (c : Core) (uid : Nat) : Bool :=
  match c.ropeOf uid with
  | some r => !r.adopt.isEmpty
  | none => false

/-- Whether an operation waits for an ADOPT's answer, or for a TRET: its rope does, or that of an operation before it (R128, R436). -/
def Core.adoptHeld (c : Core) (o : Op) : Bool :=
  c.adopting o.rope || c.ops.any fun p => p.id != o.id && c.ropeBefore p o && c.adopting p.rope

/-- Whether an operation may go as far as the order between operations on different words says. -/
def Core.mayGo (c : Core) (o : Op) : Bool :=
  !c.adoptHeld o && !(c.ops.any fun p => p.id != o.id && c.waitsFor o p)

/-- Whether an operation may go. -/
def Core.clearToGo (c : Core) (o : Op) : Bool :=
  c.mayGo o && !(c.ops.any fun p => p.id != o.id && c.wordWaits o p)

/-! ### L1 (R57 to R61) -/

/-- The core's copy of a line. -/
def Core.l1Find (c : Core) (line : Nat) : Option L1Line := c.l1.find? fun l => l.addr == line

/-- The core without its copy of a line; a fill of the line on its way is not kept (R60, R367). -/
def Core.l1Drop (c : Core) (line : Nat) : Core :=
  { c with l1 := c.l1.filter (fun l => l.addr != line),
           ops := c.ops.map fun o => if o.onLine line then { o with epoch := none } else o }

/-- The core with L1 emptied; no fill on its way is kept (R59, R61). -/
def Core.l1Empty (c : Core) : Core := { c with l1 := [], epoch := c.epoch + 1 }

/-- The lines of L1 in a line's set. -/
def Core.l1Set (c : Core) (line : Nat) : List Nat := (c.l1.map L1Line.addr).filter fun x => x % 16 == line % 16

/-- The core that has used a line of its L1 (R57). -/
def Core.l1Hit (c : Core) (line : Nat) : Core :=
  let mine := fun (x : Nat) => x % 16 == line % 16
  { c with l1Use := (c.l1Use.filter fun x => !mine x) ++ nruUse (c.l1Set line) (c.l1Use.filter mine) line }

/-- The core with a line filled. A full set loses a line not recently used (R57). -/
def Core.l1Fill (c : Core) (l : L1Line) (pick : Nat) : Core :=
  let rest := c.l1.filter fun x => x.addr != l.addr
  let same := (c.l1Set l.addr).filter (· != l.addr)
  let rest := if same.length < 4 then rest else rest.filter fun x => some x.addr != nruVictim same c.l1Use pick
  { c with l1 := rest ++ [l] }.l1Hit l.addr

/-- A drained store written through to the core's copy of its line (R58); a fill of the line on its way is not kept. A store
of 8 bytes is new data for a word that held an error (R65). A store to a page that L1 does not hold acts towards L1 as a
strong one does (R29). -/
def Core.l1Write (c : Core) (a : Acc) : Core :=
  let line := a.pa / 256
  if a.mt ≠ 0 then c.l1Drop line else
  let off := a.pa % 256
  let new := fun (old : List Byte) =>
    let o := leNat (old.drop off |>.take a.size)
    let v := (a.data &&& a.mask) ||| (BitVec.ofNat 64 o &&& ~~~a.mask)
    old.take off ++ leBytes a.size v.toNat ++ old.drop (off + a.size)
  let bad := fun (ws : List Nat) => if a.size = 8 ∧ a.mask = -1 then ws.filter (· != a.pa / 8) else ws
  { c with l1 := c.l1.map (fun l => if l.addr = line then { l with data := new l.data, bad := bad l.bad } else l),
           ops := c.ops.map fun o => if o.onLine line then { o with epoch := none } else o }

/-! ### Packets (R98, R104) -/

/-- Sends a packet: within a cluster over its crossbar, else through the fabric (R46). -/
def State.sendPkt (s : State) (src dst : UnitId) (vd : Nat) (plane : Plane) (last : Nat) (p : Payload) : State :=
  let here := src.chip = dst.chip ∧ src.node = dst.node
  { s with nextId := s.nextId + 1,
           pkts := s.pkts ++ [⟨s.nextId, src, dst, vd, plane, last, p, if here then .arrived else .outbox 0, 0, 0, 0⟩] }

/-- An operation's answer made in its own core, for a load that performs there (R117). -/
def State.selfAnswer (s : State) (k : Nat) (o : Op) (status : Nat) (data : Word) : State :=
  s.sendPkt (coreUnit k) (coreUnit k) (s.core k).owner .control 0 (.resp o.id status data none)

/-- The state with an operation of a core changed. -/
def State.updOp (s : State) (k id : Nat) (f : Op → Op) : State :=
  s.updCore k fun c => { c with ops := c.ops.map fun o => if o.id = id then f o else o }

/-- Whether a core's operations leave it: its virtual device runs, and its context is not being saved (R199, R255). -/
def State.sendsNow (s : State) (k : Nat) : Bool :=
  match s.vdev? (s.core k).owner with
  | some v => v.running && decide (v.step < 6)
  | none => true

/-- The state with an operation gone, and with it what waited only for it: a load that took its value from the store. -/
def State.dropOp (s : State) (k id : Nat) : State :=
  s.updCore k fun c => { c with ops := c.ops.filter fun o => o.id != id && o.st != .kept id }

/-- The chip's group table entry of a group, word by word (R106). -/
def State.groupEntry (s : State) (chip g : Nat) : List Word := AMap.get (s.chip chip).groups (List.replicate 8 0) g

/-- The entry of a group that multicasts in flight follow on a chip: the one from before a change (R107). -/
def State.treeEntry (s : State) (chip g : Nat) : List Word := (AMap.find? (s.chip chip).kept g).getD (s.groupEntry chip g)

/-- Whether a multicast of a group is in flight: its root holds the group (R111). -/
def State.mcFlying (s : State) (g : Nat) : Bool := List.any s.clus fun (c : Nat × Cluster) => (AMap.find? c.2.root g).isSome

/-- A group entry changed, for the next multicast only (R107); `none` makes it invalid. -/
def State.setGroupEntry (s : State) (chip g : Nat) (e : Option (List Word)) : State :=
  let keep := s.mcFlying g && (AMap.find? (s.chip chip).kept g).isNone
  let old := s.groupEntry chip g
  s.updChip chip fun c => { c with kept := if keep then AMap.put c.kept g old else c.kept,
                                   groups := match e with
                                     | some e => AMap.put c.groups g e
                                     | none => AMap.del c.groups g }

/-- The chip that a direction leads to: 0 +X, 1 −X, 2 +Y, 3 −Y, 4 +Z, 5 −Z (R80). -/
def neighbour (chip dir : Nat) : Nat :=
  let step := fun v => if dir % 2 = 0 then (v + 1) % 8 else (v + 7) % 8
  match dir / 2 with
  | 0 => chip / 8 * 8 + step (chip % 8)
  | 1 => chip / 64 * 64 + step (chip / 8 % 8) * 8 + chip % 8
  | _ => step (chip / 64) * 64 + chip % 64

/-- The root of a group seen from a chip through at most `fuel` chips: ROOT of the chip's own entry where its UP is 7, else the root
seen from the neighbour that UP names (R106, R111, R487). -/
def State.rootFrom (s : State) (g vd : Nat) : Nat → Nat → Option UnitId
  | 0, _ => none
  | fuel + 1, chip =>
    let w := ((s.treeEntry chip g).getD 0 0).toNat
    if fld w 63 1 ≠ 1 ∨ fld w 47 16 ≠ vd then none
    else if fld w 44 3 = 7 then some ⟨chip, fld w 34 10, 13⟩
    else s.rootFrom g vd fuel (neighbour chip (fld w 44 3))

/-- The root of a group seen from a chip, each chip of the way having an entry. -/
def State.groupRoot (s : State) (chip g vd : Nat) : Option UnitId := s.rootFrom g vd s.chips.length chip

/-- The data flit of a multicast store leaves for its root, or, without one, for the router of its own node (R111). -/
def State.sendMcst (s : State) (k : Nat) (m : Mcast) (data : List Byte) (op : Nat) : State :=
  let vd := (s.core k).owner
  s.sendPkt (coreUnit k) ((s.groupRoot (keyChip k) m.group vd).getD ⟨keyChip k, keyNode k, 13⟩) vd .data 0 (.mcst m data op)

/-- The line of a multicast store read at its own scratchpad's port, and sent; a line with an uncorrectable error is answered ECC
(R65, R360). A read that waits for its turn, for the waiters of a word, or for the end of a copy of the port is tried again (R51,
R71, R442). -/
def State.readMcst (s : State) (k : Nat) (o : Op) (m : Mcast) (pa : Nat) : State :=
  let vd := (s.core k).owner
  if s.copying (coreUnit k) || !s.unitTurn (coreUnit k) 0 || s.owed pa 256 then s.updOp k o.id fun o => { o with st := .backoff s.now }
  else
    let s := (s.trace { pa := pa, size := 256, cls := .load, vd := vd, src := coreUnit k, rope := o.name }).portServed (coreUnit k) 0
    if s.badRun pa 256 then s.sendPkt (coreUnit k) (coreUnit k) vd .control 0 (.resp o.id 4 0 none)
    else
      let data := s.peekBytes pa 256
      let s := (tab 32 id).foldl (fun (s : State) i => s.correct (pa + 8 * i)) s
      (s.updOp k o.id fun o => { o with work := .mcst m pa (some data) }).sendMcst k m data o.id

/-- The core whose ropes no longer wait for an ADOPT or a TRET (R128, R436). -/
def Core.adopted (c : Core) (id : Nat) : Core :=
  { c with ropes := c.ropes.map fun (r : Nat × Rope) => (r.1, { r.2 with adopt := r.2.adopt.filter (· != id) }) }

/-- The packet of an operation leaves its core. A message that is sent again goes to the slot that its issue found (R21, R353; DEDUCED,
log entry 141). -/
def State.sendOp (s : State) (k : Nat) (o : Op) : State :=
  let vd := (s.core k).owner
  let me := coreUnit k
  let out := fun (s : State) (d : UnitId) (pl : Plane) (p : Payload) => s.sendPkt me d vd pl 0 p
  let s := s.updOp k o.id fun o => { o with st := .sent }
  match o.work with
  | .mem a =>
    let cls := a.cls
    let line := a.pa / 256
    let s := if mappedPa a.pa && o.strong && cls != .load && cls != .feq then s.updCore k fun c => c.l1Drop line else s
    let left := fun (p : Op) => p.st != .held && p.st != .awaiting && p.st != .buffered
    let busy := (s.core k).ops.any fun p => left p && p.isWrite && p.onLine line
    let fill := cls == .load && !o.strong && mappedPa a.pa && a.mt == 0 && !busy
    let s := s.updOp k o.id fun o => { o with epoch := if fill then some (s.core k).epoch else none }
    out s (ownerOf a.pa) (if cls == .amo .cas then .data else .control) (.access { a with fill := fill } o.id)
  | .flag a n => out (s.updCore k fun c => c.l1Drop (a.pa / 256)) (ownerOf a.pa) .control (.marker a o.id n)
  | .cinv line => (s.updCore k fun c => c.l1Drop line).dropOp k o.id
  | .cflush line => out s (ownerOf (line * 256)) .control (.flush line o.id)
  | .message m t =>
    out s t (if m.code.isNone && decide (m.args.length ≤ 2) then .control else .data) (.message m o.id)
  | .spawn m t => out s t .data (.message m o.id)
  | .adopt h _ => out s ⟨fld h.toNat 39 9, fld h.toNat 29 10, fld h.toNat 25 4⟩ .control (.adopt h o.id)
  | .aread pa len _ _ _ => out s (ownerOf pa) .control (.aread pa len o.id)
  | .post p _ =>
    let n := match s.vdev? vd with
      | some v => v.place (p.key % v.clusters)
      | none => (keyChip k, keyNode k)
    out s ⟨n.1, n.2, 12⟩ .control (.post p o.id)
  | .mcst m pa line => match line with
    | some data => s.sendMcst k m data o.id
    | none => s.readMcst k o m pa
  | .mcld m pa ls => out s (ownerOf pa) .control (.mcldReq m pa ls o.id)
  | .tret => (s.dropOp k o.id).updCore k fun c => c.adopted o.id

/-! ### Letting held operations go -/

/-- The distinct entries that the store buffer's operations take: 64 bytes of one instruction each (R58). -/
def Core.bufferEntries (c : Core) : Nat :=
  ((c.ops.filter fun o => o.st == .buffered).map fun o => (o.lev, o.po, o.runs.map (·.1 / 8))).eraseDups.length

/-- Whether store `p` covers every byte of access `a`. -/
def Op.covers (p : Op) (a : Acc) : Bool :=
  match p.work with
  | .mem b => b.cls == .store && b.mask == -1 && decide (b.pa ≤ a.pa ∧ a.pa + a.size ≤ b.pa + b.size)
  | _ => false

/-- The bytes of `a` in the store `p`. -/
def Op.bytesFor (p : Op) (a : Acc) : Word :=
  match p.work with
  | .mem b => BitVec.ofNat 64 (b.data.toNat / 2 ^ (8 * (a.pa - b.pa)) % 2 ^ (8 * a.size))
  | _ => 0

/-- The store on its way to its owner whose bytes a load finds in L1 (R58, R120). -/
def Core.flyingStore (c : Core) (o : Op) : Option Op :=
  (c.ops.filter fun p => decide (p.id < o.id) && p.isWrite && p.meets o &&
    (p.st != .held && p.st != .awaiting && p.st != .buffered)).getLast?

/-- A weak load goes: from the store buffer when it finds its bytes there, from L1 on a hit, else to its owner (R58, R59,
R117). What it takes from a store that has not performed, its rope goes on after (R120). A scratchpad word is read at its port only
(R52). -/
def State.goLoad (s : State) (k : Nat) (o : Op) (a : Acc) : State :=
  let c := s.core k
  let mine := c.ops.filter fun p => p.id != o.id && c.wordWaits o p
  let buffered := c.ops.filter fun p => p.st == .buffered && p.covers a && decide (p.id < o.id)
  match mine.getLast? with
  | some p =>
    if p.st == .buffered && p.covers a && mappedPa a.pa then (s.updOp k o.id fun o => { o with st := .sent }).selfAnswer k o 0 (p.bytesFor a)
    else s
  | none =>
    match (if mappedPa a.pa then buffered.getLast? else none) with
    | some p => (s.updOp k o.id fun o => { o with st := .taking p.id }).selfAnswer k o 0 (p.bytesFor a)
    | none =>
      match (if mappedPa a.pa && a.mt == 0 then c.l1Find (a.pa / 256) else none) with
      | some l =>
        let s := (s.updOp k o.id fun o => { o with st := ((c.flyingStore o).map fun p => .taking p.id).getD .sent }).updCore k fun c =>
          c.l1Hit l.addr
        if l.bad.contains (a.pa / 8) then s.selfAnswer k o 4 0
        else s.selfAnswer k o 0 (BitVec.ofNat 64 (leNat (l.data.drop (a.pa % 256) |>.take a.size)))
      | none => s.sendOp k o

/-- A held operation goes if the ordering rules let it: a weak store into the store buffer, another to its owner. -/
def State.tryOp (s : State) (k id : Nat) : State :=
  let c := s.core k
  match c.ops.find? fun o => o.id == id with
  | none => s
  | some o =>
    if o.st != .held then s
    else match o.work with
      | .mem a =>
        match a.cls, o.kind with
        | .load, .w => if c.mayGo o then s.goLoad k o a else s
        | .store, .w =>
          if c.clearToGo o then
            if 2 ^ 56 ≤ a.pa then s.sendOp k o
            else
              let s' := s.updOp k id fun o => { o with st := .buffered }
              if (s'.core k).bufferEntries ≤ 16 then s' else s
          else s
        | _, _ => if c.clearToGo o then s.sendOp k o else s
      | .post _ _ => s                                      -- POST_SEND sends it (R180)
      | _ => if c.clearToGo o then s.sendOp k o else s

/-- Whether a level's wait is over as far as its own core's operations say, and the core then (R125, R132, R133). -/
def Core.settleLvl (c : Core) (l : Level) : Core :=
  let x := c.lvl l
  match x.wait with
  | .ropeWait uid =>
    if c.ops.any fun o => o.rope == uid then c else c.setLvl l { x with wait := .ready }
  | .fence po all acq =>
    if c.ops.any fun o => o.lev == l.val && decide (o.po < po) && (all || o.isRead) then c
    else
      let c := c.setLvl l { x with wait := .ready }
      if acq then c.l1Empty else c
  | .coll id => if c.colls.any fun k => k.id == id then c else c.setLvl l { x with wait := .ready }
  | _ => c

/-- Every level's wait settled. -/
def Core.settle (c : Core) : Core := (((c.settleLvl 0).settleLvl 1).settleLvl 2).settleLvl 3

/-- Lets every held operation of a core go that may, in order of issue, and ends the waits that are over. -/
def State.pump (s : State) (k : Nat) : State :=
  let ids := ((s.core k).ops.filter fun o => o.st == .held).map Op.id
  let s := ids.foldl (fun s id => s.tryOp k id) s
  s.updCore k Core.settle

/-! ### Issuing operations -/

/-- The issuing level's fields of an operation. -/
structure Ask where
  slot  : Nat               -- sequencer slot of the rope
  name  : Nat               -- rope name
  kind  : Kind
  scope : Scope
  deriving DecidableEq, Repr

/-- One operation to issue. -/
structure Item where
  va   : Word
  work : Work
  dest : Dest := .drop
  xl   : Option TlbEntry := none
  st   : OpState := .held
  deriving DecidableEq, Repr

/-- What the level's last fence, and its earlier non-weak accesses to the words of a non-weak operation, put before the
operation, written into its rope (R120, R123, R132). -/
def Core.strongAfter (c : Core) (l : Level) (slot : Nat) (o : Op) : Core :=
  let x := c.lvl l
  let r := c.after (c.ropeAt slot) (if o.isWrite then x.fenceAll else x.fenceRead)
  let same := fun (e : (Nat × Nat) × List (Nat × Nat)) => o.runs.any fun w => runsMeet w e.1
  c.setRope slot (if o.strong then c.after r ((x.strongs.filter same).flatMap Prod.snd) else r)

/-- The counts of a rope's writes by node once an operation is issued on it (R135). -/
def Op.counts (o : Op) (m : AMap Nat) : AMap Nat :=
  match o.work, o.home with
  | .flag _ _, some n => AMap.del m n
  | .mem _, some n => if o.isWrite then AMap.put m n (AMap.get m 0 n + 1) else m
  | _, _ => m

/-- The core with an operation issued on a rope. A non-weak one is what later non-weak ones of the level to its words come
after (R123). -/
def Core.addTo (c : Core) (l : Level) (slot : Nat) (o : Op) : Core :=
  let r := c.ropeAt slot
  let r := { r with issued := r.issued + 1, wrote := o.counts r.wrote }
  let c := { c.setRope slot r with ops := c.ops ++ [o] }
  let x := c.lvl l
  let x := if o.isRead then { x with readPts := joinPoints (c.pending x.readPts) (r.upTo r.issued) } else x
  let old := (x.strongs.filter fun e => !(o.runs.contains e.1)).map fun e => (e.1, c.pending e.2)
  c.setLvl l (if o.strong then
    { x with strongs := (old.filter fun e => !e.2.isEmpty) ++ o.runs.map fun w => (w, r.upTo r.issued) } else x)

/-- The core with an operation of a level issued on the rope of a slot. -/
def Core.issueOp (c : Core) (l : Level) (slot : Nat) (o : Op) : Core := ((c.strongAfter l slot o).tlbHit o.xl).addTo l slot o

/-- The operation of one instruction on the issuing level, numbered on its rope and in program order. Ids count up from
`State.nextId`. -/
def State.addOp (s : State) (a : Ask) (it : Item) : State :=
  let k := s.curKey
  let l := s.cur.lev
  let x := s.curLvl
  let r := (s.core k).ropeAt a.slot
  let o : Op := { id := s.nextId, lev := l.val, act := x.acts, launch := x.launch, po := x.po, rope := r.uid, name := a.name,
                  idx := r.issued, kind := a.kind, scope := a.scope, pc := x.ipc, va := it.va, work := it.work,
                  dest := it.dest, st := it.st, fence := x.fence, xl := it.xl, ev := x.isEvent }
  { s.updCore k (fun c => c.issueOp l a.slot o) with nextId := s.nextId + 1 }

/-- Issues the operations of one instruction, in order: they share its place in program order. -/
def State.addOps (s : State) (a : Ask) (its : List Item) : State :=
  let s := its.foldl (fun s it => s.addOp a it) s
  s.setCurLvl { s.curLvl with po := s.curLvl.po + 1 }

/-- The access of a placed element for the issuing level. -/
def State.accOf (s : State) (a : Ask) (p : Placed) : Acc :=
  { pa := p.pa, size := p.el.size, cls := p.el.cls, data := p.el.data, data2 := p.el.data2, mask := p.el.mask,
    kind := a.kind, mt := p.mt, vd := s.curVd, src := coreUnit s.curKey, rope := a.name,
    uid := (s.curCore.ropeAt a.slot).uid, fcr := s.curLvl.fcr }

/-- Adds a register's interlock (R270); older outstanding results of it are superseded. -/
def Lvl.lock (l : Lvl) (r : Reg) (id : Nat) : Lvl :=
  if r = .x 0 then l else { l.forget r with ilock := l.ilock ++ [(r, id)] }

/-- Whether the rope has room for `n` operations more (R124). -/
def Core.ropeRoom (c : Core) (slot n : Nat) : Bool := decide (c.outstanding (c.ropeAt slot).uid + n ≤ 2048)

/-- The rope of a format-M word: rp0, or the rope its prefix names (R273, R274). ILLEGAL when the name holds no rope. -/
def State.ropeM (s : State) (rsel : Bool) : Nat × Option Nat :=
  let name := if rsel then s.curLvl.pfx.getD 0 else 0
  (name, s.curLvl.slotOf s.cur.lev name)

/-- One scalar access: the tag, the checks, and the operation on its rope (R340 to R343). `win` admits the matrix queue
window (R405); the word has `n` bytes. -/
def State.scalarAccess (s : State) (n : Nat) (rsel : Bool) (kind : Kind) (sc : Scope) (win : Bool) (el : El) (dest : Dest) : State :=
  match s.ropeM rsel with
  | (name, none) => s.raise Cause.illegal (BitVec.ofNat 64 name) 0
  | (name, some slot) =>
    if !tagOk el.va then s.raise Cause.fmtBad el.va el.va
    else match s.checkCur win [el] with
      | .fail c v a => s.raise c v a
      | .wait pages => s.awaitPages pages
      | .ok ps =>
        match ps with
        | p :: _ =>
          if !s.curCore.ropeRoom slot 1 then s.replay
          else
            let a : Ask := ⟨slot, name, kind, sc⟩
            let lock := match dest with
              | .reg r _ _ => fun (x : Lvl) => x.lock (.x r) s.nextId
              | _ => fun x => x
            let s := s.addOps a [⟨el.va, .mem (s.accOf a p), dest, p.xl, .held⟩]
            let s := s.setCurLvl { lock s.curLvl with xl := [] }
            (s.retire n id).pump s.curKey
        | [] => s

end Sys2Proof.Machine
end

