-- ==== Sys2Proof/Machine/Scalar.lean ====
section
/-! DEFINITION. The pointer instructions (R12 to R14), register and immediate arithmetic (R306 to R311), bit fields (R312,
R313), multiply and divide (R314, R315), and the compact forms that compute (R275). -/

namespace Sys2Proof.Machine

/-- A register result of latency 1 of a word of `n` bytes. -/
def State.alu (s : State) (n : Nat) (rd : XReg) (v : Lvl → Word) : State := s.retire n fun l => l.wx rd (v l)

/-- A compact field as a register, x0 to x15 (R275, R312). -/
def x4 (r : BitVec 4) : XReg := r.setWidth 5

/-- 1 for true. -/
def flag01 (b : Bool) : Word := if b then 1 else 0

/-! ### Pointers -/

/-- A pointer moved by a signed offset, its tag kept: none when it leaves the 57-bit range (R13). -/
def movePtr (p : Word) (d : Int) : Option Word :=
  let a : Int := (p.toNat % 2 ^ 57 : Nat) + d
  if a < 0 ∨ 2 ^ 57 ≤ a then none else some (BitVec.ofNat 64 (p.toNat / 2 ^ 57 * 2 ^ 57 + a.toNat))

/-- PADD and PSUB: PTR_OVF leaves rd unwritten and records the source pointer (R13). -/
def State.ptrMove (s : State) (ra rd : XReg) (d : Int) : State :=
  let p := s.curLvl.rx ra
  match movePtr p d with
  | some q => s.alu 4 rd fun _ => q
  | none => s.raise Cause.ptrOvf p 0

/-- PADD (R13). -/
def execPadd (rb ra rd : XReg) (s : State) : Outc := .next (s.ptrMove ra rd (s.curLvl.rx rb).toInt)
/-- PSUB (R13). -/
def execPsub (rb ra rd : XReg) (s : State) : Outc := .next (s.ptrMove ra rd (-(s.curLvl.rx rb).toInt))
/-- PTAG (R13). -/
def execPtag (rb ra rd : XReg) (s : State) : Outc :=
  .next (s.alu 4 rd fun l => ((l.rx rb).setWidth 7 ++ (l.rx ra).setWidth 57 : BitVec 64))
/-- PGET (R13). -/
def execPget (ra rd : XReg) (s : State) : Outc := .next (s.alu 4 rd fun l => l.rx ra >>> 57)
/-- PSTRIP (R13). -/
def execPstrip (ra rd : XReg) (s : State) : Outc := .next (s.alu 4 rd fun l => ((l.rx ra).setWidth 57).setWidth 64)

/-! ### Operators (R308) -/

/-- The shift amount: bits [5:0]. -/
def amt6 (b : Word) : Nat := b.toNat % 64

/-- Leading zero bits, 64 for zero. -/
def clz64 (a : Word) : Nat := 64 - bitLen a.toNat
/-- The lowest set bit among the `n` from `i` up, or 64. -/
def lowBit (a : Word) : Nat → Nat → Nat
  | 0, _ => 64
  | n + 1, i => if a.getLsbD i then i else lowBit a n (i + 1)
/-- Trailing zero bits, 64 for zero. -/
def ctz64 (a : Word) : Nat := lowBit a 64 0
/-- Set bits of the lowest `n`. -/
def popCount (a : Nat) : Nat → Nat
  | 0 => 0
  | n + 1 => a % 2 + popCount (a / 2) n

/-- ADD (R308). -/
def execAdd (rb ra rd : XReg) (s : State) : Outc := .next (s.alu 4 rd fun l => l.rx ra + l.rx rb)
/-- SUB (R308). -/
def execSub (rb ra rd : XReg) (s : State) : Outc := .next (s.alu 4 rd fun l => l.rx ra - l.rx rb)
/-- AND (R308). -/
def execAnd (rb ra rd : XReg) (s : State) : Outc := .next (s.alu 4 rd fun l => l.rx ra &&& l.rx rb)
/-- OR (R308). -/
def execOr (rb ra rd : XReg) (s : State) : Outc := .next (s.alu 4 rd fun l => l.rx ra ||| l.rx rb)
/-- XOR (R308). -/
def execXor (rb ra rd : XReg) (s : State) : Outc := .next (s.alu 4 rd fun l => l.rx ra ^^^ l.rx rb)
/-- SHL (R308). -/
def execShl (rb ra rd : XReg) (s : State) : Outc := .next (s.alu 4 rd fun l => l.rx ra <<< amt6 (l.rx rb))
/-- SHR (R308). -/
def execShr (rb ra rd : XReg) (s : State) : Outc := .next (s.alu 4 rd fun l => l.rx ra >>> amt6 (l.rx rb))
/-- SRA (R308). -/
def execSra (rb ra rd : XReg) (s : State) : Outc := .next (s.alu 4 rd fun l => (l.rx ra).sshiftRight (amt6 (l.rx rb)))
/-- ROT (R308). -/
def execRot (rb ra rd : XReg) (s : State) : Outc := .next (s.alu 4 rd fun l => (l.rx ra).rotateLeft (amt6 (l.rx rb)))
/-- SLT (R308). -/
def execSlt (rb ra rd : XReg) (s : State) : Outc := .next (s.alu 4 rd fun l => flag01 ((l.rx ra).slt (l.rx rb)))
/-- SLTN (R308). -/
def execSltn (rb ra rd : XReg) (s : State) : Outc := .next (s.alu 4 rd fun l => flag01 ((l.rx ra).ult (l.rx rb)))
/-- MIN (R308). -/
def execMin (rb ra rd : XReg) (s : State) : Outc :=
  .next (s.alu 4 rd fun l => if (l.rx ra).slt (l.rx rb) then l.rx ra else l.rx rb)
/-- MAX (R308). -/
def execMax (rb ra rd : XReg) (s : State) : Outc :=
  .next (s.alu 4 rd fun l => if (l.rx ra).slt (l.rx rb) then l.rx rb else l.rx ra)
/-- MINN (R308). -/
def execMinn (rb ra rd : XReg) (s : State) : Outc :=
  .next (s.alu 4 rd fun l => if (l.rx ra).ult (l.rx rb) then l.rx ra else l.rx rb)
/-- MAXN (R308). -/
def execMaxn (rb ra rd : XReg) (s : State) : Outc :=
  .next (s.alu 4 rd fun l => if (l.rx ra).ult (l.rx rb) then l.rx rb else l.rx ra)
/-- SEL reads rd as a third source (R308, R309). -/
def execSel (rb ra rd : XReg) (s : State) : Outc :=
  .next (s.alu 4 rd fun l => if l.rx rd ≠ 0 then l.rx ra else l.rx rb)
/-- CLZ (R308, R309). -/
def execClz (ra rd : XReg) (s : State) : Outc := .next (s.alu 4 rd fun l => BitVec.ofNat 64 (clz64 (l.rx ra)))
/-- CTZ (R308, R309). -/
def execCtz (ra rd : XReg) (s : State) : Outc := .next (s.alu 4 rd fun l => BitVec.ofNat 64 (ctz64 (l.rx ra)))
/-- POPC (R308). -/
def execPopc (ra rd : XReg) (s : State) : Outc :=
  .next (s.alu 4 rd fun l => BitVec.ofNat 64 (popCount (l.rx ra).toNat 64))
/-- BREV (R308). -/
def execBrev (ra rd : XReg) (s : State) : Outc := .next (s.alu 4 rd fun l => (l.rx ra).reverse)

/-! ### Immediates (R310, R311) -/

/-- ADDI (R310). -/
def execAddi (imm : BitVec 12) (ra rd : XReg) (s : State) : Outc := .next (s.alu 4 rd fun l => l.rx ra + imm.signExtend 64)
/-- ANDI (R310). -/
def execAndi (imm : BitVec 12) (ra rd : XReg) (s : State) : Outc := .next (s.alu 4 rd fun l => l.rx ra &&& imm.setWidth 64)
/-- ORI (R310). -/
def execOri (imm : BitVec 12) (ra rd : XReg) (s : State) : Outc := .next (s.alu 4 rd fun l => l.rx ra ||| imm.setWidth 64)
/-- XORI (R310). -/
def execXori (imm : BitVec 12) (ra rd : XReg) (s : State) : Outc := .next (s.alu 4 rd fun l => l.rx ra ^^^ imm.setWidth 64)
/-- SLTI (R310). -/
def execSlti (imm : BitVec 12) (ra rd : XReg) (s : State) : Outc :=
  .next (s.alu 4 rd fun l => flag01 ((l.rx ra).slt (imm.signExtend 64)))
/-- SHLI (R310). -/
def execShli (amt : BitVec 6) (ra rd : XReg) (s : State) : Outc := .next (s.alu 4 rd fun l => l.rx ra <<< amt.toNat)
/-- SHRI (R310). -/
def execShri (amt : BitVec 6) (ra rd : XReg) (s : State) : Outc := .next (s.alu 4 rd fun l => l.rx ra >>> amt.toNat)
/-- SRAI (R310). -/
def execSrai (amt : BitVec 6) (ra rd : XReg) (s : State) : Outc := .next (s.alu 4 rd fun l => (l.rx ra).sshiftRight amt.toNat)
/-- ROTI (R310). -/
def execRoti (amt : BitVec 6) (ra rd : XReg) (s : State) : Outc := .next (s.alu 4 rd fun l => (l.rx ra).rotateLeft amt.toNat)
/-- LUI (R310). -/
def execLui (imm : BitVec 17) (rd : XReg) (s : State) : Outc := .next (s.alu 4 rd fun _ => imm.signExtend 64 <<< 12)
/-- ADDPC: A is the instruction's own address, in inbox code its inbox form, as the PC holds it (R310, R311). -/
def execAddpc (imm : BitVec 17) (rd : XReg) (s : State) : Outc :=
  .next (s.alu 4 rd fun l => l.pc + (imm.signExtend 64 <<< 12))

/-! ### Bit fields (R313) -/

/-- BitTake (R313). -/
def bitTake (o w : Nat) : Nat := if w = 0 ∨ 64 ≤ o then 0 else min w (64 - o)

/-- BXTN of a value. -/
def bxtnOf (a : Word) (o w : Nat) : Word := BitVec.ofNat 64 (a.toNat / 2 ^ o % 2 ^ bitTake o w)
/-- BXT of a value: sign-extended from bit t − 1. -/
def bxtOf (a : Word) (o w : Nat) : Word :=
  let t := bitTake o w
  let v := a.toNat / 2 ^ o % 2 ^ t
  if t = 0 then 0 else if v < 2 ^ (t - 1) then BitVec.ofNat 64 v else BitVec.ofInt 64 ((v : Int) - 2 ^ t)
/-- BINS of a value into another. -/
def binsOf (old a : Word) (o w : Nat) : Word :=
  let m := BitVec.ofNat 64 ((2 ^ bitTake o w - 1) * 2 ^ o)
  (old &&& ~~~m) ||| ((a <<< o) &&& m)

/-- BXT (R313). -/
def execBxt (width off : BitVec 6) (ra rd : BitVec 4) (s : State) : Outc :=
  .next (s.alu 4 (x4 rd) fun l => bxtOf (l.rx (x4 ra)) off.toNat width.toNat)
/-- BXTN (R313). -/
def execBxtn (width off : BitVec 6) (ra rd : BitVec 4) (s : State) : Outc :=
  .next (s.alu 4 (x4 rd) fun l => bxtnOf (l.rx (x4 ra)) off.toNat width.toNat)
/-- BINS; with no bit taking part it creates no result (R313). -/
def execBins (width off : BitVec 6) (ra rd : BitVec 4) (s : State) : Outc :=
  .next (if bitTake off.toNat width.toNat = 0 then s.retire 4 id
    else s.alu 4 (x4 rd) fun l => binsOf (l.rx (x4 rd)) (l.rx (x4 ra)) off.toNat width.toNat)

/-! ### Multiply and divide (R314, R315) -/

/-- A product, of latency 3 (R267). -/
def State.mulResult (s : State) (rd : XReg) (v : Lvl → Word) : State := s.retire 4 fun l => l.wxLat rd (v l) 3

/-- MUL (R314). -/
def execMul (rb ra rd : XReg) (s : State) : Outc := .next (s.mulResult rd fun l => l.rx ra * l.rx rb)
/-- MULH (R314). -/
def execMulh (rb ra rd : XReg) (s : State) : Outc :=
  .next (s.mulResult rd fun l => BitVec.ofInt 64 (((l.rx ra).toInt * (l.rx rb).toInt).fdiv (2 ^ 64)))
/-- MULHN (R314). -/
def execMulhn (rb ra rd : XReg) (s : State) : Outc :=
  .next (s.mulResult rd fun l => BitVec.ofNat 64 ((l.rx ra).toNat * (l.rx rb).toNat / 2 ^ 64))

/-- The signed quotient with its edge cases (R315). -/
def divOf (a b : Word) : Word := if b = 0 then -1 else BitVec.ofInt 64 (a.toInt.tdiv b.toInt)
/-- The signed remainder (R315). -/
def remOf (a b : Word) : Word := if b = 0 then a else BitVec.ofInt 64 (a.toInt.tmod b.toInt)
/-- The unsigned quotient (R315). -/
def divnOf (a b : Word) : Word := if b = 0 then -1 else BitVec.ofNat 64 (a.toNat / b.toNat)
/-- The unsigned remainder (R315). -/
def remnOf (a b : Word) : Word := if b = 0 then a else BitVec.ofNat 64 (a.toNat % b.toNat)

/-- DIV (R315). -/
def execDiv (rb ra rd : XReg) (s : State) : Outc := .next (s.alu 4 rd fun l => divOf (l.rx ra) (l.rx rb))
/-- DIVN (R315). -/
def execDivn (rb ra rd : XReg) (s : State) : Outc := .next (s.alu 4 rd fun l => divnOf (l.rx ra) (l.rx rb))
/-- REM (R315). -/
def execRem (rb ra rd : XReg) (s : State) : Outc := .next (s.alu 4 rd fun l => remOf (l.rx ra) (l.rx rb))
/-- REMN (R315). -/
def execRemn (rb ra rd : XReg) (s : State) : Outc := .next (s.alu 4 rd fun l => remnOf (l.rx ra) (l.rx rb))

/-! ### Compact forms (R275) -/

/-- C.MV behaves as ADDI rd, ra, 0. -/
def execCMv (b a : BitVec 4) (s : State) : Outc := .next (s.alu 2 (x4 a) fun l => l.rx (x4 b))
/-- C.ADD behaves as ADD rd, rd, ra. -/
def execCAdd (b a : BitVec 4) (s : State) : Outc := .next (s.alu 2 (x4 a) fun l => l.rx (x4 a) + l.rx (x4 b))
/-- C.SUB behaves as SUB rd, rd, ra. -/
def execCSub (b a : BitVec 4) (s : State) : Outc := .next (s.alu 2 (x4 a) fun l => l.rx (x4 a) - l.rx (x4 b))
/-- C.ADDI behaves as ADDI rd, rd, imm. -/
def execCAddi (imm a : BitVec 4) (s : State) : Outc := .next (s.alu 2 (x4 a) fun l => l.rx (x4 a) + imm.signExtend 64)
/-- C.LI behaves as ADDI rd, x0, imm. -/
def execCLi (imm a : BitVec 4) (s : State) : Outc := .next (s.alu 2 (x4 a) fun _ => imm.signExtend 64)
/-- C.AND behaves as AND rd, rd, ra. -/
def execCAnd (b a : BitVec 4) (s : State) : Outc := .next (s.alu 2 (x4 a) fun l => l.rx (x4 a) &&& l.rx (x4 b))
/-- C.OR behaves as OR rd, rd, ra. -/
def execCOr (b a : BitVec 4) (s : State) : Outc := .next (s.alu 2 (x4 a) fun l => l.rx (x4 a) ||| l.rx (x4 b))
/-- C.SHLI behaves as SHLI rd, rd, imm. -/
def execCShli (imm a : BitVec 4) (s : State) : Outc := .next (s.alu 2 (x4 a) fun l => l.rx (x4 a) <<< imm.toNat)
/-- C.SHRI behaves as SHRI rd, rd, imm. -/
def execCShri (imm a : BitVec 4) (s : State) : Outc := .next (s.alu 2 (x4 a) fun l => l.rx (x4 a) >>> imm.toNat)

end Sys2Proof.Machine
end

