-- ==== Sys2Proof/Machine/Control.lean ====
section
/-! DEFINITION. Branches, jumps and LOOP (R263, R264, R316 to R324), hints, DONE and the traps raised by program (R326 to
R330), follower mode (R222, R338, R339) and MFID (R231, R333). -/

namespace Sys2Proof.Machine

/-- A target `off` parcels from the branching word (R264). -/
def parcels (l : Lvl) (off : Int) : Word := l.pc + BitVec.ofInt 64 (2 * off)

/-- A conditional branch of a word of `n` bytes (R264, R320). -/
def State.branch (s : State) (n : Nat) (taken : Lvl → Bool) (off : Int) : State :=
  s.setCurLvl (if taken s.curLvl then s.curLvl.goto (parcels s.curLvl off) else s.curLvl.step n)

/-- BEQ (R316). -/
def execBeq (off : BitVec 9) (rb ra : XReg) (s : State) : Outc :=
  .next (s.branch 4 (fun l => l.rx ra == l.rx rb) off.toInt)
/-- BNE (R316). -/
def execBne (off : BitVec 9) (rb ra : XReg) (s : State) : Outc :=
  .next (s.branch 4 (fun l => l.rx ra != l.rx rb) off.toInt)
/-- BLT (R316). -/
def execBlt (off : BitVec 9) (rb ra : XReg) (s : State) : Outc :=
  .next (s.branch 4 (fun l => (l.rx ra).slt (l.rx rb)) off.toInt)
/-- BGE (R316). -/
def execBge (off : BitVec 9) (rb ra : XReg) (s : State) : Outc :=
  .next (s.branch 4 (fun l => !(l.rx ra).slt (l.rx rb)) off.toInt)
/-- BLO (R316). -/
def execBlo (off : BitVec 9) (rb ra : XReg) (s : State) : Outc :=
  .next (s.branch 4 (fun l => (l.rx ra).ult (l.rx rb)) off.toInt)
/-- BHS (R316). -/
def execBhs (off : BitVec 9) (rb ra : XReg) (s : State) : Outc :=
  .next (s.branch 4 (fun l => !(l.rx ra).ult (l.rx rb)) off.toInt)
/-- BZ (R317). -/
def execBz (off : BitVec 12) (ra : XReg) (s : State) : Outc := .next (s.branch 4 (fun l => l.rx ra == 0) off.toInt)
/-- BNZ (R317). -/
def execBnz (off : BitVec 12) (ra : XReg) (s : State) : Outc := .next (s.branch 4 (fun l => l.rx ra != 0) off.toInt)
/-- C.BNZ behaves as BNZ (R275). -/
def execCBnz (off a : BitVec 4) (s : State) : Outc := .next (s.branch 2 (fun l => l.rx (x4 a) != 0) off.toInt)
/-- J (R318). -/
def execJ (off : BitVec 22) (s : State) : Outc := .next (s.branch 4 (fun _ => true) off.toInt)
/-- C.J behaves as J (R275). -/
def execCJ (off : BitVec 8) (s : State) : Outc := .next (s.branch 2 (fun _ => true) off.toInt)

/-- JAL writes the address of the word after it into x1, in inbox form in inbox code (R218, R318). -/
def execJal (off : BitVec 22) (s : State) : Outc :=
  let l := s.curLvl
  .next (s.setCurLvl ((l.wx 1 (l.pc + 4)).goto (parcels l off.toInt)))

/-- Whether a value is the inbox form of an offset (R218). -/
def inboxForm (t : Word) : Bool := t.getLsbD 63 && fld t.toNat 9 54 == 0

/-- The level's activation set to run its inbox code or mapped code. -/
def Lvl.runInbox (l : Lvl) (b : Bool) : Lvl := { l with act := l.act.map fun a => { a with inbox := b } }

/-- JALR, and JR with rd = x0 (R319). -/
def execJalr (imm : BitVec 12) (ra rd : XReg) (s : State) : Outc :=
  let l := s.curLvl
  let t := l.rx ra + imm.signExtend 64
  let link := l.pc + 4
  .next (
    if t.getLsbD 0 then s.raise Cause.misalign 0 t
    else if inboxForm t then
      if (l.act.bind Act.code).isSome then s.setCurLvl (((l.wx rd link).runInbox true).goto t) else s.raise Cause.access 0 t
    else if fld t.toNat 56 8 ≠ 0 then s.raise Cause.access 0 t
    else s.setCurLvl (((l.wx rd link).runInbox false).goto t))

/-- LOOP (R324). -/
def execLoop (off : BitVec 12) (stp : BitVec 5) (s : State) : Outc :=
  let l := s.curLvl
  let count := fld l.lcount.toNat 0 32
  if count = 0 then .next (s.retire 4 id)
  else
    let base := fld l.rbase.toNat 0 5
    let rb := if l.rbase.getLsbD 8 then BitVec.ofNat 64 (l.rbase.toNat - base + (base + stp.toNat) % 32) else l.rbase
    let l' := { l with lcount := BitVec.ofNat 64 (count - 1), rbase := rb }
    .next (s.setCurLvl (if count - 1 ≠ 0 then l'.goto (parcels l off.toInt) else l'.step 4))

/-! ### Hints (R224, R326) -/

/-- NOP (R326). -/
def execNop (s : State) : Outc := .next (s.retire 4 id)

/-- The level not ready in the cycle after the issue. -/
def Lvl.yield (l : Lvl) (now : Nat) : Lvl := { l with readyAt := max l.readyAt (now + 2) }

/-- HINT.YIELD (R326). -/
def execHintYield (s : State) : Outc := .next (s.retire 4 fun l => l.yield s.now)
/-- C.YIELD behaves as HINT.YIELD (R275). -/
def execCYield (s : State) : Outc := .next (s.retire 2 fun l => l.yield s.now)

/-- Whether a core's level has a detached follower of its cluster (R222, R224). -/
def State.detached (s : State) (k : Nat) (l : Level) : Bool :=
  let me := (activeOf (s.clu (keyCluster k)) (keySlot k)).getD 9
  (tab 9 fun i => coreKey (keyChip k) (keyNode k) i).any fun f => match (s.lvl f l).follow with
    | some w => w.leader == me && !(w.attached && (s.lvl k l).isAct w.act)
    | none => false

/-- HINT.ALIGN waits at most 64 cycles for detached followers, and with none does nothing (R224, R326). -/
def execHintAlign (s : State) : Outc :=
  .next (s.retire 4 fun l =>
    if s.detached s.curKey s.cur.lev then { l with wait := .align (s.now + 64) } else l)

/-- ALIGN_TIMEOUT (R224): the wait of HINT.ALIGN ends. -/
def execAlignTimeout (s : State) : Outc :=
  let k := coreKey s.arg.chip s.arg.node s.arg.slot
  let l := s.lvl k s.arg.lev
  .next (match l.wait with
    | .align t => if t ≤ s.now then s.setLvl k s.arg.lev { l with wait := .ready } else s
    | _ => s)

/-! ### Ends (R215, R327 to R330, R436, R437) -/

/-- DONE: the return of an inline child, or the end of the activation; a forward activation that ends so ends the trapped
activation as a fault (R215, R437). A return address with bit 0 set raises MISALIGN at the DONE, as a jump's does (R263, log
entry 103). -/
def State.done (s : State) : State :=
  let k := s.curKey
  let l := s.cur.lev
  let x := s.curLvl
  if x.inlineN ≠ 0 then
    if (x.rx 1).getLsbD 0 then s.raise Cause.misalign 0 (x.rx 1)
    else s.setCurLvl { (x.goto (x.rx 1)).runInbox (inboxForm (x.rx 1)) with inlineN := x.inlineN - 1 }
  else
    let trapped := if l = 3 then (s.core k).forwarded else none
    let s := s.updCore k fun c => c.endAct l
    match trapped with
    | some t => s.faultLevel k t
    | none => s

/-- DONE (R327). -/
def execDone (s : State) : Outc := .next s.done
/-- C.DONE (R215, R275). -/
def execCDone (s : State) : Outc := .next s.done

/-- TRAP raises USER with the code; TRAPPC holds the word after it (R328). -/
def execTrap (code : BitVec 12) (s : State) : Outc :=
  let l := s.curLvl
  .next (s.raiseAt s.curKey s.cur.lev Cause.user (l.pc + 4) (l.pc + 4) (code.setWidth 64) 0 false)

/-- The order that a TRET makes: a release at scope .c on L3's rp0 and an acquire on that of the level it resumes, whose operations
come after those of the handler that have not performed (R436). -/
def State.tretOrder (s : State) (t : Level) : State :=
  let k := s.curKey
  let r := (s.core k).ropeAt 3
  if ((s.core k).pending (r.upTo r.issued)).isEmpty then s
  else
    let id := s.nextId
    (s.addOps ⟨3, 0, .rel, .c⟩ [⟨0, .tret, .drop, none, .held⟩]).updCore k fun c =>
      c.setRope t.val { c.ropeAt t.val with adopt := (c.ropeAt t.val).adopt ++ [id] }

/-- TRET ends a trap-forward activation and resumes the trapped level (R329, R436). -/
def execTret (s : State) : Outc :=
  let s' := match (s.core s.curKey).forwarded with
    | some t => if (s.lvl s.curKey 3).trappc.getLsbD 0 then s else s.tretOrder t
    | none => s
  .next ((s'.trapReturn.map fun t => t.pump s.curKey).getD s.illegal)

/-- ABORT (R330): in a forward activation the trapped activation ends as a fault with its recorded cause; elsewhere USER
with the code, as a fault that no handler takes. -/
def execAbort (code : BitVec 12) (s : State) : Outc :=
  let k := s.curKey
  let l := s.cur.lev
  match (if l = 3 then (s.core k).forwarded else none) with
  | some t => .next ((s.updCore k fun c => c.endAct 3).faultLevel k t)
  | none =>
    let x := s.curLvl
    let s := s.updCore k fun c => c.commitAll l
    let x' := { s.lvl k l with trapcause := BitVec.ofNat 64 (l.val * 256 + Cause.user), trappc := x.ipc + 4,
                               trapval := code.setWidth 64, trapaddr := 0, pfx := none, again := true }
    .next ((s.setLvl k l x').fault k l)

/-! ### Identity (R231, R333) -/

/-- An identity register of the issuing level. -/
def State.identity (s : State) (n : Nat) : Nat :=
  let k := s.curKey
  let tile := fun i => (((s.curLvl.act.map Act.tile).getD []).getD i (0 : Word)).toNat
  let vd := s.vdev? s.curVd
  match n with
  | 0 => (activeOf (s.clu (keyCluster k)) (keySlot k)).getD 0
  | 1 => nodeInDie (keyNode k)
  | 2 => nodeDie (keyNode k)
  | 3 => keyChip k
  | 4 => match vd with
    | some v => s.vdCoreOf v k
    | none => 0
  | 5 => match vd with
    | some v => v.cores
    | none => 0
  | 12 => s.curLvl.launch
  | 13 => s.cur.lev.val
  | n => if 6 ≤ n ∧ n ≤ 11 then tile (n - 6) else 0

/-- MFID (R333). -/
def execMfid (id : BitVec 6) (rd : XReg) (s : State) : Outc := .next (s.alu 4 rd fun _ => BitVec.ofNat 64 (s.identity id.toNat))

end Sys2Proof.Machine
end

