-- ==== Sys2Proof/Machine/Operands.lean ====
section
/-! DEFINITION. Operand forms of the vector instructions: the captured modes (R296), element addresses and conversions
(R289 to R293, R302, R384), names, the register rack and streams (R373 to R376, R389 to R392), and the shared run of a
vector instruction over its lanes. -/

namespace Sys2Proof.Machine

/-- A value, or the state in which the instruction has trapped or waits. -/
inductive Got (α : Type) where
  | ok (a : α)
  | stop (s : State)

/-! ### Modes (R294 to R296) -/

/-- The captured modes of an FCR value; RNE stands in for a reserved RM, which only instructions that do not round meet. -/
def modesOf (fcr : Word) : Modes :=
  ⟨(RMode.ofCode (fld fcr.toNat 9 3)).getD .rne, fcr.getLsbD 8, fcr.getLsbD 7⟩
/-- Whether RM is reserved (R294). -/
def badRm (fcr : Word) : Bool := (RMode.ofCode (fld fcr.toNat 9 3)).isNone
/-- The level with sticky flags set (R297). -/
def Lvl.flag (l : Lvl) (f : Flags) : Lvl := { l with fcr := l.fcr ||| f.setWidth 64 }

/-! ### Formats of a pointer (R292, R293) -/

/-- The element format a pointer names. -/
def fmtOf (p : Word) : Fmt :=
  match fmtCode p with
  | 1 => .f32 | 2 => .bf16 | 3 => .fp16 | 4 => .e4m3 | 5 => .e5m2 | 6 => .i8
  | 8 => .e2m1x (2 ^ (blogOf p + 2)) | 9 => .int4x (2 ^ (blogOf p + 2)) | _ => .raw

/-- The bytes of an element access: one byte for a block element. -/
def Fmt.size : Fmt → Nat
  | .raw => 4 | .f32 => 4 | .bf16 => 2 | .fp16 => 2 | _ => 1

/-- Block length and extra bytes of a block format (R289). -/
def Fmt.block : Fmt → Option (Nat × Nat)
  | .e2m1x n => some (n, 2) | .int4x n => some (n, 1) | _ => none

/-- Whether a store to the format rounds in the captured mode (R295, R385). -/
def Fmt.rounds : Fmt → Bool
  | .raw => false | .f32 => false | .i8 => false | _ => true

/-- Elem: the address of element `i`, and whether it takes the high nibble (R384). -/
def elemAddr (p : Word) (f : Fmt) (i : Int) : Word × Bool :=
  match f.block with
  | some (n, k) =>
    let q := i.fdiv n
    let j := (i - q * n).toNat
    (p + BitVec.ofInt 64 (q * (n / 2 + k : Nat) + (j / 2 : Nat)), j % 2 == 1)
  | none => (p + BitVec.ofInt 64 (i * f.size), false)

/-- The address of the scale byte of element `i`'s block; the spare follows it (R289). -/
def scaleAddr (p : Word) (f : Fmt) (i : Int) : Word :=
  match f.block with
  | some (n, k) => p + BitVec.ofInt 64 (i.fdiv n * (n / 2 + k : Nat) + (n / 2 : Nat))
  | none => p

/-- The value of a loaded element as a lane: the bytes unchanged, or FP32 or INT32 (R290, R292, R302). -/
def loadLane (f : Fmt) (high : Bool) (elem scale spare : Word) (daz : Bool) : Lane :=
  let e := elem.toNat
  match f with
  | .raw => BitVec.ofNat 32 e
  | .f32 => BitVec.ofNat 32 e
  | .bf16 => widen bf16 (e % 2 ^ 16) daz
  | .fp16 => widen fp16 (e % 2 ^ 16) daz
  | .e4m3 => widen e4m3 (e % 2 ^ 8) daz
  | .e5m2 => widen e5m2 (e % 2 ^ 8) daz
  | .i8 => (BitVec.ofNat 8 e).signExtend 32
  | .e2m1x _ => blockLane false (if high then e / 16 % 16 else e % 16) (scale.toNat % 256) (spare.toNat % 256)
  | .int4x _ => blockLane true (if high then e / 16 % 16 else e % 16) (scale.toNat % 256) (spare.toNat % 256)

/-- INT32 narrowed to INT8 with saturation and no flag (R302, R385). -/
def narrowI8 (a : Lane) : Nat :=
  let x := a.toInt
  (BitVec.ofInt 8 (if 127 < x then 127 else if x < -128 then -128 else x)).toNat

/-- The code that a store writes for a lane, not a block element, and its flags (R302, R385). -/
def storeCode (f : Fmt) (a : Lane) (md : Modes) : Flagged Nat :=
  let sat := fun (g : Format) =>
    let (y, fl) := satFloat (laneVal a md.daz) g md.rm md.ftz
    (g.codeOf y, fl)
  match f with
  | .bf16 => sat bf16
  | .fp16 => sat fp16
  | .e4m3 => sat e4m3
  | .e5m2 => sat e5m2
  | .i8 => (narrowI8 a, 0)
  | _ => (a.toNat, 0)

/-! ### Predicates -/

/-- Whether lane `i` is active under a mask. -/
def active (mask : Word) (i : Nat) : Bool := mask.getLsbD i
/-- The active lanes, lowest first. -/
def activeLanes (mask : Word) : List Nat := (tab 64 id).filter fun i => active mask i
/-- The mask of lanes for which `f` holds. -/
def maskOf (f : Nat → Bool) : Word := BitVec.ofNat 64 ((tab 64 fun i => if f i then 2 ^ i else 0).foldl (· + ·) 0)

/-! ### Element accesses -/

/-- The element reads of lane `i` for element index `e` (R385, R387). -/
def loadEls (p : Word) (f : Fmt) (i : Nat) (e : Int) : List El :=
  let a := (elemAddr p f e).1
  let odd := fun (x : Word) => decide (x.toNat / 2 ^ 57 ≠ p.toNat / 2 ^ 57)
  let el := fun (x : Word) (n part : Nat) => El.mk i x n .load permR 0 0 (-1) (odd x) (4 * i + part)
  match f with
  | .e2m1x _ => let sc := scaleAddr p f e; [el a 1 0, el sc 1 1, el (sc + 1) 1 2]
  | .int4x _ => [el a 1 0, el (scaleAddr p f e) 1 1]
  | _ => [el a f.size 0]

/-- The element write of lane `i`, its data still zero; a block element also reads its scale (R28, R291). -/
def storeEls (p : Word) (f : Fmt) (i : Nat) (e : Int) : List El :=
  let (a, high) := elemAddr p f e
  let odd := fun (x : Word) => decide (x.toNat / 2 ^ 57 ≠ p.toNat / 2 ^ 57)
  match f.block with
  | some _ =>
    let sc := scaleAddr p f e
    [El.mk i a 1 .store (permR + permW) 0 0 (if high then 0xF0 else 0x0F) (odd a) (4 * i),
     El.mk i sc 1 .load permR 0 0 (-1) (odd sc) (4 * i + 3)]
  | none => [El.mk i a f.size .store permW 0 0 (-1) (odd a) (4 * i)]

/-- Of the writes of one instruction, those that a higher-numbered lane does not replace (R147, R291). -/
def topWrites : List Placed → List Placed
  | [] => []
  | p :: ps =>
    if ps.any fun q => q.pa == p.pa && q.el.mask == p.el.mask && q.el.cls == p.el.cls && p.el.cls == .store then topWrites ps
    else p :: topWrites ps

/-- The lanes that take the high nibble of their block byte. -/
def nibMask (p : Word) (f : Fmt) (idx : Nat → Int) (mask : Word) : Word :=
  maskOf fun i => active mask i && (elemAddr p f (idx i)).2

/-- The lanes of a gathered load, inactive lanes keeping the old value (R375, R385). -/
def gathered (f : Fmt) (old : VReg) (mask nib : Word) (daz : Bool) (vals : AMap Word) : VReg :=
  VReg.tab fun i =>
    if active mask i then
      loadLane f (active nib i) (AMap.get vals 0 (4 * i)) (AMap.get vals 0 (4 * i + 1)) (AMap.get vals 0 (4 * i + 2)) daz
    else old.lane i

/-- The operation of an element write with its data, and the flags that its conversion raises. -/
def LaneOp.fill (o : LaneOp) (f : Fmt) (a : Lane) (scale : Word) (md : Modes) : Flagged Op :=
  let (v, fl) := match f with
    | .e2m1x _ => blockStore false a (scale.toNat % 256) md
    | .int4x _ => blockStore true a (scale.toNat % 256) md
    | _ => storeCode f a md
  let v := if o.high then v * 16 else v
  match o.op.work with
  | .mem acc => ({ o.op with work := .mem { acc with data := BitVec.ofNat 64 v } }, fl)
  | _ => (o.op, fl)

/-! ### Streams (R389 to R392) -/

/-- The fields of a tensor map's words (R388). -/
def tmapBase (d : List Word) : Word := d.getD 0 0
def tmapD0 (d : List Word) : Nat := fld (d.getD 1 0).toNat 0 32
def tmapD1 (d : List Word) : Nat := fld (d.getD 1 0).toNat 32 32
def tmapD2 (d : List Word) : Nat := fld (d.getD 2 0).toNat 0 32
def tmapS1 (d : List Word) : Int := (d.getD 3 0).toInt
def tmapS2 (d : List Word) : Int := (d.getD 4 0).toInt
/-- DIR: true for a write stream. -/
def tmapDir (d : List Word) : Bool := (d.getD 5 0).getLsbD 0
/-- Chunks of a row (R390). -/
def tmapRow (d : List Word) : Nat := (tmapD0 d + 63) / 64
/-- Chunks of the stream. -/
def tmapChunks (d : List Word) : Nat := tmapRow d * tmapD1 d * tmapD2 d
/-- Elements of the stream. -/
def tmapElems (d : List Word) : Nat := tmapD0 d * tmapD1 d * tmapD2 d
/-- Whether a descriptor breaks R388: a reserved bit set or an extent of 0 (R389). -/
def tmapBad (d : List Word) : Bool :=
  tmapD0 d == 0 || tmapD1 d == 0 || tmapD2 d == 0 || fld (d.getD 2 0).toNat 32 32 != 0 ||
    (d.getD 5 0).toNat / 2 != 0 || d.getD 6 0 != 0 || d.getD 7 0 != 0

/-- The lanes present in a chunk. -/
def chunkLanes (d : List Word) (pos : Nat) : Nat := min 64 (tmapD0 d - pos % tmapRow d * 64)
/-- The address of a chunk's row, if it stays in the 57-bit range (R390). -/
def chunkRow (d : List Word) (pos : Nat) : Option Word :=
  let r := pos / tmapRow d
  let a : Int := ((tmapBase d).toNat % 2 ^ 57 : Nat) + (r % tmapD1 d : Nat) * tmapS1 d + (r / tmapD1 d : Nat) * tmapS2 d
  if a < 0 ∨ 2 ^ 57 ≤ a then none
  else some (BitVec.ofNat 64 ((tmapBase d).toNat / 2 ^ 57 * 2 ^ 57 + a.toNat))
/-- The element index of lane `i` in a chunk. -/
def chunkIdx (d : List Word) (pos i : Nat) : Int := (pos % tmapRow d * 64 + i : Nat)
/-- The mask of the lanes present in a chunk. -/
def chunkMask (d : List Word) (pos : Nat) : Word := maskOf fun i => decide (i < chunkLanes d pos)

/-- The open stream in a vector name, if any (R391). -/
def Lvl.stream (l : Lvl) (name : Nat) : Option Stream := if name < 4 then l.streams.getD name none else none
/-- The level with a stream replaced. -/
def Lvl.setStream (l : Lvl) (n : Nat) (s : Option Stream) : Lvl := { l with streams := l.streams.set n s }
/-- The level after one chunk of a stream has been popped or pushed. -/
def Lvl.advance (l : Lvl) (n : Nat) : Lvl :=
  match l.stream n with
  | some st => l.setStream n (some { st with pos := st.pos + 1, done := st.done + chunkLanes st.desc st.pos, buf := none, asked := false })
  | none => l

/-- ILLEGAL for a vector register, by its name (R232, R391). -/
def State.illegalV (s : State) (name : Nat) : State := s.raise Cause.illegal (BitVec.ofNat 64 (0x40 + name)) 0

/-- Asks for the next chunk of a read stream: the checks, then weak loads on the private rope; the instruction waits and
issues again with the chunk in place (R391, R392). -/
def State.fetchChunk (s : State) (n : Nat) (st : Stream) (daz : Bool) : State :=
  match chunkRow st.desc st.pos with
  | none => s.raise Cause.ptrOvf (tmapBase st.desc) 0
  | some row =>
    let f := fmtOf row
    let mask := chunkMask st.desc st.pos
    let els := (activeLanes mask).flatMap fun i => loadEls row f i (chunkIdx st.desc st.pos i)
    match s.checkCur false els with
    | .fail c v a => s.raise c v a
    | .wait pages => s.awaitPages pages
    | .ok ps =>
      let ask : Ask := ⟨st.rope, 0, .w, .c⟩
      if !s.curCore.ropeRoom st.rope ps.length then s.replay
      else
        let id := s.nextId
        let l := s.curLvl
        let k : Coll := ⟨id, s.cur.lev.val, l.acts, l.launch, l.ipc, ps.length, [],
          .chunk n f mask (nibMask row f (chunkIdx st.desc st.pos) mask) daz, none, []⟩
        let s := { s.updCore s.curKey (fun c => { c with colls := c.colls ++ [k] }) with nextId := id + 1 }
        let s := s.addOps ask (ps.map fun p => ⟨p.el.va, .mem (s.accOf ask p), .part id p.el.part, p.xl, .held⟩)
        let s := s.setCurLvl { (s.curLvl.setStream n (some { st with asked := true })) with xl := [] }
        (s.replayWait (.coll id)).pump s.curKey

/-- A vector source: a register of the level, or the next chunk of a read stream, absent lanes reading +0 (R232, R374,
R391). -/
def State.vsrc (s : State) (name : Nat) : Got VReg :=
  match s.curLvl.stream name with
  | some st =>
    if tmapDir st.desc || tmapChunks st.desc ≤ st.pos then .stop (s.illegalV name)
    else
      let daz := s.curLvl.fcr.getLsbD 7
      match st.buf with
      | some (d, v) => if d = daz then .ok v else .stop (s.fetchChunk name st daz)
      | none => .stop (s.fetchChunk name st daz)
  | none =>
    match s.curLvl.place name with
    | some k => .ok (s.curCore.rv k)
    | none => .stop (s.illegalV name)

/-- Several vector sources, in the order of their fields. -/
def State.vsrcs (s : State) : List Nat → Got (List VReg)
  | [] => .ok []
  | n :: ns =>
    match s.vsrc n with
    | .stop t => .stop t
    | .ok v =>
      match s.vsrcs ns with
      | .stop t => .stop t
      | .ok vs => .ok (v :: vs)

/-- Pops every read stream named among the sources, one chunk each (R391). -/
def Lvl.popAll (l : Lvl) (names : List Nat) : Lvl := names.eraseDups.foldl (fun l n => l.advance n) l

/-- Where a vector result goes. -/
inductive VDest where
  | place (k : Nat)
  | push (n : Nat) (st : Stream)

/-- A vector destination. `old` tells that the instruction reads the old register by definition, which a stream never
gives (R375, R391). -/
def State.vdst (s : State) (name : Nat) (old : Bool) : Got VDest :=
  match s.curLvl.stream name with
  | some st =>
    if !tmapDir st.desc || old || tmapChunks st.desc ≤ st.pos then .stop (s.illegalV name) else .ok (.push name st)
  | none =>
    match s.curLvl.place name with
    | some k => .ok (.place k)
    | none => .stop (s.illegalV name)

/-- The old value of a destination; a stream has none. -/
def State.oldOf (s : State) : VDest → VReg
  | .place k => s.curCore.rv k
  | .push _ _ => VReg.zero

/-- The element writes of a push of the lanes under a mask, checked (R340, R390, R391). -/
def State.pushCheck (s : State) (st : Stream) (mask : Word) : Got (Fmt × Word × List Placed) :=
  match chunkRow st.desc st.pos with
  | none => .stop (s.raise Cause.ptrOvf (tmapBase st.desc) 0)
  | some row =>
    let f := fmtOf row
    let m := mask &&& chunkMask st.desc st.pos
    let els := (activeLanes m).flatMap fun i => storeEls row f i (chunkIdx st.desc st.pos i)
    if f.rounds && badRm s.curLvl.fcr then .stop (s.raise Cause.illegal s.curLvl.fcr 0)
    else match s.checkCur false els with
      | .fail c v a => .stop (s.raise c v a)
      | .wait pages => .stop (s.awaitPages pages)
      | .ok ps =>
        if s.curCore.ropeRoom st.rope ps.length then .ok (f, row, ps) else .stop s.replay

/-! ### Vector stores -/

/-- The operations of a store's element writes, numbered on the rope but not yet issued: a block store issues them once its
scales are read. A write that a higher lane replaces is converted, for its flags, and never issued (R147, R376). -/
def State.laneOps (s : State) (a : Ask) (ps : List Placed) : List LaneOp :=
  let x := s.curLvl
  let r := s.curCore.ropeAt a.slot
  let mk := fun (live : Bool) (i : Nat) (p : Placed) =>
    LaneOp.mk p.el.lane (p.el.mask == 0xF0) live
      { id := if live then s.nextId + i else 0, lev := s.cur.lev.val, act := x.acts, launch := x.launch, po := x.po,
        rope := r.uid, name := a.name, idx := r.issued + i, kind := a.kind, scope := a.scope, pc := x.ipc, va := p.el.va,
        work := .mem (s.accOf a p), dest := .drop, st := .held, fence := x.fence, xl := p.xl, ev := x.isEvent }
  let top := topWrites ps
  top.mapIdx (mk true) ++ (ps.filter fun p => !top.contains p).map (mk false 0)

/-- The issued operations of a store's element writes. -/
def liveOps (ops : List LaneOp) : List Op := (ops.filter LaneOp.live).map LaneOp.op

/-- The element writes of a list filled with lanes, and the flags raised: the OR over every active lane (R376). -/
def fillOps (ops : List LaneOp) (f : Fmt) (vals : VReg) (scales : AMap Word) (md : Modes) : List Op × Flags :=
  ops.foldl (fun acc o =>
    let (op, fl) := o.fill f (vals.lane o.lane) (AMap.get scales 0 (4 * o.lane + 3)) md
    (if o.live then acc.1 ++ [op] else acc.1, acc.2 ||| fl)) ([], 0)

/-- The issuing level's operations issued on the rope of a slot. -/
def State.issueOps (s : State) (slot : Nat) (os : List Op) : State :=
  { s.updCore s.curKey (fun c => os.foldl (fun c o => c.issueOp s.cur.lev slot o) c) with nextId := s.nextId + os.length }

/-- A vector store or push of checked element writes: at once, or for a block format once the scales have been read, those
loads being weak when the store is weak and else strong at its scope (R291). -/
def State.storeLanes (s : State) (a : Ask) (f : Fmt) (vals : VReg) (ps : List Placed) : State :=
  let writes := ps.filter fun p => p.el.cls == .store
  let scales := ps.filter fun p => p.el.cls == .load
  let k := s.curKey
  let id := s.nextId
  let s := { s with nextId := id + 1 }
  let md := modesOf s.curLvl.fcr
  let sa : Ask := { a with kind := if a.kind = .w then .w else .s }
  let s := scales.foldl (fun s p => s.addOp sa ⟨p.el.va, .mem (s.accOf sa p), .part id p.el.part, p.xl, .held⟩) s
  let ops := s.laneOps a writes
  if scales = [] then
    let (os, fl) := fillOps ops f vals [] md
    let s := s.issueOps a.slot os
    s.setCurLvl { s.curLvl.flag fl with po := s.curLvl.po + 1 }
  else
    let s := s.issueOps a.slot ((liveOps ops).map fun o => { o with st := .awaiting })
    let s := s.setCurLvl { s.curLvl with po := s.curLvl.po + 1 }
    s.updCore k fun c => { c with colls := c.colls ++
      [⟨id, s.cur.lev.val, s.curLvl.acts, s.curLvl.launch, s.curLvl.ipc, scales.length, [], .vstore f vals s.curLvl.fcr ops, none, []⟩] }

/-! ### The run of a vector instruction -/

/-- A vector result of latency `lam` (R267, R268). -/
def Lvl.wvLat (l : Lvl) (k : Nat) (v : VReg) (lam : Nat) : Lvl := { l with pend := l.pend ++ [⟨.v k, .vec v, lam, 0⟩] }

/-- Completes a vector instruction of 4 bytes with its value: the streams it reads are popped, the flags set, and the value
written with its latency or pushed (R391). -/
def State.vput (s : State) (d : VDest) (srcs : List Nat) (mask : Word) (v : VReg) (fl : Flags) (lam : Nat) : State :=
  match d with
  | .place k => s.retire 4 fun l => { ((l.popAll srcs).flag fl).wvLat k v lam with xl := [] }
  | .push n st =>
    match s.pushCheck st mask with
    | .stop t => t
    | .ok (f, _, ps) =>
      let s := s.storeLanes ⟨st.rope, 0, .w, .c⟩ f v ps
      (s.retire 4 fun l => { (((l.popAll srcs).advance n).flag fl) with xl := [] }).pump s.curKey

/-- A lane-wise instruction: sources and destination by name, governing predicate, latency, whether it rounds in the
captured mode, whether it reads the old destination by definition, and the result of a lane from the modes, its source
lanes and the old lane (R375 to R378). -/
def State.vlanes (s : State) (srcs : List Nat) (vd : Nat) (old : Bool) (pg : PReg) (lam : Nat) (rounds : Bool)
    (f : Modes → List Lane → Lane → Flagged Lane) : State :=
  match s.vsrcs srcs with
  | .stop t => t
  | .ok vs =>
    match s.vdst vd old with
    | .stop t => t
    | .ok d =>
      if rounds && badRm s.curLvl.fcr then s.raise Cause.illegal s.curLvl.fcr 0
      else
        let md := modesOf s.curLvl.fcr
        let mask := s.curLvl.rp pg
        let o := s.oldOf d
        let rs := tab 64 fun i => if active mask i then f md (vs.map fun v => v.lane i) (o.lane i) else (o.lane i, 0)
        s.vput d srcs mask (VReg.tab fun i => (rs.getD i (0, 0)).1) (rs.foldl (fun a r => a ||| r.2) 0) lam

/-- The first of two source lanes. -/
def laneA (xs : List Lane) : Lane := xs.getD 0 0
/-- The second of two source lanes. -/
def laneB (xs : List Lane) : Lane := xs.getD 1 0

end Sys2Proof.Machine
end

