-- ==== Sys2Proof/Machine/System.lean ====
section
/-! DEFINITION. Control registers (R285, R331, R332), with the writes and the read that have rows of their own (R143, R208,
R210, R233, R259, R297, R355, R371), the waits of R334 and R335, LNCH (R336, R337) and follower mode (R338, R339). -/

namespace Sys2Proof.Machine

/-! ### Gathering -/

/-- Issues the reads of an instruction as the parts of one result. `accKind` is the kind that the owner sees. -/
def State.gather (s : State) (ask : Ask) (accKind : Kind) (ps : List Placed) (f : Finish) : State × Nat :=
  let id := s.nextId
  let k : Coll := ⟨id, s.cur.lev.val, s.curLvl.acts, s.curLvl.launch, s.curLvl.ipc, ps.length, [], f, none, []⟩
  let s := { s.updCore s.curKey (fun c => { c with colls := c.colls ++ [k] }) with nextId := id + 1 }
  let s := s.addOps ask (ps.map fun p =>
    ⟨p.el.va, .mem { s.accOf ask p with kind := accKind }, .part id p.el.part, p.xl, .held⟩)
  (s.setCurLvl { s.curLvl with xl := [] }, id)

/-- Eight-byte element reads of `n` words from an address, numbered from 0. -/
def wordEls (p : Word) (n : Nat) : List El :=
  tab n fun i => ⟨i, p + BitVec.ofNat 64 (8 * i), 8, .load, permR, 0, 0, -1, false, i⟩

/-- rp0 of the issuing level. -/
def State.ask0 (s : State) (k : Kind) (sc : Scope) : Ask := ⟨s.cur.lev.val, 0, k, sc⟩

/-- The operations of a core that come before the next one on a rope (R125). -/
def Core.predsOf (c : Core) (slot : Nat) : List Nat :=
  let r := c.ropeAt slot
  (c.ops.filter fun o => o.rope == r.uid || r.preds.any fun q => q.1 == o.rope && decide (o.idx < q.2.1)).map Op.id

/-- The operations of the issuing core that come before the next one on a rope of the issuing level (R125). -/
def State.ropePreds (s : State) (slot : Nat) : List Nat := s.curCore.predsOf slot

/-- An acquire at a scope of a cluster or more, made by the issuing core, empties its L1 (R61). -/
def State.acquired (s : State) : State := s.updCore s.curKey Core.l1Empty

/-! ### Values of control registers (R331) -/

/-- Four nibbles, level 0 lowest (R234). -/
def nibbles (f : Level → Nat) : Word := BitVec.ofNat 64 (f 0 + 16 * f 1 + 256 * f 2 + 4096 * f 3)

/-- RACKWAIT's field of a level (R234). -/
def Core.takeOf (c : Core) (l : Level) : Nat := ((c.takes.find? fun t => t.1 == l.val).map Prod.snd).getD 0

/-- CPFAULT (R370): the oldest incomplete transfer and its resume sector while it is parked (R36, R372, R444). -/
def Chan.fault (ch : Chan) : Word :=
  match ch.queue with
  | [] => 0
  | t :: _ => if t.parked then BitVec.ofNat 64 (2 ^ 63 + t.id % 2 ^ 39 * 2 ^ 24 + t.sector % 2 ^ 24) else 0

/-- The value of a control register, if R285 assigns the number. -/
def State.crValue (s : State) (cr : Nat) : Option Word :=
  let c := s.curCore
  let l := s.curLvl
  let vd := s.vdev? s.curVd
  let clu := s.clu (keyCluster s.curKey)
  match cr with
  | 0x000 => some l.fcr
  | 0x001 => some l.stallchk
  | 0x002 => some (BitVec.ofNat 64 ((vd.map VDev.limit).getD 0x100000))
  | 0x003 => some l.inlineN
  | 0x004 => some l.trapcause
  | 0x005 => some l.trappc
  | 0x006 => some l.trapval
  | 0x007 => some l.trapaddr
  | 0x008 => some l.rbase
  | 0x009 => some l.lcount
  | 0x010 => some (c.mb.get 0)
  | 0x011 => some (c.mb.get 1)
  | 0x012 => some (c.mb.get 2)
  | 0x013 => some (c.mb.get 3)
  | 0x014 => some c.dispbase
  | 0x015 => some c.tagbase
  | 0x02B => some c.chan.done
  | 0x02C => some c.chan.fault
  | 0x040 => some (BitVec.ofNat 64 ((64 - c.mx.queue.length) * 2 ^ 32 + c.mx.pushed))
  | 0x041 => some (BitVec.ofNat 64 c.mx.retired)
  | 0x042 => some (BitVec.ofNat 64 (min clu.cap (s.chip (keyChip s.curKey)).capLow * 2 ^ 16 + clu.budget))
  | 0x043 => some c.mx.stall
  | 0x044 => some c.mx.mode
  | 0x050 => some c.floor
  | 0x051 => some (nibbles fun l => (c.lvl l).held.length)
  | 0x052 => some (BitVec.ofNat 64 c.rackFree)
  | 0x053 => some (nibbles c.takeOf)
  | 0x060 => some c.injstat
  | 0x061 => some c.evretry
  | 0x062 => some c.tracectl
  | 0x063 => some c.traceptr
  | 0x064 => some (BitVec.ofNat 64 ((vd.map VDev.lwmark).getD 0))
  | n => if 0x020 ≤ n ∧ n ≤ 0x029 then some (c.chan.shadow.getD (n - 0x020) 0) else none

/-- The collector of the issuing level that will still set flags, if any (R297). -/
def State.flagsDue (s : State) : Option Nat :=
  (s.curCore.colls.find? fun k => k.lev == s.cur.lev.val && k.act == s.curLvl.acts && (match k.finish with
    | .vstore _ _ _ _ => true
    | .vpush _ _ _ _ _ _ _ => true
    | _ => false)).map Coll.id

/-! ### CPGO (R143, R371) -/

/-- A transfer queued with its snapshot, and its ID. -/
def State.queueCopy (s : State) (k : Nat) (l : Level) (snap : List Word) (pc : Word) (after : List Nat) : State × Word :=
  let x := s.lvl k l
  let id := (s.core k).chan.lastId + 1
  let t : Xfer := ⟨id, snap, l.val, x.acts, x.launch, pc, 0, false, false, [], after, [], none⟩
  (s.updCore k fun c => { c with chan := { c.chan with lastId := id, queue := c.chan.queue ++ [t] } }, BitVec.ofNat 64 id)

/-- The product that R371 bounds. -/
def copyBytes (snap : List Word) : Nat :=
  (snap.getD 2 0).toNat * (snap.getD 6 0).toNat * (snap.getD 7 0).toNat * (snap.getD 8 0).toNat

/-- Whether LEN, an address or a step of a snapshot is not a multiple of 8 (R371). -/
def copyMisaligned (snap : List Word) : Bool :=
  [0, 1, 2, 3, 4, 5].any fun i => (snap.getD i 0).toNat % 8 != 0 || (decide (3 ≤ i) && (snap.getD i 0).toNat / 2 ^ 32 % 8 != 0)

/-- A read of CPGO. -/
def State.cpgo (s : State) (rd : XReg) : State :=
  let snap := s.curCore.chan.shadow
  if copyMisaligned snap then s.raise Cause.misalign 0 0
  else if 2 ^ 33 < copyBytes snap then s.raise Cause.illegal (BitVec.ofNat 64 (copyBytes snap)) 0
  else if 16 ≤ s.curCore.chan.queue.length then s.retire 4 fun l => { l.forget (.x rd.toNat) with wait := .cpgo rd.toNat snap }
  else
    let (s, id) := s.queueCopy s.curKey s.cur.lev snap s.curLvl.ipc (s.ropePreds s.cur.lev.val)
    s.alu 4 rd fun _ => id

/-! ### Reads -/

/-- MFCR's effect: the value, with the wait of FCR (R297), the acquires of the mailboxes (R146), CPDONE (R144), MXDONE
(R409) and LWMARK (R250), and CPGO. -/
def State.readCr (s : State) (rd : XReg) (cr : Nat) : State :=
  if cr = 0x02A then s.cpgo rd
  else match s.crValue cr with
    | none => s.illegal
    | some v =>
      match (if cr = 0 then s.flagsDue else none) with
      | some id => s.replayWait (.coll id)
      | none =>
        let s := if (0x010 ≤ cr ∧ cr ≤ 0x013) ∨ cr = 0x02B ∨ cr = 0x064 then s.acquired else s
        s.alu 4 rd fun _ => v

/-! ### Writes -/

/-- A write of FCR: it waits until every earlier instruction has set its flags (R295, R297). -/
def State.writeFcr (s : State) (v : Word) : State :=
  if v.toNat / 2 ^ 12 ≠ 0 ∨ fld v.toNat 5 2 ≠ 0 then s.illegal
  else match s.flagsDue with
    | some id => s.replayWait (.coll id)
    | none => s.retire 4 fun l => { l with fcr := v }

/-- A table base written: the entries are checked, then read as strong loads at scope .v on rp0, and the level waits until
all have been read; the register and the cached entries change then, and not at all where a read fails (R210, R306, R355). -/
def State.loadTable (s : State) (base : Word) (n : Nat) (f : Finish) : State :=
  match s.checkCur false (wordEls base (2 * n)) with
  | .fail c v a => s.raise c v a
  | .wait pages => s.awaitPages pages
  | .ok ps =>
    if !s.curCore.ropeRoom s.cur.lev.val ps.length then s.replay
    else
      let (s, id) := s.gather (s.ask0 .s .v) .s ps f
      (s.retire 4 fun l => { l with wait := .coll id }).pump s.curKey

/-- A write of DISPBASE loads entries 0x00 to 0x1F into the emptied dispatch cache (R208, R210). -/
def State.writeDispbase (s : State) (v : Word) : State :=
  if v.toNat / 2 ^ 56 ≠ 0 ∨ v.toNat % 2 ^ 12 ≠ 0 then s.illegal
  else s.loadTable v 32 (.dispload v)

/-- A write of TAGBASE loads all 64 reply-tag entries (R355). -/
def State.writeTagbase (s : State) (v : Word) : State :=
  if v.toNat / 2 ^ 56 ≠ 0 ∨ v.toNat % 2 ^ 10 ≠ 0 then s.illegal
  else s.loadTable v 64 (.tagload v)

/-- The registers of the rack sets, one after another, given undefined contents (R233, R235). -/
def State.blankSets (s : State) (k : Nat) (sets : List Nat) : State :=
  let regs := sets.flatMap fun set => tab 16 fun i => set * 16 + i
  regs.foldl (fun s r =>
    let (v, s) := s.freeVReg
    s.updCore k fun c => c.wv r v) s

/-- A write of RACKFLOOR (R233). A vector load that is still outstanding lands in the place it was issued for (DESIGN CHOICE, log entry
138). -/
def State.writeRackfloor (s : State) (v : Word) : State :=
  let f := fun (l : Level) => fld v.toNat (4 * l.val) 4
  let c := s.curCore
  let lvs : List Level := [0, 1, 2, 3]
  if v.toNat / 2 ^ 16 ≠ 0 ∨ lvs.any (fun l => f l == 0) ∨ 8 < f 0 + f 1 + f 2 + f 3 ∨
      lvs.any (fun l => l != s.cur.lev && (c.lvl l).act.isSome) ∨ lvs.any (fun l => c.borrowed l != 0) ∨ c.takes ≠ [] then
    s.illegal
  else
    let c := { c with floor := v }
    let c := lvs.foldl (fun c l => c.setLvl l { c.lvl l with held := c.floorSets l }) c
    let s := (s.setCurCore c).blankSets s.curKey (c.floorSets s.cur.lev)
    s.retire 4 fun l => { l with pend := l.pend.filter fun (e : Pend) => match e.reg with
      | .v _ => false
      | _ => true }

/-- A write of MXGOV sets the cluster's BUDGET; CAP is ignored (R259). -/
def State.writeMxgov (s : State) (v : Word) : State :=
  let b := fld v.toNat 0 5
  if v.toNat / 2 ^ 21 ≠ 0 ∨ fld v.toNat 5 11 ≠ 0 ∨ b = 0 ∨ 16 < b then s.illegal
  else (s.updClu (keyCluster s.curKey) fun c => { c with budget := b }).retire 4 id

/-- The change a write of another register makes, or none where R331 refuses it: a must-be-zero bit, a register that only
the machine writes, or a number that R285 does not assign. -/
def crPlain (cr : Nat) (v : Word) : Option ((Core → Core) × (Lvl → Lvl)) :=
  let lv := fun (f : Lvl → Lvl) => some ((fun (c : Core) => c), f)
  let co := fun (f : Core → Core) => some (f, fun (l : Lvl) => l)
  let low := fun (n : Nat) (x : Option ((Core → Core) × (Lvl → Lvl))) => if v.toNat / 2 ^ n ≠ 0 then none else x
  let shadow := fun (c : Core) => { c with chan := { c.chan with shadow := c.chan.shadow.set (cr - 0x020) v } }
  match cr with
  | 0x001 => low 1 (lv fun l => { l with stallchk := v })
  | 0x004 => low 11 (lv fun l => { l with trapcause := v })
  | 0x005 => lv fun l => { l with trappc := v }
  | 0x006 => lv fun l => { l with trapval := v }
  | 0x007 => lv fun l => { l with trapaddr := v }
  | 0x008 => if fld v.toNat 5 3 ≠ 0 then none else low 9 (lv fun l => { l with rbase := v })
  | 0x009 => low 32 (lv fun l => { l with lcount := v })
  | 0x020 => co shadow
  | 0x021 => co shadow
  | 0x022 => low 32 (co shadow)
  | 0x023 => co shadow
  | 0x024 => co shadow
  | 0x025 => co shadow
  | 0x026 => low 32 (co shadow)
  | 0x027 => low 32 (co shadow)
  | 0x028 => low 32 (co shadow)
  | 0x029 => low 1 (co shadow)
  | 0x043 => co fun c => { c with mx := { c.mx with stall := 0 } }
  | 0x044 => if fld v.toNat 5 3 ≠ 0 then none else low 9 (co fun c => { c with mx := { c.mx with mode := v } })
  | 0x060 => co fun c => { c with injstat := 0 }
  | 0x061 => co fun c => { c with evretry := 0 }
  | 0x062 => if fld v.toNat 1 11 ≠ 0 then none else low 16 (co fun c => { c with tracectl := v })
  | 0x063 => co fun c => { c with traceptr := 0 }
  | _ => none

/-- A write of a register without a row of its own (R331). -/
def State.writePlain (s : State) (cr : Nat) (v : Word) : State :=
  match crPlain cr v with
  | some (f, g) => (s.setCurCore (f s.curCore)).retire 4 g
  | none => s.illegal

/-- MTCR's effect. -/
def State.writeCr (s : State) (cr : Nat) (v : Word) : State :=
  match cr with
  | 0x000 => s.writeFcr v
  | 0x014 => s.writeDispbase v
  | 0x015 => s.writeTagbase v
  | 0x042 => s.writeMxgov v
  | 0x050 => s.writeRackfloor v
  | n => s.writePlain n v

/-- MFCR (R331). -/
def execMfcr (cr : BitVec 12) (rd : XReg) (s : State) : Outc := .next (s.readCr rd cr.toNat)
/-- MTCR (R331). -/
def execMtcr (cr : BitVec 12) (ra : XReg) (s : State) : Outc := .next (s.writeCr cr.toNat (s.curLvl.rx ra))

/-- DISPBASE_WRITE (R210): the effect of the issuing level's MTCR. -/
def execDispbaseWrite (s : State) : Outc := .next (s.writeDispbase (s.curLvl.rx s.arg.reg))
/-- TAGBASE_WRITE (R355). -/
def execTagbaseWrite (s : State) : Outc := .next (s.writeTagbase (s.curLvl.rx s.arg.reg))
/-- RACKFLOOR_WRITE (R233). -/
def execRackfloorWrite (s : State) : Outc := .next (s.writeRackfloor (s.curLvl.rx s.arg.reg))
/-- FCR_WRITE (R295, R297). -/
def execFcrWrite (s : State) : Outc := .next (s.writeFcr (s.curLvl.rx s.arg.reg))
/-- MXGOV_WRITE (R259). -/
def execMxgovWrite (s : State) : Outc := .next (s.writeMxgov (s.curLvl.rx s.arg.reg))
/-- CONTROL_REGISTER_WRITE (R331). -/
def execControlRegisterWrite (s : State) : Outc := .next (s.writePlain s.arg.cr.toNat (s.curLvl.rx s.arg.reg))
/-- CPGO_READ (R371). -/
def execCpgoRead (s : State) : Outc := .next (s.cpgo s.arg.reg)

/-! ### Waiting (R334, R335) -/

/-- SLEEP (R334). -/
def execSleep (ra : XReg) (s : State) : Outc :=
  .next (s.retire 4 fun l =>
    if l.rx ra = 0 then l else { l with wait := .sleep (s.now + 1 + (l.rx ra).toNat) })

/-- SLEEP_END (R334): the cycles of a SLEEP have passed. -/
def execSleepEnd (s : State) : Outc :=
  let k := coreKey s.arg.chip s.arg.node s.arg.slot
  let l := s.lvl k s.arg.lev
  .next (match l.wait with
    | .sleep t => if t ≤ s.now then s.setLvl k s.arg.lev { l with wait := .ready } else s
    | _ => s)

/-- WAITX waits until CPDONE is at or above ra; its completion is an acquire (R335). -/
def execWaitx (ra : XReg) (s : State) : Outc :=
  let id := s.curLvl.rx ra
  .next (if id.toNat ≤ s.curCore.chan.done.toNat then s.acquired.retire 4 fun l => l
    else s.retire 4 fun l => { l with wait := .waitx id.toNat })

/-! ### LNCH (R336, R337) -/

/-- LNCH: the release, and the record's words as strong loads at scope .v on rp0; the enqueue follows once they are read. -/
def execLnch (queue : BitVec 3) (ra rd : XReg) (s : State) : Outc :=
  let p := s.curLvl.rx ra
  .next (
    if !tagOk p then s.raise Cause.fmtBad p p
    else if p.toNat % 64 ≠ 0 then s.raise Cause.misalign 0 p
    else match s.checkCur false (wordEls p 8) with
      | .fail c v a => s.raise c v a
      | .wait pages => s.awaitPages pages
      | .ok ps =>
        if !s.curCore.ropeRoom s.cur.lev.val ps.length then s.replay
        else
          let (s, id) := s.gather (s.ask0 .rel .v) .s ps (.lnch rd.toNat queue.toNat)
          (s.retire 4 fun l => l.lock (.x rd.toNat) id).pump s.curKey)

/-! ### Follower mode (R338, R339) -/

/-- SLAVE names a leader; the level attaches when their program counters meet (R222, R338). -/
def execSlave (leader : BitVec 3) (s : State) : Outc :=
  .next (if activeOf (s.clu (keyCluster s.curKey)) s.cur.slot = some leader.toNat then s.illegal
    else s.retire 4 fun l => { l with follow := some ⟨leader.toNat, false, 0, []⟩ })

/-- UNSLAVE (R339). -/
def execUnslave (s : State) : Outc := .next (s.retire 4 fun l => { l with follow := none })

end Sys2Proof.Machine
end

