-- ==== Sys2Proof/Machine/Memory.lean ====
section
/-! DEFINITION. Scalar loads and stores (R343 to R345), the compact forms C.LD and C.ST (R275), full/empty accesses (R346,
R347) and atomics (R348, R349). -/

namespace Sys2Proof.Machine

/-! ### LD, ST, LDX, STX (R343 to R345) -/

/-- Bytes of a size field (R344). -/
def sizeBytes : Size → Nat
  | .b => 1 | .h => 2 | .w => 4 | .d => 8

/-- The kind and scope of an ord field: `sync` is an acquire for a load and a release for a store, at scope .v (R344). -/
def ordKind (store : Bool) : Ord → Kind × Scope
  | .w => (.w, .c)
  | .s => (.s, .v)
  | .sync => (if store then .rel else .acq, .v)

/-- A scalar load of `z` bytes of a word of `n` bytes. -/
def State.loadX (s : State) (n : Nat) (rsel : Bool) (k : Kind) (sc : Scope) (a : Word) (z : Nat) (signed : Bool)
    (rd : XReg) : State :=
  s.scalarAccess n rsel k sc true ⟨0, a, z, .load, permR, 0, 0, -1, false, 0⟩ (.reg rd.toNat z signed)

/-- A scalar store of the low `z` bytes of a value. -/
def State.storeX (s : State) (n : Nat) (rsel : Bool) (k : Kind) (sc : Scope) (a : Word) (z : Nat) (v : Word) : State :=
  s.scalarAccess n rsel k sc true ⟨0, a, z, .store, permW, BitVec.ofNat 64 (v.toNat % 2 ^ (8 * z)), 0, -1, false, 0⟩ .drop

/-- The address of an indexed form (R345). -/
def indexed (l : Lvl) (ra rb : XReg) (size : Size) : Word := l.rx ra + BitVec.ofNat 64 ((l.rx rb).toNat * sizeBytes size)

/-- LD (R343). -/
def execLd (rsel : Bool) (sc : Scope) (kind : Kind) (off : BitVec 5) (ra rd : XReg) (s : State) : Outc :=
  .next (s.loadX 4 rsel kind sc (s.curLvl.rx ra + off.setWidth 64) 8 false rd)
/-- ST (R343). -/
def execSt (rsel : Bool) (sc : Scope) (kind : Kind) (off : BitVec 5) (ra rs : XReg) (s : State) : Outc :=
  .next (s.storeX 4 rsel kind sc (s.curLvl.rx ra + off.setWidth 64) 8 (s.curLvl.rx rs))
/-- LDX (R345). -/
def execLdx (rsel : Bool) (ord : Ord) (zx : Bool) (size : Size) (rb ra rd : XReg) (s : State) : Outc :=
  let (k, sc) := ordKind false ord
  .next (s.loadX 4 rsel k sc (indexed s.curLvl ra rb size) (sizeBytes size) (!zx) rd)
/-- STX (R345). -/
def execStx (rsel : Bool) (ord : Ord) (size : Size) (rb ra rs : XReg) (s : State) : Outc :=
  let (k, sc) := ordKind true ord
  .next (s.storeX 4 rsel k sc (indexed s.curLvl ra rb size) (sizeBytes size) (s.curLvl.rx rs))
/-- C.LD behaves as a weak LD on rp0 (R275). -/
def execCLd (b a : BitVec 4) (s : State) : Outc := .next (s.loadX 2 false .w .c (s.curLvl.rx (x4 b)) 8 false (x4 a))
/-- C.ST behaves as a weak ST on rp0 (R275). -/
def execCSt (b a : BitVec 4) (s : State) : Outc := .next (s.storeX 2 false .w .c (s.curLvl.rx (x4 b)) 8 (s.curLvl.rx (x4 a)))

/-! ### Full/empty accesses (R346, R347) -/

/-- A weak kind acts as .s where the class is never weak (R115). -/
def notWeak : Kind → Kind
  | .w => .s
  | k => k

/-- The permissions of a full/empty access (R28). -/
def fePerm : AccClass → Nat
  | .fe .ff => permR
  | .fe .ef => permW
  | .fe .xf => permW
  | _ => permR + permW

/-- A full/empty access of the word at ra. -/
def State.feAccess (s : State) (rsel : Bool) (sc : Scope) (k : Kind) (c : AccClass) (ra : XReg) (v : Word) (d : Dest) : State :=
  s.scalarAccess 4 rsel (notWeak k) sc false ⟨0, s.curLvl.rx ra, 8, c, fePerm c, v, 0, -1, false, 0⟩ d

/-- LDFE.ff (R346). -/
def execLdfeFf (rsel : Bool) (sc : Scope) (kind : Kind) (ra rd : XReg) (s : State) : Outc :=
  .next (s.feAccess rsel sc kind (.fe .ff) ra 0 (.reg rd.toNat 8 false))
/-- LDFE.fe (R346). -/
def execLdfeFe (rsel : Bool) (sc : Scope) (kind : Kind) (ra rd : XReg) (s : State) : Outc :=
  .next (s.feAccess rsel sc kind (.fe .fe) ra 0 (.reg rd.toNat 8 false))
/-- STFE.ef (R346). -/
def execStfeEf (rsel : Bool) (sc : Scope) (kind : Kind) (ra rs : XReg) (s : State) : Outc :=
  .next (s.feAccess rsel sc kind (.fe .ef) ra (s.curLvl.rx rs) .drop)
/-- STFE.xf (R346). -/
def execStfeXf (rsel : Bool) (sc : Scope) (kind : Kind) (ra rs : XReg) (s : State) : Outc :=
  .next (s.feAccess rsel sc kind (.fe .xf) ra (s.curLvl.rx rs) .drop)
/-- FEQ (R346). -/
def execFeq (rsel : Bool) (sc : Scope) (kind : Kind) (ra rd : XReg) (s : State) : Outc :=
  .next (s.feAccess rsel sc kind .feq ra 0 (.reg rd.toNat 8 false))

/-! ### Atomics (R348, R349) -/

/-- An atomic of the word at ra, with its operands. -/
def State.amoWith (s : State) (rsel : Bool) (sc : Scope) (k : Kind) (op : AmoOp) (z : Nat) (ra rd : XReg) (v v' : Word) : State :=
  s.scalarAccess 4 rsel (notWeak k) sc false ⟨0, s.curLvl.rx ra, z, .amo op, permR + permW, v, v', -1, false, 0⟩
    (.reg rd.toNat z false)

/-- An atomic with rd as its operand. -/
def State.amo (s : State) (rsel : Bool) (sc : Scope) (k : Kind) (op : AmoOp) (z : Nat) (ra rd : XReg) : State :=
  s.amoWith rsel sc k op z ra rd (s.curLvl.rx rd) 0

/-- AMO.ADD (R348, R349). -/
def execAmoAdd (rsel : Bool) (sc : Scope) (kind : Kind) (ra rd : XReg) (s : State) : Outc :=
  .next (s.amo rsel sc kind .add 8 ra rd)
/-- AMO.AND (R348, R349). -/
def execAmoAnd (rsel : Bool) (sc : Scope) (kind : Kind) (ra rd : XReg) (s : State) : Outc :=
  .next (s.amo rsel sc kind .and 8 ra rd)
/-- AMO.OR (R348, R349). -/
def execAmoOr (rsel : Bool) (sc : Scope) (kind : Kind) (ra rd : XReg) (s : State) : Outc :=
  .next (s.amo rsel sc kind .or 8 ra rd)
/-- AMO.XOR (R348, R349). -/
def execAmoXor (rsel : Bool) (sc : Scope) (kind : Kind) (ra rd : XReg) (s : State) : Outc :=
  .next (s.amo rsel sc kind .xor 8 ra rd)
/-- AMO.MIN (R348, R349). -/
def execAmoMin (rsel : Bool) (sc : Scope) (kind : Kind) (ra rd : XReg) (s : State) : Outc :=
  .next (s.amo rsel sc kind .min 8 ra rd)
/-- AMO.MAX (R348, R349). -/
def execAmoMax (rsel : Bool) (sc : Scope) (kind : Kind) (ra rd : XReg) (s : State) : Outc :=
  .next (s.amo rsel sc kind .max 8 ra rd)
/-- AMO.MINN (R348, R349). -/
def execAmoMinn (rsel : Bool) (sc : Scope) (kind : Kind) (ra rd : XReg) (s : State) : Outc :=
  .next (s.amo rsel sc kind .minn 8 ra rd)
/-- AMO.MAXN (R348, R349). -/
def execAmoMaxn (rsel : Bool) (sc : Scope) (kind : Kind) (ra rd : XReg) (s : State) : Outc :=
  .next (s.amo rsel sc kind .maxn 8 ra rd)
/-- AMO.SWAP (R348, R349). -/
def execAmoSwap (rsel : Bool) (sc : Scope) (kind : Kind) (ra rd : XReg) (s : State) : Outc :=
  .next (s.amo rsel sc kind .swap 8 ra rd)
/-- AMO.FADD.F32 (R348, R349). -/
def execAmoFaddF32 (rsel : Bool) (sc : Scope) (kind : Kind) (ra rd : XReg) (s : State) : Outc :=
  .next (s.amo rsel sc kind .faddF32 4 ra rd)
/-- AMO.FMAX.F32 (R348, R349). -/
def execAmoFmaxF32 (rsel : Bool) (sc : Scope) (kind : Kind) (ra rd : XReg) (s : State) : Outc :=
  .next (s.amo rsel sc kind .fmaxF32 4 ra rd)
/-- AMO.CAS: rd holds the compare value and must be even, rd + 1 the new value (R349). -/
def execAmoCas (rsel : Bool) (sc : Scope) (kind : Kind) (ra rd : XReg) (s : State) : Outc :=
  .next (if rd.getLsbD 0 then s.illegal
    else s.amoWith rsel sc kind .cas 8 ra rd (s.curLvl.rx rd) (s.curLvl.rx (rd + 1)))

end Sys2Proof.Machine
end

