-- ==== Sys2Proof/Machine/Order.lean ====
section
/-! DEFINITION. The ordering instructions: FENCE, FENCE.SC, FENCEF (R132 to R135) and the ROPE instructions (R125 to R129,
R165, R350, R351). -/

namespace Sys2Proof.Machine

/-- A scope wider than the core (R61). -/
def scopeWide (sc : Scope) : Bool := sc != .c

/-! ### Fences -/

/-- The level's operations so far ordered before its later ones; the level waits for the loads among them, or with `all`
for every one (R132, R133). -/
def State.fenceWith (s : State) (all : Bool) (sc : Scope) : State :=
  let s := (s.updCore s.curKey fun c => c.fenced s.cur.lev).retire 4 fun l => { l with wait := .fence l.po all (scopeWide sc) }
  s.pump s.curKey

/-- FENCE (R132). -/
def execFence (sc : Scope) (s : State) : Outc := .next (s.fenceWith false sc)
/-- FENCE.SC also waits until every earlier operation has performed, so that the fences that include one another complete in
one order (R133). -/
def execFenceSc (sc : Scope) (s : State) : Outc := .next (s.fenceWith true sc)

/-- FENCEF: the flag store in mode .xf, a release on its rope, with the number of the rope's writes to the flag's node since
its last flag there (R134, R135). -/
def execFencef (sc : Scope) (rope : RopeName) (ra rs : XReg) (s : State) : Outc :=
  let p := s.curLvl.rx ra
  .next (match s.curLvl.slotOf s.cur.lev rope.toNat with
    | none => s.raise Cause.illegal (rope.setWidth 64) 0
    | some slot =>
      if !tagOk p then s.raise Cause.fmtBad p p
      else match s.checkCur false [⟨0, p, 8, .fe .xf, permW, s.curLvl.rx rs, 0, -1, false, 0⟩] with
        | .fail c v a => s.raise c v a
        | .wait pages => s.awaitPages pages
        | .ok ps =>
          if !s.curCore.ropeRoom slot 1 then s.replay
          else
            let ask : Ask := ⟨slot, rope.toNat, .rel, sc⟩
            let n := fun (pa : Nat) => let u := ownerOf pa; AMap.get (s.curCore.ropeAt slot).wrote 0 (nodeKey u.chip u.node)
            let s := s.addOps ask (ps.map fun q => ⟨p, .flag (s.accOf ask q) (n q.pa), .drop, q.xl, .held⟩)
            (s.retire 4 fun l => { l with xl := [] }).pump s.curKey)

/-! ### Ropes -/

/-- A new rope made in a name, after what `preds` gives: a rope in the name is dropped first, and with no free slot ROPE_EXH
is raised (R125, R126). The rope's number is `State.nextId`. -/
def State.newRope (s : State) (name : Nat) (preds : List (Nat × Nat × Nat)) (adopt : List Nat) : Option State :=
  let c := s.curCore.dropName s.cur.lev name
  c.freeSlot.map fun slot => { s.setCurCore (c.makeRope s.cur.lev name slot s.nextId preds adopt) with nextId := s.nextId + 1 }

/-- ILLEGAL for a name that holds no rope (R122). -/
def State.noRope (s : State) (name : Nat) : State := s.raise Cause.illegal (BitVec.ofNat 64 name) 0

/-- ROPE.FORK (R125). -/
def execRopeFork (rpS rpD : RopeName) (s : State) : Outc :=
  .next (if rpD = 0 then s.illegal
    else match s.curLvl.slotOf s.cur.lev rpS.toNat with
      | none => s.noRope rpS.toNat
      | some a => match s.newRope rpD.toNat (s.curCore.ropeAt a).point (s.curCore.ropeAt a).adopt with
        | some s => s.retire 4 id
        | none => s.raise Cause.ropeExh 0 0)

/-- ROPE.JOIN (R125). -/
def execRopeJoin (rpA rpD rpB : RopeName) (s : State) : Outc :=
  .next (if rpD = 0 then s.illegal
    else match s.curLvl.slotOf s.cur.lev rpA.toNat, s.curLvl.slotOf s.cur.lev rpB.toNat with
      | none, _ => s.noRope rpA.toNat
      | _, none => s.noRope rpB.toNat
      | some a, some b =>
      let x := s.curCore.ropeAt a
      let y := s.curCore.ropeAt b
      match s.newRope rpD.toNat (x.point ++ y.point) (x.adopt ++ y.adopt) with
      | some s => s.retire 4 id
      | none => s.raise Cause.ropeExh 0 0)

/-- A rope handle (R127). -/
def ropeHandle (vd key slot epoch point : Nat) : Word :=
  BitVec.ofNat 64 (vd * 2 ^ 48 + keyChip key * 2 ^ 39 + keyNode key * 2 ^ 29 + keySlot key * 2 ^ 25 + slot * 2 ^ 19 +
    epoch % 128 * 2 ^ 12 + point % 4096)

/-- ROPE.XFER (R125, R127). -/
def execRopeXfer (rpS : RopeName) (rd : XReg) (s : State) : Outc :=
  .next (match s.curLvl.slotOf s.cur.lev rpS.toNat with
    | none => s.noRope rpS.toNat
    | some a =>
      let r := s.curCore.ropeAt a
      s.alu 4 rd fun _ => ropeHandle s.curVd s.curKey a r.epoch r.issued)

/-- ROPE.ADOPT: a rope whose operations wait for the answer of the core that the handle names (R128, R129). The request
itself stands on no rope and in no program order. -/
def execRopeAdopt (rpD : RopeName) (rs : XReg) (s : State) : Outc :=
  let h := s.curLvl.rx rs
  .next (if rpD = 0 then s.illegal
    else if 9 ≤ fld h.toNat 25 4 then s.raise Cause.access h 0
    else if fld h.toNat 48 16 ≠ s.curVd then s.raise Cause.access 0 0
    else match s.newRope rpD.toNat [] [s.nextId + 1] with
      | none => s.raise Cause.ropeExh 0 0
      | some t =>
        let x := t.curLvl
        let o : Op := { id := t.nextId, lev := t.cur.lev.val, act := x.acts, launch := x.launch, po := 2 ^ 64,
                        rope := t.nextId, idx := 0, kind := .s, scope := .y, pc := x.ipc, va := h,
                        work := .adopt h s.nextId, dest := .drop, st := .held }
        let t := { t.updCore t.curKey (fun c => { c with ops := c.ops ++ [o] }) with nextId := t.nextId + 1 }
        (t.retire 4 id).pump t.curKey)

/-- ROPE.DROP (R125, R126). -/
def execRopeDrop (rope : RopeName) (s : State) : Outc :=
  .next (if rope = 0 then s.illegal else (s.setCurCore (s.curCore.dropName s.cur.lev rope.toNat)).retire 4 id)

/-- ROPE.WAIT (R125, R165). -/
def execRopeWait (rope : RopeName) (s : State) : Outc :=
  .next (match s.curLvl.slotOf s.cur.lev rope.toNat with
    | none => s.noRope rope.toNat
    | some a =>
      let uid := (s.curCore.ropeAt a).uid
      let s := s.retire 4 fun l => { l with wait := .ropeWait uid }
      s.pump s.curKey)

end Sys2Proof.Machine
end

