-- ==== Sys2Proof/Machine/Message.lean ====
section
/-! DEFINITION. Messages and asynchronous reads at their source: SEND, SENDC, SPAWN, AREAD and TBIND (R352 to R357), and the
multicast instructions MCST, MCLD and MCJOIN (R358 to R361, R490). -/

namespace Sys2Proof.Machine

/-- Whether the issuing activation's own core is the target of a message. -/
def State.targetUnit (s : State) (vdcore : Nat) : UnitId :=
  match s.vdev? s.curVd with
  | some v => coreUnit (s.vdCoreKey v vdcore)
  | none => coreUnit s.curKey

/-- What a message address must hold, for a message form (R352). -/
inductive MsgForm where
  | send | sendc | spawn
  deriving DecidableEq, Repr

/-- Whether a message address keeps the limits of R352's table. -/
def State.addressOk (s : State) (a : Word) (f : MsgForm) : Bool :=
  let ty := fld a.toNat 56 8
  let clen := fld a.toNat 47 9
  let narg := fld a.toNat 44 3
  let cores := match s.vdev? s.curVd with
    | some v => v.cores
    | none => 0
  fld a.toNat 24 20 == 0 && decide (fld a.toNat 0 24 < cores) &&
    match f with
    | .send => decide (0x20 ≤ ty) && clen == 0 && decide (narg ≤ 4)
    | .sendc => decide (0x20 ≤ ty) && decide (2 ≤ clen ∧ clen ≤ 448) && clen % 2 == 0 && narg == 0
    | .spawn => ty == 0 && clen == 0 && narg == 0

/-- Scalar registers from x10 on. -/
def Lvl.argWords (l : Lvl) (n : Nat) : List Word := tab n fun i => l.rx (BitVec.ofNat 5 (10 + i))

/-- A message of the issuing activation (R213, R216). -/
def State.message (s : State) (a : Word) (args : List Word) : Msg :=
  { ty := fld a.toNat 56 8, args := args, launch := s.curLvl.launch,
    remote := s.targetUnit (fld a.toNat 0 24) != coreUnit s.curKey }

/-- SEND (R353). -/
def execSend (rope : RopeName) (ra : XReg) (s : State) : Outc :=
  let a := s.curLvl.rx ra
  .next (match s.curLvl.slotOf s.cur.lev rope.toNat with
    | none => s.noRope rope.toNat
    | some slot =>
      if !s.addressOk a .send then s.raise Cause.access a 0
      else if !s.curCore.ropeRoom slot 1 then s.replay
      else
        let m := s.message a (s.curLvl.argWords (fld a.toNat 44 3))
        let s := s.addOps ⟨slot, rope.toNat, .rel, .y⟩ [⟨a, .message m (s.targetUnit (fld a.toNat 0 24)), .drop, none, .held⟩]
        (s.retire 4 id).pump s.curKey)

/-- SENDC: the code is read as weak loads of its parcels on the rope; the message follows with it (R353). -/
def execSendc (rope : RopeName) (rb ra : XReg) (s : State) : Outc :=
  let a := s.curLvl.rx ra
  let p := s.curLvl.rx rb
  let n := fld a.toNat 47 9 / 2
  .next (match s.curLvl.slotOf s.cur.lev rope.toNat with
    | none => s.noRope rope.toNat
    | some slot =>
      if !s.addressOk a .sendc then s.raise Cause.access a 0
      else if !tagOk p then s.raise Cause.fmtBad p p
      else match s.checkCur false (tab n fun i => ⟨i, p + BitVec.ofNat 64 (2 * i), 2, .load, permR, 0, 0, -1, false, i⟩) with
        | .fail c v x => s.raise c v x
        | .wait pages => s.awaitPages pages
        | .ok ps =>
          if !s.curCore.ropeRoom slot (n + 1) then s.replay
          else
            let op := s.nextId + n + 1
            let (s, _) := s.gather ⟨slot, rope.toNat, .w, .c⟩ .w ps (.sendc op)
            let m := { s.message a [] with code := some [] }
            let s := s.addOps ⟨slot, rope.toNat, .rel, .y⟩
              [{ va := a, work := .message m (s.targetUnit (fld a.toNat 0 24)), st := .awaiting }]
            (s.retire 4 id).pump s.curKey)

/-- SPAWN: the level waits for the target's answer (R354). -/
def execSpawn (rope : RopeName) (rb ra : XReg) (s : State) : Outc :=
  let a := s.curLvl.rx ra
  let p := s.curLvl.rx rb
  .next (match s.curLvl.slotOf s.cur.lev rope.toNat with
    | none => s.noRope rope.toNat
    | some slot =>
      if !s.addressOk a .spawn then s.raise Cause.access a 0
      else if p.toNat / 2 ^ 56 ≠ 0 then s.raise Cause.access 0 p
      else if p.getLsbD 0 then s.raise Cause.misalign 0 p
      else if !s.curCore.ropeRoom slot 1 then s.replay
      else
        let l := s.curLvl
        let m := { s.message a (l.argWords 4) with
          ty := 1, pc := p, lev := s.cur.lev.val, schk := l.stallchk.getLsbD 0,
          tile := (l.act.map Act.tile).getD [] }
        let op := s.nextId
        let s := s.addOps ⟨slot, rope.toNat, .rel, .y⟩ [⟨a, .spawn m (s.targetUnit (fld a.toNat 0 24)), .drop, none, .held⟩]
        (s.retire 4 fun l => { l with wait := .spawn op p }).pump s.curKey)

/-- AREAD (R357). -/
def execAread (rope : RopeName) (rb ra : XReg) (s : State) : Outc :=
  let p := s.curLvl.rx ra
  let w := s.curLvl.rx rb
  let dst := fld w.toNat 32 16
  let len := (fld w.toNat 8 6 + 1) * 8
  let tag := fld w.toNat 0 6
  .next (match s.curLvl.slotOf s.cur.lev rope.toNat with
    | none => s.noRope rope.toNat
    | some slot =>
      if fld w.toNat 48 16 ≠ 0 ∨ fld w.toNat 14 18 ≠ 0 ∨ fld w.toNat 6 2 ≠ 0 then s.raise Cause.access 0 0
      else if !(AMap.get s.curCore.tags {} tag).v then s.raise Cause.illegal (BitVec.ofNat 64 tag) 0
      else if !tagOk p then s.raise Cause.fmtBad p p
      else if 256 < p.toNat % 256 + len then s.raise Cause.misalign 0 p
      else if dst % 8 ≠ 0 then s.raise Cause.misalign 0 (BitVec.ofNat 64 dst)
      else if 0x10000 < dst + len then s.raise Cause.access 0 (BitVec.ofNat 64 dst)
      else match s.checkCur false [⟨0, p, 8, .load, permR, 0, 0, -1, false, 0⟩] with
        | .fail c v x => s.raise c v x
        | .wait pages => s.awaitPages pages
        | .ok ps =>
          if s.curCore.tagBusy.contains tag ∨ !s.curCore.ropeRoom slot 1 then s.replay
          else
            let args := [BitVec.ofNat 64 tag, w, 0, p]
            let s := s.updCore s.curKey fun c => { c with tagBusy := insertNat tag c.tagBusy }
            let s := s.addOps ⟨slot, rope.toNat, .s, .y⟩ (ps.map fun q => ⟨p, .aread q.pa len tag dst args, .drop, q.xl, .held⟩)
            (s.retire 4 fun l => { l with xl := [] }).pump s.curKey)

/-- TBIND writes the entry of a tag, as a strong store at scope .v on rp0, and the core's copy of it; it completes when both
are done (R356). -/
def execTbind (rb ra : XReg) (s : State) : Outc :=
  let a := s.curLvl.rx ra
  let pc := s.curLvl.rx rb
  let tag := fld a.toNat 0 6
  let lev := fld a.toNat 8 2
  let at_ := s.curCore.tagbase + BitVec.ofNat 64 (16 * tag)
  .next (
    if fld a.toNat 6 2 ≠ 0 ∨ a.toNat / 2 ^ 10 ≠ 0 then s.raise Cause.access 0 0
    else match s.checkCur false
        [⟨0, at_, 8, .store, permW, pc, 0, -1, false, 0⟩,
         ⟨1, at_ + 8, 8, .store, permW, BitVec.ofNat 64 (0x80 + lev), 0, -1, false, 1⟩] with
      | .fail c v x => s.raise c v x
      | .wait pages => s.awaitPages pages
      | .ok ps =>
        if !s.curCore.ropeRoom s.cur.lev.val 2 then s.replay
        else
          let (s, id) := s.gather (s.ask0 .s .v) .s ps (.tbind tag lev pc)
          (s.retire 4 fun l => { l with wait := .coll id }).pump s.curKey)

/-! ### Multicast (R358 to R361, R490) -/

/-- The fields of a multicast word (R358). -/
def mcastOf (w rb : Word) (rc : Nat) : Mcast := ⟨fld w.toNat 0 10, fld w.toNat 32 32, fld w.toNat 12 2, fld w.toNat 10 2, rb, rc, 0⟩

/-- Whether a multicast word breaks R358's table. -/
def mcastBad (w : Word) (store : Bool) : Bool :=
  fld w.toNat 14 18 != 0 || decide (2 ≤ fld w.toNat 12 2) || (store && fld w.toNat 32 32 != 0)

/-- The bytes of scratchpad that a multicast reaches from rc (R358). -/
def Mcast.reach (m : Mcast) (store : Bool) : Nat :=
  if store then 256 else match ((tab 32 id).filter fun i => m.lmask.testBit i).getLast? with
    | some i => 256 * (i + 1)
    | none => 0

/-- The checks on rb and rc that come before translation, in the order of R340 (R358). -/
def mcastCheck (m : Mcast) (rc : Word) (store : Bool) : Option (Nat × Word × Word) :=
  if !tagOk m.rb then some (Cause.fmtBad, m.rb, m.rb)
  else if m.rb.toNat % 256 ≠ 0 then some (Cause.misalign, 0, m.rb)
  else if rc.toNat % 8 ≠ 0 then some (Cause.misalign, 0, rc)
  else if m.rb.getLsbD 56 then some (Cause.access, 0, m.rb)
  else if 0x10000 < rc.toNat + m.reach store ∨ 0x10000 ≤ rc.toNat then some (Cause.access, 0, rc)
  else none

/-- MCST (R360). The issuer sends no other multicast of the group before this one completes (R111). -/
def execMcst (rope : RopeName) (rb ra rc : XReg) (s : State) : Outc :=
  let w := s.curLvl.rx ra
  let c := s.curLvl.rx rc
  let m := mcastOf w (s.curLvl.rx rb) c.toNat
  .next (match s.curLvl.slotOf s.cur.lev rope.toNat with
    | none => s.noRope rope.toNat
    | some slot =>
      if mcastBad w true then s.raise Cause.access w 0
      else match mcastCheck m c true with
        | some (cause, v, x) => s.raise cause v x
        | none =>
          if s.curCore.mcOut.contains m.group ∨ !s.curCore.ropeRoom slot 1 then s.replay
          else
            let s := s.updCore s.curKey fun c => { c with mcOut := insertNat m.group c.mcOut }
            let s := s.addOps ⟨slot, rope.toNat, .rel, .y⟩ [⟨m.rb, .mcst m (scratchPa s.curKey m.rc) none, .drop, none, .held⟩]
            (s.retire 4 id).pump s.curKey)

/-- The local members of a group table entry: node and unit (R106). -/
def entryMembers (e : List Word) : List (Nat × Nat) :=
  (tab (min 28 (fld (e.getD 0 0).toNat 17 5)) fun i =>
    let h := fld (e.getD (1 + i / 4) 0).toNat (16 * (i % 4)) 16
    (fld h 4 10, h % 16))

/-- Whether a chip's entry of a group is valid for a virtual device (R106). -/
def State.entryValid (s : State) (chip g vd : Nat) : Bool :=
  let w := ((s.groupEntry chip g).getD 0 0).toNat
  fld w 63 1 == 1 && fld w 47 16 == vd

/-- MCLD: checked, registered at its core, and requested from the home slice (R361, R488). With no line wanted, the
collector of no parts completes it at once (R362). -/
def execMcld (rope : RopeName) (rb ra rc : XReg) (s : State) : Outc :=
  let w := s.curLvl.rx ra
  let c := s.curLvl.rx rc
  let m := mcastOf w (s.curLvl.rx rb) c.toNat
  let ix := (tab 32 id).filter fun i => m.lmask.testBit i
  .next (match s.curLvl.slotOf s.cur.lev rope.toNat with
    | none => s.noRope rope.toNat
    | some slot =>
      if mcastBad w false then s.raise Cause.access w 0
      else match mcastCheck m c false with
        | some (cause, v, x) => s.raise cause v x
        | none =>
          match s.checkCur false ((0 :: ix).map fun i =>
              ⟨i, m.rb + BitVec.ofNat 64 (256 * i), 8, .load, permR, 0, 0, -1, false, i⟩) with
          | .fail cause v x => s.raise cause v x
          | .wait pages => s.awaitPages pages
          | .ok ps =>
            if !(s.entryValid s.cur.chip m.group s.curVd) ||
                !(entryMembers (s.groupEntry s.cur.chip m.group)).contains (s.cur.node, s.cur.slot) then
              s.raise Cause.access w 0
            else if s.curCore.mcOut.contains m.group ∨ !s.curCore.ropeRoom slot 1 then s.replay
            else
              let lines := ps.tail.map fun p => (p.el.lane, p.pa)
              let m := { m with mt := (ps.map Placed.mt).headD 0 }
              let pa := (ps.map Placed.pa).headD 0
              let reg : McldReg := ⟨s.nextId, m, s.cur.lev.val, s.curLvl.launch, lines, ps.filterMap Placed.xl, ix, 0, 0, 0⟩
              let s := s.updCore s.curKey fun c =>
                { c with mcOut := insertNat m.group c.mcOut, mclds := c.mclds ++ [reg] }
              let s := if ix = [] then
                  { s with nextId := s.nextId + 2, pkts := s.pkts ++
                      [⟨s.nextId + 1, coreUnit s.curKey, coreUnit s.curKey, s.curVd, .control, 0,
                        .mcldAnswer s.nextId 0, .arrived, 0, 0, 0⟩] }
                else s.addOps ⟨slot, rope.toNat, .rel, .y⟩ [⟨m.rb, .mcld m pa lines, .drop, ps.head?.bind Placed.xl, .held⟩]
              (s.retire 4 fun l => { l with xl := [] }).pump s.curKey)

/-- MCJOIN reads the image as strong loads at scope .v, and completes when the routers hold the tree (R359, R490). -/
def execMcjoin (rb ra : XReg) (s : State) : Outc :=
  let g := s.curLvl.rx ra
  let p := s.curLvl.rx rb
  .next (
    if g.toNat / 2 ^ 10 ≠ 0 then s.raise Cause.access 0 0
    else if !tagOk p then s.raise Cause.fmtBad p p
    else match s.checkCur false (wordEls p 8) with
      | .fail c v x => s.raise c v x
      | .wait pages => s.awaitPages pages
      | .ok ps =>
        if !s.curCore.ropeRoom s.cur.lev.val ps.length then s.replay
        else
          let (s, id) := s.gather (s.ask0 .s .v) .s ps (.mcjoin g.toNat)
          (s.retire 4 fun l => { l with wait := .coll id }).pump s.curKey)

end Sys2Proof.Machine
end

