-- ==== Sys2Proof/Machine/Translate.lean ====
section
/-! DEFINITION. Two-stage translation (R22 to R29) as a walk over the tables in memory, and what a walk does for those who
wait for it (R33 to R37): the meanings of TABLE_WALK and PAGE_ANSWER, and the invalidations (R38 to R42, R368). -/

namespace Sys2Proof.Machine

/-! ### Table entries (R23, R25, R26) -/

/-- The index bits of a level: lowest bit and width. -/
def levelBits : Nat → Nat × Nat
  | 0 => (48, 8) | 1 => (39, 9) | 2 => (30, 9) | 3 => (21, 9) | _ => (16, 5)
/-- log2 of a level's table size, which is also its alignment. -/
def tableLog : Nat → Nat
  | 0 => 11 | 4 => 8 | _ => 12
/-- log2 of the page size of a leaf at a level. -/
def leafLog : Nat → Nat
  | 2 => 30 | 3 => 21 | _ => 16

/-- The address field of an entry. -/
def entryAddr (e : Nat) : Nat := fld e 8 48 * 256
/-- Whether a valid entry is malformed at its level (R26). -/
def entryBad (stage level e : Nat) : Bool :=
  let table := fld e 1 1 == 1
  let a := entryAddr e
  fld e 56 4 != 0 || fld e 7 1 != 0 || fld e 5 2 == 3 || (!table && decide (level < 2)) || (table && level == 4) ||
    (table && fld e 2 6 != 0) || (table && a % 2 ^ tableLog (level + 1) != 0) || (!table && a % 2 ^ leafLog level != 0) ||
    (!table && stage == 2 && !mappedPa a)

/-- A leaf: level, permissions, memory type, frame. -/
structure Leaf where
  level : Nat
  perm  : Nat
  mt    : Nat
  frame : Nat
  deriving DecidableEq, Repr

/-- The entries that a walk has read from memory: address and value. -/
abbrev Seen := List (Nat × Word)

/-- What a walk of one stage gives. -/
inductive Walked where
  | leaf (l : Leaf) (seen : Seen)
  | miss (stage level page : Nat) (seen : Seen)          -- an entry with V = 0
  | bad (stage level input : Nat) (seen : Seen)          -- a malformed entry, and the address the stage was translating
  | lost (cause : Nat) (seen : Seen)                     -- an entry that cannot be read (R16, R65)
  deriving DecidableEq, Repr

/-- An entry as a walker reads it, and whether it was read from memory: from the walk cache where `cached` asks for it, else a
strong load (R29, R33); or the cause of an access to a page whose entry cannot be read: ACCESS where no memory is (R16), ECC_UNCORR for
a word with an uncorrectable error (R65, DEDUCED, log entry 104). -/
def State.tableEntry (s : State) (vd : Nat) (cached : Bool) (pa : Nat) : Except Nat (Nat × Bool) :=
  match (if cached then s.wcache.find? fun w => w.vd == vd && w.addr == pa else none) with
  | some w => .ok (w.val.toNat, false)
  | none =>
    if !s.populated pa then .error Cause.access
    else if s.isBad pa then .error Cause.eccUncorr
    else .ok (s.peek pa 8, true)

/-- The entries read, with one more where it came from memory. -/
def Seen.add (seen : Seen) (pa e : Nat) (read : Bool) : Seen := if read then seen ++ [(pa, BitVec.ofNat 64 e)] else seen

/-- The walk of stage 2 from a level, over the levels that are left. -/
def State.walk2 (s : State) (vd : Nat) (cached : Bool) (ipa : Nat) : Nat → Nat → Nat → Seen → Walked
  | 0, level, _, seen => .bad 2 level ipa seen
  | fuel + 1, level, table, seen =>
    let (lo, n) := levelBits level
    let pa := table + 8 * fld ipa lo n
    match s.tableEntry vd cached pa with
    | .error c => .lost c seen
    | .ok (e, read) =>
      let seen := Seen.add seen pa e read
      if fld e 0 1 = 0 then .miss 2 level (ipa / 2 ^ 16) seen
      else if entryBad 2 level e then .bad 2 level ipa seen
      else if fld e 1 1 = 1 then s.walk2 vd cached ipa fuel (level + 1) (entryAddr e) seen
      else .leaf ⟨level, fld e 2 3, fld e 5 2, entryAddr e⟩ seen

/-- The level-0 table of a base register (R24). -/
def baseTable (w : Word) : Nat := fld w.toNat 11 45 * 2 ^ 11

/-- The stage-2 translation of an intermediate address. -/
def State.stage2 (s : State) (vd : Nat) (s2 : Word) (cached : Bool) (ipa : Nat) : Walked :=
  s.walk2 vd cached ipa 5 0 (baseTable s2) []

/-- The walk of stage 1, every table read translated through stage 2 (R22). -/
def State.walk1 (s : State) (vd : Nat) (s2 : Word) (cached : Bool) (va : Nat) : Nat → Nat → Nat → Seen → Walked
  | 0, level, _, seen => .bad 1 level va seen
  | fuel + 1, level, table, seen =>
    let (lo, n) := levelBits level
    let ipa := table + 8 * fld va lo n
    match s.stage2 vd s2 cached ipa with
    | .miss st l p seen2 => .miss st l p (seen ++ seen2)
    | .bad st l a seen2 => .bad st l a (seen ++ seen2)
    | .lost c seen2 => .lost c (seen ++ seen2)
    | .leaf l2 seen2 =>
      let pa := l2.frame + ipa % 2 ^ leafLog l2.level
      match s.tableEntry vd cached pa with
      | .error c => .lost c (seen ++ seen2)
      | .ok (e, read) =>
        let seen := Seen.add (seen ++ seen2) pa e read
        if fld e 0 1 = 0 then .miss 1 level (va / 2 ^ 16) seen
        else if entryBad 1 level e then .bad 1 level va seen
        else if fld e 1 1 = 1 then s.walk1 vd s2 cached va fuel (level + 1) (entryAddr e) seen
        else .leaf ⟨level, fld e 2 3, fld e 5 2, entryAddr e⟩ seen

/-- What a two-stage walk of a virtual address gives: a combined translation (R27), a denial with the report of a malformed
entry (R26), a table that lies nowhere, or a page request; and the entries read. -/
inductive WalkRes where
  | hit (e : TlbEntry) (seen : Seen)
  | denied (trapval : Word) (bad : Option Report) (seen : Seen)
  | lost (cause : Nat) (seen : Seen)
  | ask (stage level page : Nat) (seen : Seen)
  deriving DecidableEq, Repr

/-- The entries that a walk has read. -/
def WalkRes.seen : WalkRes → Seen
  | .hit _ seen => seen
  | .denied _ _ seen => seen
  | .lost _ seen => seen
  | .ask _ _ _ seen => seen

/-- What a walk of one stage that ended without a leaf means for the whole walk; `before` are the entries read earlier. -/
def Walked.end_ (vd : Nat) (before : Seen) : Walked → WalkRes
  | .miss st l p seen => .ask st l p (before ++ seen)
  | .bad st l a seen => .denied (denyVal 1 l st) (some ⟨vd, st, l, a⟩) (before ++ seen)
  | .lost c seen => .lost c (before ++ seen)
  | .leaf _ seen => .lost Cause.access (before ++ seen)

/-- The two-stage walk of a mapped-space address (R22 to R27). -/
def State.walkVa (s : State) (vd : Nat) (cached : Bool) (va : Nat) : WalkRes :=
  match s.vdev? vd with
  | none => .denied (denyVal 3 0 1) none []
  | some v =>
    if !v.s1.getLsbD 0 then .denied (denyVal 3 0 1) none []
    else if !v.s2.getLsbD 0 then .denied (denyVal 3 0 2) none []
    else match s.walk1 vd v.s2 cached va 5 0 (baseTable v.s1) [] with
      | .leaf l1 seen1 =>
        let ipa := l1.frame + va % 2 ^ leafLog l1.level
        match s.stage2 vd v.s2 cached ipa with
        | .leaf l2 seen2 =>
          let pa := l2.frame + ipa % 2 ^ leafLog l2.level
          let log := min (leafLog l1.level) (leafLog l2.level)
          .hit ⟨vd, va / 2 ^ log, log, pa / 2 ^ log * 2 ^ log, ipa / 2 ^ log * 2 ^ log, (l1.level, l1.perm),
            (l2.level, l2.perm), max l1.mt l2.mt⟩ (seen1 ++ seen2)
        | w => w.end_ vd seen1
      | w => w.end_ vd []

/-- A translation for one of the device's own accesses (the launch unit, a cairn store, the host, a landing, a dispatch entry): what
a walk has decided for it, or that it has to ask for its walk. -/
inductive Direct where
  | ok (pa mt : Nat)
  | denied (trapval : Word)
  | lost (cause : Nat)
  | ask
  deriving DecidableEq, Repr

/-- What a decided page or a walk gives for an access that needs `need`. -/
def Xres.direct : Xres → Direct
  | .ok pa mt _ => .ok pa mt
  | .denied t => .denied t
  | .lost c => .lost c
  | .miss => .ask

/-- The translation of an address for an access of the device `w` that needs the permissions `need`, as its walk has decided it; a
stage that is disabled denies it whatever a walk has given (R24). -/
def State.direct (s : State) (w : Walker) (vd va need : Nat) : Direct :=
  match s.vdev? vd with
  | none => .denied (denyVal 3 0 1)
  | some v =>
    if !v.s1.getLsbD 0 then .denied (denyVal 3 0 1)
    else if !v.s2.getLsbD 0 then .denied (denyVal 3 0 2)
    else match s.told.find? fun x => x.1 == w && x.2.1 == va / 2 ^ 16 with
      | some (_, _, .denied t) => .denied t
      | some (_, _, .lost c) => .lost c
      | some (_, _, .hit e) => (e.judge va need).direct
      | none => .ask

/-- A stage-2 request told to the hypervisor once per virtual device and page (R34, R471), through the event ring of the first
chip of the virtual device's list (DESIGN CHOICE, log entry 105). -/
def State.tellPager (s : State) (vd st p : Nat) : State :=
  let known := s.walks.any fun x => x.vd == vd && (match x.asked with
    | some (a, b, _) => a == st && b == p
    | none => false)
  let chip := match s.vdev? vd with
    | some v => v.chips.getD 0 0
    | none => 0
  if st = 2 ∧ !known then s.ringEntry chip 0x06 vd [BitVec.ofNat 64 (p * 2 ^ 16)] else s

/-- An access of the device asks for the walk of its page (R33). -/
def State.askDirect (s : State) (w : Walker) (vd va : Nat) : State := s.askWalk vd (va / 2 ^ 16) w

/-- What the device's access was told is used up. -/
def State.untold (s : State) (w : Walker) : State := { s with told := s.told.filter fun x => x.1 != w }

/-! ### Walks (R33, R34) -/

/-- A walk gone. -/
def State.dropWalk (s : State) (id : Nat) : State := { s with walks := s.walks.filter fun w => w.id != id }

/-- Whether a walk that someone waits for waits itself on the page service. -/
def State.waitsPager (s : State) (w : Walker) : Bool := s.walks.any fun y => y.asked.isSome && y.who.contains w

/-- One who waited for a walk learns what it gave: an instruction or a copy keeps the decision, and tries again once none of
its pages is still being walked (R32, R36); the device's own accesses find it when they are tried again. -/
def State.tellWalk (s : State) (page : Nat) (x : Xlate) (w : Walker) : State :=
  match w with
  | .level k l act =>
    let more := s.walks.any fun y => y.who.contains w
    s.updLvl k (lvOf l) fun y =>
      if y.wait = .page ∧ y.acts = act then { y with xl := AMap.put y.xl page x, wait := if more then y.wait else .ready } else y
  | .copyUnit _ k =>
    let parked := s.waitsPager w
    s.updCore k fun c => { c with chan := { c.chan with queue := c.chan.queue.mapIdx fun i t =>
      if i = 0 then { t with parked := parked, xl := AMap.put t.xl page x } else t } }
  | _ => { s with told := s.told.filter (fun y => !(y.1 == w && y.2.1 == page)) ++ [(w, page, x)] }

/-- The successful translation put into the TLBs that asked for it (R33): a core's, or a copy unit's, which its node's cairn store and
landings use as well (R109, R192). -/
def State.fillTlb (s : State) (e : TlbEntry) (w : Walker) : State :=
  let (pick, s) := s.freeNat
  match w with
  | .level k _ _ => s.updCore k fun c => c.tlbFill e pick
  | .copyUnit n _ => s.updClu n fun c => c.tlbFill e pick
  | .cairn n _ _ => s.updClu n fun c => c.tlbFill e pick
  | .landing n _ => s.updClu n fun c => c.tlbFill e pick
  | .dispatch k _ => s.updCore k fun c => c.tlbFill e pick
  | _ => s

/-- The node that a walk's requester belongs to. -/
def Walker.node : Walker → Option Nat
  | .level k _ _ => some (keyCluster k)
  | .copyUnit n _ => some n
  | .cairn n _ _ => some n
  | .landing n _ => some n
  | .dispatch k _ => some (keyCluster k)
  | _ => none

/-- The core whose misses a requester's walk counts among (R33). -/
def Walker.missCore : Walker → Option Nat
  | .level k _ _ => some k
  | .dispatch k _ => some k
  | _ => none

/-- The die that walks for a requester, by chip and die. -/
def Walker.die (w : Walker) : Option Nat := w.node.map fun n => n / 1024 * 4 + nodeDie (n % 1024)

/-- Whether one of a die's 16 walkers takes up a walk: of the walks before it, fewer than 16 are the die's, and fewer than 8 are
misses of the core that asked, those on the page service among them (R33). A walk that waits on the page service holds no walker
(DEDUCED, log entry 106). -/
def State.walkGoes (s : State) (w : Walk) : Bool :=
  let before := s.walks.takeWhile fun x => x.id != w.id
  w.who.any fun q =>
    decide ((before.filter fun x => x.asked.isNone && x.who.any fun y => y.die.isSome && y.die == q.die).length < 16) &&
      decide ((before.filter fun x => x.who.any fun y => y.missCore.isSome && y.missCore == q.missCore).length < 8)

/-- A walker's reads at the home slices of the entries: they allocate there (R29, R62), correct a single-bit error (R65) and are
recorded (R151), with the service unit of the requester's node as their source (log entry 102). -/
def State.walkerReads (s : State) (w : Walk) (seen : Seen) : State :=
  let n := (w.who.findSome? Walker.node).getD 0
  seen.foldl (fun (s : State) x =>
    let s := (s.trace { pa := x.1, size := 8, cls := .load, kind := .s, vd := w.vd, src := ⟨n / 1024, n % 1024, 14⟩ }).lineServe w.vd x.1 0
    (s.correct x.1).portServed (ownerOf x.1) 3) s

/-- Whether a walker's reads wait: for the waiters of an entry's word (R71), for the entry's memory controller (R453), or for a
requester before them at the home slice's port (R51). -/
def State.walkWaits (s : State) (w : Walk) (seen : Seen) : Bool :=
  seen.any fun x => s.owed x.1 8 || s.memWaits w.vd x.1 || !s.unitTurn (ownerOf x.1) 3

/-- A malformed entry reported to the hypervisor, on the chip of the walker that met it (R26, log entry 107). -/
def State.reportEntry (s : State) (w : Walk) : Option Report → State
  | some r => s.updChip ((w.who.findSome? Walker.node).getD 0 / 1024) fun c => { c with reports := c.reports ++ [r] }
  | none => s

/-- A copy whose sector met V = 0 parks at once (R34, R36). -/
def State.parkCopy (s : State) : Walker → State
  | .copyUnit _ k => s.updCore k fun c => { c with chan := { c.chan with queue := c.chan.queue.mapIdx fun i t =>
      if i = 0 then { t with parked := true } else t } }
  | _ => s

/-- What a walk decided, told to everyone who waited for it. -/
def State.endWalk (s : State) (w : Walk) (x : Xlate) : State :=
  w.who.foldl (fun s y => s.tellWalk w.page x y) (s.dropWalk w.id)

/-- TABLE_WALK (R33): a walker completes a walk. A hit fills the TLBs that asked and wakes the waiters; a malformed entry or
a disabled stage denies, and the former is reported (R26); an entry with V = 0 sends one page request and the walk waits for
its answer, a stage-2 request going to the hypervisor's event ring (R34, R471). -/
def execTableWalk (s : State) : Outc :=
  match s.walks.find? fun w => w.id == s.arg.id && w.asked.isNone && s.walkGoes w with
  | none => .next s
  | some w =>
    let res := s.walkVa w.vd s.arg.flag (w.page * 2 ^ 16)
    if s.walkWaits w res.seen then .next s
    else match res with
    | .hit e seen =>
      let s := w.who.foldl (fun s x => s.fillTlb e x) (s.walkerReads w seen)
      let new := seen.map fun (x : Nat × Word) => WalkEntry.mk w.vd x.1 x.2
      let s := { s with wcache := s.wcache.filter (fun (c : WalkEntry) => !(new.any fun n => n.vd == c.vd && n.addr == c.addr)) ++ new }
      .next (s.endWalk w (.hit e))
    | .denied t bad seen => .next (((s.walkerReads w seen).reportEntry w bad).endWalk w (.denied t))
    | .lost c seen => .next ((s.walkerReads w seen).endWalk w (.lost c))
    | .ask st l p seen =>
      let s := w.who.foldl State.parkCopy ((s.walkerReads w seen).tellPager w.vd st p)
      .next { s with walks := s.walks.map fun x => if x.id = w.id then { x with asked := some (st, p, l) } else x }

/-- Whether a walk waits for an answer on a page of a stage. -/
def Walk.waitsOn (w : Walk) (vd st page : Nat) : Bool :=
  w.vd == vd && (match w.asked with
    | some (a, b, _) => a == st && b == page
    | none => false)

/-- The level of the entry that a walk met with V = 0. -/
def Walk.level (w : Walk) : Nat := match w.asked with
  | some (_, _, l) => l
  | none => 0

/-- The page service's answer to a request: RETRY repeats the walk of everyone who waited, DENY denies them (R34). -/
def State.pageAnswer (s : State) (vd st page : Nat) (deny : Bool) : State :=
  let hit := s.walks.filter fun w => w.waitsOn vd st page
  if deny then
    let s := hit.foldl (fun s w => s.dropWalk w.id) s
    hit.foldl (fun s w => w.who.foldl (fun s x => s.tellWalk w.page (.denied (denyVal 2 w.level st)) x) s) s
  else { s with walks := s.walks.map fun w => if w.waitsOn vd st page then { w with asked := none } else w }

/-- PAGE_ANSWER (R34). -/
def execPageAnswer (s : State) : Outc := .next (s.pageAnswer s.arg.vd s.arg.index s.arg.addr s.arg.flag)

/-! ### Invalidation (R38 to R42, R368) -/

/-- Whether an invalidation of a page (true: of an IPA), or of everything, covers a TLB entry. -/
def TlbEntry.covered (e : TlbEntry) (vd : Nat) (page : Option (Nat × Bool)) : Bool :=
  (vd == 0 || e.vd == vd) &&
    match page with
    | none => true
    | some (a, false) => a / 2 ^ e.log == e.page
    | some (a, true) => a / 2 ^ e.log == e.ipa / 2 ^ e.log

/-- Whether the walk cache drops an entry: an invalidation of a page drops every cached table entry of the virtual device,
since an entry of an upper level serves many pages. -/
def WalkEntry.covered (e : WalkEntry) (vd : Nat) : Bool := vd == 0 || e.vd == vd

/-- Decided translations without the covered ones. -/
def keepXl (vd : Nat) (page : Option (Nat × Bool)) (xl : List (Nat × Xlate)) : List (Nat × Xlate) :=
  xl.filter fun (x : Nat × Xlate) => match x.2 with
    | .hit e => !e.covered vd page
    | _ => true

/-- The translations that a level holds for its waiting instruction without the covered ones. -/
def Lvl.dropXl (l : Lvl) (vd : Nat) (page : Option (Nat × Bool)) : Lvl := { l with xl := keepXl vd page l.xl }

/-- A core without the covered translations. -/
def Core.invalidate (c : Core) (vd : Nat) (page : Option (Nat × Bool)) : Core :=
  { c.mapLvls (fun l => l.dropXl vd page) with
    tlb := c.tlb.filter (fun e => !e.covered vd page),
    chan := { c.chan with queue := c.chan.queue.map fun t => { t with xl := keepXl vd page t.xl } } }

/-- The operations of a core that were translated with a covered entry and have not performed (R39), a multicast load's lines
and the parts of a copy sector among them. -/
def Core.coveredOps (c : Core) (vd : Nat) (page : Option (Nat × Bool)) : List Nat :=
  (c.ops.filter fun o => (match o.xl with
    | some e => e.covered vd page
    | none => false) || c.mclds.any fun r => r.op == o.id && r.xls.any fun e => e.covered vd page).map Op.id ++
    ((c.chan.queue.flatMap Xfer.flight).filter fun f => f.xls.any fun e => e.covered vd page).map CopyPart.id

/-- Whether a core has an operation, or a part of a copy sector, of a number. -/
def Core.hasOp (c : Core) (id : Nat) : Bool :=
  (c.ops.any fun o => o.id == id) || c.chan.queue.any fun t => t.flight.any fun f => f.id == id

/-- Whether a context saved by a pre-emption holds such an operation: an invalidation completes only after it has performed
(R42). -/
def State.savedCovered (s : State) (vd : Nat) (page : Option (Nat × Bool)) : Bool :=
  s.vds.any fun (v : Nat × VDev) => (vd == 0 || v.1 == vd) &&
    v.2.saved.any fun (c : Nat × Core) => !(c.2.coveredOps vd page).isEmpty

/-- The invalidation reaches a cluster: every TLB of it and the walk caches drop the covered entries; what was translated
with one is noted and must perform before the cluster acknowledges (R39). -/
def State.invalidateNode (s : State) (chip node vd : Nat) (page : Option (Nat × Bool)) : State × List (Nat × Nat) :=
  let keys := tab 9 fun i => coreKey chip node i
  let wait := keys.flatMap fun k => ((s.core k).coveredOps vd page).map fun o => (k, o)
  let s := keys.foldl (fun s k => if (AMap.find? s.cores k).isSome then s.updCore k fun c => c.invalidate vd page else s) s
  let s := s.updClu (nodeKey chip node) fun c => { c with tlb := c.tlb.filter fun e => !e.covered vd page }
  let told := s.told.filter fun (x : Walker × Nat × Xlate) => match x.2.2 with
    | .hit e => !e.covered vd page
    | _ => true
  ({ s with wcache := s.wcache.filter (fun w => !w.covered vd), told := told }, wait)

/-- The nodes of a virtual device's blocks. -/
def VDev.nodes (v : VDev) : List (Nat × Nat) := tab v.clusters fun k => v.place k

/-- An invalidation begun for a virtual device or a chip. -/
def State.beginInval (s : State) (vd : Nat) (page : Option (Nat × Bool)) (core : Option (Nat × Nat)) (chip : Nat)
    (nodes : List (Nat × Nat)) : State :=
  { s with invals := s.invals ++ [⟨s.nextId, vd, page, nodes.map fun n => (nodeKey n.1 n.2, none), core, chip⟩],
           nextId := s.nextId + 1 }

/-- The covered entries dropped from every cluster of a virtual device. -/
def State.purgeEntries (s : State) (vd : Nat) (page : Option (Nat × Bool)) : State :=
  ((s.vdev? vd).map VDev.nodes).getD [] |>.foldl (fun s n => (s.invalidateNode n.1 n.2 vd page).1) s

/-- The table bases of a virtual device as the hypervisor has written them: those in its slot on the first chip of its list,
where it spans several (DESIGN CHOICE, log entry 108). -/
def State.basesOf (s : State) (v : VDev) : Word × Word :=
  let chip := v.chips.getD 0 0
  let sl := AMap.get (s.chip chip).slots {} (AMap.get v.slot 0 chip)
  (sl.s1base, sl.s2base)

/-- An invalidation every cluster has acknowledged completes: its issuer goes on, and the bases written before take effect
(R24, R39). What a cluster refilled through an old base since it acknowledged goes as well. -/
def State.endInval (s : State) (i : Inval) : State :=
  if i.left ≠ [] then s
  else
    let s := { s with invals := s.invals.filter fun (x : Inval) => x.id != i.id }
    match i.core with
    | some (k, l) =>
      let s := s.updLvl k (lvOf l) fun x => if x.wait = .tlbinv i.id then { x with wait := .ready } else x
      match s.vdev? i.vd with
      | none => s
      | some v =>
        let b := s.basesOf v
        if b = (v.s1, v.s2) then s
        else (s.purgeEntries i.vd i.page).updVd i.vd fun v => { v with s1 := b.1, s2 := b.2 }
    | none => s.updChip i.chip fun c => { c with s2inv := c.s2inv.filter (· != i.id) }

/-- TLB_INVALIDATION_ACK (R39): a cluster drops the covered entries when the invalidation reaches it, and acknowledges once
every access translated with one has performed. -/
def execTlbInvalidationAck (s : State) : Outc :=
  let key := nodeKey s.arg.chip s.arg.node
  match s.invals.find? fun i => i.id == s.arg.id with
  | none => .next s
  | some i =>
    match AMap.find? i.left key with
    | none => .next s
    | some st =>
      let (s, wait) := match st with
        | some w => (s, w)
        | none => s.invalidateNode s.arg.chip s.arg.node i.vd i.page
      let still := wait.filter fun w => (s.core w.1).hasOp w.2
      let left := if still = [] ∧ !(s.savedCovered i.vd i.page) then i.left.filter (fun (x : Nat × Option (List (Nat × Nat))) => x.1 != key)
        else AMap.put i.left key (some still)
      let i := { i with left := left }
      let s := { s with invals := s.invals.map fun (x : Inval) => if x.id = i.id then i else x }
      .next (s.endInval i)

/-- S2INV over supervisor space (R42, R466): one IPA page, or every stage-2 translation, on one chip. -/
def State.s2inv (s : State) (chip vd : Nat) (page : Option (Nat × Bool)) : State :=
  let id := s.nextId
  let nodes := tab 1024 fun n => (chip, n)
  let live := nodes.filter fun n => (tab 9 fun i => coreKey n.1 n.2 i).any fun k => (AMap.find? s.cores k).isSome
  let s := s.beginInval vd page none chip live
  let s := { s with wcache := s.wcache.filter fun w => !w.covered vd }
  if live = [] then { s with invals := s.invals.filter fun (x : Inval) => x.id != id }
  else s.updChip chip fun c => { c with s2inv := c.s2inv ++ [id] }

/-- S2INV_PAGE (R42). -/
def execS2invPage (s : State) : Outc := .next (s.s2inv s.arg.chip s.arg.vd (some (s.arg.addr * 2 ^ 16, true)))
/-- S2INV_ALL (R42). -/
def execS2invAll (s : State) : Outc := .next (s.s2inv s.arg.chip s.arg.vd none)

/-- PAGEANS_RETRY (R466): the hypervisor's answer to a stage-2 request. -/
def execPageansRetry (s : State) : Outc := .next (s.pageAnswer s.arg.vd 2 s.arg.addr false)
/-- PAGEANS_DENY (R466). -/
def execPageansDeny (s : State) : Outc := .next (s.pageAnswer s.arg.vd 2 s.arg.addr true)

end Sys2Proof.Machine
end

