-- ==== Sys2Proof/Machine/Launch.lean ====
section
/-! DEFINITION. The launch unit: enqueue (R238 to R241), LAUNCH_START (R242, R243), ENTRY_PRESENTATION (R230, R247) and
LAUNCH_COMPLETION (R248, R250, R439). -/

namespace Sys2Proof.Machine

/-! ### Its accesses to memory (R241) -/

/-- Where the launch unit's access to a mapped-space address leads. -/
inductive UnitPa where
  | ok (pa mt : Nat)
  | bad (status : Nat)                      -- refused, with the status of R86
  | ask
  deriving DecidableEq, Repr

/-- The translation of an access of a unit. -/
def State.unitPa (s : State) (w : Walker) (vd va need : Nat) : UnitPa :=
  if 2 ^ 56 ≤ va then .bad 3
  else match s.direct w vd va need with
    | .ok pa mt => if !s.populated pa then .bad 3 else if s.pcFailed pa then .bad 4 else .ok pa mt
    | .denied _ => .bad 2
    | .lost c => .bad (lostStatus c)
    | .ask => .ask

/-- The launch unit of a virtual device, as the source of its accesses: the service unit of its first node (R150, log entry 128). -/
def VDev.launchUnit (v : VDev) : UnitId := ⟨v.chips.getD 0 0, AMap.get v.base 0 (v.chips.getD 0 0), 14⟩

/-- Whether an access of the launch unit waits: for the waiters of its words (R71), at a memory controller (R453, R454), or for a port
that is being copied (R442). -/
def State.unitHeld (s : State) (vd pa n : Nat) : Bool := s.owed pa n || s.memWaits vd pa || s.copying (ownerOf pa)

/-- An access of the launch unit at the home slices of its lines, recorded there (R62, R151, R453); the frame that it writes has an owner
(R456). -/
def State.unitServe (s : State) (vd : Nat) (cls : AccClass) (pa n mt : Nat) : State :=
  let src := ((s.vdev? vd).map VDev.launchUnit).getD ⟨0, 0, 14⟩
  let a : Acc := { pa := pa, size := n, cls := cls, kind := .s, mt := mt, vd := vd, src := src }
  let s := (s.trace a).runServe vd pa n mt
  if a.writes then s.ownFrame pa vd else s

/-- Words that the launch unit writes (R241). -/
def State.unitWrite (s : State) (vd pa mt : Nat) (ws : List Word) : State :=
  (s.unitServe vd .store pa (8 * ws.length) mt).pokeRun pa mt ws []

/-- The number of the walks of a launch unit's access: of an enqueue, of a queue's record, of a launch's completion. -/
def enqueueKey (id : Nat) : Nat := 4 * id
def offerKey (q : Nat) : Nat := 4 * q + 1
def finishKey (id : Nat) : Nat := 4 * id + 2

/-- The descriptor word 0 of a launch queue (R238, R469). -/
def State.queueWord (s : State) (vd q : Nat) : Nat :=
  match s.vdev? vd with
  | some v => ((s.vdSlotRec vd (v.chips.getD 0 0)).queue0.getD q 0).toNat
  | none => 0

/-- BASE × 0x1000 of a queue. -/
def queueBase (w : Nat) : Nat := fld w 12 44 * 4096
/-- 2^QLOG of a queue. -/
def queueLen (w : Nat) : Nat := 2 ^ fld w 1 5
/-- The address of record `i`. -/
def recordVa (w i : Nat) : Nat := queueBase w + 64 * (i % queueLen w)
/-- The address of the status word of record `i`. -/
def statusVa (w i : Nat) : Nat := queueBase w + 64 * queueLen w + 8 * (i % queueLen w)
/-- The address of the fault record of record `i` (R439). -/
def faultVa (w i : Nat) : Nat := queueBase w + 72 * queueLen w + 32 * (i % queueLen w)

/-- A queue of a virtual device. -/
def VDev.queue (v : VDev) (q : Nat) : Queue := v.queues.getD q {}
/-- The virtual device with a queue changed. -/
def VDev.updQueue (v : VDev) (q : Nat) (f : Queue → Queue) : VDev := { v with queues := v.queues.set q (f (v.queue q)) }

/-! ### Enqueue (R240) -/

/-- What comes of an enqueue. -/
inductive Enqueued where
  | done (id : Nat) (s : State)
  | wait (s : State)

/-- Enqueue, one indivisible step; a full or disabled queue, a virtual device in BIVOUAC, and a write that is
refused, give ID 0 (R240, R241, R461). -/
def State.enqueue (s : State) (vd key q : Nat) (words : List Word) : Enqueued :=
  let me := Walker.launch vd (enqueueKey key)
  match s.vdev? vd with
  | none => .done 0 s
  | some v =>
    let w := s.queueWord vd q
    let qu := v.queue q
    if w % 2 = 0 ∨ v.res = .bivouac ∨ qu.tail - qu.head = queueLen w then .done 0 s
    else
      let i := qu.tail
      match s.unitPa me vd (recordVa w i) permW, s.unitPa me vd (statusVa w i) permW with
      | .ok pr mr, .ok ps ms =>
        if s.unitHeld vd pr 64 || s.unitHeld vd ps 8 then .wait s
        else
        let id := v.nextId
        let s := ((s.untold me).unitWrite vd pr mr words).unitWrite vd ps ms [BitVec.ofNat 64 (id * 2 ^ 16 + 0xFF)]
        .done id (s.updVd vd fun v =>
          { v.updQueue q (fun qu => { qu with tail := i + 1, ids := AMap.put qu.ids i id }) with nextId := id + 1 })
      | .ask, _ => .wait (s.askDirect me vd (recordVa w i))
      | _, .ask => .wait (s.askDirect me vd (statusVa w i))
      | _, _ => .done 0 (s.untold me)

/-- The next number of a connection's answers (R475; log entry 143). -/
def State.outOf (s : State) (conn : Nat) : Nat := ((s.conns.find? fun c => c.conn == conn).map Conn.sent).getD 0

/-- An answer sent to the host, the next of its connection (R475). -/
def State.sendAnswer (s : State) (h : Header) (status : Nat) (data : List Word) (bytes : List Byte) : State :=
  { s with answers := s.answers ++ [⟨h, s.outOf h.conn, status, data, bytes⟩],
           conns := s.conns.map fun c => if c.conn = h.conn then { c with sent := (c.sent + 1) % 2 ^ 32 } else c }

/-- The ID of an enqueue reaches its sender: LNCH's register, or the host (R336, R477). -/
def State.enqueueAnswer (s : State) (e : Enqueue) (id : Nat) : State :=
  match e.host with
  | some h => s.sendAnswer h 0 [BitVec.ofNat 64 id] []
  | none =>
    let l := lvOf e.lev
    s.updCore e.core fun c =>
      let x := c.lvl l
      if x.acts = e.act ∧ x.act.isSome then
        (c.setLvl l { x with ilock := x.ilock.filter fun i => i != (.x e.rd, e.id) }).land l (.x e.rd) (.word (BitVec.ofNat 64 id))
      else c

/-- The number of an enqueue: that of its collector, or of the host's request. -/
def Enqueue.key (e : Enqueue) : Nat :=
  match e.host with
  | some h => 2 ^ 64 + h.conn * 2 ^ 32 + h.seq
  | none => e.id

/-- An enqueue tried; one that misses waits with the launch unit (R241). -/
def State.tryEnqueue (s : State) (vd : Nat) (e : Enqueue) : State :=
  match s.enqueue vd e.key e.queue e.words with
  | .done id s => s.enqueueAnswer e id
  | .wait s => s.updVd vd fun v => { v with enqueueWait := v.enqueueWait ++ [e] }

/-- The enqueues that wait are tried again, in their order. -/
def State.retryEnqueues (s : State) (vd : Nat) : State :=
  match s.vdev? vd with
  | none => s
  | some v => v.enqueueWait.foldl (fun s e => s.tryEnqueue vd e) (s.updVd vd fun v => { v with enqueueWait := [] })

/-! ### Completion (R248) -/

/-- Numbers taken off a list while they follow on from `n`. -/
def advanceOver (done : List Nat) : Nat → Nat → Nat
  | 0, n => n
  | fuel + 1, n => if done.contains n then advanceOver done fuel (n + 1) else n

/-- A launch ID completed: LWMARK advances, then HEAD over every record whose launch has completed (R248, R250). -/
def VDev.complete (v : VDev) (q idx id : Nat) : VDev :=
  let ids := insertNat id v.doneIds
  let mark := advanceOver ids ids.length v.lwmark
  let v := { v with doneIds := ids.filter (fun i => decide (mark ≤ i)), lwmark := mark }
  v.updQueue q fun qu =>
    let done := insertNat idx qu.done
    let head := advanceOver done done.length qu.head
    { qu with done := done.filter (fun i => decide (head ≤ i)), head := head,
              ids := qu.ids.filter fun (e : Nat × Nat) => decide (head ≤ e.1) }

/-- What comes of a completion write. -/
inductive Written where
  | ok (s : State)
  | wait (s : State)

/-- A completion write of a status word, or of a fault record: dropped and reported when it is refused (R241, R471). -/
def State.completionWrite (s : State) (vd q id va : Nat) (record : Bool) (ws : List Word) : Written :=
  match s.unitPa (.launch vd (finishKey id)) vd va permW with
  | .ok pa mt => if s.unitHeld vd pa (8 * ws.length) then .wait s else .ok (s.unitWrite vd pa mt ws)
  | .bad st =>
    let chip := match s.vdev? vd with
      | some v => v.chips.getD 0 0
      | none => 0
    .ok (s.ringEntry chip 0x08 vd [BitVec.ofNat 64 (q * 2 ^ 61 + id), BitVec.ofNat 64 (st * 2 ^ 8 + record.toNat), BitVec.ofNat 64 va])
  | .ask => .wait (s.askDirect (.launch vd (finishKey id)) vd va)

/-- A launch completed: the fault record and its copy to the hypervisor, the status word, LWMARK and HEAD (R248, R439). -/
def State.completeLaunch (s : State) (vd q idx id status : Nat) (fault : Option (List Word)) (count : Nat) : State :=
  let w := s.queueWord vd q
  let rec4 := fault.map fun f => (f.headD 0 + BitVec.ofNat 64 (count * 2 ^ 24)) :: f.tail
  let me := Walker.launch vd (finishKey id)
  let wait := match s.unitPa me vd (statusVa w idx) permW with
    | .ask => some (s.askDirect me vd (statusVa w idx))
    | .ok pa _ => if s.unitHeld vd pa 8 then some s else none
    | .bad _ => none
  match wait with
  | some s => s
  | none =>
    match (match rec4 with
      | some f => s.completionWrite vd q id (faultVa w idx) true f
      | none => .ok s) with
    | .wait s => s
    | .ok s =>
      let cause := match fault with
        | some f => (f.headD 0).toNat % 256
        | none => 0
      match s.completionWrite vd q id (statusVa w idx) false [BitVec.ofNat 64 (id * 2 ^ 16 + cause * 2 ^ 8 + status)] with
      | .wait s => s
      | .ok s =>
        let s := s.untold me
        let chip := match s.vdev? vd with
          | some v => v.chips.getD 0 0
          | none => 0
        let s := match rec4 with
          | some f => s.ringEntry chip 0x02 vd (BitVec.ofNat 64 (q * 2 ^ 61 + id) :: f)
          | none => s
        let inReset := match s.vdev? vd with
          | some v => v.reset != 0
          | none => false
        -- in a reset the memberships end with step 4, after the barriers (R447)
        (if inReset then s else s.leaveLaunch vd id).updVd vd fun v => { v.complete q idx id with launches := v.launches.filter fun (j : Launch) => j.id != id }

/-! ### LAUNCH_START (R242, R243) -/

/-- The WAIT fields of a record. -/
def recordWaits (ws : List Word) : List Nat := [5, 6, 7].map fun i => (ws.getD i 0).toNat

/-- Whether a record passes the check of R229 and R243. -/
def VDev.recordOk (v : VDev) (id : Nat) (ws : List Word) : Bool :=
  let f := fun i lo n => fld (ws.getD i 0).toNat lo n
  let cp := 2 ^ f 4 23 4
  f 2 0 32 != 0 && f 2 32 32 != 0 && f 3 0 32 != 0 && f 3 32 16 != 0 && f 3 48 16 != 0 && f 4 0 16 != 0 &&
    f 4 27 37 == 0 && f 0 56 8 == 0 && f 0 0 1 == 0 && decide (cp ≤ v.clusters) &&
    (v.chips.length == 1 || decide (cp ≤ 2 ^ v.plog)) && (recordWaits ws).all fun w => decide (w < id)

/-- PRIO of a record. -/
def recordPrio (ws : List Word) : Nat := fld (ws.getD 4 0).toNat 18 3

/-- Whether an offered record is ready (R242). -/
def VDev.recordReady (v : VDev) (id : Nat) (ws : List Word) : Bool :=
  (recordWaits ws).any (fun w => decide (id ≤ w)) ||
    (recordWaits ws).all fun w => w == 0 || decide (w < v.lwmark) || v.doneIds.contains w

/-- A record offered at the head of a queue: queue, record number, ID, words; a read that is refused gives a record that
fails its check. -/
structure Offer where
  q   : Nat
  idx : Nat
  id  : Nat
  ws  : List Word
  deriving DecidableEq, Repr

/-- The records that the queues offer, each read once when it comes to its queue's NEXT (R62, R65, R151), and the state with the walks of
those that miss. -/
def State.offers (s : State) (vd : Nat) (v : VDev) : List Offer × State :=
  (tab 8 id).foldl (fun (a : List Offer × State) q =>
    let (os, s) := a
    let w := s.queueWord vd q
    let qu := v.queue q
    if w % 2 = 0 ∨ qu.tail ≤ qu.next then (os, s)
    else
      let id := AMap.get qu.ids 0 qu.next
      let me := Walker.launch vd (offerKey q)
      let offer := fun (s : State) (ws : List Word) =>
        (os ++ [⟨q, qu.next, id, ws⟩], (s.untold me).updVd vd fun v => v.updQueue q fun qu => { qu with read := some ws })
      match qu.read with
      | some ws => (os ++ [⟨q, qu.next, id, ws⟩], s)
      | none => match s.unitPa me vd (recordVa w qu.next) permR with
        | .ok pa mt =>
          if s.unitHeld vd pa 64 then (os, s)
          else
            let s := s.unitServe vd .load pa 64 mt
            if s.badRun pa 64 then offer s (List.replicate 8 0)
            else offer ((tab 8 fun i => i).foldl (fun s i => s.correct (pa + 8 * i)) s) (s.peekRun pa 64)
        | .bad _ => offer s (List.replicate 8 0)
        | .ask => (os, s.askDirect me vd (recordVa w qu.next))) ([], s)

/-- The better of two ready records: higher PRIO, then lower ID (R242). -/
def Offer.better (a b : Offer) : Offer :=
  if recordPrio b.ws < recordPrio a.ws ∨ (recordPrio a.ws = recordPrio b.ws ∧ a.id ≤ b.id) then a else b

/-- A launch at its start. The entries for cores that a stop or a Lost repair has taken away are discarded, and the launch will
complete with STATUS 0x02 and the cause ACCESS (R440, R442). -/
def State.newLaunch (s : State) (v : VDev) (o : Offer) : Launch :=
  let gone := (tab v.cores fun n => n).filter fun n =>
    let r := (s.core (s.vdCoreKey v n)).run
    r == .stopped || r == .lost
  let j : Launch := ⟨o.id, o.q, o.idx, o.ws, [], none, 0, 0, false⟩
  match gone with
  | [] => j
  | n :: _ =>
    let k := s.vdCoreKey v n
    { j with next := gone.foldl (fun m n => AMap.put m n noEntry) [],
             fault := some [faultWord0 k 0 0 (keySlot k) Cause.access false, 0, 0, 0], faultAt := s.now }

/-- The instruction caches of a virtual device's clusters emptied (R265). -/
def State.dropCode (s : State) (v : VDev) : State :=
  { s with clus := s.clus.map fun (x : Nat × Cluster) =>
      if (v.clusterOf (x.1 / 1024) (x.1 % 1024)).isSome then (x.1, { x.2 with icache := [] }) else x }

/-- A record that failed its check completes with BAD_RECORD, or waits to until its status word can be written (R241, R243). -/
def State.completeBad (s : State) (vd : Nat) (r : Nat × Nat × Nat) : State :=
  let t := s.completeLaunch vd r.1 r.2.1 r.2.2 0x01 none 0
  t.updVd vd fun v =>
    let done := decide (r.2.2 < v.lwmark) || v.doneIds.contains r.2.2
    { v with failing := v.failing.filter (· != r) ++ (if done then [] else [r]) }

/-- The records that failed their check and still wait are tried again. -/
def State.retryFailing (s : State) (vd : Nat) : State :=
  match s.vdev? vd with
  | none => s
  | some v => v.failing.foldl (fun s r => s.completeBad vd r) s

/-- LAUNCH_START: enqueues and completions that wait are taken up; then, with fewer than 4 launches active, one ready record
starts, or completes with BAD_RECORD; NEXT advances either way (R241 to R243). -/
def execLaunchStart (s : State) : Outc :=
  let vd := s.arg.vd
  let s := (s.retryEnqueues vd).retryFailing vd
  match s.vdev? vd with
  | none => .next s
  | some v =>
    if !v.running ∨ v.res ≠ .run ∨ v.step ≠ 0 ∨ v.reset ≠ 0 then .next s
    else
      let (os, s) := s.offers vd v
      match os.filter fun o => v.recordReady o.id o.ws && decide (v.launches.length < 4) with
      | [] => .next s
      | o :: rest =>
        let o := rest.foldl Offer.better o
        if v.recordOk o.id o.ws then
          .next ((s.dropCode v).updVd vd fun v =>
            { v.updQueue o.q (fun qu => { qu with next := o.idx + 1, read := none }) with
              launches := v.launches ++ [s.newLaunch v o] })
        else
          let s := s.updVd vd fun v => v.updQueue o.q fun qu => { qu with next := o.idx + 1, read := none }
          .next (s.completeBad vd (o.q, o.idx, o.id))

/-! ### ENTRY_PRESENTATION (R230, R247) -/

/-- The slot that a message of a level takes: a free kept one, or the lowest free shared one (R212). -/
def Core.slotFor (c : Core) (lev : Nat) : Option Nat :=
  ([2 * lev, 2 * lev + 1] ++ tab 8 fun i => i + 8).find? fun i => (c.slots.getD i {}).st == .free

/-- The core with a message accepted in a slot. -/
def Core.accept (c : Core) (slot : Nat) (m : Msg) (lev now : Nat) : Core :=
  { c with slots := c.slots.set slot { st := .pending, msg := m, lev := lev, accepted := now } }

/-- The tile identity of an entry activation: TX0, TXN, TY0, TYN, TZ0, TZN; zeros beyond the last tile (R230). -/
def tileOf (ws : List Word) (t : Nat) : List Word :=
  let f := fun i lo n => fld (ws.getD i 0).toNat lo n
  let (gx, gy, gz) := gridOf ws
  if gx * gy * gz ≤ t then List.replicate 6 0
  else
    let part := fun (k w d : Nat) => [BitVec.ofNat 64 (k * w), BitVec.ofNat 64 (min w (d - k * w))]
    part (t % gx) (f 3 32 16) (f 2 0 32) ++ part (t / gx % gy) (f 3 48 16) (f 2 32 32) ++
      part (t / (gx * gy)) (f 4 0 16) (f 3 0 32)

/-- LEVEL of a record. -/
def recordLevel (ws : List Word) : Nat := fld (ws.getD 4 0).toNat 16 2

/-- Whether entries of a launch still start: no fault under the main launch rule has stopped them. The loss of a core's entries
and a fault in isolated-core mode do not (R249, R440, R442). -/
def Launch.goesOn (j : Launch) : Bool := !j.halted

/-- Whether an entry of an active launch waits for core `n`: none of the launch has been presented to it that has not ended,
and the launch has not faulted (R230, R249). -/
def Launch.waits (j : Launch) (c : Core) (n : Nat) : Bool :=
  j.entryLeft n && j.goesOn &&
    !(c.slots.any fun sl => sl.st != .free && sl.msg.ty == 0 && sl.msg.launch == j.id)

/-- The better of two launches that have an entry for a core: higher PRIO, then lower ID (R247). -/
def Launch.better (a b : Launch) : Launch :=
  if recordPrio b.words < recordPrio a.words ∨ (recordPrio a.words = recordPrio b.words ∧ a.id ≤ b.id) then a else b

/-- The message of an entry activation (R207, R230). -/
def Launch.entryMsg (j : Launch) (t : Nat) : Msg :=
  { ty := 0, args := [j.words.getD 1 0, BitVec.ofNat 64 j.id, 0, 0], pc := j.words.getD 0 0, lev := recordLevel j.words,
    launch := j.id, schk := (j.words.getD 4 0).getLsbD 22, tile := tileOf j.words t }

/-- A launch whose next entry for core `n` has been taken: tile `t`. -/
def VDev.entryTaken (v : VDev) (id n t : Nat) : VDev :=
  { v with launches := v.launches.map fun i => if i.id = id then { i with next := AMap.put i.next n (t + v.cores) } else i }

/-- The entries of a virtual device for core `n` that packets carry: the packet, its launch and its tile. -/
def State.entryPkts (s : State) (vd n : Nat) : List (Packet × Nat × Nat) :=
  s.pkts.filterMap fun p => match p.payload with
    | .entry m id t => if p.vd = vd ∧ m = n then some (p, id, t) else none
    | _ => none

/-- An entry for a core of another chip travels to that chip's launch unit as a service flit (R245). -/
def State.sendEntry (s : State) (vd : Nat) (v : VDev) (n : Nat) (j : Launch) : State :=
  let t := AMap.get j.next n n
  let home := v.chips.getD 0 0
  let chip := (v.place (n / 8)).1
  let s := s.sendPkt ⟨home, AMap.get v.base 0 home, 14⟩ ⟨chip, AMap.get v.base 0 chip, 14⟩ vd .control 0 (.entry n j.id t)
  s.updVd vd fun v => v.entryTaken j.id n t

/-- The launch unit of another chip presents an entry that has reached it, the one of the best launch first; an entry of a launch
that takes no further ones is discarded (R245, R247, R249). -/
def State.presentSent (s : State) (n k : Nat) (v : VDev) (es : List (Packet × Nat × Nat)) : Option State :=
  let c := s.core k
  let drop := fun (s : State) (id : Nat) => { s with pkts := s.pkts.filter fun p => p.id != id }
  let stale := es.filter fun e => !((v.active e.2.1).any Launch.goesOn) || c.run == .stopped || c.run == .lost || v.cores ≤ n
  match stale with
  | e :: _ => some (drop s e.1.id)
  | [] =>
    let ready := es.filterMap fun e => (v.active e.2.1).bind fun j =>
      if (c.slotFor (recordLevel j.words)).isSome then some (j, e) else none
    match ready with
    | [] => none
    | x :: rest =>
      let j := (rest.map Prod.fst).foldl Launch.better x.1
      match ready.find? fun y => y.1.id == j.id, c.slotFor (recordLevel j.words) with
      | some (_, e), some sl => some ((drop s e.1.id).setCore k (c.accept sl (j.entryMsg e.2.2) (recordLevel j.words) s.now))
      | _, _ => none

/-- In a reset an entry that has reached its launch unit is discarded, its launch being complete (R446). -/
def State.dropEntry (s : State) (vd n : Nat) : State :=
  match (s.entryPkts vd n).find? fun e => e.1.stage == .arrived with
  | some e => { s with pkts := s.pkts.filter fun p => p.id != e.1.id }
  | none => s

/-- ENTRY_PRESENTATION (R247). -/
def execEntryPresentation (s : State) : Outc :=
  let vd := s.arg.vd
  let n := s.arg.index
  match s.vdev? vd with
  | none => .next s
  | some v =>
    if v.reset ≠ 0 then .next (s.dropEntry vd n)
    else if !v.running ∨ v.res ≠ .run ∨ v.step ≠ 0 ∨ v.cores ≤ n then .next s
    else
      let k := s.vdCoreKey v n
      let c := s.core k
      let es := s.entryPkts vd n
      match s.presentSent n k v (es.filter fun e => e.1.stage == .arrived) with
      | some t => .next t
      | none =>
        if c.run ≠ .running ∨ c.owner ≠ vd then .next s
        else
          let far := keyChip k != v.chips.getD 0 0
          match v.launches.filter fun j => j.waits c n &&
              (if far then !(es.any fun e => e.2.1 == j.id) else (c.slotFor (recordLevel j.words)).isSome) with
          | [] => .next s
          | j :: rest =>
            let j := rest.foldl Launch.better j
            if far then .next (s.sendEntry vd v n j)
            else
              let t := AMap.get j.next n n
              match c.slotFor (recordLevel j.words) with
              | none => .next s
              | some sl =>
                .next ((s.setCore k (c.accept sl (j.entryMsg t) (recordLevel j.words) s.now)).updVd vd fun v =>
                  v.entryTaken j.id n t)

/-! ### LAUNCH_COMPLETION (R248, R249) -/

/-- Whether a core still works for a launch: a slot, an activation, an operation, a transfer, a command, a multicast or a
message of it. The activations and slots of a frozen core count as ended (R249), and what a stopped channel or sequencer, or
those of a stopped core, have not started as discarded (R248, R440, R443). -/
def Core.worksFor (c : Core) (id : Nat) : Bool :=
  (c.run != .frozen && ((c.slots.any fun sl => sl.st != .free && sl.msg.launch == id) ||
      ([0, 1, 2, 3].any fun i => (c.lvl (lvOf i)).act.any fun a => a.launch == id) || c.tagPend.any fun t => t.2.1.launch == id)) ||
    (c.ops.any fun o => o.launch == id) ||
    (c.chan.queue.any fun t => t.launch == id &&
      (t.flight != [] || (!c.chan.stopped && (c.run != .stopped || t.parked || t.sector != 0)))) ||
    (!(c.mx.stopped || c.run == .stopped) && c.mx.queue.any fun m => m.launch == id) || (c.mx.run.any fun m => m.launch == id) ||
    (c.mclds.any fun m => m.launch == id)

/-- Whether an entry of a launch is still to be presented. -/
def Launch.entriesLeft (j : Launch) (v : VDev) : Bool :=
  j.goesOn && (tab v.cores fun n => n).any fun n => j.entryLeft n

/-- LAUNCH_COMPLETION (R248). -/
def execLaunchCompletion (s : State) : Outc :=
  let vd := s.arg.vd
  match s.vdev? vd with
  | none => .next s
  | some v =>
    match v.active s.arg.id with
    | none => .next s
    | some j =>
      if j.entriesLeft v ∨ (j.goesOn && (tab v.cores fun n => n).any fun n => (s.entryPkts vd n).any fun e => e.2.1 == j.id) ∨ (List.any s.cores fun (kc : Nat × Core) => kc.2.owner == vd && kc.2.worksFor j.id) ∨
          6 ≤ v.step ∨ v.reset ≠ 0 ∨ !v.running then .next s
      else .next (s.completeLaunch vd j.queue j.idx j.id (if j.fault.isSome then 0x02 else 0x00) j.fault j.count)

end Sys2Proof.Machine
end

