-- ==== Sys2Proof/Machine/Sequencer.lean ====
section
/-! DEFINITION. The matrix unit (R403 to R427): the check of a record, pushes, the start of each command, the ring, retiring
and discarding, the instructions MXQ, MXWAIT and MXSTAT, the governor (R259 to R261), the mailboxes (R307), and the register
rack instructions (R233 to R236, R428 to R430). -/

namespace Sys2Proof.Machine

/-! ### Causes that arrive late (R342) -/

/-- A cause raised for what an activation issued, after its instruction: at its level when that activation still runs there,
else as a fault of its launch, which stops the core in isolated-core mode (R342, R431, R440). A frozen core stays as it was (R443). -/
def State.lateCause (s : State) (k lev act launch cause : Nat) (pc val addr : Word) (late : Bool) : State :=
  let l := lvOf lev
  if (s.lvl k l).isAct act && (s.core k).run == .running then s.raiseAt k l cause pc pc val addr late
  else s.reportStop k 0 launch cause [faultWord0 k lev 0 (keySlot k) cause late, pc, val, addr]

/-- The cause of an operation's answer: an instruction raises one cause only (R342). -/
def State.lateRaise (s : State) (k : Nat) (o : Op) (cause : Nat) (val addr : Word) : State :=
  if o.quiet then s
  else
    let s := s.updCore k fun c => { c with ops := c.ops.map fun p =>
      if p.lev == o.lev && p.act == o.act && p.po == o.po then { p with quiet := true } else p }
    s.lateCause k o.lev o.act o.launch cause o.pc val addr true

/-- The fault of a master that is no level: 1 the copy channel, 2 the matrix sequencer. It belongs to the launch of the
activation that set it to work; a VIOLATION freezes the master, and in isolated-core mode another cause stops the core (R439,
R440, R443). -/
def State.unitFault (s : State) (k src lev launch cause : Nat) (pc val addr : Word) : State :=
  s.reportStop k src launch cause [faultWord0 k lev src (if src = 1 then 9 else keySlot k) cause false, pc, val, addr]

/-! ### Mailboxes (R307) -/

/-- A write that arrives at a mailbox: behind those of earlier cycles, and among those of its own cycle in the order MNOTE,
completion, merge report. The first 8 are the landing queue; the others wait at their sources and enter it in the same order. -/
def Core.mbPush (c : Core) (mb : Nat) (w : MbWrite) : Core :=
  let before := fun (x : MbWrite) => decide (x.at_ < w.at_ ∨ x.cls ≤ w.cls)
  let q := c.mbq.getD mb []
  { c with mbq := c.mbq.set mb (q.takeWhile before ++ w :: q.dropWhile before) }

/-- A sleeping level is ready in the cycle after a mailbox write lands (R334). -/
def Lvl.wakeUp (l : Lvl) (now : Nat) : Lvl :=
  match l.wait with
  | .sleep _ => { l with wait := .ready, readyAt := max l.readyAt (now + 1) }
  | _ => l

/-- The value of a mailbox after a write: an MNOTE stores, the others add. -/
def MbWrite.lands (w : MbWrite) (old : Word) : Word := if w.cls = 0 then w.val else old + w.val

/-- The oldest write of a mailbox's queue lands, one in a cycle (R307). -/
def Core.mbLand (c : Core) (now m : Nat) : Core :=
  match c.mbq.getD m [] with
  | [] => c
  | w :: rest =>
    if c.ended.contains m then c
    else if h : m < 4 then
      let run := if w.cls = 0 then c.mx.run.map fun x => if x.num = w.cmd then { x with done := true } else x else c.mx.run
      { c.mapLvls (fun l => l.wakeUp now) with
        mb := c.mb.set m (w.lands (c.mb.toList.getD m 0)) h, mbq := c.mbq.set m rest, ended := c.ended ++ [m],
        mx := { c.mx with run := run } }
    else c

/-! ### Records (R416, R417) -/

/-- KIND of a record. -/
def recKind (ws : List Word) : Nat := fld (ws.getD 0 0).toNat 60 4
/-- ACC, or MB of an MNOTE. -/
def recAcc (ws : List Word) : Nat := fld (ws.getD 0 0).toNat 58 2
/-- LAT, or SRC of a ROTB. -/
def recLat (ws : List Word) : Nat := fld (ws.getD 0 0).toNat 57 1
/-- Z, OPN or DST. -/
def recBit56 (ws : List Word) : Nat := fld (ws.getD 0 0).toNat 56 1
/-- O. -/
def recO (ws : List Word) : Nat := fld (ws.getD 0 0).toNat 55 1
/-- FMT. -/
def recFmt (ws : List Word) : Nat := fld (ws.getD 0 0).toNat 52 4
/-- BLOG. -/
def recBlog (ws : List Word) : Nat := fld (ws.getD 0 0).toNat 49 3
/-- STR. -/
def recStr (ws : List Word) : Nat := fld (ws.getD 0 0).toNat 16 16
/-- OFF. -/
def recOff (ws : List Word) : Nat := fld (ws.getD 0 0).toNat 0 16

/-- The element format of an LDB or STC, as a pointer names it. -/
def recForm (ws : List Word) : Fmt := fmtOf (BitVec.ofNat 64 (recFmt ws * 2 ^ 60 + recBlog ws * 2 ^ 57))

/-- Whether `n` rows of `b` bytes keep the limits of R417: the alignment of OFF and STR, STR at least `b`, and the end. -/
def rowsOk (ws : List Word) (n b align : Nat) : Bool :=
  recOff ws % align == 0 && recStr ws % align == 0 && decide (b ≤ recStr ws) &&
    decide (recOff ws + (n - 1) * recStr ws + b ≤ 0x10000)

/-- Whether a record passes the check of R407: R416, R417, and for a converting STC the rounding mode (R295). -/
def recordOk (ws : List Word) (fcr : Word) : Bool :=
  let w := (ws.getD 0 0).toNat
  let tail := fun i => (ws.drop i).all (· == 0)
  match recKind ws with
  | 0 => tail 1 && fld w 32 23 == 0 && rowsOk ws 16 64 2
  | 1 => tail 1 && fld w 58 2 == 0 && fld w 32 17 == 0 &&
      (if recBit56 ws = 1 then fld w 0 56 == 0
       else match recFmt ws, recBlog ws with
         | 2, 0 => rowsOk ws 32 128 2
         | 8, b => decide (2 ≤ b ∧ b ≤ 4) && rowsOk ws 32 (64 / 2 ^ (b + 2) * (2 ^ (b + 2) / 2 + 2)) 1
         | 9, b => decide (2 ≤ b ∧ b ≤ 4) && rowsOk ws 32 (64 / 2 ^ (b + 2) * (2 ^ (b + 2) / 2 + 1)) 1
         | _, _ => false)
  | 2 => tail 1 && fld w 58 2 == 0 && fld w 0 56 == 0
  | 3 => tail 1 && fld w 57 1 == 0 && fld w 32 20 == 0 && decide (1 ≤ recFmt ws ∧ recFmt ws ≤ 5) &&
      rowsOk ws 16 (64 * (recForm ws).size) (recForm ws).size && (recFmt ws == 1 || !badRm fcr)
  | 4 => tail 1 && fld w 0 58 == 0
  | 5 => tail 2 && fld w 0 58 == 0
  | 6 => tail 1 && fld w 0 60 == 0
  | _ => false

/-! ### Pushes (R406 to R408) -/

/-- A record that passed its check enters the command queue; `after` are the operations the push's release covers. -/
def State.pushRecord (s : State) (k : Nat) (ws : List Word) (lev act launch : Nat) (pc fcr : Word) (after : List Nat) : State :=
  s.updCore k fun c =>
    let n := (c.mx.pushed + 1) % 2 ^ 32
    let cmd : Cmd := { num := n, words := ws, lev := lev, act := act, launch := launch, pc := pc, fcr := fcr,
                       ser := c.mx.mode.getLsbD 8, head := s.now, after := after, done := false, flags := 0, start := 0 }
    { c with mx := { c.mx with pushed := n, queue := c.mx.queue ++ [cmd] } }

/-- The record in a slot of the window after a store's bytes are written: pushed, or refused with ILLEGAL at the store's
level (R406, R407); `fcr` holds the modes that the store captured (R296). -/
def State.pushSlot (s : State) (k off : Nat) (o : Op) (fcr : Word) : State :=
  let slot := off / 64 * 64
  let ws := tab 8 fun i => BitVec.ofNat 64 ((s.core k).mx.window.readNat (slot + 8 * i) 8)
  if recordOk ws fcr then s.pushRecord k ws o.lev o.act o.launch o.pc fcr []
  else s.lateRaise k o Cause.illegal (ws.getD 0 0) 0

/-! ### Scratchpad reads and the arrays -/

/-- The contents of an element of the accumulators or latches that nothing has written: undefined, or zero (R404, R445, R452). -/
def junkLane (k : Nat) (junk : Option Nat) (idx : Nat) : Lane :=
  match junk with
  | some n => Config.freeLane (((k + 1) * 2 ^ 20 + idx) * 2 ^ 64 + n)
  | none => 0

/-- Element (i, j) of an accumulator. -/
def Mx.elem (m : Mx) (k a i j : Nat) : Lane :=
  let idx := (a * 16 + i) * 64 + j
  (AMap.find? m.acc idx).getD (junkLane k m.junk idx)
/-- Element (r, j) of a latch. -/
def Mx.tile (m : Mx) (k l r j : Nat) : BitVec 16 :=
  let idx := (l * 32 + r) * 64 + j
  (AMap.find? m.latch idx).getD ((junkLane k m.junk (4096 + idx)).setWidth 16)

/-- An accumulator written whole. -/
def Mx.setAcc (m : Mx) (a : Nat) (f : Nat → Nat → Lane) : Mx :=
  { m with acc := (tab 1024 id).foldl (fun t n => AMap.put t (a * 1024 + n) (f (n / 64) (n % 64))) m.acc }
/-- A latch written whole. -/
def Mx.setLatch (m : Mx) (l : Nat) (f : Nat → Nat → BitVec 16) : Mx :=
  { m with latch := (tab 2048 id).foldl (fun t n => AMap.put t (l * 2048 + n) (f (n / 64) (n % 64))) m.latch }

/-- A latch's state. -/
def Mx.st (m : Mx) (l : Nat) : LatchState := if l = 0 then m.st0 else m.st1
/-- A latch's state set. -/
def Mx.setSt (m : Mx) (l : Nat) (x : LatchState) : Mx := if l = 0 then { m with st0 := x } else { m with st1 := x }

/-- The cycles that a command holds the matrix unit or the port (R260, R415). -/
def Cmd.cycles (c : Cmd) : Nat :=
  match recKind c.words with
  | 0 => 32
  | 3 => 4 * (recForm c.words).size
  | _ => 1
/-- Whether a started command has finished: its effects are complete and its cycles are over (R412). -/
def Cmd.finished (c : Cmd) (now : Nat) : Bool := c.done && decide (c.start + c.cycles ≤ now)

/-- Whether a started command of a kind has not finished. -/
def Mx.runs (m : Mx) (now kind : Nat) : Bool := m.run.any fun c => recKind c.words == kind && !c.finished now

/-- Whether a command still reads a latch. -/
def Mx.reads (m : Mx) (now l : Nat) : Bool :=
  m.busy.any fun b => b.2 == l && m.run.any fun c => c.num == b.1 && !c.finished now

/-- A latch that is LEAVING opens once no command reads it and no transfer sends it (R404). -/
def Mx.openIf (m : Mx) (now l : Nat) : Mx :=
  if m.st l = .leaving ∧ !(m.ring.any fun x => x.src == l) ∧ !m.reads now l then m.setSt l .isOpen else m

/-- The unit with its latches as they stand in a cycle. -/
def Mx.settle (m : Mx) (now : Nat) : Mx := (m.openIf now 0).openIf now 1

/-- The first uncorrectable word among the rows that a command reads, as a scratchpad offset (R427). -/
def State.badRow (s : State) (k off str n bytes : Nat) : Option Nat :=
  (tab n fun i => off + i * str).findSome? fun r =>
    (tab ((r + bytes - 1) / 8 - r / 8 + 1) fun i => r / 8 * 8 + 8 * i).find? fun w => s.isBad (scratchPa k w)

/-- The rows of a command at the scratchpad port: each is an arrival of its own (R148, R150), and single-bit errors in its
words are corrected (R65). -/
def State.readRows (s : State) (k off str n bytes : Nat) (cls : AccClass) : State :=
  (tab n fun i => off + i * str).foldl (fun (s : State) r =>
    let s := s.trace { pa := scratchPa k r, size := bytes, cls := cls, vd := (s.core k).owner, src := coreUnit k, mx := true }
    (tab ((r + bytes - 1) / 8 - r / 8 + 1) fun i => r / 8 * 8 + 8 * i).foldl (fun s w => s.correct (scratchPa k w)) s)
    (s.portServed (coreUnit k) 1)

/-- Whether a command's rows wait at the port: for a requester before it in the rotation (R51), or for the waiters of one of their
words (R71). -/
def State.rowsWait (s : State) (k off str n bytes : Nat) : Bool :=
  !s.unitTurn (coreUnit k) 1 || (tab n fun i => off + i * str).any fun r => s.owed (scratchPa k r) bytes

/-- An aligned 8-byte word of the scratchpad as a command sees it: as it is, or as a store that the command need not see found it,
independently for each word (R145, R415). -/
def State.seen (s : State) (k num w : Nat) : Nat :=
  let now := s.peek (scratchPa k (8 * w)) 8
  match s.olds.filter fun (o : OldWord) => o.core == k && o.word == w && o.cmds.contains num with
  | [] => now
  | olds => (now :: olds.map OldWord.val).getD (Config.freeNat (s.free + w) % (olds.length + 1)) now

/-- Bytes of one word of the scratchpad, as a command sees them. -/
def State.cmdPeek (s : State) (k num off n : Nat) : Nat := s.seen k num (off / 8) / 2 ^ (8 * (off % 8)) % 2 ^ (8 * n)

/-- A command has read its rows: the choices are made, and no word is kept for it any longer. -/
def State.cmdRead (s : State) (k num : Nat) : State :=
  { s with free := s.free + 2 ^ 13,
           olds := (s.olds.map fun (o : OldWord) => if o.core = k then { o with cmds := o.cmds.filter (· != num) } else o).filter
             fun o => o.cmds != [] }

/-- A command whose rows wait for no more than the port's rotation asks for the port (R51). -/
def State.rowsAsk (s : State) (k : Nat) : State := if s.unitTurn (coreUnit k) 1 then s else s.portAsk k 1

/-! ### Starting (R412) -/

/-- The command at the head of the queue, if it may start as far as the sequencer and its push go: one command starts in a cycle,
and the queue of a core that an isolated fault stopped runs on (R412, R415, R440). -/
def Core.headCmd (c : Core) (now kind : Nat) : Option Cmd :=
  match c.mx.queue with
  | [] => none
  | m :: _ =>
    if recKind m.words = kind ∧ !c.mx.stopped ∧ (c.run = .running ∨ c.run = .stopped) ∧ c.mx.last ≠ some now ∧
        !(m.after.any fun i => c.ops.any fun o => o.id == i)
    then some m else none

/-- The core with its head command started, and the next one at the head (R427). -/
def Core.startCmd (c : Core) (now : Nat) (done : Bool) (flags : Nat) : Core :=
  match c.mx.queue with
  | [] => c
  | m :: rest =>
    let rest := match rest with
      | n :: ns => { n with head := now } :: ns
      | [] => []
    { c with mx := { c.mx with queue := rest, last := some now,
                               run := c.mx.run ++ [{ m with done := done, flags := flags, start := now }] } }

/-- The head command and every one behind it discarded: they retire without effect, FLT is set, and the cause is a fault of
the head command's launch (R427). -/
def State.discard (s : State) (k cause : Nat) (val addr : Word) : State :=
  let c := s.core k
  match c.mx.queue with
  | [] => s
  | m :: _ =>
    let dead := c.mx.queue.map fun x => { x with words := [BitVec.ofNat 64 (6 * 2 ^ 60)], done := true, flags := 0 }
    let s := s.setCore k { c with mx := { c.mx with queue := [], run := c.mx.run ++ dead, flt := true } }
    s.unitFault k 2 m.lev m.launch cause m.pc val addr

/-- A scratchpad pointer of a core's own (R18). -/
def scratchPtr (off : Nat) : Word := BitVec.ofNat 64 (2 ^ 56 + off)

/-- An MMA waits at the head of a core's queue for the governor alone (R260, R261). -/
def Core.mmaWaits (c : Core) (now : Nat) : Bool :=
  match c.headCmd now 0 with
  | some m => !c.mx.runs now 0 && c.mx.st (recLat m.words) == .loaded
  | none => false

/-- The MMA starts of the window of 64 cycles that a cycle belongs to (R259). -/
def Cluster.startsIn (c : Cluster) (now : Nat) : Nat := if c.startWin = now / 64 then c.starts else 0

/-- The limit of MMA starts in a window: min(BUDGET, CAP), CAP as the supervisors may have lowered it (R259, R483). -/
def Cluster.mmaLimit (c : Cluster) (low : Nat) : Nat := min c.budget (min c.cap low)

/-- Whether the governor admits an MMA of active core `a`: the starts left go to the waiting cores in rotation (R260). -/
def State.mmaAdmits (s : State) (chip node a : Nat) : Bool :=
  let c := s.clu (nodeKey chip node)
  let left := c.mmaLimit (s.chip chip).capLow - c.startsIn s.now
  let order := tab 8 fun i => (c.lastMma + 1 + i) % 8
  let waiting := order.filter fun n => (s.core (coreKey chip node (slotOf c n))).mmaWaits s.now
  (waiting.take left).contains a

/-- A BF16 element of the scratchpad as a command sees it, as an exact value. -/
def State.bf16At (s : State) (k num off : Nat) : FVal := bf16.decode (s.cmdPeek k num off 2)

/-- MMA starts (R260, R412, R418). -/
def execMma (s : State) : Outc :=
  let k := coreKey s.arg.chip s.arg.node s.arg.slot
  let c := s.core k
  match c.headCmd s.now 0 with
  | none => .next s
  | some m =>
    let lat := recLat m.words
    let a := (activeOf (s.clu (keyCluster k)) s.arg.slot).getD 0
    if !c.mmaWaits s.now ∨ !s.mmaAdmits s.arg.chip s.arg.node a then .next s
    else if s.rowsWait k (recOff m.words) (recStr m.words) 16 64 then .next (s.rowsAsk k)
    else match s.badRow k (recOff m.words) (recStr m.words) 16 64 with
      | some w => .next (s.discard k Cause.eccUncorr 0 (scratchPtr w))
      | none =>
        let s := s.readRows k (recOff m.words) (recStr m.words) 16 64 .load
        let row := fun i => tab 32 fun j => s.bf16At k m.num (recOff m.words + i * recStr m.words + 2 * j)
        let col := fun j => tab 32 fun r => bf16.decode (c.mx.tile k lat r j).toNat
        let acc := recAcc m.words
        let res := tab 1024 fun n =>
          mmaElem (if recBit56 m.words = 1 then 0 else c.mx.elem k acc (n / 64) (n % 64)) (row (n / 64)) (col (n % 64))
        let fl := res.foldl (fun f r => f ||| r.2) (0 : Flags)
        let s := (s.cmdRead k m.num).updClu (keyCluster k) fun u =>
          { u with starts := u.startsIn s.now + 1, startWin := s.now / 64, lastMma := a }
        .next (s.updCore k fun c =>
          let c := c.startCmd s.now true fl.toNat
          let mx := (c.mx.setAcc acc fun i j => (res.getD (i * 64 + j) (0, 0)).1)
          let mx := { mx with busy := mx.busy ++ [(m.num, lat)] }
          { c with mx := if recO m.words = 1 then mx.setSt lat .leaving else mx })

/-- Element (r, j) of the tile that an LDB reads (R420). -/
def State.ldbElem (s : State) (k num : Nat) (ws : List Word) (r j : Nat) : BitVec 16 :=
  let row := recOff ws + r * recStr ws
  let at_ := fun (p : Word) => s.cmdPeek k num (p.toNat % 2 ^ 16) 1
  if recFmt ws = 2 then BitVec.ofNat 16 (s.cmdPeek k num (row + 2 * j) 2)
  else
    let f := recForm ws
    let p := BitVec.ofNat 64 row
    let (e, high) := elemAddr p f j
    let sc := scaleAddr p f j
    let code := if high then at_ e / 16 % 16 else at_ e % 16
    BitVec.ofNat 16 (roundBF16 (blockVal (recFmt ws == 9) code (at_ sc) (at_ (sc + 1))))

/-- Row bytes of an LDB (R417). -/
def ldbRow (ws : List Word) : Nat :=
  match (recForm ws).block with
  | some (n, k) => 64 / n * (n / 2 + k)
  | none => 128

/-- The core `d` places on in the ring (R421). -/
def State.ringAt (s : State) (k d : Nat) : Nat :=
  let clu := s.clu (keyCluster k)
  coreKey (keyChip k) (keyNode k) (slotOf clu (((activeOf clu (keySlot k)).getD 0 + d) % 8))
/-- The next core of the ring. -/
def State.ringNext (s : State) (k : Nat) : Nat := s.ringAt k 1
/-- The core before it. -/
def State.ringPrev (s : State) (k : Nat) : Nat := s.ringAt k 7

/-- The ROTB at a core's head, if its source latch is LOADED and the next core's latch OPEN (R412). -/
def State.rotbReady (s : State) (k : Nat) : Option Cmd :=
  let c := s.core k
  match c.headCmd s.now 2 with
  | none => none
  | some m =>
    if c.mx.st (recLat m.words) = .loaded ∧
        ((s.core (s.ringNext k)).mx.settle s.now).st (recBit56 m.words) = .isOpen then some m
    else none

/-- Whether the previous core's ROTB may reserve a latch in this cycle: its reservation comes before an LDB (R412). -/
def State.ringFirst (s : State) (k lat : Nat) : Bool :=
  (s.rotbReady (s.ringPrev k)).any fun m => recBit56 m.words == lat

/-- LDB starts (R412, R420). -/
def execLdb (s : State) : Outc :=
  let k := coreKey s.arg.chip s.arg.node s.arg.slot
  let c := s.core k
  match c.headCmd s.now 1 with
  | none => .next s
  | some m =>
    let lat := recLat m.words
    let st := (c.mx.settle s.now).st lat
    if (st ≠ .isOpen ∧ st ≠ .loaded) ∨ c.mx.reads s.now lat ∨ s.ringFirst k lat then .next s
    else if recBit56 m.words = 1 then
      .next (s.updCore k fun c => let c := c.startCmd s.now true 0; { c with mx := c.mx.setSt lat .isOpen })
    else if s.rowsWait k (recOff m.words) (recStr m.words) 32 (ldbRow m.words) then .next (s.rowsAsk k)
    else match s.badRow k (recOff m.words) (recStr m.words) 32 (ldbRow m.words) with
      | some w => .next (s.discard k Cause.eccUncorr 0 (scratchPtr w))
      | none =>
        let s := s.readRows k (recOff m.words) (recStr m.words) 32 (ldbRow m.words) .load
        .next ((s.cmdRead k m.num).updCore k fun c =>
          let c := c.startCmd s.now true 0
          { c with mx := (c.mx.setLatch lat fun r j => s.ldbElem k m.num m.words r j).setSt lat .loaded })

/-- ROTB starts (R412, R421). -/
def execRotb (s : State) : Outc :=
  let k := coreKey s.arg.chip s.arg.node s.arg.slot
  match s.rotbReady k with
  | none => .next s
  | some m =>
    let n := s.ringNext k
    let src := recLat m.words
    let dst := recBit56 m.words
    let s := s.updCore k fun c =>
      let c := c.startCmd s.now false 0
      { c with mx := { c.mx.setSt src .leaving with ring := c.mx.ring ++ [⟨m.num, src, keySlot n, dst⟩] } }
    .next (s.updCore n fun c => { c with mx := c.mx.setSt dst .reserved })

/-- RING_TRANSFER_END (R421): the oldest transfer of a core's ring link ends. -/
def execRingTransferEnd (s : State) : Outc :=
  let k := coreKey s.arg.chip s.arg.node s.arg.slot
  let c := s.core k
  match c.mx.ring with
  | [] => .next s
  | x :: later =>
    let n := coreKey s.arg.chip s.arg.node x.slot
    let s := s.updCore n fun d => { d with mx := (d.mx.setLatch x.dst fun r j => c.mx.tile k x.src r j).setSt x.dst .loaded }
    .next (s.updCore k fun c =>
      let mx := { c.mx with ring := later,
                            run := c.mx.run.map fun (y : Cmd) => if y.num = x.cmd then { y with done := true } else y }
      { c with mx := mx.openIf s.now x.src })

/-- The commands queued at a core that wait for the memory writes of every earlier command: those pushed under SER = 1, which stand
as behind an MFEN, or behind an MFEN, and all after them (R410, R412). -/
def Mx.fenced (m : Mx) : List Nat := (m.queue.dropWhile fun c => !c.ser && recKind c.words != 6).map Cmd.num

/-- An element written by an STC: commands that no MFEN keeps behind it may still see the word as it was (R145). -/
def State.stcPoke (s : State) (k off n v : Nat) : State :=
  (s.poke (scratchPa k off) n v 2).settleOld (scratchPa k off) n fun m => (s.core k).mx.fenced.contains m.num

/-- STC starts (R412, R422). -/
def execStc (s : State) : Outc :=
  let k := coreKey s.arg.chip s.arg.node s.arg.slot
  let c := s.core k
  match c.headCmd s.now 3 with
  | none => .next s
  | some m =>
    let f := recForm m.words
    if c.mx.runs s.now 3 then .next s
    else if s.rowsWait k (recOff m.words) (recStr m.words) 16 (64 * f.size) then .next (s.rowsAsk k)
    else
      let acc := recAcc m.words
      let md := { modesOf m.fcr with daz := false }
      let out := tab 1024 fun n => storeCode f (c.mx.elem k acc (n / 64) (n % 64)) md
      let fl := out.foldl (fun x r => x ||| r.2) (0 : Flags)
      let off := fun n => recOff m.words + n / 64 * recStr m.words + n % 64 * f.size
      let stop := (tab 1024 id).find? fun n => s.isBad (scratchPa k (off n))
      let write := fun (s : State) => (tab (stop.getD 1024) id).foldl (fun s n => s.stcPoke k (off n) f.size (out.getD n (0, 0)).1) s
      let s := s.readRows k (recOff m.words) (recStr m.words) 16 (64 * f.size) .store
      match stop with
      | some n => .next ((write s).discard k Cause.eccUncorr 0 (scratchPtr (off n)))
      | none => .next (write (s.updCore k fun c =>
          let c := c.startCmd s.now true fl.toNat
          { c with mx := if recBit56 m.words = 1 then c.mx.setAcc acc fun _ _ => 0 else c.mx }))

/-- ZC starts (R422). -/
def execZc (s : State) : Outc :=
  let k := coreKey s.arg.chip s.arg.node s.arg.slot
  match (s.core k).headCmd s.now 4 with
  | none => .next s
  | some m => .next (s.updCore k fun c =>
      let c := c.startCmd s.now true 0
      { c with mx := c.mx.setAcc (recAcc m.words) fun _ _ => 0 })

/-- MNOTE starts; its write leaves when it retires (R414, R422). -/
def execMnote (s : State) : Outc :=
  let k := coreKey s.arg.chip s.arg.node s.arg.slot
  match (s.core k).headCmd s.now 5 with
  | none => .next s
  | some _ => .next (s.updCore k fun c => c.startCmd s.now false 0)

/-- MFEN starts: the memory writes of earlier commands have performed with their starts (R412, R422). -/
def execMfen (s : State) : Outc :=
  let k := coreKey s.arg.chip s.arg.node s.arg.slot
  match (s.core k).headCmd s.now 6 with
  | none => .next s
  | some _ => .next (s.updCore k fun c => c.startCmd s.now true 0)

/-! ### Retiring (R411, R414) and discarding (R427) -/

/-- Whether an MNOTE's write is on its way to its mailbox. -/
def Core.noted (c : Core) (mb num : Nat) : Bool :=
  (c.mbq.getD mb []).any fun w => w.cls == 0 && w.cmd == num

/-- Whether the oldest started command is an MNOTE whose write has still to enter a mailbox's queue (R307, R414). -/
def Core.noteDue (c : Core) (mb : Nat) : Bool :=
  match c.mx.run with
  | m :: _ => recKind m.words == 5 && !m.done && recAcc m.words == mb && !c.noted mb m.num
  | [] => false

/-- MAILBOX_LANDING (R307): the oldest write of a mailbox's queue lands at the end of the core's cycle, in which it issues nothing
more; an MNOTE of that cycle enters the queue first. A cycle that passes lands what has not landed. -/
def execMailboxLanding (s : State) : Outc :=
  let k := coreKey s.arg.chip s.arg.node s.arg.slot
  .next (if (s.core k).noteDue s.arg.index then s else s.updCore k fun c => c.mbLand s.now s.arg.index)

/-- Levels that wait for a retired count (R425). -/
def Core.wakeMx (c : Core) : Core :=
  c.mapLvls fun l => match l.wait with
    | .mxwait n => if (c.mx.retired + 2 ^ 32 - n) % 2 ^ 32 < 2 ^ 31 then { l with wait := .ready } else l
    | _ => l

/-- COMMAND_RETIRE (R414): the oldest started command retires when its effects are complete; an MNOTE's write leaves at its
turn, in a cycle in which nothing has landed on its mailbox (R307). A retirement ends the core's cycle, so that its flags land after a write or clear of that cycle (R411). -/
def execCommandRetire (s : State) : Outc :=
  let k := coreKey s.arg.chip s.arg.node s.arg.slot
  let c := s.core k
  match c.mx.run with
  | [] => .next s
  | m :: rest =>
    if recKind m.words = 5 ∧ !m.done then
      if c.noted (recAcc m.words) m.num ∨ c.ended.contains (recAcc m.words) then .next s
      else .next (s.setCore k (c.mbPush (recAcc m.words) ⟨s.now, 0, m.words.getD 1 0, m.num⟩))
    else if !m.done then .next s
    else
      let mx := { c.mx with run := rest, retired := (c.mx.retired + 1) % 2 ^ 32,
                            busy := c.mx.busy.filter (fun b => b.1 != m.num),
                            mode := c.mx.mode ||| BitVec.ofNat 64 m.flags }
      .next (s.setCore k ({ c with mx := mx.settle s.now, ended := c.ended ++ [4] }).wakeMx)

/-- MATRIX_COMMAND_DISCARD (R427): the head command has waited LIMIT cycles. -/
def execMatrixCommandDiscard (s : State) : Outc :=
  let k := coreKey s.arg.chip s.arg.node s.arg.slot
  let c := s.core k
  let limit := ((s.vdev? c.owner).map VDev.limit).getD 0x100000
  match c.mx.queue with
  | [] => .next s
  | m :: _ =>
    if c.mx.stopped ∨ s.now < m.head + limit then .next s
    else .next (s.discard k Cause.watchdog (BitVec.ofNat 64 limit) 0)

/-- GOVERNOR_WINDOW (R259): the count of a window that has ended is given up for that of the present one. -/
def execGovernorWindow (s : State) : Outc :=
  .next (s.updClu (nodeKey s.arg.chip s.arg.node) fun c => { c with starts := c.startsIn s.now, startWin := s.now / 64 })

/-! ### Instructions (R423 to R426) -/

/-- MXQ waits while the queue is full; its operands keep their values meanwhile (R424). -/
def execMxq (vs : VName) (rd : XReg) (s : State) : Outc :=
  .next (match s.vsrc vs.toNat with
    | .stop t => t
    | .ok v =>
      let ws := tab 8 fun i => ((v.lane (2 * i + 1) ++ v.lane (2 * i) : BitVec 64))
      let c := s.curCore
      let l := s.curLvl
      if 64 ≤ c.mx.queue.length then s.replay
      else if !recordOk ws l.fcr then s.raise Cause.illegal (ws.getD 0 0) 0
      else
        let s := s.pushRecord s.curKey ws s.cur.lev.val l.acts l.launch l.ipc l.fcr (s.ropePreds s.cur.lev.val)
        s.retire 4 fun l => { (l.popAll [vs.toNat]).wx rd (BitVec.ofNat 64 s.curCore.mx.pushed) with xl := [] })

/-- MXWAIT (R425). -/
def execMxwait (ra : XReg) (s : State) : Outc :=
  let n := fld (s.curLvl.rx ra).toNat 0 32
  .next ((s.retire 4 fun l => { l with wait := .mxwait n }).updCore s.curKey Core.wakeMx)

/-- The code of a latch state (R426). -/
def LatchState.code : LatchState → Nat
  | .isOpen => 0 | .reserved => 1 | .loaded => 2 | .leaving => 3

/-- The value of MXSTAT (R426). -/
def Mx.status (m : Mx) : Word :=
  BitVec.ofNat 64 ((if m.queue = [] ∧ m.run = [] then 0 else 2 ^ 63) + m.flt.toNat * 2 ^ 62 + m.st1.code * 2 ^ 58 +
    m.st0.code * 2 ^ 56 + m.queue.length * 2 ^ 32 + fld m.mode.toNat 0 5)

/-- MXSTAT (R426). -/
def execMxstat (rd : XReg) (s : State) : Outc := .next (s.alu 4 rd fun _ => (s.curCore.mx.settle s.now).status)
/-- MXSTAT.c also clears FLT and the flags (R426). -/
def execMxstatC (rd : XReg) (s : State) : Outc :=
  let v := (s.curCore.mx.settle s.now).status
  .next ((s.updCore s.curKey fun c => { c with mx := { c.mx with flt := false, mode := c.mx.mode &&& ~~~31 } }).alu 4 rd
    fun _ => v)

/-! ### The register rack (R235, R428 to R430) -/

/-- RACK.TAKE joins the queue of its core; RACK_GRANT grants it (R235). -/
def execRackTake (n : BitVec 4) (s : State) : Outc :=
  let c := s.curCore
  let b := c.borrowed s.cur.lev
  .next (
    if n = 0 then s.retire 4 id
    else if b ≠ 0 then s.raise Cause.rackHold (BitVec.ofNat 64 s.curLvl.held.length) 0
    else if 8 - c.floors < n.toNat then s.raise Cause.rackBig (n.setWidth 64) 0
    else (s.updCore s.curKey fun c => { c with takes := c.takes ++ [(s.cur.lev.val, n.toNat)] }).retire 4
      fun l => { l with wait := .take n.toNat })

/-- RACK_GRANT (R235): the head TAKE of the queue is granted when enough sets are free; their contents are undefined. -/
def execRackGrant (s : State) : Outc :=
  let k := coreKey s.arg.chip s.arg.node s.arg.slot
  let c := s.core k
  match c.takes with
  | [] => .next s
  | (l, n) :: rest =>
    if c.rackFree < n ∨ c.run ≠ .running then .next s
    else
      let sets := c.poolSets.take n
      let s := s.setCore k { c with takes := rest }
      let s := s.updLvl k (lvOf l) fun x => { x with held := x.held ++ sets, wait := .ready }
      .next (s.blankSets k sets)

/-- Whether an interlocked or later write to a register of the sets is outstanding at a level (R429). -/
def Lvl.setsBusy (l : Lvl) (sets : List Nat) : Bool :=
  l.ilock.any fun i => match i.1 with
    | .v n => sets.contains (n / 16)
    | _ => false

/-- RACK.GIVE waits for the outstanding writes into the sets it returns, and then returns them (R235, R429). -/
def execRackGive (n : BitVec 4) (s : State) : Outc :=
  let c := s.curCore
  let l := s.curLvl
  let m := min n.toNat (c.borrowed s.cur.lev)
  let keep := l.held.length - m
  let sets := l.held.drop keep
  .next (if l.setsBusy sets then s.replay
    else s.retire 4 fun l => { l with held := l.held.take keep, pend := l.pend.filter fun (e : Pend) => match e.reg with
      | .v r => !sets.contains (r / 16)
      | _ => true })

/-- RACK.QRY (R430). -/
def execRackQry (rd : XReg) (s : State) : Outc :=
  let c := s.curCore
  let b := c.borrowed s.cur.lev
  let f := c.floorOf s.cur.lev
  .next (s.alu 4 rd fun _ => BitVec.ofNat 64 (c.rackFree * 2 ^ 12 + f * 2 ^ 8 + b * 2 ^ 4 + (f + b)))

end Sys2Proof.Machine
end

