-- ==== Sys2Proof/Machine/Owner.lean ====
section
/-! DEFINITION. Accesses at their owners: PERFORM (R117), the retry lists (R70 to R73), FENCEF's flag (R134, R135), the store
buffer's drain (R58), the re-sending of refused requests (R72), and the gates of a memory controller (R453, R454). -/

namespace Sys2Proof.Machine

/-! ### Packets at their units -/

/-- The delivered packet that an event names. -/
def State.arrivedPkt (s : State) : Option Packet := s.pkts.find? fun p => p.id == s.arg.id && p.stage == .arrived
/-- The state without a packet. -/
def State.dropPkt (s : State) (id : Nat) : State := { s with pkts := s.pkts.filter fun p => p.id != id }

/-- Whether a virtual device's reset drains, so that nothing of its reset chips performs (R446). -/
def State.draining (s : State) (vd : Nat) (a b : UnitId) : Bool :=
  match s.vdev? vd with
  | some v => decide (2 ≤ v.reset) && (v.scope.contains a.chip || v.scope.contains b.chip)
  | none => true

/-- The answer to a request. -/
def State.reply (s : State) (p : Packet) (op status : Nat) (data : Word) (line : Option (Nat × List Byte × List Nat)) : State :=
  s.sendPkt p.dst p.src p.vd (if line.isSome then .data else .control) 0 (.resp op status data line)

/-! ### Performing -/

/-- The line that an answered fill carries (R57, R65). -/
def State.lineOf (s : State) (pa : Nat) : Nat × List Byte × List Nat :=
  let l := pa / 256
  (l, s.peekBytes (l * 256) 256, (tab 32 fun i => l * 32 + i).filter fun w => s.isBad (w * 8))

/-- An access that has met an uncorrectable error: its owner's stop tells the supervisors (R65, R474). -/
def State.eccSeen (s : State) (pa : Nat) : State :=
  s.belayEvent (fld pa 47 9) (memStop pa).1 (memStop pa).2 0x05 (BitVec.ofNat 64 (pa % 2 ^ 47))

/-- A store into the matrix queue window: its bytes, and the push of the slot when they include its last (R406). With the
queue full, the store waits at the port. -/
def State.windowStore (s : State) (p : Packet) (a : Acc) (op : Nat) : State :=
  let k := p.dst.core
  match s.opOf op with
  | none => s.dropPkt p.id
  | some (src, o) =>
    if a.pushes ∧ 64 ≤ (s.core k).mx.queue.length then s.updOp src op fun o => { o with st := .waiting }
    else
      let s := ((((s.dropPkt p.id).trace a).store a a.data).portServed p.dst p.input).countWrite (nodeKey p.dst.chip p.dst.node) a
      let s := if a.pushes then s.pushSlot k (a.pa % 4096) o a.fcr else s
      s.reply p op 0 0 none

/-- An access that has performed: the frame it wrote has an owner, its rope's count at the node goes up, and the matrix commands
whose push came after it see it (R75, R135, R415). -/
def State.afterAcc (s : State) (u : UnitId) (a : Acc) (op : Nat) : State :=
  if a.writes then ((s.ownFrame a.pa a.vd).countWrite (nodeKey u.chip u.node) a).settleOld a.pa a.size fun m => m.after.contains op
  else s

/-- Whether an operation's withdrawal is under way (R73). -/
def Op.withdraws (o : Op) : Bool :=
  match o.st with
  | .withdrawing => true
  | .rewithdraw _ => true
  | _ => false

/-- An access that has arrived at its owner, and whose turn it is at the port, performs, waits in the retry list, or is refused. -/
def State.performPkt (s : State) (p : Packet) (a : Acc) (op : Nat) : State :=
  if s.draining p.vd p.src p.dst then (s.dropPkt p.id).reply p op 5 0 none
  else if s.copying p.dst then (s.dropPkt p.id).reply p op 1 0 none
  else if !s.portTurn p then s
  else if 2 ^ 56 ≤ a.pa then
    if a.cls == .store then s.windowStore p a op
    else (((s.dropPkt p.id).trace a).portServed p.dst p.input).reply p op 0 (BitVec.ofNat 64 (s.peek a.pa a.size)) none
  else if s.owed a.pa a.size then s
  else match s.gate p a with
    | .hold t => t
    | .busy => (s.dropPkt p.id).reply p op 1 0 none
    | .go s =>
      let s := (s.dropPkt p.id).portServed p.dst p.input
      let s := if s.populated a.pa then (s.trace a).l2Fill a.pa a.mt else s
      let n := nodeKey p.dst.chip p.dst.node
      match s.perform a with
      | .access => (s.countWrite n a).reply p op 3 0 none
      | .ecc => ((s.eccSeen a.pa).countWrite n a).reply p op 4 0 none
      | .done v s => (s.afterAcc p.dst a op).reply p op 0 v (if a.fill then some (s.lineOf a.pa) else none)
      | .wait =>
        if (s.retry.filter fun w => w.owner == p.dst).length < 1024 then
          let s := { s with retry := s.retry ++ [Waiter.mk p.dst a op s.nextId], nextId := s.nextId + 1 }
          match s.opOf op with
          | some (k, o) => if o.withdraws then s else s.updOp k op fun o => { o with st := .waiting }
          | none => s
        else s.reply p op 1 0 none

/-- An AREAD at its owner: the bytes read in one step, or the status of what stops them (R65, R357). Up to 16 bytes are answered
on the control plane (R104). -/
def State.performAread (s : State) (p : Packet) (pa len op : Nat) : State :=
  let ans := fun (s : State) (st : Nat) (d : List Byte) =>
    s.sendPkt p.dst p.src p.vd (if len ≤ 16 then .control else .data) 0 (.areadReply op st d)
  let a : Acc := { pa := pa, size := len, cls := .load, kind := .s, vd := p.vd, src := p.src,
                   rope := ((s.opOf op).map fun o => o.2.name).getD 0,
                   mt := ((s.opOf op).bind fun o => o.2.xl.map TlbEntry.mt).getD 0 }
  if s.draining p.vd p.src p.dst then ans (s.dropPkt p.id) 5 []
  else if s.copying p.dst then (s.dropPkt p.id).reply p op 1 0 none
  else if !s.portTurn p || s.owed pa len then s
  else match s.gate p a with
    | .hold t => t
    | .busy => (s.dropPkt p.id).reply p op 1 0 none
    | .go s =>
      let s := (s.dropPkt p.id).portServed p.dst p.input
      if !s.populated pa then ans s 3 []
      else
        let last := pa + len - 1
        let s := s.trace a
        let s := (if last / 256 = pa / 256 then s else s.memServe p.vd last).l2Run pa len a.mt
        if s.badRun pa len then ans (s.eccSeen pa) 4 []
        else
          let d := s.peekBytes pa len
          ans ((tab (len / 8) id).foldl (fun s i => s.correct (pa + 8 * i)) s) 0 d

/-- A word of a copy written at its owner, with the source word's full/empty bit where the channel's flag asks for it (R68, R142,
R150). -/
def State.copyWord (s : State) (src : UnitId) (vd pa mt : Nat) (v : Word) (full : Option Bool) : State :=
  let s := s.trace { pa := pa, size := 8, cls := .store, kind := .w, mt := mt, vd := vd, src := src }
  ((s.lineServe vd pa mt).ownFrame pa vd).pokeRun pa mt [v] [full]

/-- Words of a copy sector that have travelled to their owner: they are written and acknowledged (R98, R372). Those of a channel that
has failed since the sector was checked are lost with it (R460, log entry 124). -/
def State.landCopy (s : State) (p : Packet) (k part : Nat) (ws : List (Nat × Nat × Word × Option Bool)) : State :=
  let ack := fun (s : State) (st : Nat) => (s.dropPkt p.id).sendPkt p.dst p.src p.vd .control 0 (.copyAck k part st)
  if s.draining p.vd p.src p.dst then ack s 5
  else if s.copying p.dst then ack s 1
  else if !s.portTurn p || ws.any (fun w => s.owed w.1 8 || s.memWaits p.vd w.1) then s
  else ack ((ws.filter fun w => !s.pcFailed w.1).foldl (fun s w => s.copyWord p.src p.vd w.1 w.2.1 w.2.2.1 w.2.2.2) (s.portServed p.dst p.input)) 0

/-- PERFORM (R117): an access, an AREAD's read (R357), the words of a copy sector (R372), or the write-back that a CFLUSH asks for (R367). -/
def execPerform (s : State) : Outc :=
  .next (match s.arrivedPkt with
    | some p => match p.payload with
      | .access a op => s.performPkt p a op
      | .aread pa len op => s.performAread p pa len op
      | .copyData k part ws => s.landCopy p k part ws
      | .flush line op =>
        if s.draining p.vd p.src p.dst then (s.dropPkt p.id).reply p op 5 0 none
        else if !s.portTurn p then s
        else if !s.populated (line * 256) then ((s.dropPkt p.id).portServed p.dst p.input).reply p op 3 0 none
        else (((s.dropPkt p.id).portServed p.dst p.input).writeBack line).reply p op 0 0 none
      | _ => s
    | none => s)

/-- RETRY_LIST_SERVICE (R71): the oldest waiting entry of a word whose condition holds is served. -/
def execRetryListService (s : State) : Outc :=
  .next (match s.served s.arg.addr with
    | [] => s
    | w :: _ =>
      let s := { s with retry := s.retry.filter fun x => x.op != w.op }
      let ans := fun (s : State) (st : Nat) (v : Word) =>
        s.sendPkt w.owner w.acc.src w.acc.vd .control 0 (.resp w.op st v none)
      match s.perform w.acc with
      | .done v s => ans (s.afterAcc w.owner w.acc w.op) 0 v
      | .ecc => ans ((s.eccSeen w.acc.pa).countWrite (nodeKey w.owner.chip w.owner.node) w.acc) 4 0
      | .access => ans (s.countWrite (nodeKey w.owner.chip w.owner.node) w.acc) 3 0
      | .wait => s)

/-- FENCEF_MARKER (R134, R135): the flag's node performs the flag once the writes that its marker counts have performed there; a
count of 0 is the waiting form's, whose source has waited. -/
def execFencefMarker (s : State) : Outc :=
  .next (match s.arrivedPkt with
    | some p => match p.payload with
      | .marker a op count =>
        if s.draining p.vd p.src p.dst then s.performPkt p a op
        else if !s.markerDue p a op count then s
        else
          let t := s.performPkt p a op
          if t.pkts.any fun q => q.id == p.id then t else t.countEnd (nodeKey p.dst.chip p.dst.node) a
      | _ => s
    | none => s)

/-- WITHDRAWAL (R73): the owner removes the waiting entry, or answers that it found none. -/
def execWithdrawal (s : State) : Outc :=
  .next (match s.arrivedPkt with
    | some p => match p.payload with
      | .withdraw op =>
        let found := s.retry.any fun w => w.op == op && w.owner == p.dst
        let s := { (s.dropPkt p.id) with retry := s.retry.filter fun w => !(w.op == op && w.owner == p.dst) }
        s.sendPkt p.dst p.src p.vd .control 0 (.withdrawn op found)
      | _ => s
    | none => s)

/-! ### Leaving the source -/

/-- STORE_BUFFER_DRAIN (R58): an entry of the store buffer leaves for its destination and writes the core's L1 copy. -/
def execStoreBufferDrain (s : State) : Outc :=
  let k := coreKey s.arg.chip s.arg.node s.arg.slot
  .next (match (s.core k).ops.find? fun o => o.id == s.arg.id && o.st == .buffered with
    | some o => match o.work with
      | .mem a =>
        let s := s.updCore k fun c => c.l1Write a
        (s.sendOp k o).pump k
      | _ => s
    | none => s)

/-- A part of a copy sector leaves for its owner: one flit of up to 32 words, or a message of two (R87, R98). -/
def State.sendPart (s : State) (k : Nat) (f : CopyPart) : State :=
  let s := s.sendPkt ⟨keyChip k, keyNode k, 9⟩ f.dst (s.core k).owner .data (if 32 < f.words.length then 1 else 0) (.copyData k f.id f.words)
  { s with pkts := s.pkts.map fun (p : Packet) => if p.id + 1 = s.nextId then { p with tag := f.tag } else p }

/-- The parts of a core's oldest transfer changed. -/
def State.updFlight (s : State) (k : Nat) (f : Xfer → Xfer) : State :=
  s.updCore k fun c => { c with chan := { c.chan with queue := c.chan.queue.mapIdx fun i x => if i = 0 then f x else x } }

/-- The core and the part of a copy sector with a number. -/
def State.partOf (s : State) (id : Nat) : Option (Nat × CopyPart) :=
  List.findSome? (fun (kc : Nat × Core) =>
    ((kc.2.chan.queue.flatMap Xfer.flight).find? fun f => f.id == id).map fun f => (kc.1, f)) s.cores

/-- A refused part of a copy sector is sent again once its back-off is over (R72, R100). -/
def State.resendPart (s : State) (k : Nat) (f : CopyPart) : State :=
  match f.again with
  | some t =>
    if s.now < t || !s.sendsNow k then s
    else (s.updFlight k fun x => { x with flight := x.flight.map fun g => if g.id = f.id then { g with again := none } else g }).sendPart k f
  | none => s

/-- NACK_RESEND (R72): once its back-off is over, a refused request is sent again, a withdrawal that came too early (R73), or the
part of a copy sector (R100). -/
def execNackResend (s : State) : Outc :=
  .next (match s.opOf s.arg.id with
    | some (k, o) =>
      let due := fun (t : Nat) => decide (t ≤ s.now) && s.sendsNow k
      match o.st, o.work with
      | .backoff t, _ => if due t then s.sendOp k o else s
      | .rewithdraw t, .mem a =>
        if due t then (s.updOp k o.id fun o => { o with st := .withdrawing }).sendPkt (coreUnit k) (ownerOf a.pa) (s.core k).owner
          .control 0 (.withdraw o.id)
        else s
      | _, _ => s
    | none => match s.partOf s.arg.id with
      | some (k, f) => s.resendPart k f
      | none => s)

end Sys2Proof.Machine
end

