-- ==== Sys2Proof/Machine/Complete.lean ====
section
/-! DEFINITION. What the answers to operations bring: RESPONSE (R105, R342), the results gathered from several reads (R178,
R210, R291, R353, R355, R356, R359, R385, R389, R391), declined spawns (R220, R354), withdrawals (R73), and the watchdog
(R206). -/

namespace Sys2Proof.Machine

/-! ### Statuses (R86, R105) -/

/-- The cause of a status that is raised, with its TRAPVAL. A MEMBER_RESET answer to an access names no group, so its GROUP_ABORT
has TRAPVAL 0 (DESIGN CHOICE, log entry 109). -/
def statusCause (st : Nat) : Nat × Word :=
  match st with
  | 2 => (Cause.xlateDeny, denyVal 4 0 0)
  | 4 => (Cause.eccUncorr, 0)
  | 5 => (Cause.groupAbort, 0)
  | _ => (Cause.access, 0)

/-- The level without the interlocks of an operation or collector. -/
def Lvl.unlock (l : Lvl) (id : Nat) : Lvl := { l with ilock := l.ilock.filter fun i => i.2 != id }

/-! ### Table entries (R209) -/

/-- A handler's address as an entry gives it: bit 0, which R209 keeps zero, is left out (DESIGN CHOICE, log entry 103). -/
def handlerPc (w : Word) : Word := w &&& ~~~1

/-- A dispatch or reply-tag entry from its two words. -/
def dispEntry (w0 w1 : Word) : DispEntry :=
  ⟨handlerPc w0, w1.getLsbD 7, w1.getLsbD 6, w1.getLsbD 5, fld w1.toNat 0 2⟩

/-- Entries loaded into a table from the words read. -/
def loadEntries (n : Nat) (vals : AMap Word) (t : AMap DispEntry) : AMap DispEntry :=
  (tab n id).foldl (fun t i => AMap.put t i (dispEntry (AMap.get vals 0 (2 * i)) (AMap.get vals 0 (2 * i + 1)))) t

/-! ### Class descriptors (R176, R177) -/

/-- Whether EVCFG refuses a descriptor. RBASE with a format, block or space bit is refused as well (R176; DEDUCED, log entry 136). -/
def classBad (d : List Word) : Bool :=
  let f := fun i lo n => fld (d.getD i 0).toNat lo n
  let op := f 0 60 3
  let mag := f 0 58 2
  let admitted := match op with
    | 0 => mag ≤ 1 | 2 => mag ≤ 1 | 3 => mag ≤ 1 | 4 => mag ≤ 1
    | 1 => mag == 0 || mag == 2
    | 5 => mag == 0 || mag == 2
    | _ => true
  let nan := mag == 1 && f 1 23 8 == 255 && f 1 0 23 != 0
  op == 7 || mag == 3 || !admitted || decide (f 0 51 5 < 6 ∨ 20 < f 0 51 5) || f 0 0 51 != 0 || f 2 0 12 != 0 ||
    f 2 56 8 != 0 || nan

/-! ### Group entries (R106, R359) -/

/-- Whether MCJOIN refuses an image for a virtual device on a chip. -/
def State.imageBad (s : State) (v : VDev) (chip : Nat) (e : List Word) : Bool :=
  let w := (e.getD 0 0).toNat
  let bad := fun (m : Nat × Nat) =>
    (v.clusterOf chip m.1).isNone || m.2 == 15 ||
      (decide (m.2 < 9) && (activeOf (s.clu (nodeKey chip m.1)) m.2).isNone)
  let spare := (tab (min 28 (fld w 17 5)) fun i => fld (e.getD (1 + i / 4) 0).toNat (16 * (i % 4) + 14) 2).any (· != 0)
  fld w 0 17 != 0 || fld w 44 3 == 6 || decide (28 < fld w 17 5) || spare || (entryMembers e).any bad

/-- The entry written by MCJOIN: V and VDID are the device's own. -/
def joinEntry (e : List Word) (vd : Nat) : List Word :=
  let w := (e.getD 0 0).toNat
  BitVec.ofNat 64 (fld w 63 1 * 2 ^ 63 + vd * 2 ^ 47 + w % 2 ^ 47) :: e.tail

/-! ### Finished results -/

/-- The core with operations in place of those of the same numbers. -/
def Core.replaceOps (c : Core) (os : List Op) : Core :=
  { c with ops := c.ops.map fun o => ((os.find? fun p => p.id == o.id).map fun p => { p with quiet := o.quiet }).getD o }

/-- Waiting operations that never come to be issued, since what they need could not be read. -/
def Core.dropOps (c : Core) (ids : List Nat) : Core := { c with ops := c.ops.filter fun o => !ids.contains o.id }

/-- The operations that a gathering would issue. -/
def Finish.ops : Finish → List Nat
  | .vpush _ _ _ _ _ _ ops => ops.map fun o => o.op.id
  | .vstore _ _ _ ops => ops.map fun o => o.op.id
  | .sendc op => [op]
  | _ => []

/-- Element writes given their lanes, with the flags in the level's FCR (R297). -/
def State.issueLanes (s : State) (k : Nat) (c : Coll) (ops : List LaneOp) (f : Fmt) (vals : VReg) (fcr : Word) : State :=
  let (os, fl) := fillOps ops f vals c.vals (modesOf fcr)
  let s := s.updCore k fun x => x.replaceOps os
  s.updLvl k (lvOf c.lev) fun x => if x.isAct c.act then (x.flag fl).unlock c.id else x

/-- A tensor map register written (R388). -/
def setTm (tm : Vector (List Word) 8) (m : Nat) (d : List Word) : Vector (List Word) 8 :=
  if h : m < 8 then tm.set m d h else tm

/-- What is done with a result all of whose parts are in. The descriptor that an EVCFG read reaches every store and core of the
virtual device in one turn (DESIGN CHOICE, log entry 110). -/
def State.finish (s : State) (k : Nat) (c : Coll) : State :=
  let l := lvOf c.lev
  let live := (s.lvl k l).isAct c.act
  let word := fun i => AMap.get c.vals (0 : Word) i
  let vd := (s.core k).owner
  let fail := fun (s : State) (cause : Nat) (val : Word) => s.lateCause k c.lev c.act c.launch cause c.pc val 0 false
  match c.finish with
  | .vload place fmt old mask nib daz =>
    if live then
      (s.updCore k fun x => x.wv place (gathered fmt old mask nib daz c.vals)).updLvl k l fun x => x.unlock c.id
    else s
  | .vpush _ fmt mask nib dst fcr ops =>
    s.issueLanes k c ops dst (gathered fmt VReg.zero mask nib (fcr.getLsbD 7) c.vals) fcr
  | .vstore dst vals fcr ops => s.issueLanes k c ops dst vals fcr
  | .chunk n fmt mask nib daz =>
    if live then
      s.updLvl k l fun x => match x.stream n with
        | some st => x.setStream n (some { st with buf := some (daz, gathered fmt VReg.zero mask nib daz c.vals), asked := false })
        | none => x
    else s
  | .lnch rd q => s.tryEnqueue vd ⟨k, c.lev, c.act, rd, c.id, none, q, tab 8 word⟩
  | .tbind tag lev pc =>
    s.updCore k fun x => { x with tags := AMap.put x.tags tag ⟨handlerPc pc, true, false, false, lev⟩ }
  | .evcfg cls =>
    let d := tab 4 word
    if classBad d then fail s Cause.illegal (BitVec.ofNat 64 cls)
    else s.updVd vd fun v => { v with classes := AMap.put v.classes cls d }
  | .tmld m =>
    let d := tab 8 word
    if !live then s
    else if tmapBad d then fail s Cause.illegal (BitVec.ofNat 64 m)
    else (s.updCore k fun x => { x with tm := setTm x.tm m d }).updLvl k l fun x => x.unlock c.id
  | .mcjoin g =>
    let e := tab 8 word
    let chip := keyChip k
    match s.vdev? vd with
    | none => s
    | some v =>
      let old := ((s.groupEntry chip g).getD 0 0).toNat
      if (fld old 63 1 = 1 ∧ fld old 47 16 ≠ vd) ∨ s.imageBad v chip e then
        fail s Cause.access 0
      else
        s.setGroupEntry chip g (if (e.getD 0 0).getLsbD 63 then some (joinEntry e vd) else none)
  | .sendc op =>
    let n := c.vals.length
    let code := (tab n fun i => leBytes 2 (word i).toNat).flatten
    s.updOp k op fun o => match o.work with
      | .message m t => { o with st := .held, work := .message { m with code := some code } t }
      | _ => o
  | .dispload base => s.updCore k fun x => { x with dispbase := base, disp := loadEntries 32 c.vals [], dispAsk := [] }
  | .tagload base => s.updCore k fun x => { x with tagbase := base, tags := loadEntries 64 c.vals x.tags }

/-- The parts read, and those of the lanes that share another's reads (R387). -/
def Coll.shared (c : Coll) : AMap Word :=
  c.share.foldl (fun vals x => ([0, 1, 2] : List Nat).foldl (fun vals j => match AMap.find? c.vals (4 * x.2 + j) with
    | some w => AMap.put vals (4 * x.1 + j) w
    | none => vals) vals) c.vals

/-- A result gathered whole: it is used, or its lowest failing part raises its cause and nothing is used (R32, R342). -/
def State.gatherEnd (s : State) (k : Nat) (c : Coll) : State :=
  let s := s.updCore k fun x => { x with colls := x.colls.filter fun (y : Coll) => y.id != c.id }
  match c.bad with
  | none => s.finish k { c with vals := c.shared }
  | some (_, cause, addr) =>
    let s := s.updCore k fun x => x.dropOps c.finish.ops
    s.lateCause k c.lev c.act c.launch cause c.pc (if cause = Cause.xlateDeny then denyVal 4 0 0 else 0) addr true

/-- One part of a gathered result comes in, with its value or its cause. -/
def State.feed (s : State) (k id part : Nat) (v : Word) (bad : Option (Nat × Word)) : State :=
  match (s.core k).colls.find? fun c => c.id == id with
  | none => s
  | some c =>
    let worse := fun (x : Nat × Word) => match c.bad with
      | some (p, _, _) => if part < p then some (part, x.1, x.2) else c.bad
      | none => some (part, x.1, x.2)
    let c := { c with left := c.left - 1, vals := AMap.put c.vals part v,
                      bad := match bad with
                        | some x => worse x
                        | none => c.bad }
    if c.left = 0 then s.gatherEnd k c
    else s.updCore k fun x => { x with colls := x.colls.map fun (y : Coll) => if y.id = id then c else y }

/-! ### The end of an operation -/

/-- A scalar result in its register (R343, R345, R349). -/
def Core.loadResult (c : Core) (o : Op) (r size : Nat) (signed : Bool) (v : Word) : Core :=
  let l := lvOf o.lev
  let x := c.lvl l
  if x.isAct o.act then
    let n := 8 * size
    let m := v.toNat % 2 ^ n
    let w := if signed ∧ 2 ^ (n - 1) ≤ m then BitVec.ofInt 64 ((m : Int) - 2 ^ n) else BitVec.ofNat 64 m
    (c.setLvl l (x.unlock o.id)).land l (.x r) (.word w)
  else c

/-- The line of an answered fill kept in L1, unless something has come between (R57, R59). -/
def State.keepLine (s : State) (k : Nat) (o : Op) (line : Option (Nat × List Byte × List Nat)) : State :=
  match line with
  | some (l, d, b) =>
    if o.epoch = some (s.core k).epoch then
      let (pick, s) := s.freeNat
      s.updCore k fun c => c.l1Fill ⟨l, d, b⟩ pick
    else s
  | none => s

/-- An acquire of a scope wider than the core empties L1 (R61). -/
def Op.acquires (o : Op) : Bool := (o.kind == .acq || o.kind == .ar) && scopeWide o.scope

/-- SPAWN declined: the child runs inline as a plain call (R220, R354). -/
def State.inlineChild (s : State) (k : Nat) (o : Op) (pc : Word) : State :=
  let l := lvOf o.lev
  let x := s.lvl k l
  if x.inlineN.toNat = 15 then s.raiseAt k l Cause.inlineDeep o.pc x.pc 15 0 false
  else
    let x := { x with wait := .ready, inlineN := x.inlineN + 1 }
    s.setLvl k l (((x.wx 1 x.pc).goto pc).runInbox false)

/-- Whether a level waits for an operation's withdrawal; its cause (R73). -/
def Lvl.withdraws (l : Lvl) (id : Nat) : Bool :=
  match l.wait with
  | .gone i _ => i == id
  | _ => false

/-- An activation ended by its watchdog: FE_TIMEOUT is raised by the access that waits, WATCHDOG by the level's last instruction
(R73, R206, R432). -/
def State.expire (s : State) (k : Nat) (l : Level) (cause : Nat) (pc addr : Word) : State :=
  let limit := ((s.vdev? (s.core k).owner).map VDev.limit).getD 0x100000
  let x := s.lvl k l
  let s := s.setLvl k l { x with wait := .ready }
  s.raiseAt k l cause pc x.pc (if cause = Cause.watchdog then BitVec.ofNat 64 limit else 0) addr false

/-- An operation that has its answer is over; but a load that took its value from another level's buffered store stays, for the
order's sake, until that store has performed (R58, R120). -/
def State.opOver (s : State) (k : Nat) (o : Op) : State :=
  match o.st with
  | .taking p =>
    if (s.core k).ops.any fun q => q.id == p then s.updOp k o.id fun o => { o with st := .kept p, dest := .drop }
    else s.dropOp k o.id
  | _ => s.dropOp k o.id

/-- An operation answered with a status that ends it. A multicast store so refused is no longer in flight (R111, R360, log entry 131). -/
def State.answered (s : State) (k : Nat) (o : Op) (st : Nat) (v : Word) (line : Option (Nat × List Byte × List Nat)) : State :=
  let s := s.opOver k o
  let l := lvOf o.lev
  if (s.lvl k l).isAct o.act ∧ (s.lvl k l).withdraws o.id then s.expire k l Cause.watchdog (s.lvl k l).ipc o.va
  else
    if st = 0 then
      let s := if o.acquires then s.updCore k Core.l1Empty else s
      let s := match o.work with
        | .cflush line => s.updCore k fun c => c.l1Drop line
        | _ => s
      let s := s.keepLine k o line
      match o.dest with
      | .drop => s
      | .reg r size signed => s.updCore k fun c => c.loadResult o r size signed v
      | .part coll i => s.feed k coll i v none
    else
      let s := match o.work with
        | .mcst m _ _ => s.updCore k fun c => { c with mcOut := c.mcOut.filter (· != m.group) }
        | _ => s
      let (cause, val) := statusCause st
      match o.dest with
      | .part coll i => s.feed k coll i 0 (some (cause, o.va))
      | _ => s.lateRaise k o cause val o.va

/-- The cycle from which what was refused `nacks` times before is sent again: 64 cycles, doubling up to 1,024 (R72). -/
def State.backoffEnd (s : State) (nacks : Nat) : Nat := s.now + min 1024 (64 * 2 ^ min nacks 4)

/-- A refused operation is kept for re-sending; a full/empty access that its level's watchdog withdraws is not (R72, R73). -/
def State.refused (s : State) (k : Nat) (o : Op) : State :=
  let l := lvOf o.lev
  if (s.lvl k l).isAct o.act ∧ (s.lvl k l).withdraws o.id then (s.dropOp k o.id).expire k l Cause.feTimeout o.pc o.va
  else s.updOp k o.id fun o => { o with st := .backoff (s.backoffEnd o.nacks), nacks := o.nacks + 1 }

/-- Whether a message is given up because its launch has faulted under the main launch rule (R249, R353). -/
def State.givenUp (s : State) (k : Nat) (o : Op) : Bool :=
  match s.vdev? (s.core k).owner with
  | some v => v.launches.any fun j => j.id == o.launch && j.halted
  | none => true

/-- The answer to an operation of a core. -/
def State.respond (s : State) (k : Nat) (o : Op) (st : Nat) (v : Word) (line : Option (Nat × List Byte × List Nat))
    (slotless : Bool) : State :=
  match o.work with
  | .spawn m _ =>
    let waits := (s.lvl k (lvOf o.lev)).isAct o.act &&
      (match (s.lvl k (lvOf o.lev)).wait with
       | .spawn i _ => i == o.id
       | _ => false)
    if st = 1 ∧ !slotless then s.refused k o
    else
      let s := s.dropOp k o.id
      if !waits then s
      else if st = 1 ∨ st = 7 then s.inlineChild k o m.pc
      else
        let s := s.updLvl k (lvOf o.lev) fun x => { x with wait := .ready }
        if st = 0 then s
        else
          let (cause, val) := statusCause st
          s.lateRaise k o cause val 0
  | .message _ _ =>
    if st = 1 ∨ st = 7 then (if s.givenUp k o then s.dropOp k o.id else s.refused k o)
    else s.answered k { o with va := 0 } st v line
  | _ => if st = 1 then s.refused k o else s.answered k o st v line

/-! ### Multicast completions (R362) -/

/-- The type 0x04 message of a completion to the issuing level, whose start is an acquire, or its addition to a mailbox (R138, R307,
R362; log entry 112). -/
def State.mcastDone (s : State) (k : Nat) (m : Mcast) (lev launch pos neg first count : Nat) : State :=
  let s := s.updCore k fun c => { c with mcOut := c.mcOut.filter (· != m.group) }
  if m.cmode = 1 then s.updCore k fun c => c.mbPush m.mb ⟨s.now, 1, BitVec.ofNat 64 count, 0⟩
  else
    let args := [BitVec.ofNat 64 m.group, BitVec.ofNat 64 (neg % 2 ^ 16 * 2 ^ 16 + pos % 2 ^ 16), BitVec.ofNat 64 first, m.rb]
    s.sendPkt (coreUnit k) (coreUnit k) (s.core k).owner .control 0
      (.message { ty := 4, args := args, lev := lev, launch := launch, remote := true } 0)

/-- The first negative of an answer in the layout of R85, word 3. -/
def negative (st chip node unit : Nat) : Nat := st * 2 ^ 23 + chip * 2 ^ 14 + node * 2 ^ 4 + unit

/-- An MCLD of a core is complete (R361, R362). -/
def State.mcldDone (s : State) (k : Nat) (r : McldReg) : State :=
  let s := s.updCore k fun c => { c with mclds := c.mclds.filter fun (x : McldReg) => x.op != r.op }
  (s.dropOp k r.op).mcastDone k r.m r.lev r.launch r.pos r.neg r.first r.pos

/-- A register of an MCLD changed; it completes when no line is left. -/
def State.settleMcld (s : State) (k : Nat) (r : McldReg) : State :=
  if r.left = [] then s.mcldDone k r
  else s.updCore k fun c => { c with mclds := c.mclds.map fun (x : McldReg) => if x.op = r.op then r else x }

/-! ### RESPONSE -/

/-- An answer reaches the core that asked (R105). -/
def State.takeAnswer (s : State) (p : Packet) : State :=
  let k := p.dst.core
  let with_ := fun (s : State) (op : Nat) (f : State → Op → State) =>
    match (s.core k).ops.find? fun o => o.id == op with
    | some o => f s o
    | none => s
  match p.payload with
  | .resp op st v line => ((with_ (s.dropPkt p.id) op fun s o => s.respond k o st v line false)).pump k
  | .nack op slotless => ((with_ (s.dropPkt p.id) op fun s o => s.respond k o 1 0 none slotless)).pump k
  | .withdrawn op removed =>
    (with_ (s.dropPkt p.id) op fun s o =>
      if removed then
        let l := lvOf o.lev
        let ends := (s.lvl k l).isAct o.act ∧ (s.lvl k l).withdraws op
        let s := s.dropOp k op
        if ends then s.expire k l Cause.feTimeout o.pc o.va else s
      else s.updOp k op fun o => { o with st := .rewithdraw (s.backoffEnd o.nacks), nacks := o.nacks + 1 }).pump k
  | .adopted op =>
    (with_ (s.dropPkt p.id) op fun s o => match o.work with
      | .adopt _ _ =>
        (s.dropOp k op).updCore k fun c => (c.adopted op).l1Empty
      | _ => s).pump k
  | .mcDone op pos neg first =>
    (with_ (s.dropPkt p.id) op fun s o => match o.work with
      | .mcst m _ _ => (s.dropOp k op).mcastDone k m o.lev o.launch pos neg first pos
      | _ => s).pump k
  | .mcldAnswer op st =>
    let s := s.dropPkt p.id
    (match (s.core k).mclds.find? fun (r : McldReg) => r.op == op with
     | none => s
     | some r =>
       if st = 0 then s.mcldDone k r
       else if st = 1 then with_ s op fun s o => s.refused k o
       else if st = 5 then with_ s op fun s o =>
         let s := s.updCore k fun c => { c with mclds := c.mclds.filter (fun (x : McldReg) => x.op != op), mcOut := c.mcOut.filter (· != r.m.group) }
         (s.dropOp k op).lateRaise k o Cause.groupAbort (BitVec.ofNat 64 (0x10000 + r.m.group)) 0
       else s.mcldDone k { r with neg := 1, first := negative st (keyChip k) (keyNode k) (keySlot k) }).pump k
  | .merge _ pos _ _ _ _ _ =>
    if s.draining p.vd p.src p.dst then s.dropPkt p.id else (s.dropPkt p.id).updCore k fun c => c.mbPush 3 ⟨s.now, 2, BitVec.ofNat 64 pos, 0⟩
  | _ => s

/-! ### The watchdog (R206) -/

/-- A full/empty access. -/
def Op.isFe (o : Op) : Bool :=
  match o.work with
  | .mem a => match a.cls with
    | .fe _ => true
    | _ => false
  | _ => false

/-- Whether an operation is known to wait: in its owner's list, or to be re-sent (R73). -/
def OpState.stands : OpState → Bool
  | .waiting => true
  | .backoff _ => true
  | _ => false

/-- The full/empty access of an activation that its watchdog withdraws: the oldest that waits, else the oldest still on its way
(R73, log entry 123). -/
def Core.feWaiting (c : Core) (l : Level) : Option Op :=
  let mine := c.ops.filter fun o => o.lev == l.val && o.act == (c.lvl l).acts && o.isFe
  (mine.find? fun o => o.st.stands) <|> mine.find? fun o => o.st == .sent

/-- A level's place in a barrier, a queue of TAKEs or the detector is given up with its wait (R227). -/
def State.quitWait (s : State) (k : Nat) (l : Level) : State :=
  match (s.lvl k l).wait with
  | .gbar g _ =>
    match s.vdev? (s.core k).owner with
    | some v => s.gwithdraw (s.core k).owner g (s.vdCoreOf v k, l.val)
    | none => s
  | _ => s

/-- WATCHDOG (R73, R206): the activation has run for LIMIT cycles. A trapped level ends at once with WATCHDOG and takes its forward
with it, whatever it has outstanding (R437). -/
def execWatchdog (s : State) : Outc :=
  let k := coreKey s.arg.chip s.arg.node s.arg.slot
  let l := s.arg.lev
  let c := s.core k
  let x := c.lvl l
  let limit := ((s.vdev? c.owner).map VDev.limit).getD 0x100000
  let busy := match x.wait with
    | .gone _ _ => true
    | _ => false
  .next (match x.act with
    | none => s
    | some a =>
      if s.now < a.start + limit ∨ busy = true ∨ c.run ≠ .running then s
      else match (if x.wait == .trapped then none else c.feWaiting l) with
        | some o =>
          match o.st with
          | .backoff _ => ((s.dropOp k o.id).expire k l Cause.feTimeout o.pc o.va).pump k
          | _ =>
            let s := s.updOp k o.id fun o => { o with st := .withdrawing }
            let s := s.updLvl k l fun x => { x with wait := .gone o.id 0 }
            match o.work with
            | .mem acc => s.sendPkt (coreUnit k) (ownerOf acc.pa) c.owner .control 0 (.withdraw o.id)
            | _ => s
        | none => ((s.quitWait k l).expire k l Cause.watchdog x.ipc 0).pump k)

end Sys2Proof.Machine
end

