-- ==== Sys2Proof/Machine/Group.lean ====
section
/-! DEFINITION. The group instructions (R225 to R228, R365): GJOIN, GLEAVE, GBAR, GCOUNT. -/

namespace Sys2Proof.Machine

/-- The issuing pair: core of the virtual device and level (R225). -/
def State.pair (s : State) : Nat × Nat :=
  (((s.vdev? s.curVd).map fun v => s.vdCoreOf v s.curKey).getD 0, s.cur.lev.val)

/-- A group of the issuing virtual device. -/
def State.group (s : State) (g : Nat) : Group :=
  match s.vdev? s.curVd with
  | some v => AMap.get v.groups {} g
  | none => {}

/-- The group joined by a pair: at once, or once the barrier in progress has completed (R226). -/
def Group.join (grp : Group) (m : Nat × Nat) (launch : Nat) : Group :=
  if grp.members.contains m || grp.joiners.contains m then grp
  else
    let grp := { grp with owner := grp.owner.filter (fun (o : (Nat × Nat) × Nat) => o.1 != m) ++ [(m, launch)] }
    if grp.arrived = [] then { grp with members := grp.members ++ [m] } else { grp with joiners := grp.joiners ++ [m] }

/-- GJOIN (R226). -/
def execGjoin (group : BitVec 6) (s : State) : Outc :=
  let g := group.toNat
  .next ((s.setGroup s.curVd g ((s.group g).join s.pair s.curLvl.launch)).retire 4 id)

/-- GLEAVE (R226). -/
def execGleave (group : BitVec 6) (s : State) : Outc :=
  .next ((s.retire 4 id).gleave s.curVd group.toNat s.pair false)

/-- The operations of the issuing level so far that have not performed. -/
def State.behind (s : State) : Bool := s.curCore.ops.any fun o => o.lev == s.cur.lev.val && decide (o.po < s.curLvl.po)

/-- GBAR: the arrival acts as a fence at scope .y, so it comes once every earlier operation of the thread has performed, for which
the level waits; it then waits for the barrier (R141, R226, R251). -/
def execGbar (group : BitVec 6) (rd : XReg) (s : State) : Outc :=
  let g := group.toNat
  let grp := s.group g
  let m := s.pair
  .next (
    if !grp.members.contains m && !grp.joiners.contains m then s.raise Cause.illegal (BitVec.ofNat 64 g) 0
    else if s.behind then s.replayWait (.fence s.curLvl.po true false)
    else
      let s := s.retire 4 fun l => { (l.lock (.x rd.toNat) 0) with wait := .gbar g rd.toNat }
      if grp.members.contains m then
        (s.setGroup s.curVd g { grp with arrived := grp.arrived ++ [m] }).barrier s.curVd g
      else s.setGroup s.curVd g { grp with waiting := grp.waiting ++ [m] })

/-- GCOUNT (R226). -/
def execGcount (group : BitVec 6) (rd : XReg) (s : State) : Outc :=
  .next (s.alu 4 rd fun _ => BitVec.ofNat 64 (s.group group.toNat).members.length)

end Sys2Proof.Machine
end

