-- ==== Sys2Proof/Machine/VectorArith.lean ====
section
/-! DEFINITION. Vector arithmetic: lane operations (R377, R378), unary operations and conversions (R379, R380), compares
(R381), predicates (R382), reductions (R394), moves and permutes (R395), and the special functions (R396 to R402). -/

namespace Sys2Proof.Machine

/-! ### Shared forms -/

/-- A lane operation on two sources, of latency 4, that does not round: the result from the two lanes (R377). -/
def State.vv (s : State) (pg : PReg) (vb va vd : VName) (f : Lane → Lane → Lane) : State :=
  s.vlanes [va.toNat, vb.toNat] vd.toNat false pg 4 false fun _ xs _ => (f (laneA xs) (laneB xs), 0)

/-- A lane operation on two sources that rounds an exact result of the two values (R376, R377). -/
def State.vvF (s : State) (pg : PReg) (vb va vd : VName) (f : RMode → FVal → FVal → Flagged FVal) : State :=
  s.vlanes [va.toNat, vb.toNat] vd.toNat false pg 4 true fun md xs _ =>
    roundTo (f md.rm (laneVal (laneA xs) md.daz) (laneVal (laneB xs) md.daz)) md

/-- A fused multiply-add: the old destination is a source (R375), and `f` forms the exact value from a, b and c. -/
def State.vfma (s : State) (pg : PReg) (vb va vd : VName) (f : RMode → FVal → FVal → FVal → Flagged FVal) : State :=
  s.vlanes [va.toNat, vb.toNat] vd.toNat true pg 4 true fun md xs c =>
    roundTo (f md.rm (laneVal (laneA xs) md.daz) (laneVal (laneB xs) md.daz) (laneVal c md.daz)) md

/-- A minimum or maximum of FP32 lanes: DAZ applies, no flag is set (R378). -/
def State.vvMinMax (s : State) (pg : PReg) (vb va vd : VName) (f : Lane → Lane → Lane) : State :=
  s.vlanes [va.toNat, vb.toNat] vd.toNat false pg 4 false fun md xs _ =>
    (f (dazLane (laneA xs) md.daz) (dazLane (laneB xs) md.daz), 0)

/-- A unary lane operation of latency 4 on the bits of the lane (R379). -/
def State.vx (s : State) (pg : PReg) (va vd : VName) (f : Lane → Lane) : State :=
  s.vlanes [va.toNat] vd.toNat false pg 4 false fun _ xs _ => (f (laneA xs), 0)

/-- A unary lane operation that rounds in the captured mode, of latency `lam`. -/
def State.vxF (s : State) (pg : PReg) (va vd : VName) (lam : Nat) (f : Modes → Lane → Flagged Lane) : State :=
  s.vlanes [va.toNat] vd.toNat false pg lam true fun md xs _ => f md (laneA xs)

/-- A narrowed value as an FP32 lane: Sat to the format, and its code widened again (R301, R302, R379). -/
def narrowF (g : Format) (md : Modes) (a : Lane) : Flagged Lane :=
  let (y, fl) := satFloat (laneVal a md.daz) g md.rm md.ftz
  (widen g (g.codeOf y) false, fl)

/-- A signed number as an exact value. -/
def intVal (n : Int) : FVal := .num (decide (n < 0)) n.natAbs 0

/-- The amount of a lane shift: bits [4:0] (R377). -/
def amt5 (b : Lane) : Nat := b.toNat % 32

/-- A compare: bit i is the truth of `f` for an active lane, and 0 for an inactive one; a predicate of latency 2 (R267,
R381). -/
def State.vcmp (s : State) (pg : PReg) (vb va : VName) (pd : PReg) (f : Bool → Lane → Lane → Bool) : State :=
  match s.vsrcs [va.toNat, vb.toNat] with
  | .stop t => t
  | .ok vs =>
    let mask := s.curLvl.rp pg
    let daz := s.curLvl.fcr.getLsbD 7
    let a := vs.getD 0 VReg.zero
    let b := vs.getD 1 VReg.zero
    let m := maskOf fun i => active mask i && f daz (a.lane i) (b.lane i)
    s.retire 4 fun l => { (l.popAll [va.toNat, vb.toNat]).wpLat pd m 2 with xl := [] }

/-- A compare of FP32 values, DAZ applied (R381). -/
def cmpF (f : FVal → FVal → Bool) (daz : Bool) (a b : Lane) : Bool := f (laneVal a daz) (laneVal b daz)

/-- A predicate result of latency 1 (R267, R382). -/
def State.pred (s : State) (pd : PReg) (v : Lvl → Word) : State := s.retire 4 fun l => l.wp pd (v l)

/-- One round of the reduction tree: pairs in lane order, an absent member passing the other on (R304). -/
def treeRound {α : Type} (f : α → α → α) : List (Option α) → List (Option α)
  | some a :: some b :: rest => some (f a b) :: treeRound f rest
  | some a :: none :: rest => some a :: treeRound f rest
  | none :: b :: rest => b :: treeRound f rest
  | [a] => [a]
  | [] => []

/-- The six rounds (R304). -/
def treeFold {α : Type} (f : α → α → α) (xs : List (Option α)) : Option α :=
  (treeRound f (treeRound f (treeRound f (treeRound f (treeRound f (treeRound f xs)))))).headD none

/-- A reduction of the active lanes to a scalar of latency 12 (R267, R394): what the lanes give, with its flags. -/
def State.vred (s : State) (pg : PReg) (va : VName) (rd : XReg) (f : Modes → List (Option Lane) → Flagged Word) : State :=
  match s.vsrc va.toNat with
  | .stop t => t
  | .ok v =>
    let mask := s.curLvl.rp pg
    let (w, fl) := f (modesOf s.curLvl.fcr) (tab 64 fun i => if active mask i then some (v.lane i) else none)
    s.retire 4 fun l => { ((l.popAll [va.toNat]).flag fl).wxLat rd w 12 with xl := [] }

/-- A reduction by an operator that sets no flag, with the value that all lanes absent give (R394). -/
def redOf (f : Lane → Lane → Lane) (empty : Lane) (xs : List (Option Lane)) : Lane := (treeFold f xs).getD empty

/-- A reduction to FP32 minimum or maximum: DAZ applies, and a NaN in any active lane gives the default NaN (R394). -/
def redMinMax (f : Lane → Lane → Lane) (empty : Lane) (md : Modes) (xs : List (Option Lane)) : Flagged Word :=
  let nan := xs.any fun x => match x with
    | some a => (laneVal a false).isNan
    | none => false
  let g := fun (a b : Lane) => f (dazLane a md.daz) (dazLane b md.daz)
  ((if nan then (0x7FC00000 : Lane) else redOf g empty xs).setWidth 64, 0)

/-- A move or permute of one value, all lanes written, of latency `lam` (R395). -/
def State.vmove (s : State) (srcs : List Nat) (vd : VName) (lam : Nat) (f : List VReg → VReg) : State :=
  match s.vsrcs srcs with
  | .stop t => t
  | .ok vs =>
    match s.vdst vd.toNat false with
    | .stop t => t
    | .ok d => s.vput d srcs (-1) (f vs) 0 lam

/-! ### Lane arithmetic (R377, R378) -/

/-- VADD.f (R377). -/
def execVaddF (pg : PReg) (vb va vd : VName) (s : State) : Outc :=
  .next (s.vvF pg vb va vd fun m a b => fAdd a b m)
/-- VSUB.f (R377). -/
def execVsubF (pg : PReg) (vb va vd : VName) (s : State) : Outc :=
  .next (s.vvF pg vb va vd fun m a b => fAdd a (fNeg b) m)
/-- VMUL.f (R377). -/
def execVmulF (pg : PReg) (vb va vd : VName) (s : State) : Outc :=
  .next (s.vvF pg vb va vd fun _ a b => fMul a b)
/-- VFMA.f (R377): a × b + c with one rounding. -/
def execVfmaF (pg : PReg) (vb va vd : VName) (s : State) : Outc :=
  .next (s.vfma pg vb va vd fun m a b c => fFma a b c m)
/-- VFMS.f (R377): c − a × b with one rounding. -/
def execVfmsF (pg : PReg) (vb va vd : VName) (s : State) : Outc :=
  .next (s.vfma pg vb va vd fun m a b c => fFma (fNeg a) b c m)
/-- VMIN.f (R378). -/
def execVminF (pg : PReg) (vb va vd : VName) (s : State) : Outc :=
  .next (s.vvMinMax pg vb va vd minF32)
/-- VMAX.f (R378). -/
def execVmaxF (pg : PReg) (vb va vd : VName) (s : State) : Outc :=
  .next (s.vvMinMax pg vb va vd maxF32)
/-- VADD.i (R377). -/
def execVaddI (pg : PReg) (vb va vd : VName) (s : State) : Outc :=
  .next (s.vv pg vb va vd fun a b => a + b)
/-- VSUB.i (R377). -/
def execVsubI (pg : PReg) (vb va vd : VName) (s : State) : Outc :=
  .next (s.vv pg vb va vd fun a b => a - b)
/-- VMUL.i (R377). -/
def execVmulI (pg : PReg) (vb va vd : VName) (s : State) : Outc :=
  .next (s.vv pg vb va vd fun a b => a * b)
/-- VMULH.i (R377). -/
def execVmulhI (pg : PReg) (vb va vd : VName) (s : State) : Outc :=
  .next (s.vv pg vb va vd fun a b => BitVec.ofInt 32 ((a.toInt * b.toInt).fdiv (2 ^ 32)))
/-- VMIN.i (R377). -/
def execVminI (pg : PReg) (vb va vd : VName) (s : State) : Outc :=
  .next (s.vv pg vb va vd fun a b => if a.slt b then a else b)
/-- VMAX.i (R377). -/
def execVmaxI (pg : PReg) (vb va vd : VName) (s : State) : Outc :=
  .next (s.vv pg vb va vd fun a b => if a.slt b then b else a)
/-- VMINN (R377). -/
def execVminn (pg : PReg) (vb va vd : VName) (s : State) : Outc :=
  .next (s.vv pg vb va vd fun a b => if a.ult b then a else b)
/-- VMAXN (R377). -/
def execVmaxn (pg : PReg) (vb va vd : VName) (s : State) : Outc :=
  .next (s.vv pg vb va vd fun a b => if a.ult b then b else a)
/-- VAND (R377). -/
def execVand (pg : PReg) (vb va vd : VName) (s : State) : Outc :=
  .next (s.vv pg vb va vd fun a b => a &&& b)
/-- VANDN (R377). -/
def execVandn (pg : PReg) (vb va vd : VName) (s : State) : Outc :=
  .next (s.vv pg vb va vd fun a b => a &&& ~~~b)
/-- VOR (R377). -/
def execVor (pg : PReg) (vb va vd : VName) (s : State) : Outc :=
  .next (s.vv pg vb va vd fun a b => a ||| b)
/-- VXOR (R377). -/
def execVxor (pg : PReg) (vb va vd : VName) (s : State) : Outc :=
  .next (s.vv pg vb va vd fun a b => a ^^^ b)
/-- VSHL (R377). -/
def execVshl (pg : PReg) (vb va vd : VName) (s : State) : Outc :=
  .next (s.vv pg vb va vd fun a b => a <<< amt5 b)
/-- VSHR (R377). -/
def execVshr (pg : PReg) (vb va vd : VName) (s : State) : Outc :=
  .next (s.vv pg vb va vd fun a b => a >>> amt5 b)
/-- VSRA (R377). -/
def execVsra (pg : PReg) (vb va vd : VName) (s : State) : Outc :=
  .next (s.vv pg vb va vd fun a b => a.sshiftRight (amt5 b))
/-- VROT (R377). -/
def execVrot (pg : PReg) (vb va vd : VName) (s : State) : Outc :=
  .next (s.vv pg vb va vd fun a b => a.rotateLeft (amt5 b))
/-- VSEL: a where the predicate bit is 1, else b, in every lane; the old destination is never read (R377, R378). -/
def execVsel (pg : PReg) (vb va vd : VName) (s : State) : Outc :=
  let mask := s.curLvl.rp pg
  .next (s.vmove [va.toNat, vb.toNat] vd 4 fun vs =>
    VReg.tab fun i => if active mask i then (vs.getD 0 VReg.zero).lane i else (vs.getD 1 VReg.zero).lane i)
/-- VMAC.i: (a × b + c) mod 2^32, the old destination being c (R375, R377). -/
def execVmacI (pg : PReg) (vb va vd : VName) (s : State) : Outc :=
  .next (s.vlanes [va.toNat, vb.toNat] vd.toNat true pg 4 false fun _ xs c => (laneA xs * laneB xs + c, 0))

/-! ### Unary operations and conversions (R379, R380) -/

/-- VCPY (R379, R380). -/
def execVcpy (pg : PReg) (va vd : VName) (s : State) : Outc :=
  .next (s.vx pg va vd fun a => a)
/-- VNEG.f: the sign bit inverted (R379, R380). -/
def execVnegF (pg : PReg) (va vd : VName) (s : State) : Outc :=
  .next (s.vx pg va vd fun a => a ^^^ 0x80000000)
/-- VABS.f: the sign bit cleared (R379, R380). -/
def execVabsF (pg : PReg) (va vd : VName) (s : State) : Outc :=
  .next (s.vx pg va vd fun a => a &&& 0x7FFFFFFF)
/-- VSQRT.f (R380). -/
def execVsqrtF (pg : PReg) (va vd : VName) (s : State) : Outc :=
  .next (s.vxF pg va vd 4 fun md a => roundTo (fSqrt (laneVal a md.daz)) md)
/-- VNOT (R379, R380). -/
def execVnot (pg : PReg) (va vd : VName) (s : State) : Outc :=
  .next (s.vx pg va vd fun a => ~~~a)
/-- VNEG.i (R379, R380). -/
def execVnegI (pg : PReg) (va vd : VName) (s : State) : Outc :=
  .next (s.vx pg va vd fun a => 0 - a)
/-- VABS.i: −2^31 stays (R379, R380). -/
def execVabsI (pg : PReg) (va vd : VName) (s : State) : Outc :=
  .next (s.vx pg va vd fun a => if a.getLsbD 31 then 0 - a else a)
/-- VCLZ (R379, R380). -/
def execVclz (pg : PReg) (va vd : VName) (s : State) : Outc :=
  .next (s.vx pg va vd fun a => BitVec.ofNat 32 (32 - bitLen a.toNat))
/-- VPOPC (R379, R380). -/
def execVpopc (pg : PReg) (va vd : VName) (s : State) : Outc :=
  .next (s.vx pg va vd fun a => BitVec.ofNat 32 (popCount a.toNat 32))
/-- VCVT.f.i (R379). -/
def execVcvtFI (pg : PReg) (va vd : VName) (s : State) : Outc :=
  .next (s.vxF pg va vd 4 fun md a => roundTo (intVal a.toInt, 0) md)
/-- VCVT.f.n (R379). -/
def execVcvtFN (pg : PReg) (va vd : VName) (s : State) : Outc :=
  .next (s.vxF pg va vd 4 fun md a => roundTo (intVal a.toNat, 0) md)
/-- VCVT.i.f (R301, R379). -/
def execVcvtIF (pg : PReg) (va vd : VName) (s : State) : Outc :=
  .next (s.vxF pg va vd 4 fun md a =>
    let (y, fl) := satInt (laneVal a md.daz) 32 md.rm
    (BitVec.ofInt 32 y, fl))
/-- VNAR.bf16 (R301, R379, R380). -/
def execVnarBf16 (pg : PReg) (va vd : VName) (s : State) : Outc :=
  .next (s.vxF pg va vd 4 fun md a => narrowF bf16 md a)
/-- VNAR.fp16 (R301, R379, R380). -/
def execVnarFp16 (pg : PReg) (va vd : VName) (s : State) : Outc :=
  .next (s.vxF pg va vd 4 fun md a => narrowF fp16 md a)
/-- VNAR.e4m3 (R301, R379, R380). -/
def execVnarE4m3 (pg : PReg) (va vd : VName) (s : State) : Outc :=
  .next (s.vxF pg va vd 4 fun md a => narrowF e4m3 md a)
/-- VNAR.e5m2 (R301, R379, R380). -/
def execVnarE5m2 (pg : PReg) (va vd : VName) (s : State) : Outc :=
  .next (s.vxF pg va vd 4 fun md a => narrowF e5m2 md a)
/-- VNAR.e2m1 (R301, R379, R380). -/
def execVnarE2m1 (pg : PReg) (va vd : VName) (s : State) : Outc :=
  .next (s.vxF pg va vd 4 fun md a => narrowF e2m1 md a)
/-- VNAR.i8 (R301, R379, R380). -/
def execVnarI8 (pg : PReg) (va vd : VName) (s : State) : Outc :=
  .next (s.vxF pg va vd 4 fun md a =>
    let (y, fl) := satInt (laneVal a md.daz) 8 md.rm
    (BitVec.ofInt 32 y, fl))

/-! ### Compares (R381) -/

/-- VCMP.f.eq (R381). -/
def execVcmpFEq (pg : PReg) (vb va : VName) (pd : PReg) (s : State) : Outc :=
  .next (s.vcmp pg vb va pd (cmpF fEq))
/-- VCMP.f.ne (R381). -/
def execVcmpFNe (pg : PReg) (vb va : VName) (pd : PReg) (s : State) : Outc :=
  .next (s.vcmp pg vb va pd (cmpF fun a b => !fEq a b))
/-- VCMP.f.lt (R381). -/
def execVcmpFLt (pg : PReg) (vb va : VName) (pd : PReg) (s : State) : Outc :=
  .next (s.vcmp pg vb va pd (cmpF fLt))
/-- VCMP.f.le (R381). -/
def execVcmpFLe (pg : PReg) (vb va : VName) (pd : PReg) (s : State) : Outc :=
  .next (s.vcmp pg vb va pd (cmpF fun a b => fLt a b || fEq a b))
/-- VCMP.f.un (R381). -/
def execVcmpFUn (pg : PReg) (vb va : VName) (pd : PReg) (s : State) : Outc :=
  .next (s.vcmp pg vb va pd (cmpF fun a b => a.isNan || b.isNan))
/-- VCMP.i.eq (R381). -/
def execVcmpIEq (pg : PReg) (vb va : VName) (pd : PReg) (s : State) : Outc :=
  .next (s.vcmp pg vb va pd (fun _ a b => a == b))
/-- VCMP.i.ne (R381). -/
def execVcmpINe (pg : PReg) (vb va : VName) (pd : PReg) (s : State) : Outc :=
  .next (s.vcmp pg vb va pd (fun _ a b => a != b))
/-- VCMP.i.lt (R381). -/
def execVcmpILt (pg : PReg) (vb va : VName) (pd : PReg) (s : State) : Outc :=
  .next (s.vcmp pg vb va pd (fun _ a b => a.slt b))
/-- VCMP.i.le (R381). -/
def execVcmpILe (pg : PReg) (vb va : VName) (pd : PReg) (s : State) : Outc :=
  .next (s.vcmp pg vb va pd (fun _ a b => a.sle b))
/-- VCMP.i.lo (R381). -/
def execVcmpILo (pg : PReg) (vb va : VName) (pd : PReg) (s : State) : Outc :=
  .next (s.vcmp pg vb va pd (fun _ a b => a.ult b))
/-- VCMP.i.ls (R381). -/
def execVcmpILs (pg : PReg) (vb va : VName) (pd : PReg) (s : State) : Outc :=
  .next (s.vcmp pg vb va pd (fun _ a b => a.ule b))

/-! ### Predicates (R382) -/

/-- PAND (R382). -/
def execPand (pb pa pd : PReg) (s : State) : Outc := .next (s.pred pd fun l => l.rp pa &&& l.rp pb)
/-- POR (R382). -/
def execPor (pb pa pd : PReg) (s : State) : Outc := .next (s.pred pd fun l => l.rp pa ||| l.rp pb)
/-- PXOR (R382). -/
def execPxor (pb pa pd : PReg) (s : State) : Outc := .next (s.pred pd fun l => l.rp pa ^^^ l.rp pb)
/-- PNOT (R382). -/
def execPnot (pa pd : PReg) (s : State) : Outc := .next (s.pred pd fun l => ~~~(l.rp pa))
/-- PCNT (R382). -/
def execPcnt (rd : XReg) (pa : PReg) (s : State) : Outc :=
  .next (s.alu 4 rd fun l => BitVec.ofNat 64 (popCount (l.rp pa).toNat 64))
/-- PFIRST: 64 when no bit is set (R382). -/
def execPfirst (rd : XReg) (pa : PReg) (s : State) : Outc := .next (s.alu 4 rd fun l => BitVec.ofNat 64 (ctz64 (l.rp pa)))
/-- PSET (R382). -/
def execPset (rs : XReg) (pd : PReg) (s : State) : Outc := .next (s.pred pd fun l => l.rx rs)
/-- PGET of a predicate (R382). -/
def execPgetPredicate (rd : XReg) (pa : PReg) (s : State) : Outc := .next (s.alu 4 rd fun l => l.rp pa)

/-! ### Reductions (R394) -/

/-- VRADD.f: RNE whatever the captured RM, with the captured DAZ and FTZ, and the flags of every addition (R304, R394). -/
def execVraddF (pg : PReg) (va : VName) (rd : XReg) (s : State) : Outc :=
  .next (s.vred pg va rd fun md xs =>
    let add := fun (a b : Flagged Lane) =>
      let r := roundTo (fAdd (laneVal a.1 md.daz) (laneVal b.1 md.daz) .rne) { md with rm := .rne }
      (r.1, a.2 ||| b.2 ||| r.2)
    let r := (treeFold add (xs.map fun x => x.map fun a => (a, 0))).getD (0, 0)
    (r.1.setWidth 64, r.2))
/-- VRMAX.f (R394). -/
def execVrmaxF (pg : PReg) (va : VName) (rd : XReg) (s : State) : Outc :=
  .next (s.vred pg va rd (redMinMax maxF32 0xFF800000))
/-- VRMIN.f (R394). -/
def execVrminF (pg : PReg) (va : VName) (rd : XReg) (s : State) : Outc :=
  .next (s.vred pg va rd (redMinMax minF32 0x7F800000))
/-- VRADD.i (R394). -/
def execVraddI (pg : PReg) (va : VName) (rd : XReg) (s : State) : Outc :=
  .next (s.vred pg va rd fun _ xs => ((redOf (fun a b => a + b) 0 xs).signExtend 64, 0))
/-- VRMAX.i (R394). -/
def execVrmaxI (pg : PReg) (va : VName) (rd : XReg) (s : State) : Outc :=
  .next (s.vred pg va rd fun _ xs => ((redOf (fun a b => if a.slt b then b else a) 0x80000000 xs).signExtend 64, 0))
/-- VRMIN.i (R394). -/
def execVrminI (pg : PReg) (va : VName) (rd : XReg) (s : State) : Outc :=
  .next (s.vred pg va rd fun _ xs => ((redOf (fun a b => if a.slt b then a else b) 0x7FFFFFFF xs).signExtend 64, 0))
/-- VRAND (R394). -/
def execVrand (pg : PReg) (va : VName) (rd : XReg) (s : State) : Outc :=
  .next (s.vred pg va rd fun _ xs => ((redOf (fun a b => a &&& b) 0xFFFFFFFF xs).setWidth 64, 0))
/-- VROR (R394). -/
def execVror (pg : PReg) (va : VName) (rd : XReg) (s : State) : Outc :=
  .next (s.vred pg va rd fun _ xs => ((redOf (fun a b => a ||| b) 0 xs).setWidth 64, 0))
/-- VRXOR (R394). -/
def execVrxor (pg : PReg) (va : VName) (rd : XReg) (s : State) : Outc :=
  .next (s.vred pg va rd fun _ xs => ((redOf (fun a b => a ^^^ b) 0 xs).setWidth 64, 0))

/-! ### Moves and permutes (R395) -/

/-- VBCAST (R395). -/
def execVbcast (rs : XReg) (vd : VName) (s : State) : Outc :=
  let x : Lane := (s.curLvl.rx rs).setWidth 32
  .next (s.vmove [] vd 2 fun _ => VReg.tab fun _ => x)
/-- VEXT: the scalar has latency 2 (R267, R395). -/
def execVext (lane : BitVec 6) (va : VName) (rd : XReg) (s : State) : Outc :=
  match s.vsrc va.toNat with
  | .stop t => .next t
  | .ok v => .next (s.retire 4 fun l => { (l.popAll [va.toNat]).wxLat rd ((v.lane lane.toNat).setWidth 64) 2 with xl := [] })
/-- VINS: a register keeps its other lanes; a write stream's chunk stores the one lane (R391, R395). -/
def execVins (lane : BitVec 6) (rs : XReg) (vd : VName) (s : State) : Outc :=
  let x : Lane := (s.curLvl.rx rs).setWidth 32
  match s.vdst vd.toNat false with
  | .stop t => .next t
  | .ok d =>
    let old := s.oldOf d
    .next (s.vput d [] (maskOf fun i => decide (i = lane.toNat))
      (VReg.tab fun i => if i = lane.toNat then x else old.lane i) 0 2)
/-- VPERM (R395). -/
def execVperm (vb va vd : VName) (s : State) : Outc :=
  .next (s.vmove [va.toNat, vb.toNat] vd 4 fun vs =>
    VReg.tab fun i => (vs.getD 0 VReg.zero).lane (((vs.getD 1 VReg.zero).lane i).toNat % 64))
/-- VSLIDE.up (R395). -/
def execVslideUp (lane : BitVec 6) (va vd : VName) (s : State) : Outc :=
  .next (s.vmove [va.toNat] vd 2 fun vs =>
    VReg.tab fun i => if lane.toNat ≤ i then (vs.getD 0 VReg.zero).lane (i - lane.toNat) else 0)
/-- VSLIDE.dn (R395). -/
def execVslideDn (lane : BitVec 6) (va vd : VName) (s : State) : Outc :=
  .next (s.vmove [va.toNat] vd 2 fun vs =>
    VReg.tab fun i => if i + lane.toNat ≤ 63 then (vs.getD 0 VReg.zero).lane (i + lane.toNat) else 0)
/-- VIOTA (R395). -/
def execViota (vd : VName) (s : State) : Outc :=
  .next (s.vmove [] vd 2 fun _ => VReg.tab fun i => BitVec.ofNat 32 i)

/-! ### Special functions, of latency 8 (R267, R396 to R402) -/

/-- VFEXP2 (R397). -/
def execVfexp2 (pg : PReg) (va vd : VName) (s : State) : Outc :=
  .next (s.vxF pg va vd 8 fun md a => roundTo (fExp2 (laneVal a md.daz)) md)
/-- VRINT (R398). -/
def execVrint (pg : PReg) (va vd : VName) (s : State) : Outc :=
  .next (s.vxF pg va vd 8 fun md a => fRint (laneVal a md.daz) md)
/-- VEXPI: the old destination lane times 2^n, with one rounding (R375, R399). -/
def execVexpi (pg : PReg) (va vd : VName) (s : State) : Outc :=
  .next (s.vlanes [va.toNat] vd.toNat true pg 8 true fun md xs c =>
    roundTo (fScale (laneVal c md.daz) (laneA xs).toInt, 0) md)
/-- VEXPX; it does not round (R400). -/
def execVexpx (pg : PReg) (va vd : VName) (s : State) : Outc :=
  .next (s.vlanes [va.toNat] vd.toNat false pg 8 false fun md xs _ => fExponent (laneVal (laneA xs) md.daz))
/-- VRCP (R401). -/
def execVrcp (pg : PReg) (va vd : VName) (s : State) : Outc :=
  .next (s.vxF pg va vd 8 fun md a => fRcp (laneVal a md.daz) md)
/-- VRSQ is always exact (R402). -/
def execVrsq (pg : PReg) (va vd : VName) (s : State) : Outc :=
  .next (s.vlanes [va.toNat] vd.toNat false pg 8 false fun md xs _ => fRsq (laneVal (laneA xs) md.daz))

end Sys2Proof.Machine
end

