-- ==== Sys2Proof/Machine/VectorMem.lean ====
section
/-! DEFINITION. Vector loads and stores (R383 to R385), the lane-slice forms (R49, R50, R386), gathers and scatters (R387). -/

namespace Sys2Proof.Machine

/-! ### Loads -/

/-- A load whose destination is a write stream: its reads on the instruction's rope, the scales of the push and the pushed
writes on the stream's; the writes are filled and go when every part is in (R391). -/
def State.loadPush (s : State) (ask : Ask) (f : Fmt) (nib : Word) (mask : Word) (ps : List Placed) (n : Nat) (st : Stream)
    (dst : Fmt) (ws : List Placed) : State :=
  let writes := ws.filter fun p => p.el.cls == .store
  let scales := ws.filter fun p => p.el.cls == .load
  let k := s.curKey
  let id := s.nextId
  let own : Ask := ⟨st.rope, 0, .w, .c⟩
  let part := fun (a : Ask) (s : State) (p : Placed) => s.addOp a ⟨p.el.va, .mem (s.accOf a p), .part id p.el.part, p.xl, .held⟩
  let s := ps.foldl (part ask) { s with nextId := id + 1 }
  let s := scales.foldl (part own) s
  let ops := s.laneOps own writes
  let x := s.curLvl
  let c : Coll := ⟨id, s.cur.lev.val, x.acts, x.launch, x.ipc, ps.length + scales.length, [],
    .vpush n f mask nib dst x.fcr ops, none, []⟩
  let s := s.issueOps st.rope ((liveOps ops).map fun o => { o with st := .awaiting })
  let s := s.updCore k fun c' => { c' with colls := c'.colls ++ [c] }
  s.setCurLvl { ((s.curLvl.lock (.v (128 + n)) id).advance n) with po := s.curLvl.po + 1 }

/-- The lanes that name the element of a lower active lane, with the lowest such: they are served with its value (R387). -/
def sharedLanes (idx : Nat → Int) (mask : Word) : List (Nat × Nat) :=
  let ls := activeLanes mask
  ls.filterMap fun i => match ls.find? fun j => idx j == idx i with
    | some j => if j < i then some (i, j) else none
    | none => none

/-- The newest collector of the issuing core given the lanes that share. -/
def State.share (s : State) (id : Nat) (lanes : List (Nat × Nat)) : State :=
  if lanes = [] then s
  else s.updCore s.curKey fun c => { c with colls := c.colls.map fun k => if k.id = id then { k with share := lanes } else k }

/-- A vector load of the elements `idx i` under pointer `p` for the active lanes (R385, R387). -/
def State.vload (s : State) (rsel : Bool) (kind : Kind) (sc : Scope) (p : Word) (idx : Nat → Int) (srcs : List Nat)
    (pg : PReg) (vd : VName) : State :=
  match s.ropeM rsel with
  | (name, none) => s.raise Cause.illegal (BitVec.ofNat 64 name) 0
  | (name, some slot) =>
    match s.vdst vd.toNat false with
    | .stop t => t
    | .ok d =>
      if !tagOk p then s.raise Cause.fmtBad p p
      else
        let f := fmtOf p
        let mask := s.curLvl.rp pg
        let nib := nibMask p f idx mask
        let ask : Ask := ⟨slot, name, kind, sc⟩
        let same := sharedLanes idx mask
        let own := (activeLanes mask).filter fun i => !same.any fun x => x.1 == i
        match s.checkCur false (own.flatMap fun i => loadEls p f i (idx i)) with
        | .fail c v a => s.raise c v a
        | .wait pages => s.awaitPages pages
        | .ok [] => s.vput d srcs mask (s.oldOf d) 0 1
        | .ok ps =>
          if !s.curCore.ropeRoom slot ps.length then s.replay
          else match d with
            | .place k =>
              let old := s.curCore.rv k
              let (s, id) := s.gather ask kind ps (.vload k f old mask nib (s.curLvl.fcr.getLsbD 7))
              ((s.share id same).retire 4 fun l => (l.popAll srcs).lock (.v k) id).pump s.curKey
            | .push n st =>
              match s.pushCheck st mask with
              | .stop t => t
              | .ok (dst, _, ws) =>
                let s := (s.loadPush ask f nib mask ps n st dst ws).share s.nextId same
                (s.retire 4 fun l => { l.popAll srcs with xl := [] }).pump s.curKey

/-! ### Stores -/

/-- A vector store of the elements `idx i` under pointer `p` for the active lanes (R385, R387). -/
def State.vstore (s : State) (rsel : Bool) (kind : Kind) (sc : Scope) (p : Word) (vs : VName) (val : VReg) (idx : Nat → Int)
    (srcs : List Nat) (pg : PReg) : State :=
  match s.ropeM rsel with
  | (name, none) => s.raise Cause.illegal (BitVec.ofNat 64 name) 0
  | (name, some slot) =>
    if !tagOk p then s.raise Cause.fmtBad p p
    else
      let f := fmtOf p
      let mask := s.curLvl.rp pg
      if f.rounds && badRm s.curLvl.fcr then s.raise Cause.illegal s.curLvl.fcr 0
      else match s.checkCur false ((activeLanes mask).flatMap fun i => storeEls p f i (idx i)) with
        | .fail c v a => s.raise c v a
        | .wait pages => s.awaitPages pages
        | .ok ps =>
          if !s.curCore.ropeRoom slot ps.length then s.replay
          else
            let s := s.storeLanes ⟨slot, name, kind, sc⟩ f val ps
            (s.retire 4 fun l => { l.popAll (vs.toNat :: srcs) with xl := [] }).pump s.curKey

/-- VLD: consecutive elements (R383, R385). -/
def execVld (rsel : Bool) (ord : Ord) (pg : PReg) (ra : XReg) (vd : VName) (s : State) : Outc :=
  let (k, sc) := ordKind false ord
  .next (s.vload rsel k sc (s.curLvl.rx ra) (fun i => (i : Int)) [] pg vd)
/-- VST: consecutive elements (R383, R385). -/
def execVst (rsel : Bool) (ord : Ord) (pg : PReg) (ra : XReg) (vd : VName) (s : State) : Outc :=
  let (k, sc) := ordKind true ord
  .next (match s.vsrc vd.toNat with
    | .stop t => t
    | .ok v => s.vstore rsel k sc (s.curLvl.rx ra) vd v (fun i => (i : Int)) [] pg)
/-- VGATH: weak reads of the elements that the lanes of vb index (R387). -/
def execVgath (rsel : Bool) (pg : PReg) (vb : VName) (ra : XReg) (vd : VName) (s : State) : Outc :=
  .next (match s.vsrc vb.toNat with
    | .stop t => t
    | .ok b => s.vload rsel .w .c (s.curLvl.rx ra) (fun i => (b.lane i).toInt) [vb.toNat] pg vd)
/-- VSCAT: weak writes of the elements that the lanes of vb index (R387). -/
def execVscat (rsel : Bool) (pg : PReg) (vb : VName) (ra : XReg) (vd : VName) (s : State) : Outc :=
  .next (match s.vsrcs [vd.toNat, vb.toNat] with
    | .stop t => t
    | .ok vs =>
      let b := vs.getD 1 VReg.zero
      s.vstore rsel .w .c (s.curLvl.rx ra) vd (vs.getD 0 VReg.zero) (fun i => (b.lane i).toInt) [vb.toNat] pg)

/-! ### Lane slices (R49, R50, R386) -/

/-- The word of a lane's slice at an offset; 2,048 more marks a single-bit error (R65). -/
def sliceWord (i off : Nat) : Nat := 32 * i + off / 8

/-- The checks of a lane-slice access over the active lanes: alignment, then the range, then the words it reads, the
lowest failing lane deciding (R65, R386). -/
def State.sliceCheck (s : State) (mask : Word) (va : VReg) : Option State :=
  let lanes := activeLanes mask
  let off := fun i => (va.lane i).toNat
  let c := s.curCore
  match lanes.find? fun i => off i % 4 != 0 with
  | some i => some (s.raise Cause.misalign 0 (BitVec.ofNat 64 (off i)))
  | none =>
    match lanes.find? fun i => decide (252 < off i) with
    | some i => some (s.raise Cause.access 0 (BitVec.ofNat 64 (off i)))
    | none => (lanes.find? fun i => c.lanesBad.contains (sliceWord i (off i))).map fun i =>
        s.raise Cause.eccUncorr 0 (BitVec.ofNat 64 (off i))

/-- Single-bit errors in the words read are corrected and counted (R65). -/
def State.sliceCorrect (s : State) (mask : Word) (va : VReg) : State :=
  let hit := ((activeLanes mask).map fun i => 2048 + sliceWord i (va.lane i).toNat).filter s.curCore.lanesBad.contains
  let n := hit.eraseDups.length
  if n = 0 then s
  else (tab n id).foldl (fun (s : State) _ => s.countSoft (scratchPa s.curKey 0))
    (s.updCore s.curKey fun c => { c with lanesBad := c.lanesBad.filter fun w => !hit.contains w })

/-- VLD.ls: four bytes of each active lane's own slice; the result is there at once (R50, R386). -/
def execVldLs (pg : PReg) (va vd : VName) (s : State) : Outc :=
  .next (match s.vsrc va.toNat with
    | .stop t => t
    | .ok a =>
      let mask := s.curLvl.rp pg
      match s.vdst vd.toNat false with
      | .stop t => t
      | .ok d =>
        match s.sliceCheck mask a with
        | some t => t
        | none =>
          let old := s.oldOf d
          let m := s.curCore.lanes
          let s := s.sliceCorrect mask a
          s.vput d [va.toNat] mask (VReg.tab fun i =>
            if active mask i then BitVec.ofNat 32 (m.readNat (256 * i + (a.lane i).toNat) 4) else old.lane i) 0 1)

/-- VST.ls (R50, R386). -/
def execVstLs (pg : PReg) (va vd : VName) (s : State) : Outc :=
  .next (match s.vsrcs [vd.toNat, va.toNat] with
    | .stop t => t
    | .ok vs =>
      let v := vs.getD 0 VReg.zero
      let a := vs.getD 1 VReg.zero
      let mask := s.curLvl.rp pg
      match s.sliceCheck mask a with
      | some t => t
      | none =>
        let s := s.sliceCorrect mask a
        let s := s.updCore s.curKey fun c => { c with lanes := (activeLanes mask).foldl (fun (m : Memory) i =>
          m.writeBytes (256 * i + (a.lane i).toNat) (leBytes 4 (v.lane i).toNat)) c.lanes }
        s.retire 4 fun l => l.popAll [vd.toNat, va.toNat])

end Sys2Proof.Machine
end

