-- ==== Sys2Proof/Machine/Stream.lean ====
section
/-! DEFINITION. Tensor maps and streams (R388 to R393): TMLD, SOPEN, SCLOSE, SSTAT. -/

namespace Sys2Proof.Machine

/-- TMLD: eight weak loads on rp0; the descriptor is judged once they are read (R389). -/
def execTmld (ra : XReg) (tm : TMap) (s : State) : Outc :=
  let p := s.curLvl.rx ra
  .next (
    if !tagOk p then s.raise Cause.fmtBad p p
    else if p.toNat % 64 ≠ 0 then s.raise Cause.misalign 0 p
    else match s.checkCur false (wordEls p 8) with
      | .fail c v a => s.raise c v a
      | .wait pages => s.awaitPages pages
      | .ok ps =>
        if !s.curCore.ropeRoom s.cur.lev.val ps.length then s.replay
        else
          let (s, id) := s.gather (s.ask0 .w .c) .w ps (.tmld tm.toNat)
          (s.retire 4 fun l => l.lock (.tm tm.toNat) id).pump s.curKey)

/-- A descriptor register of the core (R388). -/
def Core.tmap (c : Core) (m : TMap) : List Word := c.tm.get m.toFin

/-- SOPEN: the descriptor is copied and judged as TMLD judges one, its BASE under R10, and a private rope is forked (R389,
R392). -/
def execSopen (rope : RopeName) (tm : TMap) (vs : BitVec 2) (s : State) : Outc :=
  let d := s.curCore.tmap tm
  .next (
    if (s.curLvl.stream vs.toNat).isSome then s.illegal
    else match s.curLvl.slotOf s.cur.lev rope.toNat with
      | none => s.noRope rope.toNat
      | some a =>
        if tmapBad d then s.raise Cause.illegal (tm.setWidth 64) 0
        else if !tagOk (tmapBase d) then s.raise Cause.fmtBad (tmapBase d) (tmapBase d)
        else match s.curCore.freeSlot with
          | none => s.raise Cause.ropeExh 0 0
          | some slot =>
            let c := s.curCore.makeRope s.cur.lev 0 slot s.nextId (s.curCore.ropeAt a).point (s.curCore.ropeAt a).adopt
            let s := { s.setCurCore c with nextId := s.nextId + 1 }
            s.retire 4 fun l => l.setStream vs.toNat (some ⟨d, 0, 0, slot, none, false⟩))

/-- A stream closed: its private rope dropped, and the register's contents undefined (R392). -/
def State.closeStream (s : State) (n : Nat) (st : Stream) : State :=
  let s := s.updCore s.curKey fun c => c.setRope st.rope { c.ropeAt st.rope with dropped := true }
  let s := s.setCurLvl (s.curLvl.setStream n none)
  match s.curLvl.place n with
  | some k =>
    let (v, s) := s.freeVReg
    let s := s.updCore s.curKey fun c => c.wv k v
    s.setCurLvl (s.curLvl.forget (.v k))
  | none => s

/-- SCLOSE: that of a write stream waits until every pushed store has performed (R389, R392). -/
def execSclose (vs : BitVec 2) (s : State) : Outc :=
  .next (match s.curLvl.stream vs.toNat with
    | none => s.retire 4 id
    | some st =>
      let uid := (s.curCore.ropeAt st.rope).uid
      if tmapDir st.desc && decide (s.curCore.outstanding uid ≠ 0) then (s.replayWait (.ropeWait uid)).pump s.curKey
      else (s.closeStream vs.toNat st).retire 4 id)

/-- What SSTAT reads (R389). -/
def streamState : Option Stream → Word
  | none => 0
  | some st => BitVec.ofNat 64 (2 ^ 63 + (tmapDir st.desc).toNat * 2 ^ 62 + (tmapElems st.desc - st.done) % 2 ^ 48)

/-- SSTAT (R389). -/
def execSstat (rd : XReg) (vs : BitVec 2) (s : State) : Outc :=
  .next (s.alu 4 rd fun l => streamState (l.stream vs.toNat))

end Sys2Proof.Machine
end

