-- ==== Sys2Proof/Machine/MemMgt.lean ====
section
/-! DEFINITION. Memory management: PREF, CFLUSH, CINV (R366, R367) and the invalidations TLBINV and TLBINV.B (R38 to R41,
R368). -/

namespace Sys2Proof.Machine

/-- PREF asks the home slice to hold the line; a denial, a miss or a scratch-space address makes it do nothing, and it never
traps (R367). The use of the core's TLB counts, and the slice records the request (R30, R151). -/
def execPref (off : BitVec 5) (ra : XReg) (s : State) : Outc :=
  let va := (s.curLvl.rx ra + off.setWidth 64).toNat % 2 ^ 57
  let s' := if 2 ^ 56 ≤ va then s else match s.xlate s.curCore.tlb [] s.curVd va permR with
    | .ok pa mt e =>
      let t := s.setCurCore (s.curCore.tlbHit (some e))
      let a : Acc := { pa := pa / 256 * 256, size := 256, cls := .load, mt := mt, vd := s.curVd, src := coreUnit s.curKey }
      if s.populated pa then (t.trace a).lineServe s.curVd pa mt else t
    | _ => s
  .next (s'.retire 4 id)

/-- A weak cache operation on the line of an address, on rp0 with R permission; on a scratch-space address it does nothing
(R28, R367). -/
def State.cacheOp (s : State) (off : BitVec 5) (ra : XReg) (w : Nat → Work) : State :=
  let p := s.curLvl.rx ra + off.setWidth 64
  if p.getLsbD 56 then s.retire 4 id
  else if !tagOk p then s.raise Cause.fmtBad p p
  else match s.checkCur false [⟨0, p, 1, .load, permR, 0, 0, -1, false, 0⟩] with
    | .fail c v a => s.raise c v a
    | .wait pages => s.awaitPages pages
    | .ok ps =>
      if !s.curCore.ropeRoom s.cur.lev.val 1 then s.replay
      else
        let s := s.addOps (s.ask0 .w .c) (ps.map fun q => ⟨p, w (q.pa / 256), .drop, q.xl, .held⟩)
        (s.retire 4 fun l => { l with xl := [] }).pump s.curKey

/-- CFLUSH (R367). -/
def execCflush (off : BitVec 5) (ra : XReg) (s : State) : Outc := .next (s.cacheOp off ra .cflush)
/-- CINV (R367). -/
def execCinv (off : BitVec 5) (ra : XReg) (s : State) : Outc := .next (s.cacheOp off ra .cinv)

/-- The page that an invalidation of an address names: the mapped-space address, of whatever tag. -/
def invalPage (p : Word) : Option (Nat × Bool) := some (p.toNat % 2 ^ 57, false)

/-- An invalidation of the issuing core's TLB only (R41). -/
def State.invalCore (s : State) (page : Option (Nat × Bool)) : State :=
  (s.updCore s.curKey fun c => { c with tlb := c.tlb.filter fun e => !e.covered s.curVd page }).retire 4 id

/-- TLBINV (R41, R368). -/
def execTlbinv (ra : XReg) (s : State) : Outc := .next (s.invalCore (invalPage (s.curLvl.rx ra)))
/-- TLBINV.ALL (R41, R368). -/
def execTlbinvAll (s : State) : Outc := .next (s.invalCore none)

/-- A broadcast invalidation: it begins once every earlier operation on rp0 has performed, and the level waits for every
cluster of the virtual device (R39, R40, R368). -/
def State.invalAll (s : State) (page : Option (Nat × Bool)) : State :=
  if s.ropePreds s.cur.lev.val ≠ [] then s.replay
  else
    let id := s.nextId
    let nodes := match s.vdev? s.curVd with
      | some v => v.nodes
      | none => []
    let s := s.retire 4 fun l => { l with wait := .tlbinv id }
    s.beginInval s.curVd page (some (s.curKey, s.cur.lev.val)) s.cur.chip nodes

/-- TLBINV.B (R39, R40, R368). -/
def execTlbinvB (ra : XReg) (s : State) : Outc := .next (s.invalAll (invalPage (s.curLvl.rx ra)))
/-- TLBINV.B.ALL (R39, R40, R368). -/
def execTlbinvBAll (s : State) : Outc := .next (s.invalAll none)

end Sys2Proof.Machine
end

