-- ==== Sys2Proof/Machine/Cairn.lean ====
section
/-! DEFINITION. The cairn (R173 to R202, R363, R364): posting, folding, claims, spill rings and refills, the classes, the flush
marks, and the quiescence detector. -/

namespace Sys2Proof.Machine

/-! ### Classes (R176, R177) -/

/-- Fields of a class descriptor. -/
def clsEn (d : List Word) : Bool := (d.getD 0 0).getLsbD 63
def clsOp (d : List Word) : Nat := fld (d.getD 0 0).toNat 60 3
def clsMag (d : List Word) : Nat := fld (d.getD 0 0).toNat 58 2
def clsLevel (d : List Word) : Nat := fld (d.getD 0 0).toNat 56 2
/-- The records of a store's ring. -/
def clsRing (d : List Word) : Nat := 2 ^ fld (d.getD 0 0).toNat 51 5

/-- The descriptor of a class; zeros at creation. -/
def VDev.cls (v : VDev) (c : Nat) : List Word := AMap.get v.classes (List.replicate 4 0) c

/-- Whether the operator works on F32 values (R182). -/
def clsF32 (d : List Word) : Bool := clsOp d == 0 || clsOp d == 2 || clsOp d == 3 || clsOp d == 4

/-- Fold: the pending value combined with the posted one (R182). -/
def foldVal (op : Nat) (v p : Word) : Word :=
  let f := fun (g : Lane → Lane → Lane) => (g (v.setWidth 32) (p.setWidth 32)).setWidth 64
  match op with
  | 0 => f addF32
  | 1 => v + p
  | 2 => f maxF32
  | 3 => f minF32
  | 4 => f maxAbsF32
  | 5 => v ||| p
  | _ => p

/-! ### Stores (R174, R175, R191) -/

/-- A store's state of a virtual device. -/
def State.cairnVd (s : State) (node vd : Nat) : CairnVd := AMap.get (s.clu node).cairnVd {} vd
/-- The state with a store's state of a virtual device changed. -/
def State.updCairn (s : State) (node vd : Nat) (f : CairnVd → CairnVd) : State :=
  s.updClu node fun c => { c with cairnVd := AMap.put c.cairnVd vd (f (AMap.get c.cairnVd {} vd)) }

/-- The head and tail of a class's spill ring. -/
def CairnVd.head (c : CairnVd) (cls : Nat) : Nat := AMap.get c.heads 0 cls
def CairnVd.tail (c : CairnVd) (cls : Nat) : Nat := AMap.get c.tails 0 cls
/-- The records in a ring: the indices have 21 bits. -/
def CairnVd.spilled (c : CairnVd) (cls : Nat) : Nat := (c.tail cls + 2 ^ 21 - c.head cls) % 2 ^ 21

/-- The pending entries of a virtual device at a store. -/
def State.entries (s : State) (node vd : Nat) : List CairnEntry := (s.clu node).cairn.filter fun e => e.vd == vd
/-- Whether a store has a free entry. -/
def State.entryFree (s : State) (node : Nat) : Bool := decide ((s.clu node).cairn.length < 4096)

/-- Marks that stand on classes with nothing left are cleared (R194). -/
def State.unmark (s : State) (node vd : Nat) : State :=
  let es := s.entries node vd
  s.updCairn node vd fun c =>
    { c with flush := c.flush.filter fun k => es.any (fun e => e.cls == k) || decide (c.spilled k ≠ 0) }

/-- One more action that the quiescence detector counts (R197). -/
def State.countStore (s : State) (node vd : Nat) : State := s.updCairn node vd fun c => { c with acts := c.acts + 1 }

/-! ### The spill rings (R191, R192) -/

/-- The virtual device cluster of a node number. -/
def VDev.ofNode (v : VDev) (node : Nat) : Nat := (v.clusterOf (node / 1024) (node % 1024)).getD 0

/-- The address of record `i` of a class's ring at a cluster. -/
def ringVa (d : List Word) (k i : Nat) : Nat := (d.getD 2 0).toNat + k * clsRing d * 32 + 32 * (i % clsRing d)

/-- The translation of a store's access: what its own walk decided, else through the copy unit's TLB (R192), with the entry it uses. -/
def State.ringWay (s : State) (node vd key va need : Nat) : Direct × Option TlbEntry :=
  if 2 ^ 56 ≤ va then (.denied 0, none)
  else match s.direct (.cairn node vd key) vd va need with
    | .ask => match s.xlate (s.clu node).tlb [] vd va need with
      | .ok pa mt e => (.ok pa mt, some e)
      | x => (x.direct, none)
    | way => (way, none)

/-- An entry of the copy unit's TLB used (R30), and what the store's access was told used up. -/
def State.ringTook (s : State) (node vd key : Nat) (e : Option TlbEntry) : State :=
  (s.untold (.cairn node vd key)).updClu node fun c => c.tlbHit e

/-- Whether the store's access waits on a walk or the page service. -/
def State.ringAsks (s : State) (node vd : Nat) : Bool := s.walks.any fun w => w.who.any fun q => match q with
  | .cairn n v _ => n == node && v == vd
  | _ => false

/-! ### Drain selection (R189, R190) -/

/-- The magnitude as a number that orders as magnitudes do: a NaN above everything, else the bits of |v|; or the unsigned
value. -/
def magOf (d : List Word) (v : Word) : Nat :=
  if clsMag d = 2 then v.toNat
  else
    let a := v.toNat % 2 ^ 31
    if 0x7F800000 < a then 2 ^ 32 else a

/-- Whether a magnitude exceeds the class's threshold strictly (R189). -/
def overThresh (d : List Word) (v : Word) : Bool :=
  let t := d.getD 1 0
  if clsMag d = 2 then decide (t.toNat < v.toNat)
  else
    let bits := t.toNat % 2 ^ 32
    let mag := bits % 2 ^ 31
    if 2 ^ 31 ≤ bits ∧ mag ≠ 0 then true else decide (mag < magOf d v)

/-- Whether a pending entry is eligible (R189). -/
def State.eligible (s : State) (v : VDev) (node : Nat) (e : CairnEntry) : Bool :=
  let d := v.cls e.cls
  clsEn d && (clsMag d == 0 || overThresh d e.val || (s.cairnVd node e.vd).flush.contains e.cls)

/-- The virtual device that runs on a node. -/
def State.vdAt (s : State) (node : Nat) : Option (Nat × VDev) :=
  List.find? (fun (x : Nat × VDev) => x.2.running && (x.2.clusterOf (node / 1024) (node % 1024)).isSome) s.vds

/-- The core number of an active core of a cluster. -/
def State.activeKey (s : State) (node a : Nat) : Nat := node * 9 + slotOf (s.clu node) a

/-- The first active core, counting upwards after the one last chosen, with a free slot at a level. -/
def State.claimCore (s : State) (node vd last lev : Nat) : Option Nat :=
  (tab 8 fun i => (last + 1 + i) % 8).find? fun a =>
    let c := s.core (s.activeKey node a)
    c.run == .running && c.owner == vd && (c.slotFor lev).isSome

/-- The entry of a class that goes first: the smallest SEQ, or the largest magnitude and then the smallest SEQ. -/
def firstEntry (d : List Word) : List CairnEntry → Option CairnEntry
  | [] => none
  | e :: es =>
    match firstEntry d es with
    | none => some e
    | some f =>
      let m := if clsMag d = 0 then 0 else magOf d e.val
      let n := if clsMag d = 0 then 0 else magOf d f.val
      if n < m ∨ (m = n ∧ e.seq ≤ f.seq) then some e else some f

/-- Select: the level, class, entry and active core of the next claim at a store (R190). -/
def State.select (s : State) (node : Nat) : Option (Nat × Nat × CairnEntry × Nat) :=
  match s.vdAt node with
  | none => none
  | some (vd, v) =>
    let c := s.cairnVd node vd
    if c.stopped || c.saving then none
    else
      let es := (s.entries node vd).filter fun e => s.eligible v node e
      (tab 4 fun i => (c.lastLev + 3 - i) % 4).findSome? fun lev =>
        match s.claimCore node vd c.lastCore lev with
        | none => none
        | some a =>
          (tab 16 fun i => (AMap.get c.lastCls 15 lev + 1 + i) % 16).findSome? fun k =>
            if clsLevel (v.cls k) = lev then
              (firstEntry (v.cls k) (es.filter fun e => e.cls == k)).map fun e => (lev, k, e, a)
            else none

/-! ### What the bank port does in a cycle (R186) -/

/-- The class whose head record a refill takes next: a ring of an enabled class whose record can be placed (R193). -/
def State.refillClass (s : State) (node : Nat) : Option (Nat × Nat × Nat) :=
  match s.vdAt node with
  | none => none
  | some (vd, v) =>
    let c := s.cairnVd node vd
    if c.stopped || c.saving || s.ringAsks node vd then none
    else (tab 16 fun i => (c.refillC + 1 + i) % 16).findSome? fun k =>
      let d := v.cls k
      if clsEn d && decide (c.spilled k ≠ 0) then
        let va := ringVa d (v.ofNode node) (c.head k)
        match (s.ringWay node vd 0 va permR).1 with
        | .denied _ => none
        | .lost _ => none
        | .ask => some (vd, k, va)
        | .ok pa _ =>
          let key := s.peek pa 8 / 2 ^ 24
          if s.populated pa && !s.badRun pa 32 && (s.entryFree node || (s.entries node vd).any fun e => e.key == key) then
            some (vd, k, va)
          else none
      else none

/-- A refill that has been ready for 15 cycles takes the next one (R186). -/
def State.refillDue (s : State) (node : Nat) : Bool := (s.refillClass node).isSome && decide (15 ≤ (s.clu node).starved)

/-- A cycle of the port that a refill did not get. -/
def State.portCycle (s : State) (node : Nat) : State :=
  let ready := (s.refillClass node).isSome
  s.updClu node fun c => { c with starved := if ready then c.starved + 1 else 0 }

/-- Whether a post waits at the port while its ring write waits on the page service. -/
def State.postWaits (s : State) (node : Nat) (p : Packet) : Bool :=
  (s.cairnVd node p.vd).waitPg == some p.id && s.ringAsks node p.vd

/-- Whether a packet is a post at a store that waits for nothing but the port. -/
def State.postAt (s : State) (node : Nat) (p : Packet) : Bool :=
  p.stage == .arrived && p.dst.unit == 12 && nodeKey p.dst.chip p.dst.node == node &&
    (match p.payload with
     | .post _ _ => !s.postWaits node p
     | _ => false)

/-- Whether a store has a post that waits for nothing but the port. -/
def State.postReady (s : State) (node : Nat) : Bool := s.pkts.any fun p => s.postAt node p

/-- Whether a post is the one the port handles next: posts are handled in the order of their arrival (R181). -/
def State.postTurn (s : State) (node : Nat) (p : Packet) : Bool :=
  !((s.pkts.takeWhile fun q => q.id != p.id).any fun q => s.postAt node q)

/-! ### POST (R181 to R183) -/

/-- The acknowledgement of a post. A returned event has none: one that would be answered BUSY stays where it is. -/
def State.ackPost (s : State) (p : Packet) (op status outcome : Nat) : State :=
  if op = 0 then (if status = 1 then s else s.dropPkt p.id)
  else
    let s := s.dropPkt p.id
    s.sendPkt p.dst p.src p.vd .control 0 (.postAck op status outcome)

/-- A post appended to its class's spill ring (R181, R191, R192); one whose record's memory cannot take it is answered with the status
of that (log entry 147). -/
def State.spill (s : State) (v : VDev) (node : Nat) (p : Packet) (q : Post) (op : Nat) : State :=
  let d := v.cls q.cls
  let c := s.cairnVd node p.vd
  let va := ringVa d (v.ofNode node) (c.tail q.cls)
  let (way, e) := s.ringWay node p.vd p.id va permW
  let took := fun (s : State) => (s.ringTook node p.vd p.id e).updCairn node p.vd fun c => { c with waitPg := none }
  let other := match c.waitPg with
    | some i => i != p.id && s.ringAsks node p.vd && s.pkts.any fun q => q.id == i
    | none => false
  if other then s.ackPost p op 1 0
  else match way with
    | .ask => (s.askDirect (.cairn node p.vd p.id) p.vd va).updCairn node p.vd fun c => { c with waitPg := some p.id }
    | .denied _ => (took s).ackPost p op 2 0
    | .lost c => (took s).ackPost p op (lostStatus c) 0
    | .ok pa mt =>
      if !s.populated pa then (took s).ackPost p op 3 0
      else if s.pcFailed pa then ((took s).eccSeen pa).ackPost p op 4 0
      else if s.owed pa 32 || s.memWaits p.vd pa then s
      else
        let s := took s
        let words := [BitVec.ofNat 64 (q.key * 2 ^ 24 + q.cls * 2 ^ 20), q.val, BitVec.ofNat 64 c.counter, 0]
        let s := s.trace { pa := pa, size := 32, cls := .store, kind := .s, vd := p.vd, src := p.dst }
        let s := ((s.runServe p.vd pa 32 mt).ownFrame pa p.vd).pokeRun pa mt words []
        (s.updCairn node p.vd fun c => { c with
          counter := c.counter + 1, tails := AMap.put c.tails q.cls ((c.tail q.cls + 1) % 2 ^ 21) }).ackPost p op 0 2

/-- A post at the bank port (R181). A post that was issued under a 64-bit class and makes an entry after the class has become one of F32
keeps the high half of its value (R182; DESIGN CHOICE, log entry 135). -/
def State.takePost (s : State) (v : VDev) (node : Nat) (p : Packet) (q : Post) (op : Nat) : State :=
  let c := s.cairnVd node p.vd
  let n := c.spilled q.cls
  let full := decide (clsRing (v.cls q.cls) ≤ n)
  let toRing := fun (s : State) => if full then s.ackPost p op 1 0 else s.spill v node p q op
  if n ≠ 0 then toRing s
  else match (s.entries node p.vd).find? fun e => e.key == q.key with
    | some e =>
      let new := foldVal (clsOp (v.cls e.cls)) e.val q.val
      (s.updClu node fun c => { c with cairn := c.cairn.map fun (x : CairnEntry) =>
        if x.vd = p.vd ∧ x.key = q.key then { x with val := new } else x }).ackPost p op 0 0
    | none =>
      if s.entryFree node then
        let s := s.updClu node fun x => { x with cairn := x.cairn ++ [⟨p.vd, q.key, q.cls, q.val, c.counter % 2 ^ 58⟩] }
        (s.updCairn node p.vd fun c => { c with counter := c.counter + 1 }).ackPost p op 0 1
      else toRing s

/-- POST (R181): the bank port handles an arriving post, unless a claim is ready or a refill has waited 15 cycles (R186). A
store that saves its context, or whose virtual device does not run, answers BUSY (R199, R254, R461), and one that a reset has purged
MEMBER_RESET (R201). -/
def execPost (s : State) : Outc :=
  .next (match s.arrivedPkt with
    | some p => match p.payload with
      | .post q op =>
        let node := nodeKey p.dst.chip p.dst.node
        match s.vdev? p.vd with
        | none => s.dropPkt p.id
        | some v =>
          if 2 ≤ v.reset then s.ackPost p op 5 0
          else if !v.running || (s.cairnVd node p.vd).saving then s.ackPost p op 1 0
          else if (s.select node).isSome || s.refillDue node then s
          else if s.postWaits node p || !s.postTurn node p then s
          else ((s.portCycle node).takePost v node p q op).countStore node p.vd |>.unmark node p.vd
      | _ => s
    | none => s)

/-! ### CLAIM (R187, R190) and EVENT_DELIVERY (R213) -/

/-- The launch that an activation of no sender carries: the oldest active one (R216). -/
def VDev.oldest (v : VDev) : Nat := ((v.launches.head?).map Launch.id).getD 0

/-- CLAIM: the selected entry leaves the store and its event takes a reserved slot (R187, R190). -/
def execClaim (s : State) : Outc :=
  let node := nodeKey s.arg.chip s.arg.node
  .next (match s.select node, s.vdAt node with
    | some (lev, k, e, a), some (vd, v) =>
      if s.refillDue node then s
      else
        let key := s.activeKey node a
        match (s.core key).slotFor lev with
        | none => s
        | some slot =>
          let ctx := (v.cls k).getD 3 0
          let m : Msg := { ty := 0x10 + k, args := [BitVec.ofNat 64 e.key, e.val, ctx,
            BitVec.ofNat 64 (k * 2 ^ 60 + e.seq % 2 ^ 58)], lev := lev, launch := v.oldest }
          let sl : Slot := { st := .reserved, msg := m, lev := lev, accepted := s.now, post := some ⟨e.key, k, e.val, lev⟩,
                             home := node }
          let s := s.portCycle node
          let s := s.updCore key fun c => { c with slots := c.slots.set slot sl }
          let s := s.updClu node fun c => { c with cairn := c.cairn.filter (· != e) }
          let s := s.updCairn node vd fun c => { c with lastLev := lev, lastCls := AMap.put c.lastCls lev k, lastCore := a }
          (s.countStore node vd).unmark node vd
    | _, _ => s)

/-- EVENT_DELIVERY: the event reaches its reserved slot (R187, R213). -/
def execEventDelivery (s : State) : Outc :=
  let k := coreKey s.arg.chip s.arg.node s.arg.slot
  .next (s.updCore k fun c => { c with slots := c.slots.mapIdx fun i sl =>
    if i = s.arg.index ∧ sl.st = .reserved then { sl with st := .pending } else sl })

/-! ### REFILL (R193) -/

/-- A record placed: folded into the entry of its key, or a new pending entry. -/
def State.place (s : State) (v : VDev) (node vd : Nat) (rec_ : List Word) : State :=
  let key := (rec_.getD 0 0).toNat / 2 ^ 24
  let cls := fld (rec_.getD 0 0).toNat 20 4
  let val := if clsF32 (v.cls cls) then ((rec_.getD 1 0).setWidth 32).setWidth 64 else rec_.getD 1 0
  if (s.entries node vd).any fun e => e.key == key then
    s.updClu node fun c => { c with cairn := c.cairn.map fun (x : CairnEntry) =>
      if x.vd = vd ∧ x.key = key then { x with val := foldVal (clsOp (v.cls x.cls)) x.val val } else x }
  else s.updClu node fun c => { c with cairn := c.cairn ++
    [⟨vd, key, cls, val, fld (rec_.getD 2 0).toNat 0 58⟩] }

/-- REFILL: the head record of a ring moves into the store, in rotation by class; claims and posts go first until it has
waited 15 cycles (R186, R193). -/
def execRefill (s : State) : Outc :=
  let node := nodeKey s.arg.chip s.arg.node
  .next (match s.refillClass node with
    | none => s
    | some (vd, k, va) =>
      if ((s.select node).isSome || s.postReady node) && !s.refillDue node then s
      else match s.vdev? vd, s.ringWay node vd 0 va permR with
        | some v, (.ok pa mt, e) =>
          if s.owed pa 32 || s.memWaits vd pa then s else
          let s := (s.ringTook node vd 0 e).updClu node fun c => { c with starved := 0 }
          let s := s.trace { pa := pa, size := 32, cls := .load, kind := .s, vd := vd, src := ⟨node / 1024, node % 1024, 12⟩ }
          let s := (tab 4 id).foldl (fun s i => s.correct (pa + 8 * i)) (s.runServe vd pa 32 mt)
          let s := s.place v node vd (s.peekRun pa 32)
          let s := s.updCairn node vd fun c => { c with heads := AMap.put c.heads k ((c.head k + 1) % 2 ^ 21), refillC := k }
          (s.countStore node vd).unmark node vd
        | _, (.ask, _) => s.askDirect (.cairn node vd 0) vd va
        | _, _ => s)

/-! ### Posts at their core (R179, R180, R183 to R185) -/

/-- Whether an operation is a post. -/
def Op.isPost (o : Op) : Option Post :=
  match o.work with
  | .post q _ => some q
  | _ => none

/-- A post put into the core's post buffer, with what the level does next; the buffer holds 32 (R179, R180). -/
def State.post (s : State) (cls : Nat) (ra rb : XReg) (rope : Nat) (strict : Option Nat) (after : Nat → Lvl → Lvl) : State :=
  let d := (s.vdev? s.curVd).map fun v => v.cls cls
  match s.curLvl.slotOf s.cur.lev rope with
  | none => s.noRope rope
  | some slot =>
    if !clsEn (d.getD []) then s.raise Cause.illegal (BitVec.ofNat 64 cls) 0
    else if 32 ≤ (s.curCore.ops.filter fun o => o.isPost.isSome).length || !s.curCore.ropeRoom slot 1 then s.replay
    else
      let v := s.curLvl.rx rb
      let v := if clsF32 (d.getD []) then (v.setWidth 32).setWidth 64 else v
      let q : Post := ⟨(s.curLvl.rx ra).toNat % 2 ^ 40, cls, v, s.cur.lev.val⟩
      let id := s.nextId
      let s := s.addOps ⟨slot, rope, .rel, .y⟩ [⟨0, .post q strict, .drop, none, .held⟩]
      (s.retire 4 (after id)).pump s.curKey

/-- EVPOST (R179). -/
def execEvpost (cls : BitVec 4) (rb ra : XReg) (rope : RopeName) (s : State) : Outc :=
  .next (s.post cls.toNat ra rb rope.toNat none fun _ l => l)
/-- EVPOSTS: the level waits for the acknowledgement (R185, R364). -/
def execEvposts (cls : BitVec 4) (rb ra rd : XReg) (s : State) : Outc :=
  .next (s.post cls.toNat ra rb 0 (some rd.toNat) fun id l => { (l.lock (.x rd.toNat) id) with wait := .evposts id rd.toNat })

/-- POST_SEND: a buffered post leaves when the order of its rope allows it and no earlier post of its level to its key is
unacknowledged (R180). -/
def execPostSend (s : State) : Outc :=
  let k := coreKey s.arg.chip s.arg.node s.arg.slot
  let c := s.core k
  let posts := c.ops.filter fun o => o.isPost.isSome
  .next (match posts[s.arg.index]? with
    | none => s
    | some o =>
      let earlier := (posts.take s.arg.index).any fun p =>
        p.lev == o.lev && p.isPost.map Post.key == o.isPost.map Post.key
      if o.st ≠ .held ∨ earlier = true ∨ c.clearToGo o = false ∨ s.sendsNow k = false then s
      else (s.sendOp k o).updCore k fun c => { c with evActs := c.evActs + 1 })

/-- A waiting level goes on with a result. -/
def State.resumeReg (s : State) (k : Nat) (l : Level) (rd : Nat) (v : Word) : State :=
  s.updCore k fun c =>
    let x := c.lvl l
    (c.setLvl l { x with wait := .ready, ilock := x.ilock.filter fun i => i.1 != .x rd }).land l (.x rd) (.word v)

/-- The acknowledgement of a post at its core (R183, R185). -/
def State.postAcked (s : State) (k : Nat) (o : Op) (q : Post) (strict : Option Nat) (status outcome : Nat) : State :=
  let l := lvOf o.lev
  let waits := (s.lvl k l).isAct o.act && (match (s.lvl k l).wait with
    | .evposts i _ => i == o.id
    | _ => false)
  if status = 1 ∧ strict = none then
    (s.updOp k o.id fun o => { o with st := .backoff (s.backoffEnd o.nacks), nacks := o.nacks + 1 }).updCore k fun c =>
      { c with evretry := if c.evretry.toNat < 0xFFFFFFFF then c.evretry + 1 else c.evretry }
  else
    let s := s.dropOp k o.id
    match status with
    | 0 => match strict with
      | some rd => if waits then s.resumeReg k l rd (BitVec.ofNat 64 outcome) else s
      | none => s
    | 1 => s.lateRaise k o Cause.evNackStrict (BitVec.ofNat 64 (q.cls * 2 ^ 40 + q.key)) 0
    | st =>
      let (cause, val) := statusCause st
      s.lateRaise k o cause val 0

/-- POST_ACK (R183). -/
def execPostAck (s : State) : Outc :=
  .next (match s.arrivedPkt with
    | some p => match p.payload with
      | .postAck op status outcome =>
        let k := p.dst.core
        let s := s.dropPkt p.id
        match (s.core k).ops.find? fun o => o.id == op with
        | some o => match o.work with
          | .post q strict => (s.postAcked k o q strict status outcome).pump k
          | _ => s
        | none => s
      | _ => s
    | none => s)

/-! ### EVCFG, EVFLUSH, EVCOUNT (R178, R194, R195) -/

/-- EVCFG: a release on rp0, its four words read as strong loads at scope .v; the level waits until the descriptor stands (R178,
R364). -/
def execEvcfg (cls : BitVec 4) (ra : XReg) (s : State) : Outc :=
  let p := s.curLvl.rx ra
  .next (
    if !tagOk p then s.raise Cause.fmtBad p p
    else match s.checkCur false (wordEls p 4) with
      | .fail c v a => s.raise c v a
      | .wait pages => s.awaitPages pages
      | .ok ps =>
        if !s.curCore.ropeRoom s.cur.lev.val ps.length then s.replay
        else
          let (s, id) := s.gather (s.ask0 .rel .y) .s ps (.evcfg cls.toNat)
          (s.retire 4 fun l => { l with wait := .coll id }).pump s.curKey)

/-- EVFLUSH: a release on rp0; the mark is set at every store of the virtual device (R194), in one turn (DESIGN CHOICE, log entry
111). -/
def execEvflush (cls : BitVec 4) (s : State) : Outc :=
  .next (if s.ropePreds s.cur.lev.val ≠ [] then s.replay
    else
      let vd := s.curVd
      let nodes := ((s.vdev? vd).map VDev.nodes).getD []
      let s := nodes.foldl (fun s n =>
        let key := nodeKey n.1 n.2
        (s.updCairn key vd fun c => { c with flush := insertNat cls.toNat c.flush }).unmark key vd) s
      s.retire 4 id)

/-- EVCOUNT (R195). -/
def execEvcount (ra rd : XReg) (s : State) : Outc :=
  let node := keyCluster s.curKey
  let c := (s.curLvl.rx ra).toNat % 16
  let n := ((s.entries node s.curVd).filter fun e => e.cls == c).length
  let m := (s.cairnVd node s.curVd).spilled c
  .next (s.alu 4 rd fun _ => BitVec.ofNat 64 (m * 2 ^ 32 + n))

/-! ### The quiescence detector (R196 to R198) -/

/-- Whether a core holds nothing that keeps the virtual device busy: no post, no event activation that waits or runs but for one
that waits at EVQUIET, and no operation of an event activation that has not performed, since a quiet report orders those before
what its reader does next (R196, R198). -/
def Core.quiet (c : Core) : Bool :=
  let waits := fun (l : Level) => match (c.lvl l).wait with
    | .evquiet _ _ _ => true
    | _ => false
  let runs := fun (l : Level) => match (c.lvl l).act with
    | some a => isEventType a.ty && !waits l
    | none => false
  !(c.ops.any fun o => o.isPost.isSome || o.ev) &&
    !(c.slots.any fun sl => (sl.st == .reserved || sl.st == .pending) && isEventType sl.msg.ty) &&
    !(runs 0 || runs 1 || runs 2 || runs 3)

/-- Whether a node is quiet (R196). -/
def State.nodeQuiet (s : State) (v : VDev) (vd node : Nat) : Bool :=
  let c := s.cairnVd node vd
  !((s.entries node vd).any fun e => s.eligible v node e) &&
    !(s.entryFree node && (tab 16 id).any fun k => clsEn (v.cls k) && decide (c.spilled k ≠ 0)) &&
    (tab 9 fun i => node * 9 + i).all fun k => (s.core k).owner != vd || (s.core k).quiet

/-- The sum of the activity counts (R197). -/
def State.activity (s : State) (v : VDev) (vd : Nat) : Nat :=
  v.nodes.foldl (fun n x =>
    let node := nodeKey x.1 x.2
    n + (s.cairnVd node vd).acts +
      (tab 8 fun a => s.core (s.activeKey node a)).foldl (fun m c => if c.owner = vd then m + c.evActs else m) 0) 0

/-- The detector's report at the end of a sweep: levels that wait at EVQUIET take a quiet one, and a level that tests one
report takes any (R198). A return of 1 is an acquire. -/
def State.sweepReport (s : State) (vd : Nat) (v : VDev) (quiet : Bool) : State :=
  (tab v.cores id).foldl (fun s n =>
    let k := s.vdCoreKey v n
    if (s.core k).owner ≠ vd then s
    else ([0, 1, 2, 3] : List Level).foldl (fun s l =>
      match (s.lvl k l).wait with
      | .evquiet rd _ once =>
        if quiet then (s.resumeReg k l rd 1).updCore k Core.l1Empty
        else if once then s.resumeReg k l rd 0
        else s
      | _ => s) s) s

/-- QUIESCENCE_SWEEP (R197): a sweep over a virtual device that runs returns. Two quiet ones in a row with the same activity sum make the report quiet. -/
def execQuiescenceSweep (s : State) : Outc :=
  let vd := s.arg.vd
  .next (match s.vdev? vd with
    | none => s
    | some v =>
      let calm := v.nodes.all fun n => s.nodeQuiet v vd (nodeKey n.1 n.2)
      let sum := s.activity v vd
      let quiet := calm && v.sweep == some sum
      if !v.running then s
      else (s.updVd vd fun v => { v with sweep := if calm then some sum else none }).sweepReport vd v quiet)

/-- EVQUIET: with ra = 0 it tests the next report, else it waits for a quiet one up to a bound (R198). -/
def execEvquiet (ra rd : XReg) (s : State) : Outc :=
  let n := (s.curLvl.rx ra).toNat
  .next (s.retire 4 fun l => { (l.lock (.x rd.toNat) 0) with wait := .evquiet rd.toNat (s.now + 1 + n) (n == 0) })

/-- EVQUIET_TIMEOUT (R198): the bound has passed, and 0 is written. -/
def execEvquietTimeout (s : State) : Outc :=
  let k := coreKey s.arg.chip s.arg.node s.arg.slot
  .next (match (s.lvl k s.arg.lev).wait with
    | .evquiet rd bound once => if bound ≤ s.now ∧ once = false then s.resumeReg k s.arg.lev rd 0 else s
    | _ => s)

end Sys2Proof.Machine
end

