-- ==== Sys2Proof/Machine/Activation.lean ====
section
/-! DEFINITION. Messages at their core and the life of an activation (R205 to R220, R353, R354, R357, R435): MESSAGE_ARRIVAL,
DISPATCH_ENTRY_FILL, ACTIVATION_START, AREAD_REPLY, and the adoption of ropes (R128, R129). -/

namespace Sys2Proof.Machine

/-! ### Dispatch entries (R208 to R210) -/

/-- Where the entry of a type lies: what its walk decided, else through the core's TLB. -/
def State.entryWay (s : State) (k ty : Nat) : Direct :=
  let c := s.core k
  let va := c.dispbase.toNat + 16 * ty
  match s.direct (.dispatch k ty) c.owner va permR with
  | .ask => (s.xlate c.tlb [] c.owner va permR).direct
  | way => way

/-- A read of an entry that no walk has decided asks for one. -/
def State.entryAsk (s : State) (k ty : Nat) : State :=
  match s.entryWay k ty with
  | .ask => s.askDirect (.dispatch k ty) (s.core k).owner ((s.core k).dispbase.toNat + 16 * ty)
  | _ => s

/-- The types of the on-demand cache: 0x20 to 0xFF (R210). -/
def Core.onDemand (c : Core) : List Nat := (c.disp.map Prod.fst).filter fun t => decide (0x20 ≤ t)

/-- Whether a write of DISPBASE is loading the table: the cache is empty until all 32 entries are in (R210). -/
def Core.loading (c : Core) : Bool := c.colls.any fun x => match x.finish with
  | .dispload _ => true
  | _ => false

/-- Whether the entries 0x00 to 0x1F of a DISPINIT are still to be read (R210, R470). -/
def Core.taking (c : Core) : Bool := c.dispAsk.any fun t => decide (t.1 < 0x20)

/-- Whether messages wait for the entries 0x00 to 0x1F: a write of DISPBASE or a resume is loading them (R210, R470). -/
def Core.filling (c : Core) : Bool := c.loading || c.taking

/-- A strong read of an entry at its owner (R65, R151, R210). -/
def State.entryRead (s : State) (k pa mt : Nat) : State :=
  let vd := (s.core k).owner
  let s := s.trace { pa := pa, size := 16, cls := .load, kind := .s, mt := mt, vd := vd, src := coreUnit k }
  ((s.runServe vd pa 16 mt).correct pa).correct (pa + 8)

/-- The end of a read on demand. One that failed leaves its status for the arrivals that were answered BUSY meanwhile (R210). -/
def State.entryEnd (s : State) (k ty status : Nat) : State :=
  (s.untold (.dispatch k ty)).updCore k fun c =>
    let bad := if status = 0 then c.dispBad
      else (AMap.get c.dispAsk [] ty).foldl (fun m op => AMap.put m op status) c.dispBad
    { c with dispAsk := AMap.del c.dispAsk ty, dispBad := bad }

/-- DISPATCH_ENTRY_FILL: an entry read on demand fills the core's cache of 32; a full one loses an entry of the device's
choosing. A read that is denied, that finds no memory or that meets an uncorrectable error fills nothing: the arrivals that waited for
it are answered with its status (R16, R65, R210, log entry 129). -/
def execDispatchEntryFill (s : State) : Outc :=
  let k := coreKey s.arg.chip s.arg.node s.arg.slot
  let ty := s.arg.ty.toNat
  let c := s.core k
  .next (
    if (AMap.find? c.dispAsk ty).isNone || c.loading then s
    else match s.entryWay k ty with
      | .ask => s.entryAsk k ty
      | .denied _ => s.entryEnd k ty 2
      | .lost cause => s.entryEnd k ty (lostStatus cause)
      | .ok pa mt =>
        if !s.populated pa then s.entryEnd k ty 3
        else if s.badRun pa 16 then (s.eccSeen pa).entryEnd k ty 4
        else if s.owed pa 16 || s.memWaits c.owner pa then s
        else
          let e := dispEntry (BitVec.ofNat 64 (s.peek pa 8)) (BitVec.ofNat 64 (s.peek (pa + 8) 8))
          let (pick, s) := ((s.entryRead k pa mt).entryEnd k ty 0).freeNat
          s.updCore k fun c =>
            let c := c.tlbHit (tlbFind c.tlb c.owner (c.dispbase.toNat + 16 * ty))
            let od := c.onDemand
            let disp := if od.length < 32 ∨ ty < 0x20 then c.disp else AMap.del c.disp (od.getD (pick % 32) 0)
            { c with disp := AMap.put disp ty e })

/-! ### MESSAGE_ARRIVAL (R210 to R212, R219, R256, R353) -/

/-- BUSY for a message; one that no core keeps stays where it is. -/
def State.busyMsg (s : State) (p : Packet) (op : Nat) (slotless : Bool) : State :=
  if op = 0 then s else (s.dropPkt p.id).sendPkt p.dst p.src p.vd .control 0 (.nack op slotless)

/-- The answer to a message; one that no core keeps has none. -/
def State.ansMsg (s : State) (p : Packet) (op status : Nat) : State :=
  let s := s.dropPkt p.id
  if op = 0 then s else s.sendPkt p.dst p.src p.vd .control 0 (.resp op status 0 none)

/-- Whether a core of the virtual device takes its messages and posts: it runs, and its context is not being saved (R254,
R256). -/
def State.takes (s : State) (vd k : Nat) : Bool :=
  match s.vdev? vd with
  | some v => v.running && decide (v.step < 6) && (s.core k).owner == vd
  | none => false

/-- A message accepted in a slot of its level, or what is done without one. -/
def State.acceptMsg (s : State) (k : Nat) (p : Packet) (m : Msg) (op : Nat) (without : State → State) : State :=
  match (s.core k).slotFor m.lev with
  | some i => (s.updCore k fun c => c.accept i m m.lev s.now).ansMsg p op 0
  | none => without s

/-- A message of a user type. One whose entry is not cached is answered BUSY while the entry is read, and with the read's status when
that has failed (R210, R211, R217). The 16 slots never hold more codes than there are inbox buffers. -/
def State.userMsg (s : State) (k : Nat) (p : Packet) (m : Msg) (op : Nat) : State :=
  match AMap.find? (s.core k).disp m.ty with
  | none =>
    match AMap.find? (s.core k).dispBad op with
    | some st => (s.updCore k fun c => { c with dispBad := AMap.del c.dispBad op }).ansMsg p op st
    | none =>
      let s := (s.entryAsk k m.ty).updCore k fun c => { c with dispAsk := AMap.put c.dispAsk m.ty (insertNat op (AMap.get c.dispAsk [] m.ty)) }
      s.busyMsg p op false
  | some e =>
    if !e.v || e.code != m.code.isSome then s.ansMsg p op 3
    else s.acceptMsg k p { m with pc := e.pc, lev := e.lev, schk := e.schk } op fun s => s.busyMsg p op false

/-- A message of the device: a group abort, at the level of its entry, or a multicast completion, at the issuing level (R207, R211,
R216, R362; log entry 112). The refused one is sent again (R100, R212; log entry 30). -/
def State.deviceMsg (s : State) (v : VDev) (k : Nat) (p : Packet) (m : Msg) (op : Nat) : State :=
  let e := AMap.get (s.core k).disp {} m.ty
  if !e.v then s.dropPkt p.id
  else
    let m := { m with pc := e.pc, lev := if m.ty = 4 then m.lev else e.lev, schk := e.schk, launch := if m.ty = 3 then v.oldest else m.launch }
    s.acceptMsg k p m op fun s => s.busyMsg p op false

/-- MESSAGE_ARRIVAL. -/
def execMessageArrival (s : State) : Outc :=
  .next (match s.arrivedPkt with
    | some p => match p.payload with
      | .message m op =>
        let k := p.dst.core
        match s.vdev? p.vd with
        | none => s.ansMsg p op 5
        | some v =>
          if s.draining p.vd p.src p.dst then s.ansMsg p op 5
          else if (s.core k).run = .lost then s.ansMsg p op 3
          else if !s.takes p.vd k then s.busyMsg p op false
          else if (s.core k).run ≠ .running then s.ansMsg p op 7
          else if m.ty = 1 then s.acceptMsg k p m op fun s => s.busyMsg p op true
          else if (s.core k).filling then s.busyMsg p op false
          else if m.ty < 0x20 then s.deviceMsg v k p m op
          else s.userMsg k p m op
      | _ => s
    | none => s)

/-! ### ACTIVATION_START (R205, R214, R434 to R436) -/

/-- What may start at a level. -/
inductive Starter where
  | slot (i : Nat)
  | tag (t : Nat)
  | forward (l : Level)
  deriving DecidableEq, Repr

/-- The starters of a level with their acceptance cycles, in the order in which a tie goes: slots by number, then replies by
tag, then trap records (R214, R357, R435). -/
def Core.starters (c : Core) (lev : Level) : List (Starter × Nat) :=
  ((tab 16 id).filterMap fun i =>
    let sl := c.slots.getD i {}
    if sl.st = .pending ∧ sl.lev = lev.val then some (Starter.slot i, sl.accepted) else none) ++
  (c.tagPend.filterMap fun t => if t.2.1.lev = lev.val then some (Starter.tag t.1, t.2.2) else none) ++
  (if lev = 3 then ([0, 1, 2] : List Level).filterMap fun l => match (c.lvl l).trap with
    | some t => if t.running then none else some (Starter.forward l, t.accepted)
    | none => none
  else [])

/-- The oldest starter (R214). -/
def oldestStarter : List (Starter × Nat) → Option (Starter × Nat)
  | [] => none
  | x :: xs => match oldestStarter xs with
    | none => some x
    | some y => if x.2 ≤ y.2 then some x else some y

/-- An undefined register at a start: what it held, or zero, as the device chooses (R205). -/
def keepOrZero (free : Nat) (w : Word) : Word := if Config.freeBool free then w else 0

/-- The level at the start of an activation (R205). -/
def Lvl.begin (l : Lvl) (free : Nat) (sets : List Nat) (pc : Word) (schk : Bool) (args : List Word) (a : Act) : Lvl :=
  { l with
    pc := pc, ipc := pc
    x := vecTab 32 fun i =>
      if 10 ≤ i ∧ i ≤ 13 then args.getD (i - 10) 0 else keepOrZero (free + i) (l.x.toList.getD i 0)
    p := vecTab 8 fun i => keepOrZero (free + 32 + i) (l.p.toList.getD i 0)
    rope := l.rope.take 1 ++ List.replicate 15 none
    fcr := 0, stallchk := if schk then 1 else 0, inlineN := 0, rbase := 0, lcount := 0
    act := some a, acts := l.acts + 1, word := 0, pfx := none, pend := [], ilock := [], wait := .ready, again := false
    waited := 0, held := sets, streams := [none, none, none, none], trap := none, follow := none, xl := [] }

/-- The vector registers of a level's floor at a start: undefined (R205). -/
def State.floorKeep (s : State) (k : Nat) (sets : List Nat) : State :=
  (sets.flatMap fun set => tab 16 fun i => set * 16 + i).foldl (fun s r =>
    let (keep, s) := s.freeBool
    s.updCore k fun c => if keep then c else c.wv r VReg.zero) s

/-- An activation begun at a level. -/
def State.beginAct (s : State) (k : Nat) (l : Level) (pc : Word) (schk : Bool) (args : List Word) (a : Act) (acquire : Bool) :
    State :=
  let sets := (s.core k).floorSets l
  let s := s.floorKeep k sets
  let free := s.free
  let s := ({ s with free := s.free + 40 }).updLvl k l fun x => x.begin free sets pc schk args a
  s.updCore k fun c =>
    let c := if isEventType a.ty then { c with evActs := c.evActs + 1 } else c
    if acquire then c.l1Empty else c

/-- A pending slot starts; a claimed event takes its handler from the dispatch entry as it stands then, and without a valid one it ends
at once (R188, R211; DEDUCED, log entry 137). -/
def State.startSlot (s : State) (k : Nat) (l : Level) (i : Nat) : State :=
  let c := s.core k
  let sl := c.slots.getD i {}
  let m := sl.msg
  let e := AMap.get c.disp {} m.ty
  let ev := isEventType m.ty
  let s := s.updCore k fun c => { c with slots := c.slots.set i { sl with st := .running, post := none } }
  let a : Act := ⟨m.ty, m.launch, i, s.now, m.tile, m.code, m.code.isSome⟩
  let pc := if ev then e.pc else if m.code.isSome then 0x8000000000000000 else m.pc
  let s := s.beginAct k l pc (if ev then e.schk else m.schk) m.args a m.remote
  if ev && !e.v then s.raiseAt k l Cause.illegal pc pc (BitVec.ofNat 64 m.ty) 0 false else s

/-- A trap forward starts: L3's trap registers take the level's, its TRAPPC the resume address (R435). -/
def State.startForward (s : State) (k : Nat) (l : Level) : State :=
  let c := s.core k
  match (c.lvl l).trap with
  | none => s
  | some t =>
    let launch := (c.lvl l).launch
    let a : Act := ⟨5, launch, 16 + l.val, s.now, [], none, false⟩
    let s := s.updLvl k l fun x => { x with trap := some { t with running := true } }
    let s := s.beginAct k 3 (AMap.get c.disp {} 5).pc false t.args a false
    s.updLvl k 3 fun x => { x with trapcause := t.args.getD 0 0, trappc := t.resume, trapval := t.args.getD 2 0,
                                   trapaddr := t.args.getD 3 0 }

/-- Whether cores start what is pending: the virtual device runs, and no pre-emption, bivouac or reset has stopped it (R255,
R446). A trap forward starts even then. -/
def State.starts (s : State) (k : Nat) : Bool :=
  match s.vdev? (s.core k).owner with
  | some v => v.running && v.step == 0 && (v.reset == 0 || !v.scope.contains (keyChip k))
  | none => false

/-- ACTIVATION_START (R214): the oldest starter of a level without an activation. Nothing starts before a core has read the table of
its DISPINIT, as nothing issues behind an MTCR of DISPBASE (R210, R470, log entry 134); what takes its handler from the dispatch cache
waits while another level's write of DISPBASE loads it, and what is younger with it. -/
def execActivationStart (s : State) : Outc :=
  let k := coreKey s.arg.chip s.arg.node s.arg.slot
  let l := s.arg.lev
  let c := s.core k
  let open_ := s.starts k
  let waits := fun (x : Starter × Nat) => c.taking || c.loading && (match x.1 with
    | .slot i => isEventType (c.slots.getD i {}).msg.ty
    | .tag _ => false
    | .forward _ => true)
  let fwd := fun (x : Starter × Nat) => match x.1 with
    | .forward _ => true
    | _ => false
  .next (
    if (c.lvl l).act.isSome ∨ c.run ≠ .running then s
    else match (oldestStarter ((c.starters l).filter fun x => open_ || fwd x)).filter fun x => !waits x with
      | some (.slot i, _) => s.startSlot k l i
      | some (.forward t, _) => s.startForward k t
      | some (.tag t, _) =>
        match c.tagPend.find? fun x => x.1 == t with
        | some (_, m, _) =>
          let s := s.updCore k fun c => { c with tagPend := c.tagPend.filter (fun x => x.1 != t), tagBusy := c.tagBusy.filter (· != t) }
          s.beginAct k l m.pc m.schk m.args ⟨2, m.launch, 99, s.now, [], none, false⟩ false
        | none => s
      | none => s)

/-! ### AREAD_REPLY (R139, R357) -/

/-- The core once the activation of an AREAD's reply is pending. At a core that a stop or a freeze has taken none follows (R440,
R443). -/
def Core.replyPending (c : Core) (tag : Nat) (m : Msg) (now : Nat) : Core :=
  if c.run = .running then { c with tagPend := c.tagPend ++ [(tag, m, now)] } else c

/-- AREAD_REPLY: an OK reply writes the landing, and the activation becomes pending whatever the status. -/
def execAreadReply (s : State) : Outc :=
  .next (match s.arrivedPkt with
    | some p => match p.payload with
      | .areadReply op status data =>
        let k := p.dst.core
        match (s.core k).ops.find? fun o => o.id == op with
        | some o => match o.work with
          | .aread _ len tag dst args =>
            if s.landingWaits p then s
            else
            let s := s.dropPkt p.id
            let e := AMap.get (s.core k).tags {} tag
            let pa := scratchPa k dst
            let s := if status = 0 then
                let s := s.trace { pa := pa, size := len, cls := .store, kind := .w, vd := p.vd, src := p.src, rope := o.name }
                (s.portServed (coreUnit k) p.input).pokeRun pa 2 (tab (len / 8) fun i => BitVec.ofNat 64 (leNat (data.drop (8 * i) |>.take 8))) []
              else s
            let m : Msg := { ty := 2, args := args.set 2 (BitVec.ofNat 64 status), pc := e.pc, lev := e.lev, schk := e.schk,
                             launch := o.launch, remote := false }
            let s := (s.dropOp k op).updCore k fun c => c.replyPending tag m s.now
            s.pump k
          | _ => s.dropPkt p.id
        | none => s.dropPkt p.id
      | _ => s
    | none => s)

/-! ### ADOPT (R128, R129) -/

/-- What comes before the point of a handle of a rope: its operations up to the handle's count, and those of the ropes that it was made
after (R120, R125, R128). -/
def Rope.handlePoint (r : Rope) (h : Word) : List (Nat × Nat) :=
  let n := r.issued - (r.issued + 4096 - fld h.toNat 0 12) % 4096
  (r.uid, n) :: (r.preds.filter fun q => decide (q.2.2 < n ∨ q.2.2 = 0)).map fun q => (q.1, q.2.1)

/-- Whether the point of a handle has been passed at the core it names. A stopped core answers once every operation that it had
issued has performed or been discarded (R129), and a repaired one once those of its former ropes have. -/
def Core.adoptPassed (c : Core) (h : Word) : Bool :=
  let slot := fld h.toNat 19 6
  let r := c.ropeAt slot
  let former := c.ops.any fun o => (c.ropeOf o.rope).isNone && (match o.work with
    | .adopt _ _ => false
    | _ => true)
  if c.run ≠ .running then c.ops.isEmpty
  else (fld h.toNat 12 7 != r.epoch % 128 && !former) || fld h.toNat 12 7 == r.epoch % 128 && (c.pending (r.handlePoint h)).isEmpty

/-- The service request answered once its point has passed. -/
def State.answerAdopt (s : State) : State :=
  match s.arrivedPkt with
  | some p => match p.payload with
    | .adopt h op =>
      if s.draining p.vd p.src p.dst then (s.dropPkt p.id).sendPkt p.dst p.src p.vd .control 0 (.resp op 5 0 none)
      else if (s.core p.dst.core).adoptPassed h then
        (s.dropPkt p.id).sendPkt p.dst p.src p.vd .control 0 (.adopted op)
      else s
    | _ => s
  | none => s

/-- ADOPT_SERVICE: the request reaches the core that the handle names, which answers at once when it can (R128). -/
def execAdoptService (s : State) : Outc := .next s.answerAdopt
/-- ADOPT_ANSWER: the sequencer answers a request that has waited (R128). -/
def execAdoptAnswer (s : State) : Outc := .next s.answerAdopt

end Sys2Proof.Machine
end

