-- ==== Sys2Proof/Machine/Copy.lean ====
section
/-! DEFINITION. The copy channel (R142 to R144, R369 to R372), COPY_SECTOR, and RESPONSE. -/

namespace Sys2Proof.Machine

/-- A signed 32-bit half of a step register (R370). -/
def stepOf (w : Word) (hi : Bool) : Int := (BitVec.ofNat 32 (fld w.toNat (if hi then 32 else 0) 32)).toInt

/-- The address of byte `b` of a transfer, source or destination: the tag is ignored (R370, R372). -/
def copyAddr (snap : List Word) (dst : Bool) (b : Nat) : Word :=
  let n := fun i => (snap.getD i 0).toNat
  let len := n 2
  let r := b / len
  let k0 := r % n 6
  let k1 := r / n 6 % n 7
  let k2 := r / (n 6 * n 7)
  let step := fun i => stepOf (snap.getD (3 + i) 0) dst
  let a : Int := n (if dst then 1 else 0) + (b % len : Nat) + k0 * step 0 + k1 * step 1 + k2 * step 2
  BitVec.ofNat 64 (a.emod (2 ^ 57)).toNat

/-- The 8-byte words of a sector: pairs of a read and a write, numbered from 0 (R372). -/
def sectorEls (snap : List Word) (sector : Nat) : List El :=
  let left := copyBytes snap - 512 * sector
  (tab (min 64 (left / 8)) id).flatMap fun w =>
    let b := 512 * sector + 8 * w
    [El.mk w (copyAddr snap false b) 8 .load permR 0 0 (-1) false 0,
     El.mk w (copyAddr snap true b) 8 .store permW 0 0 (-1) false 1]

/-- The number of sectors of a transfer. -/
def sectorCount (snap : List Word) : Nat := (copyBytes snap + 511) / 512

/-- The oldest transfer is over: CPDONE passes it, the levels that wait for its ID go on with an acquire (R144, R335), and a
read of CPGO that waited takes the place in the queue (R371). -/
def State.copyDone (s : State) (k : Nat) (t : Xfer) : State :=
  let s := s.updCore k fun c =>
    { c with chan := { c.chan with done := BitVec.ofNat 64 t.id, queue := c.chan.queue.filter fun (x : Xfer) => x.id != t.id } }
  let s := ([0, 1, 2, 3] : List Level).foldl (fun s l =>
    match (s.lvl k l).wait with
    | .waitx n => if n ≤ t.id then (s.updLvl k l fun x => { x with wait := .ready }).updCore k Core.l1Empty else s
    | _ => s) s
  ([0, 1, 2, 3] : List Level).foldl (fun s l =>
    match (s.lvl k l).wait with
    | .cpgo rd snap =>
      if (s.core k).chan.queue.length < 16 then
        let (s, id) := s.queueCopy k l snap (s.lvl k l).ipc ((s.core k).predsOf l.val)
        s.resumeReg k l rd id
      else s
    | _ => s) s

/-- A transfer that has met a cause: it stops, CPDONE passes it, and the cause ends the launch of its activation (R372). -/
def State.copyFail (s : State) (k : Nat) (t : Xfer) (cause : Nat) (val addr : Word) : State :=
  (s.copyDone k t).unitFault k 1 t.lev t.launch cause t.pc val addr

/-- The read and the write of each word of a sector. -/
def pairUp : List Placed → List (Placed × Placed)
  | a :: b :: rest => (a, b) :: pairUp rest
  | _ => []

/-- One access of a channel, as its owner sees it (R142, R150). -/
def copyAcc (k vd : Nat) (p : Placed) : Acc :=
  { pa := p.pa, size := 8, cls := p.el.cls, kind := .w, mt := p.mt, vd := vd, src := ⟨keyChip k, keyNode k, 9⟩ }

/-- A sector is over: the next one follows, or the transfer is done. -/
def State.sectorOver (s : State) (k : Nat) (t : Xfer) : State :=
  if sectorCount t.snap ≤ t.sector + 1 then s.copyDone k t
  else s.updCore k fun c => { c with chan := { c.chan with queue := c.chan.queue.map fun (x : Xfer) =>
    if x.id = t.id then { x with sector := t.sector + 1, xl := [], flight := [] } else x } }

/-- A TAG that no unacknowledged message of the copy unit uses (R87). -/
def State.copyTag (s : State) (node : Nat) : Nat :=
  let used := (tab 9 fun i => s.core (node * 9 + i)).flatMap fun c => (c.chan.queue.flatMap Xfer.flight).map CopyPart.tag
  ((tab 1024 id).find? fun i => !used.contains i).getD 0

/-- A part added to the flight of the oldest transfer, and sent. -/
def State.flyPart (s : State) (k : Nat) (u : UnitId) (ws : List (Nat × Nat × Word × Option Bool)) (xls : List TlbEntry)
    (va : Word) : State :=
  let f : CopyPart := { id := s.nextId, dst := u, tag := s.copyTag (keyCluster k), words := ws, xls := xls, va := va }
  let s := { s with nextId := s.nextId + 1 }
  (s.updFlight k fun x => { x with flight := x.flight ++ [f] }).sendPart k f

/-- A sector all of whose addresses have passed: every word is read, then every word is written, those of the cluster's own units
at once, those of other nodes when they have travelled there (R87, R142, R372). -/
def State.copyMove (s : State) (k : Nat) (t : Xfer) (ps : List (Placed × Placed)) : State :=
  let fe := (t.snap.getD 9 0).getLsbD 0
  let vd := (s.core k).owner
  let s := ps.foldl (fun s w => ((s.trace (copyAcc k vd w.1)).lineServe vd w.1.pa w.1.mt).correct w.1.pa) s
  let vals := ps.map fun w =>
    (w.2, (w.2.pa, w.2.mt, BitVec.ofNat 64 (s.peek w.1.pa 8), if fe then some (s.isFull w.1.pa) else none))
  let near := fun (x : Placed × (Nat × Nat × Word × Option Bool)) =>
    let u := ownerOf x.1.pa
    u.chip == keyChip k && u.node == keyNode k
  let s := (vals.filter near).foldl (fun s x => s.copyWord ⟨keyChip k, keyNode k, 9⟩ vd x.2.1 x.2.2.1 x.2.2.2.1 x.2.2.2.2) s
  let far := vals.filter fun x => !near x
  let owners := (far.map fun x => ownerOf x.1.pa).eraseDups
  let s := owners.foldl (fun s u =>
    let mine := far.filter fun x => ownerOf x.1.pa == u
    s.flyPart k u (mine.map Prod.snd) (mine.filterMap fun x => x.1.xl) ((mine.head?.map fun x => x.1.el.va).getD 0)) s
  if owners = [] then s.sectorOver k t else s

/-- An answer for a part of a sector at its copy unit: acknowledged, it has performed, and with the last one the sector is over;
refused, it is sent again after its back-off (R72, R100); another status ends the transfer at the part's address, once the sector's
other parts are answered, so that CPDONE passes no word still under way (R105, R144, R248, R372). -/
def State.copyAnswer (s : State) (p : Packet) (k part st : Nat) : State :=
  let s := s.dropPkt p.id
  match (s.core k).chan.queue with
  | [] => s
  | t :: _ => match t.flight.find? fun f => f.id == part with
    | none => s
    | some f =>
      if st = 1 then s.updFlight k fun x => { x with flight := x.flight.map fun g =>
        if g.id = part then { g with again := some (s.backoffEnd f.nacks), nacks := f.nacks + 1 } else g }
      else
        let left := t.flight.filter fun f => f.id != part
        let bad := if st = 0 then t.bad else some (t.bad.getD ((statusCause st).1, (statusCause st).2, f.va))
        let s := s.updFlight k fun x => { x with flight := left, bad := bad }
        if left ≠ [] then s
        else match bad with
          | some (cause, val, addr) => s.copyFail k t cause val addr
          | none => s.sectorOver k t

/-- RESPONSE (R105): an answer reaches the core, or the copy unit, that asked. -/
def execResponse (s : State) : Outc :=
  .next (match s.arrivedPkt with
    | some p =>
      if p.dst.unit = 9 then match p.payload with
        | .copyAck k part st => s.copyAnswer p k part st
        | .nack tag _ =>
          match (tab 9 fun i => coreKey p.dst.chip p.dst.node i).findSome? fun k =>
              (((s.core k).chan.queue.flatMap Xfer.flight).find? fun f => f.tag == tag).map fun f => (k, f.id) with
          | some (k, part) => s.copyAnswer p k part 1
          | none => s.dropPkt p.id
        | _ => s
      else s.takeAnswer p
    | none => s)

/-- Whether an access of a channel performs with its sector: a read, or a write to a unit of the channel's own node. -/
def Placed.here (p : Placed) (k : Nat) : Bool :=
  p.el.cls == .load || ((ownerOf p.pa).chip == keyChip k && (ownerOf p.pa).node == keyNode k)

/-- Whether a sector waits at a port: for a requester before the channel in the rotation of its own core's port (R51), for the
waiters of one of its words (R71), at a memory controller's gates (R453, R454), or for a port that is being copied to the spare
(R442). -/
def State.sectorWaits (s : State) (k : Nat) (ps : List Placed) : Bool :=
  ((ps.any fun p => ownerOf p.pa == coreUnit k) && !s.unitTurn (coreUnit k) 2) ||
    ps.any fun p => s.owed p.pa 8 || (p.here k && (s.memWaits (s.core k).owner p.pa || s.copying (ownerOf p.pa)))

/-- A sector that waits for its turn at its own core's port asks for it (R51). -/
def State.sectorAsk (s : State) (k : Nat) (ps : List Placed) : State :=
  if (ps.any fun p => ownerOf p.pa == coreUnit k) && !s.unitTurn (coreUnit k) 2 then s.portAsk k 2 else s

/-- The use of the copy unit's TLB entries and of the own port that a sector makes. -/
def State.sectorUse (s : State) (k : Nat) (ps : List Placed) : State :=
  let s := s.updClu (keyCluster k) fun c => ps.foldl (fun c p => c.tlbHit p.xl) c
  if ps.any fun p => ownerOf p.pa == coreUnit k then s.portServed (coreUnit k) 2 else s

/-- A sector of the oldest transfer (R372). A miss asks for its walk, which parks the transfer where it meets V = 0 (R34, R36). -/
def State.copySector (s : State) (k : Nat) (t : Xfer) : State :=
  let c := s.core k
  if copyBytes t.snap = 0 then s.copyDone k t
  else match s.check k t.launch (s.clu (keyCluster k)).tlb t.xl false (sectorEls t.snap t.sector) with
    | .fail cause val addr => s.copyFail k t cause val addr
    | .wait pages =>
      let w : Walker := .copyUnit (keyCluster k) k
      let s := pages.foldl (fun s p => s.askWalk c.owner p w) s
      if s.waitsPager w then s.parkCopy w else s
    | .ok ps =>
      match ps.find? fun p => p.el.cls == .load && s.draining c.owner (ownerOf p.pa) (ownerOf p.pa) with
      | some p => s.copyFail k t Cause.groupAbort 0 p.el.va
      | none =>
      if s.sectorWaits k ps then s.sectorAsk k ps
      else match ps.find? fun p => !s.populated p.pa with
      | some p => s.copyFail k t Cause.access 0 p.el.va
      | none =>
        match ps.find? fun p => (p.el.cls == .load && s.isBad p.pa) || s.pcFailed p.pa with
        | some p => (s.eccSeen p.pa).copyFail k t Cause.eccUncorr 0 p.el.va
        | none => (s.sectorUse k ps).copyMove k t (pairUp ps)

/-- Whether a channel works: its virtual device runs and neither pre-emption step 4 nor a reset has stopped it (R255, R446). -/
def State.channelRuns (s : State) (k : Nat) : Bool :=
  match s.vdev? (s.core k).owner with
  | some v => v.running && decide (v.step < 4) && (v.reset == 0 || !v.scope.contains (keyChip k)) && !(s.core k).chan.stopped
  | none => false

/-- COPY_SECTOR: the operations before the read of CPGO on its rp0 have performed first (R143). -/
def execCopySector (s : State) : Outc :=
  let k := coreKey s.arg.chip s.arg.node s.arg.slot
  .next (match (s.core k).chan.queue with
    | [] => s
    | t :: _ =>
      if !s.channelRuns k || (t.parked && !t.retry) || t.flight != [] || (s.core k).ops.any (fun o => t.after.contains o.id) then s
      else if t.retry then
        (s.updFlight k fun x => { x with parked := false, retry := false }).copySector k { t with parked := false, retry := false }
      else s.copySector k t)

end Sys2Proof.Machine
end

