-- ==== Sys2Proof/Machine/Fabric.lean ====
section
/-! DEFINITION. The fabric of a package and the scale-up ports (R78 to R103, R106 to R108): ROUTE_FLIT, INJECT_FLIT,
REASSEMBLY, INJECTION_CAP_WINDOW. A flit moves to the next router in one event; hop times are left out. The bits of a flit are
laid out in `Wire`. -/

namespace Sys2Proof.Machine

/-! ### Places (R78 to R80) -/

/-- The node that a torus port of a node leads to: 0 +X, 1 −X, 2 +Y, 3 −Y (R78). -/
def hopTo (n port : Nat) : Nat :=
  let x := n % 32
  let y := n / 32
  match port with
  | 0 => 32 * y + (x + 1) % 32
  | 1 => 32 * y + (x + 31) % 32
  | 2 => 32 * ((y + 1) % 32) + x
  | _ => 32 * ((y + 31) % 32) + x

/-- The opposite of a port or direction. -/
def opposite (p : Nat) : Nat := if p % 2 = 0 then p + 1 else p - 1

/-- Whether the link from a node through a torus port crosses a die edge (R79). -/
def dieEdge (n port : Nat) : Bool :=
  let c := if port < 2 then n % 32 else n / 32
  if port % 2 = 0 then c % 16 == 15 else c % 16 == 0

/-- The node to which a scale-up port attaches; port 2 × direction for port a, one more for port b (R80). -/
def attach (q : Nat) : Nat := dieNode (2 * (q % 2) + q / 2 % 2) ([119, 120, 135].getD (q / 4) 0)

/-- The scale-up port of a chip-edge router. -/
def portAt (node : Nat) : Option Nat := (tab 12 id).find? fun q => attach q == node

/-- The port at the other end of a port's link: port a meets port a, port b meets port b. -/
def farPort (q : Nat) : Nat := 2 * opposite (q / 2) + q % 2

/-- The remaining distance and the ports that shorten it, in one dimension of 32. -/
def axisWay (v t plus : Nat) : Nat × List Nat :=
  let d := (t + 32 - v) % 32
  if d = 0 then (0, []) else if d < 16 then (d, [plus]) else if d = 16 then (16, [plus, plus + 1]) else (32 - d, [plus + 1])

/-- The torus ports on a minimal path, the dimension with the larger remaining distance first, X on a tie (R88). -/
def productive (n t : Nat) : List Nat :=
  let x := axisWay (n % 32) (t % 32) 0
  let y := axisWay (n / 32) (t / 32) 2
  if x.1 < y.1 then y.2 ++ x.2 else x.2 ++ y.2

/-- The hops between two nodes. -/
def distance (n t : Nat) : Nat := (axisWay (n % 32) (t % 32) 0).1 + (axisWay (n / 32) (t / 32) 2).1

/-- The number of a plane. -/
def planeIx : Plane → Nat
  | .control => 0
  | .data => 1

/-! ### Scale-up ports (R94 to R97, R102) -/

/-- A scale-up port. -/
def Chip.port (c : Chip) (q : Nat) : Port := AMap.get c.ports {} q

/-- Whether a port takes flits of a plane: in service, not retraining, with room in its replay store (R95, R97). -/
def Port.open (p : Port) (pl : Nat) : Bool :=
  p.inService && !p.training && !p.dead && decide ((p.store.getD pl []).length < (if pl = 0 then 1024 else 256))

/-- A flit leaves by a port: it is numbered, kept in the replay store and on the wire (R95). -/
def Port.send (p : Port) (pl : Nat) (f : Flit) : Port :=
  let n := p.seqOut.getD pl 0
  { p with seqOut := p.seqOut.set pl ((n + 1) % 4096),
           store := p.store.set pl (p.store.getD pl [] ++ [(n, f)]),
           wire := p.wire.set pl (p.wire.getD pl [] ++ [(n, f)]) }

/-- The routing table of a router: the old one, after a swap, until the router itself has swapped, which it does whole and at a
time of its own (R102, R103, log entry 116). -/
def Chip.tableAt (c : Chip) (now node : Nat) : AMap Word :=
  match c.lag with
  | some (at_, seed, old) => if now < at_ + Config.freeNat (seed + node) then old else c.table
  | none => c.table

/-- The exit nodes of a package for another chip, by a router's table: each productive direction by its preferred port, or by the
other one while that is out of service (R97, R102). -/
def Chip.exits (c : Chip) (table : AMap Word) (dst : Nat) : List Nat :=
  let w := (AMap.get table 0 dst).toNat
  let up := fun q => (c.port q).inService && !(c.port q).training
  (tab 6 id).filterMap fun d =>
    if fld w d 1 = 1 then
      let q := 2 * d + fld w (6 + d) 1
      let r := 2 * d + (1 - fld w (6 + d) 1)
      if up q then some (attach q) else if up r then some (attach r) else none
    else none

/-- The exit node at the smallest distance, the first direction on a tie. -/
def nearest (n : Nat) : List Nat → Option Nat
  | [] => none
  | e :: es => match nearest n es with
    | some m => if distance n e ≤ distance n m then some e else some m
    | none => some e

/-! ### Multicast trees (R106, R107) -/

/-- The port of the next hop of a tree path: X first, then Y, the minimal direction, + on a tie (R107). -/
def treeStep (n t : Nat) : Option Nat :=
  let dx := (t % 32 + 32 - n % 32) % 32
  let dy := (t / 32 + 32 - n / 32) % 32
  if dx ≠ 0 then some (if dx ≤ 16 then 0 else 1) else if dy ≠ 0 then some (if dy ≤ 16 then 2 else 3) else none

/-- The hops of a tree path, each a router and the port it leaves by; 32 hops are the most. -/
def treePath : Nat → Nat → Nat → List (Nat × Nat)
  | 0, _, _ => []
  | fuel + 1, n, t => match treeStep n t with
    | some p => (n, p) :: treePath fuel (hopTo n p) t
    | none => []

/-- The scale-up ports of the onward directions of an entry (R106). -/
def entryPorts (e : List Word) : List Nat :=
  let w := (e.getD 0 0).toNat
  (tab 6 id).filterMap fun d => if fld w (28 + d) 1 = 1 then some (2 * d + fld w (22 + d) 1) else none

/-- The units of an entry's local members at a node. -/
def membersAt (e : List Word) (node : Nat) : List Nat :=
  (entryMembers e).filterMap fun m => if m.1 = node then some m.2 else none

/-- The ports on which a router replicates: torus ports, 4 for its scale-up port, 5 for its own node (R107). -/
def treePorts (e : List Word) (entry n : Nat) : List Nat :=
  let targets := (entryMembers e).map Prod.fst ++ (entryPorts e).map attach
  let hops := (targets.flatMap fun t => (treePath 32 entry t).filterMap fun h => if h.1 = n then some h.2 else none).eraseDups
  hops ++ (if (entryPorts e).any fun q => attach q == n then [4] else []) ++ (if membersAt e n = [] then [] else [5])

/-- The router above a router of the tree; at the entry node of a chip that is not the root's, the router across its port. -/
def treeParent (chip entry n : Nat) : UnitId :=
  if n = entry then
    match portAt n with
    | some q => ⟨neighbour chip (q / 2), attach (farPort q), 13⟩
    | none => ⟨chip, n, 13⟩
  else match (treePath 32 entry n).getLast? with
    | some h => ⟨chip, h.1, 13⟩
    | none => ⟨chip, n, 13⟩

/-- The group and line index of a multicast packet. -/
def Payload.mcGroup : Payload → Nat × Nat
  | .mcData m _ line _ => (m.group, line)
  | .mcldLine g _ _ _ line _ _ => (g, line)
  | _ => (0, 0)

/-! ### Combining (R110) -/

/-- The combining register of a group's line at a router (R110). -/
def Cluster.comb? (c : Cluster) (g line vd : Nat) : Option Comb :=
  c.combs.find? fun r => r.group == g && r.line == line && r.vd == vd

/-- The register with one response more, a combined one with its sums; the first negative to arrive is kept (R110). -/
def Comb.add (r : Comb) (pos neg first : Nat) : Comb :=
  { r with expect := r.expect - 1, pos := r.pos + pos, neg := r.neg + neg, first := if r.first = 0 then first else r.first }

/-- The group free for its next multicast operation at the root, when `key` holds it (R111): changed
entries take effect (R107). -/
def State.rootFree (s : State) (u : UnitId) (g key : Nat) : State :=
  if AMap.find? (s.clu (nodeKey u.chip u.node)).root g = some key then
    let s := s.updClu (nodeKey u.chip u.node) fun c => { c with root := AMap.del c.root g }
    { s with chips := s.chips.map fun (c : Nat × Chip) => (c.1, { c.2 with kept := AMap.del c.2.kept g }) }
  else s

/-- A register all of whose responses are in sends one combined acknowledgement and is cleared: upstream, to the slice, or, for a
multicast store at the root, to the issuer (R110, R111, R488). -/
def State.combSend (s : State) (u : UnitId) (r : Comb) : State :=
  if r.expect ≠ 0 then s
  else
    let s := s.updClu (nodeKey u.chip u.node) fun c =>
      { c with combs := c.combs.filter fun x => !(x.group == r.group && x.line == r.line && x.vd == r.vd) }
    match r.root with
    | some (op, issuer) =>
      (s.rootFree u r.group op).sendPkt u issuer r.vd .control 0 (.mcDone op r.pos r.neg r.first)
    | none => s.sendPkt u r.up.1 r.vd .control 0 (.comb r.group r.line r.pos r.neg r.first r.up.1)

/-- A response at a router. -/
def State.combTake (s : State) (u : UnitId) (g line vd pos neg first : Nat) : State :=
  match (s.clu (nodeKey u.chip u.node)).comb? g line vd with
  | none => s
  | some r =>
    let r := r.add pos neg first
    let s := s.updClu (nodeKey u.chip u.node) fun c =>
      { c with combs := c.combs.map fun (x : Comb) => if x.group = g ∧ x.line = line ∧ x.vd = vd then r else x }
    s.combSend u r

/-! ### Replication (R107, R108) -/

/-- A packet of one flit at a router, which leaves by one tree port. -/
def State.addCopy (s : State) (p : Packet) (chip n entry age port : Nat) : State :=
  let q : Packet := { p with id := s.nextId, dst := ⟨chip, n, 13⟩, stage := .flying }
  let f : Flit := { id := s.nextId + 1, pkt := s.nextId, idx := 0, plane := .data, age := age, chip := chip, node := n,
                    port := 5, rnode := some n, up := 1 + port, entry := entry }
  { s with pkts := s.pkts ++ [q], flits := s.flits ++ [f], nextId := s.nextId + 2 }

/-- A multicast flit follows the tree from a router: a copy for each tree port, and a combining register that expects one
response per copy and per local member (R108, R110). A router with neither answers at once. -/
def State.replicate (s : State) (p : Packet) (chip n entry age : Nat) (up : UnitId × Bool) (root : Option (Nat × UnitId)) : State :=
  let (g, line) := p.payload.mcGroup
  let e := s.treeEntry chip g
  let ports := treePorts e entry n
  let expect := (ports.filter (· != 5)).length + (membersAt e n).length
  let r : Comb := ⟨g, line, p.vd, expect, 0, 0, 0, up, root⟩
  let s := s.updClu (nodeKey chip n) fun c =>
    { c with combs := c.combs.filter (fun x => !(x.group == g && x.line == line && x.vd == p.vd)) ++ [r] }
  ports.foldl (fun s q => s.addCopy p chip n entry age q) (s.combSend ⟨chip, n, 13⟩ r)

/-! ### A router (R88, R89, R108) -/

/-- Where a flit goes. -/
inductive Way where
  | eject
  | torus (port : Nat)
  | scaleUp (port : Nat)
  | stay
  deriving DecidableEq, Repr

/-- The torus ports in the order of R88: +X, +Y, −X, −Y. -/
def torusOrder : List Nat := [0, 2, 1, 3]

/-- The place of an input port in the order of R88: the torus ports, the scale-up port, copies made here. -/
def portOrder (p : Nat) : Nat := [0, 2, 1, 3, 4, 5].getD p 6

/-- A deflection: the first free torus port (R88). -/
def deflect (used : List Nat) : Way :=
  match torusOrder.find? fun p => !used.contains p with
  | some p => .torus p
  | none => .stay

/-- The first free port of those that help, or a deflection. -/
def towards (n t : Nat) (used : List Nat) : Way :=
  match (productive n t).find? fun p => !used.contains p with
  | some p => .torus p
  | none => deflect used

/-- The way of a flit at a router whose ports `used` are taken in this router cycle (R88, R102, R108). -/
def State.way (s : State) (f : Flit) (p : Packet) (used : List Nat) : Way :=
  let c := s.chip f.chip
  let freeUp := fun (q : Nat) => (c.port q).open (planeIx f.plane) && !used.contains 4
  let out := if (used.filter (· == 6)).length < 2 then Way.eject else deflect used
  match f.rnode with
  | some r =>
    if r ≠ f.node then towards f.node r used
    else if f.up = 6 then out
    else if f.up = 5 then
      match portAt f.node with
      | some q => if freeUp q then .scaleUp q else deflect used
      | none => deflect used
    else if used.contains (f.up - 1) then deflect used else .torus (f.up - 1)
  | none =>
    if p.dst.chip = f.chip then
      if p.dst.node = f.node then out else towards f.node p.dst.node used
    else
      let table := c.tableAt s.now f.node
      let mask := (AMap.get table 0 p.dst.chip).toNat
      match (portAt f.node).filter fun q => fld mask (q / 2) 1 == 1 && freeUp q with
      | some q => .scaleUp q
      | none => match nearest f.node (c.exits table p.dst.chip) with
        | some t => towards f.node t used
        | none => deflect used

/-- AGE after more cycles, which saturates (R89). -/
def older (age n : Nat) : Nat := min 4095 (age + n)

/-- The flit without its place. -/
def State.dropFlit (s : State) (id : Nat) : State := { s with flits := s.flits.filter fun f => f.id != id }

/-- A whole packet delivered to its unit, after those delivered before it. -/
def State.deliver (s : State) (p : Packet) : State :=
  { s with pkts := s.pkts.filter (fun (q : Packet) => q.id != p.id) ++ [{ p with stage := .arrived }] }

/-- A flit leaves the fabric at its node by an ejection port: one of a one-flit packet is delivered, another waits to be
reassembled, one for unit 15 is discarded and counted (R83, R98), and a multicast copy is handed to each local member (R487). -/
def State.eject (s : State) (f : Flit) (p : Packet) (port : Nat) : State :=
  let key := nodeKey f.chip f.node
  let s := s.dropFlit f.id
  match f.rnode with
  | some _ =>
    let us := membersAt (s.treeEntry f.chip p.payload.mcGroup.1) f.node
    let s := { s with pkts := s.pkts.filter fun (q : Packet) => q.id != p.id }
    us.foldl (fun s u => s.sendPkt ⟨f.chip, f.node, 13⟩ ⟨f.chip, f.node, u⟩ p.vd .data 0 p.payload) s
  | none =>
    if p.dst.unit = 15 then
      { (s.updClu key fun c => { c with lost := c.lost + 1 }) with pkts := s.pkts.filter fun (q : Packet) => q.id != p.id }
    else if p.last = 0 then s.deliver { p with eject := port, age := f.age }
    else { s with flits := s.flits ++ [{ f with port := 6 }],
                  pkts := s.pkts.map fun (q : Packet) => if q.id = p.id then { q with eject := port, age := f.age } else q }

/-- A flit on its way; a copy whose tree port is taken keeps the name of the router that lost it (R108), and one that no port
takes in this cycle grows older here (R89). -/
def State.move (s : State) (f : Flit) (p : Packet) (used : List Nat) : Way → State
  | .eject => s.eject f p (used.filter (· == 6)).length
  | .torus q =>
    let n := hopTo f.node q
    let slot := if f.plane = .control then 2 else 4
    let age := older f.age (slot + if dieEdge f.node q then 16 else 0)
    let tree := f.rnode = some f.node ∧ f.up = q + 1
    let g := { f with node := n, port := opposite q, age := age }
    let g := if tree then { g with rnode := some n, up := 0 } else g
    let s := s.dropFlit f.id
    { s with flits := s.flits ++ [g] }
  | .scaleUp q =>
    let slot := if f.plane = .control then 2 else 4
    let g := { f with age := older f.age (slot + 250) }
    (s.dropFlit f.id).updChip f.chip fun c =>
      { c with ports := AMap.put c.ports q ((c.port q).send (planeIx f.plane) g) }
  | .stay =>
    let age := older f.age (if f.plane = .control then 1 else 4)
    { s with flits := s.flits.map fun (x : Flit) => if x.id = f.id then { x with age := age } else x }

/-- The port that a way takes, in a router's list of those taken: 6 an ejection port. -/
def Way.taken : Way → List Nat
  | .eject => [6]
  | .torus q => [q]
  | .scaleUp _ => [4]
  | .stay => []

/-- The packet of a flit. -/
def State.pktOf (s : State) (f : Flit) : Option Packet := s.pkts.find? fun p => p.id == f.pkt

/-- The free torus ports. -/
def torusFree (used : List Nat) : Nat := (torusOrder.filter fun p => !used.contains p).length

/-- A flit placed by its router, with the number of torus arrivals still to be placed, whose ports a copy made here leaves free,
so that each of them finds one (R88); one whose packet its source or node has given up goes no further. -/
def State.placeFlit (s : State) (f : Flit) (due : Nat) : State :=
  match s.pktOf f with
  | none => s.dropFlit f.id
  | some p =>
    let key := nodeKey f.chip f.node
    let pl := planeIx f.plane
    let used := (s.clu key).used.getD pl []
    let w := match s.way f p used with
      | .torus q => if f.port = 5 ∧ torusFree used ≤ due then Way.stay else .torus q
      | w => w
    let s := s.move f p used w
    s.updClu key fun c => { c with used := c.used.set pl (c.used.getD pl [] ++ w.taken),
                                   old := c.old.set pl (c.old.getD pl false || decide (1024 ≤ f.age)) }

/-- The order in which a router places its flits: higher AGE, lower source number, lower DNODE or GROUP, then the input port
(R88). -/
def State.flitKey (s : State) (f : Flit) : Nat :=
  let (src, dst) := match s.pktOf f with
    | some p => (nodeKey p.src.chip p.src.node, match f.rnode with
      | some _ => p.payload.mcGroup.1
      | none => p.dst.node)
    | none => (0, 0)
  (((4095 - f.age) * 2 ^ 20 + src) * 2 ^ 10 + dst) * 8 + portOrder f.port

/-- The flits that a router takes in this cycle: the first of each input port, and the copies made there. -/
def State.heads (s : State) (chip n : Nat) (pl : Plane) : List Flit :=
  let here := s.flits.filter fun f => f.chip == chip && f.node == n && f.plane == pl
  (([0, 1, 2, 3, 4] : List Nat).filterMap fun p => here.find? fun f => f.port == p) ++ here.filter fun f => f.port == 5

/-- The multicast flits that have come to their resume node follow the tree from there (R108). -/
def State.resumeTree (s : State) (chip n : Nat) (pl : Plane) : State :=
  (s.heads chip n pl).foldl (fun s f =>
    if f.rnode = some n ∧ f.up = 0 then
      match s.pktOf f with
      | none => s.dropFlit f.id
      | some p =>
        let s := { (s.dropFlit f.id) with pkts := s.pkts.filter fun (q : Packet) => q.id != p.id }
        s.replicate p chip n f.entry f.age (treeParent chip f.entry n, false) none
    else s) s

/-- A router's cycle: every flit at it is placed, once (R88). The mark 98 says that this router cycle has passed. -/
def State.routed (s : State) (chip n : Nat) (pl : Plane) : State :=
  let key := nodeKey chip n
  let i := planeIx pl
  if ((s.clu key).used.getD i []).contains 98 then s
  else
    let s := s.resumeTree chip n pl
    let fs := sortBy (fun a b => decide (s.flitKey a ≤ s.flitKey b)) (s.heads chip n pl)
    let s := fs.foldl (fun (t : State × Nat) f =>
      let due := if f.port < 4 then t.2 - 1 else t.2
      (t.1.placeFlit f due, due)) (s, (fs.filter fun f => decide (f.port < 4)).length) |>.1
    s.updClu key fun c => { c with used := c.used.set i (c.used.getD i [] ++ [98]) }

/-- ROUTE_FLIT (R88). -/
def execRouteFlit (s : State) : Outc := .next (s.routed s.arg.chip s.arg.node s.arg.plane)

/-! ### Injection (R92, R262) -/

/-- Whether a node of a chip is a node of a virtual device. -/
def State.ownsNode (s : State) (vd chip n : Nat) : Bool := ((s.vdev? vd).bind fun v => v.clusterOf chip n).isSome

/-- The cap of flits per window of the virtual device at a node of its own of a chip; 0 for none; the supervisors may have lowered
it (R262, R483). -/
def State.injCap (s : State) (vd chip n pl : Nat) : Nat :=
  match (if s.ownsNode vd chip n then s.vdev? vd else none) with
  | some v =>
    let cap := AMap.get (s.vdSlotRec vd chip).inj 0 (2 * (n - AMap.get v.base 0 chip) + pl)
    let low := (s.chip chip).injLow
    if low = 0 then cap else if cap = 0 then low else min cap low
  | none => 0

/-- The first ready flit of a unit, with its index in its packet. -/
def State.ready (s : State) (chip n u : Nat) (pl : Plane) : Option (Packet × Nat) :=
  s.pkts.findSome? fun p => match p.stage with
    | .outbox i => if p.src = ⟨chip, n, u⟩ ∧ p.plane = pl then some (p, i) else none
    | _ => none

/-- The unit whose turn it is among those with a ready flit, round-robin after the one that injected last (R92). -/
def State.turnOf (s : State) (chip n : Nat) (pl : Plane) : Option (Packet × Nat) :=
  let last := (s.clu (nodeKey chip n)).injUnit.getD (planeIx pl) 14
  (tab 15 id).findSome? fun i => s.ready chip n ((last + 1 + i) % 15) pl

/-- The flits of a window that the virtual device of a cluster has injected there on each plane by a cycle (R262). -/
def Cluster.injIn (c : Cluster) (now : Nat) : List Nat := if c.injWin = now / 64 then c.inj else [0, 0]

/-- INJECT_FLIT: no flit is injected while an old one passes, beyond the cap, without a free output port, or in a package without
power (R92, R262, R482). The mark
99 says that this router cycle has injected one. -/
def execInjectFlit (s : State) : Outc :=
  let chip := s.arg.chip
  let n := s.arg.node
  let key := nodeKey chip n
  let pl := planeIx s.arg.plane
  .next (match s.turnOf chip n s.arg.plane with
    | none => s
    | some (p, i) =>
      let t := s.routed chip n s.arg.plane
      let c := t.clu key
      let used := c.used.getD pl []
      let cap := s.injCap p.vd chip n pl
      if s.dark chip || used.contains 99 || c.old.getD pl false || (cap != 0 && decide (cap ≤ (c.injIn s.now).getD pl 0)) then t
      else
        let f : Flit := { id := t.nextId, pkt := p.id, idx := i, plane := s.arg.plane, age := 0, chip := chip, node := n, port := 5 }
        match t.way f p used with
        | .stay => t
        | _ =>
          let stage := if i = p.last then Stage.flying else Stage.outbox (i + 1)
          let t := { t with nextId := t.nextId + 1, flits := t.flits ++ [f],
                            pkts := t.pkts.map fun (q : Packet) => if q.id = p.id then { q with stage := stage } else q }
          (t.placeFlit f 0).updClu key fun c =>
            { c with used := c.used.set pl (c.used.getD pl [] ++ [99]),
                     inj := (c.injIn s.now).set pl ((c.injIn s.now).getD pl 0 + (s.ownsNode p.vd chip n).toNat), injWin := s.now / 64,
                     injUnit := c.injUnit.set pl p.src.unit })

/-- INJECTION_CAP_WINDOW: the counts of a window of 64 cycles that has ended are given up for those of the present one (R262). -/
def execInjectionCapWindow (s : State) : Outc :=
  .next (s.updClu (nodeKey s.arg.chip s.arg.node) fun c => { c with inj := c.injIn s.now, injWin := s.now / 64 })

/-! ### Reassembly (R98 to R100) -/

/-- The sum of the floors at a node (R99). -/
def State.floorsAt (s : State) (chip n : Nat) : Nat :=
  s.vds.foldl (fun (t : Nat) (e : Nat × VDev) => if (e.2.clusterOf chip n).isSome then t + e.2.floor else t) 0

/-- The floor of a virtual device at a node: none where it has no cores (R99). -/
def State.floorOf (s : State) (vd chip n : Nat) : Nat :=
  ((s.vdev? vd).map fun v => if (v.clusterOf chip n).isSome then v.floor else 0).getD 0

/-- The operation that a packet asks for; of a copy sector's words, their part. -/
def Payload.op : Payload → Nat
  | .access _ op => op
  | .marker _ op _ => op
  | .copyData _ part _ => part
  | .message _ op => op
  | .adopt _ op => op
  | .aread _ _ op => op
  | .post _ op => op
  | .mcst _ _ op => op
  | .mcldReq _ _ _ op => op
  | _ => 0

/-- The first flit of a message takes a floor slot of its virtual device, else a shared slot; without one the message is
refused with BUSY, naming its TAG (R99, R100). -/
def State.takeSlot (s : State) (p : Packet) (f : Flit) : State :=
  let key := nodeKey f.chip f.node
  let rs := (s.clu key).reasm
  let mine := (rs.filter fun r => r.vd == p.vd && !r.shared).length
  let shared := (rs.filter fun r => r.shared).length
  let add := fun (sh : Bool) => (s.dropFlit f.id).updClu key fun c => { c with reasm := c.reasm ++ [⟨p.src, p.tag, p.vd, [f.idx], sh⟩] }
  if mine < s.floorOf p.vd f.chip f.node then add false
  else if shared < 256 - s.floorsAt f.chip f.node then add true
  else
    let s := { (s.dropFlit f.id) with pkts := s.pkts.filter fun (q : Packet) => q.id != p.id }
    s.sendPkt ⟨f.chip, f.node, p.dst.unit⟩ p.src p.vd .control 0 (.nack p.tag false)

/-- REASSEMBLY: a flit joins its message's slot; the complete message is handed to its unit and the slot is freed (R98). -/
def execReassembly (s : State) : Outc :=
  let key := nodeKey s.arg.chip s.arg.node
  .next (match s.flits.find? fun f => f.id == s.arg.id && f.port == 6 && f.chip == s.arg.chip && f.node == s.arg.node with
    | none => s
    | some f => match s.pktOf f with
      | none => s.dropFlit f.id
      | some p =>
        match (s.clu key).reasm.find? fun r => r.src == p.src && r.tag == p.tag with
        | none => s.takeSlot p f
        | some r =>
          let got := insertNat f.idx r.got
          let s := s.dropFlit f.id
          if p.last < got.length then (s.updClu key fun c => { c with reasm := c.reasm.filter fun x => x != r }).deliver p
          else s.updClu key fun c => { c with reasm := c.reasm.map fun (x : Reasm) => if x = r then { x with got := got } else x })

end Sys2Proof.Machine
end

