-- ==== Sys2Proof/Machine/Wire.lean ====
section
/-! DEFINITION. The bits of a flit: the header (R82), KIND (R84), the words of a control flit (R85) and of a data flit (R87). The
fabric carries packets and flits as data; these functions lay one out as its link carries it. Where R84, R85 and R87 name no code
for a field of an exchange, log entry 117 gives the model's. -/

namespace Sys2Proof.Machine

/-- A response's KIND: BUSY is a NACK, an answer with data a read reply, another an acknowledgement (R84, R105). -/
def respKind (status : Nat) (data : Bool) : Nat := if status = 1 then 6 else if data then 4 else 5

/-- Whether the operation of a response returns data. -/
def Acc.returns (a : Acc) : Bool :=
  match a.cls with
  | .store => false
  | .fe .ef => false
  | .fe .xf => false
  | _ => true

/-- The KIND of an access on the control plane; a CAS travels on the data plane (R84). -/
def Acc.kindCode (a : Acc) : Nat :=
  match a.cls with
  | .load => 0
  | .store => 1
  | .amo _ => 2
  | .fe _ => 3
  | .feq => 3

/-- KIND of a packet (R84). -/
def State.kindOf (s : State) (p : Packet) : Nat :=
  match p.payload with
  | .access a _ => a.kindCode
  | .marker _ _ _ => 3
  | .resp op st _ line => if line.isSome then 0 else respKind st (((s.opOf op).map fun o => match o.2.work with
      | .mem a => a.returns
      | _ => false).getD false)
  | .withdraw _ => 0xA
  | .withdrawn _ _ => 5
  | .flush _ _ => 0xB
  | .message _ _ => if p.plane = .control then 7 else 3
  | .adopt _ _ => 0xB
  | .adopted _ => 5
  | .aread _ _ _ => 0
  | .areadReply _ st _ => if p.plane = .control then respKind st true else 0
  | .post _ _ => 8
  | .postAck _ st _ => respKind st false
  | .mcst _ _ _ => 4
  | .mcData _ _ _ _ => 4
  | .mcldReq _ _ _ _ => 0xB
  | .mcldLine _ _ _ _ _ _ _ => 5
  | .comb _ _ _ _ _ _ => 9
  | .mcDone _ _ _ _ => 9
  | .entry _ _ _ => 0xB
  | .mcldAnswer _ st => respKind st false
  | .merge _ _ _ _ _ _ _ => 9
  | .nack _ _ => 6
  | .copyData _ _ _ => 8
  | .copyAck _ _ st => respKind st false
  | .lineBusy _ _ => 6

/-- RNODE of a flit: a copy's resume node (R108), and the root for a line of an MCLD on its way there (R111, R487). -/
def Packet.rnode (p : Packet) (f : Flit) : Option Nat :=
  f.rnode <|> match p.payload with
    | .mcldLine _ _ _ _ _ _ _ => if p.dst.unit = 13 then some p.dst.node else none
    | _ => none

/-- The header of a flit: destination or group and resume node, source, KIND and MC, with AGE (R82). -/
def State.flitHeader (s : State) (p : Packet) (f : Flit) : Word :=
  let way := match p.rnode f with
    | some r => p.payload.mcGroup.1 % 1024 * 2 ^ 42 + r % 1024 * 2 ^ 32 + 2 ^ 5
    | none => p.dst.chip % 512 * 2 ^ 43 + p.dst.node % 1024 * 2 ^ 33 + p.dst.unit % 16 * 2 ^ 29
  BitVec.ofNat 64 (f.age % 4096 * 2 ^ 52 + way + p.src.chip % 512 * 2 ^ 20 + p.src.node % 1024 * 2 ^ 10 + s.kindOf p * 2 ^ 6)

/-- The number of an AMO operator (R348). -/
def AmoOp.code : AmoOp → Nat
  | .add => 0 | .and => 1 | .or => 2 | .xor => 3 | .min => 4 | .max => 5
  | .minn => 6 | .maxn => 7 | .swap => 8 | .cas => 9 | .faddF32 => 10 | .fmaxF32 => 11

/-- OP of an access: its size as a power of two in the low bits, above it the AMO operator or the full/empty mode (R85). -/
def Acc.opCode (a : Acc) : Nat :=
  let size := if a.size = 1 then 0 else if a.size = 2 then 1 else if a.size = 4 then 2 else 3
  size + 4 * (match a.cls with
    | .amo op => op.code
    | .fe .ff => 0
    | .fe .fe => 1
    | .fe .ef => 2
    | .fe .xf => 3
    | .feq => 4
    | _ => 0)

/-- The fields of a flit beside its header and data: the rope, the reply tag, OP, STATUS and the local address. -/
structure WireFields where
  rope   : Nat := 0
  rtag   : Nat := 0
  op     : Nat := 0
  status : Nat := 0
  addr   : Nat := 0
  deriving DecidableEq, Repr

/-- The reply tag of an AREAD is its bound tag (R104); of another operation, its number. -/
def State.replyTag (s : State) (op : Nat) : Nat :=
  match (s.opOf op).map (fun (o : Nat × Op) => o.2.work) with
  | some (.aread _ _ tag _ _) => tag
  | _ => op

/-- The fields of a packet (R85, R87, R179): a multicast flit's reply tag is its line index (R111). -/
def State.wireFields (s : State) (p : Packet) : WireFields :=
  let t := s.replyTag p.payload.op
  let acc := fun (a : Acc) => { rope := a.rope, rtag := t, op := a.opCode, addr := a.pa : WireFields }
  match p.payload with
  | .access a _ => acc a
  | .marker a _ n => { acc a with op := a.opCode + 32 * n }
  | .resp op st _ _ => { rtag := s.replyTag op, status := st }
  | .withdraw op => { rtag := op }
  | .withdrawn op _ => { rtag := op }
  | .flush line op => { rtag := op, addr := line * 256 }
  | .message m _ => { rtag := t, op := m.ty }
  | .adopt h _ => { rtag := t, addr := h.toNat }
  | .adopted op => { rtag := op }
  | .aread pa len _ => { rtag := t, op := len, addr := pa }
  | .areadReply op st _ => { rtag := s.replyTag op, status := st }
  | .post q _ => { rtag := t, op := q.cls, addr := q.key }
  | .postAck op st _ => { rtag := op, status := st }
  | .mcst m _ _ => { rtag := t, op := m.cmode, addr := m.rb.toNat }
  | .mcData m _ line _ => { rtag := line, op := m.cmode, addr := m.rb.toNat }
  | .mcldReq m pa _ _ => { rtag := t, op := m.group, addr := pa }
  | .mcldLine _ pa _ _ line _ _ => { rtag := line, addr := pa }
  | .comb _ line _ _ _ _ => { rtag := line }
  | .mcDone op _ _ _ => { rtag := op }
  | .entry core launch tile => { rtag := core, op := launch, addr := tile }
  | .mcldAnswer op st => { rtag := op, status := st }
  | .merge mb _ g _ _ _ _ => { rtag := g, op := mb }
  | .nack op _ => { rtag := s.replyTag op, status := 1 }
  | .copyData _ part _ => { rtag := part }
  | .copyAck _ part st => { rtag := part, status := st }
  | .lineBusy _ line => { rtag := line, status := 1 }

/-- Word 2 of a control flit where it is no address: a short message's first argument, the sums of a combined acknowledgement, or
bytes 8 to 15 of a read of 16 (R85, R104, log entry 117). -/
def Packet.word2 (p : Packet) (addr : Nat) : Word :=
  match p.payload with
  | .message m _ => m.args.getD 0 0
  | .comb _ _ pos neg _ _ => BitVec.ofNat 64 (pos % 65536 * 2 ^ 48 + neg % 65536 * 2 ^ 32)
  | .mcDone _ pos neg _ => BitVec.ofNat 64 (pos % 65536 * 2 ^ 48 + neg % 65536 * 2 ^ 32)
  | .merge _ pos _ neg _ _ _ => BitVec.ofNat 64 (pos % 65536 * 2 ^ 48 + neg % 65536 * 2 ^ 32)
  | .areadReply _ _ d => BitVec.ofNat 64 (leNat ((d.drop 8).take 8))
  | _ => BitVec.ofNat 64 (addr % 2 ^ 47)

/-- DATA of a control flit (R85). -/
def Packet.word3 (p : Packet) : Word :=
  match p.payload with
  | .access a _ => a.data
  | .marker a _ _ => a.data
  | .resp _ _ d _ => d
  | .withdrawn _ removed => if removed then 1 else 0
  | .message m _ => m.args.getD 1 0
  | .areadReply _ _ d => BitVec.ofNat 64 (leNat (d.take 8))
  | .post q _ => q.val
  | .postAck _ _ out => BitVec.ofNat 64 out
  | .comb _ _ _ _ first _ => BitVec.ofNat 64 first
  | .mcDone _ _ _ first => BitVec.ofNat 64 first
  | .merge _ _ _ _ first _ _ => BitVec.ofNat 64 first
  | _ => 0

/-- The 32 bytes of a control flit, as four words (R82, R85). -/
def State.controlWords (s : State) (p : Packet) (f : Flit) : List Word :=
  let w := s.wireFields p
  [s.flitHeader p f,
   BitVec.ofNat 64 (p.vd % 65536 * 2 ^ 48 + p.src.unit % 16 * 2 ^ 44 + w.rope % 16 * 2 ^ 40 + w.rtag % 65536 * 2 ^ 24 +
     w.op % 256 * 2 ^ 16 + w.status % 256 * 2 ^ 8),
   p.word2 w.addr, p.word3]

/-- The bytes that a data packet's flits carry, whole: a line, the words of a copy sector, the code of a SENDC (R87). -/
def Packet.bytes (p : Packet) : List Byte :=
  match p.payload with
  | .resp _ _ _ line => (line.map fun l => l.2.1).getD []
  | .message m _ => m.code.getD []
  | .areadReply _ _ d => d
  | .mcst _ d _ => d
  | .mcData _ d _ _ => d
  | .mcldLine _ _ d _ _ _ _ => d
  | .copyData _ _ ws => ws.flatMap fun w => leBytes 8 w.2.2.1.toNat
  | _ => []

/-- The payload of one data flit: 256 bytes of a packet of more flits, else all (R87). -/
def Packet.part (p : Packet) (idx : Nat) : List Byte := if p.last = 0 then p.bytes else (p.bytes.drop (256 * idx)).take 256

/-- AUX, four words: a message's arguments, a copy sector's full/empty bits, the two values of a CAS (R87). -/
def Packet.aux (p : Packet) (idx : Nat) : List Word :=
  match p.payload with
  | .message m _ => tab 4 fun i => m.args.getD i 0
  | .access a _ => [a.data, a.data2, 0, 0]
  | .copyData _ _ ws =>
    let here := (ws.drop (32 * idx)).take 32
    [BitVec.ofNat 64 ((tab 32 fun i => if ((here[i]?).bind fun w => w.2.2.2) = some true then 2 ^ i else 0).sum), 0, 0, 0]
  | _ => [0, 0, 0, 0]

/-- The first 64 bytes of a data flit, as eight words; its payload follows (R82, R87). -/
def State.dataWords (s : State) (p : Packet) (f : Flit) : List Word :=
  let w := s.wireFields p
  let addr := match p.payload with
    | .message _ _ => 0
    | .copyData _ _ ws => (((ws.drop (32 * f.idx)).head?).map Prod.fst).getD 0
    | _ => w.addr
  [s.flitHeader p f,
   BitVec.ofNat 64 (p.vd % 65536 * 2 ^ 48 + p.src.unit % 16 * 2 ^ 44 + p.tag % 1024 * 2 ^ 34 + f.idx % 64 * 2 ^ 28 + p.last % 64 * 2 ^ 22),
   BitVec.ofNat 64 (w.op % 256 * 2 ^ 56 + addr % 2 ^ 47),
   BitVec.ofNat 64 (w.rtag % 65536 * 2 ^ 48 + w.rope % 16 * 2 ^ 44 + ((p.part f.idx).length - 1) % 512 * 2 ^ 35)] ++ p.aux f.idx

end Sys2Proof.Machine
end

