-- ==== Sys2Proof/Machine/Links.lean ====
section
/-! DEFINITION. The links between packages (R94 to R97): LINK_RECEIVE, LINK_REPLAY, LINK_ACKNOWLEDGE, LANE_FAILURE,
RETRAINING_END, PORT_OUT_OF_SERVICE. -/

namespace Sys2Proof.Machine

/-- A port of a package changed. -/
def State.updPort (s : State) (chip q : Nat) (f : Port → Port) : State :=
  s.updChip chip fun c => { c with ports := AMap.put c.ports q (f (c.port q)) }

/-- The entries of a replay store that the receiver has not accepted, given the number it expects next (R95). -/
def unaccepted (next : Nat) (store : List (Nat × Flit)) : List (Nat × Flit) :=
  store.drop (match store with
    | e :: _ => (next + 4096 - e.1) % 4096
    | [] => 0)

/-- The number that the far end of a port's link expects next. -/
def State.farNext (s : State) (chip q pl : Nat) : Nat :=
  ((s.chip (neighbour chip (q / 2))).port (farPort q)).seqIn.getD pl 0

/-- Whether the entry that multicasts of a group follow on a chip is valid for a virtual device (R107, R109). -/
def State.treeValid (s : State) (chip g vd : Nat) : Bool :=
  let w := ((s.treeEntry chip g).getD 0 0).toNat
  fld w 63 1 == 1 && fld w 47 16 == vd

/-- A flit accepted from a link is at the scale-up input of the chip-edge router; one inside a tree resumes there, and a package
without a valid entry answers NOT_MEMBER for its branch (R96, R108, R109). -/
def State.enterChip (s : State) (chip q : Nat) (f : Flit) : State :=
  let n := attach q
  let g := { f with chip := chip, node := n, port := 4 }
  match s.pktOf f with
  | none => s
  | some p =>
    match f.rnode with
    | none => { s with flits := s.flits ++ [g] }
    | some _ =>
      let s := { s with pkts := s.pkts.filter fun (x : Packet) => x.id != p.id }
      let above : UnitId := ⟨neighbour chip (q / 2), attach (farPort q), 13⟩
      let (grp, line) := p.payload.mcGroup
      if s.treeValid chip grp p.vd then s.replicate p chip n n g.age (above, false) none
      else s.sendPkt ⟨chip, n, 13⟩ above p.vd .control 0 (.comb grp line 0 1 (negative 6 chip n 13) above)

/-- Whether a router's cycle that led from `t` to `u` sent out every flit of an input port, and of the copies made since number
`new` one at least (R88, R96). -/
def State.sentOut (t u : State) (chip n : Nat) (pl : Plane) (new : Nat) : Bool :=
  let gone := fun (h : Flit) => !u.flits.any fun f => f.id == h.id && f.chip == chip && f.node == n && f.port != 6
  let hs := t.heads chip n pl
  let copies := hs.filter fun h => h.port == 5 && decide (new ≤ h.id)
  ((hs.filter fun h => h.port != 5).all gone) && (copies.isEmpty || copies.any gone)

/-- LINK_RECEIVE: the next flit on the wire is accepted in sequence in a cycle in which the router has a free output for it, an
ejection port among them, once R88 has placed it with the other arrivals (log entry 113); otherwise it is lost, to be replayed
(R95, R96). A port out of service or retraining receives nothing (R94, R97). A router whose cycle has passed takes it in the next. -/
def execLinkReceive (s : State) : Outc :=
  let q := s.arg.port
  let chip := s.arg.chip
  let pl := planeIx s.arg.plane
  let from_ := neighbour chip (q / 2)
  let n := attach q
  let here := (s.chip chip).port q
  .next (match ((s.chip from_).port (farPort q)).wire.getD pl [] with
    | [] => s
    | (i, f) :: rest =>
      if s.dark chip || !here.inService || here.training || here.dead then
        s.updPort from_ (farPort q) fun p => { p with wire := p.wire.set pl rest }
      else if ((s.clu (nodeKey chip n)).used.getD pl []).contains 98 then s
      else
        let s := s.updPort from_ (farPort q) fun p => { p with wire := p.wire.set pl rest }
        if i ≠ here.seqIn.getD pl 0 then s
        else
          let t := ((s.updPort chip q fun p => { p with seqIn := p.seqIn.set pl ((i + 1) % 4096) }).enterChip chip q f).resumeTree
            chip n s.arg.plane
          let u := t.routed chip n s.arg.plane
          if t.sentOut u chip n s.arg.plane s.nextId then u else s.routed chip n s.arg.plane)

/-- LINK_REPLAY: what the receiver has not accepted is sent again from the first missing number (R95). -/
def execLinkReplay (s : State) : Outc :=
  let pl := planeIx s.arg.plane
  let next := s.farNext s.arg.chip s.arg.port pl
  .next (s.updPort s.arg.chip s.arg.port fun p =>
    if p.inService && !p.training && !p.dead then { p with wire := p.wire.set pl (unaccepted next (p.store.getD pl [])) } else p)

/-- LINK_ACKNOWLEDGE: accepted flits leave the replay store (R95). -/
def execLinkAcknowledge (s : State) : Outc :=
  let pl := planeIx s.arg.plane
  let next := s.farNext s.arg.chip s.arg.port pl
  .next (s.updPort s.arg.chip s.arg.port fun p => { p with store := p.store.set pl (unaccepted next (p.store.getD pl [])) })

/-- Whether a lane carries flits: it works itself, or the working spare stands in for it (R94). -/
def Port.carries (p : Port) (lane : Nat) : Bool := p.lanes.getD lane true || (p.spare == some lane && p.lanes.getD 8 true)

/-- The data lanes in service: six, five after a second failure, and one less with each further one (R94, log entry 114). -/
def Port.dataLanes (p : Port) : Nat := (([2, 3, 4, 5, 6, 7] : List Nat).filter fun i => p.carries i).length

/-- Whether a control lane is lost (R94). -/
def Port.controlLost (p : Port) : Bool := !(p.carries 0 && p.carries 1)

/-- The die and stop of a scale-up port's service agent (R80, R473). -/
def portStop (q : Nat) : Nat × Nat := (2 * (q % 2) + q / 2 % 2, 264 + q / 4)

/-- The entry of type 0x04 for a repair (R471): the element, its number, the outcome, and what was lost. -/
def State.repairEntry (s : State) (chip vd element num outcome : Nat) (lost : List Nat) : State :=
  s.ringEntry chip 0x04 vd ([BitVec.ofNat 64 (element * 2 ^ 60 + num), BitVec.ofNat 64 (outcome * 2 ^ 60 + lost.length)] ++
    (lost.take 5).map fun a => BitVec.ofNat 64 (a % 2 ^ 47))

/-- A repair changes measurement 3 (R458). -/
def State.countRepair (s : State) (chip : Nat) : State := s.updChip chip fun c => { c with repairs := c.repairs + 1 }

/-- LANE_FAILURE: the spare replaces a failed lane through retraining; a second failure lowers the data lanes to five; the loss
of a control lane takes the port out of service. A port that is out or retrains already keeps its bound of 1 ms (R97). Each change is
reported over the belay network and as a repair: outcome 1 for the spare, 2 for a data lane lost, 4 for a control lane (R94, R458,
R460, R471, log entry 125). -/
def execLaneFailure (s : State) : Outc :=
  let q := s.arg.port
  let chip := s.arg.chip
  let p := (s.chip chip).port q
  .next (
    if !p.lanes.getD s.arg.lane true then s
    else
      let takes := p.spare.isNone && p.lanes.getD 8 true && s.arg.lane < 8
      let p := { p with lanes := p.lanes.set s.arg.lane false, spare := if takes then some s.arg.lane else p.spare }
      let lost := p.controlLost
      let since := if p.inService && !p.training then s.now else p.since
      let p := if lost then { p with inService := false, since := since }
        else if takes then { p with training := true, since := since } else p
      let s := s.updPort chip q fun _ => p
      let s := s.belayEvent chip (portStop q).1 (portStop q).2 0x03 (BitVec.ofNat 64 (p.dataLanes * 16 + q))
      (s.repairEntry chip 0 3 q (if lost then 4 else if takes then 1 else 2) []).countRepair chip)

/-- The entry into ON ends with the retraining of every port (R482). -/
def State.trained (s : State) (chip : Nat) : State :=
  let c := s.chip chip
  if c.power = .training ∧ (tab 12 id).all (fun q => !(c.port q).training) then s.updChip chip fun c => { c with power := .on }
  else s

/-- RETRAINING_END: the port is in service again and replays from the first unacknowledged number on each plane (R97). -/
def execRetrainingEnd (s : State) : Outc :=
  let q := s.arg.port
  let s' := s.updPort s.arg.chip q fun p =>
    if p.training ∧ ¬ p.dead then
      { p with training := false,
               wire := (tab 2 id).map fun pl => unaccepted (s.farNext s.arg.chip q pl) (p.store.getD pl []) }
    else p
  .next (s'.trained s.arg.chip)

/-- 1 ms, in cycles of the clock (R3, R97). -/
def portBound : Nat := 1100000

/-- A port that has not returned in time is reported and gives up its link; what the far end has not accepted stays in its replay
stores (R97). -/
def State.portDies (s : State) (chip q : Nat) : State :=
  let left := fun (p : Port) => (tab 2 id).map fun pl => unaccepted (s.farNext chip q pl) (p.store.getD pl [])
  let s := s.updPort chip q fun p =>
    { p with dead := true, training := false, inService := false, store := left p, wire := [[], []] }
  (s.belayEvent chip (portStop q).1 (portStop q).2 0x06 (BitVec.ofNat 64 q)).trained chip

/-- The oldest flit of a plane in a dead port's replay store leaves by the direction's other port, when that takes one. -/
def State.moveStored (s : State) (chip q pl : Nat) : State :=
  match ((s.chip chip).port q).store.getD pl [] with
  | [] => s
  | x :: rest =>
    if ((s.chip chip).port (opposite q)).open pl then
      (s.updPort chip q fun p => { p with store := p.store.set pl rest }).updPort chip (opposite q) fun o => o.send pl x.2
    else s

/-- PORT_OUT_OF_SERVICE: a port that does not return within 1 ms is reported, and what its replay stores hold leaves by the
direction's other port as that has room (R95, R97). -/
def execPortOutOfService (s : State) : Outc :=
  let q := s.arg.port
  let chip := s.arg.chip
  let p := (s.chip chip).port q
  .next (
    if p.dead then (s.moveStored chip q 0).moveStored chip q 1
    else if (p.inService && !p.training) || decide (s.now < p.since + portBound) then s
    else s.portDies chip q)

end Sys2Proof.Machine
end

