-- ==== Sys2Proof/Machine/Multicast.lean ====
section
/-! DEFINITION. Multicast at its root, its members and its home slice (R109 to R112, R360, R361, R487 to R489):
MULTICAST_STORE_LANDING, COMBINED_ACK, MCLD_REQUEST, MCLD_LINE_SEND, MCLD_LINE_ARRIVAL, MERGE_REPORT. -/

namespace Sys2Proof.Machine

/-! ### Combining (R110) -/

/-- Whether a unit is the root router of a group for a virtual device (R111). -/
def State.isRoot (s : State) (g vd : Nat) (u : UnitId) : Bool :=
  let w := ((s.treeEntry u.chip g).getD 0 0).toNat
  s.treeValid u.chip g vd && fld w 44 3 == 7 && fld w 34 10 == u.node && u.unit == 13

/-- A merge entry changed. -/
def State.updMerge (s : State) (u : UnitId) (g : Nat) (f : Merge → Merge) : State :=
  s.updClu (nodeKey u.chip u.node) fun c => { c with merges := c.merges.map fun (m : Merge) => if m.group = g then f m else m }

/-- The core to which an answer's line went as a unicast; none for a line that went along the tree. -/
def UnitId.unicast (u : UnitId) : Option UnitId := if u.unit < 9 then some u else none

/-- COMBINED_ACK: a response of a copy or member at its router, or the answer to a line at its slice (R110, R488), which keeps a
line in its send buffer until then and sends a refused one from there again (R72, R111). -/
def execCombinedAck (s : State) : Outc :=
  .next (match s.arrivedPkt with
    | some p => match p.payload with
      | .comb g line pos neg first _ =>
        let s := s.dropPkt p.id
        if p.dst.unit = 10 then
          s.updMerge p.dst g fun m => { m with buf := m.buf.filter fun x => !(x.line == line && x.to_ == p.src.unicast),
                                               pos := m.pos + pos, neg := m.neg + neg,
                                               first := if m.first = 0 then first else m.first }
        else s.combTake p.dst g line p.vd pos neg first
      | .lineBusy g line =>
        (s.dropPkt p.id).updMerge p.dst g fun m => { m with buf := m.buf.map fun x =>
          if x.line = line ∧ x.to_ = p.src.unicast then { x with again := some (s.backoffEnd x.nacks), nacks := x.nacks + 1 } else x }
      | _ => s
    | none => s)

/-- A multicast packet enters its tree at the root, with the AGE it has come to (R108, R111). -/
def State.enterTree (s : State) (p : Packet) (u : UnitId) (up : UnitId × Bool) (root : Option (Nat × UnitId)) : State :=
  s.replicate p u.chip u.node u.node p.age up root

/-! ### MCST (R109, R360) -/

/-- A member's response, to the router of its node. -/
def State.memberSays (s : State) (p : Packet) (g line pos neg st : Nat) : State :=
  let r : UnitId := ⟨p.dst.chip, p.dst.node, 13⟩
  let first := if neg = 0 then 0 else negative st p.dst.chip p.dst.node p.dst.unit
  (s.dropPkt p.id).sendPkt p.dst r p.vd .control 0 (.comb g line pos neg first r)

/-- Who walks for a landing: its node's copy unit. -/
def Packet.lander (p : Packet) : Walker := .landing (nodeKey p.dst.chip p.dst.node) p.id

/-- The translation of a line at a member: what its walk decided, else through the copy unit's TLB (R109). -/
def State.landingWay (s : State) (p : Packet) (va : Nat) : Direct :=
  match s.direct p.lander p.vd va permW with
  | .ask => (s.xlate (s.clu (nodeKey p.dst.chip p.dst.node)).tlb [] p.vd va permW).direct
  | way => way

/-- The input of a port by which a landing comes: the cluster's crossbar (R51). -/
def lineInput (pa : Nat) : Nat := if (ownerOf pa).unit < 9 then 3 else 0

/-- The words of a line. -/
def lineWords (d : List Byte) : List Word := tab 32 fun i => BitVec.ofNat 64 (leNat ((d.drop (8 * i)).take 8))

/-- A multicast store performs at a member, once no waiter of its words is owed: the line is written, or nothing is (R71, R109). -/
def State.storeLine (s : State) (p : Packet) (m : Mcast) (data : List Byte) (line : Nat) : State :=
  let va := m.rb.toNat % 2 ^ 57
  if s.draining p.vd p.src p.dst then s.memberSays p m.group line 0 1 5
  else match s.landingWay p va with
    | .ask => s.askDirect p.lander p.vd va
    | .denied _ => (s.untold p.lander).memberSays p m.group line 0 1 2
    | .lost c => (s.untold p.lander).memberSays p m.group line 0 1 (lostStatus c)
    | .ok pa mt =>
      let node := nodeKey p.dst.chip p.dst.node
      let t := (s.untold p.lander).updClu node fun c => c.tlbHit (tlbFind c.tlb p.vd va)
      if !s.populated pa then t.memberSays p m.group line 0 1 3
      else if s.pcFailed pa then t.memberSays p m.group line 0 1 4
      else if s.owed pa 256 || s.memWaits p.vd pa || s.copying (ownerOf pa) ||
          !s.unitTurn (ownerOf pa) (lineInput pa) then s
      else
        let s := t.trace { pa := pa, size := 256, cls := .store, mt := mt, vd := p.vd, src := ⟨p.dst.chip, p.dst.node, 9⟩ }
        ((((s.portServed (ownerOf pa) (lineInput pa)).lineServe p.vd pa mt).ownFrame pa p.vd).pokeRun pa mt (lineWords data) []).memberSays p m.group line 1 0 0

/-- A multicast store at the root: one multicast operation of the group is in flight at a time; another is refused with BUSY
(R111). -/
def State.storeAtRoot (s : State) (p : Packet) (m : Mcast) (data : List Byte) (op : Nat) : State :=
  let u := p.dst
  if s.draining p.vd p.src p.dst then (s.dropPkt p.id).reply p op 5 0 none
  else if !s.isRoot m.group p.vd u then
    (s.dropPkt p.id).sendPkt u p.src p.vd .control 0 (.mcDone op 0 1 (negative 6 u.chip u.node u.unit))
  else if (AMap.find? (s.clu (nodeKey u.chip u.node)).root m.group).isSome then (s.dropPkt p.id).reply p op 1 0 none
  else
    let s := (s.dropPkt p.id).updClu (nodeKey u.chip u.node) fun c => { c with root := AMap.put c.root m.group op }
    s.enterTree { p with payload := .mcData m data 0 u } u (p.src, true) (some (op, p.src))

/-- MULTICAST_STORE_LANDING: a multicast store reaches its root, or a member (R109, R111). -/
def execMulticastStoreLanding (s : State) : Outc :=
  .next (match s.arrivedPkt with
    | some p => match p.payload with
      | .mcst m data op => s.storeAtRoot p m data op
      | .mcData m data line _ => s.storeLine p m data line
      | _ => s
    | none => s)

/-! ### MCLD (R112, R361, R487 to R489) -/

/-- The request merged into an entry: it joins for the lines not yet sent, and is owed the others as unicasts (R112). -/
def Merge.join (e : Merge) (src : UnitId) (lines : List (Nat × Nat)) : Merge :=
  let new := lines.filter fun l => !(e.lines.any fun x => x.1 == l.1)
  let late := lines.filter fun l => e.sent.contains l.1
  { e with lines := e.lines ++ new, owed := e.owed ++ late.map fun l => (src, l.1) }

/-- MCLD_REQUEST: a request opens or joins its group's merge entry (R112, R361); one for lines that are not there is answered ACCESS
(R16). A request of the group for another line range waits at the slice until the entry has ended (DESIGN CHOICE, log entry 115). -/
def execMcldRequest (s : State) : Outc :=
  .next (match s.arrivedPkt with
    | some p => match p.payload with
      | .mcldReq m pa lines op =>
        let key := nodeKey p.dst.chip p.dst.node
        let ans := fun (st : Nat) => (s.dropPkt p.id).sendPkt p.dst p.src p.vd .control 0 (.mcldAnswer op st)
        if s.draining p.vd p.src p.dst then ans 5
        else if !s.treeValid p.dst.chip m.group p.vd then ans 6
        else if lines.any fun l => !s.populated l.2 then ans 3
        else match (s.clu key).merges.find? fun e => e.group == m.group with
          | some e =>
            if e.pa = pa ∧ e.vd = p.vd then (s.dropPkt p.id).updMerge p.dst m.group fun e => e.join p.src lines else s
          | none =>
            (s.dropPkt p.id).updClu key fun c =>
              let e : Merge := ⟨m.group, p.vd, pa, m.rb, lines, [], [], [], 0, 0, 0, m.mt⟩
              { c with merges := c.merges ++ [e] }
      | _ => s
    | none => s)

/-- The line of an MCLD as its slice reads it when it is sent, as a strong load of its memory type (R62, R63, R151, R361). -/
def State.readLine (s : State) (u : UnitId) (vd pa mt : Nat) : List Byte × List Nat × State :=
  let s := (s.trace { pa := pa, size := 256, cls := .load, kind := .s, mt := mt, vd := vd, src := u }).lineServe vd pa mt
  let s := (tab 32 id).foldl (fun s i => s.correct (pa + 8 * i)) s
  (s.peekBytes pa 256, (tab 32 id).filter fun i => s.isBad (pa + 8 * i), s)

/-- Where a line of a merge entry lies. -/
def Merge.lineAt (e : Merge) (line : Nat) : Nat := ((e.lines.find? fun l => l.1 == line).map Prod.snd).getD 0

/-- A line leaves the slice's send buffer, along the tree or to one core. -/
def State.sendHeld (s : State) (u : UnitId) (e : Merge) (x : SentLine) : State :=
  let pa := e.lineAt x.line
  match x.to_ with
  | some c => s.sendPkt u c e.vd .data 0 (.mcldLine e.group pa x.data x.bad x.line true u)
  | none => match s.groupRoot u.chip e.group e.vd with
    | some r => s.sendPkt u r e.vd .data 0 (.mcldLine e.group pa x.data x.bad x.line false u)
    | none => s.sendPkt u u e.vd .control 0 (.comb e.group x.line 0 1 (negative 6 u.chip u.node u.unit) u)

/-- A line is read, put into the send buffer and sent; `f` is what else its entry becomes (R487, R488). -/
def State.sendLine (s : State) (u : UnitId) (e : Merge) (line : Nat) (core : Option UnitId) (f : Merge → Merge) : State :=
  let (data, bad, s) := s.readLine u e.vd (e.lineAt line) e.mt
  let x : SentLine := { line := line, to_ := core, data := data, bad := bad }
  (s.sendHeld u e x).updMerge u e.group fun e => { f e with buf := e.buf ++ [x] }

/-- Whether a line of a merge entry waits for the waiters of its words, or at its memory controller (R71, R453, R454). -/
def State.lineWaits (s : State) (e : Merge) (line : Nat) : Bool :=
  s.owed (e.lineAt line) 256 || s.memWaits e.vd (e.lineAt line)

/-- MCLD_LINE_SEND: a refused line whose back-off is over (R72, R111); the lowest line not yet sent; then the unicast lines owed
(R112, R487), once no waiter of its words is owed (R71). -/
def execMcldLineSend (s : State) : Outc :=
  let u : UnitId := ⟨s.arg.chip, s.arg.node, 10⟩
  .next (match (s.clu (nodeKey u.chip u.node)).merges.find? fun e => e.group == s.arg.index with
    | none => s
    | some e =>
      match e.buf.find? fun x => x.again.any fun t => decide (t ≤ s.now) with
      | some x => (s.sendHeld u e x).updMerge u e.group fun e => { e with buf := e.buf.map fun y =>
          if y.line = x.line ∧ y.to_ = x.to_ then { y with again := none } else y }
      | none => match (tab 32 id).find? fun i => (e.lines.any fun l => l.1 == i) && !e.sent.contains i with
      | some line =>
        if s.lineWaits e line then s else s.sendLine u e line none fun e => { e with sent := e.sent ++ [line] }
      | none => match e.owed with
        | (c, line) :: rest =>
          if s.lineWaits e line then s else s.sendLine u e line (some c) fun e => { e with owed := rest }
        | [] => s)

/-- The mark of an MCLD in flight at its root: its home slice. -/
def mcldKey (home : UnitId) : Nat := 2 ^ 64 + nodeKey home.chip home.node

/-- A line at a core: it lands for the registration that still wants it, or is discarded (R361, R488). The answer's sums, with
the status of a negative, come with the state. -/
def State.landLine (s : State) (home : UnitId) (k g pa line : Nat) (data : List Byte) (bad : List Nat) : Nat × Nat × State :=
  match (s.core k).mclds.find? fun r => r.m.group == g && r.left.contains line && r.lines.contains (line, pa) with
  | none => (0, 0, s)
  | some r =>
    let r := { r with left := r.left.filter (· != line) }
    if bad ≠ [] then
      let n := negative 4 (keyChip k) (keyNode k) (keySlot k)
      (0, 1, s.settleMcld k { r with neg := r.neg + 1, first := if r.first = 0 then n else r.first })
    else
      let at_ := scratchPa k (r.m.rc + 256 * line)
      let s := s.trace { pa := at_, size := 256, cls := .store, vd := (s.core k).owner, src := home }
      (1, 0, (s.pokeRun at_ 2 (lineWords data) []).settleMcld k { r with pos := r.pos + 1 })

/-- MCLD_LINE_ARRIVAL: a line reaches its root, or a member (R111, R487, R488). At a core that is being copied to the spare a unicast
line is refused, and one of the tree waits (R442, log entry 126). -/
def execMcldLineArrival (s : State) : Outc :=
  .next (match s.arrivedPkt with
    | some p => match p.payload with
      | .mcldLine g pa data bad line unicast home =>
        let u := p.dst
        if u.unit = 13 then
          let key := nodeKey u.chip u.node
          let lock := AMap.find? (s.clu key).root g
          if !s.isRoot g p.vd u then
            (s.dropPkt p.id).sendPkt u home p.vd .control 0 (.comb g line 0 1 (negative 6 u.chip u.node u.unit) home)
          else if lock.isSome ∧ lock ≠ some (mcldKey home) then
            (s.dropPkt p.id).sendPkt u home p.vd .control 0 (.lineBusy g line)
          else
            let s := (s.dropPkt p.id).updClu key fun c => { c with root := AMap.put c.root g (mcldKey home) }
            s.enterTree p u (home, true) none
        else if unicast && s.copying u then (s.dropPkt p.id).sendPkt u home p.vd .control 0 (.lineBusy g line)
        else if s.landingWaits p then s
        else
          let s := if (s.landsAt p).isSome then s.portServed u p.input else s
          let (pos, neg, s) := if u.unit < 9 then s.landLine home u.core g pa line data bad else (0, 0, s)
          if unicast then
            let first := if neg = 0 then 0 else negative 4 u.chip u.node u.unit
            (s.dropPkt p.id).sendPkt u home p.vd .control 0 (.comb g line pos neg first home)
          else s.memberSays p g line pos neg 4
      | _ => s
    | none => s)

/-- MERGE_REPORT: an entry whose lines are all sent and answered ends, and member 0 is told its sums (R489). -/
def execMergeReport (s : State) : Outc :=
  let u : UnitId := ⟨s.arg.chip, s.arg.node, 10⟩
  .next (match (s.clu (nodeKey u.chip u.node)).merges.find? fun e => e.group == s.arg.index with
    | none => s
    | some e =>
      if e.buf ≠ [] ∨ e.owed ≠ [] ∨ !(e.lines.all fun l => e.sent.contains l.1) then s
      else
        let entry := s.treeEntry u.chip e.group
        let valid := s.treeValid u.chip e.group e.vd
        let s := s.updClu (nodeKey u.chip u.node) fun c => { c with merges := c.merges.filter fun (x : Merge) => x.group != e.group }
        let s := match s.groupRoot u.chip e.group e.vd with
          | some r => s.rootFree r e.group (mcldKey u)
          | none => s
        match (entryMembers entry).head? with
        | some m =>
          if valid = true ∧ m.2 < 9 then
            s.sendPkt u ⟨u.chip, m.1, m.2⟩ e.vd .control 0 (.merge 3 e.pos e.group e.neg e.first e.rb 1)
          else s
        | none => s)

end Sys2Proof.Machine
end

