-- ==== Sys2Proof/Machine/Preempt.lean ====
section
/-! DEFINITION. Time slicing, pre-emption, bivouac and the reset of a virtual device (R254 to R258, R444 to R448, R452, R461,
R462, R470): QUANTUM_EXPIRY, CONTEXT_SAVE_END, RESUME, BIVOUAC, BIVOUAC_ENTERED, WAKE_END, RESET, RESET_DRAIN_END. -/

namespace Sys2Proof.Machine

/-! ### What a virtual device holds -/

/-- The cores of a virtual device, with their numbers in it. -/
def State.vdKeys (s : State) (v : VDev) : List (Nat × Nat) := tab v.cores fun n => (n, s.vdCoreKey v n)

/-- Whether two virtual devices have a node in common, which is when they time-share a block (R450). -/
def VDev.overlaps (v w : VDev) : Bool :=
  v.chips.any fun c =>
    w.chips.contains c &&
      decide (AMap.get v.base 0 c < AMap.get w.base 0 c + 2 ^ w.plog ∧ AMap.get w.base 0 c < AMap.get v.base 0 c + 2 ^ v.plog)

/-- Whether a core, or its saved context, has a pending slot or a post to send. -/
def Core.hasWork (c : Core) : Bool :=
  (c.slots.any fun sl => sl.st == .pending) || c.ops.any fun o => o.isPost.isSome

/-- Whether a store's spill rings hold entries (R191). -/
def CairnVd.hasSpilled (c : CairnVd) : Bool := (tab 16 id).any fun k => c.spilled k != 0

/-- Whether a virtual device has something to do (R254). -/
def State.hasWork (s : State) (vd : Nat) (v : VDev) : Bool :=
  (v.queues.any fun q => decide (q.next < q.tail)) || v.launches != [] ||
    (if v.saved = [] then (s.vdKeys v).any fun n => (s.core n.2).owner == vd && (s.core n.2).hasWork
      else List.any v.saved fun (x : Nat × Core) => x.2.hasWork) ||
    (v.cairnSaved.any fun x => x.2.1 != [] || x.2.2.hasSpilled) ||
    v.nodes.any fun n => s.entries (nodeKey n.1 n.2) vd != [] || (s.cairnVd (nodeKey n.1 n.2) vd).hasSpilled

/-- Whether a virtual device is runnable: it exists and has its key on every chip it spans, and has something to do (R254, R449,
R457). -/
def State.runnable (s : State) (vd : Nat) (v : VDev) : Bool :=
  v.res == .run && v.reset == 0 && !v.dying && (v.chips.all fun c => v.created.contains c && (s.vdSlotRec vd c).keyed) && s.hasWork vd v

/-- The chip that a global address lies on. -/
def chipOf (pa : Nat) : Nat := fld pa 47 9

/-- A block of SRAM: a number that names it in the virtual device, whatever the grant map holds, its address and its size. -/
structure Sram where
  name : Nat
  base : Nat
  size : Nat
  deriving DecidableEq, Repr

/-- The memory of a virtual device's cores and granted slices (R445, R452). A core's scratchpad is named by the core's number, a
slice by its chip and node. -/
def State.vdBlocks (s : State) (vd : Nat) (v : VDev) : List Sram :=
  (s.vdKeys v).map (fun n => ⟨n.1, scratchPa n.2 0, 0x10000⟩) ++
    v.chips.flatMap fun c => (s.vdSlotRec vd c).grants.map fun n =>
      ⟨2 ^ 24 + c * 1024 + n, slicePa c (nodeDie n) (nodeInDie n) 0, 0x20000⟩

/-- A block cleared: zero with every bit empty (R69, R74). -/
def State.clearBlock (s : State) (base size : Nat) : State :=
  let inside := fun (w : Nat) => decide (base / 8 ≤ w ∧ w < (base + size) / 8)
  { s with mem := s.mem.clear base size, fe := s.fe.filter (fun w => !inside w), bad := s.bad.filter fun w => !inside w.1 }

/-! ### The steps of pre-emption (R255) -/

/-- The cairn stores of a virtual device changed. -/
def State.allCairns (s : State) (vd : Nat) (v : VDev) (f : CairnVd → CairnVd) : State :=
  v.nodes.foldl (fun s n => s.updCairn (nodeKey n.1 n.2) vd f) s

/-- Whether an operation rests at its core while nothing of its virtual device runs: a message or post that its target has refused
(R180, R353), or what stands behind one. -/
def Core.opRests (c : Core) (o : Op) : Bool :=
  match o.work, o.st with
  | .message _ _, .backoff _ => true
  | .spawn _ _, .backoff _ => true
  | .post _ _, .backoff _ => true
  | .post _ _, .held => true
  | _, .held => !c.clearToGo o
  | _, _ => false

/-- Whether the posts of a core have been sent as far as their order allows (R180, R255). -/
def Core.postsRest (c : Core) : Bool :=
  let posts := c.ops.filter fun o => o.isPost.isSome
  (tab posts.length id).all fun i => match posts[i]? with
    | some o => o.st != .held || !c.clearToGo o ||
        (posts.take i).any fun p => p.lev == o.lev && p.isPost.map Post.key == o.isPost.map Post.key
    | none => true

/-- A message or post that waits at its core or store without a sender, or an entry that waits for its presentation. -/
def Packet.parked (p : Packet) : Bool :=
  p.stage == .arrived && (match p.payload with
    | .message _ op => op == 0
    | .post _ op => op == 0
    | .entry _ _ _ => true
    | _ => false)

/-- Whether the pre-emption step under way has ended. A core that a fault or violation has stopped holds nothing up. -/
def State.stepEnds (s : State) (vd : Nat) (v : VDev) : Bool :=
  let cores := (s.vdKeys v).map fun n => s.core n.2
  match v.step with
  | 2 => cores.all fun c => c.run != .running || c.levels.all fun l => l.act.isNone
  | 3 => cores.all fun c => c.mx.stopped || (c.mx.queue == [] && c.mx.run == [])
  | 4 => cores.all fun c => c.chan.queue.all fun t => t.flight == []
  | 5 => (cores.all fun c => c.ops.all (fun o => c.opRests o) && c.postsRest) && s.pkts.all fun p => p.vd != vd || p.parked
  | _ => false

/-- The steps 2 to 5 whose end has come; a wake ends the entry into bivouac where it stands (R255, R462). -/
def State.preFuel : Nat → State → Nat → State
  | 0, s, _ => s
  | n + 1, s, vd =>
    match s.vdev? vd with
    | none => s
    | some v =>
      if v.step < 2 ∨ 5 < v.step ∨ (v.forBiv ∧ v.res ≠ .entering) ∨ !s.stepEnds vd v then s
      else
        let s := s.updVd vd fun v => { v with step := v.step + 1 }
        let s := if v.step = 5 then s.allCairns vd v fun c => { c with saving := true } else s
        State.preFuel n s vd

/-- The pre-emption of a virtual device taken as far as it goes now. -/
def State.preSteps (s : State) (vd : Nat) : State := State.preFuel 4 s vd

/-- Pre-emption begins: step 1 ends at once (R255, R199). -/
def State.stopVd (s : State) (vd : Nat) (v : VDev) (forBiv : Bool) : State :=
  let s := s.allCairns vd v fun c => { c with stopped := true }
  (s.updVd vd fun v => { v with step := 2, forBiv := forBiv }).preSteps vd

/-- QUANTUM_EXPIRY (R254): the quantum has passed and another virtual device of the block is runnable. -/
def execQuantumExpiry (s : State) : Outc :=
  let vd := s.arg.vd
  .next (match s.vdev? vd with
    | none => s
    | some v =>
      let other := List.any s.vds fun (x : Nat × VDev) => x.1 != vd && x.2.overlaps v && s.runnable x.1 x.2
      if v.running ∧ v.step = 0 ∧ v.reset = 0 ∧ v.res = .run ∧ v.since + 2 ^ v.qlog ≤ s.now ∧ other then s.stopVd vd v false
      else s)

/-! ### Step 6 and resume (R444, R445) -/

/-- The bytes of the memory that a block holds, by the block's name. -/
def State.blockBytes (s : State) (b : Sram) : List (Nat × Byte) :=
  (s.mem.filter fun c => decide (b.base ≤ c.1 ∧ c.1 < b.base + b.size)).map fun c => (b.name * 2 ^ 17 + (c.1 - b.base), c.2)

/-- Its words with a full bit, and those with an error. -/
def State.blockWords (s : State) (b : Sram) : List (Nat × Nat) :=
  let inside := fun (w : Nat) => decide (b.base / 8 ≤ w ∧ w < (b.base + b.size) / 8)
  let at_ := fun (w : Nat) => b.name * 2 ^ 17 + (8 * w - b.base)
  (s.fe.filter inside).map (fun w => (at_ w, 0)) ++
    (s.bad.filter fun w => inside w.1).map fun w => (at_ w.1, if w.2 then 2 else 1)

/-- A core's context as step 6 saves it: a parked transfer, which CPFAULT still names, retries its sector after the resume (R258, R444,
R445). -/
def Core.context (c : Core) : Core :=
  { c with chan := { c.chan with queue := c.chan.queue.map fun (t : Xfer) => { t with retry := t.parked, xl := [] } } }

/-- Whether a walk is for a virtual device's launches or cairn stores. -/
def Walker.serves (w : Walker) (vd : Nat) : Bool :=
  match w with
  | .launch v _ => v == vd
  | .cairn _ v _ => v == vd
  | _ => false

/-- The walks without those that a virtual device's copies and cairn stores wait for: their answers are discarded (R444). -/
def State.dropWaits (s : State) (vd : Nat) (keys : List Nat) : State :=
  let keep := fun (w : Walker) => match w with
    | .copyUnit _ k => !keys.contains k
    | .cairn _ v _ => v != vd
    | _ => true
  let ws := s.walks.map fun (w : Walk) => { w with who := w.who.filter keep }
  { s with walks := ws.filter fun (w : Walk) => w.who != [] }

/-- The context saved (R445): what the cores still keep to send goes with it, and the live cores hold none of it. -/
def State.saveContext (s : State) (vd : Nat) (v : VDev) : State :=
  let keys := s.vdKeys v
  let blocks := s.vdBlocks vd v
  let nodes := tab v.clusters fun i => (i, nodeKey (v.place i).1 (v.place i).2)
  let v' := { v with
    saved := keys.map (fun n => (n.1, (s.core n.2).context)),
    cairnSaved := nodes.map (fun n => (n.1, s.entries n.2 vd, s.cairnVd n.2 vd)),
    scratch := blocks.flatMap (fun b => s.blockBytes b),
    words := blocks.flatMap (fun b => s.blockWords b),
    reasms := nodes.flatMap (fun n => ((s.clu n.2).reasm.filter fun r => r.vd == vd).map fun r => (n.1, r)),
    budgets := nodes.map (fun n => (n.1, (s.clu n.2).budget)),
    running := false, step := 0, forBiv := false }
  let s := nodes.foldl (fun s n => s.updClu n.2 fun c =>
    { c with cairn := c.cairn.filter (fun e => e.vd != vd), cairnVd := AMap.del c.cairnVd vd,
             reasm := c.reasm.filter fun r => r.vd != vd }) s
  let s := keys.foldl (fun s n => s.updCore n.2 fun c => { c with ops := [] }) s
  let s := (s.updVd vd fun _ => v').dropWaits vd (keys.map Prod.snd)
  { s with told := s.told.filter fun (x : Walker × Nat × Xlate) => match x.1 with
    | .cairn _ w _ => w != vd
    | _ => true }

/-- CONTEXT_SAVE_END (R255): step 6 ends, and the virtual device no longer runs on its block. Under W0 a bivouac keeps the
context in place (R461). -/
def execContextSaveEnd (s : State) : Outc :=
  let vd := s.arg.vd
  let s := s.preSteps vd
  .next (match s.vdev? vd with
    | none => s
    | some v =>
      if v.step = 6 ∧ !(v.forBiv ∧ (v.wake = 0 ∨ v.res ≠ .entering)) then s.saveContext vd v else s)

/-- A register file of zeros where another virtual device has been (R445). -/
def Lvl.wipe (l : Lvl) : Lvl :=
  { l with x := Vector.replicate 32 0, p := Vector.replicate 8 0, fcr := 0, stallchk := 0, inlineN := 0, trapcause := 0,
           trappc := 0, trapval := 0, trapaddr := 0, rbase := 0, lcount := 0 }

/-- A core that a virtual device takes up: its saved context, of the matrix unit MXQHEAD, MXDONE and MXMODE alone, or the state of R452;
`kept` says that no other virtual device has run on it since (R445). -/
def Core.takeUp (c : Core) (saved : Option Core) (vd free : Nat) (kept : Bool) : Core :=
  let base := saved.getD (if kept then c else {})
  let m : Mx := if saved.isSome then { pushed := base.mx.pushed, retired := base.mx.retired, mode := base.mx.mode } else base.mx
  let mx := { m with acc := [], latch := [], st0 := .isOpen, st1 := .isOpen, ring := [], busy := [],
                     junk := if kept then some (free + 1) else none }
  { base with owner := vd, tlb := c.tlb, tlbUse := c.tlbUse, l1 := [], l1Use := [], port := 0, want := [], epoch := max c.epoch base.epoch + 1,
              vreg := if kept then c.vreg else [], lv := if kept then base.lv else (base.mapLvls Lvl.wipe).lv, mx := mx }

/-- A core's dispatch table as at a write of DISPBASE: empty, with the entries 0x00 to 0x1F to be read (R210, R470). -/
def Core.takeDispbase (c : Core) (v : Word) : Core :=
  { c with dispbase := v, disp := [], dispAsk := tab 32 fun i => (i, []), dispBad := [] }

/-- The operations of a resumed core that an invalidation in progress covers: they must perform before the core's cluster
acknowledges (R39, R42). -/
def State.rejoin (s : State) (k : Nat) : State :=
  let wait := fun (i : Inval) => ((s.core k).coveredOps i.vd i.page).map fun o => (k, o)
  let join := fun (i : Inval) (x : Nat × Option (List (Nat × Nat))) =>
    if x.1 = keyCluster k then (x.1, x.2.map fun l => l ++ wait i) else x
  { s with invals := s.invals.map fun (i : Inval) => { i with left := i.left.map (join i) } }

/-- A core of a virtual device taken up at a resume. -/
def State.resumeCore (s : State) (vd : Nat) (v : VDev) (n : Nat) : State :=
  let k := s.vdCoreKey v n
  let c := s.core k
  let kept := c.owner == vd
  let saved := AMap.find? v.saved n
  let s := (({ s with free := s.free + 1 }).setCore k (c.takeUp saved vd s.free kept)).rejoin k
  let s := if v.lost.contains n then s.updCore k fun c => { c with run := .lost } else s
  if saved.isNone ∧ !kept then s.updCore k fun c => c.takeDispbase (s.vdSlotRec vd (keyChip k)).dispinit
  else s

/-- Where a saved byte or word belongs: its block's present place; none for a block that the virtual device no longer holds. -/
def savedAt (blocks : List Sram) (i : Nat) : Option Nat :=
  (blocks.find? fun b => b.name == i / 2 ^ 17).map fun b => b.base + i % 2 ^ 17

/-- The saved memory written back (R53). -/
def State.restoreBlocks (s : State) (vd : Nat) (v : VDev) : State :=
  let blocks := s.vdBlocks vd v
  let s := blocks.foldl (fun s b => s.clearBlock b.base b.size) s
  let put := fun (m : Memory) (c : Nat × Byte) => match savedAt blocks c.1 with
    | some a => m.write a c.2
    | none => m
  let s := { s with mem := v.scratch.foldl put s.mem }
  v.words.foldl (fun s w => match savedAt blocks w.1, w.2 with
    | some a, 0 => s.setFull a true
    | some a, e => { s with bad := s.bad ++ [(a / 8, e == 2)] }
    | none, _ => s) s

/-- A cluster of a virtual device taken up: BUDGET of its context, the hypervisor's CAP, the governor's rotation after core 7
(R259, R260), the ports' rotations from their first inputs (R51), its reassemblies (R101), and its cairn store, whose choices start
as though L0, class 15 and core 7 had been served last (R190, R200). -/
def State.resumeCluster (s : State) (vd : Nat) (v : VDev) (i : Nat) : State :=
  let (chip, node) := v.place i
  let key := nodeKey chip node
  let cap := AMap.get (s.vdSlotRec vd chip).caps 16 (node - AMap.get v.base 0 chip)
  let budget := if v.ran then AMap.get v.budgets (s.clu key).budget i else 16
  let s := s.updClu key fun c => { c with budget := budget, cap := cap, lastMma := 7, portL := 0, portD := 0,
                                          reasm := c.reasm ++ (v.reasms.filter fun r => r.1 == i).map Prod.snd }
  let s := match v.cairnSaved.find? fun x => x.1 == i with
    | some (_, es, cv) => s.updClu key fun c => { c with cairn := c.cairn ++ es, cairnVd := AMap.put c.cairnVd vd cv }
    | none => s
  s.updCairn key vd fun c => { c with stopped := false, saving := false, lastLev := 0, lastCls := [], lastCore := 7 }

/-- A virtual device starts to run on its block, with its context restored (R254, R445, R452). -/
def State.resumeVd (s : State) (vd : Nat) (v : VDev) : State :=
  let s := if v.saved = [] ∧ v.ran then s else s.restoreBlocks vd v
  let s := (tab v.cores id).foldl (fun s n => s.resumeCore vd v n) s
  let s := (tab v.clusters id).foldl (fun s i => s.resumeCluster vd v i) s
  s.updVd vd fun v => { v with running := true, since := s.now, ran := true, step := 0, forBiv := false, saved := [],
                               cairnSaved := [], scratch := [], words := [], budgets := [], reasms := [] }

/-- Whether a virtual device could start: it is runnable, its packages are in ON, and no other runs on its block (R254). -/
def State.startable (s : State) (vd : Nat) (v : VDev) : Bool :=
  s.runnable vd v && !v.running && v.chips.all (fun c => (s.chip c).power == .on) &&
    !(List.any s.vds fun (x : Nat × VDev) => x.2.running && x.2.overlaps v)

/-- The place of a virtual device in the rotation of its block: by VDID, from the one after the last that ran there (R254, log
entry 118). -/
def State.turnAt (s : State) (v : VDev) (vd : Nat) : Nat :=
  let ran := List.filter (fun (x : Nat × VDev) => x.2.ran && x.2.overlaps v) s.vds
  let last := ran.foldl (fun (m : Option (Nat × Nat)) (x : Nat × VDev) => match m with
    | some (t, n) => if t ≤ x.2.since then some (x.2.since, x.1) else some (t, n)
    | none => some (x.2.since, x.1)) none
  match last with
  | some (_, n) => (vd + 65536 - n - 1) % 65536
  | none => vd

/-- RESUME: of the virtual devices that could start on a block where none runs, the one whose turn it is (R254, R445). -/
def execResume (s : State) : Outc :=
  let vd := s.arg.vd
  .next (match s.vdev? vd with
    | none => s
    | some v =>
      let sooner := List.any s.vds fun (x : Nat × VDev) =>
        x.1 != vd && x.2.overlaps v && s.startable x.1 x.2 && decide (s.turnAt v x.1 < s.turnAt v vd)
      if s.startable vd v ∧ !sooner then s.resumeVd vd v else s)

/-! ### Bivouac (R461, R462) -/

/-- The slot's virtual device on a chip. -/
def State.slotVd (s : State) (chip slot : Nat) : Nat := (AMap.get (s.chip chip).slots {} slot).vd

/-- A slot of a chip changed. -/
def State.updSlot (s : State) (chip slot : Nat) (f : VdSlot → VdSlot) : State :=
  s.updChip chip fun c => { c with slots := AMap.put c.slots slot (f (AMap.get c.slots {} slot)) }

/-- A VDCMD refused (R470). -/
def State.refuseCmd (s : State) (chip slot : Nat) : State := s.updSlot chip slot fun x => { x with refused := true }
/-- A VDCMD accepted (R470). -/
def State.acceptCmd (s : State) (chip slot : Nat) : State := s.updSlot chip slot fun x => { x with refused := false }

/-- BIVOUAC: entry begins, only while RES is RUN, and the wake register is written 0 (R461, R462, R470). -/
def State.bivouac (s : State) (chip slot : Nat) : State :=
  let vd := s.slotVd chip slot
  match s.vdev? vd with
  | none => s.refuseCmd chip slot
  | some v =>
    if v.res ≠ .run then s.refuseCmd chip slot
    else
      let s := (s.acceptCmd chip slot).poke v.wakeAddr 8 0 0
      let s := s.updVd vd fun v => { v with res := .entering }
      if v.running ∧ v.step = 0 then s.stopVd vd v true
      else s.updVd vd fun v => { v with forBiv := true }

/-- BIVOUAC (R461). -/
def execVdBivouac (s : State) : Outc := .next (s.bivouac s.arg.chip s.arg.index)

/-- BIVOUAC_ENTERED: the last entry step has ended (R461). -/
def execBivouacEntered (s : State) : Outc :=
  let vd := s.arg.vd
  let s := s.preSteps vd
  .next (match s.vdev? vd with
    | none => s
    | some v =>
      if v.res = .entering ∧ (!v.running ∨ (v.step = 6 ∧ v.wake = 0)) then
        s.updVd vd fun v => { v with res := .bivouac, running := false, step := 0, forBiv := false }
      else s)

/-- WAKE_END: what the entry steps changed is restored, and the virtual device is runnable (R462). -/
def execWakeEnd (s : State) : Outc :=
  let vd := s.arg.vd
  .next (match s.vdev? vd with
    | none => s
    | some v =>
      if v.res ≠ .waking then s
      else
        let s := s.updVd vd fun v => { v with res := .run, step := 0, forBiv := false }
        if v.running then s.allCairns vd v fun c => { c with stopped := false, saving := false } else s)

/-! ### Reset (R446 to R448, R201) -/

/-- The distance of two positions on a ring of 8 chips. -/
def ringDist (a b : Nat) : Nat := min ((a + 8 - b) % 8) ((b + 8 - a) % 8)
/-- The scale-up links between two chips (R80). -/
def chipDist (a b : Nat) : Nat := ringDist (a % 8) (b % 8) + ringDist (a / 8 % 8) (b / 8 % 8) + ringDist (a / 64) (b / 64)
/-- H of R446. -/
def VDev.span (v : VDev) : Nat := v.chips.foldl (fun m a => v.chips.foldl (fun m b => max m (chipDist a b)) m) 0

/-- A core whose activations have ended, with its slots, inbox buffers and borrowed sets free; what it had issued still performs
(R153, R442). -/
def Core.cleanse (c : Core) : Core :=
  let c := (((c.endAct 0).endAct 1).endAct 2).endAct 3
  { c with slots := List.replicate 16 {}, tagPend := [], takes := [] }

/-- A matrix unit without commands, its latches OPEN. -/
def Mx.emptied (m : Mx) : Mx :=
  { m with queue := [], run := [], retired := m.pushed, ring := [], busy := [], st0 := .isOpen, st1 := .isOpen, stopped := false }

/-- A rope slot as after its last use: free, with the next EPOCH (R124). -/
def Rope.purged (r : Rope) : Rope :=
  { r with epoch := r.epoch + 1, issued := 0, preds := [], adopt := [], wrote := [], dropped := true }

/-- A core of the reset scope stopped and purged: activations end, and slots, trap records, posts, ropes, stores, commands and
copies are gone (R446). -/
def Core.purge (c : Core) : Core :=
  let c := c.cleanse
  { c with tagBusy := [], ops := [], colls := [], ropes := c.ropes.map (fun (r : Nat × Rope) => (r.1, r.2.purged)),
           chan := {}, mx := c.mx.emptied, mclds := [], mcOut := [], l1 := [], l1Use := [], epoch := c.epoch + 1 }

/-- A core outside the scope, or its saved context: its posts and claimed events are purged (R201), and the messages that it still
sends again are given up (R353). -/
def Core.purgePosts (c : Core) : Core :=
  { c with ops := c.ops.filter (fun o => o.isPost.isNone && !o.resending),
           slots := c.slots.map fun sl => if (sl.st == .pending || sl.st == .reserved) && isEventType sl.msg.ty then {} else sl }

/-- A core outside the scope so purged. A level that waits for a post takes a group abort. -/
def State.purgePosts (s : State) (k : Nat) : State :=
  let posts := ((s.core k).ops.filter fun o => o.isPost.isSome).map Op.id
  let s := s.updCore k Core.purgePosts
  ([0, 1, 2, 3] : List Level).foldl (fun s l => match (s.lvl k l).wait with
    | .evposts op _ => if posts.contains op then s.raiseAt k l Cause.groupAbort (s.lvl k l).ipc (s.lvl k l).pc 0 0 false else s
    | _ => s) s

/-- The messages of a virtual device whose reassembly slots at a node are purged go with them; the source, where it survives, is told to
send its message again (R100, R446, log entry 130). -/
def State.purgeReasm (s : State) (vd node : Nat) (scope : List Nat) : State :=
  let rs := (s.clu node).reasm.filter fun r => r.vd == vd
  rs.foldl (fun s r =>
    let mine := fun (p : Packet) => p.src == r.src && p.tag == r.tag && p.last != 0 && nodeKey p.dst.chip p.dst.node == node
    match s.pkts.find? mine with
    | none => s
    | some p =>
      let s := { s with pkts := s.pkts.filter fun q => q.id != p.id }
      if scope.contains r.src.chip then s else s.sendPkt p.dst p.src vd .control 0 (.nack p.tag false)) s

/-- The groups whose entries on a chip are a virtual device's. -/
def Chip.groupsOf (c : Chip) (vd : Nat) : List Nat :=
  ((List.filter (fun (g : Nat × List Word) => fld (g.2.getD 0 0).toNat 47 16 == vd) c.groups) ++
    List.filter (fun (g : Nat × List Word) => fld (g.2.getD 0 0).toNat 47 16 == vd) c.kept).map Prod.fst

/-- Steps 1 and 2 over one chip that the virtual device spans: multicast state, the root's hold of its groups among it, cairn entries,
reassemblies and waiting accesses (R111, R446). -/
def State.purgeChip (s : State) (vd chip : Nat) (scope : List Nat) : State :=
  let own := (s.chip chip).groupsOf vd
  let nodes := List.filterMap (fun (x : Nat × Cluster) => if x.1 / 1024 = chip then some x.1 else none) s.clus
  let s := nodes.foldl (fun s n => s.purgeReasm vd n scope) s
  let s := s.updChip chip fun c =>
    { c with groups := List.filter (fun (g : Nat × List Word) => fld (g.2.getD 0 0).toNat 47 16 != vd) c.groups,
             kept := List.filter (fun (g : Nat × List Word) => fld (g.2.getD 0 0).toNat 47 16 != vd) c.kept }
  { s with clus := s.clus.map fun (x : Nat × Cluster) =>
    if x.1 / 1024 ≠ chip then x
    else
      let c := x.2
      let mine := own ++ ((c.combs.filter fun r => r.vd == vd).map Comb.group) ++ (c.merges.filter fun m => m.vd == vd).map Merge.group
      (x.1, { c with combs := c.combs.filter (fun r => r.vd != vd), merges := c.merges.filter (fun m => m.vd != vd),
                     root := List.filter (fun (r : Nat × Nat) => !mine.contains r.1) c.root,
                     cairn := c.cairn.filter (fun e => e.vd != vd), cairnVd := AMap.del c.cairnVd vd,
                     reasm := c.reasm.filter (fun r => r.vd != vd),
                     fwrites := c.fwrites.filter fun (w : (UnitId × Nat × Nat) × Nat) => w.1.2.1 != vd }) }

/-- Waiting accesses of the scope, or at owners in it, leave the retry lists; a survivor's is answered MEMBER_RESET. -/
def State.purgeRetry (s : State) (vd : Nat) (scope : List Nat) : State :=
  let hit := fun (w : Waiter) => w.acc.vd == vd && (scope.contains w.owner.chip || scope.contains w.acc.src.chip)
  let gone := s.retry.filter hit
  let s := { s with retry := s.retry.filter fun w => !hit w }
  gone.foldl (fun s w => if scope.contains w.acc.src.chip then s
    else s.sendPkt w.owner w.acc.src vd .control 0 (.resp w.op 5 0 none)) s

/-- The group aborts of a reset: for each group with a member in the scope, each surviving core that has a member of it (R447). -/
def VDev.abortsOf (v : VDev) (scope : List Nat) : List (Nat × Nat) :=
  v.groups.flatMap fun (x : Nat × Group) =>
    let gone := fun (m : Nat × Nat) => scope.contains (v.place (m.1 / 8)).1
    let all := x.2.members ++ x.2.joiners
    if all.any gone then (((all.filter fun m => !gone m).map Prod.fst).eraseDups).map fun n => (n, x.1) else []

/-- The cores that a virtual device owns, a repaired slot that still drains among them. -/
def State.ownedKeys (s : State) (vd : Nat) : List Nat :=
  List.filterMap (fun (x : Nat × Core) => if x.2.owner = vd then some x.1 else none) s.cores

/-- The fault record of a launch that a reset ends. -/
def resetRecord (k : Nat) : List Word := [faultWord0 k 0 0 (keySlot k) Cause.groupAbort false, 0, 0, 0]

/-- A virtual device's reset on a set of chips: steps 1 and 2, and the drain begins (R446). -/
def State.resetVd (s : State) (vd : Nat) (v : VDev) (scope : List Nat) : State :=
  let keys := s.vdKeys v
  let active := v.launches
  let rec_ := resetRecord (s.vdCoreKey v 0)
  let s := (s.ownedKeys vd).foldl (fun s k => if scope.contains (keyChip k) then s.updCore k Core.purge else s.purgePosts k) s
  let s := v.chips.foldl (fun s c => s.purgeChip vd c scope) s
  let s := (s.purgeRetry vd scope).dropWaits vd ((keys.map Prod.snd).filter fun k => scope.contains (keyChip k))
  let s := s.updVd vd fun v => { v with
    launches := v.launches.map (fun j => { j with fault := some rec_, count := max j.count 1 }),
    saved := v.saved.map (fun (x : Nat × Core) => if scope.contains (v.place (x.1 / 8)).1 then (x.1, x.2.purge) else (x.1, x.2.purgePosts)),
    cairnSaved := [], reasms := [], step := 0, forBiv := false, reset := 3, drainEnd := s.now + 4096 + 1024 * v.span,
    drainMark := s.nextId, aborts := v.abortsOf scope, scope := scope,
    enqueueWait := v.enqueueWait.filter fun e => e.host.isSome || !scope.contains (keyChip e.core) }
  active.foldl (fun s j => s.completeLaunch vd j.queue j.idx j.id 0x02 (some rec_) (max j.count 1)) s

/-- RESET over the reset-scope map of the slot (R446, R470); an empty scope resets nothing (log entry 52). One during a reset begins
it anew over both scopes (log entry 52). -/
def State.vdReset (s : State) (chip slot : Nat) : State :=
  let vd := s.slotVd chip slot
  match s.vdev? vd with
  | none => s.refuseCmd chip slot
  | some v =>
    let map := (AMap.get (s.chip chip).slots {} slot).scope
    let s := s.acceptCmd chip slot
    if v.chips.any map.contains then s.resetVd vd v (v.chips.filter fun c => map.contains c || v.scope.contains c) else s

/-- RESET (R446). -/
def execVdReset (s : State) : Outc := .next (s.vdReset s.arg.chip s.arg.index)

/-- A message of type 0x03 from the device to a core. -/
def State.abortMsg (s : State) (vd k x10 : Nat) : State :=
  s.sendPkt (coreUnit k) (coreUnit k) vd .control 0
    (.message { ty := 3, args := [BitVec.ofNat 64 x10, 5, 0, 0], remote := false } 0)

/-- Step 4 for a group: its barrier in progress completes with MEMBER_RESET, and the members of the scope leave (R228, R447). -/
def State.resetGroup (s : State) (vd : Nat) (v : VDev) (scope : List Nat) (g : Nat) : State :=
  let grp := AMap.get v.groups {} g
  let gone := fun (m : Nat × Nat) => scope.contains (v.place (m.1 / 8)).1
  let s := if grp.arrived = [] then s
    else (grp.arrived.filter fun m => !gone m).foldl (fun s m => s.gbarResume v 5 m) s
  let grp := if grp.arrived = [] then grp else grp.completed
  let keep := fun (l : List (Nat × Nat)) => l.filter fun m => !gone m
  (s.setGroup vd g { grp with members := keep grp.members, joiners := keep grp.joiners, arrived := keep grp.arrived,
                              waiting := keep grp.waiting, leavers := keep grp.leavers,
                              owner := grp.owner.filter fun (o : (Nat × Nat) × Nat) => !gone o.1 }).barrier vd g

/-- The memberships of the launches that the reset has completed end, each as a GLEAVE (R228). -/
def State.leaveEnded (s : State) (vd : Nat) : State :=
  match s.vdev? vd with
  | none => s
  | some v =>
    let ids := ((v.groups.flatMap fun (g : Nat × Group) => g.2.owner.map Prod.snd).eraseDups).filter fun id =>
      id != 0 && !(v.launches.any fun j => j.id == id)
    ids.foldl (fun s id => s.leaveLaunch vd id) s

/-- Whether a level waits under R111 to issue a multicast of a group: an MCLD or MCST that did not issue. -/
def Lvl.wantsMcast (l : Lvl) (g : Nat) : Bool :=
  l.again && fld l.word 4 6 == 0x1B && fld l.word 25 7 != 2 && (l.rx (BitVec.ofNat 5 (fld l.word 15 5))).toNat % 1024 == g

/-- Step 4 for a surviving core whose multicast was purged: it is told, and an instruction that waits for that multicast raises
GROUP_ABORT (R447, R448). -/
def State.resetMcast (s : State) (vd k : Nat) : State :=
  (s.core k).mcOut.foldl (fun s g =>
    let s := s.updCore k fun c =>
      let ids := (c.ops.filter fun o => match o.work with
        | .mcst m _ _ => m.group == g
        | .mcld m _ _ => m.group == g
        | _ => false).map Op.id
      { c with mcOut := c.mcOut.filter (· != g), mclds := c.mclds.filter (fun (r : McldReg) => r.m.group != g),
               ops := c.ops.filter fun o => !ids.contains o.id }
    let s := ([0, 1, 2, 3] : List Level).foldl (fun s l =>
      let x := s.lvl k l
      if x.act.isSome && x.wantsMcast g then
        s.raiseAt k l Cause.groupAbort x.pc (x.pc + 4) (BitVec.ofNat 64 (0x10000 + g)) 0 false
      else s) s
    s.abortMsg vd k (0x10000 + g)) s

/-- The L2 lines of a virtual device's frames, wherever these lie, discarded without write-back: what the media hold shows again
(R74). Whether L2 had written a line back before is the device's choice (R62). -/
def State.discardLines (s : State) (vd : Nat) : State :=
  let mine := fun (line : Nat) =>
    AMap.find? (s.chip (chipOf (line * 256))).frames (line * 256 % 2 ^ 47 / 2 ^ 16) == some vd
  let hit := s.media.filter fun m => mine m.line
  let s := { s with media := s.media.filter (fun m => !mine m.line), l2 := s.l2.filter fun l => !mine l }
  hit.foldl (fun s m =>
    let (back, s) := s.freeBool
    if back then s
    else
      { s with mem := (s.mem.clear (m.line * 256) 256).writeBytes (m.line * 256) m.data,
               fe := m.fe.foldl (fun l w => insertNat w l) (s.fe.filter fun w => w / 32 != m.line) }) s

/-- Whether another virtual device has taken up a block of SRAM since: its core is another's, or one that runs is granted the
slice. Nothing of the first is left there. -/
def State.takenUp (s : State) (vd : Nat) (v : VDev) (b : Sram) : Bool :=
  if b.name < 2 ^ 24 then (s.core (s.vdCoreKey v b.name)).owner != vd
  else List.any s.vds fun (x : Nat × VDev) =>
    x.1 != vd && x.2.running && x.2.chips.contains (b.name / 1024 % 512) &&
      (s.vdSlotRec x.1 (b.name / 1024 % 512)).grants.contains (b.name % 1024)

/-- Step 5: the SRAM that a virtual device held on the chips of the scope reads zero with every bit empty (R74). -/
def State.clearSram (s : State) (vd : Nat) (v : VDev) (scope : List Nat) : State :=
  let blocks := (s.vdBlocks vd v).filter fun b => !s.takenUp vd v b && scope.contains (chipOf b.base)
  let s := blocks.foldl (fun s b => s.clearBlock b.base b.size) s
  let s := (s.vdKeys v).foldl (fun s n =>
    if scope.contains (keyChip n.2) ∧ (s.core n.2).owner = vd then
      s.updCore n.2 fun c => { c.l1Empty with lanes := [], lanesBad := [], run := if c.run = .lost then .lost else .running }
    else s) s
  s.discardLines vd

/-- Frames of a package taken back from a virtual device: marked for clearing, line by line, and owned by none (R75, R459). -/
def State.takeFrames (s : State) (chip vd : Nat) (which : Nat → Bool) : State :=
  let hit := fun (f : Nat × Nat) => f.2 == vd && which f.1
  let mine := (List.filter hit (s.chip chip).frames).map Prod.fst
  let lines := mine.flatMap fun f => tab 256 fun i => (chip * 2 ^ 47 + f * 2 ^ 16) / 256 + i
  let s := { s with clear := s.clear.filter (fun l => !lines.contains l) ++ lines, l2 := s.l2.filter (fun l => !lines.contains l),
                    media := s.media.filter fun m => !lines.contains m.line }
  s.updChip chip fun c => { c with frames := List.filter (fun (f : Nat × Nat) => !hit f) c.frames }

/-- The saved memory of a virtual device without what the scope held. -/
def State.dropSaved (s : State) (vd : Nat) (v : VDev) (scope : List Nat) : State :=
  let blocks := s.vdBlocks vd v
  let keep := fun (i : Nat) => !(match savedAt blocks i with
    | some a => scope.contains (chipOf a)
    | none => true)
  s.updVd vd fun v => { v with scratch := v.scratch.filter (fun c => keep c.1), words := v.words.filter fun c => keep c.1,
                               saved := v.saved.map fun (x : Nat × Core) =>
                                 if scope.contains (v.place (x.1 / 8)).1 then (x.1, { x.2 with lanes := [], lanesBad := [] }) else x }

/-- Whether the drain of a reset is over: its cycles have passed, and nothing that was on its way to or from the scope when it
began is left (R91, R446). -/
def State.drained (s : State) (vd : Nat) (v : VDev) : Bool :=
  decide (v.drainEnd ≤ s.now) && s.pkts.all fun p =>
    p.vd != vd || decide (v.drainMark ≤ p.id) || !(v.scope.contains p.src.chip || v.scope.contains p.dst.chip)

/-- RESET_DRAIN_END: the drain ends, and the collectives and the clearing follow (R446, R447). The event names the frames that the
hypervisor takes back, each as chip × 2^31 + frame (R75, log entry 119). -/
def execResetDrainEnd (s : State) : Outc :=
  let vd := s.arg.vd
  .next (match s.vdev? vd with
    | none => s
    | some v =>
      if v.reset ≠ 3 ∨ !s.drained vd v then s
      else
        let s := v.groups.foldl (fun s (x : Nat × Group) => s.resetGroup vd v v.scope x.1) s
        let s := (s.vdKeys v).foldl (fun s n =>
          if (s.core n.2).owner = vd ∧ ¬ v.scope.contains (keyChip n.2) then s.resetMcast vd n.2 else s) s
        let s := v.aborts.foldl (fun s (a : Nat × Nat) => s.abortMsg vd (s.vdCoreKey v a.1) a.2) s
        let s := ((s.leaveEnded vd).clearSram vd v v.scope).dropSaved vd v v.scope
        let frames := s.arg.words.map BitVec.toNat
        let s := ((frames.map fun f => f / 2 ^ 31 % 512).eraseDups).foldl (fun s c =>
          s.takeFrames c vd fun f => frames.contains (c * 2 ^ 31 + f)) s
        s.updVd vd fun v => { v with reset := 0, aborts := [], scope := [], frozen := v.frozen.filter fun f => !v.scope.contains (keyChip f.1) })

end Sys2Proof.Machine
end

