-- ==== Sys2Proof/Machine/Partition.lean ====
section
/-! DEFINITION. The buddy tree of a chip and the life of a virtual device (R449 to R452, R459, R468): SPLIT, MERGE, CREATE,
DESTROY, carried out from the head of PARTCMD's queue. -/

namespace Sys2Proof.Machine

/-- A block of the tree: the number that stands for its level and first node. -/
def blockKey (log base : Nat) : Nat := log * 1024 + base

/-- A partition command (R468). -/
structure PartCmd where
  cmd  : Nat
  base : Nat
  log  : Nat
  slot : Nat
  deriving DecidableEq, Repr

/-- The fields of PARTCMD. -/
def partCmd (w : Word) : PartCmd := ⟨fld w.toNat 60 4, fld w.toNat 50 10, fld w.toNat 46 4, fld w.toNat 32 14⟩

/-- The command at the head of a chip's queue finished: carried out, or refused (R468). -/
def State.partEnd (s : State) (chip : Nat) (refused : Bool) : State :=
  s.updChip chip fun c => { c with partq := c.partq.tail, partRef := refused, partDone := (c.partDone + 1) % 2 ^ 32 }

/-- Whether a command's LOG and BASE name a block, and its SLOT is zero where it has none (R468). -/
def PartCmd.ok (p : PartCmd) : Bool := decide (p.log ≤ 10) && p.base % 2 ^ p.log == 0 && (decide (3 ≤ p.cmd) || p.slot == 0)

/-- The next partition command of a chip, when it is of the kind `cmd`. -/
def State.partHead (s : State) (chip cmd : Nat) : Option PartCmd :=
  match (s.chip chip).partq with
  | w :: _ => if (partCmd w).cmd = cmd then some (partCmd w) else none
  | [] => none

/-- The next partition command of a chip, of the kind `cmd`, carried out by `f`, or refused where it names no block or `f` gives
nothing (R449, R468). -/
def State.partRun (s : State) (cmd : Nat) (f : Nat → PartCmd → Option State) : Outc :=
  let chip := s.arg.chip
  .next (match s.partHead chip cmd with
    | none => s
    | some p => match (if p.ok then f chip p else none) with
      | some t => t.partEnd chip false
      | none => s.partEnd chip true)

/-- SPLIT: a free block becomes split, its halves free (R449). -/
def execPartSplit (s : State) : Outc :=
  s.partRun 1 fun chip p =>
    if AMap.find? (s.chip chip).blocks (blockKey p.log p.base) = some .free ∧ 1 ≤ p.log then
      some (s.updChip chip fun c =>
        let b := AMap.put c.blocks (blockKey p.log p.base) .split
        let b := AMap.put b (blockKey (p.log - 1) p.base) .free
        { c with blocks := AMap.put b (blockKey (p.log - 1) (p.base + 2 ^ (p.log - 1))) .free })
    else none

/-- MERGE: a split block whose halves are free becomes free (R449). -/
def execPartMerge (s : State) : Outc :=
  s.partRun 2 fun chip p =>
    let lo := blockKey (p.log - 1) p.base
    let hi := blockKey (p.log - 1) (p.base + 2 ^ (p.log - 1))
    let b := (s.chip chip).blocks
    if AMap.find? b (blockKey p.log p.base) = some .split ∧ AMap.find? b lo = some .free ∧ AMap.find? b hi = some .free then
      some (s.updChip chip fun c =>
        { c with blocks := AMap.put (AMap.del (AMap.del c.blocks lo) hi) (blockKey p.log p.base) .free })
    else none

/-! ### CREATE (R449 to R452) -/

/-- The virtual device that a creation descriptor describes, on a chip of its chip list. -/
def descVdev (d : List Word) (chips : List Nat) : VDev :=
  let f := fun i lo n => fld (d.getD i 0).toNat lo n
  { chips := chips, slot := [], base := [], plog := f 0 34 4, wake := f 0 32 2, floor := f 0 24 8, limit := f 0 0 24,
    savebase := f 1 20 36 * 2 ^ 20, wakeAddr := f 2 3 53 * 8, budget := f 3 44 20, qlog := f 3 39 5 }

/-- VDID and PBASE of a descriptor. -/
def descVd (d : List Word) : Nat := fld (d.getD 0 0).toNat 48 16
def descBase (d : List Word) : Nat := fld (d.getD 0 0).toNat 38 10

/-- Whether a descriptor keeps the limits of R451. The whole save area, 1 MiB per cluster, lies in local HBM (the chip bits of SAVEBASE
are the same in the descriptors of every chip, so they name none), WAKEADDR in HBM or the second tier. -/
def descOk (d : List Word) : Bool :=
  let f := fun i lo n => fld (d.getD i 0).toNat lo n
  let v := descVdev d []
  descVd d != 0 && decide (v.plog ≤ 10) && descBase d % 2 ^ v.plog == 0 && v.wake != 3 && decide (1 ≤ v.limit ∧ v.limit ≤ 0x800000) &&
    f 1 56 8 == 0 && f 1 0 20 == 0 && f 2 56 8 == 0 && f 2 0 3 == 0 && f 3 0 39 == 0 &&
    decide (16 ≤ v.qlog ∧ v.qlog ≤ 30) && mappedPa v.wakeAddr &&
    decide (v.savebase % 2 ^ 47 + 2 ^ v.plog * 2 ^ 20 ≤ 0x008000000000)

/-- The chip list of a slot: the halfwords up to the first 0xFFFF (R469). -/
def VdSlot.chipList (x : VdSlot) : List Nat := (x.chips.takeWhile fun c => c != 0xFFFF).map fun c => c % 512

/-- The virtual devices on a block of a chip. -/
def State.onBlock (s : State) (chip base log : Nat) : List (Nat × VDev) :=
  List.filter (fun (x : Nat × VDev) => x.2.created.contains chip && x.2.plog == log && AMap.get x.2.base 0 chip == base) s.vds

/-- Whether the floors of the virtual devices at a block's nodes leave room for one more (R99, R451). -/
def State.floorFits (s : State) (chip base log floor : Nat) : Bool :=
  decide (((s.onBlock chip base log).map fun x => x.2.floor).foldl (· + ·) floor ≤ 224)

/-- Whether the descriptors of one virtual device agree but for PBASE, and its chip lists (R449, R451). -/
def VDev.sameAs (v w : VDev) : Bool :=
  v.chips == w.chips && v.plog == w.plog && v.wake == w.wake && v.floor == w.floor && v.limit == w.limit && v.savebase == w.savebase &&
    v.wakeAddr == w.wakeAddr && v.budget == w.budget && v.qlog == w.qlog

/-- Whether CREATE is carried out (R449 to R451). -/
def State.createOk (s : State) (chip : Nat) (p : PartCmd) : Bool :=
  let x := AMap.get (s.chip chip).slots {} p.slot
  let d := x.desc
  let w := descVdev d x.chipList
  let b := AMap.find? (s.chip chip).blocks (blockKey p.log p.base)
  let others := s.onBlock chip p.base p.log
  (b == some .free || b == some .assigned) && x.vd == 0 && descOk d && w.plog == p.log && descBase d == p.base &&
    w.chips.contains chip && w.chips.eraseDups == w.chips && s.floorFits chip p.base p.log w.floor && decide (others.length < 16) &&
    !(others.any fun o => o.2.wake == 0) && (w.wake != 0 || others == []) &&
    (match s.vdev? (descVd d) with
     | some v => v.sameAs w && !v.created.contains chip
     | none => true)

/-- CREATE: the block becomes assigned and the virtual device exists on the chip (R449, R452). Its grant map holds the slices of
its own clusters (R20). -/
def State.create (s : State) (chip : Nat) (p : PartCmd) : State :=
  let x := AMap.get (s.chip chip).slots {} p.slot
  let vd := descVd x.desc
  let v := (s.vdev? vd).getD (descVdev x.desc x.chipList)
  let v := { v with slot := AMap.put v.slot chip p.slot, base := AMap.put v.base chip p.base, created := insertNat chip v.created }
  let s := { s with vds := AMap.put s.vds vd v }
  let s := s.updChip chip fun c => { c with blocks := AMap.put c.blocks (blockKey p.log p.base) .assigned }
  s.updSlot chip p.slot fun x => { x with vd := vd, grants := tab (2 ^ p.log) fun i => p.base + i, keyed := false, refused := false,
                                          queue0 := List.replicate 8 0,
                                          s1base := 0, s2base := 0 }

/-- CREATE (R449). -/
def execVdCreate (s : State) : Outc := s.partRun 3 fun chip p => if s.createOk chip p then some (s.create chip p) else none

/-! ### DESTROY (R449, R459) -/

/-- A virtual device's key erased from every controller (R459). -/
def State.eraseKey (s : State) (vd : Nat) : State :=
  { s with chips := s.chips.map fun (x : Nat × Chip) =>
      (x.1, { x.2 with keys := x.2.keys.filter (· != vd),
                       slots := x.2.slots.map fun (y : Nat × VdSlot) => if y.2.vd = vd then (y.1, { y.2 with keyed := false }) else y }) }

/-- The virtual device gone from a chip once its reset on every chip of it has ended: its key erased, its frames marked, its slot
free, and the block free when no other is assigned to it. Enqueues of the host that still wait are answered as where the virtual
device is no more (R240, R475). -/
def State.destroy (s : State) (chip slot : Nat) (v : VDev) : State :=
  let vd := s.slotVd chip slot
  let s := (List.map Prod.fst s.chips).foldl (fun s c => s.takeFrames c vd fun _ => true) (s.eraseKey vd)
  let base := AMap.get v.base 0 chip
  let s := { s with pkts := s.pkts.filter (fun (p : Packet) => p.vd != vd), invals := s.invals.filter (fun (i : Inval) => i.vd != vd),
                    told := s.told.filter fun (x : Walker × Nat × Xlate) => !x.1.serves vd }
  let left := v.created.filter (· != chip)
  let s := if left = [] then v.enqueueWait.foldl (fun s e => s.enqueueAnswer e 0) { s with vds := AMap.del s.vds vd }
    else s.updVd vd fun v => { v with created := left, dying := false, saved := [], scratch := [], words := [], launches := [],
                                      failing := [], aborts := [] }
  let s := { s with cores := s.cores.map fun (x : Nat × Core) =>
    if x.2.owner = vd ∧ keyChip x.1 = chip then (x.1, ({} : Core)) else x }
  let last := s.onBlock chip base v.plog = []
  s.updChip chip fun c =>
    { c with slots := AMap.put c.slots slot {}, blocks := if last then AMap.put c.blocks (blockKey v.plog base) .free else c.blocks }

/-- The virtual device of a DESTROY, where its conditions hold (R449, R468). -/
def State.destroyable (s : State) (chip : Nat) (p : PartCmd) : Option VDev :=
  (s.vdev? (s.slotVd chip p.slot)).bind fun v =>
    if p.cmd = 4 ∧ p.ok ∧ !v.running ∧ v.created.contains chip ∧ v.plog = p.log ∧ AMap.get v.base 0 chip = p.base then some v else none

/-- DESTROY: carried out on a virtual device that is not running: first its reset on every chip of it, during which the command stays
at the head of the queue; then it is gone from the chip (R446, R449). A command with a code that R468 does not list is refused here. -/
def execVdDestroy (s : State) : Outc :=
  let chip := s.arg.chip
  .next (match (s.chip chip).partq with
    | [] => s
    | w :: _ =>
      let p := partCmd w
      if 1 ≤ p.cmd ∧ p.cmd ≤ 3 then s
      else match s.destroyable chip p with
        | none => s.partEnd chip true
        | some v =>
          if !v.dying then (s.resetVd (s.slotVd chip p.slot) v v.chips).updVd (s.slotVd chip p.slot) fun v => { v with dying := true }
          else if v.reset ≠ 0 then s
          else (s.destroy chip p.slot v).partEnd chip false)

end Sys2Proof.Machine
end

