-- ==== Sys2Proof/Machine/Repair.lean ====
section
/-! DEFINITION. Repair and reliability (R65, R74, R75, R442, R443, R453 to R455, R458, R460): THAW, CORE_REPAIR, CORE_MAP_REWRITE,
PSEUDO_CHANNEL_REPAIR, PSEUDO_CHANNEL_REMAP, SUPERVISOR_FAILOVER, SOFT_ERROR, LINE_CLEAR, BUDGET_WINDOW, ROW_THROTTLE_EVENT,
THROTTLE_END, REFRESH_WINDOW. -/

namespace Sys2Proof.Machine

/-! ### Cores (R442, R443) -/

/-- A core's slots, inbox buffers and rack as at reset, its levels without activations: a Return repair. What it had issued still
performs, and its ropes keep their slots until then; its channel and sequencer have gone on meanwhile (R129, R153, R440, R442). -/
def Core.repaired (c : Core) : Core :=
  let p := c.cleanse
  let back := fun (l : Level) => { p.lvl l with held := [l.val] }
  { p with run := .running, floor := 0x1111, vreg := [], lv := #v[back 0, back 1, back 2, back 3],
           mx := { c.mx with stopped := false } }

/-- A stopped or frozen master's channel as at a thaw: no transfer, its IDs going on. -/
def Chan.thawed (c : Chan) : Chan := { c with queue := [], stopped := false, done := BitVec.ofNat 64 c.lastId }

/-- A frozen master thawed: the core with its levels, slots, queue and channel, or the channel or sequencer alone (R443). -/
def Core.thaw (c : Core) (master : Nat) : Core :=
  match master with
  | 0 => { c.repaired with chan := c.chan.thawed, mx := c.mx.emptied }
  | 1 => { c with chan := c.chan.thawed }
  | _ => { c with mx := c.mx.emptied }

/-- THAW of the master that CMDARG names (R443, R470). -/
def State.thaw (s : State) (chip slot : Nat) : State :=
  let vd := s.slotVd chip slot
  let arg := (AMap.get (s.chip chip).slots {} slot).cmdarg.toNat
  let k := windowCore chip (fld arg 0 14)
  let master := fld arg 16 2
  match s.vdev? vd with
  | none => s.refuseCmd chip slot
  | some v =>
    if v.frozen.contains (k, master) then
      let s := (s.acceptCmd chip slot).updVd vd fun v => { v with frozen := v.frozen.filter (· != (k, master)) }
      s.updCore k fun c => c.thaw master
    else s.refuseCmd chip slot

/-- THAW (R443). -/
def execVdThaw (s : State) : Outc := .next (s.thaw s.arg.chip s.arg.index)

/-- The spare slot of a cluster: the one its core map leaves out (R21). -/
def Cluster.spareSlot (c : Cluster) : Option Nat := (tab 9 id).find? fun i => !c.map.contains i

/-- CORE_REPAIR: 0 Return, 1 Spare, which begins the copy, 2 Lost (R442). The spare is unused while the map names slots 0 to 7. -/
def execCoreRepair (s : State) : Outc :=
  let k := coreKey s.arg.chip s.arg.node s.arg.slot
  let node := nodeKey s.arg.chip s.arg.node
  let c := s.core k
  let u := s.clu node
  let spareFree := (tab 8 id).all u.map.contains
  let vd := c.owner
  .next (
    if c.run ≠ .stopped ∨ u.repair.isSome then s
    else match s.arg.index with
      | 0 => ((s.setCore k c.repaired).repairEntry s.arg.chip vd 1 (windowOf k) 0 []).countRepair s.arg.chip
      | 1 => if spareFree then s.updClu node fun u => { u with repair := some s.arg.slot } else s
      | _ =>
        if spareFree then s
        else
          let s := s.updCore k fun c => { c with run := .lost }
          let s := s.updVd vd fun v => { v with lost := v.lost ++ [s.vdCoreOf v k] }
          (s.repairEntry s.arg.chip vd 1 (windowOf k) 2 []).countRepair s.arg.chip)

/-- A word copied to the spare's scratchpad; one that cannot be read is written as zero with its bit empty (R442). -/
def State.copySpare (s : State) (src dst : Nat) (i : Nat) : State :=
  let a := src + 8 * i
  let b := dst + 8 * i
  if s.isBad a then (s.poke b 8 0 2).setFull b false
  else (s.poke b 8 (s.peek a 8) 2).setFull b (s.isFull a)

/-- The words of a scratchpad that hold or have held something: the others read zero with their bits empty on both sides. -/
def State.usedWords (s : State) (base : Nat) : List Nat :=
  let inside := fun (w : Nat) => decide (base / 8 ≤ w ∧ w < (base + 0x10000) / 8)
  (((s.mem.filter fun (c : Host.Cell) => decide (base ≤ c.1 ∧ c.1 < base + 0x10000)).map fun (c : Host.Cell) => c.1 / 8) ++ s.fe.filter inside ++
    (s.bad.map Prod.fst).filter inside).eraseDups.map fun w => w - base / 8

/-- The spare as it takes over: the failed core's registers of the context, its lane slices, of which an unreadable word is zero
(R69), and its channel without transfers; what the failed core had issued stays with it until it has performed (R129, R442). -/
def Core.spareOf (c : Core) (t : Core) : Core :=
  { c.repaired with ops := [], colls := [], ropes := [], mclds := [], mcOut := [], tagBusy := [], l1 := [], l1Use := [],
                    lv := #v[{}, { held := [1] }, { held := [2] }, { held := [3] }], tlb := t.tlb, tlbUse := t.tlbUse,
                    lanes := (c.lanesBad.filter fun i => decide (i < 2048)).foldl (fun m i => m.clear (8 * i) 8) c.lanes,
                    lanesBad := [], chan := c.chan.thawed, mx := c.mx.emptied }

/-- A word of a lane slice in a repair's report: lane slices have no local address (R49, log entry 120). -/
def laneWord (i : Nat) : Nat := 2 ^ 46 + 8 * i

/-- CORE_MAP_REWRITE: the copy has ended, and accesses issued from now on reach the spare slot (R21, R442). -/
def execCoreMapRewrite (s : State) : Outc :=
  let k := coreKey s.arg.chip s.arg.node s.arg.slot
  let node := nodeKey s.arg.chip s.arg.node
  let u := s.clu node
  .next (
    if u.repair ≠ some s.arg.slot then s
    else match u.spareSlot with
      | none => s
      | some slot =>
        let t := coreKey s.arg.chip s.arg.node slot
        let c := s.core k
        let words := s.usedWords (scratchPa k 0)
        let lost := ((words.filter fun i => s.isBad (scratchPa k 0 + 8 * i)).map fun i => scratchPa k 0 + 8 * i) ++
          (c.lanesBad.filter fun i => decide (i < 2048)).map laneWord
        let s := s.clearBlock (scratchPa t 0) 0x10000
        let s := words.foldl (fun s i => s.copySpare (scratchPa k 0) (scratchPa t 0) i) s
        let s := (s.setCore t (c.spareOf (s.core t))).updCore k fun c => { c with chan := { c.chan with queue := [] } }
        let s := s.updClu node fun u => { u with repair := none, map := u.map.map fun i => if i = s.arg.slot then slot else i }
        (s.repairEntry s.arg.chip c.owner 1 (windowOf k) 1 lost).countRepair s.arg.chip)

/-! ### HBM4 and supervisors (R460) -/

/-- The local addresses of a stack's populated frames that have a line on a pseudo-channel, owned or not (R460; DEDUCED, log entry 146). -/
def Chip.framesOn (c : Chip) (st pc : Nat) : List Nat :=
  (tab (c.hbmGiB.getD st 0 * 2 ^ 14) fun f => st * 2 ^ 36 + f * 2 ^ 16).filter fun a => (tab 256 id).any fun i => pcOf (a + 256 * i) == pc

/-- PSEUDO_CHANNEL_REPAIR: one of the stack's 63 channels that hold data (R5) is copied to the stack's spare, or, with the spare used,
its frames are reported and every access to them raises ECC_UNCORR; the spare itself can fail so too (R460). -/
def execPseudoChannelRepair (s : State) : Outc :=
  let chip := s.arg.chip
  let st := s.arg.stack % 8
  let key := st * 64 + s.arg.pc % 63
  let c := s.chip chip
  .next (
    if AMap.get c.pcs .good key = .copying ∨ AMap.get c.pcs .good key = .failed then s
    else if !c.spare.contains st then
      s.updChip chip fun c => { c with pcs := AMap.put c.pcs key .copying, spare := insertNat st c.spare }
    else
      (s.updChip chip fun c => { c with pcs := AMap.put c.pcs key .failed }).repairEntry chip 0 2 key 4 (c.framesOn st (s.arg.pc % 63)))

/-- The lines of a pseudo-channel as a copy of it leaves them: a line with a word that cannot be read is poisoned as a whole, and what
could be corrected is (R65, R460). -/
def State.copyChannel (s : State) (chip st pc : Nat) : State :=
  let on := fun (w : Nat) => fld (8 * w) 47 9 == chip && mappedPa (8 * w) && stackOf (8 * w) == st && pcOf (8 * w) == pc
  let lines := ((s.bad.filter fun w => w.2 && on w.1).map fun w => w.1 / 32).eraseDups
  { s with bad := s.bad.filter (fun w => !on w.1) ++ lines.flatMap fun l => tab 32 fun i => (l * 32 + i, true) }

/-- PSEUDO_CHANNEL_REMAP: the copy has ended; a line that could not be read stays poisoned (R460). -/
def execPseudoChannelRemap (s : State) : Outc :=
  let chip := s.arg.chip
  let st := s.arg.stack % 8
  let key := st * 64 + s.arg.pc % 63
  .next (
    if AMap.get (s.chip chip).pcs .good key ≠ .copying then s
    else (((s.copyChannel chip st (s.arg.pc % 63)).updChip chip fun c => { c with pcs := AMap.put c.pcs key .remapped }).repairEntry
      chip 0 2 key 3 []).countRepair chip)

/-- SUPERVISOR_FAILOVER: a spare supervisor of the die takes over from one that stopped responding, if that was on duty; a lead that
stops is followed by another on duty, one of its die first (R442, R460, R480). -/
def execSupervisorFailover (s : State) : Outc :=
  let chip := s.arg.chip
  let i := s.arg.index % 16
  let c := s.chip chip
  .next (
    if !c.sups.getD i false then s
    else
      let sups := c.sups.set i false
      let spare := (tab 4 fun j => i / 4 * 4 + j).find? fun j => sups.getD j false && !c.duty.contains j
      let duty := c.duty.flatMap fun j => if j = i then spare.toList else [j]
      let lead := if c.lead = i then (spare.orElse fun _ => (duty.find? fun j => j / 4 == i / 4).orElse fun _ => duty.head?).getD i else c.lead
      ((s.updChip chip fun c => { c with sups := sups, duty := duty, lead := lead }).repairEntry chip 0 4 i 0 []).countRepair chip)

/-- A bit error in a word of a core's L1 copy: an uncorrectable one stays with the copy, another is corrected in place (R65). -/
def State.strikeL1 (s : State) (k w : Nat) (hard : Bool) : State :=
  if (s.core k).l1.any fun l => l.addr == w / 32 then
    if hard then s.updCore k fun c => { c with l1 := c.l1.map fun l =>
      if l.addr = w / 32 then { l with bad := insertNat w l.bad } else l }
    else s.updChip (keyChip k) fun c => { c with softErrs := c.softErrs + 1 }
  else s

/-- SOFT_ERROR: a bit error strikes a word, which the event names by its number; from 2^60 on it is a word of a lane slice, core ×
2,048 + lane × 32 + word, and from 2^61 on a word of the L1 of the core that the event names (R65). A second error in a word makes it
uncorrectable. A line that has its mark since the boot reads zero whatever strikes it (R76, R481). -/
def execSoftError (s : State) : Outc :=
  let w := s.arg.addr
  let hard := !s.arg.flag
  .next (
    if 2 ^ 61 ≤ w then s.strikeL1 (coreKey s.arg.chip s.arg.node s.arg.slot) (w - 2 ^ 61) hard
    else if w < 2 ^ 60 then
      if s.untouched (8 * w) then s else
      let again := s.bad.any fun x => x.1 == w
      { s with bad := s.bad.filter (fun x => x.1 != w) ++ [(w, hard || again)] }
    else
      let k := (w - 2 ^ 60) / 2048
      let i := (w - 2 ^ 60) % 2048
      s.updCore k fun c =>
        let again := c.lanesBad.contains i || c.lanesBad.contains (i + 2048)
        let rest := c.lanesBad.filter fun x => x != i && x != i + 2048
        { c with lanesBad := insertNat (if hard || again then i else i + 2048) rest })

/-! ### The memory controllers (R75, R453 to R455) -/

/-- LINE_CLEAR: a marked line is written to zero with every bit empty, and its mark goes (R75). -/
def execLineClear (s : State) : Outc :=
  let line := s.arg.addr
  .next (if s.clear.contains line || s.untouched (line * 256) then
      { (s.clearBlock (line * 256) 256) with clear := s.clear.filter (· != line), touched := insertNat line s.touched }
    else s)

/-- BUDGET_WINDOW: the counts of a window of 4,096 cycles that has ended are given up for those of the present one (R453). -/
def execBudgetWindow (s : State) : Outc :=
  .next (s.updChip s.arg.chip fun c => { c with budget := c.budgetIn s.now, budgetWin := s.now / 4096 })

/-- The number of a bank of a chip: stack, pseudo-channel, bank, on one of the 63 channels that hold data (R5). -/
def bankKey (a : Arg) : Nat := (a.stack % 8) * 2048 + (a.pc % 63) * 32 + a.bank % 32

/-- ROW_THROTTLE_EVENT: a row's count has reached RHTH. The tenant's requests to the bank park for 2,048 cycles, its budget is
charged 64 lines, and the hypervisor is told; the neighbours' refresh is timing (R454, R455). -/
def execRowThrottleEvent (s : State) : Outc :=
  let chip := s.arg.chip
  let c := s.chip chip
  let b := AMap.get c.banks {} (bankKey s.arg)
  let vd := s.arg.vd
  let n := ((b.counts.find? fun x => x.1 == (s.arg.row, vd)).map Prod.snd).getD 0
  .next (
    if n < c.rhth.getD (s.arg.stack % 8) 0 then s
    else
      let ev := AMap.get b.events 0 vd + 1
      let b := { b with counts := b.counts.filter (fun x => x.1 != (s.arg.row, vd)), events := AMap.put b.events vd ev,
                        parked := b.parked.filter (fun x => x.1 != vd) ++ [(vd, s.now + 2048)] }
      let key := vd * 16 + s.arg.stack % 8
      let s := s.updChip chip fun c => { c.countLines s.now key 64 with banks := AMap.put c.banks (bankKey s.arg) b }
      let w0 := vd * 2 ^ 48 + s.arg.stack % 8 * 2 ^ 45 + s.arg.pc % 63 * 2 ^ 39 + s.arg.bank % 32 * 2 ^ 34 +
        s.arg.row % 2 ^ 18 * 2 ^ 16 + min ev 0xFFFF
      s.ringEntry chip 0x01 vd [BitVec.ofNat 64 w0, BitVec.ofNat 64 s.now])

/-- THROTTLE_END: the 2,048 cycles have passed, and the side queue drains ahead of the tenant's later requests (R454). -/
def execThrottleEnd (s : State) : Outc :=
  let chip := s.arg.chip
  .next (s.updChip chip fun c =>
    let b := AMap.get c.banks {} (bankKey s.arg)
    let b := { b with parked := b.parked.filter fun x => !(x.1 == s.arg.vd && decide (x.2 ≤ s.now)) }
    { c with banks := AMap.put c.banks (bankKey s.arg) b })

/-- REFRESH_WINDOW: the trackers and event counts of a stack start anew (R454). -/
def execRefreshWindow (s : State) : Outc :=
  .next (s.updChip s.arg.chip fun c =>
    { c with banks := c.banks.map fun (x : Nat × Bank) =>
        if x.1 / 2048 = s.arg.stack % 8 then (x.1, { x.2 with counts := [], events := [] }) else x })

end Sys2Proof.Machine
end

