-- ==== Sys2Proof/Machine/Supervisor.lean ====
section
/-! DEFINITION. Supervisor space (R465 to R472): what each register reads and what a write to it does, with the events RTSWAP,
DISPINIT, GROUP_TABLE_WRITE and SUPERVISOR_REGISTER_WRITE. -/

namespace Sys2Proof.Machine

/-! ### Reads -/

/-- A number of 8 bytes from a rule for each byte. -/
def bytesWord (f : Nat → Nat) : Word := BitVec.ofNat 64 (leNat ((tab 8 id).map fun i => BitVec.ofNat 8 (f i)))

/-- 64 bits of a set of numbers, from `lo` up. -/
def bitsWord (has : Nat → Bool) (lo : Nat) : Word :=
  BitVec.ofNat 64 ((tab 64 id).foldl (fun n i => if has (lo + i) then n + 2 ^ i else n) 0)

/-- The numbers of the bits set in a word, from `lo` up. -/
def wordBits (w : Word) (lo : Nat) : List Nat := (tab 64 id).filterMap fun i => if w.getLsbD i then some (lo + i) else none

/-- The node of a slice by its number: die × 256 + cluster. -/
def sliceNode (i : Nat) : Nat := dieNode (i / 256) (i % 256)

/-- The cores of a virtual device on a chip, as they are or as its context holds them. -/
def State.chipCores (s : State) (vd chip : Nat) (v : VDev) : List Core :=
  (s.vdKeys v).filterMap fun n =>
    if keyChip n.2 ≠ chip then none
    else if (s.core n.2).owner = vd then some (s.core n.2)
    else AMap.find? v.saved n.1

/-- The sum of a half of INJSTAT over a virtual device's cores on a chip (R262, R469). -/
def State.stallSum (s : State) (vd chip lo : Nat) : Word :=
  match s.vdev? vd with
  | some v => BitVec.ofNat 64 (((s.chipCores vd chip v).map fun c => fld c.injstat.toNat lo 32).foldl (· + ·) 0)
  | none => 0

/-- VDSTATE (R470). -/
def State.vdState (s : State) (chip : Nat) (x : VdSlot) : Word :=
  match s.vdev? x.vd with
  | none => BitVec.ofNat 64 (x.refused.toNat * 2 ^ 41)
  | some v =>
    let res := match v.res with
      | .run => 0 | .entering => 1 | .bivouac => 2 | .waking => 3
    let frozen := v.frozen.any fun f => keyChip f.1 == chip
    BitVec.ofNat 64 (x.vd * 2 ^ 48 + res * 2 ^ 46 + v.running.toNat * 2 ^ 45 + x.keyed.toNat * 2 ^ 44 +
      (v.reset != 0).toNat * 2 ^ 43 + frozen.toNat * 2 ^ 42 + x.refused.toNat * 2 ^ 41)

/-- A launch queue's descriptor words (R238). -/
def State.queueDesc (s : State) (x : VdSlot) (q i : Nat) : Word :=
  let qu : Queue := ((s.vdev? x.vd).map fun v => v.queue q).getD {}
  match i with
  | 0 => x.queue0.getD q 0
  | 1 => BitVec.ofNat 64 (qu.tail % 2 ^ 32 * 2 ^ 32 + qu.head % 2 ^ 32)
  | _ => BitVec.ofNat 64 (qu.next % 2 ^ 32)

/-- A word of a virtual-device slot; none where the table assigns nothing (R469). -/
def State.slotRead (s : State) (chip slot o : Nat) : Option Word :=
  let x := AMap.get (s.chip chip).slots {} slot
  if o < 0x20 then some (x.desc.getD (o / 8) 0)
  else if o = 0x20 then some x.s1base
  else if o = 0x28 then some x.s2base
  else if o = 0x30 then some (s.vdState chip x)
  else if o = 0x38 then some 0
  else if o = 0x40 then some x.cmdarg
  else if o = 0x48 then some x.dispinit
  else if o = 0x50 then some x.tracecfg
  else if o = 0x58 then some (s.stallSum x.vd chip 0)
  else if o = 0x60 then some (s.stallSum x.vd chip 32)
  else if 0x80 ≤ o ∧ o < 0x140 then some (s.queueDesc x ((o - 0x80) / 24) ((o - 0x80) % 24 / 8))
  else if 0x180 ≤ o ∧ o < 0x1C0 then some (bitsWord x.scope.contains ((o - 0x180) * 8))
  else if 0x200 ≤ o ∧ o < 0x280 then some (bitsWord (fun i => x.grants.contains (sliceNode i)) ((o - 0x200) * 8))
  else if 0x400 ≤ o ∧ o < 0x800 then some (bytesWord fun i => AMap.get x.caps 16 (o - 0x400 + i))
  else if 0x800 ≤ o ∧ o < 0x1000 then some (bytesWord fun i => AMap.get x.inj 0 (o - 0x800 + i))
  else if 0x1000 ≤ o ∧ o < 0x1400 then
    some (bytesWord fun i => x.chips.getD ((o - 0x1000 + i) / 2) 0xFFFF / 256 ^ (i % 2) % 256)
  else none

/-- Whether an inspection window shows its core, one that a Lost repair keeps stopped among them (R442, R472). -/
def Core.inspected (c : Core) : Bool := c.run != .running

/-- A word of a level's part of an inspection window. -/
def Lvl.inspect (l : Lvl) (i : Nat) : Word :=
  let t := (l.trap.map TrapRec.args).getD []
  [l.pc, l.fcr, l.stallchk, l.inlineN, l.trapcause, l.trappc, l.trapval, l.trapaddr, l.rbase, l.lcount].getD i (t.getD (i - 10) 0)

/-- A word of a thread slot in an inspection window. -/
def Slot.inspect (x : Slot) (i : Nat) : Word :=
  let st := match x.st with
    | .free => 0 | .reserved => 1 | .pending => 2 | .running => 3
  match i with
  | 0 => x.msg.pc
  | 1 => BitVec.ofNat 64 (st * 2 ^ 62 + x.lev * 2 ^ 8 + x.msg.ty)
  | 6 => BitVec.ofNat 64 x.msg.launch
  | 7 => 0
  | n => x.msg.args.getD (n - 2) 0

/-- A word of a core's inspection window while it is shown (R472). -/
def Core.inspect (c : Core) (o : Nat) : Word :=
  if o < 0x400 then (c.lvl (lvOf (o / 0x100))).rx (BitVec.ofNat 5 (o % 0x100 / 8))
  else if o < 0x600 then (c.lvl (lvOf ((o - 0x400) / 0x80))).inspect ((o - 0x400) % 0x80 / 8)
  else if o = 0x600 then
    let st := match c.run with
      | .running => 0 | .stopped => 1 | .frozen => 2 | .lost => 1
    BitVec.ofNat 64 (st * 2 ^ 62 + c.owner * 2 ^ 32)
  else if 0x800 ≤ o ∧ o < 0xC00 then (c.slots.getD ((o - 0x800) / 0x40) {}).inspect ((o - 0x800) % 0x40 / 8)
  else if 0xC00 ≤ o ∧ o < 0xC60 then
    (c.chan.shadow ++ [c.chan.done, c.chan.fault]).getD ((o - 0xC00) / 8) 0
  else if 0xC80 ≤ o ∧ o < 0xCA0 then
    [BitVec.ofNat 64 ((64 - c.mx.queue.length) * 2 ^ 32 + c.mx.pushed), BitVec.ofNat 64 c.mx.retired, c.mx.mode, c.mx.status].getD ((o - 0xC80) / 8) 0
  else 0

/-- An 8-byte read of supervisor space at an offset: a STATUS of R86 and the word (R465 to R472). -/
def State.supRead (s : State) (chip off : Nat) : Nat × Word :=
  let c := s.chip chip
  let ok := fun (w : Word) => (0, w)
  if off < 0x1000 then
    match off with
    | 0x000 => ok (BitVec.ofNat 64 (chip * 2 ^ 55 + 0xF * 2 ^ 51 + c.version % 2 ^ 32))
    | 0x008 => ok 0
    | 0x010 => ok (BitVec.ofNat 64 ((c.partq != []).toNat * 2 ^ 63 + c.partRef.toNat * 2 ^ 62 + c.partDone))
    | 0x018 => ok (BitVec.ofNat 64 ((c.s2inv != []).toNat * 2 ^ 63))
    | 0x020 => ok (BitVec.ofNat 64 c.swaps)
    | 0x028 => ok c.evbase
    | 0x030 => ok c.evhead
    | 0x038 => ok c.evtail
    | 0x040 => ok c.evlost
    | 0x048 => ok 0
    | _ => (3, 0)
  else if off < 0x2000 then ok (AMap.get c.shadow 0 ((off - 0x1000) / 8))
  else if 0x10000 ≤ off ∧ off < 0x20000 then
    let g := (off - 0x10000) / 64
    ok ((AMap.get c.stage (s.groupEntry chip g) g).getD (off % 64 / 8) 0)
  else if 0x1000000 ≤ off ∧ off < 0x9000000 then
    match s.slotRead chip ((off - 0x1000000) / 0x2000) ((off - 0x1000000) % 0x2000) with
    | some w => ok w
    | none => (3, 0)
  else if 0x10000000 ≤ off ∧ off < 0x12400000 then
    let k := windowCore chip ((off - 0x10000000) / 0x1000)
    if (s.core k).inspected then ok ((s.core k).inspect (off % 0x1000)) else (1, 0)
  else (3, 0)

/-! ### Writes -/

/-- RTSWAP: the shadow becomes the table of every router of the chip (R102, R467). -/
def State.rtswap (s : State) (chip : Nat) : State :=
  ({ s with free := s.free + 1024 }).updChip chip fun c =>
    { c with table := AMap.put c.shadow chip 0, lag := some (s.now, s.free, c.table), swaps := (c.swaps + 1) % 2 ^ 32 }

/-- RTSWAP (R102). -/
def execRtswap (s : State) : Outc := .next (s.rtswap s.arg.chip)

/-- The value that a virtual device's cores on a chip take for DISPBASE; a saved context loads its entries at its resume (R470). -/
def State.dispinit (s : State) (chip slot : Nat) (w : Word) : Option State :=
  let x := AMap.get (s.chip chip).slots {} slot
  if w.toNat / 2 ^ 56 ≠ 0 ∨ w.toNat % 2 ^ 12 ≠ 0 then none
  else match s.vdev? x.vd with
    | none => some (s.updSlot chip slot fun x => { x with dispinit := w })
    | some v =>
      if v.running then none
      else
        let s := s.updSlot chip slot fun x => { x with dispinit := w }
        let s := s.updVd x.vd fun v => { v with saved := v.saved.map fun (y : Nat × Core) =>
          if (v.place (y.1 / 8)).1 = chip then (y.1, y.2.takeDispbase w) else y }
        some ((s.vdKeys v).foldl (fun s n =>
          if keyChip n.2 = chip ∧ (s.core n.2).owner = x.vd then s.updCore n.2 fun c => c.takeDispbase w else s) s)

/-- DISPINIT (R470). -/
def execDispinit (s : State) : Outc :=
  .next ((s.dispinit s.arg.chip s.arg.index (s.arg.words.headD 0)).getD s)

/-- A write of word 0 of a group entry: the entry takes effect for the next multicast, with the words 1 to 7 written before (R107,
R465). A word with a bit that must be zero, UP = 6 or NLOC above 28 is stored as it is, and its members are the first 28 (DESIGN
CHOICE, log entry 121). -/
def State.groupWrite (s : State) (chip g : Nat) (w : Word) : State :=
  let e := AMap.get (s.chip chip).stage (s.groupEntry chip g) g
  (s.setGroupEntry chip g (some (w :: e.tail))).updChip chip fun c => { c with stage := AMap.del c.stage g }

/-- GROUP_TABLE_WRITE (R107, R465). -/
def execGroupTableWrite (s : State) : Outc :=
  .next (s.groupWrite s.arg.chip (s.arg.index % 1024) (s.arg.words.headD 0))

/-- A write of a launch queue's word 0 (R238). -/
def State.queueWrite (s : State) (chip slot q : Nat) (w : Word) : Option State :=
  let x := AMap.get (s.chip chip).slots {} slot
  let old := (x.queue0.getD q 0).toNat
  let n := w.toNat
  let moved := n / 2 ≠ old / 2
  let qu : Queue := ((s.vdev? x.vd).map fun v => v.queue q).getD {}
  if (moved ∨ n % 2 = 1) ∧ (fld n 56 8 ≠ 0 ∨ fld n 6 6 ≠ 0 ∨ fld n 1 5 < 4 ∨ 12 < fld n 1 5) then none
  else if moved ∧ (old % 2 = 1 ∨ qu.head ≠ qu.tail) then none
  else
    let s := s.updSlot chip slot fun x => { x with queue0 := x.queue0.set q w }
    let fresh := fun (v : VDev) => if v.chips.getD 0 0 = chip then v.updQueue q (fun _ => {}) else v
    some (if old % 2 = 0 ∧ n % 2 = 1 ∧ qu.head = qu.tail then s.updVd x.vd fresh else s)

/-- A table base written; it takes effect at the next TLBINV.B, or at once in a virtual device that has not run (R24). -/
def State.baseWrite (s : State) (chip slot : Nat) (w : Word) (stage2 : Bool) : Option State :=
  if fld w.toNat 56 8 ≠ 0 ∨ fld w.toNat 1 10 ≠ 0 then none
  else
    let vd := s.slotVd chip slot
    let s := s.updSlot chip slot fun x => if stage2 then { x with s2base := w } else { x with s1base := w }
    some (s.updVd vd fun v =>
      if v.ran ∨ v.chips.getD 0 0 ≠ chip then v else if stage2 then { v with s2 := w } else { v with s1 := w })

/-- A write of VDCMD (R470). -/
def State.vdCommand (s : State) (chip slot : Nat) (w : Word) : State :=
  if fld w.toNat 0 56 ≠ 0 then s.refuseCmd chip slot
  else match fld w.toNat 56 8 with
    | 1 => s.vdReset chip slot
    | 2 => s.bivouac chip slot
    | 3 => s.thaw chip slot
    | _ => s.refuseCmd chip slot

/-- The nodes of a slot's block: those of its virtual device, or before CREATE those that its descriptor names (R469). -/
def State.slotNodes (s : State) (x : VdSlot) : Nat := 2 ^ ((s.vdev? x.vd).getD (descVdev x.desc [])).plog

/-- Eight CAP bytes of a slot written, those of nodes outside the block ignored; a node that the virtual device runs on takes its CAP at
once (R259, R469). -/
def State.capsWrite (s : State) (chip slot m : Nat) (w : Word) : Option State :=
  let b := fun i => fld w.toNat (8 * i) 8
  let mine := (tab 8 id).filter fun i => decide (m + i < s.slotNodes (AMap.get (s.chip chip).slots {} slot))
  if mine.any fun i => b i == 0 || decide (16 < b i) then none
  else
    let vd := s.slotVd chip slot
    let s := s.updSlot chip slot fun x => { x with caps := mine.foldl (fun t i => AMap.put t (m + i) (b i)) x.caps }
    some (mine.foldl (fun s i => match s.vdev? vd with
      | some v =>
        if v.running then s.updClu (nodeKey chip (AMap.get v.base 0 chip + m + i)) fun c => { c with cap := b i } else s
      | none => s) s)

/-- Eight injection-cap bytes of a slot written, those of nodes outside the block ignored (R262, R469). -/
def State.injWrite (s : State) (chip slot m : Nat) (w : Word) : Option State :=
  let mine := (tab 8 id).filter fun i => decide ((m + i) / 2 < s.slotNodes (AMap.get (s.chip chip).slots {} slot))
  if mine.any fun i => decide (64 < fld w.toNat (8 * i) 8) then none
  else some (s.updSlot chip slot fun x => { x with inj := mine.foldl (fun t i => AMap.put t (m + i) (fld w.toNat (8 * i) 8)) x.inj })

/-- A word of a virtual-device slot written; none where it is refused (R469, R470). -/
def State.slotWrite (s : State) (chip slot o : Nat) (w : Word) : Option State :=
  let x := AMap.get (s.chip chip).slots {} slot
  let upd := fun (f : VdSlot → VdSlot) => some (s.updSlot chip slot f)
  if o < 0x20 then (if x.vd ≠ 0 then none else upd fun x => { x with desc := x.desc.set (o / 8) w })
  else if o = 0x20 then s.baseWrite chip slot w false
  else if o = 0x28 then s.baseWrite chip slot w true
  else if o = 0x38 then some (s.vdCommand chip slot w)
  else if o = 0x40 then
    if w.toNat / 2 ^ 18 ≠ 0 ∨ fld w.toNat 14 2 ≠ 0 then none else upd fun x => { x with cmdarg := w }
  else if o = 0x48 then s.dispinit chip slot w
  else if o = 0x50 then
    if fld w.toNat 56 7 ≠ 0 ∨ fld w.toNat 0 23 ≠ 0 then none else upd fun x => { x with tracecfg := w }
  else if 0x80 ≤ o ∧ o < 0x140 ∧ (o - 0x80) % 24 = 0 then s.queueWrite chip slot ((o - 0x80) / 24) w
  else if 0x180 ≤ o ∧ o < 0x1C0 then
    let lo := (o - 0x180) * 8
    upd fun x => { x with scope := (x.scope.filter fun c => !(decide (lo ≤ c ∧ c < lo + 64))) ++ wordBits w lo }
  else if 0x200 ≤ o ∧ o < 0x280 then
    let lo := (o - 0x200) * 8
    let block := (tab 64 fun i => sliceNode (lo + i))
    if ((s.vdev? x.vd).map VDev.running).getD false then none
    else upd fun x => { x with grants := x.grants.filter (fun n => !block.contains n) ++ (wordBits w lo).map sliceNode }
  else if 0x400 ≤ o ∧ o < 0x800 then s.capsWrite chip slot (o - 0x400) w
  else if 0x800 ≤ o ∧ o < 0x1000 then s.injWrite chip slot (o - 0x800) w
  else if 0x1000 ≤ o ∧ o < 0x1400 then
    if x.vd ≠ 0 then none
    else upd fun x => { x with chips := tab 512 fun i =>
      if (o - 0x1000) / 2 ≤ i ∧ i < (o - 0x1000) / 2 + 4 then fld w.toNat (16 * (i - (o - 0x1000) / 2)) 16 else x.chips.getD i 0xFFFF }
  else none

/-- A write of PARTCMD: queued, or refused where 16 commands are; what the command itself lacks shows when its turn comes (R468). -/
def State.partWrite (s : State) (chip : Nat) (w : Word) : Option State :=
  if fld w.toNat 0 32 ≠ 0 then none
  else if 16 ≤ (s.chip chip).partq.length then
    some (s.updChip chip fun c => { c with partRef := true })
  else some (s.updChip chip fun c => { c with partq := c.partq ++ [w] })

/-- A write of S2INV (R42, R466). -/
def State.s2invWrite (s : State) (chip : Nat) (w : Word) : Option State :=
  let vd := fld w.toNat 48 16
  if fld w.toNat 1 7 ≠ 0 then none
  else some (if w.getLsbD 0 then s.s2inv chip vd none else s.s2inv chip vd (some (fld w.toNat 8 40 * 2 ^ 16, true)))

/-- A write of PAGEANS (R34, R466). -/
def State.pageansWrite (s : State) (w : Word) : Option State :=
  if fld w.toNat 1 7 ≠ 0 then none
  else some (s.pageAnswer (fld w.toNat 48 16) 2 (fld w.toNat 8 40) (w.getLsbD 0))

/-- A write of a chip control register (R466). -/
def State.chipWrite (s : State) (chip off : Nat) (w : Word) : Option State :=
  match off with
  | 0x008 => s.partWrite chip w
  | 0x018 => s.s2invWrite chip w
  | 0x020 => if w = 1 then some (s.rtswap chip) else none
  | 0x028 =>
    if fld w.toNat 56 8 ≠ 0 ∨ fld w.toNat 5 7 ≠ 0 then none else some (s.updChip chip fun c => { c with evbase := w })
  | 0x030 => some (s.updChip chip fun c => { c with evhead := w })
  | 0x040 => some (s.updChip chip fun c => { c with evlost := 0 })
  | 0x048 => s.pageansWrite w
  | _ => none

/-- An 8-byte write of supervisor space at an offset; none where it is refused (R465 to R472). -/
def State.supWrite (s : State) (chip off : Nat) (w : Word) : Option State :=
  if off < 0x1000 then s.chipWrite chip off w
  else if off < 0x2000 then
    if w.toNat / 2 ^ 12 ≠ 0 then none
    else some (s.updChip chip fun c =>
      { c with shadow := AMap.put c.shadow ((off - 0x1000) / 8) (if (off - 0x1000) / 8 = chip then 0 else w) })
  else if 0x10000 ≤ off ∧ off < 0x20000 then
    let g := (off - 0x10000) / 64
    if off % 64 / 8 = 0 then some (s.groupWrite chip g w)
    else some (s.updChip chip fun c =>
      { c with stage := AMap.put c.stage g ((AMap.get c.stage (AMap.get c.groups (List.replicate 8 0) g) g).set (off % 64 / 8) w) })
  else if 0x1000000 ≤ off ∧ off < 0x9000000 then
    s.slotWrite chip ((off - 0x1000000) / 0x2000) ((off - 0x1000000) % 0x2000) w
  else none

/-- SUPERVISOR_REGISTER_WRITE: a write of 1, 2, 4 or 8 bytes, naturally aligned; a narrower one keeps the word's other bytes
(R465). What is refused changes nothing, and raises ACCESS at the supervisor core, which the model notes in Chip.supCause (log entry
145). -/
def execSupervisorRegisterWrite (s : State) : Outc :=
  let off := s.arg.addr
  let n := s.arg.value
  let done := fun (t : State) (cause : Option Nat) => t.updChip s.arg.chip fun c => { c with supCause := cause }
  .next (
    if !([1, 2, 4, 8].contains n) ∨ off % n ≠ 0 then done s (some Cause.access)
    else
      let base := off / 8 * 8
      let sh := 8 * (off % 8)
      let mask : Word := BitVec.ofNat 64 ((2 ^ (8 * n) - 1) * 2 ^ sh)
      let w := ((s.supRead s.arg.chip base).2 &&& ~~~mask) ||| ((s.arg.words.headD 0 <<< sh) &&& mask)
      match s.supWrite s.arg.chip base w with
      | some t => done t none
      | none => done s (some Cause.access))

end Sys2Proof.Machine
end

