-- ==== Sys2Proof/Machine/HostLink.lean ====
section
/-! DEFINITION. The host link (R475 to R479): connections and their sequence numbers, and the requests ENQUEUE, WRITE, READ, WAKE,
SUPERVISOR_SPACE_READ and SUPERVISOR_SPACE_WRITE. -/

namespace Sys2Proof.Machine

/-! ### Connections (R475, R476) -/

/-- The VDID and the next sequence number of a connection; one not known yet is bound by its first request. -/
def State.connOf (s : State) (conn vd seq : Nat) : Nat × Nat :=
  ((s.conns.find? fun c => c.conn == conn).map fun c => (c.vd, c.next)).getD (vd, seq)

/-- The next sequence number of a connection set; a new one is with the package that its request reaches. -/
def State.setConn (s : State) (conn vd next : Nat) : State :=
  let old := (s.conns.find? fun c => c.conn == conn).getD ⟨conn, s.arg.chip, vd, 0, 0⟩
  { s with conns := s.conns.filter (fun c => c.conn != conn) ++ [{ old with next := next % 2 ^ 32 }] }

/-- The Ethernet port that the event names (R1): 0 on die 0, 1 on die 2. -/
def State.hostPort (s : State) : Nat := s.arg.port % 2

/-- The header of the request that the event brings, whose code is one of R477 (R476). -/
def State.header (s : State) (op : Nat) : Header := ⟨s.arg.conn, s.arg.seq, s.arg.vd, s.arg.op.getD op, s.arg.addr, s.hostPort⟩

/-- A request answered on the port that received it; the connection goes on to the next sequence number (R475). -/
def State.hostAnswer (s : State) (h : Header) (status : Nat) (data : List Word) (bytes : List Byte) : State :=
  let s := (s.setConn h.conn (s.connOf h.conn h.vd h.seq).1 (h.seq + 1)).sendAnswer h status data bytes
  { s with hostQ := s.hostQ.filter fun (q : HostReq) => q.head.conn != h.conn }

/-- Whether an enqueue of a connection still waits for the page service, so that later requests of it wait too (R479). -/
def State.connWaits (s : State) (conn : Nat) : Bool :=
  List.any s.vds fun (x : Nat × VDev) => x.2.enqueueWait.any fun e => (e.host.map Header.conn) == some conn

/-- The code of MGMT (R477). -/
def opMgmt : Nat := 0x10

/-- A request of a code taken up in sequence order: a duplicate, and one before its turn, are discarded; before the package is in ON
every request but MGMT is answered BUSY; one that has another code, whose VDID is not the connection's, or that sets a reserved bit, or
a MGMT request on another VDID than 0, is answered ACCESS (R475 to R477, R481, R482). A package in OFF holds nothing and answers
nothing. -/
def State.hostRequest (s : State) (op : Nat) (act : Header → State → State) : State :=
  let a := s.arg
  let h := s.header op
  let power := (s.chip a.chip).power
  let (vd, next) := s.connOf a.conn a.vd a.seq
  if power = .off ∨ a.seq ≠ next ∨ s.connWaits a.conn then s
  else
    let s := s.setConn a.conn vd next
    if op ≠ opMgmt ∧ power ≠ .on then s.hostAnswer h 1 [] []
    else if a.op.isSome ∨ vd ≠ a.vd ∨ (op == opMgmt) ≠ (vd == 0) ∨ 2 ^ 57 ≤ a.addr then s.hostAnswer h 3 [] []
    else act h s

/-! ### WRITE and READ (R477) -/

/-- The host port of a package as the source of an access. -/
def hostUnit (chip : Nat) : UnitId := ⟨chip, 0, 14⟩

/-- What comes of one access of a host request. -/
inductive HostPerf where
  | done (data : Word) (s : State)
  | wait (s : State)
  | fail (status : Nat) (s : State)

/-- An access of a host request at its owner: it waits for the word's waiters and at the memory controller's gates, and is traced
and counted as any other (R71, R151, R453). -/
def State.hostPerform (s : State) (a : Acc) : HostPerf :=
  if s.draining a.vd a.src (ownerOf a.pa) then .fail 5 s
  else if !s.populated a.pa then .fail 3 s
  else if s.served a.pa ≠ [] ∨ s.memWaits a.vd a.pa = true then .wait s
  else
    let t := (s.trace a).lineServe a.vd a.pa a.mt
    match t.perform a with
    | .done v s => .done v (if a.writes then s.ownFrame a.pa a.vd else s)
    | .wait => .wait s
    | .access => .fail 3 s
    | .ecc => .fail 4 (t.eccSeen a.pa)

/-- One access of a host request to mapped space, translated as a copy unit's (R28, R34). -/
def State.hostAccess (s : State) (q : HostReq) (size need : Nat) (cls : AccClass) (data : Word) : HostPerf :=
  let me := Walker.host q.head.conn
  if 2 ^ 56 ≤ q.addr then .fail 3 s
  else match s.direct me q.head.vd q.addr need with
    | .ask => .wait (s.askDirect me q.head.vd q.addr)
    | .denied _ => .fail 2 s
    | .lost c => .fail (lostStatus c) s
    | .ok pa mt =>
      s.hostPerform { pa := pa, size := size, cls := cls, data := data, kind := .s, mt := mt, vd := q.head.vd, src := hostUnit q.chip }

/-- The size of the next access of a run: whole words where they are aligned, else bytes. -/
def hostPiece (addr left : Nat) : Nat := if addr % 8 = 0 ∧ 8 ≤ left then 8 else 1

/-- A request in progress replaced. -/
def State.setHostReq (s : State) (q : HostReq) : State :=
  { s with hostQ := s.hostQ.filter (fun (x : HostReq) => x.head.conn != q.head.conn) ++ [q] }

/-- The request of a connection that is in progress, or the new one. -/
def State.hostReq (s : State) (new : HostReq) : HostReq := (s.hostQ.find? fun q => q.head.conn == new.head.conn).getD new

/-- A WRITE's next access; it is answered once every byte has performed. -/
def State.hostWriteStep (s : State) (q : HostReq) : State :=
  if q.bytes = [] then s.hostAnswer q.head 0 [] []
  else
    let n := hostPiece q.addr q.bytes.length
    let me := Walker.host q.head.conn
    match s.hostAccess q n permW .store (BitVec.ofNat 64 (leNat (q.bytes.take n))) with
    | .wait s => s.setHostReq q
    | .fail st s => (s.untold me).hostAnswer q.head st [] []
    | .done _ s =>
      let q := { q with addr := q.addr + n, bytes := q.bytes.drop n }
      if q.bytes = [] then (s.untold me).hostAnswer q.head 0 [] [] else s.setHostReq q

/-- WRITE (R477). -/
def execHostWrite (s : State) : Outc :=
  .next (s.hostRequest 1 fun h s =>
    let a := s.arg
    if 8192 < a.bytes.length ∨ (s.vdev? a.vd).isNone then s.hostAnswer h 3 [] []
    else s.hostWriteStep (s.hostReq ⟨h, a.chip, a.addr, a.bytes, 0⟩))

/-- A READ's next access. -/
def State.hostReadStep (s : State) (q : HostReq) : State :=
  if q.left = 0 then s.hostAnswer q.head 0 [] q.bytes
  else
    let n := hostPiece q.addr q.left
    let me := Walker.host q.head.conn
    match s.hostAccess q n permR .load 0 with
    | .wait s => s.setHostReq q
    | .fail st s => (s.untold me).hostAnswer q.head st [] []
    | .done v s =>
      let q := { q with addr := q.addr + n, bytes := q.bytes ++ leBytes n v.toNat, left := q.left - n }
      if q.left = 0 then (s.untold me).hostAnswer q.head 0 [] q.bytes else s.setHostReq q

/-- READ (R477). -/
def execHostRead (s : State) : Outc :=
  .next (s.hostRequest 2 fun h s =>
    let a := s.arg
    if 8192 < a.value ∨ (s.vdev? a.vd).isNone then s.hostAnswer h 3 [] []
    else s.hostReadStep (s.hostReq ⟨h, a.chip, a.addr, [], a.value⟩))

/-! ### ENQUEUE and WAKE (R477) -/

/-- ENQUEUE: the enqueue of R240 on the queue that ADDR[2:0] names; the answer carries the ID, and an enqueue that waits for the
page service is answered when it is done. -/
def execHostEnqueue (s : State) : Outc :=
  .next (s.hostRequest 3 fun h s =>
    let a := s.arg
    if a.words.length ≠ 8 ∨ (s.vdev? a.vd).isNone then s.hostAnswer h 3 [] []
    else
      let s := s.setConn a.conn a.vd (a.seq + 1)
      s.tryEnqueue a.vd ⟨0, 0, 0, 0, 0, some h, a.addr % 8, a.words⟩)

/-- WAKE: 1 written to the wake register, once its home slice serves it (R462, R477). -/
def execHostWake (orig : State) : Outc :=
  .next (orig.hostRequest 4 fun h s =>
    let a := s.arg
    match s.vdev? a.vd with
    | none => s.hostAnswer h 3 [] []
    | some v =>
      match s.hostPerform { pa := v.wakeAddr, size := 8, cls := .store, data := 1, kind := .s, vd := a.vd, src := hostUnit a.chip } with
      | .done _ s => s.hostAnswer h 0 [] []
      | .wait _ => orig
      | .fail st s => s.hostAnswer h st [] [])

/-! ### MGMT (R478) -/

/-- A MGMT request, whose payload begins with a command word: another code than the request's, a bit of the word that its row does not
use, and in recovery every request but an image (log entry 132), are answered ACCESS (R478, R480). -/
def State.mgmtRequest (s : State) (code : Nat) (used : BitVec 56) (act : Header → State → State) : State :=
  s.hostRequest opMgmt fun h s =>
    let w := s.arg.words.headD 0
    if (s.chip s.arg.chip).power = .recovery ∨ fld w.toNat 56 8 ≠ code ∨ (w.setWidth 56 &&& ~~~used) ≠ 0 then s.hostAnswer h 3 [] []
    else act h s

/-- The first local address of supervisor space (R465). -/
def supBase : Nat := 0x080100000000

/-- Whether a run of `n` bytes is whole words of supervisor space. -/
def supRun (addr n : Nat) : Bool :=
  decide (addr % 8 = 0 ∧ n % 8 = 0 ∧ 8 ≤ n ∧ n ≤ 8192 ∧ supBase ≤ addr ∧ addr + n ≤ supBase + 2 ^ 32)

/-- Words read in rising order, with the status so far: a word of a core that is not shown reads zero and makes it BUSY (R472); the first
that is refused ends the read. -/
def State.supReadRun (s : State) (chip : Nat) : Nat → Nat → Nat → List Word → Nat × List Word
  | 0, _, st, ws => (st, ws)
  | n + 1, off, st, ws =>
    match s.supRead chip off with
    | (0, w) => s.supReadRun chip n (off + 8) st (ws ++ [w])
    | (1, w) => s.supReadRun chip n (off + 8) 1 (ws ++ [w])
    | (e, _) => (e, [])

/-- SUPERVISOR_SPACE_READ (R478). -/
def execSupervisorSpaceRead (s : State) : Outc :=
  .next (s.mgmtRequest 1 0x1FFF#56 fun h s =>
    let a := s.arg
    let n := fld (a.words.headD 0).toNat 0 13
    if !supRun a.addr n then s.hostAnswer h 3 [] []
    else
      let (st, ws) := s.supReadRun a.chip (n / 8) (a.addr - supBase) 0 []
      s.hostAnswer h st ws [])

/-- Words written in rising order; the first that is refused ends the request with ACCESS. -/
def State.supWriteRun (s : State) (chip : Nat) : Nat → List Word → Nat × State
  | _, [] => (0, s)
  | off, w :: ws =>
    match s.supWrite chip off w with
    | some s => State.supWriteRun s chip (off + 8) ws
    | none => (3, s)

/-- SUPERVISOR_SPACE_WRITE (R478). -/
def execSupervisorSpaceWrite (s : State) : Outc :=
  .next (s.mgmtRequest 2 0#56 fun h s =>
    let a := s.arg
    if !supRun a.addr (8 * a.words.tail.length) then s.hostAnswer h 3 [] []
    else
      let (st, s) := s.supWriteRun a.chip (a.addr - supBase) a.words.tail
      s.hostAnswer h st [] [])

end Sys2Proof.Machine
end

