-- ==== Sys2Proof/Machine/Power.lean ====
section
/-! DEFINITION. Boot, power and attestation (R456 to R458, R480 to R483): the SPDM requests with KEY_INSTALL, ENTER_ON, ENTER_STANDBY,
ENTER_OFF, SET_MODULE_CAP, POWER_ON, RECOVERY_IMAGE_WRITE, POWER_SAMPLE, COOLANT_TRIP. -/

namespace Sys2Proof.Machine

/-! ### SPDM (R457) -/

/-- The core maps of a package that are not as at the first boot: node, and the slot of each active core (R21). -/
def State.coreMaps (s : State) (chip : Nat) : List Word :=
  (List.filter (fun (x : Nat × Cluster) => x.1 / 1024 == chip && x.2.map != tab 8 id) s.clus).flatMap fun x =>
    [BitVec.ofNat 64 (x.1 % 1024), BitVec.ofNat 64 (x.2.map.foldr (fun i n => n * 16 + i) 0)]

/-- The spares in use: pseudo-channels that are no longer their own, and lanes of links that have failed (R94, R460). -/
def Chip.sparesUsed (c : Chip) : List Word :=
  c.pcs.map (fun (x : Nat × PcState) => BitVec.ofNat 64 (x.1 * 4 + (match x.2 with
    | .good => 0 | .copying => 1 | .remapped => 2 | .failed => 3))) ++
  List.flatMap (fun (x : Nat × Port) => ((tab 9 id).filter fun i => !x.2.lanes.getD i true).map fun i => BitVec.ofNat 64 (x.1 * 16 + i)) c.ports

/-- The contents of a measurement block, in an order of the model's own (R457, log entry 76). -/
def State.measurement (s : State) (chip i : Nat) : List Word :=
  let c := s.chip chip
  let num := fun (l : List Nat) => l.map fun n => BitVec.ofNat 64 n
  match i with
  | 1 => [BitVec.ofNat 64 c.version, BitVec.ofNat 64 c.digest]
  | 2 => num (c.hbmGiB ++ c.expGiB ++ c.trc ++ c.rhth)
  | 3 => BitVec.ofNat 64 c.repairs :: (s.coreMaps chip ++ c.sparesUsed)
  | 4 => num c.keys
  | 5 => c.blocks.flatMap (fun (x : Nat × Block) => num [x.1, match x.2 with
      | .free => 0 | .split => 1 | .assigned => 2]) ++
    List.flatMap (fun (x : Nat × VdSlot) => if x.2.vd = 0 then [] else x.2.desc) c.slots
  | _ => []

/-- An SPDM request carried by MGMT (code 0x03, ADDR zero): taken up where `ok` holds of the session, which `f` then changes. The
response carries what the rule names; its form and its signature are a free value. A request out of its order is answered with an
empty response and changes nothing (R457, R478, log entry 76). -/
def State.spdmRequest (s : State) (ok : Spdm → Bool) (f : Spdm → Spdm) (carries : State → List Word) : State :=
  s.mgmtRequest 3 0#56 fun h s =>
    let chip := s.arg.chip
    if s.arg.addr ≠ 0 then s.hostAnswer h 3 [] []
    else if ok (s.chip chip).spdm then
      let (w, t) := s.freeWord
      (t.updChip chip fun c => { c with spdm := f c.spdm }).hostAnswer h 0 (w :: carries s) []
    else s.hostAnswer h 0 [] []

/-- GET_VERSION begins the exchange anew; the version is 1.3 (R457). -/
def execGetVersion (s : State) : Outc :=
  .next (s.spdmRequest (fun _ => true) (fun _ => { version := true }) fun _ => [0x13])

/-- GET_CAPABILITIES (R457). -/
def execGetCapabilities (s : State) : Outc :=
  .next (s.spdmRequest (fun x => x.version) (fun x => { x with caps := true }) fun _ => [])

/-- NEGOTIATE_ALGORITHMS: ECDSA on P-384, SHA-384, ECDHE on P-384, AES-256-GCM, each by its size (R457). -/
def execNegotiateAlgorithms (s : State) : Outc :=
  .next (s.spdmRequest (fun x => x.caps) (fun x => { x with algs := true }) fun _ => [384, 384, 384, 256])

/-- GET_DIGESTS (R457). -/
def execGetDigests (s : State) : Outc := .next (s.spdmRequest (fun x => x.algs) id fun _ => [])
/-- GET_CERTIFICATE (R457). -/
def execGetCertificate (s : State) : Outc := .next (s.spdmRequest (fun x => x.algs) id fun _ => [])
/-- CHALLENGE (R457). -/
def execChallenge (s : State) : Outc := .next (s.spdmRequest (fun x => x.algs) id fun _ => [])

/-- GET_MEASUREMENTS: one of the blocks 1 to 5 (R457, R458). -/
def execGetMeasurements (s : State) : Outc :=
  .next (s.spdmRequest (fun x => x.algs && decide (1 ≤ s.arg.index ∧ s.arg.index ≤ 5)) id fun s => s.measurement s.arg.chip s.arg.index)

/-- KEY_EXCHANGE (R457). -/
def execKeyExchange (s : State) : Outc :=
  .next (s.spdmRequest (fun x => x.algs) (fun x => { x with keyex := true, session := false, accepted := false }) fun _ => [])

/-- FINISH establishes the session; the request says whether its verifier has accepted measurements 1 to 5 (R457). -/
def execFinish (s : State) : Outc :=
  .next (s.spdmRequest (fun x => x.keyex && !x.session) (fun x => { x with session := true, accepted := s.arg.flag }) fun _ => [])

/-- END_SESSION (R457). -/
def execEndSession (s : State) : Outc :=
  .next (s.spdmRequest (fun x => x.session) (fun x => { x with keyex := false, session := false, accepted := false }) fun _ => [])

/-- KEY_INSTALL: inside a session whose verifier has accepted the measurements, the key of a virtual device that exists on the chip
is installed; outside one it is refused, which the answer says with ACCESS (R457, log entry 76). -/
def execKeyInstall (s : State) : Outc :=
  let vd := s.arg.index
  .next (s.mgmtRequest 3 0#56 fun h s =>
    let chip := s.arg.chip
    let x := (s.chip chip).spdm
    let here := ((s.vdev? vd).map fun v => v.created.contains chip && !v.dying).getD false
    if s.arg.addr = 0 ∧ x.session ∧ x.accepted ∧ here then
      let (w, s) := s.freeWord
      let s := s.updChip chip fun c => { c with keys := insertNat vd c.keys }
      (s.updSlot chip (s.vdSlot vd chip) fun y => { y with keyed := true }).hostAnswer h 0 [w] []
    else s.hostAnswer h 3 [] [])

/-! ### Power (R480 to R483) -/

/-- A power command with its CMD, of which 4 carries a cap (code 0x04, ADDR zero): carried out, or refused with ACCESS (R478, R482). -/
def State.powerCommand (s : State) (cmd : Nat) (ok : State → Bool) (f : State → State) : State :=
  s.mgmtRequest 4 (if cmd = 4 then 0xF000000000FFFF#56 else 0xF0000000000000#56) fun h s =>
    if s.arg.addr = 0 ∧ fld (s.arg.words.headD 0).toNat 52 4 = cmd ∧ ok s then (f s).hostAnswer h 0 [] [] else s.hostAnswer h 3 [] []

/-- The ports that retrain at the entry into ON: all but those out of service. -/
def Chip.retrain (c : Chip) (now : Nat) : AMap Port :=
  (tab 12 id).foldl (fun t q => let p := c.port q; AMap.put t q { p with training := p.inService && !p.dead, since := now }) c.ports

/-- What a package loses whose logic is without power: SRAM, the lines of L2, of which those written are written back, cores and
clusters, and what is on its way there. The core maps are built from the repair tables; the full/empty bits and errors of mapped memory
stay with it (R482). -/
def State.powerDown (s : State) (chip : Nat) : State :=
  let on := fun (u : UnitId) => u.chip == chip
  let sram := fun (a : Nat) => chipOf a == chip && !mappedPa a
  { s with
    mem := s.mem.filter (fun c => !sram c.1),
    fe := s.fe.filter (fun w => !sram (8 * w)),
    bad := s.bad.filter (fun w => !sram (8 * w.1)),
    media := s.media.filter (fun m => chipOf (256 * m.line) != chip),
    l2 := s.l2.filter (fun l => chipOf (256 * l) != chip),
    olds := s.olds.filter (fun o => keyChip o.core != chip),
    retry := s.retry.filter (fun w => !on w.owner),
    pkts := s.pkts.filter (fun p => !on p.src && !on p.dst),
    flits := s.flits.filter (fun f => f.chip != chip),
    invals := s.invals.filter (fun i => i.chip != chip),
    cores := List.filter (fun (x : Nat × Core) => keyChip x.1 != chip) s.cores,
    clus := s.clus.map (fun (x : Nat × Cluster) =>
      if x.1 / 1024 = chip then (x.1, ({ map := x.2.map } : Cluster)) else x) }

/-- What a package without any power has lost beyond that: its memory, the virtual devices on it, and its connections. -/
def State.powerLoss (s : State) (chip : Nat) : State :=
  let gone := (List.filter (fun (x : Nat × VDev) => x.2.created.contains chip) s.vds).map Prod.fst
  let s := s.powerDown chip
  { s with
    mem := s.mem.filter (fun c => chipOf c.1 != chip),
    fe := s.fe.filter (fun w => chipOf (8 * w) != chip),
    bad := s.bad.filter (fun w => chipOf (8 * w.1) != chip),
    told := s.told.filter (fun x => !gone.any x.1.serves),
    clear := s.clear.filter (fun l => chipOf (256 * l) != chip),
    touched := s.touched.filter (fun l => chipOf (256 * l) != chip),
    retry := s.retry.filter (fun w => !gone.contains w.acc.vd),
    pkts := s.pkts.filter (fun p => !gone.contains p.vd),
    walks := s.walks.filter (fun w => !gone.contains w.vd),
    wcache := s.wcache.filter (fun w => !gone.contains w.vd),
    invals := s.invals.filter (fun i => !gone.contains i.vd),
    cores := List.filter (fun (x : Nat × Core) => !gone.contains x.2.owner) s.cores,
    vds := List.filter (fun (x : Nat × VDev) => !gone.contains x.1) s.vds,
    conns := s.conns.filter (fun c => c.chip != chip),
    hostQ := s.hostQ.filter (fun q => q.chip != chip) }

/-- ENTER_ON: from STANDBY; the scale-up links retrain (R482). -/
def execEnterOn (s : State) : Outc :=
  .next ((s.powerCommand 1 (fun s => (s.chip s.arg.chip).power == .standby) fun s =>
    s.updChip s.arg.chip fun c => { c with power := .training, ports := c.retrain s.now }).trained s.arg.chip)

/-- ENTER_STANDBY: when every virtual device of the package is in BIVOUAC or destroyed; supervisors, host ports and HBM stay (R482). What
a context kept in place held on the package is lost with the rest of its SRAM (log entry 133). -/
def execEnterStandby (s : State) : Outc :=
  .next (s.powerCommand 2 (fun s => List.all s.vds fun (x : Nat × VDev) => !x.2.created.contains s.arg.chip || x.2.res == .bivouac)
    fun s => (s.powerDown s.arg.chip).updChip s.arg.chip fun c => { c with power := .standby })

/-- ENTER_OFF: from STANDBY; nothing is held, the connection of the command among it (R482). -/
def execEnterOff (s : State) : Outc :=
  let t := s.powerCommand 3 (fun s => (s.chip s.arg.chip).power == .standby) fun s => s.updChip s.arg.chip fun c => { c with power := .off }
  .next (if (s.chip s.arg.chip).power ≠ .off ∧ (t.chip s.arg.chip).power = .off then t.powerLoss s.arg.chip else t)

/-- SET_MODULE_CAP: 1,500 W to 3,200 W (R483). -/
def execSetModuleCap (s : State) : Outc :=
  let w := fld (s.arg.words.headD 0).toNat 0 16
  .next (s.powerCommand 4 (fun _ => decide (1500 ≤ w ∧ w ≤ 3200)) fun s => s.updChip s.arg.chip fun c => { c with modCap := w })

/-- Whether the ROM runs an image: both signatures verify, and its version is not below the rollback counter (R480). -/
def Chip.verified (c : Chip) (i : Image) : Bool := i.ecdsaOk && i.lmsOk && decide (c.rollback ≤ i.version)

/-- The two supervisors of each die that take over at a boot, of those in service (R480). -/
def onDuty (sups : List Bool) : List Nat :=
  (tab 4 id).flatMap fun d => ((tab 4 fun j => 4 * d + j).filter fun j => sups.getD j false).take 2

/-- The package as its boot leaves it: STANDBY under the firmware of the first slot that verifies, whose digest is measurement 1, else
recovery; the supervisors that fail the self-test are out of service. Flash, fuses, the populated extents and the repair tables are as
before (R480, R481). -/
def Chip.booted (c : Chip) (failing : Word) : Chip :=
  let ports := c.ports.map fun (x : Nat × Port) => (x.1, ({ lanes := x.2.lanes, inService := x.2.inService } : Port))
  let sups := tab 16 fun i => c.sups.getD i false && !failing.getLsbD i
  let duty := onDuty sups
  let fresh : Chip := { flash := c.flash, rollback := c.rollback, hbmGiB := c.hbmGiB, expGiB := c.expGiB, sups := sups, duty := duty,
                        lead := if duty.contains c.lead then c.lead else duty.headD c.lead,
                        rhth := c.rhth, trc := c.trc, pcs := c.pcs, spare := c.spare, repairs := c.repairs, ports := ports,
                        coolantReports := c.coolantReports }
  match c.flash.find? c.verified with
  | some i => { fresh with power := .standby, version := i.version, digest := i.digest }
  | none => { fresh with power := .recovery }

/-- POWER_ON: from OFF, or from recovery, the package boots; the event names the supervisors that fail their self-test (R480 to
R482). -/
def execPowerOn (s : State) : Outc :=
  let chip := s.arg.chip
  let p := (s.chip chip).power
  .next (if p = .off ∨ p = .recovery then (s.powerLoss chip).updChip chip fun c => c.booted (s.arg.words.headD 0) else s)

/-- RECOVERY_IMAGE_WRITE: a MGMT request that only recovery takes: an image that verifies is written to a slot; another is refused
(R480). -/
def execRecoveryImageWrite (s : State) : Outc :=
  let i := s.arg.image
  let slot := s.arg.index
  .next (s.hostRequest opMgmt fun h s =>
    let c := s.chip s.arg.chip
    if c.power = .recovery ∧ slot < 2 ∧ c.verified i then
      (s.updChip s.arg.chip fun c => { c with flash := c.flash.set slot i }).hostAnswer h 0 [] []
    else s.hostAnswer h 3 [] [])

/-- A cap lowered by as much as the supervisors choose, to 1 at the least. -/
def lowered (cap pick : Nat) : Nat := if cap ≤ 1 then 1 else 1 + pick % (cap - 1)

/-- POWER_SAMPLE: the caps are lowered while the power exceeds the module cap, and restored once it is 5 % below (R483). -/
def execPowerSample (s : State) : Outc :=
  let chip := s.arg.chip
  let w := s.arg.value
  let c := s.chip chip
  let (a, s) := s.freeNat
  let (b, s) := s.freeNat
  .next (
    if c.power ≠ .on then s
    else if c.modCap < w then
      s.updChip chip fun c => { c with throttled := true, capLow := lowered c.capLow a,
                                       injLow := lowered (if c.injLow = 0 then 65 else c.injLow) b }
    else if c.throttled ∧ w * 100 ≤ c.modCap * 95 then
      s.updChip chip fun c => { c with throttled := false, capLow := if c.coolant then 1 else 16, injLow := 0 }
    else s)

/-- COOLANT_TRIP: the supervisors hold CAP at 1 and report to the host (R483, log entry 80). -/
def execCoolantTrip (s : State) : Outc :=
  let chip := s.arg.chip
  .next (if (s.chip chip).power = .on then s.updChip chip fun c =>
    { c with coolant := true, capLow := 1, coolantReports := c.coolantReports + 1 } else s)

end Sys2Proof.Machine
end

