-- ==== Sys2Proof/Machine/Belay.lean ====
section
/-! DEFINITION. The belay network (R472 to R474): BELAY_READ, BELAY_WRITE, BELAY_ANSWER, BELAY_EVENT. -/

namespace Sys2Proof.Machine

/-- The fields of a belay message (R474). -/
structure BelayMsg where
  ty    : Nat
  sdie  : Nat
  sstop : Nat
  ddie  : Nat
  dstop : Nat
  code  : Nat
  off   : Nat
  deriving DecidableEq, Repr

/-- A message's word 0 taken apart. -/
def belayMsg (w : Word) : BelayMsg :=
  let f := fun lo n => fld w.toNat lo n
  ⟨f 60 4, f 58 2, f 49 9, f 47 2, f 38 9, f 32 6, f 0 32⟩

/-- A message's word 0. -/
def BelayMsg.word (m : BelayMsg) : Word :=
  BitVec.ofNat 64 (m.ty * 2 ^ 60 + m.sdie * 2 ^ 58 + m.sstop * 2 ^ 49 + m.ddie * 2 ^ 47 + m.dstop * 2 ^ 38 + m.code * 2 ^ 32 + m.off)

/-- The answer of a stop: a STATUS of R86 and the data. -/
def BelayMsg.answer (m : BelayMsg) (status : Nat) : BelayMsg :=
  { m with ty := 2, sdie := m.ddie, sstop := m.dstop, ddie := m.sdie, dstop := m.sstop, code := status }

/-- Whether an offset lies in an inspection window (R472). -/
def inspection (off : Nat) : Bool := decide (0x10000000 ≤ off ∧ off < 0x12400000)

/-- A message put on the network. -/
def State.belaySend (s : State) (chip : Nat) (m : BelayMsg) (data : Word) : State :=
  { s.updChip chip (fun c => { c with belay := c.belay ++ [⟨s.nextId, m.word, data⟩] }) with nextId := s.nextId + 1 }

/-- A request that a supervisor's firmware has sent reaches a stop (R473, R474); the firmware is outside the model. -/
def State.belayRequest (s : State) (ty : Nat) (f : BelayMsg → State → State) : State :=
  let m := belayMsg (s.arg.words.headD 0)
  let c := s.chip s.arg.chip
  if m.ty = ty ∧ 256 ≤ m.sstop ∧ m.sstop < 260 ∧ c.duty.contains (4 * m.sdie + (m.sstop - 256)) ∧ c.power ≠ .off ∧
      (m.dstop < 267 ∨ (m.dstop = 267 ∧ m.ddie % 2 = 0)) then f m s
  else s

/-- BELAY_READ: the stop answers; the inspection window of a core that is not at the stop with ACCESS (log entry 127); the contents of the service registers are not in the spec and are free values (R474). -/
def execBelayRead (s : State) : Outc :=
  .next (s.belayRequest 0 fun m s =>
    let chip := s.arg.chip
    if inspection m.off then
      let node := keyNode (windowCore chip ((m.off - 0x10000000) / 0x1000))
      if m.ddie = nodeDie node ∧ m.dstop = nodeInDie node then
        let (st, w) := s.supRead chip (m.off / 8 * 8)
        s.belaySend chip (m.answer st) w
      else s.belaySend chip (m.answer 3) 0
    else
      let (w, s) := s.freeWord
      s.belaySend chip (m.answer 0) w)

/-- BELAY_WRITE: an inspection window refuses writes with ACCESS; a service register takes the data (R472, R474). -/
def execBelayWrite (s : State) : Outc :=
  .next (s.belayRequest 1 fun m s => s.belaySend s.arg.chip (m.answer (if inspection m.off then 3 else 0)) (s.arg.words.getD 1 0))

/-- The message of a package that an event names, if it has the type. -/
def State.belayFind (s : State) (ty : Nat) : Option Belay :=
  (s.chip s.arg.chip).belay.find? fun b => b.id == s.arg.id && (belayMsg b.w0).ty == ty

/-- A message that has reached its stop leaves the network. -/
def State.belayDone (s : State) (id : Nat) : State :=
  s.updChip s.arg.chip fun c => { c with belay := c.belay.filter fun b => b.id != id }

/-- BELAY_ANSWER: the answer reaches the supervisor that asked (R474). -/
def execBelayAnswer (s : State) : Outc :=
  .next (match s.belayFind 2 with
    | some b => s.belayDone b.id
    | none => s)

/-- TRAPVAL of the VIOLATION that froze a master: of the level that raised it, or of the launch fault that its channel or
sequencer reported, as long as that record is held; otherwise a free value (R439, R443). -/
def State.frozenVal (s : State) (k master : Nat) : Word :=
  let c := s.core k
  let mine := fun (f : List Word) =>
    let w := (f.headD 0).toNat
    fld w 0 8 == Cause.violation && fld w 11 2 == master && fld w 45 19 == keyCluster k
  let records := ((s.vdev? c.owner).map fun v => v.launches.filterMap Launch.fault).getD []
  let level := c.levels.findSome? fun (l : Lvl) => if fld l.trapcause.toNat 0 8 = Cause.violation then some l.trapval else none
  match (if master = 0 then level else (records.find? mine).map fun f => f.getD 2 0) with
  | some w => w
  | none => Config.freeWord s.free

/-- TRAPCAUSE of the fault with a cause that stopped a core: of the level that raised it, or of the launch fault that its channel or
sequencer reported (R439, R471). -/
def State.stopCause (s : State) (k cause : Nat) : Word :=
  let c := s.core k
  let unit := fun (f : List Word) =>
    let w := (f.headD 0).toNat
    fld w 0 8 == cause && fld w 11 2 != 0 && fld w 45 19 == keyCluster k
  let records := ((s.vdev? c.owner).map fun v => v.launches.filterMap Launch.fault).getD []
  let level := c.levels.findSome? fun (l : Lvl) => if fld l.trapcause.toNat 0 8 = cause then some l.trapcause else none
  (level <|> (records.find? unit).map fun f => BitVec.ofNat 64 (fld (f.headD 0).toNat 0 11)).getD (BitVec.ofNat 64 cause)

/-- The entry that a belay event calls for: type, VDID and body (R471, R474). -/
def State.belayEntry (s : State) (chip : Nat) (b : Belay) : Option (Nat × Nat × List Word) :=
  let d := b.w1.toNat
  let k := windowCore chip (fld d 0 14)
  match (belayMsg b.w0).code with
  | 0x01 => some (0x03, (s.core k).owner, [BitVec.ofNat 64 (fld d 0 14), s.stopCause k (fld d 16 8)])
  | 0x02 => some (0x05, (s.core k).owner, [BitVec.ofNat 64 (fld d 0 18), s.frozenVal k (fld d 16 2)])
  | 0x03 => some (0x07, 0, [BitVec.ofNat 64 (fld d 0 8 + ((s.chip chip).port (fld d 0 4)).controlLost.toNat * 2 ^ 8)])
  | 0x06 => some (0x07, 0, [BitVec.ofNat 64 (fld d 0 4 + 2 ^ 9)])
  | _ => none

/-- BELAY_EVENT: an event reaches the lead supervisor, which writes the entry that it calls for (R471, R474). -/
def execBelayEvent (s : State) : Outc :=
  .next (match s.belayFind 3 with
    | some b =>
      let entry := s.belayEntry s.arg.chip b
      let s := { s.belayDone b.id with free := s.free + 1 }
      match entry with
      | some (ty, vd, body) => s.ringEntry s.arg.chip ty vd body
      | none => s
    | none => s)

end Sys2Proof.Machine
end

