-- ==== Sys2Proof/Machine/Issue.lean ====
section
/-! DEFINITION. Fetch and issue (R218, R251, R252, R263 to R277): the fetch of a word or a prefixed pair, the registers an instruction
names, interlocks and STALL_SHORT, the choice of the issuing level, and ROPE_PREFIX, ILLEGAL_ENCODING and
INSTRUCTION_FETCH_FAULT. -/

namespace Sys2Proof.Machine

/-! ### Fetch (R217, R218, R263, R265) -/

/-- What the fetch of a parcel of mapped code uses: its translation, its physical address, and the parcel when it fills the
instruction cache. -/
structure ParcelUse where
  entry : TlbEntry
  vd    : Nat
  pa    : Nat
  new   : Option Parcel
  deriving DecidableEq, Repr

/-- What the fetch of one parcel gives: its value and what it uses, a cause with its TRAPVAL, a page to wait for, or a home slice
that does not serve it yet. -/
inductive ParcelRes where
  | ok (p : Nat) (use : Option ParcelUse)
  | fail (cause : Nat) (val : Word)
  | miss (page : Nat)
  | hold
  deriving DecidableEq, Repr

/-- A parcel of inbox code (R217, R218). -/
def Lvl.inboxParcel (l : Lvl) (va : Word) : ParcelRes :=
  let code := ((l.act.map Act.code).getD none).getD []
  let o := (va - BitVec.ofNat 64 (2 ^ 63)).toNat
  if o + 2 ≤ code.length then .ok (leNat (code.drop o |>.take 2)) none else .fail Cause.access 0

/-- A parcel of mapped code. A parcel that the cluster's cache holds may be the old one or what memory holds by now, as the
device chooses (R265); another waits at its home slice for its word's waiters and at the memory controller's gates (R71, R453, R454). -/
def State.mappedParcel (s : State) (k : Nat) (l : Lvl) (va : Word) (i : Nat) : ParcelRes :=
  let c := s.core k
  if 2 ^ 56 ≤ va.toNat then .fail Cause.access 0
  else match s.xlate c.tlb l.xl c.owner va.toNat permX with
    | .miss => .miss (va.toNat / 2 ^ 16)
    | .denied t => .fail Cause.xlateDeny t
    | .lost c => .fail c 0
    | .ok pa _ e =>
      if !s.populated pa then .fail Cause.access 0
      else
        let m := s.peek pa 2
        match ((s.clu (keyCluster k)).icache.find? fun e => e.1 == (c.owner, pa)).map Prod.snd with
        | some p =>
          if s.isBad pa then .fail Cause.eccUncorr 0
          else .ok (if Config.freeBool (s.free + i) then p.toNat else m) (some ⟨e, c.owner, pa, none⟩)
        | none =>
          if s.memWaits c.owner pa || s.owed pa 2 then .hold
          else if s.isBad pa then .fail Cause.eccUncorr 0
          else .ok m (some ⟨e, c.owner, pa, some (BitVec.ofNat 16 m)⟩)

/-- The parcel `i` of the word at the level's PC. -/
def State.parcel (s : State) (k : Nat) (l : Lvl) (i : Nat) : ParcelRes :=
  let va := l.pc + BitVec.ofNat 64 (2 * i)
  if l.inInbox then l.inboxParcel va else s.mappedParcel k l va i

/-- What a level has to issue next: an instruction with its pattern, and the rope of its prefix; a pattern that is no instruction
(R277); a failing parcel with its cause, TRAPVAL and address; pages to wait for; or a parcel that its home slice does not serve yet. -/
inductive Fetched where
  | instr (word : Nat) (rope : Option RopeName) (i : Instr) (uses : List ParcelUse)
  | illegal (word : Nat)
  | fail (cause : Nat) (val addr : Word)
  | miss (page : Nat)
  | hold
  deriving DecidableEq, Repr

/-- The rope-sel bit of a word in format M or that counts as format M (R274, R344, R383, R387). -/
def Instr.ropeSel : Instr → Option Bool
  | .ld r _ _ _ _ _ | .st r _ _ _ _ _ | .ldx r _ _ _ _ _ _ | .stx r _ _ _ _ _ | .ldfeFf r _ _ _ _ | .ldfeFe r _ _ _ _
  | .stfeEf r _ _ _ _ | .stfeXf r _ _ _ _ | .feq r _ _ _ _ | .amoAdd r _ _ _ _ | .amoAnd r _ _ _ _ | .amoOr r _ _ _ _
  | .amoXor r _ _ _ _ | .amoMin r _ _ _ _ | .amoMax r _ _ _ _ | .amoMinn r _ _ _ _ | .amoMaxn r _ _ _ _
  | .amoSwap r _ _ _ _ | .amoCas r _ _ _ _ | .amoFaddF32 r _ _ _ _ | .amoFmaxF32 r _ _ _ _ | .vld r _ _ _ _
  | .vst r _ _ _ _ | .vgath r _ _ _ _ | .vscat r _ _ _ _ => some r
  | _ => none

/-- A word decoded on its own: rope-sel must be 0, and a prefix is no instruction by itself (R277). -/
def decodeAlone (w : Nat) (uses : List ParcelUse) : Fetched :=
  match decodeWord w with
  | some (.ropePrefix _) => .illegal w
  | some i => if Instr.ropeSel i = some true then .illegal w else .instr w none i uses
  | none => .illegal w

/-- A word behind a prefix: in format M with rope-sel 1 (R274, R277). -/
def decodePair (pre w : Nat) (uses : List ParcelUse) : Fetched :=
  match decodeWord pre, decodeWord w with
  | some (.ropePrefix r), some i =>
    if isLong w && Instr.ropeSel i == some true then .instr (pre * 2 ^ 32 + w) (some r) i uses else .illegal (pre * 2 ^ 32 + w)
  | _, _ => .illegal (pre * 2 ^ 32 + w)

/-- Whether a parcel is a ROPE prefix: compact op 15 (R274). -/
def isPrefix (p : Nat) : Bool := !isLong p && fld p 4 4 == 15

/-- One more parcel of the fetch; what stops it names the parcel's address. -/
def State.withParcel (s : State) (k : Nat) (l : Lvl) (i : Nat) (f : Nat → List ParcelUse → Fetched) : Fetched :=
  match s.parcel k l i with
  | .miss page => .miss page
  | .hold => .hold
  | .fail c v => .fail c v (l.pc + BitVec.ofNat 64 (2 * i))
  | .ok p use => f p use.toList

/-- The fetch at a level's PC (R263, R274). A prefix is judged with the word behind it (DEDUCED, log entry 139). -/
def State.fetch (s : State) (k : Nat) (l : Lvl) : Fetched :=
  s.withParcel k l 0 fun p0 f0 =>
    if isLong p0 then s.withParcel k l 1 fun p1 f1 => decodeAlone (p0 + p1 * 2 ^ 16) (f0 ++ f1)
    else if isPrefix p0 then
      s.withParcel k l 1 fun p1 f1 =>
        if isLong p1 then s.withParcel k l 2 fun p2 f2 => decodePair p0 (p1 + p2 * 2 ^ 16) (f0 ++ f1 ++ f2)
        else decodePair p0 p1 (f0 ++ f1)
    else decodeAlone p0 f0

/-! ### The registers an instruction names (R268, R270, R375) -/

/-- The old destination register is a source when pg names another predicate than p0 (R375). -/
def oldVd (pg : PReg) (vd : VName) : List Reg := if pg = 0 then [] else [.v vd.toNat]

/-- The registers that an instruction reads and writes, as its fields name them. -/
def Instr.uses : Instr → List Reg × List Reg
  | .padd rb ra rd | .psub rb ra rd | .ptag rb ra rd | .add rb ra rd | .sub rb ra rd | .and_ rb ra rd | .or_ rb ra rd
  | .xor_ rb ra rd | .shl rb ra rd | .shr rb ra rd | .sra rb ra rd | .rot rb ra rd | .slt rb ra rd | .sltn rb ra rd
  | .min_ rb ra rd | .max_ rb ra rd | .minn rb ra rd | .maxn rb ra rd | .mul rb ra rd | .mulh rb ra rd
  | .mulhn rb ra rd | .div rb ra rd | .divn rb ra rd | .rem rb ra rd | .remn rb ra rd | .ldx _ _ _ _ rb ra rd
  | .evposts _ rb ra rd => ([.x ra.toNat, .x rb.toNat], [.x rd.toNat])
  | .pget ra rd | .pstrip ra rd | .clz ra rd | .ctz ra rd | .popc ra rd | .brev ra rd | .addi _ ra rd | .andi _ ra rd
  | .ori _ ra rd | .xori _ ra rd | .slti _ ra rd | .shli _ ra rd | .shri _ ra rd | .srai _ ra rd | .roti _ ra rd
  | .jalr _ ra rd | .lnch _ ra rd | .ld _ _ _ _ ra rd | .ldfeFf _ _ _ ra rd | .ldfeFe _ _ _ ra rd | .feq _ _ _ ra rd
  | .evquiet ra rd | .evcount ra rd => ([.x ra.toNat], [.x rd.toNat])
  | .sel rb ra rd => ([.x ra.toNat, .x rb.toNat, .x rd.toNat], [.x rd.toNat])
  | .lui _ rd | .addpc _ rd | .mfcr _ rd | .mfid _ rd | .ropeXfer _ rd | .gbar _ rd | .gcount _ rd | .mxstat rd
  | .mxstatC rd | .rackQry rd => ([], [.x rd.toNat])
  | .bxt _ _ ra rd | .bxtn _ _ ra rd => ([.x ra.toNat], [.x rd.toNat])
  | .bins _ _ ra rd => ([.x ra.toNat, .x rd.toNat], [.x rd.toNat])
  | .beq _ rb ra | .bne _ rb ra | .blt _ rb ra | .bge _ rb ra | .blo _ rb ra | .bhs _ rb ra | .sendc _ rb ra
  | .aread _ rb ra | .tbind rb ra | .mcjoin rb ra | .evpost _ rb ra _ => ([.x ra.toNat, .x rb.toNat], [])
  | .bz _ ra | .bnz _ ra | .mtcr _ ra | .sleep ra | .waitx ra | .send _ ra | .evcfg _ ra | .pref _ ra | .cflush _ ra
  | .cinv _ ra | .tlbinv ra | .tlbinvB ra | .mxwait ra => ([.x ra.toNat], [])
  | .jal _ => ([], [.x 1])
  | .st _ _ _ _ ra rs | .stfeEf _ _ _ ra rs | .stfeXf _ _ _ ra rs | .fencef _ _ ra rs => ([.x ra.toNat, .x rs.toNat], [])
  | .stx _ _ _ rb ra rs => ([.x ra.toNat, .x rb.toNat, .x rs.toNat], [])
  | .amoAdd _ _ _ ra rd | .amoAnd _ _ _ ra rd | .amoOr _ _ _ ra rd | .amoXor _ _ _ ra rd | .amoMin _ _ _ ra rd
  | .amoMax _ _ _ ra rd | .amoMinn _ _ _ ra rd | .amoMaxn _ _ _ ra rd | .amoSwap _ _ _ ra rd
  | .amoFaddF32 _ _ _ ra rd | .amoFmaxF32 _ _ _ ra rd => ([.x ra.toNat, .x rd.toNat], [.x rd.toNat])
  | .amoCas _ _ _ ra rd => ([.x ra.toNat, .x rd.toNat, .x (rd.toNat + 1)], [.x rd.toNat])
  | .ropeAdopt _ rs => ([.x rs.toNat], [])
  | .spawn _ rb ra => ([.x ra.toNat, .x rb.toNat, .x 10, .x 11, .x 12, .x 13], [.x 1])
  | .mcld _ rb ra rc | .mcst _ rb ra rc => ([.x ra.toNat, .x rb.toNat, .x rc.toNat], [])
  | .vaddF pg vb va vd | .vsubF pg vb va vd | .vmulF pg vb va vd | .vminF pg vb va vd | .vmaxF pg vb va vd
  | .vaddI pg vb va vd | .vsubI pg vb va vd | .vmulI pg vb va vd | .vmulhI pg vb va vd | .vminI pg vb va vd
  | .vmaxI pg vb va vd | .vminn pg vb va vd | .vmaxn pg vb va vd | .vand pg vb va vd | .vandn pg vb va vd
  | .vor pg vb va vd | .vxor pg vb va vd | .vshl pg vb va vd | .vshr pg vb va vd | .vsra pg vb va vd
  | .vrot pg vb va vd => ([.v va.toNat, .v vb.toNat, .p pg.toNat] ++ oldVd pg vd, [.v vd.toNat])
  | .vfmaF pg vb va vd | .vfmsF pg vb va vd | .vmacI pg vb va vd => ([.v va.toNat, .v vb.toNat, .v vd.toNat, .p pg.toNat], [.v vd.toNat])
  | .vsel pg vb va vd => ([.v va.toNat, .v vb.toNat, .p pg.toNat], [.v vd.toNat])
  | .vcpy pg va vd | .vnegF pg va vd | .vabsF pg va vd | .vsqrtF pg va vd | .vnot pg va vd | .vnegI pg va vd
  | .vabsI pg va vd | .vclz pg va vd | .vpopc pg va vd | .vcvtFI pg va vd | .vcvtFN pg va vd | .vcvtIF pg va vd
  | .vnarBf16 pg va vd | .vnarFp16 pg va vd | .vnarE4m3 pg va vd | .vnarE5m2 pg va vd | .vnarE2m1 pg va vd
  | .vnarI8 pg va vd | .vldLs pg va vd | .vfexp2 pg va vd | .vrint pg va vd | .vexpx pg va vd | .vrcp pg va vd
  | .vrsq pg va vd => ([.v va.toNat, .p pg.toNat] ++ oldVd pg vd, [.v vd.toNat])
  | .vcmpFEq pg vb va pd | .vcmpFNe pg vb va pd | .vcmpFLt pg vb va pd | .vcmpFLe pg vb va pd | .vcmpFUn pg vb va pd
  | .vcmpIEq pg vb va pd | .vcmpINe pg vb va pd | .vcmpILt pg vb va pd | .vcmpILe pg vb va pd | .vcmpILo pg vb va pd
  | .vcmpILs pg vb va pd => ([.v va.toNat, .v vb.toNat, .p pg.toNat], [.p pd.toNat])
  | .vld _ _ pg ra vd => ([.x ra.toNat, .p pg.toNat] ++ oldVd pg vd, [.v vd.toNat])
  | .vst _ _ pg ra vd => ([.x ra.toNat, .v vd.toNat, .p pg.toNat], [])
  | .vstLs pg va vd => ([.v va.toNat, .v vd.toNat, .p pg.toNat], [])
  | .vgath _ pg vb ra vd => ([.x ra.toNat, .v vb.toNat, .p pg.toNat] ++ oldVd pg vd, [.v vd.toNat])
  | .vscat _ pg vb ra vd => ([.x ra.toNat, .v vb.toNat, .v vd.toNat, .p pg.toNat], [])
  | .tmld ra tm => ([.x ra.toNat], [.tm tm.toNat])
  | .sopen _ tm vs => ([.tm tm.toNat], [.v vs.toNat])
  | .sclose vs => ([], [.v vs.toNat])
  | .sstat rd _ => ([], [.x rd.toNat])
  | .pand pb pa pd | .por pb pa pd | .pxor pb pa pd => ([.p pa.toNat, .p pb.toNat], [.p pd.toNat])
  | .pnot pa pd => ([.p pa.toNat], [.p pd.toNat])
  | .pcnt rd pa | .pfirst rd pa | .pgetPredicate rd pa => ([.p pa.toNat], [.x rd.toNat])
  | .pset rs pd => ([.x rs.toNat], [.p pd.toNat])
  | .vraddF pg va rd | .vrmaxF pg va rd | .vrminF pg va rd | .vraddI pg va rd | .vrmaxI pg va rd | .vrminI pg va rd
  | .vrand pg va rd | .vror pg va rd | .vrxor pg va rd => ([.v va.toNat, .p pg.toNat], [.x rd.toNat])
  | .vbcast rs vd => ([.x rs.toNat], [.v vd.toNat])
  | .vext _ va rd => ([.v va.toNat], [.x rd.toNat])
  | .vins _ rs vd => ([.x rs.toNat, .v vd.toNat], [.v vd.toNat])
  | .vperm vb va vd => ([.v va.toNat, .v vb.toNat], [.v vd.toNat])
  | .vslideUp _ va vd | .vslideDn _ va vd => ([.v va.toNat], [.v vd.toNat])
  | .viota vd => ([], [.v vd.toNat])
  | .vexpi pg va vd => ([.v va.toNat, .v vd.toNat, .p pg.toNat], [.v vd.toNat])
  | .mxq vs rd => ([.v vs.toNat], [.x rd.toNat])
  | .cMv b a | .cLd b a => ([.x b.toNat], [.x a.toNat])
  | .cAdd b a | .cSub b a | .cAnd b a | .cOr b a => ([.x a.toNat, .x b.toNat], [.x a.toNat])
  | .cAddi _ a | .cShli _ a | .cShri _ a => ([.x a.toNat], [.x a.toNat])
  | .cLi _ a => ([], [.x a.toNat])
  | .cSt b a => ([.x a.toNat, .x b.toNat], [])
  | .cBnz _ a => ([.x a.toNat], [])
  | .j _ | .loop _ _ | .trap _ | .abort _ | .slave _ | .fence _ | .fenceSc _ | .ropeFork _ _ | .ropeJoin _ _ _
  | .ropeDrop _ | .ropeWait _ | .evflush _ | .gjoin _ | .gleave _ | .rackTake _ | .rackGive _ | .cJ _ | .ropePrefix _
  | .nop | .hintYield | .hintAlign | .done_ | .tret | .unslave | .tlbinvAll | .tlbinvBAll | .cDone | .cYield
  | .perform | .retryListService | .nackResend | .withdrawal | .watchdog | .storeBufferDrain | .response | .routeFlit
  | .injectFlit | .linkReceive | .linkReplay | .linkAcknowledge | .laneFailure | .retrainingEnd | .portOutOfService
  | .reassembly | .messageArrival | .dispatchEntryFill | .activationStart | .eventDelivery | .tableWalk | .pageAnswer
  | .tlbInvalidationAck | .cpgoRead | .copySector | .mma | .ldb | .rotb | .stc | .zc | .mnote | .mfen
  | .ringTransferEnd | .commandRetire | .matrixCommandDiscard | .governorWindow | .mailboxLanding | .rackGrant
  | .sleepEnd | .adoptService | .adoptAnswer | .fencefMarker | .areadReply | .post | .claim | .refill | .postSend
  | .postAck | .quiescenceSweep | .hostEnqueue | .launchStart | .entryPresentation | .launchCompletion
  | .quantumExpiry | .resume | .coreRepair | .multicastStoreLanding | .combinedAck | .mcldRequest | .mcldLineSend
  | .mcldLineArrival | .mergeReport | .lineClear | .budgetWindow | .rowThrottleEvent | .throttleEnd
  | .injectionCapWindow | .powerSample | .coolantTrip | .pseudoChannelRepair | .supervisorFailover | .partSplit
  | .partMerge | .vdCreate | .vdDestroy | .s2invPage | .s2invAll | .rtswap | .pageansRetry | .pageansDeny | .vdReset
  | .vdBivouac | .vdThaw | .dispinit | .groupTableWrite | .supervisorRegisterWrite | .dispbaseWrite | .tagbaseWrite
  | .rackfloorWrite | .fcrWrite | .mxgovWrite | .controlRegisterWrite | .hostWrite | .hostRead | .hostWake
  | .supervisorSpaceRead | .supervisorSpaceWrite | .getVersion | .getCapabilities | .negotiateAlgorithms
  | .getDigests | .getCertificate | .challenge | .getMeasurements | .keyExchange | .finish | .endSession
  | .keyInstall | .enterOn | .enterStandby | .enterOff | .setModuleCap | .powerOn | .belayRead | .belayWrite
  | .belayAnswer | .belayEvent | .illegalEncoding | .instructionFetchFault | .evquietTimeout | .alignTimeout
  | .resetDrainEnd | .contextSaveEnd | .bivouacEntered | .wakeEnd | .refreshWindow | .softError | .coreMapRewrite
  | .pseudoChannelRemap | .recoveryImageWrite => ([], [])

/-- What an instruction reads beside its fields: SEND the argument words it carries, DONE at INLINE > 0 the return address (R215,
R353). -/
def Lvl.moreReads (l : Lvl) (i : Instr) : List Reg :=
  match i with
  | .send _ ra => tab (fld (l.rx ra).toNat 44 3) fun n => .x (10 + n)
  | .done_ | .cDone => if l.inlineN = 0 then [] else [.x 1]
  | _ => []

/-- The register that a name reaches: a vector register's place in the rack, an open stream, or none (R374, R391). -/
def Lvl.reach (l : Lvl) : Reg → Option Reg
  | .v n => if n < 4 ∧ (l.streams.getD n none).isSome then some (.v (128 + n)) else (l.place n).map Reg.v
  | r => some r

/-- Whether an interlocked write to a register is outstanding: at the level, or for a tensor map, which the levels share, at any
(R270, R388, R389). -/
def Core.locked (c : Core) (l : Level) (q : Reg) : Bool :=
  match q with
  | .tm _ => c.lv.toList.any fun x => x.ilock.any fun e => e.1 == q
  | _ => (c.lvl l).ilock.any fun e => e.1 == q

/-- Whether a register an instruction names has an interlocked write outstanding (R270). -/
def Core.interlocked (c : Core) (l : Level) (i : Instr) : Bool :=
  let u := Instr.uses i
  let x := c.lvl l
  (u.1 ++ u.2 ++ x.moreReads i).any fun r => ((x.reach r).map (c.locked l)).getD false

/-- The code of a register in TRAPVAL of a STALL_SHORT (R269). -/
def Reg.code : Reg → Nat
  | .x n => n
  | .v n => 0x40 + n
  | .p n => 0x80 + n
  | .tm n => n

/-- The registers that an instruction reads and whose latest result is not visible yet; none where a vector name reaches no
register, which is ILLEGAL (R268, R269, R277). -/
def Lvl.shortReads (l : Lvl) (i : Instr) : List Reg :=
  let u := Instr.uses i
  if (u.1 ++ u.2).any fun r => (l.reach r).isNone then []
  else (u.1 ++ l.moreReads i).filter fun r => l.pend.any fun e => some e.reg == l.reach r

/-- TRAPVAL of the STALL_SHORT that an instruction raises; of several registers the device names one (R269). -/
def Lvl.stallShort (l : Lvl) (i : Instr) (free : Nat) : Option Word :=
  if l.stallchk.getLsbD 0 then
    let rs := l.shortReads i
    (rs[Config.freeNat free % rs.length]?).map fun r => BitVec.ofNat 64 r.code
  else none

/-! ### The issuing level (R251, R252) -/

/-- Whether a core runs: its package is in ON, and its virtual device runs on it, outside the scope of a reset under way (R446). -/
def State.coreRuns (s : State) (k : Nat) : Bool :=
  let c := s.core k
  c.run == .running && (s.chip (keyChip k)).power == .on && ((s.vdev? c.owner).map fun v => v.running && (v.reset == 0 || !v.scope.contains (keyChip k))).getD false

/-- Whether a core may still issue in this cycle: it has issued nothing in it, and nothing has ended the cycle there (R204,
R307). -/
def State.coreIssues (s : State) (k : Nat) : Bool :=
  s.coreRuns k && (s.core k).lastIssue != some s.now && (s.core k).ended == []

/-- Whether an access of a level waits on a full/empty condition, or for room to wait on it (R70, R72, R251). -/
def Core.feStands (c : Core) (l : Level) : Bool :=
  c.ops.any fun o => o.lev == l.val && o.act == (c.lvl l).acts && o.isFe && (match o.st with
    | .waiting => true
    | .withdrawing => true
    | .rewithdraw _ => true
    | .backoff _ => true
    | _ => false)

/-- Whether a level has an activation that waits for nothing and whose stall count has elapsed. -/
def State.levelFree (s : State) (k : Nat) (l : Level) : Bool :=
  let x := s.lvl k l
  x.act.isSome && x.wait == .ready && decide (x.readyAt ≤ s.now) && !(s.core k).feStands l

/-- Whether a level is ready (R251): its next instruction is fetched and its interlocked operands are available. -/
def State.levelReady (s : State) (k : Nat) (l : Level) : Bool :=
  s.levelFree k l &&
    match s.fetch k (s.lvl k l) with
    | .instr _ _ i _ => !(s.core k).interlocked l i
    | .miss _ => false
    | .hold => false
    | _ => true

/-- The better of two ready levels: an urgent one with the larger wait count, on a tie the lower; without an urgent one the
higher (R252). -/
def State.betterLevel (s : State) (k : Nat) (a b : Level) : Level :=
  let wa := (s.lvl k a).waited
  let wb := (s.lvl k b).waited
  if 61 ≤ wa ∨ 61 ≤ wb then (if wa < wb then b else if wb < wa then a else min a b) else max a b

/-- The level that issues (R252). -/
def State.pickLevel (s : State) (k : Nat) : Option Level :=
  match ([0, 1, 2, 3] : List Level).filter fun l => s.levelReady k l with
  | [] => none
  | l :: ls => some (ls.foldl (fun a b => s.betterLevel k a b) l)

/-- The levels whose fetch misses ask for their walks and wait (R33, R35, R263). -/
def State.askFetches (s : State) (chip node slot : Nat) : State :=
  let k := coreKey chip node slot
  ([0, 1, 2, 3] : List Level).foldl (fun s l =>
    if s.levelFree k l then
      match s.fetch k (s.lvl k l) with
      | .miss page => (({ s with cur := ⟨chip, node, slot, l⟩ }).updLvl k l fun x => { x with ipc := x.pc }).awaitPages [page]
      | _ => s
    else s) s

/-! ### Issuing (R222, R266, R268, R274) -/

/-- The state after a parcel's fetch: its translation used, a parcel that was missing in the instruction cache and read from its
home slice, recorded and corrected there (R30, R62, R65, R151, R265). -/
def State.useParcel (s : State) (k : Nat) (u : ParcelUse) : State :=
  let s := s.updCore k fun c => c.tlbHit (some u.entry)
  match u.new with
  | some p =>
    let s := s.trace { pa := u.pa, size := 2, cls := .load, mt := u.entry.mt, vd := u.vd, src := coreUnit k }
    ((s.lineServe u.vd u.pa u.entry.mt).correct u.pa).updClu (keyCluster k) fun c => { c with icache := c.icache ++ [((u.vd, u.pa), p)] }
  | none => s

/-- The state in which an instruction of the level issues: its address and pattern noted, its parcels fetched. -/
def State.beginIssue (s : State) (is_ : Issuer) (word : Nat) (uses : List ParcelUse) : State :=
  let k := coreKey is_.chip is_.node is_.slot
  let s := uses.foldl (fun s u => s.useParcel k u) { s with cur := is_, free := s.free + 4 }
  s.updLvl k is_.lev fun x => { x with ipc := x.pc, word := word, again := false }

/-- A follower once its leader, in its activation `act`, has issued the instruction at `pc`: it attaches where that is its next
PC, and an attached one has one more instruction to follow. It detaches where its own branch has led elsewhere and where it is
more than 8 instructions behind (R222). -/
def Lvl.led (y : Lvl) (act : Nat) (pc : Word) : Lvl :=
  match y.follow with
  | none => y
  | some w =>
    let on := w.attached && w.act == act
    let ahead := if on then w.ahead ++ [pc] else [pc]
    let meets := y.act.isSome && !y.inInbox && (ahead.head? == some y.pc)
    let on := meets && decide (ahead.length ≤ 8)
    { y with follow := some ⟨w.leader, on, act, if on then ahead else []⟩ }

/-- A level once it has itself issued the instruction at `pc`: an attached follower detaches where its own branch has led
elsewhere than the leader's, where it has left the leader's stream, and on entry into inbox code (R222). -/
def Lvl.followed (x : Lvl) (pc : Word) : Lvl :=
  match x.follow with
  | none => x
  | some w =>
    let rest := w.ahead.drop 1
    let on := w.attached && (w.ahead.head? == some pc) && !x.inInbox && (rest == [] || (rest.head? == some x.pc))
    { x with follow := some { w with attached := on, ahead := if on then rest else [] } }

/-- The followers of a cluster at a level, and the level itself as a follower, once it has issued the instruction at `pc` (R222). -/
def State.attach (s : State) (k : Nat) (l : Level) (pc : Word) : State :=
  let me := activeOf (s.clu (keyCluster k)) (keySlot k)
  let act := (s.lvl k l).acts
  let s := s.updLvl k l fun x => x.followed pc
  if 2 ^ 56 ≤ pc.toNat then s
  else (tab 9 fun i => coreKey (keyChip k) (keyNode k) i).foldl (fun s f =>
    if f ≠ k ∧ ((s.lvl f l).follow.map Follow.leader) = me ∧ me ≠ none then s.updLvl f l fun y => y.led act pc else s) s

/-- The level after an instruction with stall count S: it has issued, the next issues 1 + S cycles later, and the outstanding
results get their credit. An instruction that did not issue leaves the core's issue slot: its level is not ready in this cycle, which
leaves its wait count as it was, and it is tried again in the next; one that took a cause gives no credit (R204, R252, R266, R268). -/
def State.endIssue (s : State) (is_ : Issuer) (old : Lvl) (word : Nat) : State :=
  let k := coreKey is_.chip is_.node is_.slot
  let x := s.lvl k is_.lev
  let ended := x.act.isNone || x.acts != old.acts
  let took := x.wait == .trapped || (s.core k).run != .running
  if !ended && x.again && !took then
    s.updLvl k is_.lev fun x => { x with readyAt := max x.readyAt (s.now + 1) }
  else
    let n := 1 + stallOf word
    let s := s.updCore k fun c => { c with lastIssue := some s.now }
    let s := s.updLvl k is_.lev fun x => { x with readyAt := max x.readyAt (s.now + n), waited := 0 }
    if ended ∨ x.again = true then s
    else
      let s := s.updCore k fun c => c.credit is_.lev n
      (s.updLvl k is_.lev fun x => { x with xl := [] }).attach k is_.lev old.ipc

/-- The turn of a core in a cycle: the level that R252 chooses issues. `run` gives instructions their meanings. A register read too early
raises STALL_SHORT before the instruction's own checks (R269; DEDUCED, log entry 140). -/
def State.issueTurn (run : Instr → State → Outc) (s : State) (chip node slot : Nat) : Outc :=
  let k := coreKey chip node slot
  if !s.coreIssues k then .next s
  else
    let s := s.askFetches chip node slot
    match s.pickLevel k with
    | none => .next s
    | some l =>
      let is_ : Issuer := ⟨chip, node, slot, l⟩
      let finish := fun (o : Outc) (old : Lvl) (word : Nat) => match o with
        | .next t => Host.Outcome.next (t.endIssue is_ old word)
        | other => other
      match s.fetch k (s.lvl k l) with
      | .miss _ => .next s
      | .hold => .next s
      | .illegal w =>
        let s1 := s.beginIssue is_ w []
        finish (run .illegalEncoding { s1 with arg := { code := BitVec.ofNat 48 w } }) s1.curLvl w
      | .fail _ _ _ =>
        let s1 := s.beginIssue is_ 0 []
        finish (run .instructionFetchFault s1) s1.curLvl 0
      | .instr w rope i uses =>
        let s1 := s.beginIssue is_ w uses
        match s1.curLvl.stallShort i s.free with
        | some v => .next ((s1.raise Cause.stallShort v 0).endIssue is_ s1.curLvl w)
        | none =>
          match rope with
          | none => finish (run i s1) s1.curLvl w
          | some r =>
            match run (.ropePrefix r) s1 with
            | .next s2 => finish (run i s2) s1.curLvl w
            | other => other

/-! ### The three meanings -/

/-- ROPE_PREFIX names the rope of the word that follows, which issues with it (R274). -/
def execRopePrefix (rope : RopeName) (s : State) : Outc :=
  let l := s.curLvl
  .next (s.setCurLvl { l with pc := l.pc + 2, pfx := some rope.toNat })

/-- ILLEGAL_ENCODING: a pattern that is no instruction raises ILLEGAL, with TRAPVAL the pattern and TRAPPC its first parcel (R277). -/
def execIllegalEncoding (s : State) : Outc := .next (s.raise Cause.illegal (s.arg.code.setWidth 64) 0)

/-- INSTRUCTION_FETCH_FAULT: a parcel of the word at the level's PC that fails raises its cause, with TRAPADDR its address (R218,
R263, R277). Where none fails nothing happens. -/
def execInstructionFetchFault (s : State) : Outc :=
  .next (match s.fetch s.curKey s.curLvl with
    | .fail c v a => s.raise c v a
    | _ => s)

end Sys2Proof.Machine
end

