-- ==== Sys2Proof/Machine/Schedule.lean ====
section
/-! DEFINITION. The passing of a cycle, and the scheduler: the turns that the device itself could take next, one of which the device
chooses when the agenda names none (log entry 1). What comes from outside (the host, the page service, the hypervisor, the
supervisors' firmware, failures) comes by the agenda alone. -/

namespace Sys2Proof.Machine

/-! ### A cycle (R3, R93, R252, R255, R261) -/

/-- One more, saturating at 32 bits. -/
def satInc (n : Nat) : Nat := if n % 2 ^ 32 = 2 ^ 32 - 1 then 2 ^ 32 - 1 else n % 2 ^ 32 + 1

/-- Whether a core holds a flit of a plane and has injected none in this cycle (R93). A cycle in which it injects one flit while it
holds another is not counted (DESIGN CHOICE, log entry 122). -/
def State.heldFlit (s : State) (k : Nat) (pl : Plane) : Bool :=
  let c := s.clu (keyCluster k)
  let i := planeIx pl
  let took := (c.used.getD i []).contains 99 && c.injUnit.getD i 14 == keySlot k
  !took && s.pkts.any fun p => p.plane == pl && p.src == coreUnit k && (match p.stage with
    | .outbox _ => true
    | _ => false)

/-- INJSTAT after a cycle (R93). -/
def State.injCount (s : State) (k : Nat) (w : Word) : Word :=
  let c := fld w.toNat 0 32
  let d := fld w.toNat 32 32
  let c := if s.heldFlit k .control then satInc c else c
  let d := if s.heldFlit k .data then satInc d else d
  BitVec.ofNat 64 (d * 2 ^ 32 + c)

/-- Whether the governor holds the core's next MMA (R261). -/
def State.governed (s : State) (k : Nat) (c : Core) : Bool :=
  c.mmaWaits s.now && !(s.mmaAdmits (keyChip k) (keyNode k) ((activeOf (s.clu (keyCluster k)) (keySlot k)).getD 0))

/-- The mailbox writes of a cycle that have not landed land, and the next cycle begins for the core's units (R307). -/
def Core.endCycle (c : Core) (now : Nat) : Core :=
  { ((((c.mbLand now 0).mbLand now 1).mbLand now 2).mbLand now 3) with ended := [] }

/-- A core at the end of a cycle: wait counts, INJSTAT, MXSTALL, and the landings. -/
def State.cycleCore (s : State) (k : Nat) (c : Core) : Core :=
  let count := fun (l : Level) (x : Lvl) => if s.coreRuns k && s.levelReady k l then { x with waited := x.waited + 1 } else x
  let c := { c with lv := #v[count 0 (c.lvl 0), count 1 (c.lvl 1), count 2 (c.lvl 2), count 3 (c.lvl 3)],
                    injstat := s.injCount k c.injstat,
                    mx := if s.governed k c then { c.mx with stall := BitVec.ofNat 64 (satInc c.mx.stall.toNat) } else c.mx }
  c.endCycle s.now

/-- A cluster's router at the start of a cycle: its output ports are free again, those of the data plane every fourth cycle
(R81). -/
def Cluster.cycle (c : Cluster) (now : Nat) : Cluster :=
  let data := now % 4 == 0
  { c with used := [[], if data then [] else c.used.getD 1 []], old := [false, if data then false else c.old.getD 1 false] }

/-- A cycle passes. -/
def State.passCycle (s : State) : State :=
  let cores := s.cores.map fun (x : Nat × Core) => (x.1, s.cycleCore x.1 x.2)
  let clus := s.clus.map fun (x : Nat × Cluster) => (x.1, x.2.cycle (s.now + 1))
  let s := { s with now := s.now + 1, cores := cores, clus := clus }
  s.vds.foldl (fun s (x : Nat × VDev) => if x.2.step = 0 then s else s.preSteps x.1) s

/-! ### Candidate turns -/

/-- An event of a core. -/
def coreArg (k : Nat) : Arg := { chip := keyChip k, node := keyNode k, slot := keySlot k }

/-- The events that a delivered packet may bring. -/
def Packet.turns (p : Packet) : List Instr :=
  match p.payload with
  | .access _ _ => [.perform]
  | .marker _ _ _ => [.fencefMarker]
  | .entry _ _ _ => [.entryPresentation]
  | .copyData _ _ _ => [.perform]
  | .copyAck _ _ _ => [.response]
  | .lineBusy _ _ => [.combinedAck]
  | .resp _ _ _ _ => [.response]
  | .withdraw _ => [.withdrawal]
  | .withdrawn _ _ => [.response]
  | .flush _ _ => [.perform]
  | .message _ _ => [.messageArrival]
  | .adopt _ _ => [.adoptService, .adoptAnswer]
  | .adopted _ => [.response]
  | .aread _ _ _ => [.perform]
  | .areadReply _ _ _ => [.areadReply]
  | .post _ _ => [.post]
  | .postAck _ _ _ => [.postAck]
  | .mcst _ _ _ => [.multicastStoreLanding]
  | .mcData _ _ _ _ => [.multicastStoreLanding]
  | .mcldReq _ _ _ _ => [.mcldRequest]
  | .mcldLine _ _ _ _ _ _ _ => [.mcldLineArrival]
  | .comb _ _ _ _ _ _ => [.combinedAck]
  | .mcDone _ _ _ _ => [.response]
  | .mcldAnswer _ _ => [.response]
  | .merge _ _ _ _ _ _ _ => [.mergeReport, .response]
  | .nack _ _ => [.response]

/-- The argument of a delivered packet's event: its number, and for an entry the core that it names. -/
def Packet.arg (p : Packet) : Arg :=
  match p.payload with
  | .entry n _ _ => { id := p.id, vd := p.vd, index := n }
  | _ => { id := p.id }

/-- The turns of packets, waiters and refused requests. -/
def State.packetTurns (s : State) : List Turn :=
  (s.pkts.filterMap fun p => match p.stage with
    | .outbox _ => some (.event .injectFlit { chip := p.src.chip, node := p.src.node, plane := p.plane })
    | _ => none) ++
  (s.pkts.filter (fun p => p.stage == .arrived)).flatMap (fun p => p.turns.map fun i => .event i p.arg) ++
    s.retry.map (fun w => .event .retryListService { addr := w.acc.pa }) ++
    (List.flatMap (fun (x : Nat × Core) => x.2.ops.filterMap fun o => match o.st with
      | .backoff t => if t ≤ s.now then some (.event .nackResend { id := o.id }) else none
      | .rewithdraw t => if t ≤ s.now then some (.event .nackResend { id := o.id }) else none
      | .buffered => some (.event .storeBufferDrain { coreArg x.1 with id := o.id })
      | _ => none) s.cores) ++
    (List.flatMap (fun (x : Nat × Core) => (x.2.chan.queue.flatMap Xfer.flight).filterMap fun f =>
      if f.again.any fun t => decide (t ≤ s.now) then some (.event .nackResend { id := f.id }) else none) s.cores)

/-- The turns of a level that waits or runs. -/
def levelTurns (k : Nat) (l : Level) (x : Lvl) : List Turn :=
  let ev := fun i => Turn.event i { coreArg k with lev := l }
  (match x.wait with
   | .sleep _ => [ev .sleepEnd]
   | .evquiet _ _ _ => [ev .evquietTimeout]
   | .align _ => [ev .alignTimeout]
   | _ => []) ++ (if x.act.isSome then [ev .watchdog] else [])

/-- The turns of a core's units. -/
def coreTurns (k : Nat) (c : Core) : List Turn :=
  let a := coreArg k
  let ev := fun i => Turn.event i a
  (([0, 1, 2, 3] : List Level).flatMap fun l => levelTurns k l (c.lvl l) ++
    (if (c.lvl l).act.isNone && c.starters l != [] then [Turn.event .activationStart { a with lev := l }] else [])) ++
  c.dispAsk.map (fun t => .event .dispatchEntryFill { a with ty := BitVec.ofNat 8 t.1 }) ++
  (tab 16 id).filterMap (fun i => if (c.slots.getD i {}).st == .reserved then some (.event .eventDelivery { a with index := i }) else none) ++
  (if c.chan.queue = [] then [] else [ev .copySector]) ++
  (match c.mx.queue with
   | [] => []
   | m :: _ => [ev (match recKind m.words with
      | 0 => .mma | 1 => .ldb | 2 => .rotb | 3 => .stc | 4 => .zc | 5 => .mnote | _ => .mfen), ev .matrixCommandDiscard]) ++
  (if c.mx.ring != [] then [ev .ringTransferEnd] else []) ++
  (if c.mx.run = [] then [] else [ev .commandRetire]) ++
  ([0, 1, 2, 3].filterMap fun m => if c.mbq.getD m [] == [] || c.ended.contains m then none else some (.event .mailboxLanding { a with index := m })) ++
  (if c.takes = [] then [] else [ev .rackGrant]) ++
  (tab (c.ops.filter fun o => o.isPost.isSome).length fun i => .event .postSend { a with index := i }) ++
  (if c.run = .stopped then [.event .coreRepair a, .event .coreRepair { a with index := 1 }, .event .coreRepair { a with index := 2 }] else [])

/-- The turns of issuing cores. -/
def State.issueTurns (s : State) : List Turn :=
  List.filterMap (fun (x : Nat × Core) =>
    if s.coreIssues x.1 then some (.issue (keyChip x.1) (keyNode x.1) (keySlot x.1)) else none) s.cores

/-- The turns of a node. -/
def nodeTurns (now n : Nat) (c : Cluster) : List Turn :=
  let a : Arg := { chip := n / 1024, node := n % 1024 }
  let ev := fun i => Turn.event i a
  (if now % 64 = 0 then [ev .governorWindow, ev .injectionCapWindow] else []) ++
    (if c.cairn = [] ∧ c.cairnVd = [] then [] else [ev .claim, ev .refill]) ++
    c.merges.flatMap (fun m => [.event .mcldLineSend { a with index := m.group }, .event .mergeReport { a with index := m.group }]) ++
    (match c.repair with
     | some sl => [.event .coreMapRewrite { a with slot := sl }]
     | none => [])

/-- The turns of flits at routers and in reassembly. -/
def State.flitTurns (s : State) : List Turn :=
  s.flits.map fun f =>
    if f.port = 6 then .event .reassembly { chip := f.chip, node := f.node, id := f.id }
    else .event .routeFlit { chip := f.chip, node := f.node, plane := f.plane }

/-- The turns of a package. -/
def State.chipTurns (s : State) (chip : Nat) (c : Chip) : List Turn :=
  let a : Arg := { chip := chip }
  List.flatMap (fun (x : Nat × Port) =>
    let b := { a with port := x.1 }
    let far : Arg := { chip := neighbour chip (x.1 / 2), port := farPort x.1 }
    (if x.2.training then [Turn.event .retrainingEnd b] else []) ++
    (if (if x.2.dead then x.2.store.any (fun q => q != []) else x.2.training || !x.2.inService) then [Turn.event .portOutOfService b]
      else []) ++
    ([Plane.control, Plane.data].flatMap fun pl =>
      (if x.2.wire.getD (planeIx pl) [] == [] then [] else [Turn.event .linkReceive { far with plane := pl }]) ++
      (if x.2.store.getD (planeIx pl) [] == [] then [] else
        [Turn.event .linkAcknowledge { b with plane := pl }, Turn.event .linkReplay { b with plane := pl }]))) c.ports ++
  (match c.partq with
   | [] => []
   | w :: _ => [Turn.event (match (partCmd w).cmd with
      | 1 => .partSplit | 2 => .partMerge | 3 => .vdCreate | _ => .vdDestroy) a]) ++
  (if s.now % 4096 = 0 then [Turn.event .budgetWindow a] else []) ++
  List.flatMap (fun (x : Nat × Bank) =>
    let b := { a with stack := x.1 / 2048, pc := x.1 % 2048 / 32, bank := x.1 % 32 }
    x.2.parked.map (fun (t : Nat × Nat) => Turn.event .throttleEnd { b with vd := t.1 }) ++
      x.2.counts.filterMap fun (t : (Nat × Nat) × Nat) =>
        if c.rhth.getD (x.1 / 2048) 0 ≤ t.2 then some (Turn.event .rowThrottleEvent { b with row := t.1.1, vd := t.1.2 }) else none) c.banks ++
  List.filterMap (fun (x : Nat × PcState) =>
    if x.2 = .copying then some (Turn.event .pseudoChannelRemap { a with stack := x.1 / 64, pc := x.1 % 64 }) else none) c.pcs ++
  (if c.banks = [] then [] else (tab 8 id).map fun i => Turn.event .refreshWindow { a with stack := i }) ++
  c.belay.map fun b => Turn.event (if (belayMsg b.w0).ty = 2 then .belayAnswer else .belayEvent) { a with id := b.id }

/-- The turns of a virtual device. -/
def vdTurns (vd : Nat) (v : VDev) : List Turn :=
  let a : Arg := { vd := vd }
  ([.quiescenceSweep, .launchStart, .quantumExpiry, .resume, .contextSaveEnd, .bivouacEntered, .wakeEnd, .resetDrainEnd] :
    List Instr).map (fun i => .event i a) ++
  (if v.launches = [] then [] else (tab v.cores id).map fun n => .event .entryPresentation { a with index := n }) ++
  v.launches.map fun j => .event .launchCompletion { a with id := j.id }

/-- The turns of translation: walks, and the clusters that an invalidation waits for. -/
def State.walkTurns (s : State) : List Turn :=
  s.walks.flatMap (fun w => if w.asked.isSome || !s.walkGoes w then [] else
    [Turn.event .tableWalk { id := w.id }, Turn.event .tableWalk { id := w.id, flag := true }]) ++
  s.invals.flatMap fun i => i.left.map fun (x : Nat × Option (List (Nat × Nat))) =>
    Turn.event .tlbInvalidationAck { id := i.id, chip := x.1 / 1024, node := x.1 % 1024 }

/-- The requests of the host that are in progress. -/
def State.hostTurns (s : State) : List Turn :=
  s.hostQ.map fun q => .event (if q.head.op = 1 then .hostWrite else .hostRead)
    { conn := q.head.conn, seq := q.head.seq, vd := q.head.vd, chip := q.chip, addr := q.head.addr, port := q.head.port }

/-- Every turn that the device could take next. -/
def State.candidates (s : State) : List Turn :=
  .cycle :: (s.issueTurns ++ s.packetTurns ++ List.flatMap (fun (x : Nat × Core) => coreTurns x.1 x.2) s.cores ++
    List.flatMap (fun (x : Nat × Cluster) => nodeTurns s.now x.1 x.2) s.clus ++ s.flitTurns ++
    List.flatMap (fun (x : Nat × Chip) => s.chipTurns x.1 x.2) s.chips ++
    List.flatMap (fun (x : Nat × VDev) => vdTurns x.1 x.2) s.vds ++ s.walkTurns ++ s.hostTurns ++
    s.clear.map fun l => .event .lineClear { addr := l })

/-- The turn that the device chooses. -/
def State.choose (s : State) : Turn :=
  let c := s.candidates
  c.getD (Config.freeNat s.free % c.length) .cycle

/-! ### One turn -/

/-- A turn taken, with `run` the meanings: a core issues, an event happens at units that exist, a cycle passes. -/
def State.turn (run : Instr → State → Outc) (s : State) (t : Turn) : Outc :=
  match t with
  | .issue chip node slot =>
    if 512 ≤ chip ∨ 1024 ≤ node ∨ 9 ≤ slot then .fault .noSuchUnit else s.issueTurn run chip node slot
  | .event i a => if !a.ok then .fault .noSuchUnit else run i { s with arg := a }
  | .cycle => .next s.passCycle

/-- The step of the device: the next turn of the agenda, or one that the device chooses. -/
def State.stepWith (run : Instr → State → Outc) (s : State) : Outc :=
  match s.agenda with
  | t :: rest => ({ s with agenda := rest }).turn run t
  | [] => ({ s with free := s.free + 1 }).turn run s.choose

end Sys2Proof.Machine
end

