-- ==== Sys2Proof/Machine/Dispatch.lean ====
section
/-! DEFINITION. The dispatch: one arm per constructor of `Instr`, each a direct call of its meaning. -/

namespace Sys2Proof.Machine

/-- What an instruction or event does to the device. -/
def exec (i : Instr) (s : State) : Host.Outcome State Fault Refusal :=
  match i with
  | .padd rb ra rd => Sys2Proof.Machine.execPadd rb ra rd s
  | .psub rb ra rd => Sys2Proof.Machine.execPsub rb ra rd s
  | .ptag rb ra rd => Sys2Proof.Machine.execPtag rb ra rd s
  | .pget ra rd => Sys2Proof.Machine.execPget ra rd s
  | .pstrip ra rd => Sys2Proof.Machine.execPstrip ra rd s
  | .add rb ra rd => Sys2Proof.Machine.execAdd rb ra rd s
  | .sub rb ra rd => Sys2Proof.Machine.execSub rb ra rd s
  | .and_ rb ra rd => Sys2Proof.Machine.execAnd rb ra rd s
  | .or_ rb ra rd => Sys2Proof.Machine.execOr rb ra rd s
  | .xor_ rb ra rd => Sys2Proof.Machine.execXor rb ra rd s
  | .shl rb ra rd => Sys2Proof.Machine.execShl rb ra rd s
  | .shr rb ra rd => Sys2Proof.Machine.execShr rb ra rd s
  | .sra rb ra rd => Sys2Proof.Machine.execSra rb ra rd s
  | .rot rb ra rd => Sys2Proof.Machine.execRot rb ra rd s
  | .slt rb ra rd => Sys2Proof.Machine.execSlt rb ra rd s
  | .sltn rb ra rd => Sys2Proof.Machine.execSltn rb ra rd s
  | .min_ rb ra rd => Sys2Proof.Machine.execMin rb ra rd s
  | .max_ rb ra rd => Sys2Proof.Machine.execMax rb ra rd s
  | .minn rb ra rd => Sys2Proof.Machine.execMinn rb ra rd s
  | .maxn rb ra rd => Sys2Proof.Machine.execMaxn rb ra rd s
  | .sel rb ra rd => Sys2Proof.Machine.execSel rb ra rd s
  | .clz ra rd => Sys2Proof.Machine.execClz ra rd s
  | .ctz ra rd => Sys2Proof.Machine.execCtz ra rd s
  | .popc ra rd => Sys2Proof.Machine.execPopc ra rd s
  | .brev ra rd => Sys2Proof.Machine.execBrev ra rd s
  | .addi imm ra rd => Sys2Proof.Machine.execAddi imm ra rd s
  | .andi imm ra rd => Sys2Proof.Machine.execAndi imm ra rd s
  | .ori imm ra rd => Sys2Proof.Machine.execOri imm ra rd s
  | .xori imm ra rd => Sys2Proof.Machine.execXori imm ra rd s
  | .slti imm ra rd => Sys2Proof.Machine.execSlti imm ra rd s
  | .shli amt ra rd => Sys2Proof.Machine.execShli amt ra rd s
  | .shri amt ra rd => Sys2Proof.Machine.execShri amt ra rd s
  | .srai amt ra rd => Sys2Proof.Machine.execSrai amt ra rd s
  | .roti amt ra rd => Sys2Proof.Machine.execRoti amt ra rd s
  | .lui imm rd => Sys2Proof.Machine.execLui imm rd s
  | .addpc imm rd => Sys2Proof.Machine.execAddpc imm rd s
  | .bxt width off ra rd => Sys2Proof.Machine.execBxt width off ra rd s
  | .bxtn width off ra rd => Sys2Proof.Machine.execBxtn width off ra rd s
  | .bins width off ra rd => Sys2Proof.Machine.execBins width off ra rd s
  | .mul rb ra rd => Sys2Proof.Machine.execMul rb ra rd s
  | .mulh rb ra rd => Sys2Proof.Machine.execMulh rb ra rd s
  | .mulhn rb ra rd => Sys2Proof.Machine.execMulhn rb ra rd s
  | .div rb ra rd => Sys2Proof.Machine.execDiv rb ra rd s
  | .divn rb ra rd => Sys2Proof.Machine.execDivn rb ra rd s
  | .rem rb ra rd => Sys2Proof.Machine.execRem rb ra rd s
  | .remn rb ra rd => Sys2Proof.Machine.execRemn rb ra rd s
  | .beq off rb ra => Sys2Proof.Machine.execBeq off rb ra s
  | .bne off rb ra => Sys2Proof.Machine.execBne off rb ra s
  | .blt off rb ra => Sys2Proof.Machine.execBlt off rb ra s
  | .bge off rb ra => Sys2Proof.Machine.execBge off rb ra s
  | .blo off rb ra => Sys2Proof.Machine.execBlo off rb ra s
  | .bhs off rb ra => Sys2Proof.Machine.execBhs off rb ra s
  | .bz off ra => Sys2Proof.Machine.execBz off ra s
  | .bnz off ra => Sys2Proof.Machine.execBnz off ra s
  | .j off => Sys2Proof.Machine.execJ off s
  | .jal off => Sys2Proof.Machine.execJal off s
  | .jalr imm ra rd => Sys2Proof.Machine.execJalr imm ra rd s
  | .loop off stp => Sys2Proof.Machine.execLoop off stp s
  | .trap code => Sys2Proof.Machine.execTrap code s
  | .abort code => Sys2Proof.Machine.execAbort code s
  | .mfcr cr rd => Sys2Proof.Machine.execMfcr cr rd s
  | .mtcr cr ra => Sys2Proof.Machine.execMtcr cr ra s
  | .mfid id rd => Sys2Proof.Machine.execMfid id rd s
  | .sleep ra => Sys2Proof.Machine.execSleep ra s
  | .waitx ra => Sys2Proof.Machine.execWaitx ra s
  | .lnch queue ra rd => Sys2Proof.Machine.execLnch queue ra rd s
  | .slave leader => Sys2Proof.Machine.execSlave leader s
  | .ld rsel sc kind off ra rd => Sys2Proof.Machine.execLd rsel sc kind off ra rd s
  | .st rsel sc kind off ra rs => Sys2Proof.Machine.execSt rsel sc kind off ra rs s
  | .ldx rsel ord zx size rb ra rd => Sys2Proof.Machine.execLdx rsel ord zx size rb ra rd s
  | .stx rsel ord size rb ra rs => Sys2Proof.Machine.execStx rsel ord size rb ra rs s
  | .ldfeFf rsel sc kind ra rd => Sys2Proof.Machine.execLdfeFf rsel sc kind ra rd s
  | .ldfeFe rsel sc kind ra rd => Sys2Proof.Machine.execLdfeFe rsel sc kind ra rd s
  | .stfeEf rsel sc kind ra rs => Sys2Proof.Machine.execStfeEf rsel sc kind ra rs s
  | .stfeXf rsel sc kind ra rs => Sys2Proof.Machine.execStfeXf rsel sc kind ra rs s
  | .feq rsel sc kind ra rd => Sys2Proof.Machine.execFeq rsel sc kind ra rd s
  | .amoAdd rsel sc kind ra rd => Sys2Proof.Machine.execAmoAdd rsel sc kind ra rd s
  | .amoAnd rsel sc kind ra rd => Sys2Proof.Machine.execAmoAnd rsel sc kind ra rd s
  | .amoOr rsel sc kind ra rd => Sys2Proof.Machine.execAmoOr rsel sc kind ra rd s
  | .amoXor rsel sc kind ra rd => Sys2Proof.Machine.execAmoXor rsel sc kind ra rd s
  | .amoMin rsel sc kind ra rd => Sys2Proof.Machine.execAmoMin rsel sc kind ra rd s
  | .amoMax rsel sc kind ra rd => Sys2Proof.Machine.execAmoMax rsel sc kind ra rd s
  | .amoMinn rsel sc kind ra rd => Sys2Proof.Machine.execAmoMinn rsel sc kind ra rd s
  | .amoMaxn rsel sc kind ra rd => Sys2Proof.Machine.execAmoMaxn rsel sc kind ra rd s
  | .amoSwap rsel sc kind ra rd => Sys2Proof.Machine.execAmoSwap rsel sc kind ra rd s
  | .amoCas rsel sc kind ra rd => Sys2Proof.Machine.execAmoCas rsel sc kind ra rd s
  | .amoFaddF32 rsel sc kind ra rd => Sys2Proof.Machine.execAmoFaddF32 rsel sc kind ra rd s
  | .amoFmaxF32 rsel sc kind ra rd => Sys2Proof.Machine.execAmoFmaxF32 rsel sc kind ra rd s
  | .fence sc => Sys2Proof.Machine.execFence sc s
  | .fenceSc sc => Sys2Proof.Machine.execFenceSc sc s
  | .fencef sc rope ra rs => Sys2Proof.Machine.execFencef sc rope ra rs s
  | .ropeFork rpS rpD => Sys2Proof.Machine.execRopeFork rpS rpD s
  | .ropeJoin rpA rpD rpB => Sys2Proof.Machine.execRopeJoin rpA rpD rpB s
  | .ropeXfer rpS rd => Sys2Proof.Machine.execRopeXfer rpS rd s
  | .ropeAdopt rpD rs => Sys2Proof.Machine.execRopeAdopt rpD rs s
  | .ropeDrop rope => Sys2Proof.Machine.execRopeDrop rope s
  | .ropeWait rope => Sys2Proof.Machine.execRopeWait rope s
  | .send rope ra => Sys2Proof.Machine.execSend rope ra s
  | .sendc rope rb ra => Sys2Proof.Machine.execSendc rope rb ra s
  | .spawn rope rb ra => Sys2Proof.Machine.execSpawn rope rb ra s
  | .aread rope rb ra => Sys2Proof.Machine.execAread rope rb ra s
  | .tbind rb ra => Sys2Proof.Machine.execTbind rb ra s
  | .mcld rope rb ra rc => Sys2Proof.Machine.execMcld rope rb ra rc s
  | .mcst rope rb ra rc => Sys2Proof.Machine.execMcst rope rb ra rc s
  | .mcjoin rb ra => Sys2Proof.Machine.execMcjoin rb ra s
  | .evpost cls rb ra rope => Sys2Proof.Machine.execEvpost cls rb ra rope s
  | .evposts cls rb ra rd => Sys2Proof.Machine.execEvposts cls rb ra rd s
  | .evcfg cls ra => Sys2Proof.Machine.execEvcfg cls ra s
  | .evflush cls => Sys2Proof.Machine.execEvflush cls s
  | .evquiet ra rd => Sys2Proof.Machine.execEvquiet ra rd s
  | .evcount ra rd => Sys2Proof.Machine.execEvcount ra rd s
  | .gjoin group => Sys2Proof.Machine.execGjoin group s
  | .gleave group => Sys2Proof.Machine.execGleave group s
  | .gbar group rd => Sys2Proof.Machine.execGbar group rd s
  | .gcount group rd => Sys2Proof.Machine.execGcount group rd s
  | .pref off ra => Sys2Proof.Machine.execPref off ra s
  | .cflush off ra => Sys2Proof.Machine.execCflush off ra s
  | .cinv off ra => Sys2Proof.Machine.execCinv off ra s
  | .tlbinv ra => Sys2Proof.Machine.execTlbinv ra s
  | .tlbinvB ra => Sys2Proof.Machine.execTlbinvB ra s
  | .vaddF pg vb va vd => Sys2Proof.Machine.execVaddF pg vb va vd s
  | .vsubF pg vb va vd => Sys2Proof.Machine.execVsubF pg vb va vd s
  | .vmulF pg vb va vd => Sys2Proof.Machine.execVmulF pg vb va vd s
  | .vfmaF pg vb va vd => Sys2Proof.Machine.execVfmaF pg vb va vd s
  | .vfmsF pg vb va vd => Sys2Proof.Machine.execVfmsF pg vb va vd s
  | .vminF pg vb va vd => Sys2Proof.Machine.execVminF pg vb va vd s
  | .vmaxF pg vb va vd => Sys2Proof.Machine.execVmaxF pg vb va vd s
  | .vaddI pg vb va vd => Sys2Proof.Machine.execVaddI pg vb va vd s
  | .vsubI pg vb va vd => Sys2Proof.Machine.execVsubI pg vb va vd s
  | .vmulI pg vb va vd => Sys2Proof.Machine.execVmulI pg vb va vd s
  | .vmulhI pg vb va vd => Sys2Proof.Machine.execVmulhI pg vb va vd s
  | .vminI pg vb va vd => Sys2Proof.Machine.execVminI pg vb va vd s
  | .vmaxI pg vb va vd => Sys2Proof.Machine.execVmaxI pg vb va vd s
  | .vminn pg vb va vd => Sys2Proof.Machine.execVminn pg vb va vd s
  | .vmaxn pg vb va vd => Sys2Proof.Machine.execVmaxn pg vb va vd s
  | .vand pg vb va vd => Sys2Proof.Machine.execVand pg vb va vd s
  | .vandn pg vb va vd => Sys2Proof.Machine.execVandn pg vb va vd s
  | .vor pg vb va vd => Sys2Proof.Machine.execVor pg vb va vd s
  | .vxor pg vb va vd => Sys2Proof.Machine.execVxor pg vb va vd s
  | .vshl pg vb va vd => Sys2Proof.Machine.execVshl pg vb va vd s
  | .vshr pg vb va vd => Sys2Proof.Machine.execVshr pg vb va vd s
  | .vsra pg vb va vd => Sys2Proof.Machine.execVsra pg vb va vd s
  | .vrot pg vb va vd => Sys2Proof.Machine.execVrot pg vb va vd s
  | .vsel pg vb va vd => Sys2Proof.Machine.execVsel pg vb va vd s
  | .vmacI pg vb va vd => Sys2Proof.Machine.execVmacI pg vb va vd s
  | .vcpy pg va vd => Sys2Proof.Machine.execVcpy pg va vd s
  | .vnegF pg va vd => Sys2Proof.Machine.execVnegF pg va vd s
  | .vabsF pg va vd => Sys2Proof.Machine.execVabsF pg va vd s
  | .vsqrtF pg va vd => Sys2Proof.Machine.execVsqrtF pg va vd s
  | .vnot pg va vd => Sys2Proof.Machine.execVnot pg va vd s
  | .vnegI pg va vd => Sys2Proof.Machine.execVnegI pg va vd s
  | .vabsI pg va vd => Sys2Proof.Machine.execVabsI pg va vd s
  | .vclz pg va vd => Sys2Proof.Machine.execVclz pg va vd s
  | .vpopc pg va vd => Sys2Proof.Machine.execVpopc pg va vd s
  | .vcvtFI pg va vd => Sys2Proof.Machine.execVcvtFI pg va vd s
  | .vcvtFN pg va vd => Sys2Proof.Machine.execVcvtFN pg va vd s
  | .vcvtIF pg va vd => Sys2Proof.Machine.execVcvtIF pg va vd s
  | .vnarBf16 pg va vd => Sys2Proof.Machine.execVnarBf16 pg va vd s
  | .vnarFp16 pg va vd => Sys2Proof.Machine.execVnarFp16 pg va vd s
  | .vnarE4m3 pg va vd => Sys2Proof.Machine.execVnarE4m3 pg va vd s
  | .vnarE5m2 pg va vd => Sys2Proof.Machine.execVnarE5m2 pg va vd s
  | .vnarE2m1 pg va vd => Sys2Proof.Machine.execVnarE2m1 pg va vd s
  | .vnarI8 pg va vd => Sys2Proof.Machine.execVnarI8 pg va vd s
  | .vcmpFEq pg vb va pd => Sys2Proof.Machine.execVcmpFEq pg vb va pd s
  | .vcmpFNe pg vb va pd => Sys2Proof.Machine.execVcmpFNe pg vb va pd s
  | .vcmpFLt pg vb va pd => Sys2Proof.Machine.execVcmpFLt pg vb va pd s
  | .vcmpFLe pg vb va pd => Sys2Proof.Machine.execVcmpFLe pg vb va pd s
  | .vcmpFUn pg vb va pd => Sys2Proof.Machine.execVcmpFUn pg vb va pd s
  | .vcmpIEq pg vb va pd => Sys2Proof.Machine.execVcmpIEq pg vb va pd s
  | .vcmpINe pg vb va pd => Sys2Proof.Machine.execVcmpINe pg vb va pd s
  | .vcmpILt pg vb va pd => Sys2Proof.Machine.execVcmpILt pg vb va pd s
  | .vcmpILe pg vb va pd => Sys2Proof.Machine.execVcmpILe pg vb va pd s
  | .vcmpILo pg vb va pd => Sys2Proof.Machine.execVcmpILo pg vb va pd s
  | .vcmpILs pg vb va pd => Sys2Proof.Machine.execVcmpILs pg vb va pd s
  | .vld rsel ord pg ra vd => Sys2Proof.Machine.execVld rsel ord pg ra vd s
  | .vst rsel ord pg ra vd => Sys2Proof.Machine.execVst rsel ord pg ra vd s
  | .vldLs pg va vd => Sys2Proof.Machine.execVldLs pg va vd s
  | .vstLs pg va vd => Sys2Proof.Machine.execVstLs pg va vd s
  | .vgath rsel pg vb ra vd => Sys2Proof.Machine.execVgath rsel pg vb ra vd s
  | .vscat rsel pg vb ra vd => Sys2Proof.Machine.execVscat rsel pg vb ra vd s
  | .tmld ra tm => Sys2Proof.Machine.execTmld ra tm s
  | .sopen rope tm vs => Sys2Proof.Machine.execSopen rope tm vs s
  | .sclose vs => Sys2Proof.Machine.execSclose vs s
  | .sstat rd vs => Sys2Proof.Machine.execSstat rd vs s
  | .pand pb pa pd => Sys2Proof.Machine.execPand pb pa pd s
  | .por pb pa pd => Sys2Proof.Machine.execPor pb pa pd s
  | .pxor pb pa pd => Sys2Proof.Machine.execPxor pb pa pd s
  | .pnot pa pd => Sys2Proof.Machine.execPnot pa pd s
  | .pcnt rd pa => Sys2Proof.Machine.execPcnt rd pa s
  | .pfirst rd pa => Sys2Proof.Machine.execPfirst rd pa s
  | .pset rs pd => Sys2Proof.Machine.execPset rs pd s
  | .pgetPredicate rd pa => Sys2Proof.Machine.execPgetPredicate rd pa s
  | .vraddF pg va rd => Sys2Proof.Machine.execVraddF pg va rd s
  | .vrmaxF pg va rd => Sys2Proof.Machine.execVrmaxF pg va rd s
  | .vrminF pg va rd => Sys2Proof.Machine.execVrminF pg va rd s
  | .vraddI pg va rd => Sys2Proof.Machine.execVraddI pg va rd s
  | .vrmaxI pg va rd => Sys2Proof.Machine.execVrmaxI pg va rd s
  | .vrminI pg va rd => Sys2Proof.Machine.execVrminI pg va rd s
  | .vrand pg va rd => Sys2Proof.Machine.execVrand pg va rd s
  | .vror pg va rd => Sys2Proof.Machine.execVror pg va rd s
  | .vrxor pg va rd => Sys2Proof.Machine.execVrxor pg va rd s
  | .vbcast rs vd => Sys2Proof.Machine.execVbcast rs vd s
  | .vext lane va rd => Sys2Proof.Machine.execVext lane va rd s
  | .vins lane rs vd => Sys2Proof.Machine.execVins lane rs vd s
  | .vperm vb va vd => Sys2Proof.Machine.execVperm vb va vd s
  | .vslideUp lane va vd => Sys2Proof.Machine.execVslideUp lane va vd s
  | .vslideDn lane va vd => Sys2Proof.Machine.execVslideDn lane va vd s
  | .viota vd => Sys2Proof.Machine.execViota vd s
  | .vfexp2 pg va vd => Sys2Proof.Machine.execVfexp2 pg va vd s
  | .vrint pg va vd => Sys2Proof.Machine.execVrint pg va vd s
  | .vexpi pg va vd => Sys2Proof.Machine.execVexpi pg va vd s
  | .vexpx pg va vd => Sys2Proof.Machine.execVexpx pg va vd s
  | .vrcp pg va vd => Sys2Proof.Machine.execVrcp pg va vd s
  | .vrsq pg va vd => Sys2Proof.Machine.execVrsq pg va vd s
  | .mxq vs rd => Sys2Proof.Machine.execMxq vs rd s
  | .mxwait ra => Sys2Proof.Machine.execMxwait ra s
  | .mxstat rd => Sys2Proof.Machine.execMxstat rd s
  | .mxstatC rd => Sys2Proof.Machine.execMxstatC rd s
  | .rackTake n => Sys2Proof.Machine.execRackTake n s
  | .rackGive n => Sys2Proof.Machine.execRackGive n s
  | .rackQry rd => Sys2Proof.Machine.execRackQry rd s
  | .cMv b a => Sys2Proof.Machine.execCMv b a s
  | .cAdd b a => Sys2Proof.Machine.execCAdd b a s
  | .cSub b a => Sys2Proof.Machine.execCSub b a s
  | .cAddi imm a => Sys2Proof.Machine.execCAddi imm a s
  | .cLi imm a => Sys2Proof.Machine.execCLi imm a s
  | .cLd b a => Sys2Proof.Machine.execCLd b a s
  | .cSt b a => Sys2Proof.Machine.execCSt b a s
  | .cAnd b a => Sys2Proof.Machine.execCAnd b a s
  | .cOr b a => Sys2Proof.Machine.execCOr b a s
  | .cShli imm a => Sys2Proof.Machine.execCShli imm a s
  | .cShri imm a => Sys2Proof.Machine.execCShri imm a s
  | .cBnz off a => Sys2Proof.Machine.execCBnz off a s
  | .cJ off => Sys2Proof.Machine.execCJ off s
  | .ropePrefix rope => Sys2Proof.Machine.execRopePrefix rope s
  | .nop => Sys2Proof.Machine.execNop s
  | .hintYield => Sys2Proof.Machine.execHintYield s
  | .hintAlign => Sys2Proof.Machine.execHintAlign s
  | .done_ => Sys2Proof.Machine.execDone s
  | .tret => Sys2Proof.Machine.execTret s
  | .unslave => Sys2Proof.Machine.execUnslave s
  | .tlbinvAll => Sys2Proof.Machine.execTlbinvAll s
  | .tlbinvBAll => Sys2Proof.Machine.execTlbinvBAll s
  | .cDone => Sys2Proof.Machine.execCDone s
  | .cYield => Sys2Proof.Machine.execCYield s
  | .perform => Sys2Proof.Machine.execPerform s
  | .retryListService => Sys2Proof.Machine.execRetryListService s
  | .nackResend => Sys2Proof.Machine.execNackResend s
  | .withdrawal => Sys2Proof.Machine.execWithdrawal s
  | .watchdog => Sys2Proof.Machine.execWatchdog s
  | .storeBufferDrain => Sys2Proof.Machine.execStoreBufferDrain s
  | .response => Sys2Proof.Machine.execResponse s
  | .routeFlit => Sys2Proof.Machine.execRouteFlit s
  | .injectFlit => Sys2Proof.Machine.execInjectFlit s
  | .linkReceive => Sys2Proof.Machine.execLinkReceive s
  | .linkReplay => Sys2Proof.Machine.execLinkReplay s
  | .linkAcknowledge => Sys2Proof.Machine.execLinkAcknowledge s
  | .laneFailure => Sys2Proof.Machine.execLaneFailure s
  | .retrainingEnd => Sys2Proof.Machine.execRetrainingEnd s
  | .portOutOfService => Sys2Proof.Machine.execPortOutOfService s
  | .reassembly => Sys2Proof.Machine.execReassembly s
  | .messageArrival => Sys2Proof.Machine.execMessageArrival s
  | .dispatchEntryFill => Sys2Proof.Machine.execDispatchEntryFill s
  | .activationStart => Sys2Proof.Machine.execActivationStart s
  | .eventDelivery => Sys2Proof.Machine.execEventDelivery s
  | .tableWalk => Sys2Proof.Machine.execTableWalk s
  | .pageAnswer => Sys2Proof.Machine.execPageAnswer s
  | .tlbInvalidationAck => Sys2Proof.Machine.execTlbInvalidationAck s
  | .cpgoRead => Sys2Proof.Machine.execCpgoRead s
  | .copySector => Sys2Proof.Machine.execCopySector s
  | .mma => Sys2Proof.Machine.execMma s
  | .ldb => Sys2Proof.Machine.execLdb s
  | .rotb => Sys2Proof.Machine.execRotb s
  | .stc => Sys2Proof.Machine.execStc s
  | .zc => Sys2Proof.Machine.execZc s
  | .mnote => Sys2Proof.Machine.execMnote s
  | .mfen => Sys2Proof.Machine.execMfen s
  | .ringTransferEnd => Sys2Proof.Machine.execRingTransferEnd s
  | .commandRetire => Sys2Proof.Machine.execCommandRetire s
  | .matrixCommandDiscard => Sys2Proof.Machine.execMatrixCommandDiscard s
  | .governorWindow => Sys2Proof.Machine.execGovernorWindow s
  | .mailboxLanding => Sys2Proof.Machine.execMailboxLanding s
  | .rackGrant => Sys2Proof.Machine.execRackGrant s
  | .sleepEnd => Sys2Proof.Machine.execSleepEnd s
  | .adoptService => Sys2Proof.Machine.execAdoptService s
  | .adoptAnswer => Sys2Proof.Machine.execAdoptAnswer s
  | .fencefMarker => Sys2Proof.Machine.execFencefMarker s
  | .areadReply => Sys2Proof.Machine.execAreadReply s
  | .post => Sys2Proof.Machine.execPost s
  | .claim => Sys2Proof.Machine.execClaim s
  | .refill => Sys2Proof.Machine.execRefill s
  | .postSend => Sys2Proof.Machine.execPostSend s
  | .postAck => Sys2Proof.Machine.execPostAck s
  | .quiescenceSweep => Sys2Proof.Machine.execQuiescenceSweep s
  | .hostEnqueue => Sys2Proof.Machine.execHostEnqueue s
  | .launchStart => Sys2Proof.Machine.execLaunchStart s
  | .entryPresentation => Sys2Proof.Machine.execEntryPresentation s
  | .launchCompletion => Sys2Proof.Machine.execLaunchCompletion s
  | .quantumExpiry => Sys2Proof.Machine.execQuantumExpiry s
  | .resume => Sys2Proof.Machine.execResume s
  | .coreRepair => Sys2Proof.Machine.execCoreRepair s
  | .multicastStoreLanding => Sys2Proof.Machine.execMulticastStoreLanding s
  | .combinedAck => Sys2Proof.Machine.execCombinedAck s
  | .mcldRequest => Sys2Proof.Machine.execMcldRequest s
  | .mcldLineSend => Sys2Proof.Machine.execMcldLineSend s
  | .mcldLineArrival => Sys2Proof.Machine.execMcldLineArrival s
  | .mergeReport => Sys2Proof.Machine.execMergeReport s
  | .lineClear => Sys2Proof.Machine.execLineClear s
  | .budgetWindow => Sys2Proof.Machine.execBudgetWindow s
  | .rowThrottleEvent => Sys2Proof.Machine.execRowThrottleEvent s
  | .throttleEnd => Sys2Proof.Machine.execThrottleEnd s
  | .injectionCapWindow => Sys2Proof.Machine.execInjectionCapWindow s
  | .powerSample => Sys2Proof.Machine.execPowerSample s
  | .coolantTrip => Sys2Proof.Machine.execCoolantTrip s
  | .pseudoChannelRepair => Sys2Proof.Machine.execPseudoChannelRepair s
  | .supervisorFailover => Sys2Proof.Machine.execSupervisorFailover s
  | .partSplit => Sys2Proof.Machine.execPartSplit s
  | .partMerge => Sys2Proof.Machine.execPartMerge s
  | .vdCreate => Sys2Proof.Machine.execVdCreate s
  | .vdDestroy => Sys2Proof.Machine.execVdDestroy s
  | .s2invPage => Sys2Proof.Machine.execS2invPage s
  | .s2invAll => Sys2Proof.Machine.execS2invAll s
  | .rtswap => Sys2Proof.Machine.execRtswap s
  | .pageansRetry => Sys2Proof.Machine.execPageansRetry s
  | .pageansDeny => Sys2Proof.Machine.execPageansDeny s
  | .vdReset => Sys2Proof.Machine.execVdReset s
  | .vdBivouac => Sys2Proof.Machine.execVdBivouac s
  | .vdThaw => Sys2Proof.Machine.execVdThaw s
  | .dispinit => Sys2Proof.Machine.execDispinit s
  | .groupTableWrite => Sys2Proof.Machine.execGroupTableWrite s
  | .supervisorRegisterWrite => Sys2Proof.Machine.execSupervisorRegisterWrite s
  | .dispbaseWrite => Sys2Proof.Machine.execDispbaseWrite s
  | .tagbaseWrite => Sys2Proof.Machine.execTagbaseWrite s
  | .rackfloorWrite => Sys2Proof.Machine.execRackfloorWrite s
  | .fcrWrite => Sys2Proof.Machine.execFcrWrite s
  | .mxgovWrite => Sys2Proof.Machine.execMxgovWrite s
  | .controlRegisterWrite => Sys2Proof.Machine.execControlRegisterWrite s
  | .hostWrite => Sys2Proof.Machine.execHostWrite s
  | .hostRead => Sys2Proof.Machine.execHostRead s
  | .hostWake => Sys2Proof.Machine.execHostWake s
  | .supervisorSpaceRead => Sys2Proof.Machine.execSupervisorSpaceRead s
  | .supervisorSpaceWrite => Sys2Proof.Machine.execSupervisorSpaceWrite s
  | .getVersion => Sys2Proof.Machine.execGetVersion s
  | .getCapabilities => Sys2Proof.Machine.execGetCapabilities s
  | .negotiateAlgorithms => Sys2Proof.Machine.execNegotiateAlgorithms s
  | .getDigests => Sys2Proof.Machine.execGetDigests s
  | .getCertificate => Sys2Proof.Machine.execGetCertificate s
  | .challenge => Sys2Proof.Machine.execChallenge s
  | .getMeasurements => Sys2Proof.Machine.execGetMeasurements s
  | .keyExchange => Sys2Proof.Machine.execKeyExchange s
  | .finish => Sys2Proof.Machine.execFinish s
  | .endSession => Sys2Proof.Machine.execEndSession s
  | .keyInstall => Sys2Proof.Machine.execKeyInstall s
  | .enterOn => Sys2Proof.Machine.execEnterOn s
  | .enterStandby => Sys2Proof.Machine.execEnterStandby s
  | .enterOff => Sys2Proof.Machine.execEnterOff s
  | .setModuleCap => Sys2Proof.Machine.execSetModuleCap s
  | .powerOn => Sys2Proof.Machine.execPowerOn s
  | .belayRead => Sys2Proof.Machine.execBelayRead s
  | .belayWrite => Sys2Proof.Machine.execBelayWrite s
  | .belayAnswer => Sys2Proof.Machine.execBelayAnswer s
  | .belayEvent => Sys2Proof.Machine.execBelayEvent s
  | .illegalEncoding => Sys2Proof.Machine.execIllegalEncoding s
  | .instructionFetchFault => Sys2Proof.Machine.execInstructionFetchFault s
  | .evquietTimeout => Sys2Proof.Machine.execEvquietTimeout s
  | .alignTimeout => Sys2Proof.Machine.execAlignTimeout s
  | .resetDrainEnd => Sys2Proof.Machine.execResetDrainEnd s
  | .contextSaveEnd => Sys2Proof.Machine.execContextSaveEnd s
  | .bivouacEntered => Sys2Proof.Machine.execBivouacEntered s
  | .wakeEnd => Sys2Proof.Machine.execWakeEnd s
  | .refreshWindow => Sys2Proof.Machine.execRefreshWindow s
  | .softError => Sys2Proof.Machine.execSoftError s
  | .coreMapRewrite => Sys2Proof.Machine.execCoreMapRewrite s
  | .pseudoChannelRemap => Sys2Proof.Machine.execPseudoChannelRemap s
  | .recoveryImageWrite => Sys2Proof.Machine.execRecoveryImageWrite s

end Sys2Proof.Machine
end

