-- ==== Sys2Proof/Machine/Step.lean ====
section
/-! DEFINITION. The step of the device, and the placing of an instruction where the next step fetches. -/

namespace Sys2Proof.Machine

/-- One step: the next turn of the agenda, or one that the device chooses (log entry 1). -/
def step (s : State) : Host.Outcome State Fault Refusal := s.stepWith exec

/-- The virtual address at which `withFetchWord` places its instruction, and the physical address it stands for. -/
def fetchVa : Nat := 0x10000

/-- The level that fetches it: an activation of no launch at L0 of core 0, waiting for nothing. -/
def fetchLevel (l : Lvl) : Lvl :=
  { l with pc := BitVec.ofNat 64 fetchVa, act := some ⟨0, 0, 0, 0, List.replicate 6 0, none, false⟩, wait := .ready, readyAt := 0,
           again := false, pfx := none, pend := [], ilock := [], xl := [], follow := none, stallchk := 0 }

/-- A level that does not issue in this cycle. -/
def Lvl.later (l : Lvl) (now : Nat) : Lvl := { l with readyAt := now + 1 }

/-- The core that fetches it: run by virtual device 1, with the page of the instruction in its TLB. -/
def fetchCore (c : Core) (now : Nat) : Core :=
  { c with run := .running, owner := 1, lastIssue := none, ended := [],
           lv := #v[fetchLevel (c.lvl 0), (c.lvl 1).later now, (c.lvl 2).later now, (c.lvl 3).later now],
           tlb := [⟨1, fetchVa / 2 ^ 16, 16, fetchVa, fetchVa, (4, 7), (4, 7), 0⟩] }

/-- The virtual device that runs on it: one cluster of chip 0, with both stages of its translation enabled. -/
def fetchVd (s : State) : VDev :=
  let v := (s.vdev? 1).getD { chips := [0], slot := [], base := [(0, 0)], plog := 0, wake := 0, floor := 0, limit := 0x800000,
                              savebase := 0, wakeAddr := 0, budget := 0, qlog := 16, created := [0], ran := true }
  { v with running := true, reset := 0, s1 := v.s1 ||| 1, s2 := v.s2 ||| 1 }

/-- The instruction whose bits are `w` (those above `nbits`, up to the longest instruction of 6 bytes, are zero) stored where
the next step fetches: at `fetchVa`, in a line that L2 holds and nothing waits on, for level L0 of core 0 of package 0, which is in ON and runs virtual device 1; the next turn
is that core's issue. -/
def State.withFetchWord (s : State) (nbits w : Nat) : State :=
  let s := { s with mem := s.mem.writeBytes fetchVa (leBytes 6 (w % 2 ^ nbits)),
                    bad := s.bad.filter fun (x : Nat × Bool) => x.1 / 32 != fetchVa / 256,
                    clear := s.clear.filter (· != fetchVa / 256),
                    l2 := insertNat (fetchVa / 256) s.l2,
                    retry := s.retry.filter fun w => w.acc.pa / 256 != fetchVa / 256,
                    vds := AMap.put s.vds 1 (fetchVd s),
                    agenda := .issue 0 0 0 :: s.agenda }
  let s := s.updChip 0 fun c => { c with power := .on, pcs := [] }
  let s := s.updClu 0 fun c => { c with icache := [] }
  s.updCore 0 fun c => fetchCore c s.now

end Sys2Proof.Machine
end

