-- ==== Sys2Proof/Safety.lean ====
section
/-! DEFINITION. What counts as a safe step (no fault, no refusal), and the words in which statements say what a step changes
and what it leaves as it was. -/

namespace Sys2Proof.Machine

/-! ### Safe steps -/

/-- The step from a state answers a next state. -/
def State.stepsOn (s : State) : Prop := ∃ t, step s = .next t

/-- A turn of the agenda names units that exist, so that no step of it ends in a fault. -/
def Turn.ok : Turn → Bool
  | .issue chip node slot => decide (chip < 512 ∧ node < 1024 ∧ slot < 9)
  | .event _ a => a.ok
  | .cycle => true

/-! ### Frames -/

/-- Every byte reads as before, at every physical address and in every matrix queue window. -/
def SameBytes (s t : State) : Prop := ∀ a, t.peek a 1 = s.peek a 1

/-- Nothing but the table of cores changes, and in it nothing but core `k`. -/
def OnlyCore (k : Nat) (s t : State) : Prop :=
  { t with cores := s.cores } = s ∧ ∀ j, j ≠ k → t.core j = s.core j

/-- Nothing but level `l` of core `k` changes: no other core or level, none of what the levels of the core share, and no byte
of memory. -/
def OnlyLevel (k : Nat) (l : Level) (s t : State) : Prop :=
  OnlyCore k s t ∧ { t.core k with lv := (s.core k).lv } = s.core k ∧ (∀ m, m ≠ l → t.lvl k m = s.lvl k m) ∧ SameBytes s t

/-- Nothing but level `l` of core `k` and what the levels of the core share changes: no other level of it, and no byte of
physical memory. -/
def OnlyShared (k : Nat) (l : Level) (s t : State) : Prop :=
  OnlyCore k s t ∧ (∀ m, m ≠ l → t.lvl k m = s.lvl k m) ∧ ∀ a, a < 2 ^ 56 → t.peek a 1 = s.peek a 1

/-- The level `y` is `x` moved past a word of `n` bytes, with `v` in register `rd` (discarded for x0). Every other register,
and every other part of the level, is as before; outstanding results of `rd` are superseded. -/
def RegResult (x y : Lvl) (n : Nat) (rd : XReg) (v : Word) : Prop :=
  y.rx rd = (if rd = 0 then 0 else v) ∧ (∀ r, r ≠ rd → y.rx r = x.rx r) ∧ y.pc = x.pc + BitVec.ofNat 64 n ∧ y.pfx = none ∧
    y.pend = (if rd = 0 then x.pend else x.pend.filter fun e => e.reg != .x rd.toNat) ∧
    { y with pc := x.pc, pfx := x.pfx, x := x.x, pend := x.pend } = x

/-- The same for a predicate. -/
def PredResult (x y : Lvl) (n : Nat) (pd : PReg) (v : Word) : Prop :=
  y.rp pd = (if pd = 0 then -1 else v) ∧ (∀ r, r ≠ pd → y.rp r = x.rp r) ∧ y.pc = x.pc + BitVec.ofNat 64 n ∧ y.pfx = none ∧
    y.pend = (if pd = 0 then x.pend else x.pend.filter fun e => e.reg != .p pd.toNat) ∧
    { y with pc := x.pc, pfx := x.pfx, p := x.p, pend := x.pend } = x

/-! ### What an instruction or event does -/

/-- The instruction makes the issuing level `x` and changes nothing else. -/
def LevelBecomes (i : Instr) (s : State) (x : Lvl) : Prop :=
  ∃ t, exec i s = .next t ∧ t.curLvl = x ∧ OnlyLevel s.curKey s.cur.lev s t

/-- The instruction of `n` bytes writes `v` to scalar register `rd`, moves on, and changes nothing else. -/
def WritesReg (i : Instr) (s : State) (n : Nat) (rd : XReg) (v : Word) : Prop :=
  ∃ t, exec i s = .next t ∧ OnlyLevel s.curKey s.cur.lev s t ∧ RegResult s.curLvl t.curLvl n rd v

/-- The instruction of four bytes writes `v` to predicate `pd`, moves on, and changes nothing else. -/
def WritesPred (i : Instr) (s : State) (pd : PReg) (v : Word) : Prop :=
  ∃ t, exec i s = .next t ∧ OnlyLevel s.curKey s.cur.lev s t ∧ PredResult s.curLvl t.curLvl 4 pd v

/-- The level past a word of `n` bytes. -/
def Lvl.past (l : Lvl) (n : Nat) : Lvl := { l with pc := l.pc + BitVec.ofNat 64 n, pfx := none }

/-! ### Taking a cause -/

/-- A cause of the issuing level would reach a handler: it is not L3, it runs an activation that is no handler itself, and
the dispatch cache holds a valid entry of type 0x05 (R434, R435). -/
def State.handled (s : State) : Prop :=
  s.cur.lev ≠ 3 ∧ (∃ a, s.curLvl.act = some a ∧ a.ty ≠ 5) ∧ (AMap.get s.curCore.disp {} 5).v = true

/-- From `s` to `t` the issuing level has taken a cause that goes to the handler: its trap registers and its trap record are
written, its outstanding results are visible, it waits for the handler and will resume at `resume`, and nothing outside its
own core, and no other level of it, has changed. -/
def TrapsTo (s t : State) (cause : Nat) (pc resume val addr : Word) : Prop :=
  t.cur = s.cur ∧
    t.curLvl.trapcause = BitVec.ofNat 64 (s.cur.lev.val * 256 + cause) ∧ t.curLvl.trappc = pc ∧ t.curLvl.trapval = val ∧
    t.curLvl.trapaddr = addr ∧ t.curLvl.wait = .trapped ∧ t.curLvl.pc = resume ∧ t.curLvl.pend = [] ∧
    (∃ r, t.curLvl.trap = some r ∧ r.args = [t.curLvl.trapcause, pc, val, addr] ∧ r.resume = resume ∧ r.running = false) ∧
    (s.curLvl.pend = [] → t.curLvl.x = s.curLvl.x ∧ t.curLvl.p = s.curLvl.p) ∧ t.curLvl.fcr = s.curLvl.fcr ∧
    OnlyCore s.curKey s t ∧ (∀ m, m ≠ s.cur.lev → t.lvl s.curKey m = s.lvl s.curKey m) ∧ SameBytes s t

/-- The state in which the issuing level has a cause in its trap registers and no handler takes it: its outstanding results
are visible and the fault is still to come (R431, R438). -/
def State.withCause (s : State) (cause : Nat) (pc val addr : Word) : State :=
  let c := s.curCore.commitAll s.cur.lev
  s.setCurCore (c.setLvl s.cur.lev { c.lvl s.cur.lev with
    trapcause := BitVec.ofNat 64 (s.cur.lev.val * 256 + cause), trappc := pc, trapval := val, trapaddr := addr, pfx := none,
    xl := [], again := true })

/-- The instruction at the issuing level takes a cause at its own address: the handler of a cause that may reach one, else the
fault (R431, R432, R434, R435, R438). -/
def Raises (i : Instr) (s : State) (cause : Nat) (val addr : Word) : Prop :=
  ∃ t, exec i s = .next t ∧
    (trappable cause = true → s.handled →
      TrapsTo s t cause s.curLvl.ipc (resumeAddr cause s.curLvl.ipc (s.curLvl.ipc + BitVec.ofNat 64 s.curLvl.instrBytes)) val addr) ∧
    (trappable cause = false ∨ ¬ s.handled → t = (s.withCause cause s.curLvl.ipc val addr).fault s.curKey s.cur.lev)

/-! ### Control registers -/

/-- An MTCR of control register `cr` from `ra`, or the row of the opcode table that stands for that write. -/
def IsMtcr (i : Instr) (s : State) (cr : BitVec 12) (ra : XReg) : Prop :=
  i = .mtcr cr ra ∨ (s.arg.reg = ra ∧ (i = .fcrWrite ∧ cr = 0x000 ∨ i = .dispbaseWrite ∧ cr = 0x014 ∨
    i = .tagbaseWrite ∧ cr = 0x015 ∨ i = .mxgovWrite ∧ cr = 0x042 ∨ i = .rackfloorWrite ∧ cr = 0x050 ∨
    (i = .controlRegisterWrite ∧ s.arg.cr = cr ∧ cr ≠ 0x000 ∧ cr ≠ 0x014 ∧ cr ≠ 0x015 ∧ cr ≠ 0x042 ∧ cr ≠ 0x050)))

/-- The instruction makes the issuing level `y` and the shared part of its core that of `c`, and changes nothing else. -/
def CoreBecomes (i : Instr) (s : State) (y : Lvl) (c : Core) : Prop :=
  ∃ t, exec i s = .next t ∧ t.curLvl = y ∧ { t.curCore with lv := c.lv } = c ∧
    (∀ m, m ≠ s.cur.lev → t.lvl s.curKey m = s.lvl s.curKey m) ∧ OnlyCore s.curKey s t

/-! ### Issuing operations -/

/-- A multicast store that has still to read its line: the one held operation that memory shows as it goes, where its read of the
line is recorded (R148, R360). -/
def Op.readsLine (o : Op) : Bool :=
  match o.work with
  | .mcst _ _ line => line.isNone
  | _ => false

/-- The level `x` is `y` but for what the ordering rules keep of its reads and its non-weak accesses. -/
def Lvl.Same (x y : Lvl) : Prop := { x with readPts := y.readPts, strongs := y.strongs } = y

/-- The instruction issues operations that satisfy `P` on the ropes of its core, makes the issuing level `y`, and lets held
operations go. Before it lets them go, only the issuing core has changed, and no other level of it; and once it has, every
register of the issuing level is still that of `y`, and no byte of memory has changed, unless a multicast store has read its
line. -/
def Issues (i : Instr) (s : State) (y : Lvl) (P : List Op → Prop) : Prop :=
  ∃ (u : State) (new : List Op), exec i s = .next (u.pump s.curKey) ∧ u.curCore.ops = s.curCore.ops ++ new ∧ P new ∧
    u.curLvl.Same y ∧ { u with cores := s.cores, nextId := s.nextId } = s ∧ (∀ j, j ≠ s.curKey → u.core j = s.core j) ∧
    (∀ m, m ≠ s.cur.lev → u.lvl s.curKey m = s.lvl s.curKey m) ∧ u.curCore.vreg = s.curCore.vreg ∧
    (u.pump s.curKey).curLvl.x = y.x ∧ (u.pump s.curKey).curLvl.p = y.p ∧ (u.pump s.curKey).curLvl.pc = y.pc ∧
    (u.pump s.curKey).curLvl.fcr = y.fcr ∧ (u.pump s.curKey).curCore.vreg = s.curCore.vreg ∧
    ((∀ o ∈ u.curCore.ops, o.st = .held → o.readsLine = false) → SameBytes s (u.pump s.curKey))

/-- The operation is the issuing level's next one: on the rope in `slot`, at the next place of it and of the level's program
order, held until the ordering rules let it go. -/
def NextOp (s : State) (slot : Nat) (o : Op) : Prop :=
  o.lev = s.cur.lev.val ∧ o.rope = (s.curCore.ropeAt slot).uid ∧ o.idx = (s.curCore.ropeAt slot).issued ∧
    o.po = s.curLvl.po ∧ o.launch = s.curLvl.launch ∧ o.pc = s.curLvl.ipc ∧ o.st = .held

/-- The operation is the issuing level's `j`-th from here of one instruction: `j` places on along the rope in `slot`, at the
level's place in program order. -/
def NthOp (s : State) (slot j : Nat) (o : Op) : Prop :=
  o.lev = s.cur.lev.val ∧ o.rope = (s.curCore.ropeAt slot).uid ∧ o.idx = (s.curCore.ropeAt slot).issued + j ∧
    o.po = s.curLvl.po ∧ o.launch = s.curLvl.launch ∧ o.pc = s.curLvl.ipc

/-- The access of a placed element for the issuing level, of a kind, on the rope in `slot` under a name, with the FCR at its
issue. -/
def State.accFor (s : State) (slot name : Nat) (kind : Kind) (q : Placed) : Acc :=
  { pa := q.pa, size := q.el.size, cls := q.el.cls, data := q.el.data, data2 := q.el.data2, mask := q.el.mask, kind := kind,
    mt := q.mt, vd := s.curVd, src := coreUnit s.curKey, rope := name, uid := (s.curCore.ropeAt slot).uid, fcr := s.curLvl.fcr }

/-- The operation makes the placed element's access, of a kind, on the rope in `slot` under a name. -/
def Makes (s : State) (slot name : Nat) (kind : Kind) (q : Placed) (o : Op) : Prop :=
  o.va = q.el.va ∧ o.work = .mem (s.accFor slot name kind q)

/-- The operations are the accesses of the placed elements in their order, held until the ordering rules let them go, each a part
of gathering `coll`; to their rope they are of kind `ask`, and at their owners of kind `kind`. -/
def Parts (s : State) (slot name coll : Nat) (ask kind : Kind) (sc : Scope) (ps : List Placed) (new : List Op) : Prop :=
  new.length = ps.length ∧ ∀ (j : Nat) (o : Op) (q : Placed), new[j]? = some o → ps[j]? = some q →
    NthOp s slot j o ∧ Makes s slot name kind q o ∧ o.st = .held ∧ o.kind = ask ∧ o.scope = sc ∧ o.dest = .part coll q.el.part

/-- An instruction of four bytes that gathers the accesses `els` on the rope in `slot` for `fin`: it issues one operation for
each of them and makes the level what `after` says of the gathering's number; a failing check raises its cause. -/
def Gathers (i : Instr) (s : State) (slot name : Nat) (ask kind : Kind) (sc : Scope) (els : List El) (fin : Finish)
    (after : Nat → Lvl → Lvl) : Prop :=
  (∀ c v a, s.checkCur false els = .fail c v a → Raises i s c v a) ∧
    ∀ ps, s.checkCur false els = .ok ps → s.curCore.ropeRoom slot ps.length = true →
      Issues i s (after s.nextId { s.curLvl.past 4 with po := s.curLvl.po + 1, xl := [] })
        (Parts s slot name s.nextId ask kind sc ps) ∧
      ∃ t c, exec i s = .next t ∧ c ∈ t.curCore.colls ∧ c.id = s.nextId ∧ c.finish = fin ∧ c.left = ps.length

/-- A scalar access `el` of a word of `n` bytes, on rp0 or on the rope its prefix names, with its destination: with a good tag,
passed checks and room on the rope it issues one operation, interlocks its destination and moves on; a name that holds no rope,
a bad tag and a failing check raise their causes, and a missing translation makes the level wait and issue again. `win` admits
the matrix queue window. -/
def AccessIssues (i : Instr) (s : State) (n : Nat) (rsel : Bool) (kind : Kind) (sc : Scope) (win : Bool) (el : El) (dest : Dest) :
    Prop :=
  let l := s.curLvl
  let name := if rsel then l.pfx.getD 0 else 0
  let locked := match dest with
    | .reg r _ _ => l.lock (.x r) s.nextId
    | _ => l
  (l.slotOf s.cur.lev name = none → Raises i s 0x01 (BitVec.ofNat 64 name) 0) ∧
    ∀ slot, l.slotOf s.cur.lev name = some slot →
      (tagOk el.va = false → Raises i s 0x05 el.va el.va) ∧
      (∀ c v a, tagOk el.va = true → s.checkCur win [el] = .fail c v a → Raises i s c v a) ∧
      (∀ pages, tagOk el.va = true → s.checkCur win [el] = .wait pages → ∃ t, exec i s = .next t ∧
        t.curLvl = { l with pc := l.ipc, pfx := none, again := true, wait := .page } ∧ t.mem = s.mem) ∧
      (∀ pl, tagOk el.va = true → s.checkCur win [el] = .ok [pl] → s.curCore.ropeRoom slot 1 = false →
        LevelBecomes i s { l with pc := l.ipc, pfx := none, again := true }) ∧
      ∀ pl, tagOk el.va = true → s.checkCur win [el] = .ok [pl] → s.curCore.ropeRoom slot 1 = true →
        Issues i s { locked with pc := l.pc + BitVec.ofNat 64 n, pfx := none, po := l.po + 1, xl := [] } fun new =>
          ∃ o, new = [o] ∧ NextOp s slot o ∧ o.id = s.nextId ∧ o.kind = kind ∧ o.scope = sc ∧ o.va = el.va ∧ o.dest = dest ∧
            o.work = .mem (s.accFor slot name kind { pl with el := el })

/-! ### Vector operands and results -/

/-- The vector name gives a source of value `v`: a register of the level, or the next chunk of a read stream, read under the DAZ
in force. -/
def VecReads (s : State) (n : VName) (v : VReg) : Prop :=
  (s.curLvl.stream n.toNat = none ∧ ∃ k, s.curLvl.place n.toNat = some k ∧ v = s.curCore.rv k) ∨
    ∃ st, s.curLvl.stream n.toNat = some st ∧ tmapDir st.desc = false ∧ st.pos < tmapChunks st.desc ∧
      st.buf = some (s.curLvl.fcr.getLsbD 7, v)

/-- The vector name can be no source: it reaches no register, or its stream is a write stream or has no chunk left. -/
def VecUnreadable (s : State) (n : VName) : Prop :=
  (s.curLvl.stream n.toNat = none ∧ s.curLvl.place n.toNat = none) ∨
    ∃ st, s.curLvl.stream n.toNat = some st ∧ (tmapDir st.desc = true ∨ tmapChunks st.desc ≤ st.pos)

/-- The vector name can be a destination; `old` tells that the instruction reads the old value by definition. -/
def VecWritable (s : State) (n : VName) (old : Bool) : Prop :=
  (s.curLvl.stream n.toNat = none ∧ (s.curLvl.place n.toNat).isSome) ∨
    ∃ st, s.curLvl.stream n.toNat = some st ∧ tmapDir st.desc = true ∧ old = false ∧ st.pos < tmapChunks st.desc

/-- The names in their order give the values `vs`. -/
def VecSources (s : State) (ns : List VName) (vs : List VReg) : Prop :=
  vs.length = ns.length ∧ ∀ (j : Nat) (n : VName) (v : VReg), ns[j]? = some n → vs[j]? = some v → VecReads s n v

/-- The issuing level past a vector instruction that reads the names: their streams one chunk on. -/
def State.vecPast (s : State) (ns : List VName) : Lvl := { (s.curLvl.popAll (ns.map BitVec.toNat)).past 4 with xl := [] }

/-- A source that the instruction cannot read raises ILLEGAL with its name, if those before it in `ns` can be read. -/
def VecStops (i : Instr) (s : State) (ns : List VName) : Prop :=
  ∀ (pre post : List VName) (n : VName) (vs : List VReg), ns = pre ++ n :: post → VecSources s pre vs → VecUnreadable s n →
    Raises i s 0x01 (BitVec.ofNat 64 (0x40 + n.toNat)) 0

/-- The vector name whose value an instruction that pops or reads vectors asks for first. -/
def Instr.firstRead (i : Instr) : Option Nat :=
  match i with
  | .vld _ _ _ _ _ => none
  | .vins _ _ _ => none
  | .vstLs _ _ vd => some vd.toNat
  | .vscat _ _ _ _ vd => some vd.toNat
  | i => (Instr.uses i).1.findSome? fun r => match r with
    | .v n => some n
    | _ => none

/-- The answer `q` brings the last part, of place `part` and value `w`, of a gathering whose activation still runs. -/
def LastPart (s : State) (q : Packet) (c : Coll) (part : Nat) (w : Word) : Prop :=
  ∃ (op : Nat) (o : Op) (a : Acc), s.arrivedPkt = some q ∧ q.payload = .resp op 0 w none ∧ q.dst.unit < 9 ∧
    ((s.core q.dst.core).ops.find? fun x => x.id == op) = some o ∧ o.work = .mem a ∧ (∀ n, o.st ≠ .taking n) ∧ o.dest = .part c.id part ∧
    ((s.core q.dst.core).colls.find? fun x => x.id == c.id) = some c ∧ c.left = 1 ∧ c.bad = none ∧ c.lev = o.lev ∧ c.act = o.act ∧
    (s.lvl q.dst.core (lvOf c.lev)).isAct c.act = true ∧ (s.lvl q.dst.core (lvOf c.lev)).withdraws op = false

/-- Part `n` of a gathering whose last part is `w` at place `part`. -/
def Coll.partWith (c : Coll) (part : Nat) (w : Word) (n : Nat) : Word := if n = part then w else AMap.get c.vals 0 n

/-- A store by the issuing level on the rope in `slot` of lanes of `val`, converted to `f`, by the element accesses `els`; the level
becomes `after` of the flags that the conversions of every lane raise. Of two lanes that write one place only the higher is issued.
A block format reads the scales first, each as a load of one byte, and its writes wait for them (R291). -/
def StoresLanes (i : Instr) (s : State) (slot name : Nat) (kind : Kind) (sc : Scope) (f : Fmt) (val : VReg) (els : List El)
    (after : Flags → Lvl) : Prop :=
  let md := modesOf s.curLvl.fcr
  (∀ c v a, s.checkCur false els = .fail c v a → Raises i s c v a) ∧
    ∀ ps, s.checkCur false els = .ok ps → s.curCore.ropeRoom slot ps.length = true →
      let all := ps.filter fun q => q.el.cls == .store
      let ws := topWrites all
      let code := fun (q : Placed) => storeCode f (val.lane q.el.lane) md
      (f.block = none → Issues i s { after (all.foldl (fun x q => x ||| (code q).2) 0) with po := s.curLvl.po + 1 } fun new =>
        new.length = ws.length ∧ ∀ (j : Nat) (o : Op) (q : Placed), new[j]? = some o → ws[j]? = some q →
          NthOp s slot j o ∧ o.st = .held ∧ o.kind = kind ∧ o.scope = sc ∧ o.dest = .drop ∧
          Makes s slot name kind { q with el := { q.el with data := BitVec.ofNat 64 (code q).1 } } o) ∧
      (f.block ≠ none → els ≠ [] →
        let scales := ps.filter fun q => q.el.cls == .load
        let weak := if kind = .w then Kind.w else .s
        (Issues i s { after 0 with po := s.curLvl.po + 1 } fun new => ∃ reads writes,
          new = reads ++ writes ∧ Parts s slot name s.nextId weak weak sc scales reads ∧ writes.length = ws.length ∧
          ∀ (j : Nat) (o : Op) (q : Placed), writes[j]? = some o → ws[j]? = some q → NthOp s slot (scales.length + j) o ∧
            Makes s slot name kind q o ∧ o.st = .awaiting ∧ o.kind = kind ∧ o.scope = sc ∧ o.dest = .drop) ∧
        ∃ t c ops, exec i s = .next t ∧ c ∈ t.curCore.colls ∧ c.id = s.nextId ∧ c.left = scales.length ∧
          c.finish = .vstore f val s.curLvl.fcr ops ∧ ops.length = all.length ∧
          ∀ (j : Nat) (x : LaneOp) (q : Placed), (ops.filter LaneOp.live)[j]? = some x → ws[j]? = some q →
            x.lane = q.el.lane ∧ x.high = (q.el.mask == 0xF0) ∧ x.op.st = .held ∧ Makes s slot name kind q x.op) ∧
      (f.block ≠ none → els = [] → Issues i s { after 0 with po := s.curLvl.po + 1 } fun new => new = [])

/-- A vector value pushed into the write stream `st` of name `n`: the lanes under the mask that the chunk holds are stored on the
stream's own rope, and the stream is one chunk on. -/
def Pushes (i : Instr) (s : State) (ns : List VName) (n : VName) (st : Stream) (mask : Word) (v : VReg) (fl : Flags) : Prop :=
  (chunkRow st.desc st.pos = none → Raises i s 0x06 (tmapBase st.desc) 0) ∧
    ∀ row, chunkRow st.desc st.pos = some row →
      let f := fmtOf row
      (f.rounds = true → badRm s.curLvl.fcr = true → Raises i s 0x01 s.curLvl.fcr 0) ∧
      (f.rounds = false ∨ badRm s.curLvl.fcr = false → StoresLanes i s st.rope 0 .w .c f v
        ((activeLanes (mask &&& chunkMask st.desc st.pos)).flatMap fun j => storeEls row f j (chunkIdx st.desc st.pos j))
        fun fs => { (s.vecPast ns).advance n.toNat with fcr := s.curLvl.fcr ||| fs.setWidth 64 ||| fl.setWidth 64 })

/-- The instruction puts a vector value that stands in `R` to the destination's old value, with the flags it raises, into its
destination: a register, whose value becomes visible `lam` later, or a write stream; with no other change than that its sources'
streams are popped. A destination that cannot be one raises ILLEGAL with its name. -/
def VecWrites (i : Instr) (s : State) (ns : List VName) (vd : VName) (old : Bool) (mask : Word) (lam : Nat)
    (R : VReg → VReg → Flags → Prop) : Prop :=
  (∀ k, s.curLvl.stream vd.toNat = none → s.curLvl.place vd.toNat = some k → ∃ v fl, R (s.curCore.rv k) v fl ∧
    LevelBecomes i s { s.vecPast ns with pend := s.curLvl.pend ++ [⟨.v k, .vec v, lam, 0⟩], fcr := s.curLvl.fcr ||| fl.setWidth 64 }) ∧
  ∀ st, s.curLvl.stream vd.toNat = some st → tmapDir st.desc = true → old = false → st.pos < tmapChunks st.desc →
    ∃ v fl, R VReg.zero v fl ∧ Pushes i s ns vd st mask v fl

/-- A lane-wise instruction of sources `ns`: an active lane of the result is `f` of the modes, its source lanes and the old lane, an
inactive lane is the old one, and the flags are those of the active lanes. With a reserved rounding mode an instruction that
rounds raises ILLEGAL with FCR. -/
def LaneWise (i : Instr) (s : State) (ns : List VName) (vd : VName) (pg : PReg) (lam : Nat) (rounds old : Bool)
    (f : Modes → Lane → Lane → Lane → Flagged Lane) : Prop :=
  VecStops i s ns ∧ ∀ vs, VecSources s ns vs →
    let md := modesOf s.curLvl.fcr
    let mask := s.curLvl.rp pg
    let res := fun (c : VReg) (j : Nat) => f md ((vs.getD 0 VReg.zero).lane j) ((vs.getD 1 VReg.zero).lane j) (c.lane j)
    (¬ VecWritable s vd old → Raises i s 0x01 (BitVec.ofNat 64 (0x40 + vd.toNat)) 0) ∧
    (VecWritable s vd old → rounds = true → badRm s.curLvl.fcr = true → Raises i s 0x01 s.curLvl.fcr 0) ∧
    (rounds = false ∨ badRm s.curLvl.fcr = false → VecWrites i s ns vd old mask lam fun c v fl =>
      (∀ j, j < 64 → v.lane j = if mask.getLsbD j then (res c j).1 else c.lane j) ∧
      ∀ b, fl.getLsbD b = true ↔ ∃ j, j < 64 ∧ mask.getLsbD j = true ∧ (res c j).2.getLsbD b = true)

/-! ### Requests of the host -/

/-- The request of code `op` that the state's argument names is the next of its connection and is taken up: of its own VDID, on MGMT
exactly for VDID 0, with no reserved bit, and in ON if it is not a MGMT request (R475 to R477, R481, R482). -/
def State.takesUp (s : State) (op : Nat) : Prop :=
  (s.chip s.arg.chip).power ≠ .off ∧ s.connWaits s.arg.conn = false ∧ s.connOf s.arg.conn s.arg.vd s.arg.seq = (s.arg.vd, s.arg.seq) ∧
    s.arg.op = none ∧ (op == opMgmt) = (s.arg.vd == 0) ∧ s.arg.addr < 2 ^ 57 ∧ (op = opMgmt ∨ (s.chip s.arg.chip).power = .on)

/-- A MGMT request with a command word of a code is taken up: outside recovery, with no bit set that its row does not use (R478, R480). -/
def State.takesMgmt (s : State) (code : Nat) (used : BitVec 56) : Prop :=
  s.takesUp opMgmt ∧ (s.chip s.arg.chip).power ≠ .recovery ∧ fld (s.arg.words.headD 0).toNat 56 8 = code ∧
    ((s.arg.words.headD 0).setWidth 56 &&& ~~~used) = 0

/-- From `s` to `t` the request of code `op` has been answered on its port with a status and data, and its connection has gone on in
both directions. -/
def Answered (s t : State) (op status : Nat) (data : List Word) (bytes : List Byte) : Prop :=
  t.answers = s.answers ++ [⟨s.header op, s.outOf s.arg.conn, status, data, bytes⟩] ∧
    t.connOf s.arg.conn 0 0 = (s.arg.vd, (s.arg.seq + 1) % 2 ^ 32) ∧ t.outOf s.arg.conn = (s.outOf s.arg.conn + 1) % 2 ^ 32 ∧
    ∀ q ∈ t.hostQ, q.head.conn ≠ s.arg.conn

end Sys2Proof.Machine
end

