-- ==== Sys2Proof/Certificates/Slice0/Obligations.lean ====
section
/-! DEFINITION. The statements for the provers. Each names the rules of spec/ it rests on in OBLIGATIONS.json. -/

open Sys2Proof Sys2Proof.Machine

/-- The state right after reset. (R69, R482, R203, R124) -/
def Obligations.ResetState : Prop :=
  (∀ c, (State.reset.chip c).power = .standby) ∧ State.reset.agenda = [] ∧ State.reset.vds = [] ∧
    (∀ a, a < 2 ^ 56 → State.reset.peek a 1 = 0) ∧ (∀ a, State.reset.isFull a = false) ∧
    State.reset.pkts = [] ∧ State.reset.walks = [] ∧ State.reset.retry = [] ∧
    ∀ k l, (State.reset.lvl k l).act = none ∧ (State.reset.lvl k l).pend = [] ∧ (State.reset.lvl k l).ilock = [] ∧
      (State.reset.core k).ops = [] ∧ (State.reset.core k).floor = 0x1111

/-- A step runs the decoded instruction, and results come due. (R252, R263, R266, R267, R268, R269, R274, R277) -/
def Obligations.StepRunsDecoded : Prop :=
  ∀ (s : State) (chip node slot : Nat) (rest : List Turn) (l : Level), chip < 512 → node < 1024 → slot < 9 →
    s.agenda = .issue chip node slot :: rest →
    let k := coreKey chip node slot
    let s1 := ({ s with agenda := rest }).askFetches chip node slot
    let is_ : Issuer := ⟨chip, node, slot, l⟩
    ({ s with agenda := rest }).coreIssues k = true → s1.pickLevel k = some l →
    (∀ w i fills, s1.fetch k (s1.lvl k l) = .instr w none i fills →
      let s2 := s1.beginIssue is_ w fills
      s2.curLvl.stallShort i s1.free = none →
      ∃ t, exec i s2 = .next t ∧ step s = .next (t.endIssue is_ s2.curLvl w)) ∧
    (∀ w r i fills, s1.fetch k (s1.lvl k l) = .instr w (some r) i fills →
      let s2 := s1.beginIssue is_ w fills
      s2.curLvl.stallShort i s1.free = none →
      ∃ u t, exec (.ropePrefix r) s2 = .next u ∧ exec i u = .next t ∧ step s = .next (t.endIssue is_ s2.curLvl w)) ∧
    (∀ w, s1.fetch k (s1.lvl k l) = .illegal w →
      let s2 := s1.beginIssue is_ w []
      ∃ t, exec .illegalEncoding { s2 with arg := { code := BitVec.ofNat 48 w } } = .next t ∧
        step s = .next (t.endIssue is_ s2.curLvl w)) ∧
    (∀ c v a, s1.fetch k (s1.lvl k l) = .fail c v a →
      let s2 := s1.beginIssue is_ 0 []
      ∃ t, exec .instructionFetchFault s2 = .next t ∧ step s = .next (t.endIssue is_ s2.curLvl 0)) ∧
    (∀ w rope i fills, s1.fetch k (s1.lvl k l) = .instr w rope i fills →
      let s2 := s1.beginIssue is_ w fills
      let x := s2.curLvl
      let reads := (Instr.uses i).1 ++ x.moreReads i
      let late := fun (q : Reg) => q ∈ reads ∧ ∃ e ∈ x.pend, some e.reg = x.reach q
      (∀ v, x.stallShort i s1.free = some v → x.stallchk.getLsbD 0 = true ∧ (∃ q, late q ∧ v = BitVec.ofNat 64 q.code) ∧
        step s = .next ((s2.raise 0x02 v 0).endIssue is_ x w)) ∧
      (x.stallchk.getLsbD 0 = true → (∀ q ∈ (Instr.uses i).1 ++ (Instr.uses i).2, (x.reach q).isSome) → (∃ q, late q) →
        (x.stallShort i s1.free).isSome)) ∧
    (∀ (t : State) (w : Nat) (old : Lvl), (t.lvl k l).act.isSome → (t.lvl k l).acts = old.acts → (t.lvl k l).again = false →
      let x := t.lvl k l
      let y := (t.endIssue is_ old w).lvl k l
      let rv := (t.endIssue is_ old w).core k |>.rv
      let n := 1 + stallOf w
      let due := fun (e : Pend) => e.lam ≤ e.credit + n
      let last := fun (e : Pend) => due e ∧ ∃ pre post, x.pend = pre ++ e :: post ∧ ∀ f ∈ post, f.reg = e.reg → ¬ due f
      y.readyAt = max x.readyAt (t.now + n) ∧
      ((∀ e ∈ x.pend, (∀ m, e.reg = .x m → m < 32) ∧ ∀ m, e.reg = .p m → m < 8) →
        (∀ r : XReg, r ≠ 0 → (∀ e v, last e → e.reg = .x r.toNat → e.val = .word v → y.rx r = v) ∧
          ((∀ e ∈ x.pend, e.reg = .x r.toNat → ¬ due e) → y.rx r = x.rx r)) ∧
        (∀ p : PReg, p ≠ 0 → (∀ e v, last e → e.reg = .p p.toNat → e.val = .word v → y.rp p = v) ∧
          ((∀ e ∈ x.pend, e.reg = .p p.toNat → ¬ due e) → y.rp p = x.rp p)) ∧
        (∀ j e v, last e → e.reg = .v j → e.val = .vec v → rv j = v) ∧
        (∀ pre e post, x.pend = pre ++ e :: post → ¬ due e → (∀ f ∈ post, f.reg = e.reg → ¬ due f) →
          { e with credit := e.credit + n } ∈ y.pend) ∧
        ∀ e ∈ y.pend, e.credit < e.lam))

/-- The fetch decodes the bytes at the program counter. (R263, R274, R275, R277) -/
def Obligations.FetchReadsCode : Prop :=
  ∀ (s : State) (k : Nat) (l : Lvl) (pa : Nat → Nat), l.inInbox = false →
    (∀ i, i < 2 → (l.pc + BitVec.ofNat 64 (2 * i)).toNat < 2 ^ 56 ∧
      (∃ mt e, s.xlate (s.core k).tlb l.xl (s.core k).owner (l.pc + BitVec.ofNat 64 (2 * i)).toNat permX = .ok (pa i) mt e) ∧
      s.populated (pa i) = true ∧ s.isBad (pa i) = false ∧ s.memWaits (s.core k).owner (pa i) = false ∧ s.owed (pa i) 2 = false ∧
      (s.clu (keyCluster k)).icache.find? (fun e => e.1 == ((s.core k).owner, pa i)) = none) →
    let p0 := s.peek (pa 0) 2
    let w := p0 + s.peek (pa 1) 2 * 2 ^ 16
    (∀ i, isLong p0 = false → isPrefix p0 = false → decodeWord p0 = some i → Instr.ropeSel i ≠ some true →
      ∃ fills, s.fetch k l = .instr p0 none i fills) ∧
    (∀ i, isLong p0 = true → decodeWord w = some i → Instr.ropeSel i ≠ some true →
      ∃ fills, s.fetch k l = .instr w none i fills) ∧
    (isLong p0 = false → isPrefix p0 = false → decodeWord p0 = none → s.fetch k l = .illegal p0) ∧
    (isLong p0 = true → decodeWord w = none → s.fetch k l = .illegal w)

/-- Worked words of the spec decode to their instructions. (spec sections of the encodings: R263, R271, R272, R274, R275,
R276, R277) -/
def Obligations.DecodeWords : Prop :=
  decodeWord 0x00731411 = some (.add 7 6 5) ∧ decodeWord 0x00851825 = some (.addi 8 10 6) ∧
    decodeWord 0x08331471 = some (.srai 3 6 5) ∧ decodeWord 0x091A1481 = some (.lui 0x1234 5) ∧
    decodeWord 0x108314A1 = some (.bxt 4 8 6 5) ∧ decodeWord 0x007314B3 = some (.mul 7 6 5) ∧
    decodeWord 0xFD1014E1 = some (.bne (-6) 0 5) ∧ decodeWord 0xFFFF8101 = some (.j (-32)) ∧
    decodeWord 0x00030521 = some (.jalr 0 6 1) ∧ decodeWord 0x00929C01 = some (.mfcr 9 5) ∧
    decodeWord 0x0042A401 = some (.mfid 4 5) ∧ decodeWord 0x0462B001 = some (.lnch 2 6 5) ∧
    decodeWord 0x32059551 = some (.st false .v .s 0 11 5) ∧ decodeWord 0x0C731561 = some (.ldx false .w true .w 7 6 5) ∧
    decodeWord 0x3415A171 = some (.ldfeFe false .v .acq 11 8) ∧ decodeWord 0x38951981 = some (.amoCas false .v .ar 10 6) ∧
    decodeWord 0x046281A1 = some (.spawn 0 6 5) ∧ decodeWord 0x02629DB1 = some (.mcst 0 6 5 7) ∧
    decodeWord 0x305501C1 = some (.evpost 3 5 10 0) ∧ decodeWord 0x142015D1 = some (.gbar 5 5) ∧
    decodeWord 0x080301E1 = some (.tlbinvB 6) ∧ decodeWord 0x02892221 = some (.vfmaF 0 10 9 8) ∧
    decodeWord 0x24461701 = some (.vcvtIF 1 6 5) ∧ decodeWord 0x01C44B11 = some (.vcmpFLt 0 7 4 2) ∧
    decodeWord 0x43061721 = some (.vld false .sync 3 6 5) ∧ decodeWord 0x08071721 = some (.vldLs 0 7 5) ∧
    decodeWord 0x11262341 = some (.vgath false 2 9 6 8) ∧ decodeWord 0x20302351 = some (.sopen 3 2 0) ∧
    decodeWord 0x50384361 = some (.pfirst 7 2) ∧ decodeWord 0x000C2771 = some (.vraddF 0 12 9) ∧
    decodeWord 0x31440F81 = some (.vperm 5 4 3) ∧ decodeWord 0x04051B91 = some (.vexpi 0 5 6) ∧
    decodeWord 0x010017A1 = some (.mxq 16 5) ∧ decodeWord 0x003003B1 = some (.rackTake 3) ∧
    decodeWord 0xA550 = some (.cLd 10 5) ∧ decodeWord 0x03F0 = some (.ropePrefix 3) ∧
    decodeWord 0 = none ∧ decodeWord 0x000000D1 = none

/-- Decoding an encoded instruction gives it back. (R263, R266, R271, R272, R275, R276) -/
def Obligations.DecodeEncode : Prop :=
  ∀ (i : Instr) (stl : Stall), i.encoded = true → i.wellFormed = true → (i = .cMv 0 0 → stl ≠ 0) →
    decodeWord (encode stl i) = some i ∧ stallOf (encode stl i) = stl.toNat

/-- A word that decodes is the encoding of what it decodes to. (R272, R275, R276, R277) -/
def Obligations.DecodeIsEncoding : Prop :=
  ∀ (w : Nat) (i : Instr), w < 2 ^ (8 * wordBytes w) → decodeWord w = some i →
    i.wellFormed = true ∧ i.encoded = true ∧ encode (BitVec.ofNat 3 (stallOf w)) i = w

/-- Memory is in canonical form at reset. (R69) -/
def Obligations.ResetMemoryCanonical : Prop :=
  State.reset.mem.wf = true ∧ ∀ k, (State.reset.core k).lanes.wf = true ∧ (State.reset.core k).mx.window.wf = true

/-- Every step keeps the memory in canonical form. (R69, R15) -/
def Obligations.MemoryStaysCanonical : Prop :=
  ∀ s t : State, s.mem.wf = true → step s = .next t → t.mem.wf = true

/-- No instruction or event ends a run. That an event whose condition fails still answers a state is the model's choice (log entry 99),
and that only a turn naming no unit stops is its reading (log entry 100). (R277, R432) -/
def Obligations.EveryInstructionAnswers : Prop :=
  (∀ (i : Instr) (s : State), ∃ t, exec i s = .next t) ∧
    ∀ s : State, (∀ t rest, s.agenda = t :: rest → t.ok = true) →
      (s.agenda = [] → ({ s with free := s.free + 1 }).choose.ok = true) → s.stepsOn

/-- Register arithmetic. (R309) -/
def Obligations.RegisterArithmetic : Prop :=
  ∀ (s : State) (rb ra rd : XReg),
    let a := s.curLvl.rx ra
    let b := s.curLvl.rx rb
    let sh := b.toNat % 64
    WritesReg (.add rb ra rd) s 4 rd (a + b) ∧ WritesReg (.sub rb ra rd) s 4 rd (a - b) ∧
      WritesReg (.and_ rb ra rd) s 4 rd (a &&& b) ∧ WritesReg (.or_ rb ra rd) s 4 rd (a ||| b) ∧
      WritesReg (.xor_ rb ra rd) s 4 rd (a ^^^ b) ∧ WritesReg (.shl rb ra rd) s 4 rd (a <<< sh) ∧
      WritesReg (.shr rb ra rd) s 4 rd (a >>> sh) ∧ WritesReg (.sra rb ra rd) s 4 rd (a.sshiftRight sh) ∧
      WritesReg (.rot rb ra rd) s 4 rd ((a <<< sh) ||| (a >>> (64 - sh))) ∧
      WritesReg (.slt rb ra rd) s 4 rd (if a.toInt < b.toInt then 1 else 0) ∧
      WritesReg (.sltn rb ra rd) s 4 rd (if a.toNat < b.toNat then 1 else 0) ∧
      WritesReg (.min_ rb ra rd) s 4 rd (BitVec.ofInt 64 (min a.toInt b.toInt)) ∧
      WritesReg (.max_ rb ra rd) s 4 rd (BitVec.ofInt 64 (max a.toInt b.toInt)) ∧
      WritesReg (.minn rb ra rd) s 4 rd (BitVec.ofNat 64 (min a.toNat b.toNat)) ∧
      WritesReg (.maxn rb ra rd) s 4 rd (BitVec.ofNat 64 (max a.toNat b.toNat)) ∧
      WritesReg (.sel rb ra rd) s 4 rd (if s.curLvl.rx rd ≠ 0 then a else b) ∧
      (∃ n, WritesReg (.clz ra rd) s 4 rd (BitVec.ofNat 64 n) ∧ n ≤ 64 ∧ (∀ i, i < n → a.getLsbD (63 - i) = false) ∧
        (n < 64 → a.getLsbD (63 - n) = true)) ∧
      (∃ n, WritesReg (.ctz ra rd) s 4 rd (BitVec.ofNat 64 n) ∧ n ≤ 64 ∧ (∀ i, i < n → a.getLsbD i = false) ∧
        (n < 64 → a.getLsbD n = true)) ∧
      WritesReg (.popc ra rd) s 4 rd (BitVec.ofNat 64 ((List.range 64).countP fun i => a.getLsbD i)) ∧
      (∃ v, WritesReg (.brev ra rd) s 4 rd v ∧ ∀ i, i < 64 → v.getLsbD (63 - i) = a.getLsbD i) ∧
      Reg.x rd.toNat ∈ (Instr.uses (.sel rb ra rd)).1

/-- Immediate arithmetic. (R310, R306, R311) -/
def Obligations.ImmediateArithmetic : Prop :=
  ∀ (s : State) (imm : BitVec 12) (amt : BitVec 6) (hi : BitVec 17) (ra rd : XReg),
    let a := s.curLvl.rx ra
    WritesReg (.addi imm ra rd) s 4 rd (a + imm.signExtend 64) ∧ WritesReg (.andi imm ra rd) s 4 rd (a &&& imm.setWidth 64) ∧
      WritesReg (.ori imm ra rd) s 4 rd (a ||| imm.setWidth 64) ∧ WritesReg (.xori imm ra rd) s 4 rd (a ^^^ imm.setWidth 64) ∧
      WritesReg (.slti imm ra rd) s 4 rd (if a.toInt < imm.toInt then 1 else 0) ∧
      WritesReg (.shli amt ra rd) s 4 rd (a <<< amt.toNat) ∧ WritesReg (.shri amt ra rd) s 4 rd (a >>> amt.toNat) ∧
      WritesReg (.srai amt ra rd) s 4 rd (a.sshiftRight amt.toNat) ∧
      WritesReg (.roti amt ra rd) s 4 rd ((a <<< amt.toNat) ||| (a >>> (64 - amt.toNat))) ∧
      WritesReg (.lui hi rd) s 4 rd (hi.signExtend 64 <<< 12) ∧
      WritesReg (.addpc hi rd) s 4 rd (s.curLvl.pc + (hi.signExtend 64 <<< 12))

/-- Bit fields. (R313) -/
def Obligations.BitFields : Prop :=
  ∀ (s : State) (width off : BitVec 6) (ra rd : BitVec 4),
    let a := s.curLvl.rx (ra.setWidth 5)
    let o := off.toNat
    let t := if width.toNat = 0 then 0 else min width.toNat (64 - o)
    (∃ v, WritesReg (.bxtn width off ra rd) s 4 (rd.setWidth 5) v ∧
      ∀ i, v.getLsbD i = (decide (i < t) && a.getLsbD (o + i))) ∧
    (∃ v, WritesReg (.bxt width off ra rd) s 4 (rd.setWidth 5) v ∧
      ∀ i, i < 64 → v.getLsbD i = (decide (0 < t) && a.getLsbD (o + min i (t - 1)))) ∧
    (0 < t → ∃ v, WritesReg (.bins width off ra rd) s 4 (rd.setWidth 5) v ∧
      ∀ i, i < 64 → v.getLsbD i =
        if o ≤ i ∧ i < o + t then a.getLsbD (i - o) else (s.curLvl.rx (rd.setWidth 5)).getLsbD i) ∧
    (t = 0 → LevelBecomes (.bins width off ra rd) s (s.curLvl.past 4))

/-- Multiply and divide. (R315) -/
def Obligations.MultiplyDivide : Prop :=
  ∀ (s : State) (rb ra rd : XReg),
    let a := s.curLvl.rx ra
    let b := s.curLvl.rx rb
    let late := fun (v : Word) =>
      if rd = 0 then s.curLvl.past 4 else { s.curLvl.past 4 with pend := s.curLvl.pend ++ [⟨.x rd.toNat, .word v, 3, 0⟩] }
    LevelBecomes (.mul rb ra rd) s (late (BitVec.ofInt 64 (a.toInt * b.toInt))) ∧
      LevelBecomes (.mulh rb ra rd) s (late (BitVec.ofInt 64 ((a.toInt * b.toInt).fdiv (2 ^ 64)))) ∧
      LevelBecomes (.mulhn rb ra rd) s (late (BitVec.ofNat 64 (a.toNat * b.toNat / 2 ^ 64))) ∧
      (b = 0 → WritesReg (.div rb ra rd) s 4 rd (-1) ∧ WritesReg (.divn rb ra rd) s 4 rd (-1) ∧
        WritesReg (.rem rb ra rd) s 4 rd a ∧ WritesReg (.remn rb ra rd) s 4 rd a) ∧
      (a.toInt = -2 ^ 63 → b = -1 → WritesReg (.div rb ra rd) s 4 rd a ∧ WritesReg (.rem rb ra rd) s 4 rd 0) ∧
      (b ≠ 0 → WritesReg (.divn rb ra rd) s 4 rd (BitVec.ofNat 64 (a.toNat / b.toNat)) ∧
        WritesReg (.remn rb ra rd) s 4 rd (BitVec.ofNat 64 (a.toNat - a.toNat / b.toNat * b.toNat))) ∧
      (b ≠ 0 → ¬ (a.toInt = -2 ^ 63 ∧ b = -1) → ∃ q r : Int,
        WritesReg (.div rb ra rd) s 4 rd (BitVec.ofInt 64 q) ∧ WritesReg (.rem rb ra rd) s 4 rd (BitVec.ofInt 64 r) ∧
        a.toInt = q * b.toInt + r ∧ r.natAbs < b.toInt.natAbs ∧ (r = 0 ∨ (r < 0 ↔ a.toInt < 0)))

/-- Pointer instructions. (R12, R13, R306, R432, R435) -/
def Obligations.Pointers : Prop :=
  ∀ (s : State) (rb ra rd : XReg),
    let p := s.curLvl.rx ra
    let d := (s.curLvl.rx rb).toInt
    let at_ : Int := (p.toNat % 2 ^ 57 : Nat)
    (0 ≤ at_ + d → at_ + d < 2 ^ 57 → ∃ q, WritesReg (.padd rb ra rd) s 4 rd q ∧ (q.toNat % 2 ^ 57 : Nat) = at_ + d ∧
      q.toNat / 2 ^ 57 = p.toNat / 2 ^ 57) ∧
    (0 ≤ at_ - d → at_ - d < 2 ^ 57 → ∃ q, WritesReg (.psub rb ra rd) s 4 rd q ∧ (q.toNat % 2 ^ 57 : Nat) = at_ - d ∧
      q.toNat / 2 ^ 57 = p.toNat / 2 ^ 57) ∧
    (at_ + d < 0 ∨ 2 ^ 57 ≤ at_ + d → Raises (.padd rb ra rd) s 0x06 p 0) ∧
    (at_ - d < 0 ∨ 2 ^ 57 ≤ at_ - d → Raises (.psub rb ra rd) s 0x06 p 0) ∧
    WritesReg (.ptag rb ra rd) s 4 rd (BitVec.ofNat 64 ((s.curLvl.rx rb).toNat % 2 ^ 7 * 2 ^ 57 + p.toNat % 2 ^ 57)) ∧
    WritesReg (.pget ra rd) s 4 rd (BitVec.ofNat 64 (p.toNat / 2 ^ 57)) ∧
    WritesReg (.pstrip ra rd) s 4 rd (BitVec.ofNat 64 (p.toNat % 2 ^ 57))

/-- The compact forms that compute. (R275, R308, R310) -/
def Obligations.CompactForms : Prop :=
  ∀ (s : State) (b a : BitVec 4),
    let rd : XReg := a.setWidth 5
    let x := s.curLvl.rx rd
    let y := s.curLvl.rx (b.setWidth 5)
    WritesReg (.cMv b a) s 2 rd y ∧ WritesReg (.cAdd b a) s 2 rd (x + y) ∧ WritesReg (.cSub b a) s 2 rd (x - y) ∧
      WritesReg (.cAddi b a) s 2 rd (x + b.signExtend 64) ∧ WritesReg (.cLi b a) s 2 rd (b.signExtend 64) ∧
      WritesReg (.cAnd b a) s 2 rd (x &&& y) ∧ WritesReg (.cOr b a) s 2 rd (x ||| y) ∧
      WritesReg (.cShli b a) s 2 rd (x <<< b.toNat) ∧ WritesReg (.cShri b a) s 2 rd (x >>> b.toNat)

/-- Branches and plain jumps. (R264, R275, R316, R317, R318) -/
def Obligations.Branches : Prop :=
  ∀ (s : State) (off9 : BitVec 9) (off12 : BitVec 12) (off22 : BitVec 22) (off4 : BitVec 4) (off8 : BitVec 8) (rb ra : XReg)
      (r : BitVec 4),
    let l := s.curLvl
    let a := l.rx ra
    let b := l.rx rb
    let goes := fun (n : Nat) (taken : Prop) [Decidable taken] (off : Int) =>
      if taken then { l with pc := l.pc + BitVec.ofInt 64 (2 * off), pfx := none } else l.past n
    LevelBecomes (.beq off9 rb ra) s (goes 4 (a = b) off9.toInt) ∧ LevelBecomes (.bne off9 rb ra) s (goes 4 (a ≠ b) off9.toInt) ∧
      LevelBecomes (.blt off9 rb ra) s (goes 4 (a.toInt < b.toInt) off9.toInt) ∧
      LevelBecomes (.bge off9 rb ra) s (goes 4 (b.toInt ≤ a.toInt) off9.toInt) ∧
      LevelBecomes (.blo off9 rb ra) s (goes 4 (a.toNat < b.toNat) off9.toInt) ∧
      LevelBecomes (.bhs off9 rb ra) s (goes 4 (b.toNat ≤ a.toNat) off9.toInt) ∧
      LevelBecomes (.bz off12 ra) s (goes 4 (a = 0) off12.toInt) ∧ LevelBecomes (.bnz off12 ra) s (goes 4 (a ≠ 0) off12.toInt) ∧
      LevelBecomes (.cBnz off4 r) s (goes 2 (l.rx (r.setWidth 5) ≠ 0) off4.toInt) ∧
      LevelBecomes (.j off22) s (goes 4 True off22.toInt) ∧ LevelBecomes (.cJ off8) s (goes 2 True off8.toInt)

/-- JAL, JALR and JR. (R218, R264, R306, R318, R319, R320) -/
def Obligations.JumpsAndLinks : Prop :=
  ∀ (s : State) (off : BitVec 22) (imm : BitVec 12) (ra rd : XReg),
    let l := s.curLvl
    let t := l.rx ra + imm.signExtend 64
    let inbox := fun (v : Word) => v.getLsbD 63 = true ∧ v.toNat / 2 ^ 9 % 2 ^ 54 = 0
    let hasCode := ∃ a c, l.act = some a ∧ a.code = some c
    let goTo := fun (b : Bool) => { l.wx rd (l.pc + 4) with pc := t, pfx := none, act := l.act.map fun a => { a with inbox := b } }
    LevelBecomes (.jal off) s { l.wx 1 (l.pc + 4) with pc := l.pc + BitVec.ofInt 64 (2 * off.toInt), pfx := none } ∧
      (t.getLsbD 0 = true → Raises (.jalr imm ra rd) s 0x03 0 t) ∧
      (t.getLsbD 0 = false → inbox t → hasCode → LevelBecomes (.jalr imm ra rd) s (goTo true)) ∧
      (t.getLsbD 0 = false → inbox t → ¬ hasCode → Raises (.jalr imm ra rd) s 0x04 0 t) ∧
      (t.getLsbD 0 = false → ¬ inbox t → 2 ^ 56 ≤ t.toNat → Raises (.jalr imm ra rd) s 0x04 0 t) ∧
      (t.getLsbD 0 = false → t.toNat < 2 ^ 56 → LevelBecomes (.jalr imm ra rd) s (goTo false)) ∧
      (l.wx rd (l.pc + 4)).rx rd = (if rd = 0 then 0 else l.pc + 4) ∧
      ∀ r, r ≠ rd → (l.wx rd (l.pc + 4)).rx r = l.rx r

/-- LOOP. (R324) -/
def Obligations.LoopRotates : Prop :=
  ∀ (s : State) (off : BitVec 12) (stp : BitVec 5),
    let l := s.curLvl
    let n := l.lcount.toNat % 2 ^ 32
    (n = 0 → LevelBecomes (.loop off stp) s (l.past 4)) ∧
      (0 < n → ∃ y, LevelBecomes (.loop off stp) s y ∧ y.lcount = BitVec.ofNat 64 (n - 1) ∧
        (l.rbase.getLsbD 8 = false → y.rbase = l.rbase) ∧
        (l.rbase.getLsbD 8 = true → y.rbase.toNat % 32 = (l.rbase.toNat % 32 + stp.toNat) % 32 ∧
          y.rbase.toNat / 32 = l.rbase.toNat / 32) ∧
        y.pc = (if n = 1 then l.pc + 4 else l.pc + BitVec.ofInt 64 (2 * off.toInt)) ∧
        { y with lcount := l.lcount, rbase := l.rbase, pc := l.pc, pfx := l.pfx } = l)

/-- Hints, SLEEP, WAITX and their ends. (R222, R224, R275, R326, R334, R335, R338, R339) -/
def Obligations.HintsAndWaits : Prop :=
  ∀ (s : State) (ra : XReg) (n : BitVec 3),
    let l := s.curLvl
    let k := coreKey s.arg.chip s.arg.node s.arg.slot
    let w := s.lvl k s.arg.lev
    LevelBecomes .nop s (l.past 4) ∧
      LevelBecomes .hintYield s { l.past 4 with readyAt := max l.readyAt (s.now + 2) } ∧
      LevelBecomes .cYield s { l.past 2 with readyAt := max l.readyAt (s.now + 2) } ∧
      (s.detached s.curKey s.cur.lev = false → LevelBecomes .hintAlign s (l.past 4)) ∧
      (s.detached s.curKey s.cur.lev = true → LevelBecomes .hintAlign s { l.past 4 with wait := .align (s.now + 64) }) ∧
      (∀ t, w.wait = .align t → t ≤ s.now → ∃ u, exec .alignTimeout s = .next u ∧ OnlyLevel k s.arg.lev s u ∧
        u.lvl k s.arg.lev = { w with wait := .ready }) ∧
      (l.rx ra = 0 → LevelBecomes (.sleep ra) s (l.past 4)) ∧
      (l.rx ra ≠ 0 → LevelBecomes (.sleep ra) s { l.past 4 with wait := .sleep (s.now + 1 + (l.rx ra).toNat) }) ∧
      (∀ t, w.wait = .sleep t → t ≤ s.now → ∃ u, exec .sleepEnd s = .next u ∧ OnlyLevel k s.arg.lev s u ∧
        u.lvl k s.arg.lev = { w with wait := .ready }) ∧
      ((l.rx ra).toNat ≤ s.curCore.chan.done.toNat → ∃ u, exec (.waitx ra) s = .next u ∧ u.curLvl = l.past 4 ∧
        u.curCore.l1 = [] ∧ OnlyShared s.curKey s.cur.lev s u) ∧
      (s.curCore.chan.done.toNat < (l.rx ra).toNat →
        LevelBecomes (.waitx ra) s { l.past 4 with wait := .waitx (l.rx ra).toNat }) ∧
      (activeOf (s.clu (keyCluster s.curKey)) s.cur.slot ≠ some n.toNat →
        LevelBecomes (.slave n) s { l.past 4 with follow := some ⟨n.toNat, false, 0, []⟩ }) ∧
      (activeOf (s.clu (keyCluster s.curKey)) s.cur.slot = some n.toNat →
        Raises (.slave n) s 0x01 (BitVec.ofNat 64 l.word) 0) ∧
      LevelBecomes .unslave s { l.past 4 with follow := none }

/-- TRAP, TRET, ABORT and patterns that are no instruction. That an odd TRAPPC raises MISALIGN is the model's choice (log entry 103).
(R277, R328, R329, R330, R431, R432, R434, R435, R436, R438) -/
def Obligations.TrapsByProgram : Prop :=
  ∀ (s : State) (code : BitVec 12),
    let l := s.curLvl
    (∃ t, exec (.trap code) s = .next t ∧
      (s.handled → TrapsTo s t 0x10 (l.pc + 4) (l.pc + 4) (code.setWidth 64) 0) ∧
      (¬ s.handled → t = (s.withCause 0x10 (l.pc + 4) (code.setWidth 64) 0).fault s.curKey s.cur.lev)) ∧
    (∀ k, s.cur.lev = 3 → s.curCore.forwarded = some k → l.trappc.getLsbD 0 = true → Raises .tret s 0x03 0 l.trappc) ∧
    (∀ k, s.cur.lev = 3 → s.curCore.forwarded = some k → k ≠ 3 → l.trappc.getLsbD 0 = false → ∃ u ops,
      exec .tret s = .next (u.pump s.curKey) ∧
      u.curLvl.act = none ∧ (u.lvl s.curKey k).pc = l.trappc ∧ (u.lvl s.curKey k).wait = .ready ∧ (u.lvl s.curKey k).trap = none ∧
      (u.lvl s.curKey k).x = (s.lvl s.curKey k).x ∧ (u.lvl s.curKey k).act = (s.lvl s.curKey k).act ∧
      u.curCore.ops = s.curCore.ops ++ ops ∧
      (∀ o ∈ ops, o.kind = .rel ∧ o.scope = .c ∧ o.rope = (s.curCore.ropeAt 3).uid ∧ o.id ∈ (u.curCore.ropeAt k.val).adopt) ∧
      (ops = [] → ∀ o ∈ s.curCore.ops, o.rope = (s.curCore.ropeAt 3).uid → (s.curCore.ropeAt 3).issued ≤ o.idx) ∧
      { u with cores := s.cores, nextId := s.nextId } = s ∧ (∀ j, j ≠ s.curKey → u.core j = s.core j) ∧ SameBytes s u) ∧
    (s.cur.lev ≠ 3 ∨ s.curCore.forwarded = none → Raises .tret s 0x01 (BitVec.ofNat 64 l.word) 0) ∧
    (s.cur.lev ≠ 3 ∨ s.curCore.forwarded = none → ∃ u, exec (.abort code) s = .next (u.fault s.curKey s.cur.lev) ∧
      u.curLvl.trapcause = BitVec.ofNat 64 (s.cur.lev.val * 256 + 0x10) ∧ u.curLvl.trappc = l.ipc + 4 ∧
      u.curLvl.trapval = code.setWidth 64 ∧ u.curLvl.trapaddr = 0 ∧ u.curLvl.act = l.act ∧ u.curLvl.pend = [] ∧
      OnlyCore s.curKey s u ∧ SameBytes s u) ∧
    (∀ k, s.cur.lev = 3 → s.curCore.forwarded = some k → ∃ u, exec (.abort code) s = .next (u.faultLevel s.curKey k) ∧
      u.curLvl.act = none ∧ (∀ m, m ≠ 3 → u.lvl s.curKey m = s.lvl s.curKey m) ∧ OnlyCore s.curKey s u ∧ SameBytes s u) ∧
    Raises .illegalEncoding s 0x01 (s.arg.code.setWidth 64) 0 ∧
    (∀ c v a, s.fetch s.curKey l = .fail c v a → Raises .instructionFetchFault s c v a)

/-- DONE and C.DONE. That an odd x1 raises MISALIGN is the model's choice (log entry 103). (R215, R126, R223, R327, R393, R437) -/
def Obligations.DoneEnds : Prop :=
  ∀ (s : State) (i : Instr), i = .done_ ∨ i = .cDone →
    let l := s.curLvl
    (l.inlineN ≠ 0 → (l.rx 1).getLsbD 0 = true → Raises i s 0x03 0 (l.rx 1)) ∧
    (l.inlineN ≠ 0 → (l.rx 1).getLsbD 0 = false → LevelBecomes i s { l with
      pc := l.rx 1, pfx := none, inlineN := l.inlineN - 1,
      act := l.act.map fun a => { a with inbox := (l.rx 1).getLsbD 63 && (l.rx 1).toNat / 2 ^ 9 % 2 ^ 54 == 0 } }) ∧
    (l.inlineN = 0 → s.cur.lev ≠ 3 ∨ s.curCore.forwarded = none → ∃ t, exec i s = .next t ∧
      t.curLvl.act = none ∧ t.curLvl.held = l.held.take (s.curCore.floorOf s.cur.lev) ∧
      t.curLvl.rope = l.rope.take 1 ++ List.replicate 15 none ∧ t.curLvl.streams = [none, none, none, none] ∧
      t.curLvl.ilock = [] ∧ t.curLvl.dropped = l.acts ∧ t.curLvl.follow = none ∧ t.curLvl.trap = none ∧
      t.curLvl.x = l.x ∧ t.curLvl.p = l.p ∧ t.curLvl.fcr = l.fcr ∧
      (∀ a, l.act = some a → a.slot < s.curCore.slots.length → t.curCore.slots[a.slot]? = some {}) ∧
      t.curCore.ops = s.curCore.ops ∧ t.curCore.vreg = s.curCore.vreg ∧ t.curCore.l1 = s.curCore.l1 ∧
      OnlyCore s.curKey s t ∧ (∀ m, m ≠ s.cur.lev → t.lvl s.curKey m = s.lvl s.curKey m) ∧ SameBytes s t) ∧
    (∀ k, l.inlineN = 0 → s.cur.lev = 3 → s.curCore.forwarded = some k →
      ∃ u, exec i s = .next (u.faultLevel s.curKey k) ∧ u.curLvl.act = none ∧ OnlyCore s.curKey s u ∧ SameBytes s u)

/-- Faults, and which causes reach a handler. (R215, R249, R306, R432, R434, R435, R438, R439) -/
def Obligations.FaultsAndHandlers : Prop :=
  (∀ (s : State) (k : Nat) (l : Level) (a : Act) (v : VDev), (s.lvl k l).act = some a → (s.lvl k l).trap = none →
    (s.core k).forwarded = none → s.vdev? (s.core k).owner = some v → a.launch ≠ 0 →
    (v.launches.any fun j => j.id == a.launch) = true → v.iso a.launch = false →
    (s.lvl k l).trapcause.toNat % 2 ^ 8 ≠ 0x0F →
    let x := s.lvl k l
    let rec_ := [faultWord0 k l.val 0 (keySlot k) (x.trapcause.toNat % 2 ^ 8) (x.trapcause.getLsbD 10), x.trappc, x.trapval, x.trapaddr]
    ((s.fault k l).lvl k l).act = none ∧ (s.fault k l).mem = s.mem ∧
      ∃ v', (s.fault k l).vdev? (s.core k).owner = some v' ∧
        v'.launches = v.launches.map fun j =>
          let first := j.faultAt = s.now ∧ (rec_.headD 0).toNat / 2 ^ 39 < ((j.fault.getD []).headD 0).toNat / 2 ^ 39
          if j.id = a.launch then
            { j with fault := if j.fault = none ∨ first then some rec_ else j.fault, faultAt := if j.fault = none then s.now else j.faultAt,
                     count := min (j.count + 1) 0x7FFF, halted := true }
          else j) ∧
  (∀ c, trappable c = true ↔ c = 0x02 ∨ c = 0x03 ∨ c = 0x05 ∨ c = 0x06 ∨ c = 0x10) ∧
    ∀ (s : State) (cause : Nat) (val addr : Word),
      let l := s.curLvl
      let next := l.ipc + BitVec.ofNat 64 l.instrBytes
      (trappable cause = true → s.handled → TrapsTo s (s.raise cause val addr) cause l.ipc
        (if cause = 0x02 ∨ cause = 0x10 then l.ipc else next) val addr) ∧
      (trappable cause = false ∨ ¬ s.handled →
        s.raise cause val addr = (s.withCause cause l.ipc val addr).fault s.curKey s.cur.lev)

/-- MFCR. (R206, R285, R331, R332, R297, R146, R144, R250, R234, R409, R259) -/
def Obligations.ControlRegisterReads : Prop :=
  ∀ (s : State) (rd : XReg),
    let l := s.curLvl
    let c := s.curCore
    let plain := fun (n : BitVec 12) (v : Word) => WritesReg (.mfcr n rd) s 4 rd v
    let acq := fun (n : BitVec 12) (v : Word) => ∃ t, exec (.mfcr n rd) s = .next t ∧ RegResult l t.curLvl 4 rd v ∧
      t.curCore.l1 = [] ∧ OnlyShared s.curKey s.cur.lev s t
    (s.flagsDue = none → plain 0x000 l.fcr) ∧
      (∀ id, s.flagsDue = some id → LevelBecomes (.mfcr 0x000 rd) s { l with pc := l.ipc, pfx := none, again := true, wait := .coll id }) ∧
      plain 0x001 l.stallchk ∧ plain 0x003 l.inlineN ∧ plain 0x004 l.trapcause ∧
      plain 0x005 l.trappc ∧ plain 0x006 l.trapval ∧ plain 0x007 l.trapaddr ∧ plain 0x008 l.rbase ∧ plain 0x009 l.lcount ∧
      acq 0x010 (c.mb.get 0) ∧ acq 0x011 (c.mb.get 1) ∧ acq 0x012 (c.mb.get 2) ∧ acq 0x013 (c.mb.get 3) ∧
      plain 0x014 c.dispbase ∧ plain 0x015 c.tagbase ∧
      (∀ i : Nat, i < 10 → plain (BitVec.ofNat 12 (0x020 + i)) (c.chan.shadow.getD i 0)) ∧
      acq 0x02B c.chan.done ∧ plain 0x02C c.chan.fault ∧
      plain 0x040 (BitVec.ofNat 64 ((64 - c.mx.queue.length) * 2 ^ 32 + c.mx.pushed)) ∧
      plain 0x041 (BitVec.ofNat 64 c.mx.retired) ∧ plain 0x043 c.mx.stall ∧ plain 0x044 c.mx.mode ∧
      plain 0x042 (BitVec.ofNat 64 (min (s.clu (keyCluster s.curKey)).cap (s.chip (keyChip s.curKey)).capLow * 2 ^ 16 +
        (s.clu (keyCluster s.curKey)).budget)) ∧
      plain 0x050 c.floor ∧
      plain 0x051 (BitVec.ofNat 64 ((c.lvl 0).held.length + 16 * (c.lvl 1).held.length + 256 * (c.lvl 2).held.length +
        4096 * (c.lvl 3).held.length)) ∧
      plain 0x052 (BitVec.ofNat 64 c.rackFree) ∧
      plain 0x053 (BitVec.ofNat 64 (c.takeOf 0 + 16 * c.takeOf 1 + 256 * c.takeOf 2 + 4096 * c.takeOf 3)) ∧
      plain 0x060 c.injstat ∧ plain 0x061 c.evretry ∧ plain 0x062 c.tracectl ∧ plain 0x063 c.traceptr ∧
      (∀ v, s.vdev? s.curVd = some v → plain 0x002 (BitVec.ofNat 64 v.limit) ∧ acq 0x064 (BitVec.ofNat 64 v.lwmark)) ∧
      (s.vdev? s.curVd = none → plain 0x002 0x100000) ∧
      ∀ n : BitVec 12, crAssigned n.toNat = false → Raises (.mfcr n rd) s 0x01 (BitVec.ofNat 64 l.word) 0

/-- MTCR of the plain registers. (R331, R269, R285, R295, R297, R321, R322, R369, R431, R148) -/
def Obligations.ControlRegisterWrites : Prop :=
  ∀ (s : State) (ra : XReg) (i : Instr) (cr : BitVec 12), IsMtcr i s cr ra →
    let v := s.curLvl.rx ra
    let l := s.curLvl.past 4
    let c := s.curCore
    (cr = 0x000 → v.toNat < 2 ^ 12 → v.toNat / 2 ^ 5 % 4 = 0 → s.flagsDue = none → LevelBecomes i s { l with fcr := v }) ∧
      (∀ id, cr = 0x000 → v.toNat < 2 ^ 12 → v.toNat / 2 ^ 5 % 4 = 0 → s.flagsDue = some id →
        LevelBecomes i s { s.curLvl with pc := s.curLvl.ipc, pfx := none, again := true, wait := .coll id }) ∧
      (cr = 0x001 → v.toNat < 2 → LevelBecomes i s { l with stallchk := v }) ∧
      (cr = 0x004 → v.toNat < 2 ^ 11 → LevelBecomes i s { l with trapcause := v }) ∧
      (cr = 0x005 → LevelBecomes i s { l with trappc := v }) ∧ (cr = 0x006 → LevelBecomes i s { l with trapval := v }) ∧
      (cr = 0x007 → LevelBecomes i s { l with trapaddr := v }) ∧
      (cr = 0x008 → v.toNat < 2 ^ 9 → v.toNat / 2 ^ 5 % 8 = 0 → LevelBecomes i s { l with rbase := v }) ∧
      (cr = 0x009 → v.toNat < 2 ^ 32 → LevelBecomes i s { l with lcount := v }) ∧
      (0x020 ≤ cr.toNat → cr.toNat ≤ 0x029 → (cr.toNat ∈ [0x022, 0x026, 0x027, 0x028] → v.toNat < 2 ^ 32) →
        (cr = 0x029 → v.toNat < 2) →
        CoreBecomes i s l { c with chan := { c.chan with shadow := c.chan.shadow.set (cr.toNat - 0x020) v } }) ∧
      (cr = 0x043 → CoreBecomes i s l { c with mx := { c.mx with stall := 0 } }) ∧
      (cr = 0x044 → v.toNat < 2 ^ 9 → v.toNat / 2 ^ 5 % 8 = 0 → CoreBecomes i s l { c with mx := { c.mx with mode := v } }) ∧
      (cr = 0x060 → CoreBecomes i s l { c with injstat := 0 }) ∧ (cr = 0x061 → CoreBecomes i s l { c with evretry := 0 }) ∧
      (cr = 0x062 → v.toNat < 2 ^ 16 → v.toNat / 2 % 2 ^ 11 = 0 → CoreBecomes i s l { c with tracectl := v }) ∧
      (cr = 0x063 → CoreBecomes i s l { c with traceptr := 0 }) ∧
      (crAssigned cr.toNat = false ∨ cr.toNat ∈ [0x002, 0x003, 0x010, 0x011, 0x012, 0x013, 0x02A, 0x02B, 0x02C, 0x040, 0x041,
          0x051, 0x052, 0x053, 0x064] ∨
        (cr = 0x000 ∧ (2 ^ 12 ≤ v.toNat ∨ v.toNat / 2 ^ 5 % 4 ≠ 0)) ∨ (cr = 0x001 ∧ 2 ≤ v.toNat) ∨ (cr = 0x004 ∧ 2 ^ 11 ≤ v.toNat) ∨
        (cr = 0x008 ∧ (2 ^ 9 ≤ v.toNat ∨ v.toNat / 2 ^ 5 % 8 ≠ 0)) ∨
        (cr.toNat ∈ [0x009, 0x022, 0x026, 0x027, 0x028] ∧ 2 ^ 32 ≤ v.toNat) ∨ (cr = 0x029 ∧ 2 ≤ v.toNat) ∨
        (cr = 0x044 ∧ (2 ^ 9 ≤ v.toNat ∨ v.toNat / 2 ^ 5 % 8 ≠ 0)) ∨ (cr = 0x062 ∧ (2 ^ 16 ≤ v.toNat ∨ v.toNat / 2 % 2 ^ 11 ≠ 0)) →
        Raises i s 0x01 (BitVec.ofNat 64 s.curLvl.word) 0)

/-- MTCR of DISPBASE, TAGBASE, RACKFLOOR and MXGOV. That the register and the cached table stay as they were until the last read has
answered is the model's reading of R306 (log entry 19), and that bit 0 of a handler's address is left out is its choice (log entry
103). (R208, R210, R233, R259, R306, R355, R331) -/
def Obligations.TableAndRackWrites : Prop :=
  ∀ (s : State) (ra : XReg) (i : Instr) (cr : BitVec 12), IsMtcr i s cr ra →
    let v := s.curLvl.rx ra
    let l := s.curLvl
    let c := s.curCore
    let illegal := Raises i s 0x01 (BitVec.ofNat 64 l.word) 0
    let f := fun (m : Level) => v.toNat / 2 ^ (4 * m.val) % 16
    let rackOk := v.toNat < 2 ^ 16 ∧ (∀ m, 1 ≤ f m) ∧ f 0 + f 1 + f 2 + f 3 ≤ 8 ∧
      (∀ m, m ≠ s.cur.lev → (c.lvl m).act = none) ∧ (∀ m, c.borrowed m = 0) ∧ c.takes = []
    let loads := fun (n : Nat) => ∃ (u : State) (ops : List Op) (id : Nat), exec i s = .next (u.pump s.curKey) ∧
      u.curCore.ops = c.ops ++ ops ∧ ops.length = n ∧
      (∀ o ∈ ops, o.kind = .s ∧ o.scope = .v ∧ o.rope = (c.ropeAt s.cur.lev.val).uid ∧ ∃ a, o.work = .mem a ∧ a.cls = .load ∧ a.size = 8) ∧
      u.curLvl.pc = l.pc + 4 ∧ u.curLvl.wait = .coll id ∧ u.curLvl.x = l.x ∧ u.mem = s.mem ∧
      { u.curCore with lv := c.lv, ops := c.ops, ropes := c.ropes, colls := c.colls, tlbUse := c.tlbUse } = c ∧
      ∃ q ∈ u.curCore.colls, q.id = id ∧ q.finish = if cr = 0x014 then .dispload v else .tagload v
    let loaded := fun (n : Nat) (vals : AMap Word) (t : AMap DispEntry) => ∀ i, i < n → ∃ e, AMap.find? t i = some e ∧
      e.pc = AMap.get vals 0 (2 * i) &&& ~~~1 ∧ e.v = (AMap.get vals 0 (2 * i + 1)).getLsbD 7 ∧
      e.code = (AMap.get vals 0 (2 * i + 1)).getLsbD 6 ∧ e.schk = (AMap.get vals 0 (2 * i + 1)).getLsbD 5 ∧
      e.lev = (AMap.get vals 0 (2 * i + 1)).toNat % 4
    (∀ ps, cr = 0x014 → v.toNat < 2 ^ 56 → v.toNat % 2 ^ 12 = 0 → s.checkCur false (wordEls v 64) = .ok ps →
      c.ropeRoom s.cur.lev.val ps.length = true → loads 64) ∧
      (∀ ps, cr = 0x015 → v.toNat < 2 ^ 56 → v.toNat % 2 ^ 10 = 0 → s.checkCur false (wordEls v 128) = .ok ps →
        c.ropeRoom s.cur.lev.val ps.length = true → loads 128) ∧
      (∀ n k v' a, (cr = 0x014 ∧ n = 64 ∧ v.toNat % 2 ^ 12 = 0) ∨ (cr = 0x015 ∧ n = 128 ∧ v.toNat % 2 ^ 10 = 0) → v.toNat < 2 ^ 56 →
        s.checkCur false (wordEls v n) = .fail k v' a → Raises i s k v' a) ∧
      (∀ q : Coll, q.bad = none → q.share = [] →
        (q.finish = .dispload v → let d := (s.gatherEnd s.curKey q).curCore
          d.dispbase = v ∧ loaded 32 q.vals d.disp ∧ d.tagbase = c.tagbase ∧ d.tags = c.tags) ∧
        (q.finish = .tagload v → let d := (s.gatherEnd s.curKey q).curCore
          d.tagbase = v ∧ loaded 64 q.vals d.tags ∧ d.dispbase = c.dispbase ∧ d.disp = c.disp)) ∧
      (cr = 0x014 → 2 ^ 56 ≤ v.toNat ∨ v.toNat % 2 ^ 12 ≠ 0 → illegal) ∧
      (cr = 0x015 → 2 ^ 56 ≤ v.toNat ∨ v.toNat % 2 ^ 10 ≠ 0 → illegal) ∧
      (cr = 0x050 → rackOk → ∃ t, exec i s = .next t ∧ t.curCore.floor = v ∧ t.curLvl.pc = l.pc + 4 ∧ t.curLvl.x = l.x ∧
        (∀ m, (t.curCore.lvl m).held.length = f m) ∧ (∀ m n : Level, m ≠ n → ∀ r ∈ (t.curCore.lvl m).held, r ∉ (t.curCore.lvl n).held) ∧
        (∀ m, ∀ r ∈ (t.curCore.lvl m).held, r < 8) ∧ SameBytes s t) ∧
      (cr = 0x050 → ¬ rackOk → illegal) ∧
      (cr = 0x042 → v.toNat < 2 ^ 21 → v.toNat / 2 ^ 5 % 2 ^ 11 = 0 → 1 ≤ v.toNat % 32 → v.toNat % 32 ≤ 16 → ∃ t,
        exec i s = .next t ∧ t.curLvl = l.past 4 ∧ (t.clu (keyCluster s.curKey)).budget = v.toNat % 32 ∧
        (t.clu (keyCluster s.curKey)).cap = (s.clu (keyCluster s.curKey)).cap ∧
        { t with cores := s.cores, clus := s.clus } = s ∧ (∀ n, n ≠ keyCluster s.curKey → t.clu n = s.clu n)) ∧
      (cr = 0x042 → 2 ^ 21 ≤ v.toNat ∨ v.toNat / 2 ^ 5 % 2 ^ 11 ≠ 0 ∨ v.toNat % 32 = 0 ∨ 16 < v.toNat % 32 → illegal)

/-- Reading CPGO, MFID and LNCH. That LNCH judges the tag before the alignment is the model's reading of R340 (log entry 20).
(R231, R333, R336, R337, R340, R371, R10) -/
def Obligations.CopyStartsAndIdentity : Prop :=
  ∀ (s : State) (rd ra : XReg) (q : BitVec 3) (id : BitVec 6) (i : Instr),
    let l := s.curLvl
    let ch := s.curCore.chan
    let p := l.rx ra
    let aligned := ∀ j, j < 6 → (ch.shadow.getD j 0).toNat % 8 = 0 ∧ (3 ≤ j → (ch.shadow.getD j 0).toNat / 2 ^ 32 % 8 = 0)
    let bytes := (ch.shadow.getD 2 0).toNat * (ch.shadow.getD 6 0).toNat * (ch.shadow.getD 7 0).toNat * (ch.shadow.getD 8 0).toNat
    let tile := fun (n : Nat) => ((l.act.map Act.tile).getD []).getD n 0
    (i = .mfcr 0x02A rd ∨ (i = .cpgoRead ∧ s.arg.reg = rd) →
      (aligned → bytes ≤ 2 ^ 33 → ch.queue.length < 16 → ∃ t x, exec i s = .next t ∧
        RegResult l t.curLvl 4 rd (BitVec.ofNat 64 (ch.lastId + 1)) ∧ t.curCore.chan.queue = ch.queue ++ [x] ∧
        x.snap = ch.shadow ∧ x.id = ch.lastId + 1 ∧ t.curCore.chan.lastId = ch.lastId + 1 ∧ t.curCore.chan.done = ch.done ∧
        OnlyShared s.curKey s.cur.lev s t) ∧
      (aligned → bytes ≤ 2 ^ 33 → 16 ≤ ch.queue.length → ∃ t, exec i s = .next t ∧ t.curLvl.wait = .cpgo rd.toNat ch.shadow ∧
        t.curLvl.pc = l.pc + 4 ∧ OnlyLevel s.curKey s.cur.lev s t) ∧
      (¬ aligned → Raises i s 0x03 0 0) ∧ (aligned → 2 ^ 33 < bytes → Raises i s 0x01 (BitVec.ofNat 64 bytes) 0)) ∧
    (∃ v, WritesReg (.mfid id rd) s 4 rd v ∧
      (id = 0 → v = BitVec.ofNat 64 ((activeOf (s.clu (keyCluster s.curKey)) (keySlot s.curKey)).getD 0)) ∧
      (id = 1 → v = BitVec.ofNat 64 (nodeInDie (keyNode s.curKey))) ∧ (id = 2 → v = BitVec.ofNat 64 (nodeDie (keyNode s.curKey))) ∧
      (id = 3 → v = BitVec.ofNat 64 (keyChip s.curKey)) ∧
      (∀ d, s.vdev? s.curVd = some d → (id = 4 → v = BitVec.ofNat 64 (s.vdCoreOf d s.curKey)) ∧ (id = 5 → v = BitVec.ofNat 64 d.cores)) ∧
      (∀ n, n < 6 → id = BitVec.ofNat 6 (6 + n) → v = tile n) ∧ (id = 12 → v = BitVec.ofNat 64 l.launch) ∧
      (id = 13 → v = BitVec.ofNat 64 s.cur.lev.val) ∧ (14 ≤ id.toNat → v = 0)) ∧
    (∀ ps, tagOk p = true → p.toNat % 64 = 0 → s.checkCur false (wordEls p 8) = .ok ps → s.curCore.ropeRoom s.cur.lev.val ps.length = true →
      ∃ (u : State) (ops : List Op), exec (.lnch q ra rd) s = .next (u.pump s.curKey) ∧ u.curCore.ops = s.curCore.ops ++ ops ∧ ops.length = 8 ∧
        (∀ o ∈ ops, o.kind = .rel ∧ o.scope = .v ∧ o.rope = (s.curCore.ropeAt s.cur.lev.val).uid) ∧
        (rd ≠ 0 → u.curLvl.ilock = l.ilock ++ [(.x rd.toNat, s.nextId)]) ∧ u.curLvl.pc = l.pc + 4 ∧ u.curLvl.x = l.x ∧ u.mem = s.mem) ∧
    (tagOk p = false → Raises (.lnch q ra rd) s 0x05 p p) ∧
    (tagOk p = true → p.toNat % 64 ≠ 0 → Raises (.lnch q ra rd) s 0x03 0 p) ∧
    (∀ c v a, tagOk p = true → p.toNat % 64 = 0 → s.checkCur false (wordEls p 8) = .fail c v a → Raises (.lnch q ra rd) s c v a)

/-- Scalar loads and stores. (R273, R275, R340, R341, R343, R344, R345, R270) -/
def Obligations.LoadsAndStores : Prop :=
  ∀ (s : State) (rsel zx : Bool) (sc : Scope) (kind : Kind) (ord : Ord) (size : Size) (off : BitVec 5) (rb ra rd : XReg) (b a : BitVec 4),
    let x := s.curLvl.rx
    let load := fun (va : Word) (z : Nat) => (⟨0, va, z, .load, 1, 0, 0, -1, false, 0⟩ : El)
    let store := fun (va : Word) (z : Nat) (v : Word) =>
      (⟨0, va, z, .store, 2, BitVec.ofNat 64 (v.toNat % 2 ^ (8 * z)), 0, -1, false, 0⟩ : El)
    let z := 2 ^ size.code
    let kd := fun (st : Bool) => match ord with
      | .w => (Kind.w, Scope.c)
      | .s => (Kind.s, Scope.v)
      | .sync => (if st then Kind.rel else Kind.acq, Scope.v)
    let at_ := x ra + BitVec.ofNat 64 ((x rb).toNat * z)
    AccessIssues (.ld rsel sc kind off ra rd) s 4 rsel kind sc true (load (x ra + off.setWidth 64) 8) (.reg rd.toNat 8 false) ∧
      AccessIssues (.st rsel sc kind off ra rd) s 4 rsel kind sc true (store (x ra + off.setWidth 64) 8 (x rd)) .drop ∧
      AccessIssues (.ldx rsel ord zx size rb ra rd) s 4 rsel (kd false).1 (kd false).2 true (load at_ z) (.reg rd.toNat z (!zx)) ∧
      AccessIssues (.stx rsel ord size rb ra rd) s 4 rsel (kd true).1 (kd true).2 true (store at_ z (x rd)) .drop ∧
      AccessIssues (.cLd b a) s 2 false .w .c true (load (x (b.setWidth 5)) 8) (.reg (a.setWidth 5 : XReg).toNat 8 false) ∧
      AccessIssues (.cSt b a) s 2 false .w .c true (store (x (b.setWidth 5)) 8 (x (a.setWidth 5))) .drop

/-- Full/empty accesses and atomics. (R115, R340, R346, R347, R348, R349, R270) -/
def Obligations.FullEmptyAndAtomics : Prop :=
  ∀ (s : State) (rsel : Bool) (sc : Scope) (kind : Kind) (ra rd : XReg),
    let x := s.curLvl.rx
    let k := if kind = .w then Kind.s else kind
    let fe := fun (i : Instr) (c : AccClass) (need : Nat) (v : Word) (d : Dest) =>
      AccessIssues i s 4 rsel k sc false ⟨0, x ra, 8, c, need, v, 0, -1, false, 0⟩ d
    let amo := fun (i : Instr) (op : AmoOp) (z : Nat) (v v' : Word) =>
      AccessIssues i s 4 rsel k sc false ⟨0, x ra, z, .amo op, 3, v, v', -1, false, 0⟩ (.reg rd.toNat z false)
    fe (.ldfeFf rsel sc kind ra rd) (.fe .ff) 1 0 (.reg rd.toNat 8 false) ∧
      fe (.ldfeFe rsel sc kind ra rd) (.fe .fe) 3 0 (.reg rd.toNat 8 false) ∧
      fe (.stfeEf rsel sc kind ra rd) (.fe .ef) 2 (x rd) .drop ∧ fe (.stfeXf rsel sc kind ra rd) (.fe .xf) 2 (x rd) .drop ∧
      fe (.feq rsel sc kind ra rd) .feq 3 0 (.reg rd.toNat 8 false) ∧
      amo (.amoAdd rsel sc kind ra rd) .add 8 (x rd) 0 ∧ amo (.amoAnd rsel sc kind ra rd) .and 8 (x rd) 0 ∧
      amo (.amoOr rsel sc kind ra rd) .or 8 (x rd) 0 ∧ amo (.amoXor rsel sc kind ra rd) .xor 8 (x rd) 0 ∧
      amo (.amoMin rsel sc kind ra rd) .min 8 (x rd) 0 ∧ amo (.amoMax rsel sc kind ra rd) .max 8 (x rd) 0 ∧
      amo (.amoMinn rsel sc kind ra rd) .minn 8 (x rd) 0 ∧ amo (.amoMaxn rsel sc kind ra rd) .maxn 8 (x rd) 0 ∧
      amo (.amoSwap rsel sc kind ra rd) .swap 8 (x rd) 0 ∧ amo (.amoFaddF32 rsel sc kind ra rd) .faddF32 4 (x rd) 0 ∧
      amo (.amoFmaxF32 rsel sc kind ra rd) .fmaxF32 4 (x rd) 0 ∧
      (rd.toNat % 2 = 0 → amo (.amoCas rsel sc kind ra rd) .cas 8 (x rd) (x (rd + 1))) ∧
      (rd.toNat % 2 = 1 → Raises (.amoCas rsel sc kind ra rd) s 0x01 (BitVec.ofNat 64 s.curLvl.word) 0)

/-- The checks of an address. (R16, R18, R19, R24, R32, R47, R48, R340, R405) -/
def Obligations.ChecksInOrder : Prop :=
  ∀ (s : State) (k launch : Nat) (tlb : List TlbEntry) (xl : List (Nat × Xlate)) (win : Bool) (el : El), el.strange = false →
    let go := s.check k launch tlb xl win [el]
    let va := el.va.toNat
    let own := va % 2 ^ 57 - 2 ^ 56
    (va % el.size ≠ 0 → go = .fail 0x03 0 el.va) ∧
      (va % el.size = 0 →
        (∀ c, s.lead k launch el.va = .bad c → go = .fail c (if c = 0x0F then el.va else 0) el.va) ∧
        (∀ pa, s.lead k launch el.va = .phys pa → pa < 2 ^ 56 ∨ win = true → go = .ok [⟨el, pa, 2, none⟩]) ∧
        (∀ pa, s.lead k launch el.va = .phys pa → 2 ^ 56 ≤ pa → win = false → go = .fail 0x04 0 el.va) ∧
        (va % 2 ^ 57 < 2 ^ 56 →
          (∀ pa mt e, s.xlate tlb xl (s.core k).owner (va % 2 ^ 57) el.need = .ok pa mt e → go = .ok [⟨el, pa, mt, some e⟩]) ∧
          (∀ t, s.xlate tlb xl (s.core k).owner (va % 2 ^ 57) el.need = .denied t → go = .fail 0x07 t el.va) ∧
          (∀ c, s.xlate tlb xl (s.core k).owner (va % 2 ^ 57) el.need = .lost c → go = .fail c 0 el.va) ∧
          (s.xlate tlb xl (s.core k).owner (va % 2 ^ 57) el.need = .miss → go = .wait [va % 2 ^ 57 / 2 ^ 16]))) ∧
      (∀ v, s.vdev? (s.core k).owner = some v → v.s1.getLsbD 0 = false ∨ v.s2.getLsbD 0 = false →
        ∃ t, s.xlate tlb xl (s.core k).owner (va % 2 ^ 57) el.need = .denied t) ∧
      (∀ v, s.vdev? (s.core k).owner = some v → 2 ^ 56 ≤ va % 2 ^ 57 →
        (own < 0x10000 → s.lead k launch el.va = .phys (scratchPa k own)) ∧
        (0x10000 ≤ own → own < 0x11000 → s.lead k launch el.va = .phys (windowPa k (own - 0x10000))) ∧
        (0x11000 ≤ own → own < 0x80000 → s.lead k launch el.va = .bad 0x04) ∧
        (0x80000 ≤ own → own < 0x100000 → let o := own - 0x80000
          s.lead k launch el.va = .phys (scratchPa (coreKey (keyChip k) (keyNode k)
            (slotOf (s.clu (keyCluster k)) (o / 0x10000))) (o % 0x10000))) ∧
        (0x100000 ≤ own → own < 0x10000000 → s.lead k launch el.va = .bad 0x04) ∧
        (0x10000000 ≤ own → own < 0x18000000 →
          let o := own - 0x10000000
          let node := dieNode (o / 0x2000000) (o % 0x2000000 / 0x20000)
          (node ∈ (s.vdSlotRec (s.core k).owner (keyChip k)).grants → s.lead k launch el.va =
            .phys (slicePa (keyChip k) (o / 0x2000000) (o % 0x2000000 / 0x20000) (o % 0x20000))) ∧
          (node ∉ (s.vdSlotRec (s.core k).owner (keyChip k)).grants → s.lead k launch el.va = .bad 0x0F)) ∧
        (0x18000000 ≤ own → own < 0x100000000 → s.lead k launch el.va = .bad 0x04) ∧
        (0x100000000 ≤ own → own < 0x120000000 →
          let o := own - 0x100000000
          let base := AMap.get v.base 0 (keyChip k)
          let mine := keyNode k - base
          let first := (indexOf? v.chips (keyChip k)).getD 0 * 2 ^ v.plog
          let m := o / 0x80000
          let reached := m < 2 ^ v.plog ∧ (m = mine ∨ v.coplaced launch (first + m) (first + mine) = true)
          (reached → s.lead k launch el.va = .phys (scratchPa (coreKey (keyChip k) (base + m)
            (slotOf (s.clu (nodeKey (keyChip k) (base + m))) (o % 0x80000 / 0x10000))) (o % 0x10000))) ∧
          (¬ reached → s.lead k launch el.va = .bad 0x04)) ∧
        (0x120000000 ≤ own → s.lead k launch el.va = .bad 0x04))

/-- What an access does at its owner. (R67, R68, R117, R118, R136, R348, R349, R65) -/
def Obligations.AccessesPerform : Prop :=
  ∀ (s : State) (a : Acc), s.mem.wf = true → s.populated a.pa = true → s.isBad a.pa = false → a.pa < 2 ^ 56 →
    a.pa % a.size = 0 → a.size ∈ [1, 2, 4, 8] →
    let old := BitVec.ofNat 64 (s.peek a.pa a.size)
    let reads := fun (u : State) (v : Word) => u.peek a.pa a.size = v.toNat % 2 ^ (8 * a.size)
    let rest := fun (u : State) => ∀ b, b < 2 ^ 56 → b < a.pa ∨ a.pa + a.size ≤ b → u.peek b 1 = s.peek b 1
    let bits := fun (u : State) => ∀ b, b / 8 ≠ a.pa / 8 → u.isFull b = s.isFull b
    let full := fun (u : State) (f : Bool) => u.isFull a.pa = f ∧ bits u
    (a.cls = .load → ∃ u, s.perform a = .done old u ∧ u.mem = s.mem ∧ u.fe = s.fe ∧ u.clear = s.clear) ∧
      (a.cls = .feq → ∃ u, s.perform a = .done (if s.isFull a.pa then 1 else 0) u ∧ u.mem = s.mem ∧ u.fe = s.fe) ∧
      (a.cls = .store → ∃ u, s.perform a = .done 0 u ∧ rest u ∧ full u (s.isFull a.pa) ∧
        reads u ((a.data &&& a.mask) ||| (old &&& ~~~a.mask))) ∧
      (∀ op, a.cls = .amo op → ∃ u, s.perform a = .done old u ∧ rest u ∧ full u (s.isFull a.pa) ∧
        reads u (match op with
          | .add => old + a.data | .and => old &&& a.data | .or => old ||| a.data | .xor => old ^^^ a.data
          | .min => if old.toInt < a.data.toInt then old else a.data | .max => if old.toInt < a.data.toInt then a.data else old
          | .minn => if old.toNat < a.data.toNat then old else a.data
          | .maxn => if old.toNat < a.data.toNat then a.data else old
          | .swap => a.data | .cas => if old = a.data then a.data2 else old
          | .faddF32 => (addF32 (old.setWidth 32) (a.data.setWidth 32)).setWidth 64
          | .fmaxF32 => (maxF32 (old.setWidth 32) (a.data.setWidth 32)).setWidth 64)) ∧
      (a.cls = .fe .ff → s.isFull a.pa = true → ∃ u, s.perform a = .done old u ∧ u.mem = s.mem ∧ u.fe = s.fe) ∧
      (a.cls = .fe .fe → s.isFull a.pa = true → ∃ u, s.perform a = .done old u ∧ full u false ∧
        ∀ b, b < 2 ^ 56 → u.peek b 1 = s.peek b 1) ∧
      (a.cls = .fe .ef → a.mask = -1 → s.isFull a.pa = false → ∃ u, s.perform a = .done 0 u ∧ rest u ∧ full u true ∧ reads u a.data) ∧
      (a.cls = .fe .xf → a.mask = -1 → ∃ u, s.perform a = .done 0 u ∧ rest u ∧ full u true ∧ reads u a.data) ∧
      (a.cls = .fe .ff ∨ a.cls = .fe .fe → s.isFull a.pa = false → s.perform a = .wait) ∧
      (a.cls = .fe .ef → s.isFull a.pa = true → s.perform a = .wait)

/-- PERFORM, FENCEF_MARKER, WITHDRAWAL and RETRY_LIST_SERVICE. (R16, R70, R71, R72, R73, R117, R135, R367, R406, R407, R442, R462) -/
def Obligations.OwnersServeRequests : Prop :=
  (∀ (s : State) (p : Packet), s.arrivedPkt = some p →
    let ready := s.draining p.vd p.src p.dst = false ∧ (s.clu (nodeKey p.dst.chip p.dst.node)).repair ≠ some p.dst.unit
    let answered := fun (t : State) (op status : Nat) (v : Word) =>
      ∃ q, q ∈ t.pkts ∧ q.src = p.dst ∧ q.dst = p.src ∧ q.vd = p.vd ∧ ∃ line, q.payload = .resp op status v line
    (∀ (i : Instr) (a : Acc) (op n : Nat) (t : State), (i = .perform ∧ p.payload = .access a op) ∨
        (i = .fencefMarker ∧ p.payload = .marker a op n ∧ s.markerDue p a op n = true) →
      ready → a.pa < 2 ^ 56 → s.portTurn p = true → s.owed a.pa a.size = false → s.gate p a = .go t →
      (s.populated a.pa = false → ∃ r, exec i s = .next r ∧ answered r op 3 0 ∧ r.mem = s.mem) ∧ (s.populated a.pa = true →
      let before := (((t.dropPkt p.id).portServed p.dst p.input).trace a).l2Fill a.pa a.mt
      (∀ v u, before.perform a = .done v u → ∃ r, exec i s = .next r ∧ answered r op 0 v ∧ r.mem = u.mem ∧ r.fe = u.fe ∧ r.clear = u.clear ∧
        (a.cls = .store → let new := (a.data &&& a.mask) ||| (BitVec.ofNat 64 (before.peek a.pa a.size) &&& ~~~a.mask)
          r.vds = before.vds.map fun x => if new ≠ 0 ∧ x.2.wakeAddr / 8 = a.pa / 8 ∧ (x.2.res = .bivouac ∨ x.2.res = .entering) then
            (x.1, { x.2 with res := .waking }) else x)) ∧
      (before.perform a = .ecc → ∃ r, exec i s = .next r ∧ answered r op 4 0) ∧
      (before.perform a = .wait → (before.retry.filter fun w => w.owner == p.dst).length < 1024 → ∃ r w, exec i s = .next r ∧
        r.retry = before.retry ++ [w] ∧ w.owner = p.dst ∧ w.acc = a ∧ w.op = op ∧ r.mem = before.mem ∧ r.fe = before.fe) ∧
      (before.perform a = .wait → 1024 ≤ (before.retry.filter fun w => w.owner == p.dst).length → ∃ r, exec i s = .next r ∧ answered r op 1 0))) ∧
    (∀ (a : Acc) (op src off : Nat) (o : Op), p.payload = .access a op → ready → s.portTurn p = true → a.pa = windowPa p.dst.core off →
      off + a.size ≤ 4096 → a.size ∈ [1, 2, 4, 8] → off % a.size = 0 → a.mask = -1 → (s.core p.dst.core).mx.window.wf = true →
      s.opOf op = some (src, o) →
      let queue := fun (t : State) => (t.core p.dst.core).mx.queue
      let pushes := off % 64 + a.size = 64
      (a.cls ≠ .store → ∃ r, exec .perform s = .next r ∧ answered r op 0 (BitVec.ofNat 64 (s.peek a.pa a.size)) ∧ queue r = queue s) ∧
      (a.cls = .store → pushes → 64 ≤ (queue s).length → exec .perform s = .next (s.updOp src op fun o => { o with st := .waiting })) ∧
      (a.cls = .store → (pushes → (queue s).length < 64) → ∃ r, exec .perform s = .next r ∧ answered r op 0 0 ∧
        (¬ pushes → r.peek a.pa a.size = a.data.toNat % 2 ^ (8 * a.size) ∧ queue r = queue s) ∧
        let ws := tab 8 fun j => BitVec.ofNat 64 (r.peek (windowPa p.dst.core (off / 64 * 64 + 8 * j)) 8)
        (pushes → recordOk ws a.fcr = true → r.peek a.pa a.size = a.data.toNat % 2 ^ (8 * a.size) ∧ ∃ c, queue r = queue s ++ [c] ∧
          c.words = ws ∧ c.lev = o.lev ∧ c.act = o.act ∧ c.launch = o.launch ∧ c.pc = o.pc ∧ c.fcr = a.fcr))) ∧
    (∀ a op, p.payload = .access a op → s.draining p.vd p.src p.dst = false →
      (s.clu (nodeKey p.dst.chip p.dst.node)).repair = some p.dst.unit →
      ∃ r, exec .perform s = .next r ∧ answered r op 1 0 ∧ r.mem = s.mem) ∧
    (∀ a op n, p.payload = .access a op ∨ p.payload = .marker a op n → s.draining p.vd p.src p.dst = true →
      ∃ r, exec (if p.payload = .access a op then .perform else .fencefMarker) s = .next r ∧ answered r op 5 0 ∧ r.mem = s.mem) ∧
    (∀ line op, p.payload = .flush line op → s.draining p.vd p.src p.dst = false → s.portTurn p = true →
      s.populated (line * 256) = false → ∃ r, exec .perform s = .next r ∧ answered r op 3 0 ∧ r.mem = s.mem ∧ r.media = s.media) ∧
    (∀ line op, p.payload = .flush line op → ready → s.portTurn p = true → s.populated (line * 256) = true →
      ∃ r, exec .perform s = .next r ∧ answered r op 0 0 ∧ (∀ m ∈ r.media, m.line ≠ line) ∧ (∀ m ∈ s.media, m.line ≠ line → m ∈ r.media) ∧ r.mem = s.mem) ∧
    (∀ op, p.payload = .withdraw op → ∃ r, exec .withdrawal s = .next r ∧ (∀ w ∈ r.retry, ¬ (w.op = op ∧ w.owner = p.dst)) ∧
      (∀ w ∈ s.retry, ¬ (w.op = op ∧ w.owner = p.dst) → w ∈ r.retry) ∧ r.mem = s.mem ∧
      ∃ q, q ∈ r.pkts ∧ q.dst = p.src ∧ q.payload = .withdrawn op (s.retry.any fun w => w.op == op && w.owner == p.dst))) ∧
  ∀ (s : State) (w : Waiter), w ∈ s.retry → w.acc.pa / 8 = s.arg.addr / 8 → s.holds w.acc = true →
    (∀ x ∈ s.retry, x.acc.pa / 8 = s.arg.addr / 8 → s.holds x.acc = true → x = w ∨ w.order < x.order) →
    (∀ x ∈ s.retry, x.op = w.op → x = w) →
    let s' := { s with retry := s.retry.filter fun x => x.op != w.op }
    ∀ v u, s'.perform w.acc = .done v u → ∃ r, exec .retryListService s = .next r ∧ r.mem = u.mem ∧ r.fe = u.fe ∧
      w ∉ r.retry ∧ (∀ x ∈ s.retry, x ≠ w → x ∈ r.retry) ∧
      ∃ q, q ∈ r.pkts ∧ q.src = w.owner ∧ q.dst = w.acc.src ∧ q.payload = .resp w.op 0 v none

/-- FENCE, FENCE.SC and FENCEF. (R132, R133, R134, R135, R61, R340) -/
def Obligations.Fences : Prop :=
  ∀ (s : State) (sc : Scope) (rope : RopeName) (ra rs : XReg),
    let l := s.curLvl
    let p := l.rx ra
    let el : El := ⟨0, p, 8, .fe .xf, 2, l.rx rs, 0, -1, false, 0⟩
    let f := (s.curCore.fenced s.cur.lev).lvl s.cur.lev
    f.fence = l.po ∧ { f with fence := l.fence, fenceAll := l.fenceAll, fenceRead := l.fenceRead } = l ∧
    (∀ o ∈ s.curCore.ops, o.lev = s.cur.lev.val → ∃ q ∈ f.fenceAll, q.1 = o.rope ∧ o.idx < q.2) ∧
    (∀ i all, (i = .fence sc ∧ all = false) ∨ (i = .fenceSc sc ∧ all = true) →
      Issues i s { f.past 4 with wait := .fence l.po all (sc != .c) } (fun new => new = []) ∧
      ((∀ o ∈ s.curCore.ops, o.lev ≠ s.cur.lev.val) → ∃ t, exec i s = .next t ∧ t.curLvl.wait = .ready ∧ (sc ≠ .c → t.curCore.l1 = []))) ∧
    (l.slotOf s.cur.lev rope.toNat = none → Raises (.fencef sc rope ra rs) s 0x01 (rope.setWidth 64) 0) ∧
    ∀ slot, l.slotOf s.cur.lev rope.toNat = some slot →
      (tagOk p = false → Raises (.fencef sc rope ra rs) s 0x05 p p) ∧
      (∀ c v a, tagOk p = true → s.checkCur false [el] = .fail c v a → Raises (.fencef sc rope ra rs) s c v a) ∧
      ∀ pl, tagOk p = true → s.checkCur false [el] = .ok [pl] → s.curCore.ropeRoom slot 1 = true →
        Issues (.fencef sc rope ra rs) s { l.past 4 with po := l.po + 1, xl := [] } fun new =>
          ∃ o, new = [o] ∧ NextOp s slot o ∧ o.kind = .rel ∧ o.scope = sc ∧ o.dest = .drop ∧
            o.work = .flag (s.accFor slot rope.toNat .rel { pl with el := el })
              (AMap.get (s.curCore.ropeAt slot).wrote 0 (nodeKey (ownerOf pl.pa).chip (ownerOf pl.pa).node))

/-- ROPE.FORK, ROPE.JOIN, ROPE.ADOPT, ROPE.XFER, ROPE.DROP, ROPE.WAIT and the prefix. (R122, R124, R125, R126, R127, R128,
R129, R274, R350, R351) -/
def Obligations.RopesMade : Prop :=
  ∀ (s : State) (a b d : RopeName) (rd rs : XReg),
    let l := s.curLvl
    let c := s.curCore
    let at_ := fun (n : RopeName) => l.slotOf s.cur.lev n.toNat
    let dropped := c.dropName s.cur.lev d.toNat
    let h := l.rx rs
    let hn := h.toNat
    let made := fun (t : State) (slot : Nat) (preds : List (Nat × Nat × Nat)) (adopt : List Nat) =>
      t.curLvl.rope = l.rope.set d.toNat (some slot) ∧
        (∃ e, AMap.find? t.curCore.ropes slot = some ⟨s.nextId, s.cur.lev.val, e, 0, preds, adopt, [], false⟩) ∧
        (∀ j, j ≠ slot → AMap.find? t.curCore.ropes j = AMap.find? dropped.ropes j) ∧ t.curLvl.x = l.x ∧ t.curLvl.pc = l.pc + 4 ∧
        (∀ m, m ≠ s.cur.lev → t.lvl s.curKey m = s.lvl s.curKey m) ∧ SameBytes s t
    let point := fun (n : Nat) => ((c.ropeAt n).uid, (c.ropeAt n).issued, 0) :: (c.ropeAt n).preds.map fun q => (q.1, q.2.1, 0)
    (d = 0 → Raises (.ropeFork a d) s 0x01 (BitVec.ofNat 64 l.word) 0 ∧ Raises (.ropeJoin a d b) s 0x01 (BitVec.ofNat 64 l.word) 0 ∧
      Raises (.ropeAdopt d rs) s 0x01 (BitVec.ofNat 64 l.word) 0 ∧ Raises (.ropeDrop d) s 0x01 (BitVec.ofNat 64 l.word) 0) ∧
    (d ≠ 0 → at_ a = none → Raises (.ropeFork a d) s 0x01 (a.setWidth 64) 0 ∧ Raises (.ropeJoin a d b) s 0x01 (a.setWidth 64) 0) ∧
    (at_ a = none → Raises (.ropeXfer a rd) s 0x01 (a.setWidth 64) 0 ∧ Raises (.ropeWait a) s 0x01 (a.setWidth 64) 0) ∧
    (d ≠ 0 → (at_ a).isSome → at_ b = none → Raises (.ropeJoin a d b) s 0x01 (b.setWidth 64) 0) ∧
    (∀ n slot, d ≠ 0 → at_ a = some n → dropped.freeSlot = some slot →
      (∃ t, exec (.ropeFork a d) s = .next t ∧ made t slot (point n) (c.ropeAt n).adopt) ∧
      ∀ m, at_ b = some m → ∃ t, exec (.ropeJoin a d b) s = .next t ∧
        made t slot (point n ++ point m) ((c.ropeAt n).adopt ++ (c.ropeAt m).adopt)) ∧
    (d ≠ 0 → (at_ a).isSome → dropped.freeSlot = none → Raises (.ropeFork a d) s 0x09 0 0 ∧
      ((at_ b).isSome → Raises (.ropeJoin a d b) s 0x09 0 0)) ∧
    (d ≠ 0 → hn / 2 ^ 25 % 16 < 9 → hn / 2 ^ 48 % 2 ^ 16 = s.curVd → dropped.freeSlot = none → Raises (.ropeAdopt d rs) s 0x09 0 0) ∧
    (∀ slot, d ≠ 0 → hn / 2 ^ 25 % 16 < 9 → hn / 2 ^ 48 % 2 ^ 16 = s.curVd → dropped.freeSlot = some slot → ∃ u o,
      exec (.ropeAdopt d rs) s = .next (u.pump s.curKey) ∧ made u slot [] [s.nextId + 1] ∧ u.curCore.ops = c.ops ++ [o] ∧
      o.work = .adopt h s.nextId ∧ o.id = s.nextId + 1) ∧
    (d ≠ 0 → 9 ≤ hn / 2 ^ 25 % 16 → Raises (.ropeAdopt d rs) s 0x04 h 0) ∧
    (d ≠ 0 → hn / 2 ^ 25 % 16 < 9 → hn / 2 ^ 48 % 2 ^ 16 ≠ s.curVd → Raises (.ropeAdopt d rs) s 0x04 0 0) ∧
    (∀ n, at_ a = some n → WritesReg (.ropeXfer a rd) s 4 rd (BitVec.ofNat 64 (s.curVd * 2 ^ 48 + keyChip s.curKey * 2 ^ 39 +
      keyNode s.curKey * 2 ^ 29 + keySlot s.curKey * 2 ^ 25 + n * 2 ^ 19 + (c.ropeAt n).epoch % 128 * 2 ^ 12 + (c.ropeAt n).issued % 4096))) ∧
    (d ≠ 0 → d.toNat < l.rope.length → ∃ t, exec (.ropeDrop d) s = .next t ∧ t.curLvl = { l.past 4 with rope := l.rope.set d.toNat none } ∧
      (∀ n, at_ d = some n → (t.curCore.ropeAt n).dropped = true) ∧ SameBytes s t) ∧
    (∀ n, at_ a = some n →
      Issues (.ropeWait a) s { l.past 4 with wait := .ropeWait (c.ropeAt n).uid } (fun new => new = []) ∧
      ((∀ o ∈ c.ops, o.rope ≠ (c.ropeAt n).uid) → ∃ t, exec (.ropeWait a) s = .next t ∧ t.curLvl.wait = .ready)) ∧
    LevelBecomes (.ropePrefix a) s { l with pc := l.pc + 2, pfx := some a.toNat }

/-- STORE_BUFFER_DRAIN and NACK_RESEND. (R58, R72, R117) -/
def Obligations.OperationsLeave : Prop :=
  ∀ (s : State) (k : Nat) (o : Op) (a : Acc), o.work = .mem a →
    let leaves := fun (t : State) => (∃ q f, q ∈ t.pkts ∧ q.src = coreUnit k ∧ q.dst = ownerOf a.pa ∧ q.vd = (s.core k).owner ∧
      q.payload = .access { a with fill := f } o.id) ∧ (∀ p ∈ (t.core k).ops, p.id = o.id → p.st = .sent) ∧
      ((∀ p ∈ (s.core k).ops, p.st = .held → p.readsLine = false) → t.mem = s.mem)
    (k = coreKey s.arg.chip s.arg.node s.arg.slot → ((s.core k).ops.find? fun p => p.id == s.arg.id && p.st == .buffered) = some o →
      (∀ p ∈ (s.core k).ops, p.id = o.id → p = o) → ∃ t, exec .storeBufferDrain s = .next t ∧ leaves t) ∧
    (∀ n, s.opOf s.arg.id = some (k, o) → o.st = .backoff n → s.sendsNow k = true →
      (n ≤ s.now → ∃ t, exec .nackResend s = .next t ∧ leaves t) ∧ (s.now < n → exec .nackResend s = .next s))

/-- RESPONSE. (R72, R105, R215, R341, R343, R345, R346, R349) -/
def Obligations.ResponseSettles : Prop :=
  ∀ (s : State) (p : Packet) (op st : Nat) (v : Word) (line : Option (Nat × List Byte × List Nat)) (o : Op) (a : Acc),
    s.arrivedPkt = some p → p.payload = .resp op st v line → p.dst.unit < 9 →
    ((s.core p.dst.core).ops.find? fun x => x.id == op) = some o → o.work = .mem a →
    let k := p.dst.core
    let l := lvOf o.lev
    let x := s.lvl k l
    let quiet := ∀ y ∈ (s.core k).ops, y.st = .held → y.readsLine = false
    let gone := fun (t : State) => ((∀ n, o.st ≠ .taking n) → ∀ y ∈ (t.core k).ops, y.id ≠ op) ∧
      (∀ n, o.st = .taking n → ∀ y ∈ (t.core k).ops, y.id = op → y.st = .kept n) ∧
      (p.id < s.nextId → ∀ q ∈ t.pkts, q.id ≠ p.id) ∧ (quiet → t.mem = s.mem)
    (∀ r size signed, st = 0 → o.dest = .reg r size signed → x.isAct o.act = true → x.withdraws op = false → r < 32 → 0 < size → size ≤ 8 →
      let m := v.toNat % 2 ^ (8 * size)
      let w := if signed = true ∧ 2 ^ (8 * size - 1) ≤ m then BitVec.ofInt 64 ((m : Int) - 2 ^ (8 * size)) else BitVec.ofNat 64 m
      ∃ t, exec .response s = .next t ∧ gone t ∧ (t.lvl k l).rx (BitVec.ofNat 5 r) = (if r = 0 then 0 else w) ∧
        (∀ q : XReg, q.toNat ≠ r → (t.lvl k l).rx q = x.rx q) ∧ (t.lvl k l).p = x.p ∧ (t.lvl k l).pc = x.pc ∧
        (∀ e ∈ (t.lvl k l).ilock, e.2 ≠ op) ∧ ∀ m', m' ≠ l → (t.lvl k m').x = (s.lvl k m').x) ∧
    (∀ r size signed, st = 0 → o.dest = .reg r size signed → x.isAct o.act = false → ∃ t, exec .response s = .next t ∧ gone t ∧
      ∀ m', (t.lvl k m').x = (s.lvl k m').x) ∧
    (st = 0 → o.dest = .drop → x.isAct o.act = false ∨ x.withdraws op = false → ∃ t, exec .response s = .next t ∧ gone t ∧
      ∀ m', (t.lvl k m').x = (s.lvl k m').x ∧ (t.lvl k m').pc = (s.lvl k m').pc) ∧
    (st = 1 → x.isAct o.act = false ∨ x.withdraws op = false → ∃ t, exec .response s = .next t ∧ (quiet → t.mem = s.mem) ∧
      (∀ m', (t.lvl k m').x = (s.lvl k m').x) ∧
      ∀ y ∈ (t.core k).ops, y.id = op → ∃ n, y.st = .backoff n ∧ s.now + 64 ≤ n ∧ n ≤ s.now + 1024) ∧
    (st ≠ 0 → st ≠ 1 → (∀ c i, o.dest ≠ .part c i) → o.quiet = false → x.isAct o.act = false ∨ x.withdraws op = false →
      let cause := match st with
        | 2 => 0x07 | 4 => 0x0E | 5 => 0x11 | _ => 0x04
      let val : Word := if st = 2 then denyVal 4 0 0 else 0
      (x.isAct o.act = true → (s.core k).run = .running → ∃ u : State, exec .response s = .next ((u.fault k l).pump k) ∧
        (u.lvl k l).trapcause = BitVec.ofNat 64 (0x400 + l.val * 256 + cause) ∧ (u.lvl k l).trappc = o.pc ∧ (u.lvl k l).trapval = val ∧
        (u.lvl k l).trapaddr = o.va ∧ (u.lvl k l).act = x.act ∧ (x.pend = [] → (u.lvl k l).x = x.x) ∧
        (∀ m', m' ≠ l → u.lvl k m' = s.lvl k m') ∧ u.mem = s.mem) ∧
      (x.isAct o.act = false ∨ (s.core k).run ≠ .running → ∃ u : State, exec .response s = .next ((u.reportStop k 0 o.launch cause
        [faultWord0 k o.lev 0 (keySlot k) cause true, o.pc, val, o.va]).pump k) ∧ (∀ m', u.lvl k m' = s.lvl k m') ∧ u.mem = s.mem))

/-- WATCHDOG, and the exchange that withdraws a full/empty access. Which of several such accesses is withdrawn is the model's choice
(log entry 123). (R72, R73, R206, R432, R437, R438) -/
def Obligations.WatchdogExpires : Prop :=
  let ends := fun (s t : State) (k : Nat) (l : Level) (cause : Nat) (pc addr : Word) => (t.lvl k l).act = none ∧
    (t.lvl k l).trapcause = BitVec.ofNat 64 (l.val * 256 + cause) ∧ (t.lvl k l).trappc = pc ∧ (t.lvl k l).trapaddr = addr ∧
    ((s.lvl k l).pend = [] → (t.lvl k l).x = (s.lvl k l).x)
  let dropped := fun (t : State) (k : Nat) (o : Op) => ∀ p ∈ (t.core k).ops, p.id ≠ o.id
  (∀ (s : State) (a : Act) (v : VDev),
    let k := coreKey s.arg.chip s.arg.node s.arg.slot
    let l := s.arg.lev
    let c := s.core k
    let waits := fun (o : Op) => o ∈ c.ops ∧ o.lev = l.val ∧ o.act = (c.lvl l).acts ∧ o.isFe = true ∧
      (o.st = .waiting ∨ o.st = .sent ∨ ∃ n, o.st = .backoff n)
    (c.lvl l).act = some a → s.vdev? c.owner = some v → c.run = .running → (∀ o n, (c.lvl l).wait ≠ .gone o n) →
    (s.now < a.start + v.limit → exec .watchdog s = .next s) ∧
      (∀ o, c.feWaiting l = some o → waits o) ∧ (c.feWaiting l = none → ∀ o, ¬ waits o) ∧
      (a.start + v.limit ≤ s.now → (c.lvl l).wait = .trapped ∨ c.feWaiting l = none → v.iso a.launch = false → ∃ t,
        exec .watchdog s = .next t ∧ ends s t k l 0x0D (c.lvl l).ipc 0 ∧ (t.lvl k l).trapval = BitVec.ofNat 64 v.limit ∧
        (l ≠ 3 → a.launch ≠ 0 → (∃ j ∈ v.launches, j.id = a.launch) →
          (∀ y ∈ c.ops, y.st = .held → y.readsLine = false) → t.mem = s.mem)) ∧
      (∀ o acc, a.start + v.limit ≤ s.now → (c.lvl l).wait ≠ .trapped → c.feWaiting l = some o → o.work = .mem acc →
        (∀ n, o.st ≠ .backoff n) → ∃ t q, exec .watchdog s = .next t ∧ (t.lvl k l).wait = .gone o.id 0 ∧ (t.lvl k l).act = some a ∧
          q ∈ t.pkts ∧ q.dst = ownerOf acc.pa ∧ q.payload = .withdraw o.id ∧ t.mem = s.mem) ∧
      (∀ o n, a.start + v.limit ≤ s.now → (c.lvl l).wait ≠ .trapped → c.feWaiting l = some o → o.st = .backoff n →
        v.iso a.launch = false → ∃ t, exec .watchdog s = .next t ∧ ends s t k l 0x08 o.pc o.va ∧ dropped t k o)) ∧
  (∀ (s : State) (p : Packet) (o : Op) (acc : Acc) (a : Act) (v : VDev),
    let k := p.dst.core
    let l := lvOf o.lev
    let x := s.lvl k l
    s.arrivedPkt = some p → p.dst.unit < 9 → ((s.core k).ops.find? fun y => y.id == o.id) = some o → o.work = .mem acc →
    (∀ n, o.st ≠ .taking n) → x.act = some a → x.acts = o.act → x.wait = .gone o.id 0 → s.vdev? (s.core k).owner = some v →
    v.iso a.launch = false →
    (p.payload = .withdrawn o.id true → ∃ t, exec .response s = .next t ∧ ends s t k l 0x08 o.pc o.va ∧ dropped t k o) ∧
    (p.payload = .withdrawn o.id false → ∃ t, exec .response s = .next t ∧ (t.lvl k l).act = some a ∧ (t.lvl k l).wait = .gone o.id 0 ∧
      ∀ y ∈ (t.core k).ops, y.id = o.id → ∃ n, y.st = .rewithdraw n ∧ s.now + 64 ≤ n ∧ n ≤ s.now + 1024) ∧
    (∀ st w line, p.payload = .resp o.id st w line → st ≠ 1 → ∃ t, exec .response s = .next t ∧ ends s t k l 0x0D x.ipc o.va ∧
      (t.lvl k l).trapval = BitVec.ofNat 64 v.limit ∧ dropped t k o) ∧
    (∀ w line, p.payload = .resp o.id 1 w line → ∃ t, exec .response s = .next t ∧ ends s t k l 0x08 o.pc o.va ∧ dropped t k o)) ∧
  ∀ (s : State) (k : Nat) (o : Op) (acc : Acc) (n : Nat), s.opOf s.arg.id = some (k, o) → o.work = .mem acc → o.st = .rewithdraw n →
    s.sendsNow k = true → n ≤ s.now → ∃ t q, exec .nackResend s = .next t ∧ q ∈ t.pkts ∧ q.dst = ownerOf acc.pa ∧
      q.payload = .withdraw o.id

/-- SEND, SENDC, SPAWN, AREAD and TBIND. (R352, R353, R354, R355, R356, R357, R216, R213) -/
def Obligations.MessagesLeave : Prop :=
  ∀ (s : State) (v : VDev) (rope : RopeName) (ra rb : XReg), s.vdev? s.curVd = some v →
    let l := s.curLvl
    let a := l.rx ra
    let p := l.rx rb
    let an := a.toNat
    let ty := an / 2 ^ 56
    let len := an / 2 ^ 47 % 2 ^ 9
    let narg := an / 2 ^ 44 % 8
    let core := an % 2 ^ 24
    let named := an / 2 ^ 24 % 2 ^ 20 = 0 ∧ core < v.cores
    let target := coreUnit (s.vdCoreKey v core)
    let argx := fun (n : Nat) => tab n fun i => l.rx (BitVec.ofNat 5 (10 + i))
    let msg : Msg := { ty := ty, args := [], launch := l.launch, remote := target != coreUnit s.curKey }
    let name : Word := BitVec.ofNat 64 rope.toNat
    let next := { l.past 4 with po := l.po + 1 }
    let one := fun (slot : Nat) (w : Work) (new : List Op) => ∃ o, new = [o] ∧ NextOp s slot o ∧ o.kind = .rel ∧ o.scope = .y ∧ o.work = w
    (l.slotOf s.cur.lev rope.toNat = none → Raises (.send rope ra) s 0x01 name 0 ∧ Raises (.sendc rope rb ra) s 0x01 name 0 ∧
      Raises (.spawn rope rb ra) s 0x01 name 0 ∧ Raises (.aread rope rb ra) s 0x01 name 0) ∧
    (∀ slot, l.slotOf s.cur.lev rope.toNat = some slot →
      (let good := named ∧ 0x20 ≤ ty ∧ len = 0 ∧ narg ≤ 4
       (¬ good → Raises (.send rope ra) s 0x04 a 0) ∧
       (good → s.curCore.ropeRoom slot 1 = true →
         Issues (.send rope ra) s next (one slot (.message { msg with args := argx narg } target)))) ∧
      (let good := named ∧ 0x20 ≤ ty ∧ 2 ≤ len ∧ len ≤ 448 ∧ len % 2 = 0 ∧ narg = 0
       let n := len / 2
       let els := tab n fun i => El.mk i (p + BitVec.ofNat 64 (2 * i)) 2 .load 1 0 0 (-1) false i
       (¬ good → Raises (.sendc rope rb ra) s 0x04 a 0) ∧
       (good → tagOk p = false → Raises (.sendc rope rb ra) s 0x05 p p) ∧
       (∀ c x y, good → tagOk p = true → s.checkCur false els = .fail c x y → Raises (.sendc rope rb ra) s c x y) ∧
       ∀ ps, good → tagOk p = true → s.checkCur false els = .ok ps → s.curCore.ropeRoom slot (n + 1) = true →
         Issues (.sendc rope rb ra) s { next with po := l.po + 2, xl := [] } fun new => ∃ reads o, new = reads ++ [o] ∧
           Parts s slot rope.toNat s.nextId .w .w .c ps reads ∧ o.st = .awaiting ∧ o.kind = .rel ∧ o.scope = .y ∧
           o.rope = (s.curCore.ropeAt slot).uid ∧ o.idx = (s.curCore.ropeAt slot).issued + n ∧
           o.work = .message { msg with code := some [] } target) ∧
      (let good := named ∧ ty = 0 ∧ len = 0 ∧ narg = 0
       (¬ good → Raises (.spawn rope rb ra) s 0x04 a 0) ∧
       (good → 2 ^ 56 ≤ p.toNat → Raises (.spawn rope rb ra) s 0x04 0 p) ∧
       (good → p.toNat < 2 ^ 56 → p.toNat % 2 = 1 → Raises (.spawn rope rb ra) s 0x03 0 p) ∧
       (good → p.toNat < 2 ^ 56 → p.toNat % 2 = 0 → s.curCore.ropeRoom slot 1 = true →
         Issues (.spawn rope rb ra) s { next with wait := .spawn s.nextId p } (one slot (.spawn { msg with
           ty := 1, args := argx 4, pc := p, lev := s.cur.lev.val, schk := l.stallchk.getLsbD 0,
           tile := (l.act.map Act.tile).getD [] } target)))) ∧
      (let w := p.toNat
       let tag := w % 2 ^ 6
       let n := (w / 2 ^ 8 % 2 ^ 6 + 1) * 8
       let dst := w / 2 ^ 32 % 2 ^ 16
       let clean := w / 2 ^ 48 = 0 ∧ w / 2 ^ 14 % 2 ^ 18 = 0 ∧ w / 2 ^ 6 % 4 = 0
       let bound := (AMap.get s.curCore.tags {} tag).v = true
       (¬ clean → Raises (.aread rope rb ra) s 0x04 0 0) ∧
       (clean → ¬ bound → Raises (.aread rope rb ra) s 0x01 (BitVec.ofNat 64 tag) 0) ∧
       (clean → bound → tagOk a = false → Raises (.aread rope rb ra) s 0x05 a a) ∧
       (clean → bound → tagOk a = true → 256 < an % 256 + n → Raises (.aread rope rb ra) s 0x03 0 a) ∧
       (clean → bound → tagOk a = true → an % 256 + n ≤ 256 → dst % 8 ≠ 0 → Raises (.aread rope rb ra) s 0x03 0 (BitVec.ofNat 64 dst)) ∧
       (clean → bound → tagOk a = true → an % 256 + n ≤ 256 → dst % 8 = 0 → 0x10000 < dst + n →
         Raises (.aread rope rb ra) s 0x04 0 (BitVec.ofNat 64 dst)) ∧
       let first : List El := [⟨0, a, 8, .load, 1, 0, 0, -1, false, 0⟩]
       (∀ c x y, clean → bound → tagOk a = true → an % 256 + n ≤ 256 → dst % 8 = 0 → dst + n ≤ 0x10000 →
         s.checkCur false first = .fail c x y → Raises (.aread rope rb ra) s c x y) ∧
       (∀ ps, clean → bound → tagOk a = true → an % 256 + n ≤ 256 → dst % 8 = 0 → dst + n ≤ 0x10000 →
         s.checkCur false first = .ok ps → tag ∈ s.curCore.tagBusy →
         LevelBecomes (.aread rope rb ra) s { l with pc := l.ipc, pfx := none, again := true }) ∧
       ∀ q, clean → bound → tagOk a = true → an % 256 + n ≤ 256 → dst % 8 = 0 → dst + n ≤ 0x10000 →
         s.checkCur false [⟨0, a, 8, .load, 1, 0, 0, -1, false, 0⟩] = .ok [q] → tag ∉ s.curCore.tagBusy →
         s.curCore.ropeRoom slot 1 = true →
         Issues (.aread rope rb ra) s { next with xl := [] } (fun new => ∃ o, new = [o] ∧ NextOp s slot o ∧ o.kind = .s ∧ o.scope = .y ∧
           o.work = .aread q.pa n tag dst [BitVec.ofNat 64 tag, p, 0, a]) ∧
         ∃ t, exec (.aread rope rb ra) s = .next t ∧ tag ∈ t.curCore.tagBusy)) ∧
    (an / 2 ^ 10 ≠ 0 ∨ an / 2 ^ 6 % 4 ≠ 0 → Raises (.tbind rb ra) s 0x04 0 0) ∧
    (an / 2 ^ 10 = 0 → an / 2 ^ 6 % 4 = 0 →
      let e := s.curCore.tagbase + BitVec.ofNat 64 (16 * (an % 2 ^ 6))
      Gathers (.tbind rb ra) s s.cur.lev.val 0 .s .s .v
        [⟨0, e, 8, .store, 2, p, 0, -1, false, 0⟩, ⟨1, e + 8, 8, .store, 2, BitVec.ofNat 64 (0x80 + an / 2 ^ 8 % 4), 0, -1, false, 1⟩]
        (.tbind (an % 2 ^ 6) (an / 2 ^ 8 % 4) p) fun id x => { x with wait := .coll id })

/-- MCST, MCLD and MCJOIN. (R358, R359, R360, R361, R362, R490, R111, R340) -/
def Obligations.MulticastIssued : Prop :=
  ∀ (s : State) (rope : RopeName) (ra rb rc : XReg),
    let l := s.curLvl
    let w := l.rx ra
    let b := l.rx rb
    let c := l.rx rc
    let m : Mcast := { group := w.toNat % 2 ^ 10, lmask := w.toNat / 2 ^ 32, cmode := w.toNat / 2 ^ 12 % 4, mb := w.toNat / 2 ^ 10 % 4,
                       rb := b, rc := c.toNat }
    let clean := w.toNat / 2 ^ 14 % 2 ^ 18 = 0 ∧ m.cmode < 2
    let next := { l.past 4 with po := l.po + 1 }
    let retried := { l with pc := l.ipc, pfx := none, again := true }
    let fine := fun (reach : Nat) => tagOk b = true ∧ b.toNat % 256 = 0 ∧ c.toNat % 8 = 0 ∧ b.toNat / 2 ^ 56 % 2 = 0 ∧
      c.toNat + reach ≤ 0x10000 ∧ c.toNat < 0x10000
    let stops := fun (i : Instr) (ok : Prop) (reach : Nat) =>
      (l.slotOf s.cur.lev rope.toNat = none → Raises i s 0x01 (BitVec.ofNat 64 rope.toNat) 0) ∧
      ((l.slotOf s.cur.lev rope.toNat).isSome → (¬ ok → Raises i s 0x04 w 0) ∧
        (ok → tagOk b = false → Raises i s 0x05 b b) ∧
        (ok → tagOk b = true → b.toNat % 256 ≠ 0 → Raises i s 0x03 0 b) ∧
        (ok → tagOk b = true → b.toNat % 256 = 0 → c.toNat % 8 ≠ 0 → Raises i s 0x03 0 c) ∧
        (ok → tagOk b = true → b.toNat % 256 = 0 → c.toNat % 8 = 0 → b.toNat / 2 ^ 56 % 2 = 1 → Raises i s 0x04 0 b) ∧
        (ok → tagOk b = true → b.toNat % 256 = 0 → c.toNat % 8 = 0 → b.toNat / 2 ^ 56 % 2 = 0 →
          0x10000 < c.toNat + reach ∨ 0x10000 ≤ c.toNat → Raises i s 0x04 0 c))
    let one := fun (slot : Nat) (k : Work) (new : List Op) => ∃ o, new = [o] ∧ NextOp s slot o ∧ o.kind = .rel ∧ o.scope = .y ∧ o.work = k
    let wanted := (tab 32 id).filter fun i => m.lmask.testBit i
    let reach := (wanted.getLast?.map fun i => 256 * (i + 1)).getD 0
    let els := (0 :: wanted).map fun i => El.mk i (b + BitVec.ofNat 64 (256 * i)) 8 .load 1 0 0 (-1) false i
    let entry := s.groupEntry s.cur.chip m.group
    let listed := s.entryValid s.cur.chip m.group s.curVd = true ∧ (s.cur.node, s.cur.slot) ∈ entryMembers entry
    stops (.mcst rope rb ra rc) (clean ∧ m.lmask = 0) 256 ∧
    stops (.mcld rope rb ra rc) clean reach ∧
    (∀ slot, l.slotOf s.cur.lev rope.toNat = some slot → clean → m.lmask = 0 → fine 256 →
      (m.group ∈ s.curCore.mcOut → LevelBecomes (.mcst rope rb ra rc) s retried) ∧
      (m.group ∉ s.curCore.mcOut → s.curCore.ropeRoom slot 1 = true →
        Issues (.mcst rope rb ra rc) s next (one slot (.mcst m (scratchPa s.curKey c.toNat) none)) ∧
        ∃ t, exec (.mcst rope rb ra rc) s = .next t ∧ m.group ∈ t.curCore.mcOut)) ∧
    (∀ slot, l.slotOf s.cur.lev rope.toNat = some slot → clean → fine reach →
      (∀ x y z, s.checkCur false els = .fail x y z → Raises (.mcld rope rb ra rc) s x y z) ∧
      ∀ ps, s.checkCur false els = .ok ps →
        (¬ listed → Raises (.mcld rope rb ra rc) s 0x04 w 0) ∧
        (listed → m.group ∈ s.curCore.mcOut → LevelBecomes (.mcld rope rb ra rc) s retried) ∧
        (listed → m.group ∉ s.curCore.mcOut → s.curCore.ropeRoom slot 1 = true →
          let lines := ps.tail.map fun q => (q.el.lane, q.pa)
          (wanted ≠ [] → Issues (.mcld rope rb ra rc) s { next with xl := [] }
            (one slot (.mcld m ((ps.map Placed.pa).headD 0) lines))) ∧
          ∃ t, exec (.mcld rope rb ra rc) s = .next t ∧ m.group ∈ t.curCore.mcOut ∧ t.curLvl.pc = l.pc + 4 ∧ t.curLvl.x = l.x ∧
            (∃ r ∈ t.curCore.mclds, r.op = s.nextId ∧ r.m = m ∧ r.lines = lines ∧ r.left = wanted) ∧
            ((∀ o ∈ s.curCore.ops, o.st = .held → o.readsLine = false) → t.mem = s.mem) ∧
            (wanted = [] → ∃ q ∈ t.pkts, q.stage = .arrived ∧ q.dst = coreUnit s.curKey ∧ q.payload = .mcldAnswer s.nextId 0))) ∧
    (w.toNat / 2 ^ 10 ≠ 0 → Raises (.mcjoin rb ra) s 0x04 0 0) ∧
    (w.toNat / 2 ^ 10 = 0 → tagOk b = false → Raises (.mcjoin rb ra) s 0x05 b b) ∧
    (w.toNat / 2 ^ 10 = 0 → tagOk b = true → Gathers (.mcjoin rb ra) s s.cur.lev.val 0 .s .s .v
      (tab 8 fun i => El.mk i (b + BitVec.ofNat 64 (8 * i)) 8 .load 1 0 0 (-1) false i) (.mcjoin w.toNat)
      fun id x => { x with wait := .coll id })

/-- EVPOST, EVPOSTS, EVCFG, EVFLUSH, EVCOUNT and EVQUIET. That EVFLUSH marks every store and completes in its
own turn is the model's choice (log entry 111). (R178, R179, R180, R185, R191, R194, R195, R198, R363, R364) -/
def Obligations.CairnInstructions : Prop :=
  ∀ (s : State) (v : VDev) (cls : BitVec 4) (rope : RopeName) (ra rb rd : XReg), s.vdev? s.curVd = some v →
    let l := s.curLvl
    let d := v.cls cls.toNat
    let posts := (s.curCore.ops.filter fun o => o.isPost.isSome).length
    let op := (d.getD 0 0).toNat / 2 ^ 60 % 8
    let val := if op = 0 ∨ op = 2 ∨ op = 3 ∨ op = 4 then BitVec.ofNat 64 ((l.rx rb).toNat % 2 ^ 32) else l.rx rb
    let q : Post := { key := (l.rx ra).toNat % 2 ^ 40, cls := cls.toNat, val := val, lev := s.cur.lev.val }
    let next := { l.past 4 with po := l.po + 1 }
    let retried := { l with pc := l.ipc, pfx := none, again := true }
    let one := fun (slot : Nat) (k : Work) (new : List Op) => ∃ o, new = [o] ∧ NextOp s slot o ∧ o.kind = .rel ∧ o.scope = .y ∧ o.work = k
    let en := (d.getD 0 0).getLsbD 63 = true
    let p := l.rx ra
    let n := (l.rx ra).toNat
    let node := keyCluster s.curKey
    let c := n % 16
    (l.slotOf s.cur.lev rope.toNat = none → Raises (.evpost cls rb ra rope) s 0x01 (BitVec.ofNat 64 rope.toNat) 0) ∧
    (∀ slot, l.slotOf s.cur.lev rope.toNat = some slot → ¬ en → Raises (.evpost cls rb ra rope) s 0x01 (BitVec.ofNat 64 cls.toNat) 0) ∧
    (∀ slot, l.slotOf s.cur.lev rope.toNat = some slot → en → 32 ≤ posts → LevelBecomes (.evpost cls rb ra rope) s retried) ∧
    (∀ slot, l.slotOf s.cur.lev rope.toNat = some slot → en → posts < 32 → s.curCore.ropeRoom slot 1 = true →
      Issues (.evpost cls rb ra rope) s next (one slot (.post q none))) ∧
    (¬ en → Raises (.evposts cls rb ra rd) s 0x01 (BitVec.ofNat 64 cls.toNat) 0) ∧
    (en → 32 ≤ posts → LevelBecomes (.evposts cls rb ra rd) s retried) ∧
    (en → posts < 32 → s.curCore.ropeRoom s.cur.lev.val 1 = true →
      Issues (.evposts cls rb ra rd) s { (l.lock (.x rd.toNat) s.nextId).past 4 with po := l.po + 1, wait := .evposts s.nextId rd.toNat }
        (one s.cur.lev.val (.post q (some rd.toNat)))) ∧
    (tagOk p = false → Raises (.evcfg cls ra) s 0x05 p p) ∧
    (tagOk p = true → Gathers (.evcfg cls ra) s s.cur.lev.val 0 .rel .s .y
      (tab 4 fun i => El.mk i (p + BitVec.ofNat 64 (8 * i)) 8 .load 1 0 0 (-1) false i) (.evcfg cls.toNat)
      fun id x => { x with wait := .coll id }) ∧
    (s.ropePreds s.cur.lev.val ≠ [] → LevelBecomes (.evflush cls) s retried) ∧
    (s.ropePreds s.cur.lev.val = [] → ∃ t, exec (.evflush cls) s = .next t ∧ t.curLvl = l.past 4 ∧ t.mem = s.mem ∧
      ∀ x ∈ v.nodes, let key := nodeKey x.1 x.2
        (∃ e ∈ (s.clu key).cairn, e.vd = s.curVd ∧ e.cls = cls.toNat) ∨ (s.cairnVd key s.curVd).spilled cls.toNat ≠ 0 →
        cls.toNat ∈ (t.cairnVd key s.curVd).flush) ∧
    WritesReg (.evcount ra rd) s 4 rd (BitVec.ofNat 64 ((s.cairnVd node s.curVd).spilled c * 2 ^ 32 +
      ((s.clu node).cairn.filter fun e => e.vd == s.curVd && e.cls == c).length)) ∧
    LevelBecomes (.evquiet ra rd) s { (l.lock (.x rd.toNat) 0).past 4 with wait := .evquiet rd.toNat (s.now + 1 + n) (n == 0) }

/-- GJOIN, GLEAVE, GBAR and GCOUNT. (R225, R226, R228, R141, R365) -/
def Obligations.GroupsAndBarriers : Prop :=
  ∀ (s : State) (v : VDev) (group : BitVec 6) (rd : XReg), s.vdev? s.curVd = some v →
    let l := s.curLvl
    let g := group.toNat
    let grp := AMap.get v.groups {} g
    let m := s.pair
    let members := fun (t : State) => (t.group g).members
    let waiting := { (l.lock (.x rd.toNat) 0).past 4 with wait := .gbar g rd.toNat }
    let clear := ∀ o ∈ s.curCore.ops, o.lev = s.cur.lev.val → l.po ≤ o.po
    (∃ t, exec (.gjoin group) s = .next t ∧ t.curLvl = l.past 4 ∧ t.mem = s.mem ∧
      (m ∈ grp.members ∨ m ∈ grp.joiners → t.group g = grp) ∧
      (m ∉ grp.members → m ∉ grp.joiners → grp.arrived = [] → members t = grp.members ++ [m] ∧ (t.group g).joiners = grp.joiners) ∧
      (m ∉ grp.members → m ∉ grp.joiners → grp.arrived ≠ [] → members t = grp.members ∧ (t.group g).joiners = grp.joiners ++ [m])) ∧
    (∃ t, exec (.gleave group) s = .next t ∧ t.curLvl.pc = l.pc + 4 ∧ t.mem = s.mem ∧
      (m ∈ grp.joiners → m ∉ (t.group g).joiners ∧ members t = grp.members) ∧
      (m ∉ grp.joiners → m ∈ grp.members → m ∉ grp.arrived → m ∉ members t) ∧
      (m ∉ grp.joiners → m ∉ grp.members → t.group g = grp)) ∧
    (m ∉ grp.members → m ∉ grp.joiners → Raises (.gbar group rd) s 0x01 (BitVec.ofNat 64 g) 0) ∧
    (m ∈ grp.members ∨ m ∈ grp.joiners → ¬ clear →
      LevelBecomes (.gbar group rd) s { l with pc := l.ipc, pfx := none, again := true, wait := .fence l.po true false }) ∧
    (m ∈ grp.members → clear → grp.arrived.length + 1 < grp.members.length → ∃ t, exec (.gbar group rd) s = .next t ∧
      t.curLvl = waiting ∧ t.group g = { grp with arrived := grp.arrived ++ [m] } ∧ t.mem = s.mem) ∧
    (m ∉ grp.members → m ∈ grp.joiners → clear → ∃ t, exec (.gbar group rd) s = .next t ∧
      t.curLvl = waiting ∧ t.group g = { grp with waiting := grp.waiting ++ [m] } ∧ t.mem = s.mem) ∧
    (m ∈ grp.members → clear → grp.arrived.length + 1 = grp.members.length → grp.waiting = [] → s.vdCoreKey v m.1 = s.curKey →
      ∃ t, exec (.gbar group rd) s = .next t ∧ t.curLvl.wait = .ready ∧ t.curLvl.pc = l.pc + 4 ∧ t.curLvl.rx rd = 0 ∧
        t.curCore.l1 = [] ∧ t.mem = s.mem ∧
        (∀ q ∈ grp.arrived, ∀ g' r, (s.lvl (s.vdCoreKey v q.1) (lvOf q.2)).wait = .gbar g' r →
          (t.lvl (s.vdCoreKey v q.1) (lvOf q.2)).wait = .ready) ∧
        t.group g = { grp with members := (grp.members ++ grp.joiners).filter (fun x => !grp.leavers.contains x), joiners := [],
                               leavers := [], arrived := [], waiting := [] }) ∧
    WritesReg (.gcount group rd) s 4 rd (BitVec.ofNat 64 grp.members.length)

/-- PREF, CFLUSH, CINV, TLBINV, TLBINV.ALL, TLBINV.B and TLBINV.B.ALL. That PREF fills L2 and counts against the budget in its own
turn (log entries 34 and 38), and that TLBINV disregards the tag (log entry 35), are the model's readings. (R28, R38, R39, R40, R41, R366, R367, R368) -/
def Obligations.MemoryManagement : Prop :=
  ∀ (s : State) (off : BitVec 5) (ra : XReg),
    let l := s.curLvl
    let p := l.rx ra + off.setWidth 64
    let els : List El := [⟨0, p, 1, .load, 1, 0, 0, -1, false, 0⟩]
    let lev := s.cur.lev.val
    let page := (l.rx ra).toNat % 2 ^ 57
    let home := s.xlate s.curCore.tlb [] s.curVd (p.toNat % 2 ^ 57) 1
    let untraced := ∀ pa mt e, home = .ok pa mt e → (s.vdSlotRec s.curVd (ownerOf pa).chip).tracecfg.getLsbD 63 = false
    (∃ t, exec (.pref off ra) s = .next t ∧ t.curLvl = l.past 4 ∧
      (∀ m, m ≠ s.cur.lev → t.lvl s.curKey m = s.lvl s.curKey m) ∧
      { t.curCore with lv := s.curCore.lv, tlbUse := s.curCore.tlbUse } = s.curCore ∧ (∀ j, j ≠ s.curKey → t.core j = s.core j) ∧
      (untraced → SameBytes s t ∧
        { t with cores := s.cores, l2 := s.l2, media := s.media, free := s.free, chips := s.chips } = s ∧
        ∀ c, { t.chip c with budget := (s.chip c).budget, budgetWin := (s.chip c).budgetWin, banks := (s.chip c).banks } = s.chip c) ∧
      ∀ pa mt e, home = .ok pa mt e → p.getLsbD 56 = false → s.populated pa = true → mappedPa pa = true →
        (mt ≠ 2 → pa / 256 ∈ t.l2) ∧
        (untraced → pa / 256 ∈ s.l2 → t.chips = s.chips) ∧
        (untraced → pa / 256 ∉ s.l2 →
          let used := fun (u : State) => AMap.get ((u.chip (pa / 2 ^ 47 % 2 ^ 9)).budgetIn s.now) 0 (s.curVd * 16 + stackOf pa)
          used s + 1 ≤ used t)) ∧
    (p.getLsbD 56 = true ∨ (∀ pa mt e, home ≠ .ok pa mt e) → LevelBecomes (.pref off ra) s (l.past 4)) ∧
    (∀ i w, (i = .cflush off ra ∧ w = Work.cflush) ∨ (i = .cinv off ra ∧ w = Work.cinv) →
      (p.getLsbD 56 = true → LevelBecomes i s (l.past 4)) ∧
      (p.getLsbD 56 = false → tagOk p = false → Raises i s 0x05 p p) ∧
      (∀ c x a, p.getLsbD 56 = false → tagOk p = true → s.checkCur false els = .fail c x a → Raises i s c x a) ∧
      ∀ q, p.getLsbD 56 = false → tagOk p = true → s.checkCur false els = .ok [q] → s.curCore.ropeRoom lev 1 = true →
        Issues i s { l.past 4 with po := l.po + 1, xl := [] } fun new =>
          ∃ o, new = [o] ∧ NextOp s lev o ∧ o.kind = .w ∧ o.scope = .c ∧ o.work = w (q.pa / 256)) ∧
    (s.curVd ≠ 0 → CoreBecomes (.tlbinv ra) s (l.past 4)
      { s.curCore with tlb := s.curCore.tlb.filter fun e => !(e.vd == s.curVd && page / 2 ^ e.log == e.page) }) ∧
    (s.curVd ≠ 0 → CoreBecomes .tlbinvAll s (l.past 4) { s.curCore with tlb := s.curCore.tlb.filter fun e => e.vd != s.curVd }) ∧
    (∀ i pg, (i = .tlbinvB ra ∧ pg = some (page, false)) ∨ (i = .tlbinvBAll ∧ pg = none) →
      (s.ropePreds lev ≠ [] → LevelBecomes i s { l with pc := l.ipc, pfx := none, again := true }) ∧
      ∀ v, s.ropePreds lev = [] → s.vdev? s.curVd = some v → ∃ t, exec i s = .next t ∧
        t.curLvl = { l.past 4 with wait := .tlbinv s.nextId } ∧
        t.invals = s.invals ++ [⟨s.nextId, s.curVd, pg, v.nodes.map fun n => (nodeKey n.1 n.2, none), some (s.curKey, lev), s.cur.chip⟩] ∧
        t.mem = s.mem ∧ ∀ j, j ≠ s.curKey → t.core j = s.core j)

/-- Lane arithmetic, unary operations, conversions and special functions. (R267, R295, R296, R297, R375, R376, R377, R378,
R379, R380, R391, R397) -/
def Obligations.VectorLanes : Prop :=
  ∀ (s : State) (pg : PReg) (vb va vd : VName),
    let two := fun (i : Instr) (f : Lane → Lane → Lane) => LaneWise i s [va, vb] vd pg 4 false false fun _ a b _ => (f a b, 0)
    let twoF := fun (i : Instr) (f : RMode → FVal → FVal → Flagged FVal) => LaneWise i s [va, vb] vd pg 4 true false fun md a b _ =>
      roundTo (f md.rm (laneVal a md.daz) (laneVal b md.daz)) md
    let fused := fun (i : Instr) (f : FVal → FVal) => LaneWise i s [va, vb] vd pg 4 true true fun md a b c =>
      roundTo (fFma (f (laneVal a md.daz)) (laneVal b md.daz) (laneVal c md.daz) md.rm) md
    let pick := fun (i : Instr) (f : Lane → Lane → Lane) => LaneWise i s [va, vb] vd pg 4 false false fun md a b _ =>
      (f (dazLane a md.daz) (dazLane b md.daz), 0)
    let one := fun (i : Instr) (f : Lane → Lane) => LaneWise i s [va] vd pg 4 false false fun _ a _ _ => (f a, 0)
    let oneF := fun (i : Instr) (lam : Nat) (rounds : Bool) (f : Modes → Lane → Flagged Lane) =>
      LaneWise i s [va] vd pg lam rounds false fun md a _ _ => f md a
    let narrow := fun (g : Format) (md : Modes) (a : Lane) =>
      let r := satFloat (laneVal a md.daz) g md.rm md.ftz
      (widen g (g.codeOf r.1) false, r.2)
    let toInt := fun (n : Nat) (md : Modes) (a : Lane) =>
      let r := satInt (laneVal a md.daz) n md.rm
      (BitVec.ofInt 32 r.1, r.2)
    let whole := fun (n : Int) => FVal.num (decide (n < 0)) n.natAbs 0
    twoF (.vaddF pg vb va vd) (fun m a b => fAdd a b m) ∧ twoF (.vsubF pg vb va vd) (fun m a b => fAdd a (fNeg b) m) ∧
    twoF (.vmulF pg vb va vd) (fun _ a b => fMul a b) ∧ fused (.vfmaF pg vb va vd) id ∧ fused (.vfmsF pg vb va vd) fNeg ∧
    pick (.vminF pg vb va vd) minF32 ∧ pick (.vmaxF pg vb va vd) maxF32 ∧
    two (.vaddI pg vb va vd) (fun a b => BitVec.ofNat 32 ((a.toNat + b.toNat) % 2 ^ 32)) ∧
    two (.vsubI pg vb va vd) (fun a b => BitVec.ofInt 32 (a.toInt - b.toInt)) ∧
    two (.vmulI pg vb va vd) (fun a b => BitVec.ofNat 32 (a.toNat * b.toNat)) ∧
    two (.vmulhI pg vb va vd) (fun a b => BitVec.ofInt 32 (a.toInt * b.toInt / 2 ^ 32)) ∧
    two (.vminI pg vb va vd) (fun a b => if a.toInt < b.toInt then a else b) ∧
    two (.vmaxI pg vb va vd) (fun a b => if a.toInt < b.toInt then b else a) ∧
    two (.vminn pg vb va vd) (fun a b => if a.toNat < b.toNat then a else b) ∧
    two (.vmaxn pg vb va vd) (fun a b => if a.toNat < b.toNat then b else a) ∧
    two (.vand pg vb va vd) (fun a b => a &&& b) ∧ two (.vandn pg vb va vd) (fun a b => a &&& ~~~b) ∧
    two (.vor pg vb va vd) (fun a b => a ||| b) ∧ two (.vxor pg vb va vd) (fun a b => a ^^^ b) ∧
    two (.vshl pg vb va vd) (fun a b => a <<< (b.toNat % 32)) ∧ two (.vshr pg vb va vd) (fun a b => a >>> (b.toNat % 32)) ∧
    two (.vsra pg vb va vd) (fun a b => a.sshiftRight (b.toNat % 32)) ∧ two (.vrot pg vb va vd) (fun a b => a.rotateLeft (b.toNat % 32)) ∧
    LaneWise (.vmacI pg vb va vd) s [va, vb] vd pg 4 false true (fun _ a b c => (a * b + c, 0)) ∧
    one (.vcpy pg va vd) id ∧ one (.vnegF pg va vd) (fun a => a ^^^ 0x80000000) ∧ one (.vabsF pg va vd) (fun a => a &&& 0x7FFFFFFF) ∧
    one (.vnot pg va vd) (fun a => ~~~a) ∧ one (.vnegI pg va vd) (fun a => 0 - a) ∧
    one (.vabsI pg va vd) (fun a => BitVec.ofNat 32 a.toInt.natAbs) ∧
    one (.vclz pg va vd) (fun a => BitVec.ofNat 32 (32 - if a = 0 then 0 else a.toNat.log2 + 1)) ∧
    one (.vpopc pg va vd) (fun a => BitVec.ofNat 32 (popCount a.toNat 32)) ∧
    oneF (.vsqrtF pg va vd) 4 true (fun md a => roundTo (fSqrt (laneVal a md.daz)) md) ∧
    oneF (.vcvtFI pg va vd) 4 true (fun md a => roundTo (whole a.toInt, 0) md) ∧
    oneF (.vcvtFN pg va vd) 4 true (fun md a => roundTo (whole a.toNat, 0) md) ∧ oneF (.vcvtIF pg va vd) 4 true (toInt 32) ∧
    oneF (.vnarBf16 pg va vd) 4 true (narrow bf16) ∧ oneF (.vnarFp16 pg va vd) 4 true (narrow fp16) ∧
    oneF (.vnarE4m3 pg va vd) 4 true (narrow e4m3) ∧ oneF (.vnarE5m2 pg va vd) 4 true (narrow e5m2) ∧
    oneF (.vnarE2m1 pg va vd) 4 true (narrow e2m1) ∧ oneF (.vnarI8 pg va vd) 4 true (toInt 8) ∧
    oneF (.vfexp2 pg va vd) 8 true (fun md a => roundTo (fExp2 (laneVal a md.daz)) md) ∧
    oneF (.vrint pg va vd) 8 true (fun md a => fRint (laneVal a md.daz) md) ∧
    oneF (.vexpx pg va vd) 8 false (fun md a => fExponent (laneVal a md.daz)) ∧
    oneF (.vrcp pg va vd) 8 true (fun md a => fRcp (laneVal a md.daz) md) ∧
    oneF (.vrsq pg va vd) 8 false (fun md a => fRsq (laneVal a md.daz)) ∧
    LaneWise (.vexpi pg va vd) s [va] vd pg 8 true true (fun md a _ c => roundTo (fScale (laneVal c md.daz) a.toInt, 0) md)

/-- VBCAST, VEXT, VINS, VPERM, VSLIDE, VIOTA and VSEL. (R267, R374, R377, R378, R391, R395) -/
def Obligations.VectorMoves : Prop :=
  ∀ (s : State) (pg : PReg) (n : BitVec 6) (rs rd : XReg) (vb va vd : VName),
    let x : Lane := BitVec.ofNat 32 ((s.curLvl.rx rs).toNat % 2 ^ 32)
    let moves := fun (i : Instr) (ns : List VName) (mask : Word) (lam : Nat) (f : List VReg → VReg → Nat → Lane) =>
      VecStops i s ns ∧ ∀ vs, VecSources s ns vs →
        (¬ VecWritable s vd false → Raises i s 0x01 (BitVec.ofNat 64 (0x40 + vd.toNat)) 0) ∧
        VecWrites i s ns vd false mask lam fun c v fl => fl = 0 ∧ ∀ j, j < 64 → v.lane j = f vs c j
    let src := fun (vs : List VReg) (k j : Nat) => (vs.getD k VReg.zero).lane j
    moves (.vbcast rs vd) [] (-1) 2 (fun _ _ _ => x) ∧
    moves (.vins n rs vd) [] (BitVec.ofNat 64 (2 ^ n.toNat)) 2 (fun _ c j => if j = n.toNat then x else c.lane j) ∧
    moves (.vperm vb va vd) [va, vb] (-1) 4 (fun vs _ j => src vs 0 ((src vs 1 j).toNat % 64)) ∧
    moves (.vslideUp n va vd) [va] (-1) 2 (fun vs _ j => if n.toNat ≤ j then src vs 0 (j - n.toNat) else 0) ∧
    moves (.vslideDn n va vd) [va] (-1) 2 (fun vs _ j => if j + n.toNat ≤ 63 then src vs 0 (j + n.toNat) else 0) ∧
    moves (.viota vd) [] (-1) 2 (fun _ _ j => BitVec.ofNat 32 j) ∧
    moves (.vsel pg vb va vd) [va, vb] (-1) 4 (fun vs _ j => if (s.curLvl.rp pg).getLsbD j then src vs 0 j else src vs 1 j) ∧
    VecStops (.vext n va rd) s [va] ∧
    ∀ v, VecReads s va v → LevelBecomes (.vext n va rd) s { s.vecPast [va] with
      pend := if rd = 0 then s.curLvl.pend else s.curLvl.pend ++ [⟨.x rd.toNat, .word (BitVec.ofNat 64 (v.lane n.toNat).toNat), 2, 0⟩] }

/-- VCMP, the predicate instructions and the reductions. That VRMAX.f and VRMIN.f apply DAZ is the model's reading (log entry 22).
(R267, R298, R304, R376, R381, R382, R391, R394) -/
def Obligations.ComparesPredicatesReductions : Prop :=
  ∀ (s : State) (pg pa pb pd : PReg) (rs rd : XReg) (vb va : VName),
    let l := s.curLvl
    let mask := l.rp pg
    let compares := fun (i : Instr) (f : Lane → Lane → Prop) => VecStops i s [va, vb] ∧ ∀ a b, VecReads s va a → VecReads s vb b →
      ∃ m : Word, (∀ j, j < 64 → (m.getLsbD j = true ↔ mask.getLsbD j = true ∧ f (a.lane j) (b.lane j))) ∧
        LevelBecomes i s { s.vecPast [va, vb] with pend := if pd = 0 then l.pend else l.pend ++ [⟨.p pd.toNat, .word m, 2, 0⟩] }
    let val := fun (a : Lane) => laneVal a (l.fcr.getLsbD 7)
    let floats := fun (i : Instr) (f : FVal → FVal → Prop) => compares i fun a b => f (val a) (val b)
    let lanes := fun (a : VReg) => tab 64 fun j => if mask.getLsbD j then some (a.lane j) else none
    let reduces := fun (i : Instr) (f : VReg → Word × Flags) => VecStops i s [va] ∧ ∀ a, VecReads s va a →
      LevelBecomes i s { s.vecPast [va] with fcr := l.fcr ||| (f a).2.setWidth 64, pend :=
        if rd = 0 then l.pend else l.pend ++ [⟨.x rd.toNat, .word (f a).1, 12, 0⟩] }
    let signed := fun (x : Lane) => BitVec.ofInt 64 x.toInt
    let plain := fun (x : Lane) => BitVec.ofNat 64 x.toNat
    let tree := fun (f : Lane → Lane → Lane) (e : Lane) (a : VReg) => (treeFold f (lanes a)).getD e
    let md := modesOf l.fcr
    let pick := fun (f : Lane → Lane → Lane) (e : Lane) (a : VReg) =>
      if (tab 64 id).any fun j => mask.getLsbD j && (laneVal (a.lane j) false).isNan then (0x7FC00000 : Lane)
      else tree (fun x y => f (dazLane x md.daz) (dazLane y md.daz)) e a
    (floats (.vcmpFEq pg vb va pd) (fun a b => fEq a b = true) ∧ floats (.vcmpFNe pg vb va pd) (fun a b => fEq a b = false) ∧
      floats (.vcmpFLt pg vb va pd) (fun a b => fLt a b = true) ∧ floats (.vcmpFLe pg vb va pd) (fun a b => fLt a b = true ∨ fEq a b = true) ∧
      floats (.vcmpFUn pg vb va pd) (fun a b => a.isNan = true ∨ b.isNan = true)) ∧
    (compares (.vcmpIEq pg vb va pd) (fun a b => a = b) ∧ compares (.vcmpINe pg vb va pd) (fun a b => a ≠ b) ∧
      compares (.vcmpILt pg vb va pd) (fun a b => a.toInt < b.toInt) ∧ compares (.vcmpILe pg vb va pd) (fun a b => a.toInt ≤ b.toInt) ∧
      compares (.vcmpILo pg vb va pd) (fun a b => a.toNat < b.toNat) ∧ compares (.vcmpILs pg vb va pd) (fun a b => a.toNat ≤ b.toNat)) ∧
    (WritesPred (.pand pb pa pd) s pd (l.rp pa &&& l.rp pb) ∧ WritesPred (.por pb pa pd) s pd (l.rp pa ||| l.rp pb) ∧
      WritesPred (.pxor pb pa pd) s pd (l.rp pa ^^^ l.rp pb) ∧ WritesPred (.pnot pa pd) s pd (~~~ l.rp pa) ∧
      WritesPred (.pset rs pd) s pd (l.rx rs) ∧ WritesReg (.pgetPredicate rd pa) s 4 rd (l.rp pa) ∧
      WritesReg (.pcnt rd pa) s 4 rd (BitVec.ofNat 64 (popCount (l.rp pa).toNat 64)) ∧
      WritesReg (.pfirst rd pa) s 4 rd (BitVec.ofNat 64 (((List.range 64).find? fun j => (l.rp pa).getLsbD j).getD 64))) ∧
    reduces (.vraddF pg va rd) (fun a =>
      let add := fun (x y : Flagged Lane) =>
        let r := roundTo (fAdd (laneVal x.1 md.daz) (laneVal y.1 md.daz) .rne) { md with rm := .rne }
        (r.1, x.2 ||| y.2 ||| r.2)
      let r := (treeFold add ((lanes a).map fun x => x.map fun y => (y, 0))).getD (0, 0)
      (plain r.1, r.2)) ∧
    reduces (.vrmaxF pg va rd) (fun a => (plain (pick maxF32 0xFF800000 a), 0)) ∧
    reduces (.vrminF pg va rd) (fun a => (plain (pick minF32 0x7F800000 a), 0)) ∧
    reduces (.vraddI pg va rd) (fun a => (signed (tree (fun x y => x + y) 0 a), 0)) ∧
    reduces (.vrmaxI pg va rd) (fun a => (signed (tree (fun x y => if x.toInt < y.toInt then y else x) 0x80000000 a), 0)) ∧
    reduces (.vrminI pg va rd) (fun a => (signed (tree (fun x y => if x.toInt < y.toInt then x else y) 0x7FFFFFFF a), 0)) ∧
    reduces (.vrand pg va rd) (fun a => (plain (tree (fun x y => x &&& y) 0xFFFFFFFF a), 0)) ∧
    reduces (.vror pg va rd) (fun a => (plain (tree (fun x y => x ||| y) 0 a), 0)) ∧
    reduces (.vrxor pg va rd) (fun a => (plain (tree (fun x y => x ^^^ y) 0 a), 0))

/-- VLD, VST, VGATH and VSCAT, and their landing. (R289, R290, R291, R292, R340, R375, R383, R384, R385, R387, R391) -/
def Obligations.VectorLoadsAndStores : Prop :=
  ∀ (s : State) (rsel : Bool) (ord : Ord) (pg : PReg) (ra : XReg) (vb vd : VName),
    let l := s.curLvl
    let p := l.rx ra
    let f := fmtOf p
    let mask := l.rp pg
    let name := if rsel then l.pfx.getD 0 else 0
    let scope : Scope := match ord with
      | .w => .c
      | _ => .v
    let kinds : Kind × Kind := match ord with
      | .w => (.w, .w)
      | .s => (.s, .s)
      | .sync => (.acq, .rel)
    let loads := fun (i : Instr) (ns : List VName) (kind : Kind) (sc : Scope) (idx : Nat → Int) =>
      let twin := fun (j n : Nat) => n ∈ activeLanes mask ∧ n < j ∧ idx n = idx j
      let own := (activeLanes mask).filter fun j => !(activeLanes mask).any fun n => decide (n < j) && idx n == idx j
      let els := own.flatMap fun j => loadEls p f j (idx j)
      (l.slotOf s.cur.lev name = none → Raises i s 0x01 (BitVec.ofNat 64 name) 0) ∧
      ∀ slot, l.slotOf s.cur.lev name = some slot →
        (¬ VecWritable s vd false → Raises i s 0x01 (BitVec.ofNat 64 (0x40 + vd.toNat)) 0) ∧
        (VecWritable s vd false → tagOk p = false → Raises i s 0x05 p p) ∧
        (VecWritable s vd false → tagOk p = true →
          (∀ c v a, s.checkCur false els = .fail c v a → Raises i s c v a) ∧
          (els = [] → VecWrites i s ns vd false mask 1 fun c v fl => v = c ∧ fl = 0) ∧
          (∀ st ps dst row ws, els ≠ [] → l.stream vd.toNat = some st → s.checkCur false els = .ok ps →
            s.curCore.ropeRoom slot ps.length = true → s.pushCheck st mask = .ok (dst, row, ws) → ∃ t c, exec i s = .next t ∧
            c ∈ t.curCore.colls ∧ c.id = s.nextId ∧ c.left = ps.length + (ws.filter fun q => q.el.cls == .load).length ∧
            t.curLvl.pc = l.pc + 4 ∧ t.curLvl.x = l.x ∧ t.curCore.vreg = s.curCore.vreg ∧
            ((∀ o ∈ s.curCore.ops, o.st = .held → o.readsLine = false) → t.mem = s.mem)) ∧
          ∀ k, els ≠ [] → l.stream vd.toNat = none → l.place vd.toNat = some k →
            Gathers i s slot name kind kind sc els (.vload k f (s.curCore.rv k) mask (nibMask p f idx mask) (l.fcr.getLsbD 7))
              (fun id x => (x.popAll (ns.map BitVec.toNat)).lock (.v k) id) ∧
            ∀ ps, s.checkCur false els = .ok ps → s.curCore.ropeRoom slot ps.length = true → ∃ t c, exec i s = .next t ∧
              c ∈ t.curCore.colls ∧ c.id = s.nextId ∧ ∀ x, x ∈ c.share ↔ x.1 ∈ activeLanes mask ∧ twin x.1 x.2 ∧ x.2 ∈ own)
    let stores := fun (i : Instr) (ns : List VName) (kind : Kind) (sc : Scope) (idx : Nat → Int) (val : VReg) =>
      (l.slotOf s.cur.lev name = none → Raises i s 0x01 (BitVec.ofNat 64 name) 0) ∧
      ∀ slot, l.slotOf s.cur.lev name = some slot →
        (tagOk p = false → Raises i s 0x05 p p) ∧
        (tagOk p = true → f.rounds = true → badRm l.fcr = true → Raises i s 0x01 l.fcr 0) ∧
        (tagOk p = true → f.rounds = false ∨ badRm l.fcr = false → StoresLanes i s slot name kind sc f val
          ((activeLanes mask).flatMap fun j => storeEls p f j (idx j))
          fun fs => { s.vecPast ns with fcr := l.fcr ||| fs.setWidth 64 })
    loads (.vld rsel ord pg ra vd) [] kinds.1 scope (fun j => (j : Int)) ∧
    VecStops (.vst rsel ord pg ra vd) s [vd] ∧
    (∀ v, VecReads s vd v → stores (.vst rsel ord pg ra vd) [vd] kinds.2 scope (fun j => (j : Int)) v) ∧
    VecStops (.vgath rsel pg vb ra vd) s [vb] ∧
    (∀ b, VecReads s vb b → loads (.vgath rsel pg vb ra vd) [vb] .w .c fun j => (b.lane j).toInt) ∧
    VecStops (.vscat rsel pg vb ra vd) s [vd, vb] ∧
    (∀ v b, VecReads s vd v → VecReads s vb b → stores (.vscat rsel pg vb ra vd) [vd, vb] .w .c (fun j => (b.lane j).toInt) v) ∧
    ∀ (q : Packet) (j : Nat) (w : Word) (c : Coll), LastPart s q c j w →
      let k := q.dst.core
      let lv := lvOf c.lev
      let quiet := ∀ y ∈ (s.core k).ops, y.st = .held → y.readsLine = false
      (∀ m g old msk nib daz, c.finish = .vload m g old msk nib daz → (c.share.map Prod.fst).Nodup →
        (∀ x ∈ c.share, x.1 ≠ j / 4 ∧ (∀ y ∈ c.share, y.1 ≠ x.2) ∧ ∀ n, n < 3 → AMap.find? c.vals (4 * x.1 + n) = none) →
        ∃ t, exec .response s = .next t ∧ (quiet → t.mem = s.mem) ∧ (t.lvl k lv).x = (s.lvl k lv).x ∧
        (∀ e ∈ (t.lvl k lv).ilock, e.2 ≠ c.id) ∧ (∀ n, n ≠ m → (t.core k).rv n = (s.core k).rv n) ∧
        ∀ i, i < 64 → ((t.core k).rv m).lane i = if msk.getLsbD i then
          let from_ := ((c.share.find? fun x => x.1 == i).map Prod.snd).getD i
          let part := fun (n : Nat) => c.partWith j w (4 * from_ + n)
          loadLane g (nib.getLsbD i) (part 0) (part 1) (part 2) daz
        else old.lane i) ∧
      ∀ g vals fcr ops, c.finish = .vstore g vals fcr ops → c.share = [] → ((ops.filter LaneOp.live).map fun x => x.op.id).Nodup →
        let md := modesOf fcr
        let code := fun (x : LaneOp) => match g with
          | .e2m1x _ => blockStore false (vals.lane x.lane) ((c.partWith j w (4 * x.lane + 3)).toNat % 256) md
          | .int4x _ => blockStore true (vals.lane x.lane) ((c.partWith j w (4 * x.lane + 3)).toNat % 256) md
          | _ => storeCode g (vals.lane x.lane) md
        ∃ u : State, exec .response s = .next (u.pump k) ∧ u.mem = s.mem ∧ (u.lvl k lv).x = (s.lvl k lv).x ∧
          (∀ b, (u.lvl k lv).fcr.getLsbD b = true ↔ (s.lvl k lv).fcr.getLsbD b = true ∨ ∃ x ∈ ops, (code x).2.getLsbD b = true) ∧
          ∀ x ∈ ops, x.live = true → ∀ b, x.op.work = .mem b → (∃ y ∈ (s.core k).ops, y.id = x.op.id ∧ y.dest ≠ .part c.id j) →
            ∃ y ∈ (u.core k).ops, y.id = x.op.id ∧ y.st = x.op.st ∧
              y.work = .mem { b with data := BitVec.ofNat 64 (if x.high then (code x).1 * 16 else (code x).1) }

/-- VLD.ls and VST.ls. (R49, R50, R65, R267, R386) -/
def Obligations.LaneSlices : Prop :=
  ∀ (s : State) (pg : PReg) (va vd : VName) (a v : VReg),
    VecStops (.vldLs pg va vd) s [va] ∧ VecStops (.vstLs pg va vd) s [vd, va] ∧ (VecReads s va a →
    let l := s.curLvl
    let mask := l.rp pg
    let on := fun (j : Nat) => j < 64 ∧ mask.getLsbD j = true
    let off := fun (j : Nat) => (a.lane j).toNat
    let torn := fun (j : Nat) => (32 * j + off j / 8) ∈ s.curCore.lanesBad
    let clean := ∀ j, on j → off j % 4 = 0 ∧ off j ≤ 252 ∧ ¬ torn j
    let first := fun (bad : Nat → Prop) (j : Nat) => on j ∧ bad j ∧ ∀ i, i < j → on i → ¬ bad i
    let stops := fun (i : Instr) =>
      (∀ j, first (fun n => off n % 4 ≠ 0) j → Raises i s 0x03 0 (BitVec.ofNat 64 (off j))) ∧
      ((∀ j, on j → off j % 4 = 0) → ∀ j, first (fun n => 252 < off n) j → Raises i s 0x04 0 (BitVec.ofNat 64 (off j))) ∧
      ((∀ j, on j → off j % 4 = 0 ∧ off j ≤ 252) → ∀ j, first torn j → Raises i s 0x0E 0 (BitVec.ofNat 64 (off j)))
    let quiet := fun (t : State) => t.mem = s.mem ∧ (∀ m, m ≠ s.cur.lev → t.lvl s.curKey m = s.lvl s.curKey m) ∧
      ∀ k, k ≠ s.curKey → t.core k = s.core k
    (VecWritable s vd false → stops (.vldLs pg va vd)) ∧
    (¬ VecWritable s vd false → Raises (.vldLs pg va vd) s 0x01 (BitVec.ofNat 64 (0x40 + vd.toNat)) 0) ∧
    (∀ k, l.stream vd.toNat = none → l.place vd.toNat = some k → clean → ∃ t r, exec (.vldLs pg va vd) s = .next t ∧
      t.curLvl = { s.vecPast [va] with pend := l.pend ++ [⟨.v k, .vec r, 1, 0⟩] } ∧ quiet t ∧ t.curCore.vreg = s.curCore.vreg ∧
      t.curCore.lanes = s.curCore.lanes ∧ ∀ j, j < 64 → r.lane j = if mask.getLsbD j then
        BitVec.ofNat 32 (s.curCore.lanes.readNat (256 * j + off j) 4) else (s.curCore.rv k).lane j) ∧
    (clean → (∀ j, on j → 2048 + (32 * j + off j / 8) ∉ s.curCore.lanesBad) →
      VecWrites (.vldLs pg va vd) s [va] vd false mask 1 fun c r fl => fl = 0 ∧ ∀ j, j < 64 → r.lane j = if mask.getLsbD j then
        BitVec.ofNat 32 (s.curCore.lanes.readNat (256 * j + off j) 4) else c.lane j) ∧
    (VecReads s vd v → stops (.vstLs pg va vd)) ∧
    (VecReads s vd v → clean → ∃ t, exec (.vstLs pg va vd) s = .next t ∧
      t.curLvl = (l.popAll [vd.toNat, va.toNat]).past 4 ∧ quiet t ∧ t.curCore.vreg = s.curCore.vreg ∧
      t.curCore.lanes = ((tab 64 id).filter fun j => mask.getLsbD j).foldl (fun (m : Memory) j =>
        m.writeBytes (256 * j + off j) (leBytes 4 (v.lane j).toNat)) s.curCore.lanes ∧
      (s.curCore.lanes.wf = true → t.curCore.lanes.wf = true ∧
        (∀ j, on j → t.curCore.lanes.readNat (256 * j + off j) 4 = (v.lane j).toNat) ∧
        ∀ n, (∀ j, on j → n < 256 * j + off j ∨ 256 * j + off j + 4 ≤ n) → t.curCore.lanes.read n = s.curCore.lanes.read n)))

/-- TMLD, SOPEN, SCLOSE, SSTAT and the reads of a stream. (R388, R389, R390, R391, R392, R340) -/
def Obligations.TensorStreams : Prop :=
  ∀ (s : State) (tm : TMap) (rope : RopeName) (vs : BitVec 2) (ra rd : XReg),
    let l := s.curLvl
    let c := s.curCore
    let p := l.rx ra
    let lev := s.cur.lev.val
    let n := vs.toNat
    let d := c.tm.get tm.toFin
    let w := fun (i : Nat) => (d.getD i 0).toNat
    let good := w 1 % 2 ^ 32 ≠ 0 ∧ w 1 / 2 ^ 32 ≠ 0 ∧ w 2 % 2 ^ 32 ≠ 0 ∧ w 2 / 2 ^ 32 = 0 ∧ w 5 / 2 = 0 ∧ w 6 = 0 ∧ w 7 = 0
    let base := d.getD 0 0
    let elems := fun (st : Stream) => (st.desc.getD 1 0).toNat % 2 ^ 32 * ((st.desc.getD 1 0).toNat / 2 ^ 32) * ((st.desc.getD 2 0).toNat % 2 ^ 32)
    (tagOk p = false → Raises (.tmld ra tm) s 0x05 p p) ∧
    (tagOk p = true → p.toNat % 64 ≠ 0 → Raises (.tmld ra tm) s 0x03 0 p) ∧
    (tagOk p = true → p.toNat % 64 = 0 → Gathers (.tmld ra tm) s lev 0 .w .w .c
      (tab 8 fun i => El.mk i (p + BitVec.ofNat 64 (8 * i)) 8 .load 1 0 0 (-1) false i) (.tmld tm.toNat)
      fun id x => x.lock (.tm tm.toNat) id) ∧
    ((l.stream n).isSome → Raises (.sopen rope tm vs) s 0x01 (BitVec.ofNat 64 l.word) 0) ∧
    (l.stream n = none → l.slotOf s.cur.lev rope.toNat = none → Raises (.sopen rope tm vs) s 0x01 (BitVec.ofNat 64 rope.toNat) 0) ∧
    (∀ a, l.stream n = none → l.slotOf s.cur.lev rope.toNat = some a →
      (¬ good → Raises (.sopen rope tm vs) s 0x01 (BitVec.ofNat 64 tm.toNat) 0) ∧
      (good → tagOk base = false → Raises (.sopen rope tm vs) s 0x05 base base) ∧
      (good → tagOk base = true → c.freeSlot = none → Raises (.sopen rope tm vs) s 0x09 0 0) ∧
      ∀ slot, good → tagOk base = true → c.freeSlot = some slot → ∃ t, exec (.sopen rope tm vs) s = .next t ∧
        t.curLvl = { l.past 4 with streams := l.streams.set n (some ⟨d, 0, 0, slot, none, false⟩) } ∧ t.mem = s.mem ∧
        t.curCore.vreg = c.vreg ∧ ∃ e, AMap.find? t.curCore.ropes slot =
          some ⟨s.nextId, lev, e, 0, ((c.ropeAt a).uid, (c.ropeAt a).issued, 0) :: (c.ropeAt a).preds.map fun q => (q.1, q.2.1, 0),
            (c.ropeAt a).adopt, [], false⟩) ∧
    (l.stream n = none → LevelBecomes (.sclose vs) s (l.past 4)) ∧
    (∀ st, l.stream n = some st →
      let uid := (c.ropeAt st.rope).uid
      (tmapDir st.desc = true → c.outstanding uid ≠ 0 →
        Issues (.sclose vs) s { l with pc := l.ipc, pfx := none, again := true, wait := .ropeWait uid } fun new => new = []) ∧
      (tmapDir st.desc = false ∨ c.outstanding uid = 0 → ∃ t, exec (.sclose vs) s = .next t ∧ t.curLvl.pc = l.pc + 4 ∧ t.curLvl.x = l.x ∧
        t.curLvl.streams = l.streams.set n none ∧ (t.curCore.ropeAt st.rope).dropped = true ∧ t.mem = s.mem ∧
        ∀ k, l.place n ≠ some k → t.curCore.rv k = c.rv k)) ∧
    WritesReg (.sstat rd vs) s 4 rd (match l.stream n with
      | none => 0
      | some st => BitVec.ofNat 64 (2 ^ 63 + (if (st.desc.getD 5 0).getLsbD 0 then 2 ^ 62 else 0) + (elems st - st.done) % 2 ^ 48)) ∧
    (∀ (i : Instr) (st : Stream), Instr.firstRead i = some n → l.stream n = some st → tmapDir st.desc = false →
      st.pos < tmapChunks st.desc → (∀ v, st.buf ≠ some (l.fcr.getLsbD 7, v)) →
      (chunkRow st.desc st.pos = none → Raises i s 0x06 (tmapBase st.desc) 0) ∧
      ∀ row, chunkRow st.desc st.pos = some row →
        let f := fmtOf row
        let els := (activeLanes (chunkMask st.desc st.pos)).flatMap fun j => loadEls row f j (chunkIdx st.desc st.pos j)
        (∀ x y z, s.checkCur false els = .fail x y z → Raises i s x y z) ∧
        ∀ ps, s.checkCur false els = .ok ps → c.ropeRoom st.rope ps.length = true →
          let asked := l.streams.set n (some { st with asked := true })
          Issues i s
            { l with pc := l.ipc, pfx := none, again := true, po := l.po + 1, xl := [], wait := .coll s.nextId, streams := asked }
            (Parts s st.rope 0 s.nextId .w .w .c ps)) ∧
    ∀ (q : Packet) (j : Nat) (x : Word) (g : Coll), LastPart s q g j x → g.share = [] →
      let k := q.dst.core
      let lv := lvOf g.lev
      (∀ m, m < 8 → g.finish = .tmld m →
        let e := tab 8 fun i => g.partWith j x i
        let f := fun (i : Nat) => (e.getD i 0).toNat
        let fine := f 1 % 2 ^ 32 ≠ 0 ∧ f 1 / 2 ^ 32 ≠ 0 ∧ f 2 % 2 ^ 32 ≠ 0 ∧ f 2 / 2 ^ 32 = 0 ∧ f 5 / 2 = 0 ∧ f 6 = 0 ∧ f 7 = 0
        (fine → ∃ u : State, exec .response s = .next (u.pump k) ∧ (u.core k).tm.toList = (s.core k).tm.toList.set m e ∧
          (∀ y ∈ (u.lvl k lv).ilock, y.2 ≠ g.id) ∧ (u.lvl k lv).x = (s.lvl k lv).x ∧ u.mem = s.mem) ∧
        (¬ fine → (s.core k).run = .running → ∃ u : State, exec .response s = .next ((u.fault k lv).pump k) ∧ (u.core k).tm = (s.core k).tm ∧
          (u.lvl k lv).trapcause = BitVec.ofNat 64 (lv.val * 256 + 0x01) ∧ (u.lvl k lv).trappc = g.pc ∧
          (u.lvl k lv).trapval = BitVec.ofNat 64 m ∧ u.mem = s.mem)) ∧
      ∀ m f mask nib daz st, g.finish = .chunk m f mask nib daz → (s.lvl k lv).stream m = some st →
        ∃ (u : State) (v : VReg), exec .response s = .next (u.pump k) ∧ (u.lvl k lv).stream m = some { st with buf := some (daz, v), asked := false } ∧
          (u.lvl k lv).x = (s.lvl k lv).x ∧ u.mem = s.mem ∧ ∀ i, i < 64 → v.lane i = if mask.getLsbD i then
            loadLane f (nib.getLsbD i) (g.partWith j x (4 * i)) (g.partWith j x (4 * i + 1)) (g.partWith j x (4 * i + 2)) daz
          else 0

/-- MXQ, MXWAIT, MXSTAT, RACK.TAKE, RACK.GIVE, RACK.QRY and RACK_GRANT. (R234, R235, R236, R406, R407, R408, R424, R425,
R426, R428, R429, R430) -/
def Obligations.MatrixAndRackInstructions : Prop :=
  ∀ (s : State) (n : BitVec 4) (ra rd : XReg) (vs : VName),
    let l := s.curLvl
    let c := s.curCore
    let retried := { l with pc := l.ipc, pfx := none, again := true }
    let code := fun (x : LatchState) => match x with
      | .isOpen => 0
      | .reserved => 1
      | .loaded => 2
      | .leaving => 3
    let latches := c.mx.settle s.now
    let status := BitVec.ofNat 64 ((if c.mx.queue = [] ∧ c.mx.run = [] then 0 else 2 ^ 63) + (if c.mx.flt then 2 ^ 62 else 0) +
      code latches.st1 * 2 ^ 58 + code latches.st0 * 2 ^ 56 + c.mx.queue.length * 2 ^ 32 + c.mx.mode.toNat % 32)
    let cnt := (l.rx ra).toNat % 2 ^ 32
    let lent := c.borrowed s.cur.lev
    let back := min n.toNat lent
    let gone := l.held.drop (l.held.length - back)
    VecStops (.mxq vs rd) s [vs] ∧
    (∀ v, VecReads s vs v →
      let ws := tab 8 fun i => BitVec.ofNat 64 ((v.lane (2 * i + 1)).toNat * 2 ^ 32 + (v.lane (2 * i)).toNat)
      (64 ≤ c.mx.queue.length → LevelBecomes (.mxq vs rd) s retried) ∧
      (c.mx.queue.length < 64 → recordOk ws l.fcr = false → Raises (.mxq vs rd) s 0x01 (ws.getD 0 0) 0) ∧
      (c.mx.queue.length < 64 → recordOk ws l.fcr = true → ∃ t cmd, exec (.mxq vs rd) s = .next t ∧
        t.curLvl.rx rd = (if rd = 0 then 0 else BitVec.ofNat 64 ((c.mx.pushed + 1) % 2 ^ 32)) ∧
        (∀ r, r ≠ rd → t.curLvl.rx r = l.rx r) ∧ t.curLvl.pc = l.pc + 4 ∧ t.curLvl.p = l.p ∧ t.curLvl.fcr = l.fcr ∧ t.mem = s.mem ∧
        t.curCore.vreg = c.vreg ∧ t.curCore.mx = { c.mx with pushed := (c.mx.pushed + 1) % 2 ^ 32, queue := c.mx.queue ++ [cmd] } ∧
        cmd.words = ws ∧ cmd.num = (c.mx.pushed + 1) % 2 ^ 32 ∧ cmd.fcr = l.fcr ∧ cmd.pc = l.ipc ∧ cmd.launch = l.launch ∧
        cmd.after = s.ropePreds s.cur.lev.val)) ∧
    (∃ t, exec (.mxwait ra) s = .next t ∧ t.curLvl = { l.past 4 with
        wait := if (c.mx.retired + 2 ^ 32 - cnt) % 2 ^ 32 < 2 ^ 31 then .ready else .mxwait cnt } ∧ t.curCore.mx = c.mx ∧ t.mem = s.mem) ∧
    WritesReg (.mxstat rd) s 4 rd status ∧
    (∃ t, exec (.mxstatC rd) s = .next t ∧ RegResult l t.curLvl 4 rd status ∧ t.mem = s.mem ∧
      t.curCore.mx = { c.mx with flt := false, mode := c.mx.mode &&& 0xFFFFFFFFFFFFFFE0 } ∧
      ∀ m, m ≠ s.cur.lev → t.lvl s.curKey m = s.lvl s.curKey m) ∧
    (n = 0 → LevelBecomes (.rackTake n) s (l.past 4)) ∧
    (n ≠ 0 → lent ≠ 0 → Raises (.rackTake n) s 0x0A (BitVec.ofNat 64 l.held.length) 0) ∧
    (n ≠ 0 → lent = 0 → 8 - c.floors < n.toNat → Raises (.rackTake n) s 0x0B (BitVec.ofNat 64 n.toNat) 0) ∧
    (n ≠ 0 → lent = 0 → n.toNat ≤ 8 - c.floors → CoreBecomes (.rackTake n) s { l.past 4 with wait := .take n.toNat }
      { c with takes := c.takes ++ [(s.cur.lev.val, n.toNat)] }) ∧
    (l.setsBusy gone = true → LevelBecomes (.rackGive n) s retried) ∧
    (l.setsBusy gone = false → ∃ t, exec (.rackGive n) s = .next t ∧ OnlyLevel s.curKey s.cur.lev s t ∧
      t.curLvl.held = l.held.take (l.held.length - back) ∧ t.curLvl.x = l.x ∧ t.curLvl.p = l.p ∧ t.curLvl.pc = l.pc + 4 ∧
      t.curLvl.fcr = l.fcr ∧ ∀ e, e ∈ t.curLvl.pend ↔ e ∈ l.pend ∧ ∀ r, e.reg = .v r → r / 16 ∉ gone) ∧
    WritesReg (.rackQry rd) s 4 rd (BitVec.ofNat 64 (c.rackFree * 2 ^ 12 + c.floorOf s.cur.lev * 2 ^ 8 + lent * 2 ^ 4 +
      (c.floorOf s.cur.lev + lent))) ∧
    ∀ (lv m : Nat) (rest : List (Nat × Nat)),
      let k := coreKey s.arg.chip s.arg.node s.arg.slot
      let d := s.core k
      d.takes = (lv, m) :: rest → m ≤ d.rackFree → d.run = .running → ∃ t, exec .rackGrant s = .next t ∧
        (t.core k).takes = rest ∧ (t.lvl k (lvOf lv)).held = (d.lvl (lvOf lv)).held ++ d.poolSets.take m ∧
        (t.lvl k (lvOf lv)).wait = .ready ∧ (t.lvl k (lvOf lv)).x = (d.lvl (lvOf lv)).x ∧ t.mem = s.mem ∧
        ∀ r, r / 16 ∉ d.poolSets.take m → (t.core k).rv r = d.rv r

/-- The matrix commands, their starts and ends. That rows are read and results written at a command's start, its flags at its
retirement, and that a latch leaves until then is the model's reading (log entry 65); that STC ignores DAZ is its reading too (log entry
68). (R259, R303, R307, R404, R412, R414, R415, R418, R420, R421, R422, R427) -/
def Obligations.MatrixCommands : Prop :=
  ∀ (s : State) (m : Cmd) (rest : List Cmd),
    let k := coreKey s.arg.chip s.arg.node s.arg.slot
    let c := s.core k
    let w := m.words
    let off := recOff w
    let str := recStr w
    let lat := recLat w
    let acc := recAcc w
    let head := fun (kind : Nat) => c.mx.queue = m :: rest ∧ recKind w = kind ∧ c.mx.stopped = false ∧
      (c.run = .running ∨ c.run = .stopped) ∧ c.mx.last ≠ some s.now ∧ ∀ i ∈ m.after, ∀ o ∈ c.ops, o.id ≠ i
    let idle := fun (kind : Nat) => ∀ x ∈ c.mx.run, recKind x.words = kind → x.done = true ∧ x.start + x.cycles ≤ s.now
    let started := fun (t : State) (done : Bool) (flags : Nat) =>
      (t.core k).mx.run = c.mx.run ++ [{ m with done := done, flags := flags, start := s.now }] ∧
      (t.core k).mx.queue.map Cmd.words = rest.map Cmd.words ∧ (t.core k).mx.last = some s.now ∧
      (t.core k).mx.pushed = c.mx.pushed ∧ (t.core k).mx.retired = c.mx.retired
    let elem := fun (t : State) (a i j : Nat) => (t.core k).mx.elem k a i j
    let kept := fun (t : State) (a : Nat) => ∀ i j, i < 16 → j < 64 → elem t a i j = c.mx.elem k a i j
    (∀ num wd, let now := s.peek (scratchPa k (8 * wd)) 8
      (s.seen k num wd = now ∨ ∃ o ∈ s.olds, o.core = k ∧ o.word = wd ∧ num ∈ o.cmds ∧ s.seen k num wd = o.val) ∧
      ((∀ o ∈ s.olds, o.core = k → o.word = wd → num ∉ o.cmds) → s.seen k num wd = now)) ∧
    (head 0 → idle 0 → c.mx.st lat = .loaded →
      s.mmaAdmits s.arg.chip s.arg.node ((activeOf (s.clu (keyCluster k)) s.arg.slot).getD 0) = true →
      s.rowsWait k off str 16 64 = false → s.badRow k off str 16 64 = none →
      let u := s.readRows k off str 16 64 .load
      let row := fun (i : Nat) => tab 32 fun r => bf16.decode (u.cmdPeek k m.num (off + i * str + 2 * r) 2)
      let col := fun (j : Nat) => tab 32 fun r => bf16.decode (c.mx.tile k lat r j).toNat
      let res := fun (i j : Nat) => mmaElem (if recBit56 w = 1 then 0 else c.mx.elem k acc i j) (row i) (col j)
      ∃ t, exec .mma s = .next t ∧ started t true ((tab 1024 fun n => res (n / 64) (n % 64)).foldl (fun f r => f ||| r.2) (0 : Flags)).toNat ∧
        (∀ i j, i < 16 → j < 64 → elem t acc i j = (res i j).1) ∧ (∀ a, a ≠ acc → kept t a) ∧
        (t.core k).mx.st lat = (if recO w = 1 then .leaving else .loaded) ∧ (m.num, lat) ∈ (t.core k).mx.busy ∧
        (t.clu (keyCluster k)).startsIn s.now = (u.clu (keyCluster k)).startsIn s.now + 1 ∧ t.mem = u.mem) ∧
    (head 0 → idle 0 → c.mx.st lat = .loaded →
      s.mmaAdmits s.arg.chip s.arg.node ((activeOf (s.clu (keyCluster k)) s.arg.slot).getD 0) = true →
      s.rowsWait k off str 16 64 = true → exec .mma s = .next (s.rowsAsk k)) ∧
    (head 1 → (c.mx.settle s.now).st lat = .isOpen ∨ (c.mx.settle s.now).st lat = .loaded → c.mx.reads s.now lat = false →
      s.ringFirst k lat = false →
      (recBit56 w = 1 → ∃ t, exec .ldb s = .next t ∧ started t true 0 ∧ (t.core k).mx.st lat = .isOpen ∧ t.mem = s.mem) ∧
      (recBit56 w ≠ 1 → s.rowsWait k off str 32 (ldbRow w) = false → s.badRow k off str 32 (ldbRow w) = none →
        let u := s.readRows k off str 32 (ldbRow w) .load
        ∃ t, exec .ldb s = .next t ∧ started t true 0 ∧ (t.core k).mx.st lat = .loaded ∧ t.mem = u.mem ∧ (∀ a, kept t a) ∧
          (∀ r j, r < 32 → j < 64 → (t.core k).mx.tile k lat r j = u.ldbElem k m.num w r j) ∧
          (recFmt w = 2 → ∀ r j, r < 32 → j < 64 →
            (t.core k).mx.tile k lat r j = BitVec.ofNat 16 (u.cmdPeek k m.num (off + r * str + 2 * j) 2)))) ∧
    (let n := s.ringNext k
     head 2 → n ≠ k → c.mx.st lat = .loaded → ((s.core n).mx.settle s.now).st (recBit56 w) = .isOpen →
      ∃ t, exec .rotb s = .next t ∧ started t false 0 ∧ (t.core k).mx.st lat = .leaving ∧
        (t.core k).mx.ring = c.mx.ring ++ [⟨m.num, lat, keySlot n, recBit56 w⟩] ∧ (t.core n).mx.st (recBit56 w) = .reserved ∧
        t.mem = s.mem) ∧
    (∀ (x : RingXfer) (later : List RingXfer), c.mx.ring = x :: later →
      let n := coreKey s.arg.chip s.arg.node x.slot
      n ≠ k → ∃ t, exec .ringTransferEnd s = .next t ∧ (t.core k).mx.ring = later ∧ (t.core n).mx.st x.dst = .loaded ∧
        (c.mx.st x.src = .leaving → (∀ y ∈ later, y.src ≠ x.src) → c.mx.reads s.now x.src = false → (t.core k).mx.st x.src = .isOpen) ∧
        (t.core k).mx.run = c.mx.run.map (fun y => if y.num = x.cmd then { y with done := true } else y) ∧ t.mem = s.mem ∧
        ∀ r j, r < 32 → j < 64 → (t.core n).mx.tile n x.dst r j = c.mx.tile k x.src r j) ∧
    (let f := recForm w
     let pa := fun (n : Nat) => scratchPa k (off + n / 64 * str + n % 64 * f.size)
     let out := fun (n : Nat) => storeCode f (c.mx.elem k acc (n / 64) (n % 64)) { modesOf m.fcr with daz := false }
     let u := s.readRows k off str 16 (64 * f.size) .store
     head 3 → idle 3 → s.rowsWait k off str 16 (64 * f.size) = false → (∀ n, n < 1024 → s.isBad (pa n) = false) →
      ∃ t, exec .stc s = .next t ∧ started t true ((tab 1024 out).foldl (fun x r => x ||| r.2) (0 : Flags)).toNat ∧
        t.mem = ((tab 1024 id).foldl (fun (x : State) n => x.poke (pa n) f.size (out n).1 2) u).mem ∧ (∀ a, a ≠ acc → kept t a) ∧
        (recBit56 w ≠ 1 → kept t acc) ∧ (recBit56 w = 1 → ∀ i j, i < 16 → j < 64 → elem t acc i j = 0)) ∧
    (head 4 → ∃ t, exec .zc s = .next t ∧ started t true 0 ∧ t.mem = s.mem ∧ (∀ a, a ≠ acc → kept t a) ∧
      ∀ i j, i < 16 → j < 64 → elem t acc i j = 0) ∧
    (head 5 → ∃ t, exec .mnote s = .next t ∧ started t false 0 ∧ t.mem = s.mem) ∧
    (head 6 → ∃ t, exec .mfen s = .next t ∧ started t true 0 ∧ t.mem = s.mem) ∧
    (∀ (x : Cmd) (later : List Cmd), c.mx.run = x :: later →
      (x.done = true → ∃ t, exec .commandRetire s = .next t ∧ (t.core k).mx.run = later ∧ t.mem = s.mem ∧
        (t.core k).mx.retired = (c.mx.retired + 1) % 2 ^ 32 ∧ (t.core k).mx.mode = c.mx.mode ||| BitVec.ofNat 64 x.flags ∧
        (∀ b ∈ (t.core k).mx.busy, b.1 ≠ x.num) ∧
        ∀ (l : Level) n, (c.lvl l).wait = .mxwait n → ((c.mx.retired + 1) % 2 ^ 32 + 2 ^ 32 - n) % 2 ^ 32 < 2 ^ 31 →
          (t.lvl k l).wait = .ready) ∧
      (x.done = false → recKind x.words = 5 → c.noted (recAcc x.words) x.num = true ∨ recAcc x.words ∈ c.ended →
        exec .commandRetire s = .next s) ∧
      (x.done = false → recKind x.words = 5 → c.noted (recAcc x.words) x.num = false → recAcc x.words < c.mbq.length →
        recAcc x.words ∉ c.ended →
        (∀ y ∈ c.mbq.getD (recAcc x.words) [], y.at_ < s.now ∨ y.cls = 0) → ∃ t, exec .commandRetire s = .next t ∧
        (t.core k).mx = c.mx ∧ t.mem = s.mem ∧ (t.core k).mbq.getD (recAcc x.words) [] =
          c.mbq.getD (recAcc x.words) [] ++ [⟨s.now, 0, x.words.getD 1 0, x.num⟩])) ∧
    (∀ v, c.mx.queue = m :: rest → c.mx.stopped = false → s.vdev? c.owner = some v → m.head + v.limit ≤ s.now →
      ∃ t, exec .matrixCommandDiscard s = .next t ∧ (t.core k).mx.queue = [] ∧ (t.core k).mx.flt = true ∧
        (t.core k).mx.run.length = c.mx.run.length + 1 + rest.length ∧ (t.core k).mx.pushed = c.mx.pushed ∧ (t.core k).mx.acc = c.mx.acc) ∧
    (let n := nodeKey s.arg.chip s.arg.node
     ∃ t, exec .governorWindow s = .next t ∧ { t with clus := s.clus } = s ∧ t.clu n = { s.clu n with
       starts := if (s.clu n).startWin = s.now / 64 then (s.clu n).starts else 0, startWin := s.now / 64 }) ∧
    (let b := s.arg.index
     (c.noteDue b = true → exec .mailboxLanding s = .next s) ∧
     ∀ (x : MbWrite) (later : List MbWrite), b < 4 → c.mbq.getD b [] = x :: later → c.noteDue b = false →
      (b ∈ c.ended → ∃ t, exec .mailboxLanding s = .next t ∧ t.core k = c ∧ t.mem = s.mem) ∧
      (b ∉ c.ended → ∃ t, exec .mailboxLanding s = .next t ∧ t.mem = s.mem ∧
        (t.core k).mb.toList.getD b 0 = (if x.cls = 0 then x.val else c.mb.toList.getD b 0 + x.val) ∧
        (∀ i, i ≠ b → (t.core k).mb.toList.getD i 0 = c.mb.toList.getD i 0) ∧
        (t.core k).mbq.getD b [] = later ∧ b ∈ (t.core k).ended ∧
        (x.cls = 0 → ∀ y ∈ (t.core k).mx.run, y.num = x.cmd → y.done = true) ∧
        ∀ (l : Level) until_, (c.lvl l).wait = .sleep until_ → (t.lvl k l).wait = .ready ∧ s.now + 1 ≤ (t.lvl k l).readyAt))

/-- POST, CLAIM, EVENT_DELIVERY, REFILL, POST_SEND, POST_ACK, QUIESCENCE_SWEEP and EVQUIET_TIMEOUT. That EVRETRY counts when the
BUSY answer comes is the model's reading (log entry 23), and so is LATE = 1 of EV_NACK_STRICT (log entry 24). (R72, R180, R181, R183, R186, R187, R190, R191, R192, R193, R197,
R198) -/
def Obligations.CairnEvents : Prop :=
  ∀ (s : State) (v : VDev) (p : Packet),
    (∀ (q : Post) (op : Nat), s.arrivedPkt = some p → p.payload = .post q op → s.vdev? p.vd = some v →
      let node := nodeKey p.dst.chip p.dst.node
      let vd := p.vd
      let c := s.cairnVd node vd
      let d := v.cls q.cls
      let acked := fun (t : State) (st out : Nat) => ∃ a ∈ t.pkts, a.src = p.dst ∧ a.dst = p.src ∧ a.payload = .postAck op st out
      let ring := 2 ^ ((d.getD 0 0).toNat / 2 ^ 51 % 32)
      let mine := fun (e : CairnEntry) => e.vd = vd ∧ e.key = q.key
      (op ≠ 0 → 2 ≤ v.reset → ∃ t, exec .post s = .next t ∧ acked t 5 0 ∧ t.mem = s.mem ∧ t.clus = s.clus) ∧
      (op ≠ 0 → v.reset < 2 → v.running = false ∨ c.saving = true →
        ∃ t, exec .post s = .next t ∧ acked t 1 0 ∧ t.mem = s.mem ∧ t.clus = s.clus) ∧
      (op ≠ 0 → v.reset < 2 → v.running = true → c.saving = false → s.select node = none → s.refillDue node = false →
        c.waitPg = none → s.postTurn node p = true →
        (∀ e, c.spilled q.cls = 0 → ((s.clu node).cairn.filter fun x => x.vd == vd).find? (fun x => x.key == q.key) = some e →
          ∃ t, exec .post s = .next t ∧ acked t 0 0 ∧ t.mem = s.mem ∧
            (t.clu node).cairn = (s.clu node).cairn.map fun x =>
              if x.vd = vd ∧ x.key = q.key then { x with val := foldVal (clsOp (v.cls e.cls)) e.val q.val } else x) ∧
        (c.spilled q.cls = 0 → (∀ e ∈ (s.clu node).cairn, ¬ mine e) → (s.clu node).cairn.length < 4096 →
          ∃ t, exec .post s = .next t ∧ acked t 0 1 ∧ t.mem = s.mem ∧ (t.cairnVd node vd).counter = c.counter + 1 ∧
            (t.clu node).cairn = (s.clu node).cairn ++ [⟨vd, q.key, q.cls, q.val, c.counter % 2 ^ 58⟩]) ∧
        (c.spilled q.cls ≠ 0 ∨ ((∀ e ∈ (s.clu node).cairn, ¬ mine e) ∧ 4096 ≤ (s.clu node).cairn.length) →
          (ring ≤ c.spilled q.cls → ∃ t, exec .post s = .next t ∧ acked t 1 0 ∧ t.mem = s.mem ∧ (t.clu node).cairn = (s.clu node).cairn) ∧
          ∀ pa mt e, c.spilled q.cls < ring → s.ringWay node vd p.id (ringVa d (v.ofNode node) (c.tail q.cls)) 2 = (.ok pa mt, e) →
            s.populated pa = true → s.pcFailed pa = false → s.owed pa 32 = false → s.memWaits vd pa = false →
            let u := (((s.portCycle node).ringTook node vd p.id e).updCairn node vd fun c => { c with waitPg := none }).trace
              { pa := pa, size := 32, cls := .store, kind := .s, vd := vd, src := p.dst }
            let record := [BitVec.ofNat 64 (q.key * 2 ^ 24 + q.cls * 2 ^ 20), q.val, BitVec.ofNat 64 c.counter, 0]
            ∃ t, exec .post s = .next t ∧ acked t 0 2 ∧ (t.clu node).cairn = (s.clu node).cairn ∧
              t.mem = (((u.runServe vd pa 32 mt).ownFrame pa vd).pokeRun pa mt record []).mem ∧
              (t.cairnVd node vd).tail q.cls = (c.tail q.cls + 1) % 2 ^ 21 ∧ (t.cairnVd node vd).counter = c.counter + 1))) ∧
    (∀ (lev cls : Nat) (e : CairnEntry) (a vd slot : Nat),
      let node := nodeKey s.arg.chip s.arg.node
      let k := s.activeKey node a
      s.select node = some (lev, cls, e, a) → s.vdAt node = some (vd, v) → s.refillDue node = false → (s.core k).slotFor lev = some slot →
        slot < (s.core k).slots.length → ∃ t, exec .claim s = .next t ∧ t.mem = s.mem ∧
        (t.clu node).cairn = (s.clu node).cairn.filter (fun x => x != e) ∧ (∀ j, j ≠ k → t.core j = s.core j) ∧
        ∃ sl, (t.core k).slots = (s.core k).slots.set slot sl ∧ sl.st = .reserved ∧ sl.lev = lev ∧ sl.msg.ty = 0x10 + cls ∧
          sl.msg.args = [BitVec.ofNat 64 e.key, e.val, (v.cls cls).getD 3 0, BitVec.ofNat 64 (cls * 2 ^ 60 + e.seq % 2 ^ 58)]) ∧
    (let k := coreKey s.arg.chip s.arg.node s.arg.slot
     let i := s.arg.index
     ∀ sl, (s.core k).slots[i]? = some sl → ∃ t, exec .eventDelivery s = .next t ∧ t.mem = s.mem ∧
      (t.core k).slots[i]? = some (if sl.st = .reserved then { sl with st := .pending } else sl) ∧
      ∀ j, j ≠ i → (t.core k).slots[j]? = (s.core k).slots[j]?) ∧
    (∀ (vd cls va pa mt : Nat) (e : Option TlbEntry),
      let node := nodeKey s.arg.chip s.arg.node
      s.refillClass node = some (vd, cls, va) → (s.select node = none ∧ s.postReady node = false) ∨ s.refillDue node = true →
        s.vdev? vd = some v → s.ringWay node vd 0 va 1 = (.ok pa mt, e) → s.owed pa 32 = false → s.memWaits vd pa = false →
        let u := (((s.ringTook node vd 0 e).updClu node fun c => { c with starved := 0 }).trace
          { pa := pa, size := 32, cls := .load, kind := .s, vd := vd, src := ⟨node / 1024, node % 1024, 12⟩ }).runServe vd pa 32 mt
        let w := ((tab 4 id).foldl (fun (x : State) i => x.correct (pa + 8 * i)) u).peekRun pa 32
        let key := (w.getD 0 0).toNat / 2 ^ 24
        let rcls := (w.getD 0 0).toNat / 2 ^ 20 % 16
        let op := ((v.cls rcls).getD 0 0).toNat / 2 ^ 60 % 8
        let val := if op = 0 ∨ op = 2 ∨ op = 3 ∨ op = 4 then BitVec.ofNat 64 ((w.getD 1 0).toNat % 2 ^ 32) else w.getD 1 0
        ∃ t, exec .refill s = .next t ∧ t.mem = u.mem ∧
          (t.cairnVd node vd).head cls = ((s.cairnVd node vd).head cls + 1) % 2 ^ 21 ∧ (t.clu node).starved = 0 ∧
          ((∀ x ∈ (s.clu node).cairn, ¬ (x.vd = vd ∧ x.key = key)) → (t.clu node).cairn = (s.clu node).cairn ++
            [⟨vd, key, rcls, val, (w.getD 2 0).toNat % 2 ^ 58⟩]) ∧
          ((∃ x ∈ (s.clu node).cairn, x.vd = vd ∧ x.key = key) → (t.clu node).cairn = (s.clu node).cairn.map fun x =>
            if x.vd = vd ∧ x.key = key then { x with val := foldVal (clsOp (v.cls x.cls)) x.val val } else x)) ∧
    (∀ (o : Op) (q : Post) (strict : Option Nat),
      let k := coreKey s.arg.chip s.arg.node s.arg.slot
      let posts := (s.core k).ops.filter fun x => x.isPost.isSome
      posts[s.arg.index]? = some o → o.work = .post q strict → o.st = .held → s.vdev? (s.core k).owner = some v →
        (∀ x ∈ posts.take s.arg.index, x.lev ≠ o.lev ∨ x.isPost.map Post.key ≠ some q.key) → (s.core k).clearToGo o = true → s.sendsNow k = true →
        ∃ t a, exec .postSend s = .next t ∧ a ∈ t.pkts ∧ a.src = coreUnit k ∧
          a.dst = ⟨(v.place (q.key % v.clusters)).1, (v.place (q.key % v.clusters)).2, 12⟩ ∧ a.payload = .post q o.id ∧
          (∀ x ∈ (t.core k).ops, x.id = o.id → x.st = .sent) ∧ (t.core k).evActs = (s.core k).evActs + 1 ∧ t.mem = s.mem) ∧
    (∀ (op st out : Nat) (o : Op) (q : Post) (strict : Option Nat),
      let k := p.dst.core
      let l := lvOf o.lev
      let x := s.lvl k l
      let quiet := ∀ y ∈ (s.core k).ops, y.st = .held → y.readsLine = false
      s.arrivedPkt = some p → p.payload = .postAck op st out → ((s.core k).ops.find? fun y => y.id == op) = some o →
        o.work = .post q strict →
        (st = 0 → strict = none → ∃ t, exec .postAck s = .next t ∧ (∀ y ∈ (t.core k).ops, y.id ≠ op) ∧ (quiet → t.mem = s.mem) ∧
          ∀ m, (t.lvl k m).x = (s.lvl k m).x) ∧
        (∀ rd n, st = 0 → strict = some rd → rd < 32 → x.isAct o.act = true → x.wait = .evposts op n →
          ∃ t, exec .postAck s = .next t ∧ (∀ y ∈ (t.core k).ops, y.id ≠ op) ∧ (quiet → t.mem = s.mem) ∧ (t.lvl k l).wait = .ready ∧
            (t.lvl k l).rx (BitVec.ofNat 5 rd) = (if rd = 0 then 0 else BitVec.ofNat 64 out) ∧
            ∀ r : XReg, r.toNat ≠ rd → (t.lvl k l).rx r = x.rx r) ∧
        (st = 1 → strict = none → ∃ t, exec .postAck s = .next t ∧
          (∀ y ∈ (t.core k).ops, y.id = op → ∃ n, y.st = .backoff n ∧ s.now + 64 ≤ n ∧ n ≤ s.now + 1024) ∧
          ((s.core k).evretry.toNat < 0xFFFFFFFF → (t.core k).evretry = (s.core k).evretry + 1) ∧ (quiet → t.mem = s.mem)) ∧
        (st = 1 → strict ≠ none → x.isAct o.act = true → o.quiet = false → ∃ t, exec .postAck s = .next t ∧
          (t.lvl k l).trapcause = BitVec.ofNat 64 (0x400 + l.val * 256 + 0x12) ∧
          (t.lvl k l).trapval = BitVec.ofNat 64 (q.cls * 2 ^ 40 + q.key) ∧ (t.lvl k l).trappc = o.pc)) ∧
    (s.vdev? s.arg.vd = some v → v.running = false → exec .quiescenceSweep s = .next s) ∧
    (s.vdev? s.arg.vd = some v → v.running = true →
      let calm := v.nodes.all fun n => s.nodeQuiet v s.arg.vd (nodeKey n.1 n.2)
      let sum := s.activity v s.arg.vd
      ∃ t, exec .quiescenceSweep s = .next t ∧ t.mem = s.mem ∧
        (∀ v', t.vdev? s.arg.vd = some v' → v'.sweep = if calm then some sum else none) ∧
        ∀ n l rd b once, n < v.cores → rd < 32 → (s.core (s.vdCoreKey v n)).owner = s.arg.vd →
          (s.lvl (s.vdCoreKey v n) l).wait = .evquiet rd b once →
          let y := t.lvl (s.vdCoreKey v n) l
          (calm = true ∧ v.sweep = some sum → y.wait = .ready ∧ y.rx (BitVec.ofNat 5 rd) = (if rd = 0 then 0 else 1)) ∧
          (¬ (calm = true ∧ v.sweep = some sum) → once = true → y.wait = .ready ∧ y.rx (BitVec.ofNat 5 rd) = 0) ∧
          (¬ (calm = true ∧ v.sweep = some sum) → once = false → y = s.lvl (s.vdCoreKey v n) l)) ∧
    (let k := coreKey s.arg.chip s.arg.node s.arg.slot
     ∀ rd bound once, (s.lvl k s.arg.lev).wait = .evquiet rd bound once → rd < 32 →
      (once = true ∨ s.now < bound → exec .evquietTimeout s = .next s) ∧
      (once = false → bound ≤ s.now → ∃ t, exec .evquietTimeout s = .next t ∧ OnlyCore k s t ∧ (t.lvl k s.arg.lev).wait = .ready ∧
        (t.lvl k s.arg.lev).rx (BitVec.ofNat 5 rd) = 0 ∧ ∀ r : XReg, r.toNat ≠ rd → (t.lvl k s.arg.lev).rx r = (s.lvl k s.arg.lev).rx r))

/-- MESSAGE_ARRIVAL, DISPATCH_ENTRY_FILL, ACTIVATION_START, AREAD_REPLY, ADOPT_SERVICE and ADOPT_ANSWER. The answers to a dispatch entry
that cannot be read are the model's reading (log entry 129). (R128, R205, R210, R211, R212, R213, R214, R217, R219, R353, R357, R435) -/
def Obligations.ActivationsStart : Prop :=
  ∀ (s : State) (p : Packet),
    (∀ (m : Msg) (op : Nat) (v : VDev),
      let k := p.dst.core
      let c := s.core k
      let answered := fun (t : State) (pay : Payload) => ∃ a ∈ t.pkts, a.src = p.dst ∧ a.dst = p.src ∧ a.payload = pay
      let taken := fun (t : State) (i : Nat) (n : Msg) => (t.core k).slots = c.slots.set i ⟨.pending, n, n.lev, s.now, none, 0⟩
      s.arrivedPkt = some p → p.payload = .message m op → op ≠ 0 → s.vdev? p.vd = some v → s.draining p.vd p.src p.dst = false →
      v.running = true → v.step < 6 → c.owner = p.vd →
        (c.run = .stopped ∨ c.run = .frozen → ∃ t, exec .messageArrival s = .next t ∧ answered t (.resp op 7 0 none) ∧ t.cores = s.cores) ∧
        (c.run = .lost → ∃ t, exec .messageArrival s = .next t ∧ answered t (.resp op 3 0 none) ∧ t.cores = s.cores) ∧
        (c.run = .running → m.ty ≠ 1 → c.filling = true → ∃ t, exec .messageArrival s = .next t ∧ answered t (.nack op false) ∧
          t.cores = s.cores) ∧
        (∀ i, c.run = .running → m.ty = 1 → c.slotFor m.lev = some i → ∃ t, exec .messageArrival s = .next t ∧ taken t i m ∧
          answered t (.resp op 0 0 none) ∧ t.mem = s.mem) ∧
        (c.run = .running → m.ty = 1 → c.slotFor m.lev = none → ∃ t, exec .messageArrival s = .next t ∧ answered t (.nack op true) ∧
          t.cores = s.cores ∧ t.mem = s.mem) ∧
        (∀ e, c.run = .running → c.filling = false → 0x20 ≤ m.ty → AMap.find? c.disp m.ty = some e →
          (e.v = false ∨ e.code ≠ m.code.isSome → ∃ t, exec .messageArrival s = .next t ∧ answered t (.resp op 3 0 none) ∧ t.cores = s.cores) ∧
          (∀ i, e.v = true → e.code = m.code.isSome → c.slotFor e.lev = some i → ∃ t, exec .messageArrival s = .next t ∧
            taken t i { m with pc := e.pc, lev := e.lev, schk := e.schk } ∧ answered t (.resp op 0 0 none) ∧ t.mem = s.mem) ∧
          (e.v = true → e.code = m.code.isSome → c.slotFor e.lev = none → ∃ t, exec .messageArrival s = .next t ∧
            answered t (.nack op false) ∧ t.cores = s.cores)) ∧
        (∀ pa mt, c.run = .running → c.filling = false → 0x20 ≤ m.ty → AMap.find? c.disp m.ty = none → AMap.find? c.dispBad op = none →
          s.entryWay k m.ty = .ok pa mt → ∃ t ops, exec .messageArrival s = .next t ∧ AMap.find? (t.core k).dispAsk m.ty = some ops ∧
            op ∈ ops ∧ answered t (.nack op false) ∧ t.mem = s.mem) ∧
        (∀ st, c.run = .running → c.filling = false → 0x20 ≤ m.ty → AMap.find? c.disp m.ty = none → AMap.find? c.dispBad op = some st →
          ∃ t, exec .messageArrival s = .next t ∧ answered t (.resp op st 0 none) ∧ AMap.find? (t.core k).dispBad op = none ∧ t.mem = s.mem) ∧
        (∀ e, c.run = .running → c.filling = false → m.ty = 3 ∨ m.ty = 4 → AMap.find? c.disp m.ty = some e →
          let n := { m with
            pc := e.pc, lev := if m.ty = 4 then m.lev else e.lev, schk := e.schk, launch := if m.ty = 3 then v.oldest else m.launch }
          (e.v = false → ∃ t, exec .messageArrival s = .next t ∧ t.cores = s.cores ∧ t.mem = s.mem ∧ ∀ a ∈ t.pkts, a.id ≠ p.id) ∧
          (∀ i, e.v = true → c.slotFor n.lev = some i → ∃ t, exec .messageArrival s = .next t ∧ taken t i n ∧ t.mem = s.mem) ∧
          (e.v = true → c.slotFor n.lev = none → ∃ t, exec .messageArrival s = .next t ∧ answered t (.nack op false) ∧
            t.cores = s.cores))) ∧
    (let k := coreKey s.arg.chip s.arg.node s.arg.slot
     let ty := s.arg.ty.toNat
     ∀ ops, AMap.find? (s.core k).dispAsk ty = some ops → (s.core k).loading = false →
      let ends := fun (status : Nat) => ∃ t, exec .dispatchEntryFill s = .next t ∧ AMap.find? (t.core k).dispAsk ty = none ∧
        t.mem = s.mem ∧ (∀ op ∈ ops, AMap.find? (t.core k).dispBad op = some status) ∧ (t.core k).disp = (s.core k).disp
      (∀ val, s.entryWay k ty = .denied val → ends 2) ∧
      (∀ pa mt, s.entryWay k ty = .ok pa mt → s.populated pa = false → ends 3) ∧
      ∀ pa mt, s.entryWay k ty = .ok pa mt → s.populated pa = true → s.badRun pa 16 = false → s.owed pa 16 = false →
        s.memWaits (s.core k).owner pa = false →
      let u := s.entryRead k pa mt
      ∃ t, exec .dispatchEntryFill s = .next t ∧ AMap.find? (t.core k).dispAsk ty = none ∧ t.mem = u.mem ∧
        (∀ j, j ≠ k → t.core j = u.core j) ∧ AMap.find? (t.core k).disp ty = some ⟨BitVec.ofNat 64 (s.peek pa 8) &&& ~~~1, (BitVec.ofNat 64 (s.peek (pa + 8) 8) : Word).getLsbD 7,
          (BitVec.ofNat 64 (s.peek (pa + 8) 8) : Word).getLsbD 6, (BitVec.ofNat 64 (s.peek (pa + 8) 8) : Word).getLsbD 5, s.peek (pa + 8) 8 % 4⟩) ∧
    (let k := coreKey s.arg.chip s.arg.node s.arg.slot
     let l := s.arg.lev
     let c := s.core k
     let begun := fun (t : State) (pc : Word) (schk : Bool) (args : List Word) (a : Act) =>
      let y := t.lvl k l
      y.pc = pc ∧ y.act = some a ∧ y.acts = (c.lvl l).acts + 1 ∧ (∀ i, i < 4 → y.rx (BitVec.ofNat 5 (10 + i)) = args.getD i 0) ∧
        y.fcr = 0 ∧ y.stallchk = (if schk then 1 else 0) ∧ y.inlineN = 0 ∧ y.rbase = 0 ∧ y.lcount = 0 ∧ y.pend = [] ∧ y.ilock = [] ∧
        y.wait = .ready ∧ y.held = c.floorSets l ∧ (∀ n ∈ y.rope.drop 1, n = none) ∧ y.streams = [none, none, none, none] ∧ t.mem = s.mem
     ((c.lvl l).act = none → c.run = .running → c.taking = true → exec .activationStart s = .next s) ∧
     ((c.lvl l).act = none → c.run = .running → c.filling = false → s.starts k = true →
      (oldestStarter (c.starters l) = none → ∃ t, exec .activationStart s = .next t ∧ t.mem = s.mem ∧ ∀ j, t.core j = s.core j) ∧
      (∀ i n, oldestStarter (c.starters l) = some (.slot i, n) →
        let sl := c.slots.getD i {}
        let m := sl.msg
        let e := AMap.get c.disp {} m.ty
        let act : Act := ⟨m.ty, m.launch, i, s.now, m.tile, m.code, m.code.isSome⟩
        (¬ (0x10 ≤ m.ty ∧ m.ty ≤ 0x1F) → ∃ t, exec .activationStart s = .next t ∧
          begun t (if m.code.isSome then 0x8000000000000000 else m.pc) m.schk m.args act ∧
          (t.core k).slots = c.slots.set i { sl with st := .running, post := none }) ∧
        (0x10 ≤ m.ty → m.ty ≤ 0x1F → e.v = true → ∃ t, exec .activationStart s = .next t ∧ begun t e.pc e.schk m.args act)) ∧
      (∀ g n x, l = 3 → oldestStarter (c.starters l) = some (.forward g, n) → (c.lvl g).trap = some x →
        ∃ t, exec .activationStart s = .next t ∧ (t.lvl k 3).pc = (AMap.get c.disp {} 5).pc ∧ t.mem = s.mem ∧
          (∃ a, (t.lvl k 3).act = some a ∧ a.ty = 5 ∧ a.slot = 16 + g.val) ∧ (t.lvl k 3).trapcause = x.args.getD 0 0 ∧
          (t.lvl k 3).trappc = x.resume ∧ (t.lvl k 3).trapval = x.args.getD 2 0 ∧ (t.lvl k 3).trapaddr = x.args.getD 3 0 ∧
          (g ≠ 3 → ∃ r, (t.lvl k g).trap = some r ∧ r.running = true)) ∧
      (∀ tag n x, oldestStarter (c.starters l) = some (.tag tag, n) → (c.tagPend.find? fun y => y.1 == tag) = some x →
        ∃ t, exec .activationStart s = .next t ∧ begun t x.2.1.pc x.2.1.schk x.2.1.args ⟨2, x.2.1.launch, 99, s.now, [], none, false⟩ ∧
          tag ∉ (t.core k).tagBusy))) ∧
    (∀ (op st : Nat) (data : List Byte) (o : Op) (pa len tag dst : Nat) (args : List Word),
      let k := p.dst.core
      let e := AMap.get (s.core k).tags {} tag
      s.arrivedPkt = some p → p.payload = .areadReply op st data → ((s.core k).ops.find? fun x => x.id == op) = some o →
        o.work = .aread pa len tag dst args → s.landingWaits p = false →
        let u := (s.dropPkt p.id).trace
          { pa := scratchPa k dst, size := len, cls := .store, kind := .w, vd := p.vd, src := p.src, rope := o.name }
        let quiet := ∀ y ∈ (s.core k).ops, y.st = .held → y.readsLine = false
        ∃ t m, exec .areadReply s = .next t ∧ (∀ x ∈ (t.core k).ops, x.id ≠ op) ∧
          (t.core k).tagPend = (s.core k).tagPend ++ (if (s.core k).run = .running then [(tag, m, s.now)] else []) ∧ m.ty = 2 ∧ m.args = args.set 2 (BitVec.ofNat 64 st) ∧
          m.pc = e.pc ∧ m.lev = e.lev ∧ m.launch = o.launch ∧ (quiet → st ≠ 0 → t.mem = s.mem) ∧
          (quiet → st = 0 → t.mem = (u.pokeRun (scratchPa k dst) 2
            (tab (len / 8) fun i => BitVec.ofNat 64 (leNat ((data.drop (8 * i)).take 8))) []).mem)) ∧
    ∀ (i : Instr) (h : Word) (op : Nat), i = .adoptService ∨ i = .adoptAnswer → s.arrivedPkt = some p → p.payload = .adopt h op →
      s.draining p.vd p.src p.dst = false →
      ((s.core p.dst.core).adoptPassed h = false → exec i s = .next s) ∧
      ((s.core p.dst.core).adoptPassed h = true → ∃ t a, exec i s = .next t ∧ a ∈ t.pkts ∧ a.src = p.dst ∧ a.dst = p.src ∧
        a.payload = .adopted op ∧ t.cores = s.cores ∧ t.mem = s.mem)

/-- TABLE_WALK, PAGE_ANSWER, PAGEANS_RETRY, PAGEANS_DENY, TLB_INVALIDATION_ACK, S2INV_PAGE, S2INV_ALL and LINE_CLEAR.
(R32, R33, R34, R35, R39, R42, R75, R76, R368, R466) -/
def Obligations.WalksAndInvalidations : Prop :=
  ∀ (s : State),
    (∀ w, (s.walks.find? fun x => x.id == s.arg.id && x.asked.isNone && s.walkGoes x) = some w →
      let res := s.walkVa w.vd s.arg.flag (w.page * 2 ^ 16)
      (s.walkWaits w res.seen = true → exec .tableWalk s = .next s) ∧
      (s.walkWaits w res.seen = false →
      let gone := fun (t : State) => ∀ x ∈ t.walks, x.id ≠ w.id
      let more := fun (k l act : Nat) => ∃ x ∈ s.walks, x.id ≠ w.id ∧ .level k l act ∈ x.who
      let told := fun (t : State) (y : Xlate) => ∀ k l act, .level k l act ∈ w.who →
        let old := s.lvl k (lvOf l)
        let new := t.lvl k (lvOf l)
        new.x = old.x ∧ (old.wait = .page → old.acts = act →
          AMap.find? new.xl w.page = some y ∧ (¬ more k l act → new.wait = .ready))
      (∀ e seen, res = .hit e seen → ∃ t, exec .tableWalk s = .next t ∧ gone t ∧ t.mem = (s.walkerReads w seen).mem ∧
        told t (.hit e) ∧ (∀ x ∈ seen, (⟨w.vd, x.1, x.2⟩ : WalkEntry) ∈ t.wcache) ∧
        (∀ k l act, .level k l act ∈ w.who → e ∈ (t.core k).tlb) ∧ (∀ k ty, .dispatch k ty ∈ w.who → e ∈ (t.core k).tlb) ∧
        (∀ n vd i, .cairn n vd i ∈ w.who → e ∈ (t.clu n).tlb) ∧ (∀ n i, .landing n i ∈ w.who → e ∈ (t.clu n).tlb) ∧
        ∀ n k, .copyUnit n k ∈ w.who → e ∈ (t.clu n).tlb) ∧
      (∀ val bad seen, res = .denied val bad seen → ∃ t, exec .tableWalk s = .next t ∧ gone t ∧ t.mem = (s.walkerReads w seen).mem ∧
        told t (.denied val) ∧ t.wcache = s.wcache ∧ (∀ k, (t.core k).tlb = (s.core k).tlb) ∧
        ∀ r, bad = some r → ∃ n, r ∈ (t.chip n).reports) ∧
      (∀ c seen, res = .lost c seen → ∃ t, exec .tableWalk s = .next t ∧ gone t ∧ t.mem = (s.walkerReads w seen).mem ∧ told t (.lost c) ∧
        ∀ k, (t.core k).tlb = (s.core k).tlb) ∧
      (∀ st lv page seen, res = .ask st lv page seen → ∃ t, exec .tableWalk s = .next t ∧
        (∃ x ∈ t.walks, x.id = w.id ∧ x.asked = some (st, page, lv)) ∧ (∀ k l, t.lvl k l = s.lvl k l) ∧
        (∀ n k, .copyUnit n k ∈ w.who → ∀ x rest, (s.core k).chan.queue = x :: rest →
          (t.core k).chan.queue = { x with parked := true } :: rest) ∧
        (st ≠ 2 → t.mem = (s.walkerReads w seen).mem)))) ∧
    (∀ (w : Walk), (∀ (q : Walker), q ∈ w.who → ∃ k l act, q = .level k l act) → (s.walkGoes w = true ↔ ∃ k l act, .level k l act ∈ w.who ∧
      let before := s.walks.takeWhile fun x => x.id != w.id
      (before.filter fun x => x.asked.isNone && x.who.any fun y =>
        y.die.isSome && y.die == some (keyChip k * 4 + nodeDie (keyNode k))).length < 16 ∧
      (before.filter fun x => x.who.any fun y => y.missCore == some k).length < 8)) ∧
    (∀ i st, (i = .pageAnswer ∧ st = s.arg.index ∧ s.arg.flag = false) ∨ (i = .pageansRetry ∧ st = 2) → ∃ t, exec i s = .next t ∧
      t.cores = s.cores ∧ t.mem = s.mem ∧ ∀ w ∈ s.walks, if w.waitsOn s.arg.vd st s.arg.addr then { w with asked := none } ∈ t.walks else w ∈ t.walks) ∧
    (∀ i st, (i = .pageAnswer ∧ st = s.arg.index ∧ s.arg.flag = true) ∨ (i = .pageansDeny ∧ st = 2) → ∃ t, exec i s = .next t ∧ t.mem = s.mem ∧
      ∀ w ∈ s.walks, w.waitsOn s.arg.vd st s.arg.addr = true → (∀ x ∈ t.walks, x.id ≠ w.id) ∧
        ∀ k l act, .level k l act ∈ w.who → (s.lvl k (lvOf l)).wait = .page → (s.lvl k (lvOf l)).acts = act →
          (t.lvl k (lvOf l)).x = (s.lvl k (lvOf l)).x ∧
          ((∀ y ∈ s.walks, y.waitsOn s.arg.vd st s.arg.addr = false → .level k l act ∉ y.who) → (t.lvl k (lvOf l)).wait = .ready)) ∧
    (∀ i, let node := nodeKey s.arg.chip s.arg.node
      let key := fun (n : Nat) => coreKey s.arg.chip s.arg.node n
      let keep := fun (tlb : List TlbEntry) => tlb.filter fun e => !e.covered i.vd i.page
      (s.invals.find? fun x => x.id == s.arg.id) = some i → AMap.find? i.left node = some none →
      (∀ n, n < 9 → (s.core (key n)).coveredOps i.vd i.page = []) → s.savedCovered i.vd i.page = false → ∃ t, exec .tlbInvalidationAck s = .next t ∧ t.mem = s.mem ∧
        (∀ n, n < 9 → (t.core (key n)).tlb = keep (s.core (key n)).tlb) ∧ (t.clu node).tlb = keep (s.clu node).tlb ∧
        (∀ w ∈ t.wcache, i.vd ≠ 0 ∧ w.vd ≠ i.vd) ∧
        ∀ k l, i.left = [(node, none)] → i.core = some (k, l) → (s.lvl k (lvOf l)).wait = .tlbinv i.id →
          (t.lvl k (lvOf l)).wait = .ready ∧ ∀ x ∈ t.invals, x.id ≠ i.id) ∧
    (∀ i page, (i = .s2invPage ∧ page = some (s.arg.addr * 2 ^ 16, true)) ∨ (i = .s2invAll ∧ page = none) → ∃ t, exec i s = .next t ∧
      t.mem = s.mem ∧ t.cores = s.cores ∧ (∀ w ∈ t.wcache, s.arg.vd ≠ 0 ∧ w.vd ≠ s.arg.vd) ∧
      ((∃ n m, n < 1024 ∧ m < 9 ∧ (AMap.find? s.cores (coreKey s.arg.chip n m)).isSome) → s.nextId ∈ (t.chip s.arg.chip).s2inv ∧
        ∃ x ∈ t.invals, x.id = s.nextId ∧ x.vd = s.arg.vd ∧ x.page = page ∧ x.core = none)) ∧
    (s.arg.addr ∉ s.clear → s.untouched (s.arg.addr * 256) = false → exec .lineClear s = .next s) ∧
    (s.arg.addr ∈ s.clear ∨ s.untouched (s.arg.addr * 256) = true → ∃ t, exec .lineClear s = .next t ∧ s.arg.addr ∉ t.clear ∧
      t.untouched (s.arg.addr * 256) = false ∧ t.cores = s.cores ∧
      (∀ w ∈ t.fe, w / 32 ≠ s.arg.addr) ∧ ∀ a, t.mem.read a = if a / 256 = s.arg.addr then 0 else s.mem.read a)

/-- COPY_SECTOR, and the words of a sector that travel to other nodes. (R36, R68, R87, R98, R142, R143, R144, R335, R369, R370,
R372) -/
def Obligations.CopiesMove : Prop :=
  ∀ (s : State) (x : Xfer) (rest : List Xfer),
    let k := coreKey s.arg.chip s.arg.node s.arg.slot
    let c := s.core k
    let unit : UnitId := ⟨keyChip k, keyNode k, 9⟩
    let checked := s.check k x.launch (s.clu (keyCluster k)).tlb x.xl false (sectorEls x.snap x.sector)
    let sectorEnds := fun (t : State) (k : Nat) (d : Core) =>
      (sectorCount x.snap ≤ x.sector + 1 → (t.core k).chan.done = BitVec.ofNat 64 x.id ∧
        ∀ (l : Level) n, (d.lvl l).wait = .waitx n → n ≤ x.id → (t.lvl k l).wait = .ready) ∧
      (x.sector + 1 < sectorCount x.snap → (t.core k).chan.done = d.chan.done ∧
        (t.core k).chan.queue.head? = some { x with sector := x.sector + 1, xl := [], flight := [] })
    (c.chan.queue = x :: rest → s.channelRuns k = true → x.parked = false → x.retry = false → x.flight = [] → (∀ o ∈ c.ops, o.id ∉ x.after) →
      (copyBytes x.snap = 0 → ∃ t, exec .copySector s = .next t ∧ t.mem = s.mem ∧ (t.core k).chan.done = BitVec.ofNat 64 x.id ∧
        ∀ (l : Level) n, (c.lvl l).wait = .waitx n → n ≤ x.id → (t.lvl k l).wait = .ready) ∧
      (∀ pages, copyBytes x.snap ≠ 0 → checked = .wait pages → ∃ t, exec .copySector s = .next t ∧ t.mem = s.mem ∧
        (t.core k).chan.queue = { x with parked := t.waitsPager (.copyUnit (keyCluster k) k) } :: rest ∧ (∀ j l, t.lvl j l = s.lvl j l) ∧
        ∀ p ∈ pages, ∃ w ∈ t.walks, w.vd = c.owner ∧ w.page = p ∧ .copyUnit (keyCluster k) k ∈ w.who) ∧
      (∀ cause val addr, copyBytes x.snap ≠ 0 → checked = .fail cause val addr → ∃ t, exec .copySector s = .next t ∧
        (t.core k).chan.done = BitVec.ofNat 64 x.id) ∧
      (∀ ps, copyBytes x.snap ≠ 0 → checked = .ok ps → (∀ q ∈ ps, s.draining c.owner (ownerOf q.pa) (ownerOf q.pa) = false) →
        s.sectorWaits k ps = true → exec .copySector s = .next (s.sectorAsk k ps)) ∧
      ∀ ps, copyBytes x.snap ≠ 0 → checked = .ok ps → (∀ q ∈ ps, s.draining c.owner (ownerOf q.pa) (ownerOf q.pa) = false) →
        s.sectorWaits k ps = false →
        (∀ q ∈ ps, s.populated q.pa = true ∧ s.pcFailed q.pa = false ∧ (q.el.cls = .load → s.isBad q.pa = false)) →
        let fe := (x.snap.getD 9 0).getLsbD 0
        let words := pairUp ps
        let u := words.foldl (fun (y : State) w => ((y.trace (copyAcc k c.owner w.1)).lineServe c.owner w.1.pa w.1.mt).correct w.1.pa) (s.sectorUse k ps)
        let vals := words.map fun w =>
          (w.2, (w.2.pa, w.2.mt, (BitVec.ofNat 64 (u.peek w.1.pa 8) : Word), if fe then some (u.isFull w.1.pa) else none))
        let near := fun (p : Placed) => (ownerOf p.pa).chip = keyChip k ∧ (ownerOf p.pa).node = keyNode k
        ∃ t, exec .copySector s = .next t ∧
          t.mem = ((vals.filter fun v => decide (near v.1)).foldl (fun (y : State) v =>
            y.copyWord unit c.owner v.2.1 v.2.2.1 v.2.2.2.1 v.2.2.2.2) u).mem ∧
          ((∀ v ∈ vals, near v.1) → sectorEnds t k c) ∧
          ((∃ v ∈ vals, ¬ near v.1) → (t.core k).chan.done = c.chan.done ∧ ∃ y, (t.core k).chan.queue = y :: rest ∧
            { y with flight := [] } = x ∧
            (∀ v ∈ vals, ¬ near v.1 → ∃ f ∈ y.flight, f.dst = ownerOf v.1.pa ∧ v.2 ∈ f.words ∧
              ∃ q ∈ t.pkts, q.src = unit ∧ q.dst = f.dst ∧ q.plane = .data ∧ q.payload = .copyData k f.id f.words) ∧
            ∀ f ∈ y.flight, ∀ w ∈ f.words, ∃ v ∈ vals, ¬ near v.1 ∧ v.2 = w ∧ f.dst = ownerOf v.1.pa)) ∧
    (∀ (p : Packet) (k part : Nat) (ws : List (Nat × Nat × Word × Option Bool)), s.arrivedPkt = some p →
      p.payload = .copyData k part ws →
      let acked := fun (t : State) (st : Nat) => ∃ q ∈ t.pkts, q.src = p.dst ∧ q.dst = p.src ∧ q.payload = .copyAck k part st
      (s.draining p.vd p.src p.dst = true → ∃ t, exec .perform s = .next t ∧ acked t 5 ∧ t.mem = s.mem) ∧
      (s.draining p.vd p.src p.dst = false → s.copying p.dst = true → ∃ t, exec .perform s = .next t ∧ acked t 1 ∧ t.mem = s.mem) ∧
      (s.draining p.vd p.src p.dst = false → s.copying p.dst = false → s.portTurn p = true →
        (∀ w ∈ ws, s.owed w.1 8 = false ∧ s.memWaits p.vd w.1 = false) →
        ((∀ w ∈ ws, s.pcFailed w.1 = false) → ∃ t, exec .perform s = .next t ∧ acked t 0 ∧
          t.mem = (ws.foldl (fun (y : State) w => y.copyWord p.src p.vd w.1 w.2.1 w.2.2.1 w.2.2.2) (s.portServed p.dst p.input)).mem))) ∧
    ∀ (p : Packet) (k part st : Nat) (f : CopyPart), s.arrivedPkt = some p → p.dst.unit = 9 → p.payload = .copyAck k part st →
      (s.core k).chan.queue = x :: rest → (x.flight.find? fun g => g.id == part) = some f →
      let left := x.flight.filter fun g => g.id != part
      let bad := if st = 0 then x.bad else some (x.bad.getD ((statusCause st).1, (statusCause st).2, f.va))
      (st = 1 → ∃ t y, exec .response s = .next t ∧ t.mem = s.mem ∧ (t.core k).chan.queue = y :: rest ∧ { y with flight := x.flight } = x ∧
        ∀ g ∈ y.flight, g.id = part → ∃ n, g.again = some n ∧ s.now + 64 ≤ n ∧ n ≤ s.now + 1024) ∧
      (st ≠ 1 → left ≠ [] → ∃ t, exec .response s = .next t ∧ t.mem = s.mem ∧
        (t.core k).chan.queue = { x with flight := left, bad := bad } :: rest ∧ (t.core k).chan.done = (s.core k).chan.done) ∧
      (st ≠ 1 → left = [] → bad = none → ∃ t, exec .response s = .next t ∧ t.mem = s.mem ∧ sectorEnds t k (s.core k)) ∧
      (st ≠ 1 → left = [] → bad ≠ none → ∃ t, exec .response s = .next t ∧ t.mem = s.mem ∧
        (t.core k).chan.done = BitVec.ofNat 64 x.id)

/-- LAUNCH_START, ENTRY_PRESENTATION and LAUNCH_COMPLETION. (R230, R241, R242, R243, R247, R248, R439) -/
def Obligations.LaunchesRun : Prop :=
  ∀ (s : State) (v : VDev),
    let vd := s.arg.vd
    let finished := fun (t : State) (q idx id : Nat) => ∃ v', t.vdev? vd = some v' ∧ (∀ j ∈ v'.launches, j.id ≠ id) ∧
      (id < v'.lwmark ∨ id ∈ v'.doneIds) ∧ (q < v.queues.length → idx < (v'.queue q).head ∨ idx ∈ (v'.queue q).done)
    let status := fun (id cause st : Nat) => [(BitVec.ofNat 64 (id * 2 ^ 16 + cause * 2 ^ 8 + st) : Word)]
    (let r := (s.retryEnqueues vd).retryFailing vd
     let u := (r.offers vd v).2
     let ready := (r.offers vd v).1.filter fun o => v.recordReady o.id o.ws && decide (v.launches.length < 4)
     r.vdev? vd = some v → v.running = true → v.res = .run → v.step = 0 → v.reset = 0 →
      (ready = [] → exec .launchStart s = .next u) ∧
      ∀ o ∈ ready, (∀ p ∈ ready, p ≠ o → recordPrio p.ws < recordPrio o.ws ∨ (recordPrio p.ws = recordPrio o.ws ∧ o.id < p.id)) →
        (v.recordOk o.id o.ws = true → ∃ t v' j, exec .launchStart s = .next t ∧ t.mem = u.mem ∧ t.cores = u.cores ∧
          t.vdev? vd = some v' ∧ v'.launches = v.launches ++ [j] ∧ (v'.queue o.q).next = o.idx + 1 ∧ v'.lwmark = v.lwmark ∧
          j.id = o.id ∧ j.words = o.ws ∧ j.queue = o.q ∧ j.idx = o.idx ∧ j.count = 0 ∧ j.halted = false ∧
          ((∀ n, n < v.cores → (u.core (u.vdCoreKey v n)).run = .running) → j.fault = none ∧ j.next = [])) ∧
        (v.recordOk o.id o.ws = false → u.unitPa (.launch vd (finishKey o.id)) vd (statusVa (u.queueWord vd o.q) o.idx) permW = .ask →
          v.lwmark ≤ o.id → o.id ∉ v.doneIds → ∃ t v', exec .launchStart s = .next t ∧ t.vdev? vd = some v' ∧
            (v'.queue o.q).next = o.idx + 1 ∧ (o.q, o.idx, o.id) ∈ v'.failing) ∧
        ∀ pa mt, v.recordOk o.id o.ws = false →
          u.unitPa (.launch vd (finishKey o.id)) vd (statusVa (u.queueWord vd o.q) o.idx) permW = .ok pa mt → u.unitHeld vd pa 8 = false →
          let past := u.updVd vd fun v => v.updQueue o.q fun qu => { qu with next := o.idx + 1, read := none }
          ∃ t, exec .launchStart s = .next t ∧ finished t o.q o.idx o.id ∧ (∀ v', t.vdev? vd = some v' → (v'.queue o.q).next = o.idx + 1) ∧
            t.mem = (past.unitWrite vd pa mt (status o.id 0 1)).mem) ∧
    (let n := s.arg.index
     let k := s.vdCoreKey v n
     let c := s.core k
     let waits := v.launches.filter fun j => j.waits c n && (c.slotFor (recordLevel j.words)).isSome
     let far := v.launches.filter fun j => j.waits c n
     let home := v.chips.getD 0 0
     s.vdev? vd = some v → v.running = true → v.res = .run → v.step = 0 → v.reset = 0 → n < v.cores → c.run = .running → c.owner = vd →
      (∀ e id t j sl, s.entryPkts vd n = [(e, id, t)] → e.stage = .arrived → v.active id = some j → j.goesOn = true →
        c.slotFor (recordLevel j.words) = some sl → ∃ u, exec .entryPresentation s = .next u ∧ u.mem = s.mem ∧
          (u.core k).slots = c.slots.set sl ⟨.pending, j.entryMsg t, recordLevel j.words, s.now, none, 0⟩ ∧ ∀ q ∈ u.pkts, q.id ≠ e.id) ∧
      (s.entryPkts vd n = [] → keyChip k ≠ home → (far = [] → exec .entryPresentation s = .next s) ∧
        ∀ j ∈ far, (∀ i ∈ far, i ≠ j → recordPrio i.words < recordPrio j.words ∨
            (recordPrio i.words = recordPrio j.words ∧ j.id < i.id)) →
          ∃ t q v', exec .entryPresentation s = .next t ∧ t.mem = s.mem ∧ t.cores = s.cores ∧ q ∈ t.pkts ∧ q.vd = vd ∧
            q.src = ⟨home, AMap.get v.base 0 home, 14⟩ ∧
            q.dst = ⟨(v.place (n / 8)).1, AMap.get v.base 0 (v.place (n / 8)).1, 14⟩ ∧ q.plane = .control ∧
            q.payload = .entry n j.id (AMap.get j.next n n) ∧ t.vdev? vd = some v' ∧ v'.launches = v.launches.map fun i =>
              if i.id = j.id then { i with next := AMap.put i.next n (AMap.get j.next n n + v.cores) } else i) ∧
      (s.entryPkts vd n = [] → keyChip k = home → waits = [] → exec .entryPresentation s = .next s) ∧
      (s.entryPkts vd n = [] → keyChip k = home → ∀ j ∈ waits, (∀ i ∈ waits, i ≠ j → recordPrio i.words < recordPrio j.words ∨
          (recordPrio i.words = recordPrio j.words ∧ j.id < i.id)) →
        ∃ t sl m, exec .entryPresentation s = .next t ∧ c.slotFor (recordLevel j.words) = some sl ∧ t.mem = s.mem ∧
          (∀ k', k' ≠ k → t.core k' = s.core k') ∧
          (t.core k).slots = c.slots.set sl ⟨.pending, m, recordLevel j.words, s.now, none, 0⟩ ∧ m.ty = 0 ∧ m.pc = j.words.getD 0 0 ∧
          m.args = [j.words.getD 1 0, BitVec.ofNat 64 j.id, 0, 0] ∧ m.launch = j.id ∧ m.tile = tileOf j.words (AMap.get j.next n n) ∧
          ∃ v', t.vdev? vd = some v' ∧ v'.launches = v.launches.map fun i =>
            if i.id = j.id then { i with next := AMap.put i.next n (AMap.get j.next n n + v.cores) } else i)) ∧
    ∀ j, s.vdev? vd = some v → v.active s.arg.id = some j → v.running = true → v.reset = 0 → v.step < 6 →
      let w := s.queueWord vd j.queue
      let me := Walker.launch vd (finishKey j.id)
      let sent := ∃ n e, n < v.cores ∧ e ∈ s.entryPkts vd n ∧ e.2.1 = j.id
      (j.entriesLeft v = true ∨ (j.goesOn = true ∧ sent) ∨ (∃ kc ∈ s.cores, kc.2.owner = vd ∧ kc.2.worksFor j.id = true) →
        exec .launchCompletion s = .next s) ∧
      (j.entriesLeft v = false → ¬ sent → (∀ kc ∈ s.cores, kc.2.owner = vd → kc.2.worksFor j.id = false) →
        (∀ pa mt, j.fault = none → s.unitPa me vd (statusVa w j.idx) permW = .ok pa mt → s.unitHeld vd pa 8 = false →
          ∃ t, exec .launchCompletion s = .next t ∧ finished t j.queue j.idx j.id ∧
            t.mem = (s.unitWrite vd pa mt (status j.id 0 0)).mem) ∧
        ∀ f pa mt pf mf ps ms, j.fault = some f → s.unitPa me vd (statusVa w j.idx) permW = .ok pa mt → s.unitHeld vd pa 8 = false →
          s.unitPa me vd (faultVa w j.idx) permW = .ok pf mf →
          let f' := (f.headD 0 + BitVec.ofNat 64 (j.count * 2 ^ 24)) :: f.tail
          let u := s.unitWrite vd pf mf f'
          s.unitHeld vd pf (8 * f'.length) = false → u.unitPa me vd (statusVa w j.idx) permW = .ok ps ms → u.unitHeld vd ps 8 = false →
          ∃ t, exec .launchCompletion s = .next t ∧ finished t j.queue j.idx j.id ∧
            t.mem = (((u.unitWrite vd ps ms (status j.id ((f.headD 0).toNat % 256) 2)).untold me).ringEntry (v.chips.getD 0 0) 2 vd
              (BitVec.ofNat 64 (j.queue * 2 ^ 61 + j.id) :: f')).mem)

/-- QUANTUM_EXPIRY, CONTEXT_SAVE_END, RESUME, BIVOUAC, BIVOUAC_ENTERED, WAKE_END, RESET, RESET_DRAIN_END and THAW. The order of the
rotation is the model's choice (log entry 118). (R254, R255, R443, R444, R445, R446, R447, R452, R461, R462, R470) -/
def Obligations.ResidencyAndReset : Prop :=
  ∀ (s : State) (v : VDev),
    let refused := fun (t : State) => (AMap.get (t.chip s.arg.chip).slots {} s.arg.index).refused
    let turnedAway := fun (i : Instr) => ∃ t, exec i s = .next t ∧ refused t = true ∧ t.mem = s.mem ∧ t.cores = s.cores ∧ t.vds = s.vds
    (let vd := s.arg.vd
     let u := s.preSteps vd
     (s.vdev? vd = some v →
      let other := ∃ x ∈ s.vds, x.1 ≠ vd ∧ x.2.overlaps v = true ∧ s.runnable x.1 x.2 = true
      let due := v.running = true ∧ v.step = 0 ∧ v.reset = 0 ∧ v.res = .run ∧ v.since + 2 ^ v.qlog ≤ s.now ∧ other
      (¬ due → exec .quantumExpiry s = .next s) ∧
      (due → ∃ t v', exec .quantumExpiry s = .next t ∧ t.vdev? vd = some v' ∧ v'.running = true ∧ v'.forBiv = false ∧ 2 ≤ v'.step ∧
        v'.step ≤ 6 ∧ (s.stepEnds vd { v with step := 2 } = false → v'.step = 2) ∧ t.mem = s.mem ∧ t.cores = s.cores ∧
        ∀ n ∈ v.nodes, (t.cairnVd (nodeKey n.1 n.2) vd).stopped = true)) ∧
     (u.vdev? vd = some v →
      let now := v.step = 6 ∧ ¬ (v.forBiv = true ∧ (v.wake = 0 ∨ v.res ≠ .entering))
      (¬ now → exec .contextSaveEnd s = .next u) ∧
      (now → ∃ t v', exec .contextSaveEnd s = .next t ∧ t.vdev? vd = some v' ∧ v'.running = false ∧ v'.step = 0 ∧ v'.res = v.res ∧
        v'.saved = (tab v.cores fun n => (n, (u.core (u.vdCoreKey v n)).context)) ∧ t.mem = s.mem ∧
        ∀ k, t.core k = if k ∈ (u.vdKeys v).map Prod.snd then { s.core k with ops := [] } else s.core k)) ∧
     (s.vdev? vd = some v →
      let free := s.runnable vd v = true ∧ v.running = false ∧ (∀ x ∈ s.vds, x.2.running = true → x.2.overlaps v = false) ∧
        (∀ c ∈ v.chips, (s.chip c).power = .on) ∧
        ¬ ∃ x ∈ s.vds, x.1 ≠ vd ∧ x.2.overlaps v = true ∧ s.startable x.1 x.2 = true ∧ s.turnAt v x.1 < s.turnAt v vd
      (¬ free → exec .resume s = .next s) ∧
      (free → ∃ t v', exec .resume s = .next t ∧ t.vdev? vd = some v' ∧ v'.running = true ∧ v'.since = s.now ∧ v'.ran = true ∧
        v'.step = 0 ∧ v'.saved = [] ∧ v'.launches = v.launches ∧ (∀ n, n < v.cores → (t.core (s.vdCoreKey v n)).owner = vd) ∧
        (∀ n c, n < v.cores → (∀ m, m < v.cores → s.vdCoreKey v m = s.vdCoreKey v n → m = n) → AMap.find? v.saved n = some c →
          (t.core (s.vdCoreKey v n)).slots = c.slots ∧ (t.core (s.vdCoreKey v n)).l1 = []) ∧
        (v.saved = [] → v.ran = true → (∀ n, n < v.cores → (s.core (s.vdCoreKey v n)).owner = vd) → t.mem = s.mem))) ∧
     (u.vdev? vd = some v →
      let now := v.res = .entering ∧ (v.running = false ∨ (v.step = 6 ∧ v.wake = 0))
      (¬ now → exec .bivouacEntered s = .next u) ∧
      (now → ∃ t, exec .bivouacEntered s = .next t ∧ t.mem = s.mem ∧ t.cores = s.cores ∧
        t.vdev? vd = some { v with res := .bivouac, running := false, step := 0, forBiv := false })) ∧
     (s.vdev? vd = some v →
      (v.res ≠ .waking → exec .wakeEnd s = .next s) ∧
      (v.res = .waking → ∃ t, exec .wakeEnd s = .next t ∧ t.mem = s.mem ∧ t.cores = s.cores ∧
        t.vdev? vd = some { v with res := .run, step := 0, forBiv := false } ∧
        (v.running = true → ∀ n ∈ v.nodes, (t.cairnVd (nodeKey n.1 n.2) vd).stopped = false))) ∧
     (s.vdev? vd = some v →
      let left := ∃ p ∈ s.pkts, p.vd = vd ∧ p.id < v.drainMark ∧ (p.src.chip ∈ v.scope ∨ p.dst.chip ∈ v.scope)
      (v.reset ≠ 3 ∨ s.now < v.drainEnd ∨ left → exec .resetDrainEnd s = .next s) ∧
      (v.reset = 3 → v.drainEnd ≤ s.now → ¬ left → ∃ t v', exec .resetDrainEnd s = .next t ∧ t.vdev? vd = some v' ∧ v'.reset = 0 ∧
        v'.scope = [] ∧ v'.aborts = [] ∧
        ∀ b ∈ s.vdBlocks vd v, chipOf b.base ∈ v.scope → s.takenUp vd v b = false →
          ∀ a, b.base ≤ a → a < b.base + b.size → (∀ m ∈ s.media, m.data.length ≤ 256 ∧ m.line ≠ a / 256) → t.mem.read a = 0))) ∧
    (let vd := s.slotVd s.arg.chip s.arg.index
     (s.vdev? vd = none → turnedAway .vdBivouac ∧ turnedAway .vdReset ∧ turnedAway .vdThaw) ∧
     (s.vdev? vd = some v →
      (v.res ≠ .run → turnedAway .vdBivouac) ∧
      (v.res = .run → ∃ t v', exec .vdBivouac s = .next t ∧ refused t = false ∧ t.vdev? vd = some v' ∧ v'.res = .entering ∧
        v'.forBiv = true ∧ v'.running = v.running ∧ (v.running = true → v.step = 0 → 2 ≤ v'.step) ∧ t.cores = (s.poke v.wakeAddr 8 0 0).cores ∧
        t.mem = (s.poke v.wakeAddr 8 0 0).mem) ∧
      (let map := (AMap.get (s.chip s.arg.chip).slots {} s.arg.index).scope
        let scope := v.chips.filter fun c => map.contains c || v.scope.contains c
        ((∀ c ∈ v.chips, c ∉ map) → ∃ t, exec .vdReset s = .next t ∧ refused t = false ∧ t.vds = s.vds ∧ t.cores = s.cores ∧
          t.mem = s.mem) ∧
        ((∃ c ∈ v.chips, c ∈ map) → ∃ t v', exec .vdReset s = .next t ∧ refused t = false ∧ t.vdev? vd = some v' ∧ v'.reset = 3 ∧ v'.scope = scope ∧
          v'.drainEnd = s.now + 4096 + 1024 * v.span ∧
          ∀ n, n < v.cores → (s.core (s.vdCoreKey v n)).owner = vd → keyChip (s.vdCoreKey v n) ∈ scope →
            (t.core (s.vdCoreKey v n)).ops = [] ∧ ∀ l, (t.lvl (s.vdCoreKey v n) l).act = none)) ∧
      (let arg := (AMap.get (s.chip s.arg.chip).slots {} s.arg.index).cmdarg.toNat
       let k := windowCore s.arg.chip (fld arg 0 14)
       ((k, fld arg 16 2) ∉ v.frozen → turnedAway .vdThaw) ∧
       ((k, fld arg 16 2) ∈ v.frozen → ∃ t, exec .vdThaw s = .next t ∧ refused t = false ∧ t.core k = (s.core k).thaw (fld arg 16 2) ∧
        (∀ j, j ≠ k → t.core j = s.core j) ∧ t.mem = s.mem ∧
        t.vdev? vd = some { v with frozen := v.frozen.filter (· != (k, fld arg 16 2)) }))))

/-- ROUTE_FLIT, INJECT_FLIT, REASSEMBLY, INJECTION_CAP_WINDOW and the events of the links. (R83, R88, R89, R92, R94, R95,
R96, R97, R98, R99, R100, R262) -/
def Obligations.FabricAndLinks : Prop :=
  ∀ (s : State),
    let chip := s.arg.chip
    let n := s.arg.node
    let key := nodeKey chip n
    let pl := planeIx s.arg.plane
    let moved := fun (f : Flit) (d : Nat) => { f with
      node := hopTo f.node d, port := opposite d,
      age := older f.age ((if f.plane = .control then 2 else 4) + if dieEdge f.node d then 16 else 0) }
    let toward := fun (f : Flit) (p : Packet) (taken : List Nat) =>
      ((productive f.node p.dst.node ++ [0, 2, 1, 3]).find? fun d => !taken.contains d).getD 0
    let sameMem := fun (t : State) => t.mem = s.mem ∧ t.cores = s.cores
    -- a router
    (((s.clu key).used.getD pl []).contains 98 = true → exec .routeFlit s = .next s) ∧
    (∀ f p, (s.clu key).used.getD pl [] = [] → s.heads chip n s.arg.plane = [f] → f.rnode = none → f.chip = chip → f.node = n →
      f.plane = s.arg.plane → s.pktOf f = some p → ∃ t, exec .routeFlit s = .next t ∧ sameMem t ∧
        (p.dst.chip = chip → p.dst.node ≠ n → moved f (toward f p []) ∈ t.flits ∧ t.pkts = s.pkts) ∧
        (p.dst.chip = chip → p.dst.node = n → p.dst.unit = 15 → (∀ x ∈ t.flits, x.id ≠ f.id) ∧ (∀ x ∈ t.pkts, x.id ≠ p.id) ∧
          (t.clu key).lost = (s.clu key).lost + 1) ∧
        (p.dst.chip = chip → p.dst.node = n → p.dst.unit ≠ 15 → p.last = 0 → (∀ x ∈ t.flits, x.id ≠ f.id) ∧
          { p with stage := .arrived, eject := 0, age := f.age } ∈ t.pkts) ∧
        (p.dst.chip = chip → p.dst.node = n → p.dst.unit ≠ 15 → p.last ≠ 0 → { f with port := 6 } ∈ t.flits ∧
          { p with eject := 0, age := f.age } ∈ t.pkts) ∧
        ∀ q, p.dst.chip ≠ chip → portAt n = some q →
          (AMap.get ((s.chip chip).tableAt s.now n) 0 p.dst.chip).getLsbD (q / 2) = true →
          ((s.chip chip).port q).open pl = true → (∀ x ∈ t.flits, x.id ≠ f.id) ∧
            (pl < ((s.chip chip).port q).store.length → ∃ g, g.pkt = f.pkt ∧ g.idx = f.idx ∧
              ((t.chip chip).port q).store.getD pl [] =
                ((s.chip chip).port q).store.getD pl [] ++ [(((s.chip chip).port q).seqOut.getD pl 0, g)])) ∧
    (∀ f g p q, (s.clu key).used.getD pl [] = [] → pl < (s.clu key).used.length → s.heads chip n s.arg.plane = [f, g] ∨ s.heads chip n s.arg.plane = [g, f] →
      f.id ≠ g.id → s.flitKey f < s.flitKey g → f.rnode = none → g.rnode = none → f.chip = chip → g.chip = chip → f.node = n → g.node = n →
      f.plane = s.arg.plane → g.plane = s.arg.plane → s.pktOf f = some p → s.pktOf g = some q → p.dst.chip = chip → q.dst.chip = chip →
      p.dst.node ≠ n → q.dst.node ≠ n → ∃ t, exec .routeFlit s = .next t ∧ sameMem t ∧ t.pkts = s.pkts ∧
        moved f (toward f p []) ∈ t.flits ∧ moved g (toward g q [toward f p []]) ∈ t.flits) ∧
    -- injection
    (s.turnOf chip n s.arg.plane = none → exec .injectFlit s = .next s) ∧
    (∀ p i, s.turnOf chip n s.arg.plane = some (p, i) →
      let t := s.routed chip n s.arg.plane
      let c := t.clu key
      let used := c.used.getD pl []
      let cap := s.injCap p.vd chip n pl
      let f : Flit := { id := t.nextId, pkt := p.id, idx := i, plane := s.arg.plane, age := 0, chip := chip, node := n, port := 5 }
      let inj := c.injIn s.now
      let may := s.dark chip = false ∧ 99 ∉ used ∧ c.old.getD pl false = false ∧ (cap = 0 ∨ inj.getD pl 0 < cap)
      (¬ may ∨ t.way f p used = .stay → exec .injectFlit s = .next t) ∧
      ∀ d, may → t.way f p used = .torus d → t.pktOf f = some p → ∃ u, exec .injectFlit s = .next u ∧ sameMem u ∧
        u.nextId = t.nextId + 1 ∧ (∀ x ∈ t.pkts, x.id = p.id → { x with stage := if i = p.last then .flying else .outbox (i + 1) } ∈ u.pkts) ∧
        (pl < inj.length → (u.clu key).inj.getD pl 0 = inj.getD pl 0 + (if s.ownsNode p.vd chip n = true then 1 else 0)) ∧ (u.clu key).injWin = s.now / 64 ∧
        (pl < c.injUnit.length → (u.clu key).injUnit.getD pl 14 = p.src.unit) ∧
        ∃ y ∈ u.flits, y.pkt = p.id ∧ y.idx = i ∧ y.node = hopTo n d ∧ y.port = opposite d) ∧
    (∃ t, exec .injectionCapWindow s = .next t ∧ sameMem t ∧ 
      t.clu key = { s.clu key with inj := (s.clu key).injIn s.now, injWin := s.now / 64 } ∧
      ∀ j, j ≠ key → t.clu j = s.clu j) ∧
    -- reassembly
    (∀ f p, (s.flits.find? fun f => f.id == s.arg.id && f.port == 6 && f.chip == chip && f.node == n) = some f → s.pktOf f = some p →
      let rs := (s.clu key).reasm
      let gone := fun (t : State) => ∀ x ∈ t.flits, x.id ≠ f.id
      (rs.find? (fun r => r.src == p.src && r.tag == p.tag) = none →
        let floor := s.floorOf p.vd chip n
        let mine := (rs.filter fun r => r.vd == p.vd && !r.shared).length
        let shared := (rs.filter fun r => r.shared).length
        (mine < floor → ∃ t, exec .reassembly s = .next t ∧ sameMem t ∧ gone t ∧
          (t.clu key).reasm = rs ++ [⟨p.src, p.tag, p.vd, [f.idx], false⟩]) ∧
        (floor ≤ mine → shared < 256 - s.floorsAt chip n → ∃ t, exec .reassembly s = .next t ∧ sameMem t ∧ gone t ∧
          (t.clu key).reasm = rs ++ [⟨p.src, p.tag, p.vd, [f.idx], true⟩]) ∧
        (floor ≤ mine → 256 - s.floorsAt chip n ≤ shared → ∃ t a, exec .reassembly s = .next t ∧ sameMem t ∧ gone t ∧ a ∈ t.pkts ∧
          a.dst = p.src ∧ a.payload = .nack p.tag false ∧ (t.clu key).reasm = rs)) ∧
      ∀ r, rs.find? (fun r => r.src == p.src && r.tag == p.tag) = some r →
        let got := insertNat f.idx r.got
        ∃ t, exec .reassembly s = .next t ∧ sameMem t ∧ gone t ∧
          (p.last < got.length → { p with stage := .arrived } ∈ t.pkts ∧ ∀ x ∈ (t.clu key).reasm, x ≠ r) ∧
          (got.length ≤ p.last → t.pkts = s.pkts ∧ { r with got := got } ∈ (t.clu key).reasm)) ∧
    -- links
    (let q := s.arg.port
     let port := fun (t : State) => (t.chip chip).port q
     let p := port s
     let far := neighbour chip (q / 2)
     let next := p.seqIn.getD pl 0
     let back := unaccepted (s.farNext chip q pl) (p.store.getD pl [])
     (((s.chip far).port (farPort q)).wire.getD pl [] = [] → exec .linkReceive s = .next s) ∧
     let up := s.dark chip = false ∧ p.inService = true ∧ p.training = false ∧ p.dead = false
     (up → 98 ∈ (s.clu (nodeKey chip (attach q))).used.getD pl [] → exec .linkReceive s = .next s) ∧
     (∀ m f rest, ¬ up → ((s.chip far).port (farPort q)).wire.getD pl [] = (m, f) :: rest →
      pl < ((s.chip far).port (farPort q)).wire.length → ∃ t, exec .linkReceive s = .next t ∧ sameMem t ∧ t.flits = s.flits ∧
        (port t).seqIn = p.seqIn ∧ ((t.chip far).port (farPort q)).wire.getD pl [] = rest) ∧
     (∀ m f rest, ((s.chip far).port (farPort q)).wire.getD pl [] = (m, f) :: rest → pl < ((s.chip far).port (farPort q)).wire.length →
      let used := (s.clu (nodeKey chip (attach q))).used.getD pl []
      let s' := s.updPort far (farPort q) fun p => { p with wire := p.wire.set pl rest }
      let g := { f with chip := chip, node := attach q, port := 4 }
      up → 98 ∉ used →
      (m ≠ next → ∃ t, exec .linkReceive s = .next t ∧ sameMem t ∧ t.flits = s.flits ∧ (port t).seqIn = p.seqIn ∧
        ((t.chip far).port (farPort q)).wire.getD pl [] = rest) ∧
      ∀ k, m = next → f.rnode = none → f.plane = s.arg.plane → s.pktOf f = some k → k.dst.chip = chip →
        s.heads chip (attach q) s.arg.plane = [] →
        (k.dst.node ≠ attach q → (∀ d, d < 4 → d ∈ used) → exec .linkReceive s = .next (s'.routed chip (attach q) s.arg.plane)) ∧
        (k.dst.node = attach q → k.dst.unit ≠ 15 → k.last = 0 → (used.filter (· == 6)).length < 2 → pl < p.seqIn.length →
          ∃ t, exec .linkReceive s = .next t ∧ sameMem t ∧ (port t).seqIn.getD pl 0 = (m + 1) % 4096 ∧
            { k with stage := .arrived, eject := (used.filter (· == 6)).length, age := f.age } ∈ t.pkts) ∧
        ∀ d, k.dst.node ≠ attach q → d = toward g k used → d ∉ used → pl < p.seqIn.length → ∃ t, exec .linkReceive s = .next t ∧
          sameMem t ∧ (port t).seqIn.getD pl 0 = (m + 1) % 4096 ∧ moved g d ∈ t.flits) ∧
     (∃ t, exec .linkReplay s = .next t ∧ sameMem t ∧ (port t).store = p.store ∧ (port t).wire =
      if p.inService = true ∧ p.training = false ∧ p.dead = false then p.wire.set pl back else p.wire) ∧
     (∃ t, exec .linkAcknowledge s = .next t ∧ sameMem t ∧ (port t).store = p.store.set pl back ∧ (port t).wire = p.wire) ∧
     (p.lanes.getD s.arg.lane true = false → exec .laneFailure s = .next s) ∧
     (p.lanes.getD s.arg.lane true = true → s.arg.lane < p.lanes.length → ∃ t e, exec .laneFailure s = .next t ∧ t.cores = s.cores ∧
      let takes := p.spare.isNone && p.lanes.getD 8 true && decide (s.arg.lane < 8)
      let p' := { p with lanes := p.lanes.set s.arg.lane false, spare := if takes then some s.arg.lane else p.spare }
      let lost := p'.controlLost
      let outcome := if lost then 4 else if takes then 1 else 2
      t.mem = (s.repairEntry chip 0 3 q outcome []).mem ∧ (t.chip chip).repairs = (s.chip chip).repairs + 1 ∧
        (port t).since = (if (lost || takes) && p.inService && !p.training then s.now else p.since) ∧ (port t).lanes = p'.lanes ∧ (port t).spare = p'.spare ∧ (port t).inService = (p.inService && !lost) ∧
        (port t).training = (p.training || (!lost && takes)) ∧ e ∈ (t.chip chip).belay ∧
        e.w1 = BitVec.ofNat 64 (p'.dataLanes * 16 + q) ∧ fld e.w0.toNat 32 6 = 3) ∧
     (∃ t, exec .retrainingEnd s = .next t ∧ sameMem t ∧ (p.training = true → p.dead = false → (port t).training = false ∧
        (port t).wire = [unaccepted (s.farNext chip q 0) (p.store.getD 0 []), unaccepted (s.farNext chip q 1) (p.store.getD 1 [])]) ∧
      (p.training = false ∨ p.dead = true → port t = p) ∧
      ((s.chip chip).power = .training → (∀ j, j < 12 → ((t.chip chip).port j).training = false) → (t.chip chip).power = .on)) ∧
     (p.dead = false → (p.inService = true ∧ p.training = false) ∨ s.now < p.since + portBound → exec .portOutOfService s = .next s) ∧
     (p.dead = false → p.inService = false ∨ p.training = true → p.since + portBound ≤ s.now → ∃ t e,
      exec .portOutOfService s = .next t ∧ sameMem t ∧ (port t).dead = true ∧ (port t).inService = false ∧
      (port t).store = [unaccepted (s.farNext chip q 0) (p.store.getD 0 []), unaccepted (s.farNext chip q 1) (p.store.getD 1 [])] ∧
      (port t).wire = [[], []] ∧ e ∈ (t.chip chip).belay ∧ e.w1 = BitVec.ofNat 64 q ∧ fld e.w0.toNat 32 6 = 6) ∧
     (p.dead = true → ∃ t, exec .portOutOfService s = .next t ∧ sameMem t ∧
      let other := fun (u : State) => (u.chip chip).port (opposite q)
      ∀ i x rest, i < 2 → p.store.length = 2 → (other s).store.length = 2 → p.store.getD i [] = x :: rest → (other s).open i = true →
        (port t).store.getD i [] = rest ∧
        ((other t).store.getD i []).map Prod.snd = ((other s).store.getD i []).map Prod.snd ++ [x.2]))

/-- MULTICAST_STORE_LANDING, COMBINED_ACK, MCLD_REQUEST, MCLD_LINE_SEND, MCLD_LINE_ARRIVAL and MERGE_REPORT. (R106, R107,
R108, R109, R110, R111, R112, R360, R361, R487, R488, R489) -/
def Obligations.MulticastTrees : Prop :=
  ∀ (s : State) (p : Packet),
    let u := p.dst
    let key := nodeKey u.chip u.node
    let has := fun (t : State) (a b : UnitId) (pay : Payload) => ∃ x ∈ t.pkts, x.src = a ∧ x.dst = b ∧ x.vd = p.vd ∧ x.payload = pay
    let router : UnitId := ⟨u.chip, u.node, 13⟩
    -- what a line leaves at the root of its group
    let planted := fun (t : State) (g line : Nat) (up : UnitId × Bool) (root : Option (Nat × UnitId)) (pay : Payload) =>
      let e := s.treeEntry u.chip g
      let ports := treePorts e u.node u.node
      let expect := (ports.filter (· != 5)).length + (membersAt e u.node).length
      t.mem = s.mem ∧ t.cores = s.cores ∧ (expect ≠ 0 → ⟨g, line, p.vd, expect, 0, 0, 0, up, root⟩ ∈ (t.clu key).combs ∧
        ∀ q ∈ ports, ∃ x ∈ t.pkts, x.payload = pay ∧ x.vd = p.vd ∧
          ∃ f ∈ t.flits, f.pkt = x.id ∧ f.node = u.node ∧ f.rnode = some u.node ∧ f.up = 1 + q ∧ f.age = p.age)
    -- multicast stores
    (∀ m data op, s.arrivedPkt = some p → p.payload = .mcst m data op → s.draining p.vd p.src u = false →
      (s.isRoot m.group p.vd u = false → ∃ t, exec .multicastStoreLanding s = .next t ∧ t.mem = s.mem ∧ t.clus = s.clus ∧
        has t u p.src (.mcDone op 0 1 (negative 6 u.chip u.node u.unit))) ∧
      (∀ x, s.isRoot m.group p.vd u = true → AMap.find? (s.clu key).root m.group = some x → ∃ t, exec .multicastStoreLanding s = .next t ∧
        t.mem = s.mem ∧ t.clus = s.clus ∧ has t u p.src (.resp op 1 0 none)) ∧
      (s.isRoot m.group p.vd u = true → AMap.find? (s.clu key).root m.group = none → ∃ t, exec .multicastStoreLanding s = .next t ∧
        planted t m.group 0 (p.src, true) (some (op, p.src)) (.mcData m data 0 u) ∧
        (treePorts (s.treeEntry u.chip m.group) u.node u.node = [] → membersAt (s.treeEntry u.chip m.group) u.node = [] →
          has t u p.src (.mcDone op 0 0 0) ∧ AMap.find? (t.clu key).root m.group = none) ∧
        (membersAt (s.treeEntry u.chip m.group) u.node ≠ [] → AMap.find? (t.clu key).root m.group = some op))) ∧
    (∀ m data line root, s.arrivedPkt = some p → p.payload = .mcData m data line root → s.draining p.vd p.src u = false →
      let va := m.rb.toNat % 2 ^ 57
      let said := fun (t : State) (pos neg first : Nat) => has t u router (.comb m.group line pos neg first router)
      let fails := fun (st : Nat) => ∃ t, exec .multicastStoreLanding s = .next t ∧ t.mem = s.mem ∧
        said t 0 1 (negative st u.chip u.node u.unit)
      (∀ v, s.landingWay p va = .denied v → fails 2) ∧ (∀ c, s.landingWay p va = .lost c → fails (lostStatus c)) ∧
      ∀ pa mt, s.landingWay p va = .ok pa mt →
        (s.populated pa = false → fails 3) ∧ (s.populated pa = true → s.pcFailed pa = true → fails 4) ∧
        let turn := s.unitTurn (ownerOf pa) (lineInput pa)
        let held := s.owed pa 256 || s.memWaits p.vd pa || s.copying (ownerOf pa) || !turn
        (s.populated pa = true → s.pcFailed pa = false → held = true → exec .multicastStoreLanding s = .next s) ∧
        (s.populated pa = true → s.pcFailed pa = false → held = false →
          let r := ((s.untold p.lander).updClu (nodeKey u.chip u.node) fun c => c.tlbHit (tlbFind c.tlb p.vd va)).trace
            { pa := pa, size := 256, cls := .store, mt := mt, vd := p.vd, src := ⟨u.chip, u.node, 9⟩ }
          ∃ t, exec .multicastStoreLanding s = .next t ∧ said t 1 0 0 ∧ t.mem =
            ((((r.portServed (ownerOf pa) (lineInput pa)).lineServe p.vd pa mt).ownFrame pa p.vd).pokeRun pa mt (lineWords data) []).mem)) ∧
    -- responses
    (∀ g line pos neg first dst, s.arrivedPkt = some p → p.payload = .comb g line pos neg first dst →
      (∀ e, u.unit = 10 → e ∈ (s.clu key).merges → e.group = g → ∃ t, exec .combinedAck s = .next t ∧ t.mem = s.mem ∧
        { e with buf := e.buf.filter fun x => !(x.line == line && x.to_ == p.src.unicast), pos := e.pos + pos, neg := e.neg + neg,
                 first := if e.first = 0 then first else e.first } ∈ (t.clu key).merges) ∧
      (u.unit ≠ 10 → (s.clu key).comb? g line p.vd = none → ∃ t, exec .combinedAck s = .next t ∧ t.mem = s.mem ∧ t.clus = s.clus) ∧
      ∀ r, u.unit ≠ 10 → (s.clu key).comb? g line p.vd = some r →
        (r.expect - 1 ≠ 0 → ∃ t, exec .combinedAck s = .next t ∧ t.mem = s.mem ∧ r.add pos neg first ∈ (t.clu key).combs) ∧
        (r.expect - 1 = 0 → ∃ t, exec .combinedAck s = .next t ∧ t.mem = s.mem ∧ (t.clu key).comb? g line p.vd = none ∧
          let a := r.add pos neg first
          (∀ op issuer, r.root = some (op, issuer) → has t u issuer (.mcDone op a.pos a.neg a.first) ∧
            (AMap.find? (s.clu key).root g = some op → (t.clu key).root = AMap.del (s.clu key).root g)) ∧
          (r.root = none → has t u r.up.1 (.comb g line a.pos a.neg a.first r.up.1)))) ∧
    (∀ g line e, s.arrivedPkt = some p → p.payload = .lineBusy g line → e ∈ (s.clu key).merges → e.group = g → ∃ t,
      exec .combinedAck s = .next t ∧ t.mem = s.mem ∧ ∃ d ∈ (t.clu key).merges, { d with buf := e.buf } = e ∧
        (∀ x ∈ e.buf, ¬ (x.line = line ∧ x.to_ = p.src.unicast) → x ∈ d.buf) ∧
        ∀ x ∈ e.buf, x.line = line → x.to_ = p.src.unicast → ∃ y ∈ d.buf, ∃ n, y.line = x.line ∧ y.to_ = x.to_ ∧ y.data = x.data ∧
          y.bad = x.bad ∧ y.again = some n ∧ s.now + 64 ≤ n ∧ n ≤ s.now + 1024) ∧
    -- requests and lines of an MCLD
    (∀ m pa lines op, s.arrivedPkt = some p → p.payload = .mcldReq m pa lines op →
      let at_ := (s.clu key).merges.find? fun e => e.group == m.group
      let valid := s.treeValid u.chip m.group p.vd
      let there := ∀ l ∈ lines, s.populated l.2 = true
      let ans := fun (st : Nat) => ∃ t, exec .mcldRequest s = .next t ∧ t.mem = s.mem ∧ t.clus = s.clus ∧ has t u p.src (.mcldAnswer op st)
      (s.draining p.vd p.src u = true → ans 5) ∧
      (s.draining p.vd p.src u = false →
        (valid = false → ans 6) ∧ (valid = true → ¬ there → ans 3) ∧
        (valid = true → there → at_ = none → ∃ t, exec .mcldRequest s = .next t ∧ t.mem = s.mem ∧
          (t.clu key).merges = (s.clu key).merges ++ [⟨m.group, p.vd, pa, m.rb, lines, [], [], [], 0, 0, 0, m.mt⟩]) ∧
        ∀ e, valid = true → there → at_ = some e →
          (e.pa = pa → e.vd = p.vd → ∃ t, exec .mcldRequest s = .next t ∧ t.mem = s.mem ∧ e.join p.src lines ∈ (t.clu key).merges) ∧
          (e.pa ≠ pa ∨ e.vd ≠ p.vd → exec .mcldRequest s = .next s))) ∧
    (let slice : UnitId := ⟨s.arg.chip, s.arg.node, 10⟩
     let home := nodeKey s.arg.chip s.arg.node
     let read := fun (e : Merge) (line : Nat) => s.readLine slice e.vd (e.lineAt line) e.mt
     let held := fun (e : Merge) (line : Nat) (to_ : Option UnitId) => ({ line := line, to_ := to_, data := (read e line).1, bad := (read e line).2.1 } : SentLine)
     let sent := fun (t : State) (e : Merge) (line : Nat) (uni : Bool) (to_ : UnitId) =>
      t.mem = (read e line).2.2.mem ∧ ∃ x ∈ t.pkts, x.src = slice ∧ x.dst = to_ ∧
        x.payload = .mcldLine e.group (e.lineAt line) (read e line).1 (read e line).2.1 line uni slice
     ∀ e, (s.clu home).merges.find? (fun e => e.group == s.arg.index) = some e →
      let due := e.buf.find? fun x => x.again.any fun t => decide (t ≤ s.now)
      (∀ x r, due = some x → x.to_.isSome ∨ s.groupRoot slice.chip e.group e.vd = some r → ∃ t q, exec .mcldLineSend s = .next t ∧
        t.mem = s.mem ∧ q ∈ t.pkts ∧ q.src = slice ∧ q.dst = x.to_.getD r ∧
        q.payload = .mcldLine e.group (e.lineAt x.line) x.data x.bad x.line x.to_.isSome slice) ∧
      (∀ line, due = none → ((tab 32 id).find? fun i => (e.lines.any fun l => l.1 == i) && !e.sent.contains i) = some line →
        (s.owed (e.lineAt line) 256 = true ∨ s.memWaits e.vd (e.lineAt line) = true → exec .mcldLineSend s = .next s) ∧
        ∀ r, s.owed (e.lineAt line) 256 = false → s.memWaits e.vd (e.lineAt line) = false → (read e line).2.2.groupRoot slice.chip e.group e.vd = some r →
          ∃ t, exec .mcldLineSend s = .next t ∧ sent t e line false r ∧
            { e with sent := e.sent ++ [line], buf := e.buf ++ [held e line none] } ∈ (t.clu home).merges) ∧
      (∀ c line rest, due = none → (∀ i, i < 32 → (∃ l ∈ e.lines, l.1 = i) → i ∈ e.sent) → e.owed = (c, line) :: rest →
        (s.owed (e.lineAt line) 256 = true ∨ s.memWaits e.vd (e.lineAt line) = true → exec .mcldLineSend s = .next s) ∧
        (s.owed (e.lineAt line) 256 = false → s.memWaits e.vd (e.lineAt line) = false → ∃ t, exec .mcldLineSend s = .next t ∧ sent t e line true c ∧
          { e with owed := rest, buf := e.buf ++ [held e line (some c)] } ∈ (t.clu home).merges)) ∧
      (e.buf ≠ [] ∨ e.owed ≠ [] ∨ (∃ l ∈ e.lines, l.1 ∉ e.sent) → exec .mergeReport s = .next s) ∧
      (e.buf = [] → e.owed = [] → (∀ l ∈ e.lines, l.1 ∈ e.sent) → ∃ t, exec .mergeReport s = .next t ∧ t.mem = s.mem ∧
        (∀ x ∈ (t.clu home).merges, x.group ≠ e.group) ∧
        ∀ m rest, entryMembers (s.treeEntry s.arg.chip e.group) = m :: rest → s.treeValid s.arg.chip e.group e.vd = true → m.2 < 9 →
          ∃ x ∈ t.pkts, x.src = slice ∧ x.dst = ⟨s.arg.chip, m.1, m.2⟩ ∧
            x.payload = .merge 3 e.pos e.group e.neg e.first e.rb 1)) ∧
    ∀ g pa data bad line uni home, s.arrivedPkt = some p → p.payload = .mcldLine g pa data bad line uni home →
      let lock := AMap.find? (s.clu key).root g
      (u.unit = 13 → s.isRoot g p.vd u = false → ∃ t, exec .mcldLineArrival s = .next t ∧ t.mem = s.mem ∧
        has t u home (.comb g line 0 1 (negative 6 u.chip u.node u.unit) home)) ∧
      (∀ x, u.unit = 13 → s.isRoot g p.vd u = true → lock = some x → x ≠ mcldKey home → ∃ t, exec .mcldLineArrival s = .next t ∧
        t.mem = s.mem ∧ t.clus = s.clus ∧ has t u home (.lineBusy g line)) ∧
      (u.unit = 13 → s.isRoot g p.vd u = true → lock = none ∨ lock = some (mcldKey home) → ∃ t, exec .mcldLineArrival s = .next t ∧
        planted t g line (home, true) none (.mcldLine g pa data bad line uni home) ∧
        AMap.find? (t.clu key).root g = some (mcldKey home)) ∧
      (u.unit < 9 → uni = true → s.copying u = true → ∃ t, exec .mcldLineArrival s = .next t ∧ t.mem = s.mem ∧ t.cores = s.cores ∧
        has t u home (.lineBusy g line)) ∧
      (u.unit < 9 → uni = false ∨ s.copying u = false →
        let k := u.core
        let reg := (s.core k).mclds.find? fun r => r.m.group == g && r.left.contains line && r.lines.contains (line, pa)
        let said := fun (t : State) (pos neg first : Nat) => if uni then has t u home (.comb g line pos neg first home)
          else has t u router (.comb g line pos neg first router)
        (reg = none → ∃ t, exec .mcldLineArrival s = .next t ∧ said t 0 0 0 ∧ t.mem = s.mem ∧ t.cores = s.cores) ∧
        ∀ r, reg = some r →
          let at_ := scratchPa k (r.m.rc + 256 * line)
          (s.landingWaits p = true → exec .mcldLineArrival s = .next s) ∧
          (s.landingWaits p = false → bad = [] → ∃ t, exec .mcldLineArrival s = .next t ∧ said t 1 0 0 ∧
            t.mem = (((s.portServed u p.input).trace
              { pa := at_, size := 256, cls := .store, vd := (s.core k).owner, src := home }).pokeRun at_ 2 (lineWords data) []).mem ∧
            (r.left.filter (· != line) = [] → ∀ x ∈ (t.core k).mclds, x.op ≠ r.op) ∧
            (r.left.filter (· != line) ≠ [] → { r with left := r.left.filter (· != line), pos := r.pos + 1 } ∈ (t.core k).mclds)) ∧
          (bad ≠ [] → ∃ t, exec .mcldLineArrival s = .next t ∧ said t 0 1 (negative 4 u.chip u.node u.unit) ∧
            t.mem = s.mem))

/-- The repairs, the memory controllers' windows and the power of a package. What of a package STANDBY loses is the model's reading (log
entry 133). (R21, R65, R442, R453, R454, R455, R460, R471, R480, R482, R483) -/
def Obligations.RepairsAndPower : Prop :=
  ∀ (s : State),
    let chip := s.arg.chip
    let ch := s.chip chip
    let stack := s.arg.stack % 8
    -- cores
    (let k := coreKey chip s.arg.node s.arg.slot
     let node := nodeKey chip s.arg.node
     let c := s.core k
     let u := s.clu node
     let spareFree := ∀ i, i < 8 → i ∈ u.map
     let told := fun (t : State) (outcome : Nat) => t.mem = (s.repairEntry chip c.owner 1 (windowOf k) outcome []).mem ∧
      (t.chip chip).repairs = ch.repairs + 1
     (c.run ≠ .stopped ∨ u.repair ≠ none → exec .coreRepair s = .next s) ∧
     (c.run = .stopped → u.repair = none →
      (s.arg.index = 0 → ∃ t, exec .coreRepair s = .next t ∧ t.core k = c.repaired ∧ (∀ j, j ≠ k → t.core j = s.core j) ∧ told t 0) ∧
      (s.arg.index = 1 → spareFree → ∃ t, exec .coreRepair s = .next t ∧ t.clu node = { u with repair := some s.arg.slot } ∧
        t.mem = s.mem ∧ t.cores = s.cores) ∧
      (s.arg.index = 1 → ¬ spareFree → exec .coreRepair s = .next s) ∧
      (2 ≤ s.arg.index → spareFree → exec .coreRepair s = .next s) ∧
      (2 ≤ s.arg.index → ¬ spareFree → ∃ t, exec .coreRepair s = .next t ∧ t.core k = { c with run := .lost } ∧ told t 2 ∧
        ∀ v, s.vdev? c.owner = some v → ∃ v', t.vdev? c.owner = some v' ∧ v'.lost.length = v.lost.length + 1)) ∧
     (u.repair ≠ some s.arg.slot → exec .coreMapRewrite s = .next s) ∧
     ∀ j, u.repair = some s.arg.slot → u.spareSlot = some j → s.arg.slot ∈ u.map →
      let new := coreKey chip s.arg.node j
      ∃ t, exec .coreMapRewrite s = .next t ∧ (t.clu node).map = (u.map.map fun i => if i = s.arg.slot then j else i) ∧
        (t.clu node).repair = none ∧ (t.core k).ops = c.ops ∧ (t.core k).chan.queue = [] ∧ (t.core new).owner = c.owner ∧
        (t.core new).run = .running ∧ (t.core new).ops = [] ∧ (t.core new).chan.queue = [] ∧ (t.core new).lanesBad = [] ∧
        (∀ a, (∀ i ∈ c.lanesBad, i < 2048 → a / 8 ≠ i) → (t.core new).lanes.read a = c.lanes.read a) ∧
        (∀ i ∈ c.lanesBad, i < 2048 → ∀ a, a / 8 = i → (t.core new).lanes.read a = 0) ∧ (t.chip chip).repairs = ch.repairs + 1 ∧
        (chip < 512 → s.arg.node < 1024 → s.arg.slot < 9 → fld ch.evbase.toNat 0 5 = 0 → s.mem.wf = true → s.clear = [] →
          ∀ i, i < 8192 → t.peek (scratchPa new (8 * i)) 8 =
            if s.isBad (scratchPa k (8 * i)) then 0 else s.peek (scratchPa k (8 * i)) 8)) ∧
    -- pseudo-channels, supervisors and bit errors
    (let key := stack * 64 + s.arg.pc % 63
     let pc := fun (t : State) => AMap.get (t.chip chip).pcs .good key
     (pc s = .copying ∨ pc s = .failed → exec .pseudoChannelRepair s = .next s) ∧
     (pc s ≠ .copying → pc s ≠ .failed → stack ∉ ch.spare → ∃ t, exec .pseudoChannelRepair s = .next t ∧ pc t = .copying ∧
      stack ∈ (t.chip chip).spare ∧ t.mem = s.mem ∧ t.cores = s.cores) ∧
     (pc s ≠ .copying → pc s ≠ .failed → stack ∈ ch.spare → ∃ t, exec .pseudoChannelRepair s = .next t ∧ pc t = .failed ∧
      t.cores = s.cores ∧ t.mem = (s.repairEntry chip 0 2 key 4 (ch.framesOn stack (s.arg.pc % 63))).mem) ∧
     (pc s ≠ .copying → exec .pseudoChannelRemap s = .next s) ∧
     (pc s = .copying → ∃ t, exec .pseudoChannelRemap s = .next t ∧ pc t = .remapped ∧ (t.chip chip).repairs = ch.repairs + 1 ∧
      t.mem = (s.repairEntry chip 0 2 key 3 []).mem ∧ t.cores = s.cores)) ∧
    (let i := s.arg.index % 16
     (ch.sups.getD i false = false → exec .supervisorFailover s = .next s) ∧
     (ch.sups.getD i false = true → ∃ t, exec .supervisorFailover s = .next t ∧ (t.chip chip).sups = ch.sups.set i false ∧
      (t.chip chip).repairs = ch.repairs + 1 ∧ t.mem = (s.repairEntry chip 0 4 i 0 []).mem ∧ t.cores = s.cores ∧
      (ch.lead ≠ i → (t.chip chip).lead = ch.lead) ∧
      let spare := (tab 4 fun j => i / 4 * 4 + j).find? fun j => (ch.sups.set i false).getD j false && !ch.duty.contains j
      (∀ j, j ∈ (t.chip chip).duty ↔ (j ∈ ch.duty ∧ j ≠ i) ∨ (i ∈ ch.duty ∧ spare = some j)) ∧
      (ch.lead = i → ∀ j, spare = some j → (t.chip chip).lead = j) ∧
      (ch.lead = i → spare = none → (∃ j ∈ ch.duty, j ≠ i) → (t.chip chip).lead ∈ ch.duty ∧ (t.chip chip).lead ≠ i))) ∧
    (s.arg.addr < 2 ^ 60 → s.untouched (8 * s.arg.addr) = true → exec .softError s = .next s) ∧
    (s.arg.addr < 2 ^ 60 → s.untouched (8 * s.arg.addr) = false → ∃ t, exec .softError s = .next t ∧ t.mem = s.mem ∧ t.cores = s.cores ∧
      (s.arg.addr, !s.arg.flag || s.bad.any fun x => x.1 == s.arg.addr) ∈ t.bad ∧
      ∀ x, x.1 ≠ s.arg.addr → (x ∈ t.bad ↔ x ∈ s.bad)) ∧
    (2 ^ 61 ≤ s.arg.addr →
      let k := coreKey chip s.arg.node s.arg.slot
      let w := s.arg.addr - 2 ^ 61
      ((∀ l ∈ (s.core k).l1, l.addr ≠ w / 32) → exec .softError s = .next s) ∧
      ∀ l ∈ (s.core k).l1, l.addr = w / 32 → ∃ t, exec .softError s = .next t ∧ t.mem = s.mem ∧ t.bad = s.bad ∧
        (s.arg.flag = false → { l with bad := insertNat w l.bad } ∈ (t.core k).l1 ∧ ∀ j, j ≠ k → t.core j = s.core j) ∧
        (s.arg.flag = true → t.cores = s.cores ∧
          (t.chip (keyChip k)).softErrs = (s.chip (keyChip k)).softErrs + 1)) ∧
    (2 ^ 60 ≤ s.arg.addr → s.arg.addr < 2 ^ 61 →
      let k := (s.arg.addr - 2 ^ 60) / 2048
      let i := (s.arg.addr - 2 ^ 60) % 2048
      ∃ t, exec .softError s = .next t ∧ t.mem = s.mem ∧ t.bad = s.bad ∧ (∀ j, j ≠ k → t.core j = s.core j) ∧
        (i ∈ (t.core k).lanesBad ∨ (s.arg.flag = true ∧ i + 2048 ∈ (t.core k).lanesBad))) ∧
    -- the windows of the memory controllers
    (∃ t, exec .budgetWindow s = .next t ∧ t.chip chip = { ch with budget := ch.budgetIn s.now, budgetWin := s.now / 4096 } ∧ t.mem = s.mem ∧ t.cores = s.cores) ∧
    (∃ t, exec .refreshWindow s = .next t ∧ t.mem = s.mem ∧ t.cores = s.cores ∧ ∀ key b, AMap.find? ch.banks key = some b →
      AMap.find? (t.chip chip).banks key = some (if key / 2048 = stack then { b with counts := [], events := [] } else b)) ∧
    (let b := AMap.get ch.banks {} (bankKey s.arg)
     let vd := s.arg.vd
     let n := ((b.counts.find? fun x => x.1 == (s.arg.row, vd)).map Prod.snd).getD 0
     let ev := AMap.get b.events 0 vd + 1
     (n < ch.rhth.getD stack 0 → exec .rowThrottleEvent s = .next s) ∧
     (ch.rhth.getD stack 0 ≤ n → ∃ t b', exec .rowThrottleEvent s = .next t ∧ t.cores = s.cores ∧ b' = AMap.get (t.chip chip).banks {} (bankKey s.arg) ∧
      (vd, s.now + 2048) ∈ b'.parked ∧ AMap.get b'.events 0 vd = ev ∧ (∀ x ∈ b'.counts, x.1 ≠ (s.arg.row, vd)) ∧
      AMap.get (t.chip chip).budget 0 (vd * 16 + stack) = AMap.get (ch.budgetIn s.now) 0 (vd * 16 + stack) + 64 ∧
      t.mem = (s.ringEntry chip 1 vd [BitVec.ofNat 64 (vd * 2 ^ 48 + stack * 2 ^ 45 + s.arg.pc % 63 * 2 ^ 39 + s.arg.bank % 32 * 2 ^ 34 +
        s.arg.row % 2 ^ 18 * 2 ^ 16 + min ev 0xFFFF), BitVec.ofNat 64 s.now]).mem) ∧
     (∃ t, exec .throttleEnd s = .next t ∧ t.mem = s.mem ∧ t.cores = s.cores ∧
      (AMap.get (t.chip chip).banks {} (bankKey s.arg)).parked = b.parked.filter fun x => !(x.1 == vd && decide (x.2 ≤ s.now)))) ∧
    -- power
    (let idle := ∀ x ∈ s.vds, chip ∈ x.2.created → x.2.res = .bivouac
     let granted := fun (i : Instr) (f : Chip) => ∃ t, exec i s = .next t ∧ Answered s t opMgmt 0 [] [] ∧ t.chip chip = f ∧
      t.mem = s.mem ∧ t.cores = s.cores
     let refused := fun (i : Instr) => ∃ t, exec i s = .next t ∧ Answered s t opMgmt 3 [] [] ∧ t.mem = s.mem ∧ t.cores = s.cores ∧
      (ch.power ≠ .training → t.chip chip = ch)
     let w := (s.arg.words.headD 0).toNat
     let dark := fun (t : State) => ∀ k, t.core k = if keyChip k = chip then {} else s.core k
     let used := fun (cmd : Nat) => if cmd = 4 then 0xF000000000FFFF#56 else 0xF0000000000000#56
     let asks := fun (cmd : Nat) => s.takesMgmt 4 (used cmd) ∧ s.arg.addr = 0 ∧ fld w 52 4 = cmd
     (∀ i cmd, (i, cmd) ∈ [(Instr.enterOn, 1), (.enterStandby, 2), (.enterOff, 3), (.setModuleCap, 4)] → s.takesMgmt 4 (used cmd) →
        s.arg.addr ≠ 0 ∨ fld w 52 4 ≠ cmd → refused i) ∧
      (asks 1 → ch.power = .standby → granted .enterOn { ch with
        power := if (tab 12 id).all fun q => !(ch.port q).inService || (ch.port q).dead then .on else .training,
        ports := ch.retrain s.now }) ∧
      (asks 1 → ch.power ≠ .standby → refused .enterOn) ∧
      (asks 2 → idle → ∃ t, exec .enterStandby s = .next t ∧ Answered s t opMgmt 0 [] [] ∧ t.chip chip = { ch with power := .standby } ∧
        dark t ∧ ∀ a, t.mem.read a = if chipOf a = chip ∧ mappedPa a = false then 0 else s.mem.read a) ∧
      (asks 2 → ¬ idle → refused .enterStandby) ∧
      (asks 3 → ch.power = .standby → ∃ t, exec .enterOff s = .next t ∧
        t.answers = s.answers ++ [⟨s.header opMgmt, s.outOf s.arg.conn, 0, [], []⟩] ∧ (∀ c ∈ t.conns, c.chip ≠ chip) ∧
        t.chip chip = { ch with power := .off } ∧ (∀ k, keyChip k = chip → t.core k = {}) ∧
        ∀ a, t.mem.read a = if chipOf a = chip then 0 else s.mem.read a) ∧
      (asks 3 → ch.power ≠ .standby → refused .enterOff) ∧
      (asks 4 → 1500 ≤ fld w 0 16 → fld w 0 16 ≤ 3200 → granted .setModuleCap { ch with modCap := fld w 0 16 }) ∧
      (asks 4 → fld w 0 16 < 1500 ∨ 3200 < fld w 0 16 → refused .setModuleCap) ∧
      (s.takesUp opMgmt → let ok := ch.power = .recovery ∧ s.arg.index < 2 ∧ s.arg.image.ecdsaOk = true ∧ s.arg.image.lmsOk = true ∧
        ch.rollback ≤ s.arg.image.version
       (ok → granted .recoveryImageWrite { ch with flash := ch.flash.set s.arg.index s.arg.image }) ∧ (¬ ok → refused .recoveryImageWrite))) ∧
    (ch.power ≠ .off → ch.power ≠ .recovery → exec .powerOn s = .next s) ∧
    (ch.power = .off ∨ ch.power = .recovery → ∃ t, exec .powerOn s = .next t ∧
      (∀ i, ch.flash.find? ch.verified = some i → (t.chip chip).power = .standby ∧ (t.chip chip).version = i.version ∧
        (t.chip chip).digest = i.digest) ∧
      (t.chip chip).sups = (tab 16 fun i => ch.sups.getD i false && !(s.arg.words.headD 0).getLsbD i) ∧
      (t.chip chip).duty = onDuty (t.chip chip).sups ∧
      (ch.flash.find? ch.verified = none → (t.chip chip).power = .recovery) ∧ (∀ k, keyChip k = chip → t.core k = {}) ∧
      ∀ a, chipOf a = chip → t.mem.read a = 0) ∧
    (∃ t, exec .powerSample s = .next t ∧ t.mem = s.mem ∧ t.cores = s.cores ∧
      (ch.power = .on → ch.modCap < s.arg.value → (t.chip chip).throttled = true ∧ 1 ≤ (t.chip chip).capLow ∧
        (1 < ch.capLow → (t.chip chip).capLow < ch.capLow) ∧ 1 ≤ (t.chip chip).injLow ∧ (1 < ch.injLow → (t.chip chip).injLow < ch.injLow)) ∧
      (ch.power = .on → s.arg.value ≤ ch.modCap → ch.throttled = true → s.arg.value * 100 ≤ ch.modCap * 95 →
        (t.chip chip).throttled = false ∧ (t.chip chip).capLow = (if ch.coolant then 1 else 16) ∧ (t.chip chip).injLow = 0) ∧
      (ch.power ≠ .on ∨ (s.arg.value ≤ ch.modCap ∧ (ch.throttled = false ∨ ch.modCap * 95 < s.arg.value * 100)) → t.chip chip = ch)) ∧
    (ch.power ≠ .on → exec .coolantTrip s = .next s) ∧
    (ch.power = .on → ∃ t, exec .coolantTrip s = .next t ∧ t.chip chip = { ch with coolant := true, capLow := 1, coolantReports := ch.coolantReports + 1 } ∧ t.mem = s.mem ∧
      t.cores = s.cores)

/-- The partition commands and supervisor space. (R102, R449, R450, R451, R452, R465, R466, R467, R468, R469, R470, R478) -/
def Obligations.PartitionsAndSupervisorSpace : Prop :=
  ∀ (s : State),
    let chip := s.arg.chip
    let ch := s.chip chip
    let ended := fun (t : State) (refused : Bool) => (t.chip chip).partq = ch.partq.tail ∧ (t.chip chip).partRef = refused ∧
      (t.chip chip).partDone = (ch.partDone + 1) % 2 ^ 32
    let turnedAway := fun (i : Instr) => ∃ t, exec i s = .next t ∧ ended t true ∧ t.mem = s.mem ∧ t.cores = s.cores ∧ t.vds = s.vds ∧
      (t.chip chip).blocks = ch.blocks ∧ (t.chip chip).slots = ch.slots
    let block := fun (t : State) (log base : Nat) => AMap.find? (t.chip chip).blocks (blockKey log base)
    -- partition commands
    (∀ i cmd, (i, cmd) ∈ [(Instr.partSplit, 1), (.partMerge, 2), (.vdCreate, 3)] → s.partHead chip cmd = none →
      exec i s = .next s) ∧
    (∀ i cmd p, (i, cmd) ∈ [(Instr.partSplit, 1), (.partMerge, 2), (.vdCreate, 3)] → s.partHead chip cmd = some p → p.ok = false →
      turnedAway i) ∧
    (∀ p, s.partHead chip 1 = some p → p.ok = true →
      (block s p.log p.base = some .free → 1 ≤ p.log → ∃ t, exec .partSplit s = .next t ∧ ended t false ∧ t.mem = s.mem ∧
        t.cores = s.cores ∧ block t p.log p.base = some .split ∧ block t (p.log - 1) p.base = some .free ∧
        block t (p.log - 1) (p.base + 2 ^ (p.log - 1)) = some .free) ∧
      (block s p.log p.base ≠ some .free ∨ p.log = 0 → turnedAway .partSplit)) ∧
    (∀ p, s.partHead chip 2 = some p → p.ok = true →
      let lo := block s (p.log - 1) p.base
      let hi := block s (p.log - 1) (p.base + 2 ^ (p.log - 1))
      (block s p.log p.base = some .split → lo = some .free → hi = some .free → ∃ t, exec .partMerge s = .next t ∧ ended t false ∧
        t.mem = s.mem ∧ t.cores = s.cores ∧ block t p.log p.base = some .free) ∧
      (block s p.log p.base ≠ some .split ∨ lo ≠ some .free ∨ hi ≠ some .free → turnedAway .partMerge)) ∧
    (∀ p, s.partHead chip 3 = some p → p.ok = true →
      let x := AMap.get ch.slots {} p.slot
      let w := (s.vdev? (descVd x.desc)).getD (descVdev x.desc x.chipList)
      (s.createOk chip p = true → ∃ t v y, exec .vdCreate s = .next t ∧ ended t false ∧ t.mem = s.mem ∧ t.cores = s.cores ∧
        block t p.log p.base = some .assigned ∧ t.vdev? (descVd x.desc) = some v ∧ chip ∈ v.created ∧
        (∀ c ∈ w.created, c ∈ v.created) ∧ AMap.get v.base 0 chip = p.base ∧ AMap.get v.slot 0 chip = p.slot ∧
        v = { w with slot := v.slot, base := v.base, created := v.created } ∧
        AMap.find? (t.chip chip).slots p.slot = some y ∧ y.vd = descVd x.desc ∧ y.keyed = false ∧
        y.grants = (tab (2 ^ p.log) fun i => p.base + i)) ∧
      (s.createOk chip p = false → turnedAway .vdCreate)) ∧
    (ch.partq = [] → exec .vdDestroy s = .next s) ∧
    (∀ w rest, ch.partq = w :: rest →
      let p := partCmd w
      let vd := s.slotVd chip p.slot
      (1 ≤ p.cmd → p.cmd ≤ 3 → exec .vdDestroy s = .next s) ∧
      (p.cmd = 0 ∨ 4 < p.cmd → turnedAway .vdDestroy) ∧
      (p.cmd = 4 → s.vdev? vd = none → turnedAway .vdDestroy) ∧
      ∀ v, p.cmd = 4 → s.vdev? vd = some v →
        let may := p.ok = true ∧ v.running = false ∧ chip ∈ v.created ∧ v.plog = p.log ∧ AMap.get v.base 0 chip = p.base
        (¬ may → turnedAway .vdDestroy) ∧
        (may → v.dying = false → ∃ t v', exec .vdDestroy s = .next t ∧ t.vdev? vd = some v' ∧ v'.dying = true ∧ v'.reset = 3 ∧
          v'.scope = v.chips ∧ (t.chip chip).partq = ch.partq) ∧
        (may → v.dying = true → v.reset ≠ 0 → exec .vdDestroy s = .next s) ∧
        (may → v.dying = true → v.reset = 0 → ∃ t, exec .vdDestroy s = .next t ∧ ended t false ∧ (∀ f ∈ (t.chip chip).frames, f.2 ≠ vd) ∧
          (∀ k ∈ (t.chip chip).keys, k ≠ vd) ∧ AMap.find? (t.chip chip).slots p.slot = some {} ∧
          (∀ k, keyChip k = chip → (s.core k).owner = vd → t.core k = {}) ∧
          ((s.vds.map Prod.fst).Pairwise (· < ·) → (∀ c ∈ v.created, c = chip) → t.vdev? vd = none) ∧
          ((∃ c ∈ v.created, c ≠ chip) → ∃ v', t.vdev? vd = some v' ∧ v'.created = v.created.filter (· != chip)))) ∧
    -- routing tables, group entries and DISPINIT
    (∃ t, exec .rtswap s = .next t ∧ t.chip chip =
      { ch with table := AMap.put ch.shadow chip 0, lag := some (s.now, s.free, ch.table), swaps := (ch.swaps + 1) % 2 ^ 32 } ∧ t.mem = s.mem ∧ t.cores = s.cores) ∧
    (let g := s.arg.index % 1024
     let old := AMap.get ch.stage (s.groupEntry chip g) g
     ∃ t, exec .groupTableWrite s = .next t ∧ t.groupEntry chip g = s.arg.words.headD 0 :: old.tail ∧
      (∀ j, j ≠ g → t.groupEntry chip j = s.groupEntry chip j) ∧ t.mem = s.mem ∧ t.cores = s.cores) ∧
    (let w := s.arg.words.headD 0
     let vd := s.slotVd chip s.arg.index
     let good := w.toNat / 2 ^ 56 = 0 ∧ w.toNat % 2 ^ 12 = 0
     (¬ good → exec .dispinit s = .next s) ∧
     (∀ v, s.vdev? vd = some v → v.running = true → exec .dispinit s = .next s) ∧
     (good → s.vdev? vd = none → ∃ t, exec .dispinit s = .next t ∧ (AMap.get (t.chip chip).slots {} s.arg.index).dispinit = w ∧
      t.mem = s.mem ∧ t.cores = s.cores) ∧
     ∀ v, good → s.vdev? vd = some v → v.running = false → ∃ t, exec .dispinit s = .next t ∧
      (AMap.get (t.chip chip).slots {} s.arg.index).dispinit = w ∧
      ∀ n, n < v.cores → keyChip (s.vdCoreKey v n) = chip → (s.core (s.vdCoreKey v n)).owner = vd →
        (t.core (s.vdCoreKey v n)).dispbase = w) ∧
    -- register writes of the hypervisor
    (let w := s.arg.words.headD 0
     let writes := fun (off : Nat) (c : Chip) => s.arg.value = 8 → s.arg.addr = off → ∃ t, exec .supervisorRegisterWrite s = .next t ∧
      t.chip chip = { c with supCause := none } ∧ t.mem = s.mem ∧ t.cores = s.cores ∧ t.vds = s.vds
     let denied := exec .supervisorRegisterWrite s = .next (s.updChip chip fun c => { c with supCause := some Cause.access })
     let ignores := fun (off : Nat) => s.arg.value = 8 → s.arg.addr = off → denied
     writes 0x030 { ch with evhead := w } ∧ writes 0x040 { ch with evlost := 0 } ∧
      (fld w.toNat 56 8 = 0 → fld w.toNat 5 7 = 0 → writes 0x028 { ch with evbase := w }) ∧
      (fld w.toNat 56 8 ≠ 0 ∨ fld w.toNat 5 7 ≠ 0 → ignores 0x028) ∧
      (w = 1 → writes 0x020 { ch with
        table := AMap.put ch.shadow chip 0, lag := some (s.now, s.free, ch.table), swaps := (ch.swaps + 1) % 2 ^ 32 }) ∧ (w ≠ 1 → ignores 0x020) ∧
      ignores 0x000 ∧ ignores 0x010 ∧ ignores 0x038 ∧
      (let fits := ch.partq.length < 16
       (fld w.toNat 0 32 ≠ 0 → ignores 0x008) ∧ (fld w.toNat 0 32 = 0 → fits → writes 0x008 { ch with partq := ch.partq ++ [w] }) ∧
       (fld w.toNat 0 32 = 0 → ¬ fits → writes 0x008 { ch with partRef := true })) ∧
      (∀ c, c < 512 → (w.toNat < 2 ^ 12 → writes (0x1000 + 8 * c) { ch with shadow := AMap.put ch.shadow c (if c = chip then 0 else w) }) ∧
        (2 ^ 12 ≤ w.toNat → ignores (0x1000 + 8 * c))) ∧
      (∀ slot, slot < 2 ^ 14 →
        let x := AMap.get ch.slots {} slot
        let at_ := 0x1000000 + 0x2000 * slot
        let sets := fun (o : Nat) (y : VdSlot) => writes (at_ + o) { ch with slots := AMap.put ch.slots slot y }
        (∀ i, i < 4 → (x.vd = 0 → sets (8 * i) { x with desc := x.desc.set i w }) ∧ (x.vd ≠ 0 → ignores (at_ + 8 * i))) ∧
        (w.toNat < 2 ^ 18 → fld w.toNat 14 2 = 0 → sets 0x40 { x with cmdarg := w }) ∧
        (fld w.toNat 56 7 = 0 → fld w.toNat 0 23 = 0 → sets 0x50 { x with tracecfg := w }) ∧
        (fld w.toNat 56 7 ≠ 0 ∨ fld w.toNat 0 23 ≠ 0 → ignores (at_ + 0x50)) ∧ ignores (at_ + 0x30) ∧ ignores (at_ + 0x58) ∧
        (∀ v i, s.vdev? x.vd = some v → v.running = true → i < 16 → ignores (at_ + 0x200 + 8 * i))) ∧
      (s.arg.value = 4 → s.arg.addr = 0x034 → ∃ t, exec .supervisorRegisterWrite s = .next t ∧
        t.chip chip = { ch with evhead := (ch.evhead &&& 0xFFFFFFFF) ||| (w <<< 32), supCause := none } ∧ t.mem = s.mem ∧ t.cores = s.cores) ∧
      (s.arg.addr % s.arg.value ≠ 0 ∨ s.arg.value ∉ [1, 2, 4, 8] → denied)) ∧
    -- reads, and the host's runs of words
    s.supRead chip 0x010 = (0, BitVec.ofNat 64 ((ch.partq != []).toNat * 2 ^ 63 + ch.partRef.toNat * 2 ^ 62 + ch.partDone)) ∧
    s.supRead chip 0x030 = (0, ch.evhead) ∧ s.supRead chip 0x038 = (0, ch.evtail) ∧ s.supRead chip 0x040 = (0, ch.evlost) ∧
    s.supRead chip 0x020 = (0, BitVec.ofNat 64 ch.swaps) ∧ (s.supRead chip 0x050).1 = 3 ∧
    (∀ w, w < 9216 → (s.core (windowCore chip w)).inspected = false → (s.supRead chip (0x10000000 + 0x1000 * w)).1 = 1) ∧
    (∀ w o, w < 9216 → o < 0x1000 → (s.core (windowCore chip w)).inspected = true →
      s.supRead chip (0x10000000 + 0x1000 * w + o) = (0, (s.core (windowCore chip w)).inspect o)) ∧
    (let frame := fun (t : State) => t.mem = s.mem ∧ t.cores = s.cores ∧ t.vds = s.vds
     let n := fld (s.arg.words.headD 0).toNat 0 13
     (s.takesMgmt 1 0x1FFF#56 →
      (supRun s.arg.addr n = false → ∃ t, exec .supervisorSpaceRead s = .next t ∧ Answered s t opMgmt 3 [] [] ∧ frame t) ∧
      (supRun s.arg.addr n = true → n = 8 → ∃ t, exec .supervisorSpaceRead s = .next t ∧ frame t ∧
        let r := s.supRead chip (s.arg.addr - supBase)
        Answered s t opMgmt r.1 (if r.1 ≤ 1 then [r.2] else []) [])) ∧
     (s.takesMgmt 2 0#56 →
      (supRun s.arg.addr (8 * s.arg.words.tail.length) = false → ∃ t, exec .supervisorSpaceWrite s = .next t ∧
        Answered s t opMgmt 3 [] [] ∧ frame t) ∧
      (∀ w, s.arg.words.tail = [w] → s.arg.addr = supBase + 0x030 → ∃ t, exec .supervisorSpaceWrite s = .next t ∧
        Answered s t opMgmt 0 [] [] ∧ frame t ∧ t.chip chip = { ch with evhead := w }) ∧
      (∀ w, s.arg.words.tail = [w] → s.arg.addr = supBase ∨ s.arg.addr = supBase + 0x038 → ∃ t, exec .supervisorSpaceWrite s = .next t ∧
        Answered s t opMgmt 3 [] [] ∧ frame t ∧ t.chip chip = ch)))

/-- The host's requests, attestation and the belay network. That an inspection offset is answered at the core's own stop alone is the
model's choice (log entry 127). (R240, R456, R457, R458, R471, R472, R474, R475, R476, R477, R481, R482) -/
def Obligations.HostSpdmAndBelay : Prop :=
  ∀ (s : State),
    let a := s.arg
    let chip := a.chip
    let ch := s.chip chip
    let s' := s.setConn a.conn a.vd a.seq
    let turn := ch.power ≠ .off ∧ s.connWaits a.conn = false ∧ (s.connOf a.conn a.vd a.seq).2 = a.seq
    let plain := [(Instr.hostWrite, 1), (.hostRead, 2), (.hostEnqueue, 3), (.hostWake, 4)]
    let spdm := [Instr.getVersion, .getCapabilities, .negotiateAlgorithms, .getDigests, .getCertificate, .challenge, .getMeasurements,
      .keyExchange, .finish, .endSession, .keyInstall]
    let commands := (spdm.map fun i => (i, 3, 0#56)) ++ [(Instr.supervisorSpaceRead, 1, 0x1FFF#56), (.supervisorSpaceWrite, 2, 0#56),
      (.enterStandby, 4, 0xF0000000000000#56), (.enterOff, 4, 0xF0000000000000#56), (.setModuleCap, 4, 0xF000000000FFFF#56)]
    let mgmt := commands.map Prod.fst ++ [.recoveryImageWrite]
    let replies := fun (u t : State) (h : Header) (st : Nat) (data : List Word) (bytes : List Byte) =>
      t.answers = u.answers ++ [⟨h, s.outOf a.conn, st, data, bytes⟩]
    let answers := fun (t : State) (op st : Nat) (data : List Word) => replies s t (s.header op) st data []
    let frame := fun (t : State) => t.mem = s.mem ∧ t.cores = s.cores ∧ t.vds = s.vds ∧ t.chips = s.chips
    let bad := fun (op : Nat) => a.op.isSome ∨ a.vd ≠ (s.connOf a.conn a.vd a.seq).1 ∨
      (op == opMgmt) ≠ ((s.connOf a.conn a.vd a.seq).1 == 0) ∨ 2 ^ 57 ≤ a.addr
    -- connections
    (¬ turn → ∀ i ∈ plain.map Prod.fst ++ mgmt, exec i s = .next s) ∧
    (turn → ch.power ≠ .on → ∀ i ∈ plain, ∃ t, exec i.1 s = .next t ∧ answers t i.2 1 [] ∧ frame t) ∧
    (turn → ch.power = .on → ∀ i ∈ plain, bad i.2 → ∃ t, exec i.1 s = .next t ∧ answers t i.2 3 [] ∧ frame t) ∧
    (turn → ∀ i ∈ mgmt, bad opMgmt → ∃ t, exec i s = .next t ∧ answers t opMgmt 3 [] ∧ frame t) ∧
    (s.takesUp opMgmt → ∀ i ∈ commands, ¬ s.takesMgmt i.2.1 i.2.2 → ∃ t, exec i.1 s = .next t ∧ answers t opMgmt 3 [] ∧ frame t) ∧
    -- ENQUEUE, WRITE, READ and WAKE
    (s.vdev? a.vd = none → ∀ i ∈ plain, s.takesUp i.2 → ∃ t, exec i.1 s = .next t ∧ answers t i.2 3 [] ∧ frame t) ∧
    (∀ v, s.vdev? a.vd = some v →
      (s.takesUp 3 →
       let q := a.addr % 8
       let w := s.queueWord a.vd q
       let i := (v.queue q).tail
       let me := Walker.launch a.vd (enqueueKey (2 ^ 64 + a.conn * 2 ^ 32 + a.seq))
       let closed := w % 2 = 0 ∨ v.res = .bivouac ∨ i - (v.queue q).head = queueLen w
       (a.words.length ≠ 8 → ∃ t, exec .hostEnqueue s = .next t ∧ answers t 3 3 [] ∧ frame t) ∧
       (a.words.length = 8 → closed → ∃ t, exec .hostEnqueue s = .next t ∧ answers t 3 0 [0] ∧ frame t) ∧
       (a.words.length = 8 → ¬ closed → s.unitPa me a.vd (recordVa w i) permW = .ask → ∃ t v', exec .hostEnqueue s = .next t ∧
        t.answers = s.answers ∧ t.mem = s.mem ∧ t.vdev? a.vd = some v' ∧
        v'.enqueueWait = v.enqueueWait ++ [⟨0, 0, 0, 0, 0, some (s.header 3), q, a.words⟩]) ∧
       ∀ pr mr ps ms, a.words.length = 8 → ¬ closed → q < v.queues.length → s.unitPa me a.vd (recordVa w i) permW = .ok pr mr →
        s.unitPa me a.vd (statusVa w i) permW = .ok ps ms → s.unitHeld a.vd pr 64 = false → s.unitHeld a.vd ps 8 = false →
        ∃ t v', exec .hostEnqueue s = .next t ∧
          answers t 3 0 [BitVec.ofNat 64 v.nextId] ∧ t.vdev? a.vd = some v' ∧ v'.nextId = v.nextId + 1 ∧ (v'.queue q).tail = i + 1 ∧
          AMap.find? (v'.queue q).ids i = some v.nextId ∧ v'.launches = v.launches ∧
          t.mem = (((s.untold me).unitWrite a.vd pr mr a.words).unitWrite a.vd ps ms
            [BitVec.ofNat 64 (v.nextId * 2 ^ 16 + 0xFF)]).mem) ∧
      (s.takesUp 1 →
       let q := s'.hostReq ⟨s.header 1, chip, a.addr, a.bytes, 0⟩
       let n := hostPiece q.addr q.bytes.length
       let access := s'.hostAccess q n permW .store (BitVec.ofNat 64 (leNat (q.bytes.take n)))
       (8192 < a.bytes.length → ∃ t, exec .hostWrite s = .next t ∧ answers t 1 3 [] ∧ frame t) ∧
       (a.bytes.length ≤ 8192 → q.bytes = [] → ∃ t, exec .hostWrite s = .next t ∧ frame t ∧ replies s t q.head 0 [] []) ∧
       (a.bytes.length ≤ 8192 → q.bytes ≠ [] →
        (∀ u, access = .wait u → ∃ t, exec .hostWrite s = .next t ∧ q ∈ t.hostQ ∧ t.answers = u.answers ∧ t.mem = u.mem) ∧
        (∀ st u, access = .fail st u → ∃ t, exec .hostWrite s = .next t ∧ t.mem = u.mem ∧ replies u t q.head st [] []) ∧
        ∀ v u, access = .done v u → ∃ t, exec .hostWrite s = .next t ∧ t.mem = u.mem ∧
          (q.bytes.drop n = [] → replies u t q.head 0 [] []) ∧
          (q.bytes.drop n ≠ [] → t.answers = u.answers ∧ { q with addr := q.addr + n, bytes := q.bytes.drop n } ∈ t.hostQ))) ∧
      (s.takesUp 2 →
       let q := s'.hostReq ⟨s.header 2, chip, a.addr, [], a.value⟩
       let n := hostPiece q.addr q.left
       let access := s'.hostAccess q n permR .load 0
       (8192 < a.value → ∃ t, exec .hostRead s = .next t ∧ answers t 2 3 [] ∧ frame t) ∧
       (a.value ≤ 8192 → q.left = 0 → ∃ t, exec .hostRead s = .next t ∧ frame t ∧ replies s t q.head 0 [] q.bytes) ∧
       (a.value ≤ 8192 → q.left ≠ 0 →
        (∀ u, access = .wait u → ∃ t, exec .hostRead s = .next t ∧ q ∈ t.hostQ ∧ t.answers = u.answers ∧ t.mem = u.mem) ∧
        (∀ st u, access = .fail st u → ∃ t, exec .hostRead s = .next t ∧ t.mem = u.mem ∧ replies u t q.head st [] []) ∧
        ∀ v u, access = .done v u → ∃ t, exec .hostRead s = .next t ∧ t.mem = u.mem ∧
          (q.left = n → replies u t q.head 0 [] (q.bytes ++ leBytes n v.toNat)) ∧
          (q.left ≠ n → t.answers = u.answers ∧
            { q with addr := q.addr + n, bytes := q.bytes ++ leBytes n v.toNat, left := q.left - n } ∈ t.hostQ))) ∧
      (s.takesUp 4 →
       let access := s'.hostPerform
        { pa := v.wakeAddr, size := 8, cls := .store, data := 1, kind := .s, vd := a.vd, src := hostUnit chip }
       (∀ u, access = .wait u → exec .hostWake s = .next s) ∧
       (∀ st u, access = .fail st u → ∃ t, exec .hostWake s = .next t ∧ t.mem = u.mem ∧ replies u t (s.header 4) st [] []) ∧
       ∀ val u, access = .done val u → ∃ t, exec .hostWake s = .next t ∧ t.mem = u.mem ∧ replies u t (s.header 4) 0 [] [])) ∧
    -- attestation
    (s.takesMgmt 3 0#56 → a.addr ≠ 0 → ∀ i ∈ spdm, ∃ t, exec i s = .next t ∧ answers t opMgmt 3 [] ∧ frame t) ∧
    (s.takesMgmt 3 0#56 → a.addr = 0 →
      let x := ch.spdm
      let after := fun (i : Instr) (ok : Bool) (y : Spdm) (carried : List Word) => ∃ t, exec i s = .next t ∧ t.mem = s.mem ∧
        t.cores = s.cores ∧ t.vds = s.vds ∧ (ok = true → (t.chip chip).spdm = y ∧ ∃ w, Answered s t opMgmt 0 (w :: carried) []) ∧
        (ok = false → Answered s t opMgmt 0 [] [] ∧ t.chips = s.chips)
      after .getVersion true { version := true } [0x13] ∧ after .getCapabilities x.version { x with caps := true } [] ∧
      after .negotiateAlgorithms x.caps { x with algs := true } [384, 384, 384, 256] ∧
      (∀ i ∈ [Instr.getDigests, .getCertificate, .challenge], after i x.algs x []) ∧
      after .getMeasurements (x.algs && decide (1 ≤ a.index ∧ a.index ≤ 5)) x (s.measurement chip a.index) ∧
      after .keyExchange x.algs { x with keyex := true, session := false, accepted := false } [] ∧
      after .finish (x.keyex && !x.session) { x with session := true, accepted := a.flag } [] ∧
      after .endSession x.session { x with keyex := false, session := false, accepted := false } [] ∧
      (let here := ∃ v, s.vdev? a.index = some v ∧ chip ∈ v.created ∧ v.dying = false
       (x.session = true → x.accepted = true → here → ∃ t w, exec .keyInstall s = .next t ∧ Answered s t opMgmt 0 [w] [] ∧
        a.index ∈ (t.chip chip).keys ∧ (t.vdSlotRec a.index chip).keyed = true ∧ t.mem = s.mem ∧ t.cores = s.cores ∧ t.vds = s.vds) ∧
       (x.session = false ∨ x.accepted = false ∨ ¬ here → ∃ t, exec .keyInstall s = .next t ∧ Answered s t opMgmt 3 [] [] ∧ frame t))) ∧
    -- the belay network
    (let m := belayMsg (a.words.headD 0)
     let asked := 256 ≤ m.sstop ∧ m.sstop < 260 ∧ 4 * m.sdie + (m.sstop - 256) ∈ ch.duty ∧ ch.power ≠ .off ∧
      (m.dstop < 267 ∨ (m.dstop = 267 ∧ m.ddie % 2 = 0))
     let back := fun (t : State) (st : Nat) (data : Word) =>
      (t.chip chip).belay = ch.belay ++ [⟨s.nextId, (m.answer st).word, data⟩] ∧ t.mem = s.mem ∧ t.cores = s.cores
     let node := keyNode (windowCore chip ((m.off - 0x10000000) / 0x1000))
     let own := m.ddie = nodeDie node ∧ m.dstop = nodeInDie node
     (¬ (asked ∧ m.ty = 0) → exec .belayRead s = .next s) ∧ (¬ (asked ∧ m.ty = 1) → exec .belayWrite s = .next s) ∧
     (asked → m.ty = 0 → inspection m.off = true → own → ∃ t, exec .belayRead s = .next t ∧
      back t (s.supRead chip (m.off / 8 * 8)).1 (s.supRead chip (m.off / 8 * 8)).2) ∧
     (asked → m.ty = 0 → inspection m.off = true → ¬ own → ∃ t, exec .belayRead s = .next t ∧ back t 3 0) ∧
     (asked → m.ty = 0 → inspection m.off = false → ∃ t w, exec .belayRead s = .next t ∧ back t 0 w) ∧
     (asked → m.ty = 1 → ∃ t, exec .belayWrite s = .next t ∧ back t (if inspection m.off then 3 else 0) (a.words.getD 1 0))) ∧
    (∀ ty i, (i = .belayAnswer ∧ ty = 2) ∨ (i = .belayEvent ∧ ty = 3) → s.belayFind ty = none → exec i s = .next s) ∧
    (∀ b, s.belayFind 2 = some b → ∃ t, exec .belayAnswer s = .next t ∧ (t.chip chip).belay = (ch.belay.filter fun x => x.id != b.id) ∧
      t.mem = s.mem ∧ t.cores = s.cores) ∧
    ∀ b, s.belayFind 3 = some b → ∃ t, exec .belayEvent s = .next t ∧ (t.chip chip).belay = (ch.belay.filter fun x => x.id != b.id) ∧
      t.cores = s.cores ∧ (s.belayEntry chip b = none → t.mem = s.mem) ∧
      ∀ ty vd body, s.belayEntry chip b = some (ty, vd, body) → t.mem = (s.ringEntry chip ty vd body).mem
end

