-- ==== Sys2Proof/Laws/Encoding.lean ====
section
/-! SUPPORT. Fields of a packed word: what `fld` reads from `pack`, field by field. -/

namespace Sys2Proof

/-- The bits `lo` to `lo + n - 1` of a packed word, read from its list of fields. -/
def packFld : List (Nat × Nat) → Nat → Nat → Nat
  | [], _, _ => 0
  | (k, v) :: fs, lo, n =>
    if k ≤ lo then packFld fs (lo - k) n
    else if lo + n ≤ k then fld v lo n
    else fld v lo (k - lo) + 2 ^ (k - lo) * packFld fs 0 (n - (k - lo))

theorem fld_zero_lo (w n : Nat) : fld w 0 n = w % 2 ^ n := by simp [fld]

/-- A field of `v % 2 ^ k + 2 ^ k * r` above bit `k` lies in `r`. -/
theorem fld_high (v r k lo n : Nat) (h : k ≤ lo) : fld (v % 2 ^ k + 2 ^ k * r) lo n = fld r (lo - k) n := by
  obtain ⟨d, rfl⟩ := Nat.exists_eq_add_of_le h
  have hk : 0 < 2 ^ k := Nat.two_pow_pos k
  have hv : v % 2 ^ k < 2 ^ k := Nat.mod_lt _ hk
  have : (v % 2 ^ k + 2 ^ k * r) / 2 ^ (k + d) = r / 2 ^ d := by
    rw [Nat.pow_add, ← Nat.div_div_eq_div_mul, Nat.add_mul_div_left _ _ hk, Nat.div_eq_of_lt hv, Nat.zero_add]
  simp [fld, this]

/-- A field that ends at bit `k` or below lies in `v`. -/
theorem fld_low (v r k lo n : Nat) (h : lo + n ≤ k) : fld (v % 2 ^ k + 2 ^ k * r) lo n = fld v lo n := by
  obtain ⟨d, rfl⟩ := Nat.exists_eq_add_of_le h
  have e1 : v % 2 ^ (lo + n + d) + 2 ^ (lo + n + d) * r = v % 2 ^ (lo + n) + 2 ^ (lo + n) * (v / 2 ^ (lo + n) % 2 ^ d + 2 ^ d * r) := by
    rw [Nat.pow_add 2 (lo + n) d, Nat.mod_mul, Nat.mul_add, Nat.mul_assoc]; omega
  have e2 : ∀ q, (v % 2 ^ (lo + n) + 2 ^ (lo + n) * q) / 2 ^ lo % 2 ^ n = v / 2 ^ lo % 2 ^ n := by
    intro q
    have : v % 2 ^ (lo + n) + 2 ^ (lo + n) * q = v % 2 ^ lo + 2 ^ lo * (v / 2 ^ lo % 2 ^ n + 2 ^ n * q) := by
      rw [Nat.pow_add 2 lo n, Nat.mod_mul, Nat.mul_add, Nat.mul_assoc]; omega
    rw [this, Nat.add_mul_div_left _ _ (Nat.two_pow_pos lo), Nat.div_eq_of_lt (Nat.mod_lt _ (Nat.two_pow_pos lo)), Nat.zero_add,
      Nat.add_mul_mod_self_left, Nat.mod_mod]
  rw [e1]; exact e2 _

/-- A field of `a + b` bits is its low part and its high part. -/
theorem fld_add (w lo a b : Nat) : fld w lo (a + b) = fld w lo a + 2 ^ a * fld w (lo + a) b := by
  simp only [fld, Nat.pow_add, ← Nat.div_div_eq_div_mul]
  exact Nat.mod_mul

/-- What a field of a packed word reads. -/
theorem fld_pack (fs : List (Nat × Nat)) (lo n : Nat) : fld (pack fs) lo n = packFld fs lo n := by
  induction fs generalizing lo n with
  | nil => simp [pack, packFld, fld]
  | cons f fs ih =>
    obtain ⟨k, v⟩ := f
    simp only [pack, packFld]
    split
    · rename_i h; rw [fld_high _ _ _ _ _ h, ih]
    · split
      · rename_i h; exact fld_low _ _ _ _ _ h
      · rename_i h1 h2
        obtain ⟨b, hb⟩ : ∃ b, n = (k - lo) + b := ⟨n - (k - lo), by omega⟩
        subst hb
        have hk : lo + (k - lo) = k := by omega
        rw [fld_add, fld_low _ _ _ _ _ (by omega), hk, fld_high _ _ _ _ _ (Nat.le_refl k), Nat.sub_self, ih]
        congr 3
        omega

/-! ### The values of fields -/

theorem fld_of_lt {v n : Nat} (h : v < 2 ^ n) : fld v 0 n = v := by
  rw [fld_zero_lo]; exact Nat.mod_eq_of_lt h
@[simp] theorem fld_toNat {n : Nat} (x : BitVec n) : fld x.toNat 0 n = x.toNat := fld_of_lt x.isLt
@[simp] theorem fld_bool (b : Bool) : fld b.toNat 0 1 = b.toNat := by cases b <;> rfl
@[simp] theorem fld_kind (k : Kind) : fld k.code 0 3 = k.code := by cases k <;> rfl
@[simp] theorem fld_scope (s : Scope) : fld s.code 0 3 = s.code := by cases s <;> rfl
@[simp] theorem fld_ord (o : Ord) : fld o.code 0 2 = o.code := by cases o <;> rfl
@[simp] theorem fld_size (z : Size) : fld z.code 0 2 = z.code := by cases z <;> rfl
@[simp] theorem Kind.ofCode_code (k : Kind) : Kind.ofCode k.code = some k := by cases k <;> rfl
@[simp] theorem Scope.ofCode_code (s : Scope) : Scope.ofCode s.code = some s := by cases s <;> rfl
@[simp] theorem Ord.ofCode_code (o : Ord) : Ord.ofCode o.code = some o := by cases o <;> rfl
@[simp] theorem Size.ofCode_code (z : Size) : Size.ofCode z.code = some z := by cases z <;> rfl
@[simp] theorem toNat_beq_one (b : Bool) : (b.toNat == 1) = b := by cases b <;> rfl

/-- A 16-bit word is its low 16 bits. -/
theorem pack_lt (fs : List (Nat × Nat)) : pack fs < 2 ^ (fs.map Prod.fst).sum := by
  induction fs with
  | nil => simp [pack]
  | cons f fs ih =>
    obtain ⟨k, v⟩ := f
    simp only [pack, List.map_cons, List.sum_cons, Nat.pow_add]
    have hk : v % 2 ^ k < 2 ^ k := Nat.mod_lt _ (Nat.two_pow_pos k)
    calc v % 2 ^ k + 2 ^ k * pack fs < 2 ^ k * (pack fs + 1) := by rw [Nat.mul_add]; omega
      _ ≤ 2 ^ k * 2 ^ (fs.map Prod.fst).sum := Nat.mul_le_mul_left _ ih

end Sys2Proof
end

