-- ==== Sys2Proof/Laws/State.lean ====
section
/-! SUPPORT. One lemma per accessor and update: sparse tables, cores, levels, the issuing level, clusters, packages, virtual
devices. Later proofs cite these and unfold no record update. -/

namespace Sys2Proof.Machine

/-! ### Sparse tables -/

@[simp] theorem AMap.find?_put_self {α : Type} (m : AMap α) (k : Nat) (v : α) : AMap.find? (AMap.put m k v) k = some v := by
  induction m with
  | nil => simp [AMap.put, AMap.find?]
  | cons e m ih =>
    simp only [AMap.put]
    split
    · simp [AMap.find?]
    · split
      · simp [AMap.find?]
      · simp_all [AMap.find?]

theorem AMap.find?_put_ne {α : Type} (m : AMap α) {k j : Nat} (v : α) (h : j ≠ k) :
    AMap.find? (AMap.put m k v) j = AMap.find? m j := by
  induction m with
  | nil => simp [AMap.put, AMap.find?, h]
  | cons e m ih =>
    simp only [AMap.put]
    split
    · simp [AMap.find?, h]
    · split
      · rename_i h1 h2; subst h2; simp [AMap.find?, h]
      · simp [AMap.find?, ih]

@[simp] theorem AMap.get_put_self {α : Type} (m : AMap α) (d : α) (k : Nat) (v : α) : AMap.get (AMap.put m k v) d k = v := by
  simp [AMap.get]

theorem AMap.get_put_ne {α : Type} (m : AMap α) (d : α) {k j : Nat} (v : α) (h : j ≠ k) :
    AMap.get (AMap.put m k v) d j = AMap.get m d j := by
  simp [AMap.get, AMap.find?_put_ne m v h]

theorem AMap.put_put {α : Type} (m : AMap α) (k : Nat) (v w : α) : AMap.put (AMap.put m k v) k w = AMap.put m k w := by
  induction m with
  | nil => simp [AMap.put]
  | cons e m ih =>
    simp only [AMap.put]
    split
    · simp [AMap.put]
    · split
      · simp [AMap.put]
      · simp_all [AMap.put]

/-! ### Cores -/

@[simp] theorem State.core_setCore (s : State) (k : Nat) (c : Core) : (s.setCore k c).core k = c :=
  AMap.get_put_self s.cores {} k c
theorem State.core_setCore_ne (s : State) {k j : Nat} (c : Core) (h : j ≠ k) : (s.setCore k c).core j = s.core j :=
  AMap.get_put_ne s.cores {} c h
@[simp] theorem State.core_updCore (s : State) (k : Nat) (f : Core → Core) : (s.updCore k f).core k = f (s.core k) := by
  simp [State.updCore]
theorem State.core_updCore_ne (s : State) {k j : Nat} (f : Core → Core) (h : j ≠ k) : (s.updCore k f).core j = s.core j := by
  simp [State.updCore, State.core_setCore_ne s _ h]

@[simp] theorem State.setCore_now (s : State) (k : Nat) (c : Core) : (s.setCore k c).now = s.now := rfl
@[simp] theorem State.setCore_agenda (s : State) (k : Nat) (c : Core) : (s.setCore k c).agenda = s.agenda := rfl
@[simp] theorem State.setCore_cur (s : State) (k : Nat) (c : Core) : (s.setCore k c).cur = s.cur := rfl
@[simp] theorem State.setCore_arg (s : State) (k : Nat) (c : Core) : (s.setCore k c).arg = s.arg := rfl
@[simp] theorem State.setCore_free (s : State) (k : Nat) (c : Core) : (s.setCore k c).free = s.free := rfl
@[simp] theorem State.setCore_nextId (s : State) (k : Nat) (c : Core) : (s.setCore k c).nextId = s.nextId := rfl
@[simp] theorem State.setCore_mem (s : State) (k : Nat) (c : Core) : (s.setCore k c).mem = s.mem := rfl
@[simp] theorem State.setCore_fe (s : State) (k : Nat) (c : Core) : (s.setCore k c).fe = s.fe := rfl
@[simp] theorem State.setCore_bad (s : State) (k : Nat) (c : Core) : (s.setCore k c).bad = s.bad := rfl
@[simp] theorem State.setCore_media (s : State) (k : Nat) (c : Core) : (s.setCore k c).media = s.media := rfl
@[simp] theorem State.setCore_l2 (s : State) (k : Nat) (c : Core) : (s.setCore k c).l2 = s.l2 := rfl
@[simp] theorem State.setCore_olds (s : State) (k : Nat) (c : Core) : (s.setCore k c).olds = s.olds := rfl
@[simp] theorem State.setCore_clear (s : State) (k : Nat) (c : Core) : (s.setCore k c).clear = s.clear := rfl
@[simp] theorem State.setCore_touched (s : State) (k : Nat) (c : Core) : (s.setCore k c).touched = s.touched := rfl
@[simp] theorem State.setCore_retry (s : State) (k : Nat) (c : Core) : (s.setCore k c).retry = s.retry := rfl
@[simp] theorem State.setCore_pkts (s : State) (k : Nat) (c : Core) : (s.setCore k c).pkts = s.pkts := rfl
@[simp] theorem State.setCore_flits (s : State) (k : Nat) (c : Core) : (s.setCore k c).flits = s.flits := rfl
@[simp] theorem State.setCore_walks (s : State) (k : Nat) (c : Core) : (s.setCore k c).walks = s.walks := rfl
@[simp] theorem State.setCore_told (s : State) (k : Nat) (c : Core) : (s.setCore k c).told = s.told := rfl
@[simp] theorem State.setCore_wcache (s : State) (k : Nat) (c : Core) : (s.setCore k c).wcache = s.wcache := rfl
@[simp] theorem State.setCore_invals (s : State) (k : Nat) (c : Core) : (s.setCore k c).invals = s.invals := rfl
@[simp] theorem State.setCore_clus (s : State) (k : Nat) (c : Core) : (s.setCore k c).clus = s.clus := rfl
@[simp] theorem State.setCore_chips (s : State) (k : Nat) (c : Core) : (s.setCore k c).chips = s.chips := rfl
@[simp] theorem State.setCore_vds (s : State) (k : Nat) (c : Core) : (s.setCore k c).vds = s.vds := rfl
@[simp] theorem State.setCore_conns (s : State) (k : Nat) (c : Core) : (s.setCore k c).conns = s.conns := rfl
@[simp] theorem State.setCore_hostQ (s : State) (k : Nat) (c : Core) : (s.setCore k c).hostQ = s.hostQ := rfl
@[simp] theorem State.setCore_answers (s : State) (k : Nat) (c : Core) : (s.setCore k c).answers = s.answers := rfl
@[simp] theorem State.updCore_now (s : State) (k : Nat) (f : Core → Core) : (s.updCore k f).now = s.now := rfl
@[simp] theorem State.updCore_agenda (s : State) (k : Nat) (f : Core → Core) : (s.updCore k f).agenda = s.agenda := rfl
@[simp] theorem State.updCore_cur (s : State) (k : Nat) (f : Core → Core) : (s.updCore k f).cur = s.cur := rfl
@[simp] theorem State.updCore_arg (s : State) (k : Nat) (f : Core → Core) : (s.updCore k f).arg = s.arg := rfl
@[simp] theorem State.updCore_free (s : State) (k : Nat) (f : Core → Core) : (s.updCore k f).free = s.free := rfl
@[simp] theorem State.updCore_nextId (s : State) (k : Nat) (f : Core → Core) : (s.updCore k f).nextId = s.nextId := rfl
@[simp] theorem State.updCore_mem (s : State) (k : Nat) (f : Core → Core) : (s.updCore k f).mem = s.mem := rfl
@[simp] theorem State.updCore_fe (s : State) (k : Nat) (f : Core → Core) : (s.updCore k f).fe = s.fe := rfl
@[simp] theorem State.updCore_bad (s : State) (k : Nat) (f : Core → Core) : (s.updCore k f).bad = s.bad := rfl
@[simp] theorem State.updCore_media (s : State) (k : Nat) (f : Core → Core) : (s.updCore k f).media = s.media := rfl
@[simp] theorem State.updCore_l2 (s : State) (k : Nat) (f : Core → Core) : (s.updCore k f).l2 = s.l2 := rfl
@[simp] theorem State.updCore_olds (s : State) (k : Nat) (f : Core → Core) : (s.updCore k f).olds = s.olds := rfl
@[simp] theorem State.updCore_clear (s : State) (k : Nat) (f : Core → Core) : (s.updCore k f).clear = s.clear := rfl
@[simp] theorem State.updCore_touched (s : State) (k : Nat) (f : Core → Core) : (s.updCore k f).touched = s.touched := rfl
@[simp] theorem State.updCore_retry (s : State) (k : Nat) (f : Core → Core) : (s.updCore k f).retry = s.retry := rfl
@[simp] theorem State.updCore_pkts (s : State) (k : Nat) (f : Core → Core) : (s.updCore k f).pkts = s.pkts := rfl
@[simp] theorem State.updCore_flits (s : State) (k : Nat) (f : Core → Core) : (s.updCore k f).flits = s.flits := rfl
@[simp] theorem State.updCore_walks (s : State) (k : Nat) (f : Core → Core) : (s.updCore k f).walks = s.walks := rfl
@[simp] theorem State.updCore_told (s : State) (k : Nat) (f : Core → Core) : (s.updCore k f).told = s.told := rfl
@[simp] theorem State.updCore_wcache (s : State) (k : Nat) (f : Core → Core) : (s.updCore k f).wcache = s.wcache := rfl
@[simp] theorem State.updCore_invals (s : State) (k : Nat) (f : Core → Core) : (s.updCore k f).invals = s.invals := rfl
@[simp] theorem State.updCore_clus (s : State) (k : Nat) (f : Core → Core) : (s.updCore k f).clus = s.clus := rfl
@[simp] theorem State.updCore_chips (s : State) (k : Nat) (f : Core → Core) : (s.updCore k f).chips = s.chips := rfl
@[simp] theorem State.updCore_vds (s : State) (k : Nat) (f : Core → Core) : (s.updCore k f).vds = s.vds := rfl
@[simp] theorem State.updCore_conns (s : State) (k : Nat) (f : Core → Core) : (s.updCore k f).conns = s.conns := rfl
@[simp] theorem State.updCore_hostQ (s : State) (k : Nat) (f : Core → Core) : (s.updCore k f).hostQ = s.hostQ := rfl
@[simp] theorem State.updCore_answers (s : State) (k : Nat) (f : Core → Core) : (s.updCore k f).answers = s.answers := rfl

/-! ### Levels -/

@[simp] theorem Core.lvl_setLvl (c : Core) (l : Level) (x : Lvl) : (c.setLvl l x).lvl l = x := by
  show (c.lv.set l.val x)[l.val] = x
  exact Vector.getElem_set_self ..
theorem Core.lvl_setLvl_ne (c : Core) {l m : Level} (x : Lvl) (h : m ≠ l) : (c.setLvl l x).lvl m = c.lvl m := by
  have hn : l.val ≠ m.val := fun e => h (Fin.ext e.symm)
  show (c.lv.set l.val x)[m.val] = c.lv[m.val]
  exact Vector.getElem_set_ne _ _ hn
/-- Nothing beside its levels changes in a core. -/
theorem Core.setLvl_rest (c : Core) (l : Level) (x : Lvl) : { c.setLvl l x with lv := c.lv } = c := rfl
@[simp] theorem Core.setLvl_mx (c : Core) (l : Level) (x : Lvl) : (c.setLvl l x).mx = c.mx := rfl
@[simp] theorem Core.setLvl_ops (c : Core) (l : Level) (x : Lvl) : (c.setLvl l x).ops = c.ops := rfl
@[simp] theorem Core.setLvl_vreg (c : Core) (l : Level) (x : Lvl) : (c.setLvl l x).vreg = c.vreg := rfl

@[simp] theorem State.lvl_setLvl (s : State) (k : Nat) (l : Level) (x : Lvl) : (s.setLvl k l x).lvl k l = x := by
  simp [State.lvl, State.setLvl]
theorem State.lvl_setLvl_ne (s : State) (k : Nat) {l m : Level} (x : Lvl) (h : m ≠ l) : (s.setLvl k l x).lvl k m = s.lvl k m := by
  simp [State.lvl, State.setLvl, Core.lvl_setLvl_ne _ x h]
theorem State.core_setLvl_ne (s : State) {k j : Nat} (l : Level) (x : Lvl) (h : j ≠ k) : (s.setLvl k l x).core j = s.core j := by
  simp [State.setLvl, State.core_setCore_ne s _ h]
@[simp] theorem State.lvl_updLvl (s : State) (k : Nat) (l : Level) (f : Lvl → Lvl) : (s.updLvl k l f).lvl k l = f (s.lvl k l) := by
  simp [State.updLvl]

/-! ### The issuing level -/

@[simp] theorem State.curKey_setCore (s : State) (k : Nat) (c : Core) : (s.setCore k c).curKey = s.curKey := rfl
@[simp] theorem State.curKey_updCore (s : State) (k : Nat) (f : Core → Core) : (s.updCore k f).curKey = s.curKey := rfl
@[simp] theorem State.curKey_setCurLvl (s : State) (x : Lvl) : (s.setCurLvl x).curKey = s.curKey := rfl
@[simp] theorem State.cur_setCurLvl (s : State) (x : Lvl) : (s.setCurLvl x).cur = s.cur := rfl
@[simp] theorem State.curCore_setCurLvl (s : State) (x : Lvl) : (s.setCurLvl x).curCore = s.curCore.setLvl s.cur.lev x := by
  have : (s.setCurLvl x).core s.curKey = s.curCore.setLvl s.cur.lev x := by simp [State.setCurLvl, State.setCurCore]
  simpa [State.curCore] using this
@[simp] theorem State.curLvl_setCurLvl (s : State) (x : Lvl) : (s.setCurLvl x).curLvl = x := by
  simp [State.curLvl]
@[simp] theorem State.curCore_updCore (s : State) (f : Core → Core) : (s.updCore s.curKey f).curCore = f s.curCore := by
  simp [State.curCore]
@[simp] theorem State.mem_setCurLvl (s : State) (x : Lvl) : (s.setCurLvl x).mem = s.mem := rfl
@[simp] theorem State.retire_eq (s : State) (n : Nat) (f : Lvl → Lvl) : s.retire n f = s.setCurLvl ((f s.curLvl).step n) := rfl

/-- What an owner reads depends on memory, the clearing map and the windows. -/
theorem State.peek_congr {s t : State} (hm : t.mem = s.mem) (hc : t.clear = s.clear)
    (hw : ∀ k, (t.core k).mx.window = (s.core k).mx.window) (a n : Nat) : t.peek a n = s.peek a n := by
  unfold State.peek State.marked
  rw [hm, hc]
  split
  · rw [hw]
  · rfl

/-- Below the windows it depends on memory and the clearing map alone. -/
theorem State.peek_congr_phys {s t : State} (hm : t.mem = s.mem) (hc : t.clear = s.clear) {a : Nat} (ha : a < 2 ^ 56) (n : Nat) :
    t.peek a n = s.peek a n := by
  have : ¬ 2 ^ 56 ≤ a := Nat.not_le.mpr ha
  unfold State.peek State.marked
  rw [hm, hc]
  split
  · rename_i k off h
    simp only [regionOf, if_neg this] at h
    split_ifs at h
  · rfl

/-- A replaced level is all that changes. -/
theorem State.setLvl_only (s : State) (k : Nat) (l : Level) (x : Lvl) : OnlyLevel k l s (s.setLvl k l x) := by
  refine ⟨⟨rfl, fun j hj => s.core_setLvl_ne l x hj⟩, ?_, fun m hm => s.lvl_setLvl_ne k x hm, fun a => ?_⟩
  · simp only [State.setLvl, State.core_setCore]; rfl
  · refine State.peek_congr (s := s) (t := s.setLvl k l x) rfl rfl (fun j => ?_) a 1
    by_cases hj : j = k
    · subst hj; simp [State.setLvl]
    · rw [s.core_setLvl_ne l x hj]

/-- A replaced issuing level is all that changes. -/
theorem State.setCurLvl_only (s : State) (x : Lvl) : OnlyLevel s.curKey s.cur.lev s (s.setCurLvl x) :=
  s.setLvl_only s.curKey s.cur.lev x

/-- A replaced core is all that changes. -/
theorem State.setCore_only (s : State) (k : Nat) (c : Core) : OnlyCore k s (s.setCore k c) :=
  ⟨rfl, fun _ hj => s.core_setCore_ne c hj⟩

/-! ### Registers of a level -/

theorem Lvl.rx_zero (l : Lvl) : l.rx 0 = 0 := rfl
@[simp] theorem Lvl.rx_wx (l : Lvl) (r : XReg) (v : Word) : (l.wx r v).rx r = if r = 0 then 0 else v := by
  by_cases h : r = 0
  · subst h; rfl
  · simp only [Lvl.rx, if_neg h, Lvl.wx, Lvl.forget]
    exact Vector.getElem_set_self ..
theorem Lvl.rx_wx_ne (l : Lvl) {r q : XReg} (v : Word) (h : q ≠ r) : (l.wx r v).rx q = l.rx q := by
  have hn : r.toFin.val ≠ q.toFin.val := fun e => h (BitVec.eq_of_toNat_eq e.symm)
  by_cases h0 : r = 0
  · subst h0; rfl
  · simp only [Lvl.rx, Lvl.wx, if_neg h0, Lvl.forget]
    split
    · rfl
    · exact Vector.getElem_set_ne _ _ hn
@[simp] theorem Lvl.rx_step (l : Lvl) (n : Nat) (r : XReg) : (l.step n).rx r = l.rx r := rfl
@[simp] theorem Lvl.rp_wp (l : Lvl) (r : PReg) (v : Word) : (l.wp r v).rp r = if r = 0 then -1 else v := by
  by_cases h : r = 0
  · subst h; rfl
  · simp only [Lvl.rp, if_neg h, Lvl.wp, Lvl.forget]
    exact Vector.getElem_set_self ..
theorem Lvl.rp_wp_ne (l : Lvl) {r q : PReg} (v : Word) (h : q ≠ r) : (l.wp r v).rp q = l.rp q := by
  have hn : r.toFin.val ≠ q.toFin.val := fun e => h (BitVec.eq_of_toNat_eq e.symm)
  by_cases h0 : r = 0
  · subst h0; rfl
  · simp only [Lvl.rp, Lvl.wp, if_neg h0, Lvl.forget]
    split
    · rfl
    · exact Vector.getElem_set_ne _ _ hn
@[simp] theorem Lvl.rp_step (l : Lvl) (n : Nat) (r : PReg) : (l.step n).rp r = l.rp r := rfl

/-- A register result of latency 1, and the step past its word. -/
theorem Lvl.wx_result (l : Lvl) (n : Nat) (rd : XReg) (v : Word) : RegResult l ((l.wx rd v).step n) n rd v := by
  refine ⟨by simp, fun r hr => by simp [Lvl.rx_wx_ne l v hr], ?_, rfl, ?_, ?_⟩ <;>
    (by_cases h : rd = 0
     · subst h; rfl
     · simp only [Lvl.wx, if_neg h]; rfl)

/-- A predicate result of latency 1. -/
theorem Lvl.wp_result (l : Lvl) (n : Nat) (pd : PReg) (v : Word) : PredResult l ((l.wp pd v).step n) n pd v := by
  refine ⟨by simp, fun r hr => by simp [Lvl.rp_wp_ne l v hr], ?_, rfl, ?_, ?_⟩ <;>
    (by_cases h : pd = 0
     · subst h; rfl
     · simp only [Lvl.wp, if_neg h]; rfl)

end Sys2Proof.Machine
end

