-- ==== Sys2Proof/Laws/Memory.lean ====
section
/-! SUPPORT. The laws of the byte memory: every operation keeps the canonical form, and what a read gives after each. -/

namespace Sys2Proof.Machine

/-! ### The canonical form -/

theorem Memory.wfFrom_mono {m : Memory} {a b : Nat} (h : b ≤ a) (w : Memory.wfFrom a m = true) : Memory.wfFrom b m = true := by
  cases m with
  | nil => rfl
  | cons c m =>
    obtain ⟨k, v⟩ := c
    simp only [Memory.wfFrom, Bool.and_eq_true, decide_eq_true_eq] at w ⊢
    exact ⟨⟨h.trans w.1.1, w.1.2⟩, w.2⟩

theorem Memory.wfFrom_drop {m : Memory} {lo : Nat} (a : Nat) (w : Memory.wfFrom lo m = true) :
    Memory.wfFrom lo (m.drop a) = true := by
  induction m generalizing lo with
  | nil => rfl
  | cons c m ih =>
    obtain ⟨k, v⟩ := c
    have w' := w
    simp only [Memory.wfFrom, Bool.and_eq_true, decide_eq_true_eq] at w
    simp only [Memory.drop]
    split
    · exact Memory.wfFrom_mono (by omega) w.2
    · split
      · exact w'
      · simp only [Memory.wfFrom, Bool.and_eq_true, decide_eq_true_eq]
        exact ⟨w.1, ih w.2⟩

theorem Memory.wfFrom_put {m : Memory} {lo a : Nat} {v : Byte} (hv : (v != unlistedByte) = true) (ha : lo ≤ a)
    (w : Memory.wfFrom lo m = true) : Memory.wfFrom lo (m.put a v) = true := by
  induction m generalizing lo with
  | nil => simp [Memory.put, Memory.wfFrom, ha, hv]
  | cons c m ih =>
    obtain ⟨k, b⟩ := c
    simp only [Memory.wfFrom, Bool.and_eq_true, decide_eq_true_eq] at w
    simp only [Memory.put]
    split
    · rename_i h
      simp only [Memory.wfFrom, Bool.and_eq_true, decide_eq_true_eq]
      exact ⟨⟨ha, hv⟩, ⟨h, w.1.2⟩, w.2⟩
    · split
      · rename_i h1 h; subst h
        simp only [Memory.wfFrom, Bool.and_eq_true, decide_eq_true_eq]
        exact ⟨⟨ha, hv⟩, w.2⟩
      · simp only [Memory.wfFrom, Bool.and_eq_true, decide_eq_true_eq]
        exact ⟨w.1, ih (by omega) w.2⟩

theorem Memory.wfFrom_filter {m : Memory} {lo : Nat} (p : Host.Cell → Bool) (w : Memory.wfFrom lo m = true) :
    Memory.wfFrom lo (m.filter p) = true := by
  induction m generalizing lo with
  | nil => rfl
  | cons c m ih =>
    obtain ⟨k, b⟩ := c
    simp only [Memory.wfFrom, Bool.and_eq_true, decide_eq_true_eq] at w
    simp only [List.filter]
    split
    · simp only [Memory.wfFrom, Bool.and_eq_true, decide_eq_true_eq]
      exact ⟨w.1, ih w.2⟩
    · exact ih (Memory.wfFrom_mono (by omega) w.2)

/-- A write of one byte keeps the canonical form. -/
theorem Memory.wf_write {m : Memory} (a : Nat) (v : Byte) (w : m.wf = true) : (m.write a v).wf = true := by
  unfold Memory.write Memory.wf
  split
  · exact Memory.wfFrom_drop a w
  · rename_i h
    exact Memory.wfFrom_put (by simpa using h) (Nat.zero_le a) w

/-- A write of consecutive bytes keeps the canonical form. -/
theorem Memory.wf_writeBytes {m : Memory} (a : Nat) (bs : List Byte) (w : m.wf = true) : (m.writeBytes a bs).wf = true := by
  induction bs generalizing m a with
  | nil => exact w
  | cons b bs ih => exact ih (a + 1) (Memory.wf_write a b w)

/-- Leaving out bytes keeps the canonical form. -/
theorem Memory.wf_filter {m : Memory} (p : Host.Cell → Bool) (w : m.wf = true) : Memory.wf (m.filter p) = true :=
  Memory.wfFrom_filter p w

/-- Clearing a range keeps the canonical form. -/
theorem Memory.wf_clear {m : Memory} (a n : Nat) (w : m.wf = true) : (m.clear a n).wf = true :=
  Memory.wf_filter _ w

/-- So does a list of writes of single bytes. -/
theorem Memory.wf_foldl_write {α : Type} {m : Memory} (f : α → Nat) (g : α → Byte) (cs : List α) (w : m.wf = true) :
    Memory.wf (cs.foldl (fun m c => m.write (f c) (g c)) m) = true := by
  induction cs generalizing m with
  | nil => exact w
  | cons c cs ih => exact ih (Memory.wf_write _ _ w)

/-- The memory right after reset is in canonical form. -/
theorem State.reset_mem_wf : State.reset.mem.wf = true := rfl

/-! ### Reads after writes -/

theorem Memory.read_below {m : Memory} {lo a : Nat} (w : Memory.wfFrom lo m = true) (h : a < lo) : m.read a = unlistedByte := by
  induction m generalizing lo with
  | nil => rfl
  | cons c m ih =>
    obtain ⟨k, b⟩ := c
    simp only [Memory.wfFrom, Bool.and_eq_true, decide_eq_true_eq] at w
    simp only [Memory.read]
    rw [if_neg (by omega)]
    exact ih w.2 (by omega)

theorem Memory.read_put_self (m : Memory) (a : Nat) (v : Byte) : (m.put a v).read a = v := by
  induction m with
  | nil => simp [Memory.put, Memory.read]
  | cons c m ih =>
    obtain ⟨k, b⟩ := c
    simp only [Memory.put]
    split
    · simp [Memory.read]
    · split
      · simp [Memory.read]
      · rename_i h1 h2; simp [Memory.read, h2, ih]

theorem Memory.read_put_ne (m : Memory) {a j : Nat} (v : Byte) (h : j ≠ a) : (m.put a v).read j = m.read j := by
  induction m with
  | nil => simp [Memory.put, Memory.read, h]
  | cons c m ih =>
    obtain ⟨k, b⟩ := c
    simp only [Memory.put]
    split
    · simp [Memory.read, h]
    · split
      · rename_i h1 h2; subst h2; simp [Memory.read, h]
      · simp [Memory.read, ih]

theorem Memory.read_drop_self {m : Memory} {lo : Nat} (a : Nat) (w : Memory.wfFrom lo m = true) :
    (m.drop a).read a = unlistedByte := by
  induction m generalizing lo with
  | nil => rfl
  | cons c m ih =>
    obtain ⟨k, b⟩ := c
    simp only [Memory.wfFrom, Bool.and_eq_true, decide_eq_true_eq] at w
    simp only [Memory.drop]
    split
    · rename_i h; subst h; exact Memory.read_below w.2 (by omega)
    · split
      · rename_i h1 h2
        simp only [Memory.read, if_neg h1]
        exact Memory.read_below w.2 (by omega)
      · rename_i h1 h2; simp only [Memory.read, if_neg h1]; exact ih w.2

theorem Memory.read_drop_ne (m : Memory) {a j : Nat} (h : j ≠ a) : (m.drop a).read j = m.read j := by
  induction m with
  | nil => rfl
  | cons c m ih =>
    obtain ⟨k, b⟩ := c
    simp only [Memory.drop]
    split
    · rename_i h1; subst h1; simp [Memory.read, h]
    · split
      · rfl
      · simp [Memory.read, ih]

/-- A byte reads as last written. -/
theorem Memory.read_write_self {m : Memory} (a : Nat) (v : Byte) (w : m.wf = true) : (m.write a v).read a = v := by
  unfold Memory.write
  split
  · rename_i h; rw [h]; exact Memory.read_drop_self a w
  · exact m.read_put_self a v

/-- A write leaves every other byte alone. -/
theorem Memory.read_write_ne (m : Memory) {a j : Nat} (v : Byte) (h : j ≠ a) : (m.write a v).read j = m.read j := by
  unfold Memory.write
  split
  · exact m.read_drop_ne h
  · exact m.read_put_ne v h

/-- A write of consecutive bytes leaves every byte outside them alone. -/
theorem Memory.read_writeBytes_out (m : Memory) {a j : Nat} (bs : List Byte) (h : j < a ∨ a + bs.length ≤ j) :
    (m.writeBytes a bs).read j = m.read j := by
  induction bs generalizing m a with
  | nil => rfl
  | cons b bs ih =>
    simp only [List.length_cons] at h
    show Memory.read ((m.write a b).writeBytes (a + 1) bs) j = _
    rw [ih (m.write a b) (by omega), m.read_write_ne b (by omega)]

/-- The bytes of a written range read as written. -/
theorem Memory.read_writeBytes_in {m : Memory} (a : Nat) (bs : List Byte) (w : m.wf = true) {i : Nat} (h : i < bs.length) :
    (m.writeBytes a bs).read (a + i) = bs[i] := by
  induction bs generalizing m a i with
  | nil => cases h
  | cons b bs ih =>
    show Memory.read ((m.write a b).writeBytes (a + 1) bs) (a + i) = _
    cases i with
    | zero =>
      rw [Memory.read_writeBytes_out _ bs (by omega), Nat.add_zero, Memory.read_write_self a b w]
      rfl
    | succ i =>
      have := ih (a + 1) (Memory.wf_write a b w) (i := i) (by simpa using h)
      rw [show a + (i + 1) = a + 1 + i by omega, this]
      rfl

/-! ### The state's memory -/

/-- The words a store of a run of words writes keep the canonical form. -/
theorem State.wf_writeBytes {s : State} (a : Nat) (bs : List Byte) (w : s.mem.wf = true) :
    ({ s with mem := s.mem.writeBytes a bs }).mem.wf = true := Memory.wf_writeBytes a bs w

end Sys2Proof.Machine
end

