-- ==== Sys2Proof/Laws/Ops.lean ====
section
/-! SUPPORT. What the shared operations change and what they leave: clusters, packages and virtual devices, packets, the event
ring, writes of memory and their canonical form, and the operations that a core lets go. -/

namespace Sys2Proof.Machine

/-! ### Clusters, packages, virtual devices -/

@[simp] theorem State.clu_updClu (s : State) (k : Nat) (f : Cluster → Cluster) : (s.updClu k f).clu k = f (s.clu k) :=
  AMap.get_put_self s.clus {} k _
theorem State.clu_updClu_ne (s : State) {k j : Nat} (f : Cluster → Cluster) (h : j ≠ k) : (s.updClu k f).clu j = s.clu j :=
  AMap.get_put_ne s.clus {} _ h
@[simp] theorem State.updClu_now (s : State) (k : Nat) (f : Cluster → Cluster) : (s.updClu k f).now = s.now := rfl
@[simp] theorem State.updClu_agenda (s : State) (k : Nat) (f : Cluster → Cluster) : (s.updClu k f).agenda = s.agenda := rfl
@[simp] theorem State.updClu_cur (s : State) (k : Nat) (f : Cluster → Cluster) : (s.updClu k f).cur = s.cur := rfl
@[simp] theorem State.updClu_arg (s : State) (k : Nat) (f : Cluster → Cluster) : (s.updClu k f).arg = s.arg := rfl
@[simp] theorem State.updClu_free (s : State) (k : Nat) (f : Cluster → Cluster) : (s.updClu k f).free = s.free := rfl
@[simp] theorem State.updClu_nextId (s : State) (k : Nat) (f : Cluster → Cluster) : (s.updClu k f).nextId = s.nextId := rfl
@[simp] theorem State.updClu_mem (s : State) (k : Nat) (f : Cluster → Cluster) : (s.updClu k f).mem = s.mem := rfl
@[simp] theorem State.updClu_fe (s : State) (k : Nat) (f : Cluster → Cluster) : (s.updClu k f).fe = s.fe := rfl
@[simp] theorem State.updClu_bad (s : State) (k : Nat) (f : Cluster → Cluster) : (s.updClu k f).bad = s.bad := rfl
@[simp] theorem State.updClu_media (s : State) (k : Nat) (f : Cluster → Cluster) : (s.updClu k f).media = s.media := rfl
@[simp] theorem State.updClu_l2 (s : State) (k : Nat) (f : Cluster → Cluster) : (s.updClu k f).l2 = s.l2 := rfl
@[simp] theorem State.updClu_olds (s : State) (k : Nat) (f : Cluster → Cluster) : (s.updClu k f).olds = s.olds := rfl
@[simp] theorem State.updClu_clear (s : State) (k : Nat) (f : Cluster → Cluster) : (s.updClu k f).clear = s.clear := rfl
@[simp] theorem State.updClu_touched (s : State) (k : Nat) (f : Cluster → Cluster) : (s.updClu k f).touched = s.touched := rfl
@[simp] theorem State.updClu_retry (s : State) (k : Nat) (f : Cluster → Cluster) : (s.updClu k f).retry = s.retry := rfl
@[simp] theorem State.updClu_pkts (s : State) (k : Nat) (f : Cluster → Cluster) : (s.updClu k f).pkts = s.pkts := rfl
@[simp] theorem State.updClu_flits (s : State) (k : Nat) (f : Cluster → Cluster) : (s.updClu k f).flits = s.flits := rfl
@[simp] theorem State.updClu_walks (s : State) (k : Nat) (f : Cluster → Cluster) : (s.updClu k f).walks = s.walks := rfl
@[simp] theorem State.updClu_told (s : State) (k : Nat) (f : Cluster → Cluster) : (s.updClu k f).told = s.told := rfl
@[simp] theorem State.updClu_wcache (s : State) (k : Nat) (f : Cluster → Cluster) : (s.updClu k f).wcache = s.wcache := rfl
@[simp] theorem State.updClu_invals (s : State) (k : Nat) (f : Cluster → Cluster) : (s.updClu k f).invals = s.invals := rfl
@[simp] theorem State.updClu_cores (s : State) (k : Nat) (f : Cluster → Cluster) : (s.updClu k f).cores = s.cores := rfl
@[simp] theorem State.updClu_chips (s : State) (k : Nat) (f : Cluster → Cluster) : (s.updClu k f).chips = s.chips := rfl
@[simp] theorem State.updClu_vds (s : State) (k : Nat) (f : Cluster → Cluster) : (s.updClu k f).vds = s.vds := rfl
@[simp] theorem State.updClu_conns (s : State) (k : Nat) (f : Cluster → Cluster) : (s.updClu k f).conns = s.conns := rfl
@[simp] theorem State.updClu_hostQ (s : State) (k : Nat) (f : Cluster → Cluster) : (s.updClu k f).hostQ = s.hostQ := rfl
@[simp] theorem State.updClu_answers (s : State) (k : Nat) (f : Cluster → Cluster) : (s.updClu k f).answers = s.answers := rfl

@[simp] theorem State.chip_updChip (s : State) (k : Nat) (f : Chip → Chip) : (s.updChip k f).chip k = f (s.chip k) :=
  AMap.get_put_self s.chips {} k _
theorem State.chip_updChip_ne (s : State) {k j : Nat} (f : Chip → Chip) (h : j ≠ k) : (s.updChip k f).chip j = s.chip j :=
  AMap.get_put_ne s.chips {} _ h
@[simp] theorem State.updChip_now (s : State) (k : Nat) (f : Chip → Chip) : (s.updChip k f).now = s.now := rfl
@[simp] theorem State.updChip_agenda (s : State) (k : Nat) (f : Chip → Chip) : (s.updChip k f).agenda = s.agenda := rfl
@[simp] theorem State.updChip_cur (s : State) (k : Nat) (f : Chip → Chip) : (s.updChip k f).cur = s.cur := rfl
@[simp] theorem State.updChip_arg (s : State) (k : Nat) (f : Chip → Chip) : (s.updChip k f).arg = s.arg := rfl
@[simp] theorem State.updChip_free (s : State) (k : Nat) (f : Chip → Chip) : (s.updChip k f).free = s.free := rfl
@[simp] theorem State.updChip_nextId (s : State) (k : Nat) (f : Chip → Chip) : (s.updChip k f).nextId = s.nextId := rfl
@[simp] theorem State.updChip_mem (s : State) (k : Nat) (f : Chip → Chip) : (s.updChip k f).mem = s.mem := rfl
@[simp] theorem State.updChip_fe (s : State) (k : Nat) (f : Chip → Chip) : (s.updChip k f).fe = s.fe := rfl
@[simp] theorem State.updChip_bad (s : State) (k : Nat) (f : Chip → Chip) : (s.updChip k f).bad = s.bad := rfl
@[simp] theorem State.updChip_media (s : State) (k : Nat) (f : Chip → Chip) : (s.updChip k f).media = s.media := rfl
@[simp] theorem State.updChip_l2 (s : State) (k : Nat) (f : Chip → Chip) : (s.updChip k f).l2 = s.l2 := rfl
@[simp] theorem State.updChip_olds (s : State) (k : Nat) (f : Chip → Chip) : (s.updChip k f).olds = s.olds := rfl
@[simp] theorem State.updChip_clear (s : State) (k : Nat) (f : Chip → Chip) : (s.updChip k f).clear = s.clear := rfl
@[simp] theorem State.updChip_touched (s : State) (k : Nat) (f : Chip → Chip) : (s.updChip k f).touched = s.touched := rfl
@[simp] theorem State.updChip_retry (s : State) (k : Nat) (f : Chip → Chip) : (s.updChip k f).retry = s.retry := rfl
@[simp] theorem State.updChip_pkts (s : State) (k : Nat) (f : Chip → Chip) : (s.updChip k f).pkts = s.pkts := rfl
@[simp] theorem State.updChip_flits (s : State) (k : Nat) (f : Chip → Chip) : (s.updChip k f).flits = s.flits := rfl
@[simp] theorem State.updChip_walks (s : State) (k : Nat) (f : Chip → Chip) : (s.updChip k f).walks = s.walks := rfl
@[simp] theorem State.updChip_told (s : State) (k : Nat) (f : Chip → Chip) : (s.updChip k f).told = s.told := rfl
@[simp] theorem State.updChip_wcache (s : State) (k : Nat) (f : Chip → Chip) : (s.updChip k f).wcache = s.wcache := rfl
@[simp] theorem State.updChip_invals (s : State) (k : Nat) (f : Chip → Chip) : (s.updChip k f).invals = s.invals := rfl
@[simp] theorem State.updChip_cores (s : State) (k : Nat) (f : Chip → Chip) : (s.updChip k f).cores = s.cores := rfl
@[simp] theorem State.updChip_clus (s : State) (k : Nat) (f : Chip → Chip) : (s.updChip k f).clus = s.clus := rfl
@[simp] theorem State.updChip_vds (s : State) (k : Nat) (f : Chip → Chip) : (s.updChip k f).vds = s.vds := rfl
@[simp] theorem State.updChip_conns (s : State) (k : Nat) (f : Chip → Chip) : (s.updChip k f).conns = s.conns := rfl
@[simp] theorem State.updChip_hostQ (s : State) (k : Nat) (f : Chip → Chip) : (s.updChip k f).hostQ = s.hostQ := rfl
@[simp] theorem State.updChip_answers (s : State) (k : Nat) (f : Chip → Chip) : (s.updChip k f).answers = s.answers := rfl

/-- A change of a virtual device touches the table of virtual devices only. -/
theorem State.updVd_rest (s : State) (v : Nat) (f : VDev → VDev) : { s.updVd v f with vds := s.vds } = s := by
  unfold State.updVd; split <;> rfl
@[simp] theorem State.vdev?_updVd (s : State) (v : Nat) (f : VDev → VDev) : (s.updVd v f).vdev? v = (s.vdev? v).map f := by
  unfold State.updVd
  split
  · rename_i d h; rw [h]; exact AMap.find?_put_self s.vds v (f d)
  · rename_i h; rw [h]; rfl
theorem State.vdev?_updVd_ne (s : State) {v w : Nat} (f : VDev → VDev) (h : w ≠ v) : (s.updVd v f).vdev? w = s.vdev? w := by
  unfold State.updVd
  split
  · exact AMap.find?_put_ne s.vds _ h
  · rfl
@[simp] theorem State.updVd_mem (s : State) (v : Nat) (f : VDev → VDev) : (s.updVd v f).mem = s.mem := by
  unfold State.updVd; split <;> rfl
@[simp] theorem State.updVd_cores (s : State) (v : Nat) (f : VDev → VDev) : (s.updVd v f).cores = s.cores := by
  unfold State.updVd; split <;> rfl
@[simp] theorem State.updVd_chips (s : State) (v : Nat) (f : VDev → VDev) : (s.updVd v f).chips = s.chips := by
  unfold State.updVd; split <;> rfl
@[simp] theorem State.updVd_clus (s : State) (v : Nat) (f : VDev → VDev) : (s.updVd v f).clus = s.clus := by
  unfold State.updVd; split <;> rfl
@[simp] theorem State.updVd_pkts (s : State) (v : Nat) (f : VDev → VDev) : (s.updVd v f).pkts = s.pkts := by
  unfold State.updVd; split <;> rfl

/-! ### Packets -/

/-- Sending a packet changes the packets and the next number only. -/
theorem State.sendPkt_rest (s : State) (src dst : UnitId) (vd : Nat) (pl : Plane) (last : Nat) (p : Payload) :
    { s.sendPkt src dst vd pl last p with pkts := s.pkts, nextId := s.nextId } = s := rfl
/-- And the packet is there, last. -/
theorem State.sendPkt_pkts (s : State) (src dst : UnitId) (vd : Nat) (pl : Plane) (last : Nat) (p : Payload) :
    ∃ st, (s.sendPkt src dst vd pl last p).pkts = s.pkts ++ [⟨s.nextId, src, dst, vd, pl, last, p, st, 0, 0, 0⟩] := ⟨_, rfl⟩
@[simp] theorem State.sendPkt_mem (s : State) (src dst : UnitId) (vd : Nat) (pl : Plane) (last : Nat) (p : Payload) :
    (s.sendPkt src dst vd pl last p).mem = s.mem := rfl
@[simp] theorem State.sendPkt_cores (s : State) (src dst : UnitId) (vd : Nat) (pl : Plane) (last : Nat) (p : Payload) :
    (s.sendPkt src dst vd pl last p).cores = s.cores := rfl
@[simp] theorem State.sendPkt_clus (s : State) (src dst : UnitId) (vd : Nat) (pl : Plane) (last : Nat) (p : Payload) :
    (s.sendPkt src dst vd pl last p).clus = s.clus := rfl
@[simp] theorem State.sendPkt_chips (s : State) (src dst : UnitId) (vd : Nat) (pl : Plane) (last : Nat) (p : Payload) :
    (s.sendPkt src dst vd pl last p).chips = s.chips := rfl
@[simp] theorem State.sendPkt_vds (s : State) (src dst : UnitId) (vd : Nat) (pl : Plane) (last : Nat) (p : Payload) :
    (s.sendPkt src dst vd pl last p).vds = s.vds := rfl
/-- Dropping a packet changes the packets only. -/
theorem State.dropPkt_rest (s : State) (id : Nat) : { s.dropPkt id with pkts := s.pkts } = s := rfl

/-! ### The event ring (R471) -/

/-- An entry of the event ring changes memory and its package only. -/
theorem State.ringEntry_rest (s : State) (chip ty vd : Nat) (body : List Word) :
    { s.ringEntry chip ty vd body with mem := s.mem, chips := s.chips } = s := by
  unfold State.ringEntry; dsimp only; split <;> rfl
@[simp] theorem State.ringEntry_cores (s : State) (chip ty vd : Nat) (body : List Word) :
    (s.ringEntry chip ty vd body).cores = s.cores := by
  unfold State.ringEntry; dsimp only; split <;> rfl
@[simp] theorem State.ringEntry_vds (s : State) (chip ty vd : Nat) (body : List Word) :
    (s.ringEntry chip ty vd body).vds = s.vds := by
  unfold State.ringEntry; dsimp only; split <;> rfl
@[simp] theorem State.ringEntry_clus (s : State) (chip ty vd : Nat) (body : List Word) :
    (s.ringEntry chip ty vd body).clus = s.clus := by
  unfold State.ringEntry; dsimp only; split <;> rfl
/-- It keeps the canonical form. -/
theorem State.ringEntry_wf {s : State} (chip ty vd : Nat) (body : List Word) (w : s.mem.wf = true) :
    (s.ringEntry chip ty vd body).mem.wf = true := by
  unfold State.ringEntry; dsimp only
  split
  · exact w
  · exact Memory.wf_writeBytes _ _ w

/-! ### Writes of memory -/

/-- A line access changes the counts of its controller only (R453, R454). -/
theorem State.lineAccess_rest (s : State) (vd pa : Nat) : { s.lineAccess vd pa with chips := s.chips } = s := rfl
/-- A frame's owner is recorded at its controller only (R456). -/
theorem State.ownFrame_rest (s : State) (pa vd : Nat) : { s.ownFrame pa vd with chips := s.chips } = s := by
  unfold State.ownFrame; split <;> rfl
@[simp] theorem State.ownFrame_mem (s : State) (pa vd : Nat) : (s.ownFrame pa vd).mem = s.mem := by
  have h := congrArg State.mem (s.ownFrame_rest pa vd); exact h
@[simp] theorem State.ownFrame_cores (s : State) (pa vd : Nat) : (s.ownFrame pa vd).cores = s.cores := by
  have h := congrArg State.cores (s.ownFrame_rest pa vd); exact h
/-- A line written back is gone from what the media still lack, and counted at its controller (R62, R453). -/
theorem State.writeBack_rest (s : State) (line : Nat) :
    { s.writeBack line with media := s.media, chips := s.chips } = s := by
  unfold State.writeBack
  split
  · dsimp only; split <;> rfl
  · rfl

/-- A miss at a home slice changes the lines that L2 holds, and what a line that gives way to it leaves at its controller, only. -/
theorem State.l2Fill_rest (s : State) (pa mt : Nat) :
    { s.l2Fill pa mt with free := s.free, l2 := s.l2, media := s.media, chips := s.chips } = s := by
  unfold State.l2Fill; dsimp only
  split
  · rfl
  · split
    · rfl
    · have h := fun l => State.writeBack_rest s.freeNat.2 l
      generalize hu : s.freeNat.2.writeBack _ = u
      have g := h ((List.filter (fun l => sameL2Set (l * 256) pa) s.l2).getD
        (s.freeNat.1 % (List.filter (fun l => sameL2Set (l * 256) pa) s.l2).length) 0)
      rw [hu] at g
      have k : { u with free := s.free, l2 := s.l2, media := s.media, chips := s.chips } =
        { { u with media := s.freeNat.2.media, chips := s.freeNat.2.chips } with free := s.free, l2 := s.l2 } := rfl
      exact k.trans (by rw [g]; rfl)
@[simp] theorem State.l2Fill_mem (s : State) (pa mt : Nat) : (s.l2Fill pa mt).mem = s.mem := by
  have h := congrArg State.mem (s.l2Fill_rest pa mt); exact h
@[simp] theorem State.l2Fill_cores (s : State) (pa mt : Nat) : (s.l2Fill pa mt).cores = s.cores := by
  have h := congrArg State.cores (s.l2Fill_rest pa mt); exact h
@[simp] theorem State.l2Fill_clear (s : State) (pa mt : Nat) : (s.l2Fill pa mt).clear = s.clear := by
  have h := congrArg State.clear (s.l2Fill_rest pa mt); exact h

/-- A line served from memory changes the counts of its controller only (R453, R454). -/
theorem State.memServe_rest (s : State) (vd pa : Nat) : { s.memServe vd pa with chips := s.chips } = s := by
  unfold State.memServe; split <;> rfl
@[simp] theorem State.memServe_mem (s : State) (vd pa : Nat) : (s.memServe vd pa).mem = s.mem := by
  have h := congrArg State.mem (s.memServe_rest vd pa); exact h
@[simp] theorem State.memServe_cores (s : State) (vd pa : Nat) : (s.memServe vd pa).cores = s.cores := by
  have h := congrArg State.cores (s.memServe_rest vd pa); exact h
@[simp] theorem State.memServe_clear (s : State) (vd pa : Nat) : (s.memServe vd pa).clear = s.clear := by
  have h := congrArg State.clear (s.memServe_rest vd pa); exact h
@[simp] theorem State.lineServe_mem (s : State) (vd pa mt : Nat) : (s.lineServe vd pa mt).mem = s.mem := by simp [State.lineServe]
@[simp] theorem State.lineServe_cores (s : State) (vd pa mt : Nat) : (s.lineServe vd pa mt).cores = s.cores := by
  simp [State.lineServe]
@[simp] theorem State.lineServe_clear (s : State) (vd pa mt : Nat) : (s.lineServe vd pa mt).clear = s.clear := by
  simp [State.lineServe]
/-- A run reached at its home slices keeps every byte and every core. -/
theorem State.runServe_keeps (s : State) (vd pa n mt : Nat) :
    (s.runServe vd pa n mt).mem = s.mem ∧ (s.runServe vd pa n mt).cores = s.cores ∧ (s.runServe vd pa n mt).clear = s.clear := by
  unfold State.runServe
  generalize tab _ _ = as
  induction as generalizing s with
  | nil => exact ⟨rfl, rfl, rfl⟩
  | cons a as ih =>
    obtain ⟨h1, h2, h3⟩ := ih (s.lineServe vd a mt)
    simp only [List.foldl_cons, h1, h2, h3, State.lineServe_mem, State.lineServe_cores, State.lineServe_clear, and_self]

/-- What queued matrix commands may still see is all that keeping old words changes (R415). -/
theorem State.keepOld_rest (s : State) (pa n : Nat) : { s.keepOld pa n with olds := s.olds } = s := by
  unfold State.keepOld
  split
  · dsimp only; split <;> rfl
  · rfl
@[simp] theorem State.keepOld_mem (s : State) (pa n : Nat) : (s.keepOld pa n).mem = s.mem := by
  have h := congrArg State.mem (s.keepOld_rest pa n); exact h
@[simp] theorem State.keepOld_cores (s : State) (pa n : Nat) : (s.keepOld pa n).cores = s.cores := by
  have h := congrArg State.cores (s.keepOld_rest pa n); exact h

theorem State.readyLine_wf {s : State} (pa mt : Nat) (w : s.mem.wf = true) : (s.readyLine pa mt).mem.wf = true := by
  have h : (s.l2Fill pa mt).mem.wf = true := by rw [State.l2Fill_mem]; exact w
  unfold State.readyLine; dsimp only
  generalize s.l2Fill pa mt = u at h
  split <;> split <;> split <;> first | exact h | exact Memory.wf_clear _ _ h

@[simp] theorem State.wakeWatch_mem (s : State) (pa v : Nat) : (s.wakeWatch pa v).mem = s.mem := by
  unfold State.wakeWatch; split <;> rfl
@[simp] theorem State.wakeWatch_cores (s : State) (pa v : Nat) : (s.wakeWatch pa v).cores = s.cores := by
  unfold State.wakeWatch; split <;> rfl
@[simp] theorem State.readyLine_cores (s : State) (pa mt : Nat) : (s.readyLine pa mt).cores = s.cores := by
  have h := s.l2Fill_cores pa mt
  unfold State.readyLine; dsimp only
  generalize s.l2Fill pa mt = u at h
  rw [← h]
  split <;> split <;> split <;> rfl

/-- A write at a physical address keeps the canonical form. -/
theorem State.poke_wf {s : State} (pa n v mt : Nat) (w : s.mem.wf = true) : (s.poke pa n v mt).mem.wf = true := by
  unfold State.poke
  split
  · exact w
  · dsimp only
    rw [State.wakeWatch_mem]
    exact Memory.wf_writeBytes _ _ (State.readyLine_wf _ _ (by rw [State.keepOld_mem]; exact w))

@[simp] theorem State.setFull_mem (s : State) (pa : Nat) (b : Bool) : (s.setFull pa b).mem = s.mem := rfl
@[simp] theorem State.dropBad_mem (s : State) (pa : Nat) : (s.dropBad pa).mem = s.mem := rfl
@[simp] theorem State.countSoft_mem (s : State) (pa : Nat) : (s.countSoft pa).mem = s.mem := by
  unfold State.countSoft; dsimp only; split <;> rfl
@[simp] theorem State.correct_mem (s : State) (pa : Nat) : (s.correct pa).mem = s.mem := by
  unfold State.correct; split
  · rw [State.countSoft_mem, State.dropBad_mem]
  · rfl

/-- So does a run of words. -/
theorem State.pokeRun_wf {s : State} (pa mt : Nat) (ws : List Word) (bits : List (Option Bool)) (w : s.mem.wf = true) :
    (s.pokeRun pa mt ws bits).mem.wf = true := by
  induction ws generalizing s pa bits with
  | nil => exact w
  | cons v ws ih =>
    unfold State.pokeRun; dsimp only
    apply ih
    have h := State.poke_wf pa 8 v.toNat mt w
    split <;> split <;> (try rw [State.countSoft_mem]) <;> exact h

/-- So does a record in a ring that a home slice keeps, whether its channel can be written or not. -/
theorem State.servedRun_wf {s : State} (vd base mt : Nat) (ws : List Word) (bits : List (Option Bool)) (w : s.mem.wf = true) :
    (if s.pcFailed base then s else ((s.memServe vd base).ownFrame base vd).pokeRun base mt ws bits).mem.wf = true := by
  split
  · exact w
  · exact State.pokeRun_wf _ _ _ _ (by rw [State.ownFrame_mem, State.memServe_mem]; exact w)

/-- So does a record in a core's ring. -/
theorem State.traceCore_wf {s : State} (k : Nat) (a : Acc) (w : s.mem.wf = true) : (s.traceCore k a).mem.wf = true := by
  unfold State.traceCore; dsimp only; split
  · rw [State.updCore_mem]; exact State.pokeRun_wf _ _ _ _ w
  · exact w

/-- So does a record in any trace ring. -/
theorem State.trace_wf {s : State} (a : Acc) (w : s.mem.wf = true) : (s.trace a).mem.wf = true := by
  unfold State.trace
  split
  · exact State.traceCore_wf _ _ w
  · exact State.traceCore_wf _ _ w
  · exact w
  · dsimp only; split
    · rw [State.updClu_mem]; exact State.servedRun_wf _ _ _ _ _ w
    · exact w

theorem State.store_wf {s : State} (a : Acc) (v : Word) (w : s.mem.wf = true) : (s.store a v).mem.wf = true := by
  unfold State.store; dsimp only
  have h := State.poke_wf a.pa a.size ((v &&& a.mask) ||| (BitVec.ofNat 64 (s.peek a.pa a.size) &&& ~~~a.mask)).toNat a.mt w
  split
  · exact h
  · split
    · rw [State.countSoft_mem]; exact h
    · exact h

/-- And so does an access that performs. -/
theorem State.perform_wf {s : State} {a : Acc} {v : Word} {t : State} (w : s.mem.wf = true) (h : s.perform a = .done v t) :
    t.mem.wf = true := by
  unfold State.perform at h
  have hc : (if a.readsWord then s.correct a.pa else s).mem.wf = true := by
    split
    · rw [State.correct_mem]; exact w
    · exact w
  generalize (if a.readsWord then s.correct a.pa else s) = u at h hc
  split at h
  · cases h
  · split at h
    · cases h
    · split at h
      · cases h
      · dsimp only at h
        split at h <;> injection h with _ h <;> subst h
        · exact hc
        · exact State.store_wf _ _ hc
        · exact State.store_wf _ _ hc
        · exact hc
        · exact State.readyLine_wf _ _ hc
        · exact State.store_wf _ _ hc
        · exact State.store_wf _ _ hc
        · exact hc

/-! ### Operations that a core lets go -/

/-- No held operation of the core has still to read the line of a multicast store. -/
def Core.Calm (c : Core) : Prop := ∀ o ∈ c.ops, o.st = .held → o.readsLine = false

theorem Core.l1Drop_calm (c : Core) (line : Nat) (h : c.Calm) : (c.l1Drop line).Calm := by
  intro o ho hs
  simp only [Core.l1Drop, List.mem_map] at ho
  obtain ⟨p, hp, rfl⟩ := ho
  split at hs <;> rename_i e
  · rw [if_pos e]; exact h p hp hs
  · rw [if_neg e]; exact h p hp hs

theorem Core.l1Hit_calm (c : Core) (line : Nat) (h : c.Calm) : (c.l1Hit line).Calm := h

/-- From `s` to `t` nothing changes but core `k`, which stays calm, and what it has put into the fabric. -/
def LetsGo (k : Nat) (s t : State) : Prop :=
  { t with cores := s.cores, pkts := s.pkts, nextId := s.nextId } = s ∧ (∀ j, j ≠ k → t.core j = s.core j) ∧ s.pkts <+: t.pkts ∧
    ((s.core k).Calm → (t.core k).Calm)

theorem LetsGo.refl (k : Nat) (s : State) : LetsGo k s s := ⟨rfl, fun _ _ => rfl, List.prefix_refl _, id⟩

theorem LetsGo.trans {k : Nat} {s t u : State} (h : LetsGo k s t) (g : LetsGo k t u) : LetsGo k s u := by
  refine ⟨?_, fun j hj => (g.2.1 j hj).trans (h.2.1 j hj), h.2.2.1.trans g.2.2.1, g.2.2.2 ∘ h.2.2.2⟩
  have h1 := h.1; have g1 := g.1
  rw [← h1] at *
  rw [← g1]

/-- A change of the core that makes no operation held. -/
theorem LetsGo.updCore (k : Nat) (s : State) (f : Core → Core) (hf : ∀ c : Core, c.Calm → (f c).Calm) : LetsGo k s (s.updCore k f) :=
  ⟨rfl, fun _ hj => State.core_updCore_ne s f hj, List.prefix_refl _, fun h => by simpa using hf _ h⟩

theorem LetsGo.sendPkt (k : Nat) (s : State) (src dst : UnitId) (vd : Nat) (pl : Plane) (last : Nat) (p : Payload) :
    LetsGo k s (s.sendPkt src dst vd pl last p) :=
  ⟨rfl, fun _ _ => rfl, List.prefix_append _ _, id⟩

theorem LetsGo.mem {k : Nat} {s t : State} (h : LetsGo k s t) : t.mem = s.mem := by
  have g := congrArg State.mem h.1; exact g
theorem LetsGo.chips {k : Nat} {s t : State} (h : LetsGo k s t) : t.chips = s.chips := by
  have g := congrArg State.chips h.1; exact g
theorem LetsGo.vds {k : Nat} {s t : State} (h : LetsGo k s t) : t.vds = s.vds := by
  have g := congrArg State.vds h.1; exact g
theorem LetsGo.clus {k : Nat} {s t : State} (h : LetsGo k s t) : t.clus = s.clus := by
  have g := congrArg State.clus h.1; exact g

theorem LetsGo.upd {k : Nat} {s t : State} (h : LetsGo k s t) (f : Core → Core) (hf : ∀ c : Core, c.Calm → (f c).Calm) :
    LetsGo k s (t.updCore k f) :=
  h.trans (LetsGo.updCore k t f hf)
theorem LetsGo.send {k : Nat} {s t : State} (h : LetsGo k s t) (src dst : UnitId) (vd : Nat) (pl : Plane) (last : Nat) (p : Payload) :
    LetsGo k s (t.sendPkt src dst vd pl last p) :=
  h.trans (LetsGo.sendPkt k t src dst vd pl last p)
/-- A change of one operation that makes none held. -/
theorem LetsGo.updOp {k : Nat} {s t : State} (h : LetsGo k s t) (id : Nat) (f : Op → Op)
    (hf : ∀ o, (f o).st = .held → o.st = .held ∧ (f o).readsLine = o.readsLine) : LetsGo k s (t.updOp k id f) := by
  refine h.trans ⟨rfl, fun _ hj => State.core_updCore_ne t _ hj, List.prefix_refl _, fun g o ho hs => ?_⟩
  simp only [State.updOp, State.core_updCore, List.mem_map] at ho
  obtain ⟨p, hp, rfl⟩ := ho
  split at hs
  · rename_i e
    rw [if_pos e, (hf p hs).2]
    exact g p hp (hf p hs).1
  · rename_i e
    rw [if_neg e]
    exact g p hp hs
theorem LetsGo.dropOp {k : Nat} {s t : State} (h : LetsGo k s t) (id : Nat) : LetsGo k s (t.dropOp k id) := by
  refine h.trans ⟨rfl, fun _ hj => State.core_updCore_ne t _ hj, List.prefix_refl _, fun g o ho hs => ?_⟩
  simp only [State.dropOp, State.core_updCore, List.mem_filter] at ho
  exact g o ho.1 hs
theorem LetsGo.answer {k : Nat} {s t : State} (h : LetsGo k s t) (o : Op) (st : Nat) (v : Word) :
    LetsGo k s (t.selfAnswer k o st v) := h.send _ _ _ _ _ _
theorem LetsGo.ite {k : Nat} {s t u : State} {c : Prop} [Decidable c] (h : LetsGo k s t) (g : LetsGo k s u) :
    LetsGo k s (if c then t else u) := by split <;> assumption

/-- An operation that leaves changes its core and the packets only, unless it has a line to read. -/
theorem State.sendOp_letsGo (s : State) (k : Nat) (o : Op) (ho : o.readsLine = false) : LetsGo k s (s.sendOp k o) := by
  have h : LetsGo k s (s.updOp k o.id fun o => { o with st := .sent }) := (LetsGo.refl k s).updOp _ _ fun _ e => by cases e
  unfold State.sendOp
  generalize (s.updOp k o.id fun o => { o with st := .sent }) = t at h
  unfold Op.readsLine at ho
  dsimp only
  cases hw : o.work <;> dsimp only
  case mem a =>
    apply LetsGo.send
    refine LetsGo.updOp ?_ _ _ fun o e => ?_
    rotate_left
    · simp only at e; simp only [Op.readsLine, e, and_self]
    split
    · exact h.upd _ fun c => c.l1Drop_calm _
    · exact h
  case flag => exact (h.upd _ fun c => c.l1Drop_calm _).send _ _ _ _ _ _
  case cinv => exact (h.upd _ fun c => c.l1Drop_calm _).dropOp _
  case tret => exact (h.dropOp _).upd _ fun _ g => g
  case mcst m pa line =>
    cases line with
    | none => simp [hw] at ho
    | some d => exact h.send _ _ _ _ _ _
  all_goals exact h.send _ _ _ _ _ _

theorem State.goLoad_letsGo (s : State) (k : Nat) (o : Op) (a : Acc) (ho : o.readsLine = false) : LetsGo k s (s.goLoad k o a) := by
  have h := LetsGo.refl k s
  have sent : LetsGo k s (s.updOp k o.id fun o => { o with st := .sent }) := h.updOp _ _ fun _ e => by cases e
  unfold State.goLoad
  dsimp only
  generalize (List.filter _ (s.core k).ops).getLast? = m
  cases m with
  | some p => exact LetsGo.ite (sent.answer _ _ _) h
  | none =>
    dsimp only
    split
    · exact (h.updOp _ _ fun _ e => by cases e).answer _ _ _
    · split
      · rename_i l _
        have took : LetsGo k s (s.updOp k o.id fun x =>
            { x with st := (((s.core k).flyingStore x).map fun p => OpState.taking p.id).getD .sent }) := h.updOp _ _ fun x e => by
          cases hf : (s.core k).flyingStore x <;> simp [hf] at e
        have hit := took.upd (fun c => c.l1Hit l.addr) fun c => c.l1Hit_calm l.addr
        split <;> exact hit.answer _ _ _
      · exact s.sendOp_letsGo k o ho

theorem State.tryOp_letsGo (s : State) (k id : Nat) (hc : (s.core k).Calm) : LetsGo k s (s.tryOp k id) := by
  have h := LetsGo.refl k s
  unfold State.tryOp
  dsimp only
  split
  · exact h
  · rename_i o hf
    by_cases hh : o.st = .held
    · have ho := hc o (List.mem_of_find?_eq_some hf) hh
      have g := s.sendOp_letsGo k o ho
      rw [if_neg (by simp [hh])]
      split
      · split
        · exact LetsGo.ite (s.goLoad_letsGo k o _ ho) h
        · exact LetsGo.ite (LetsGo.ite g (LetsGo.ite (h.updOp _ _ fun _ e => by cases e) h)) h
        · exact LetsGo.ite g h
      · exact h
      · exact LetsGo.ite g h
    · rw [if_pos (by simpa using hh)]; exact h

/-- The settling of a level's wait touches no operation. -/
theorem Core.settleLvl_ops (c : Core) (l : Level) : (c.settleLvl l).ops = c.ops := by
  unfold Core.settleLvl
  dsimp only
  split <;> (repeat' split) <;> rfl
theorem Core.settle_ops (c : Core) : c.settle.ops = c.ops := by
  simp only [Core.settle, Core.settleLvl_ops]

/-- Letting the held operations of a calm core go changes nothing outside that core but the packets: no byte of memory, no other
core. -/
theorem State.pump_letsGo (s : State) (k : Nat) (hc : (s.core k).Calm) : LetsGo k s (s.pump k) := by
  unfold State.pump
  dsimp only
  refine LetsGo.upd ?_ _ fun c h => by simpa only [Core.Calm, Core.settle_ops] using h
  generalize (((s.core k).ops.filter fun o => o.st == .held).map Op.id) = ids
  have h : ∀ (l : List Nat) (t : State), LetsGo k s t → LetsGo k s (l.foldl (fun s id => s.tryOp k id) t) := by
    intro l
    induction l with
    | nil => exact fun _ h => h
    | cons i l ih => exact fun t h => ih _ (h.trans (t.tryOp_letsGo k i (h.2.2.2 hc)))
  exact h ids s (LetsGo.refl k s)

end Sys2Proof.Machine
end

