-- ==== Sys2Proof/Laws/PerInstr.lean ====
section
/-! SUPPORT. Encoding and decoding agree, one lemma per constructor of `Instr`. -/

namespace Sys2Proof

set_option Elab.async false

theorem isLong_encode (stl : Stall) (i : Instr) : isLong (encode stl i) = i.long := by
  rw [isLong, encode, fld_pack, packFld, if_neg (by decide), if_pos (by decide), fld_bool, toNat_beq_one]

theorem stallOf_encode (stl : Stall) (i : Instr) : stallOf (encode stl i) = stl.toNat := by
  rw [stallOf, encode, fld_pack, packFld, if_pos (by decide), packFld, if_neg (by decide), if_pos (by decide)]
  exact fld_toNat stl

/-- A field of the word above the stall count. -/
theorem fld_encode {stl : Stall} {i : Instr} {fs : List (Nat × Nat)} (h : i.fields = fs) (lo n : Nat) (h4 : 4 ≤ lo) :
    fld (encode stl i) lo n = packFld fs (lo - 4) n := by
  rw [encode, fld_pack, packFld, if_pos (by omega), packFld, if_pos (by omega), h]; rfl

theorem fld_ofNat (v lo n : Nat) [v.AtLeastTwo] :
    fld (no_index (OfNat.ofNat v)) lo n = (OfNat.ofNat v : Nat) / 2 ^ lo % 2 ^ n := rfl
theorem fld_zero (lo n : Nat) : fld 0 lo n = 0 := by simp [fld]
theorem fld_one (lo n : Nat) : fld 1 lo n = 1 / 2 ^ lo % 2 ^ n := rfl

/-- The major opcode of the word. -/
theorem fld_major {stl : Stall} {i : Instr} {m : Nat} {fs : List (Nat × Nat)} (h : i.fields = (6, m) :: fs) (hm : m < 64) :
    fld (encode stl i) 4 6 = m := by
  rw [fld_encode h 4 6 (by decide), packFld, if_neg (by decide), if_pos (by decide)]
  exact fld_of_lt hm

/-- The bytes of a word are as many as its length says. -/
theorem encode_lt {stl : Stall} {i : Instr} {fs : List (Nat × Nat)} (h : i.fields = fs) :
    encode stl i < 2 ^ (4 + (fs.map Prod.fst).sum) := by
  have := pack_lt ((1, i.long.toNat) :: (3, stl.toNat) :: i.fields)
  rw [h, List.map_cons, List.map_cons, List.sum_cons, List.sum_cons, ← Nat.add_assoc] at this
  rw [encode, h]; exact this

theorem decode32_major00 {w : Nat} (h : fld w 4 6 = 0x00) : decode32 w = decodeMajor00 w := by simp only [decode32, h]
theorem decode32_major01 {w : Nat} (h : fld w 4 6 = 0x01) : decode32 w = decodeMajor01 w := by simp only [decode32, h]
theorem decode32_major02 {w : Nat} (h : fld w 4 6 = 0x02) : decode32 w = decodeMajor02 w := by simp only [decode32, h]
theorem decode32_major03 {w : Nat} (h : fld w 4 6 = 0x03) : decode32 w = decodeMajor03 w := by simp only [decode32, h]
theorem decode32_major04 {w : Nat} (h : fld w 4 6 = 0x04) : decode32 w = decodeMajor04 w := by simp only [decode32, h]
theorem decode32_major05 {w : Nat} (h : fld w 4 6 = 0x05) : decode32 w = decodeMajor05 w := by simp only [decode32, h]
theorem decode32_major06 {w : Nat} (h : fld w 4 6 = 0x06) : decode32 w = decodeMajor06 w := by simp only [decode32, h]
theorem decode32_major07 {w : Nat} (h : fld w 4 6 = 0x07) : decode32 w = decodeMajor07 w := by simp only [decode32, h]
theorem decode32_major08 {w : Nat} (h : fld w 4 6 = 0x08) : decode32 w = decodeMajor08 w := by simp only [decode32, h]
theorem decode32_major09 {w : Nat} (h : fld w 4 6 = 0x09) : decode32 w = decodeMajor09 w := by simp only [decode32, h]
theorem decode32_major0A {w : Nat} (h : fld w 4 6 = 0x0A) : decode32 w = decodeMajor0A w := by simp only [decode32, h]
theorem decode32_major0B {w : Nat} (h : fld w 4 6 = 0x0B) : decode32 w = decodeMajor0B w := by simp only [decode32, h]
theorem decode32_major0C {w : Nat} (h : fld w 4 6 = 0x0C) : decode32 w = decodeMajor0C w := by simp only [decode32, h]
theorem decode32_major0E {w : Nat} (h : fld w 4 6 = 0x0E) : decode32 w = decodeMajor0E w := by simp only [decode32, h]
theorem decode32_major0F {w : Nat} (h : fld w 4 6 = 0x0F) : decode32 w = decodeMajor0F w := by simp only [decode32, h]
theorem decode32_major10 {w : Nat} (h : fld w 4 6 = 0x10) : decode32 w = decodeMajor10 w := by simp only [decode32, h]
theorem decode32_major11 {w : Nat} (h : fld w 4 6 = 0x11) : decode32 w = decodeMajor11 w := by simp only [decode32, h]
theorem decode32_major12 {w : Nat} (h : fld w 4 6 = 0x12) : decode32 w = decodeMajor12 w := by simp only [decode32, h]
theorem decode32_major13 {w : Nat} (h : fld w 4 6 = 0x13) : decode32 w = decodeMajor13 w := by simp only [decode32, h]
theorem decode32_major14 {w : Nat} (h : fld w 4 6 = 0x14) : decode32 w = decodeMajor14 w := by simp only [decode32, h]
theorem decode32_major15 {w : Nat} (h : fld w 4 6 = 0x15) : decode32 w = decodeMajor15 w := by simp only [decode32, h]
theorem decode32_major16 {w : Nat} (h : fld w 4 6 = 0x16) : decode32 w = decodeMajor16 w := by simp only [decode32, h]
theorem decode32_major17 {w : Nat} (h : fld w 4 6 = 0x17) : decode32 w = decodeMajor17 w := by simp only [decode32, h]
theorem decode32_major18 {w : Nat} (h : fld w 4 6 = 0x18) : decode32 w = decodeMajor18 w := by simp only [decode32, h]
theorem decode32_major19 {w : Nat} (h : fld w 4 6 = 0x19) : decode32 w = decodeMajor19 w := by simp only [decode32, h]
theorem decode32_major1A {w : Nat} (h : fld w 4 6 = 0x1A) : decode32 w = decodeMajor1A w := by simp only [decode32, h]
theorem decode32_major1B {w : Nat} (h : fld w 4 6 = 0x1B) : decode32 w = decodeMajor1B w := by simp only [decode32, h]
theorem decode32_major1C {w : Nat} (h : fld w 4 6 = 0x1C) : decode32 w = decodeMajor1C w := by simp only [decode32, h]
theorem decode32_major1D {w : Nat} (h : fld w 4 6 = 0x1D) : decode32 w = decodeMajor1D w := by simp only [decode32, h]
theorem decode32_major1E {w : Nat} (h : fld w 4 6 = 0x1E) : decode32 w = decodeMajor1E w := by simp only [decode32, h]
theorem decode32_major20 {w : Nat} (h : fld w 4 6 = 0x20) : decode32 w = decodeMajor20 w := by simp only [decode32, h]
theorem decode32_major21 {w : Nat} (h : fld w 4 6 = 0x21) : decode32 w = decodeMajor21 w := by simp only [decode32, h]
theorem decode32_major22 {w : Nat} (h : fld w 4 6 = 0x22) : decode32 w = decodeMajor22 w := by simp only [decode32, h]
theorem decode32_major23 {w : Nat} (h : fld w 4 6 = 0x23) : decode32 w = decodeMajor23 w := by simp only [decode32, h]
theorem decode32_major24 {w : Nat} (h : fld w 4 6 = 0x24) : decode32 w = decodeMajor24 w := by simp only [decode32, h]
theorem decode32_major25 {w : Nat} (h : fld w 4 6 = 0x25) : decode32 w = decodeMajor25 w := by simp only [decode32, h]
theorem decode32_major26 {w : Nat} (h : fld w 4 6 = 0x26) : decode32 w = decodeMajor26 w := by simp only [decode32, h]
theorem decode32_major27 {w : Nat} (h : fld w 4 6 = 0x27) : decode32 w = decodeMajor27 w := by simp only [decode32, h]
theorem decode32_major28 {w : Nat} (h : fld w 4 6 = 0x28) : decode32 w = decodeMajor28 w := by simp only [decode32, h]
theorem decode32_major29 {w : Nat} (h : fld w 4 6 = 0x29) : decode32 w = decodeMajor29 w := by simp only [decode32, h]
theorem decode32_major2A {w : Nat} (h : fld w 4 6 = 0x2A) : decode32 w = decodeMajor2A w := by simp only [decode32, h]
theorem decode32_major2B {w : Nat} (h : fld w 4 6 = 0x2B) : decode32 w = decodeMajor2B w := by simp only [decode32, h]
theorem decode32_major2C {w : Nat} (h : fld w 4 6 = 0x2C) : decode32 w = decodeMajor2C w := by simp only [decode32, h]
theorem decode32_major2D {w : Nat} (h : fld w 4 6 = 0x2D) : decode32 w = decodeMajor2D w := by simp only [decode32, h]
theorem decode32_major30 {w : Nat} (h : fld w 4 6 = 0x30) : decode32 w = decodeMajor30 w := by simp only [decode32, h]
theorem decode32_major31 {w : Nat} (h : fld w 4 6 = 0x31) : decode32 w = decodeMajor31 w := by simp only [decode32, h]
theorem decode32_major32 {w : Nat} (h : fld w 4 6 = 0x32) : decode32 w = decodeMajor32 w := by simp only [decode32, h]
theorem decode32_major33 {w : Nat} (h : fld w 4 6 = 0x33) : decode32 w = decodeMajor33 w := by simp only [decode32, h]
theorem decode32_major34 {w : Nat} (h : fld w 4 6 = 0x34) : decode32 w = decodeMajor34 w := by simp only [decode32, h]
theorem decode32_major35 {w : Nat} (h : fld w 4 6 = 0x35) : decode32 w = decodeMajor35 w := by simp only [decode32, h]
theorem decode32_major36 {w : Nat} (h : fld w 4 6 = 0x36) : decode32 w = decodeMajor36 w := by simp only [decode32, h]
theorem decode32_major37 {w : Nat} (h : fld w 4 6 = 0x37) : decode32 w = decodeMajor37 w := by simp only [decode32, h]
theorem decode32_major38 {w : Nat} (h : fld w 4 6 = 0x38) : decode32 w = decodeMajor38 w := by simp only [decode32, h]
theorem decode32_major39 {w : Nat} (h : fld w 4 6 = 0x39) : decode32 w = decodeMajor39 w := by simp only [decode32, h]
theorem decode32_major3A {w : Nat} (h : fld w 4 6 = 0x3A) : decode32 w = decodeMajor3A w := by simp only [decode32, h]
theorem decode32_major3B {w : Nat} (h : fld w 4 6 = 0x3B) : decode32 w = decodeMajor3B w := by simp only [decode32, h]

end Sys2Proof

namespace Sys2Proof.Laws.RoundTrip

set_option Elab.async false

/-- A well-formed instruction with a word decodes from the word that encodes it, with any stall count, and the word gives
back the stall count; the all-zero parcel, C.MV x0, x0 with stall count 0, is no instruction (R275). -/
def Statement (i : Instr) : Prop :=
  i.encoded = true → i.wellFormed = true → ∀ stl : Stall, (i = .cMv 0 0 → stl ≠ 0) →
    decodeWord (encode stl i) = some i ∧ stallOf (encode stl i) = stl.toNat

/-- A 32-bit word. -/
theorem long_word {stl : Stall} {i : Instr} (hl : i.long = true) (hw : i.wellFormed = true)
    (h : decode32 (encode stl i) = some i) :
    decodeWord (encode stl i) = some i ∧ stallOf (encode stl i) = stl.toNat := by
  refine ⟨?_, stallOf_encode stl i⟩
  rw [decodeWord, if_pos (by rw [isLong_encode, hl]), h]
  simp [Option.filter, hw]

/-- A 16-bit word that is not zero. -/
theorem short_word {stl : Stall} {i : Instr} (hl : i.long = false) (hw : i.wellFormed = true) (hlt : encode stl i < 65536)
    (hne : encode stl i ≠ 0) (h : decode16 (encode stl i) = some i) :
    decodeWord (encode stl i) = some i ∧ stallOf (encode stl i) = stl.toNat := by
  refine ⟨?_, stallOf_encode stl i⟩
  rw [decodeWord, if_neg (by rw [isLong_encode, hl]; decide), Nat.mod_eq_of_lt hlt, if_neg hne, h]
  simp [Option.filter, hw]

/-- A word with a field that is not zero is not zero. -/
theorem ne_zero_of_fld {w lo n v : Nat} (h : fld w lo n = v) (hv : v ≠ 0) : w ≠ 0 := fun e => hv (by rw [← h, e, fld_zero])

/-- The word of C.MV is zero only with x0, x0 and stall count 0. -/
theorem mv_ne_zero {stl : Stall} {b a : BitVec 4} (hz : Instr.cMv b a = .cMv 0 0 → stl ≠ 0) : encode stl (.cMv b a) ≠ 0 := by
  intro e
  have f := fld_encode (stl := stl) (i := .cMv b a) (fs := [(4, 0), (4, a.toNat), (4, b.toNat)]) rfl
  have ha : a.toNat = 0 := by simpa [packFld, e, fld_zero] using (f 8 4 (by decide)).symm
  have hb : b.toNat = 0 := by simpa [packFld, e, fld_zero] using (f 12 4 (by decide)).symm
  have hs : stl.toNat = 0 := by rw [← stallOf_encode stl (.cMv b a), e]; rfl
  have ea : a = 0 := BitVec.eq_of_toNat_eq ha
  have eb : b = 0 := BitVec.eq_of_toNat_eq hb
  subst ea eb
  exact hz rfl (BitVec.eq_of_toNat_eq hs)

/-- An event of the device has no word. -/
theorem no_word {i : Instr} (h : i.encoded = false) : Statement i := fun e => by rw [h] at e; cases e

theorem padd (rb : XReg) (ra : XReg) (rd : XReg) : Statement (.padd rb ra rd) := fun _ hw stl _ =>
  have f := fld_encode (stl := stl) (i := (.padd rb ra rd)) (fs := [(6, 12), (5, rd.toNat), (5, ra.toNat), (5, rb.toNat), (7, 0)]) rfl
  long_word rfl hw ((decode32_major0C (fld_major rfl (by decide))).trans
    (by simp [decodeMajor0C, f, packFld, fld_zero]))
theorem psub (rb : XReg) (ra : XReg) (rd : XReg) : Statement (.psub rb ra rd) := fun _ hw stl _ =>
  have f := fld_encode (stl := stl) (i := (.psub rb ra rd)) (fs := [(6, 12), (5, rd.toNat), (5, ra.toNat), (5, rb.toNat), (7, 1)]) rfl
  long_word rfl hw ((decode32_major0C (fld_major rfl (by decide))).trans
    (by simp [decodeMajor0C, f, packFld, fld_one]))
theorem ptag (rb : XReg) (ra : XReg) (rd : XReg) : Statement (.ptag rb ra rd) := fun _ hw stl _ =>
  have f := fld_encode (stl := stl) (i := (.ptag rb ra rd)) (fs := [(6, 12), (5, rd.toNat), (5, ra.toNat), (5, rb.toNat), (7, 2)]) rfl
  long_word rfl hw ((decode32_major0C (fld_major rfl (by decide))).trans
    (by simp [decodeMajor0C, f, packFld, fld_ofNat]))
theorem pget (ra : XReg) (rd : XReg) : Statement (.pget ra rd) := fun _ hw stl _ =>
  have f := fld_encode (stl := stl) (i := (.pget ra rd)) (fs := [(6, 12), (5, rd.toNat), (5, ra.toNat), (12, 96)]) rfl
  long_word rfl hw ((decode32_major0C (fld_major rfl (by decide))).trans
    (by simp [decodeMajor0C, f, packFld, fld_ofNat]))
theorem pstrip (ra : XReg) (rd : XReg) : Statement (.pstrip ra rd) := fun _ hw stl _ =>
  have f := fld_encode (stl := stl) (i := (.pstrip ra rd)) (fs := [(6, 12), (5, rd.toNat), (5, ra.toNat), (12, 128)]) rfl
  long_word rfl hw ((decode32_major0C (fld_major rfl (by decide))).trans
    (by simp [decodeMajor0C, f, packFld, fld_ofNat]))
theorem add (rb : XReg) (ra : XReg) (rd : XReg) : Statement (.add rb ra rd) := fun _ hw stl _ =>
  have f := fld_encode (stl := stl) (i := (.add rb ra rd)) (fs := [(6, 1), (5, rd.toNat), (5, ra.toNat), (5, rb.toNat), (7, 0)]) rfl
  long_word rfl hw ((decode32_major01 (fld_major rfl (by decide))).trans
    (by simp [decodeMajor01, f, packFld, fld_zero, fld_one]))
theorem sub (rb : XReg) (ra : XReg) (rd : XReg) : Statement (.sub rb ra rd) := fun _ hw stl _ =>
  have f := fld_encode (stl := stl) (i := (.sub rb ra rd)) (fs := [(6, 1), (5, rd.toNat), (5, ra.toNat), (5, rb.toNat), (7, 1)]) rfl
  long_word rfl hw ((decode32_major01 (fld_major rfl (by decide))).trans
    (by simp [decodeMajor01, f, packFld, fld_one]))
theorem and_ (rb : XReg) (ra : XReg) (rd : XReg) : Statement (.and_ rb ra rd) := fun _ hw stl _ =>
  have f := fld_encode (stl := stl) (i := (.and_ rb ra rd)) (fs := [(6, 1), (5, rd.toNat), (5, ra.toNat), (5, rb.toNat), (7, 2)]) rfl
  long_word rfl hw ((decode32_major01 (fld_major rfl (by decide))).trans
    (by simp [decodeMajor01, f, packFld, fld_ofNat, fld_one]))
theorem or_ (rb : XReg) (ra : XReg) (rd : XReg) : Statement (.or_ rb ra rd) := fun _ hw stl _ =>
  have f := fld_encode (stl := stl) (i := (.or_ rb ra rd)) (fs := [(6, 1), (5, rd.toNat), (5, ra.toNat), (5, rb.toNat), (7, 3)]) rfl
  long_word rfl hw ((decode32_major01 (fld_major rfl (by decide))).trans
    (by simp [decodeMajor01, f, packFld, fld_ofNat, fld_one]))
theorem xor_ (rb : XReg) (ra : XReg) (rd : XReg) : Statement (.xor_ rb ra rd) := fun _ hw stl _ =>
  have f := fld_encode (stl := stl) (i := (.xor_ rb ra rd)) (fs := [(6, 1), (5, rd.toNat), (5, ra.toNat), (5, rb.toNat), (7, 4)]) rfl
  long_word rfl hw ((decode32_major01 (fld_major rfl (by decide))).trans
    (by simp [decodeMajor01, f, packFld, fld_ofNat, fld_one]))
theorem shl (rb : XReg) (ra : XReg) (rd : XReg) : Statement (.shl rb ra rd) := fun _ hw stl _ =>
  have f := fld_encode (stl := stl) (i := (.shl rb ra rd)) (fs := [(6, 1), (5, rd.toNat), (5, ra.toNat), (5, rb.toNat), (7, 5)]) rfl
  long_word rfl hw ((decode32_major01 (fld_major rfl (by decide))).trans
    (by simp [decodeMajor01, f, packFld, fld_ofNat, fld_one]))
theorem shr (rb : XReg) (ra : XReg) (rd : XReg) : Statement (.shr rb ra rd) := fun _ hw stl _ =>
  have f := fld_encode (stl := stl) (i := (.shr rb ra rd)) (fs := [(6, 1), (5, rd.toNat), (5, ra.toNat), (5, rb.toNat), (7, 6)]) rfl
  long_word rfl hw ((decode32_major01 (fld_major rfl (by decide))).trans
    (by simp [decodeMajor01, f, packFld, fld_ofNat, fld_one]))
theorem sra (rb : XReg) (ra : XReg) (rd : XReg) : Statement (.sra rb ra rd) := fun _ hw stl _ =>
  have f := fld_encode (stl := stl) (i := (.sra rb ra rd)) (fs := [(6, 1), (5, rd.toNat), (5, ra.toNat), (5, rb.toNat), (7, 7)]) rfl
  long_word rfl hw ((decode32_major01 (fld_major rfl (by decide))).trans
    (by simp [decodeMajor01, f, packFld, fld_ofNat, fld_one]))
theorem rot (rb : XReg) (ra : XReg) (rd : XReg) : Statement (.rot rb ra rd) := fun _ hw stl _ =>
  have f := fld_encode (stl := stl) (i := (.rot rb ra rd)) (fs := [(6, 1), (5, rd.toNat), (5, ra.toNat), (5, rb.toNat), (7, 8)]) rfl
  long_word rfl hw ((decode32_major01 (fld_major rfl (by decide))).trans
    (by simp [decodeMajor01, f, packFld, fld_ofNat, fld_one]))
theorem slt (rb : XReg) (ra : XReg) (rd : XReg) : Statement (.slt rb ra rd) := fun _ hw stl _ =>
  have f := fld_encode (stl := stl) (i := (.slt rb ra rd)) (fs := [(6, 1), (5, rd.toNat), (5, ra.toNat), (5, rb.toNat), (7, 9)]) rfl
  long_word rfl hw ((decode32_major01 (fld_major rfl (by decide))).trans
    (by simp [decodeMajor01, f, packFld, fld_ofNat, fld_one]))
theorem sltn (rb : XReg) (ra : XReg) (rd : XReg) : Statement (.sltn rb ra rd) := fun _ hw stl _ =>
  have f := fld_encode (stl := stl) (i := (.sltn rb ra rd)) (fs := [(6, 1), (5, rd.toNat), (5, ra.toNat), (5, rb.toNat), (7, 10)]) rfl
  long_word rfl hw ((decode32_major01 (fld_major rfl (by decide))).trans
    (by simp [decodeMajor01, f, packFld, fld_ofNat, fld_one]))
theorem min_ (rb : XReg) (ra : XReg) (rd : XReg) : Statement (.min_ rb ra rd) := fun _ hw stl _ =>
  have f := fld_encode (stl := stl) (i := (.min_ rb ra rd)) (fs := [(6, 1), (5, rd.toNat), (5, ra.toNat), (5, rb.toNat), (7, 11)]) rfl
  long_word rfl hw ((decode32_major01 (fld_major rfl (by decide))).trans
    (by simp [decodeMajor01, f, packFld, fld_ofNat, fld_one]))
theorem max_ (rb : XReg) (ra : XReg) (rd : XReg) : Statement (.max_ rb ra rd) := fun _ hw stl _ =>
  have f := fld_encode (stl := stl) (i := (.max_ rb ra rd)) (fs := [(6, 1), (5, rd.toNat), (5, ra.toNat), (5, rb.toNat), (7, 12)]) rfl
  long_word rfl hw ((decode32_major01 (fld_major rfl (by decide))).trans
    (by simp [decodeMajor01, f, packFld, fld_ofNat, fld_one]))
theorem minn (rb : XReg) (ra : XReg) (rd : XReg) : Statement (.minn rb ra rd) := fun _ hw stl _ =>
  have f := fld_encode (stl := stl) (i := (.minn rb ra rd)) (fs := [(6, 1), (5, rd.toNat), (5, ra.toNat), (5, rb.toNat), (7, 13)]) rfl
  long_word rfl hw ((decode32_major01 (fld_major rfl (by decide))).trans
    (by simp [decodeMajor01, f, packFld, fld_ofNat, fld_one]))
theorem maxn (rb : XReg) (ra : XReg) (rd : XReg) : Statement (.maxn rb ra rd) := fun _ hw stl _ =>
  have f := fld_encode (stl := stl) (i := (.maxn rb ra rd)) (fs := [(6, 1), (5, rd.toNat), (5, ra.toNat), (5, rb.toNat), (7, 14)]) rfl
  long_word rfl hw ((decode32_major01 (fld_major rfl (by decide))).trans
    (by simp [decodeMajor01, f, packFld, fld_ofNat, fld_one]))
theorem sel (rb : XReg) (ra : XReg) (rd : XReg) : Statement (.sel rb ra rd) := fun _ hw stl _ =>
  have f := fld_encode (stl := stl) (i := (.sel rb ra rd)) (fs := [(6, 1), (5, rd.toNat), (5, ra.toNat), (5, rb.toNat), (7, 15)]) rfl
  long_word rfl hw ((decode32_major01 (fld_major rfl (by decide))).trans
    (by simp [decodeMajor01, f, packFld, fld_ofNat, fld_one]))
theorem clz (ra : XReg) (rd : XReg) : Statement (.clz ra rd) := fun _ hw stl _ =>
  have f := fld_encode (stl := stl) (i := (.clz ra rd)) (fs := [(6, 1), (5, rd.toNat), (5, ra.toNat), (12, 512)]) rfl
  long_word rfl hw ((decode32_major01 (fld_major rfl (by decide))).trans
    (by simp [decodeMajor01, f, packFld, fld_ofNat, fld_one]))
theorem ctz (ra : XReg) (rd : XReg) : Statement (.ctz ra rd) := fun _ hw stl _ =>
  have f := fld_encode (stl := stl) (i := (.ctz ra rd)) (fs := [(6, 1), (5, rd.toNat), (5, ra.toNat), (12, 544)]) rfl
  long_word rfl hw ((decode32_major01 (fld_major rfl (by decide))).trans
    (by simp [decodeMajor01, f, packFld, fld_ofNat, fld_one]))
theorem popc (ra : XReg) (rd : XReg) : Statement (.popc ra rd) := fun _ hw stl _ =>
  have f := fld_encode (stl := stl) (i := (.popc ra rd)) (fs := [(6, 1), (5, rd.toNat), (5, ra.toNat), (12, 576)]) rfl
  long_word rfl hw ((decode32_major01 (fld_major rfl (by decide))).trans
    (by simp [decodeMajor01, f, packFld, fld_ofNat, fld_one]))
theorem brev (ra : XReg) (rd : XReg) : Statement (.brev ra rd) := fun _ hw stl _ =>
  have f := fld_encode (stl := stl) (i := (.brev ra rd)) (fs := [(6, 1), (5, rd.toNat), (5, ra.toNat), (12, 608)]) rfl
  long_word rfl hw ((decode32_major01 (fld_major rfl (by decide))).trans
    (by simp [decodeMajor01, f, packFld, fld_ofNat, fld_one]))
theorem addi (imm : BitVec 12) (ra : XReg) (rd : XReg) : Statement (.addi imm ra rd) := fun _ hw stl _ =>
  have f := fld_encode (stl := stl) (i := (.addi imm ra rd)) (fs := [(6, 2), (5, rd.toNat), (5, ra.toNat), (12, imm.toNat)]) rfl
  long_word rfl hw ((decode32_major02 (fld_major rfl (by decide))).trans
    (by simp [decodeMajor02, f, packFld]))
theorem andi (imm : BitVec 12) (ra : XReg) (rd : XReg) : Statement (.andi imm ra rd) := fun _ hw stl _ =>
  have f := fld_encode (stl := stl) (i := (.andi imm ra rd)) (fs := [(6, 3), (5, rd.toNat), (5, ra.toNat), (12, imm.toNat)]) rfl
  long_word rfl hw ((decode32_major03 (fld_major rfl (by decide))).trans
    (by simp [decodeMajor03, f, packFld]))
theorem ori (imm : BitVec 12) (ra : XReg) (rd : XReg) : Statement (.ori imm ra rd) := fun _ hw stl _ =>
  have f := fld_encode (stl := stl) (i := (.ori imm ra rd)) (fs := [(6, 4), (5, rd.toNat), (5, ra.toNat), (12, imm.toNat)]) rfl
  long_word rfl hw ((decode32_major04 (fld_major rfl (by decide))).trans
    (by simp [decodeMajor04, f, packFld]))
theorem xori (imm : BitVec 12) (ra : XReg) (rd : XReg) : Statement (.xori imm ra rd) := fun _ hw stl _ =>
  have f := fld_encode (stl := stl) (i := (.xori imm ra rd)) (fs := [(6, 5), (5, rd.toNat), (5, ra.toNat), (12, imm.toNat)]) rfl
  long_word rfl hw ((decode32_major05 (fld_major rfl (by decide))).trans
    (by simp [decodeMajor05, f, packFld]))
theorem slti (imm : BitVec 12) (ra : XReg) (rd : XReg) : Statement (.slti imm ra rd) := fun _ hw stl _ =>
  have f := fld_encode (stl := stl) (i := (.slti imm ra rd)) (fs := [(6, 6), (5, rd.toNat), (5, ra.toNat), (12, imm.toNat)]) rfl
  long_word rfl hw ((decode32_major06 (fld_major rfl (by decide))).trans
    (by simp [decodeMajor06, f, packFld]))
theorem shli (amt : BitVec 6) (ra : XReg) (rd : XReg) : Statement (.shli amt ra rd) := fun _ hw stl _ =>
  have f := fld_encode (stl := stl) (i := (.shli amt ra rd)) (fs := [(6, 7), (5, rd.toNat), (5, ra.toNat), (6, amt.toNat), (6, 0)]) rfl
  long_word rfl hw ((decode32_major07 (fld_major rfl (by decide))).trans
    (by simp [decodeMajor07, f, packFld, fld_zero]))
theorem shri (amt : BitVec 6) (ra : XReg) (rd : XReg) : Statement (.shri amt ra rd) := fun _ hw stl _ =>
  have f := fld_encode (stl := stl) (i := (.shri amt ra rd)) (fs := [(6, 7), (5, rd.toNat), (5, ra.toNat), (6, amt.toNat), (6, 1)]) rfl
  long_word rfl hw ((decode32_major07 (fld_major rfl (by decide))).trans
    (by simp [decodeMajor07, f, packFld, fld_one]))
theorem srai (amt : BitVec 6) (ra : XReg) (rd : XReg) : Statement (.srai amt ra rd) := fun _ hw stl _ =>
  have f := fld_encode (stl := stl) (i := (.srai amt ra rd)) (fs := [(6, 7), (5, rd.toNat), (5, ra.toNat), (6, amt.toNat), (6, 2)]) rfl
  long_word rfl hw ((decode32_major07 (fld_major rfl (by decide))).trans
    (by simp [decodeMajor07, f, packFld, fld_ofNat]))
theorem roti (amt : BitVec 6) (ra : XReg) (rd : XReg) : Statement (.roti amt ra rd) := fun _ hw stl _ =>
  have f := fld_encode (stl := stl) (i := (.roti amt ra rd)) (fs := [(6, 7), (5, rd.toNat), (5, ra.toNat), (6, amt.toNat), (6, 3)]) rfl
  long_word rfl hw ((decode32_major07 (fld_major rfl (by decide))).trans
    (by simp [decodeMajor07, f, packFld, fld_ofNat]))
theorem lui (imm : BitVec 17) (rd : XReg) : Statement (.lui imm rd) := fun _ hw stl _ =>
  have f := fld_encode (stl := stl) (i := (.lui imm rd)) (fs := [(6, 8), (5, rd.toNat), (17, imm.toNat)]) rfl
  long_word rfl hw ((decode32_major08 (fld_major rfl (by decide))).trans
    (by simp [decodeMajor08, f, packFld]))
theorem addpc (imm : BitVec 17) (rd : XReg) : Statement (.addpc imm rd) := fun _ hw stl _ =>
  have f := fld_encode (stl := stl) (i := (.addpc imm rd)) (fs := [(6, 9), (5, rd.toNat), (17, imm.toNat)]) rfl
  long_word rfl hw ((decode32_major09 (fld_major rfl (by decide))).trans
    (by simp [decodeMajor09, f, packFld]))
theorem bxt (width : BitVec 6) (off : BitVec 6) (ra : BitVec 4) (rd : BitVec 4) : Statement (.bxt width off ra rd) := fun _ hw stl _ =>
  have f := fld_encode (stl := stl) (i := (.bxt width off ra rd)) (fs := [(6, 10), (4, rd.toNat), (1, 0), (4, ra.toNat), (1, 0), (6, off.toNat), (6, width.toNat)]) rfl
  long_word rfl hw ((decode32_major0A (fld_major rfl (by decide))).trans
    (by simp [decodeMajor0A, f, packFld, fld_zero]))
theorem bxtn (width : BitVec 6) (off : BitVec 6) (ra : BitVec 4) (rd : BitVec 4) : Statement (.bxtn width off ra rd) := fun _ hw stl _ =>
  have f := fld_encode (stl := stl) (i := (.bxtn width off ra rd)) (fs := [(6, 10), (4, rd.toNat), (1, 1), (4, ra.toNat), (1, 0), (6, off.toNat), (6, width.toNat)]) rfl
  long_word rfl hw ((decode32_major0A (fld_major rfl (by decide))).trans
    (by simp [decodeMajor0A, f, packFld, fld_zero, fld_one]))
theorem bins (width : BitVec 6) (off : BitVec 6) (ra : BitVec 4) (rd : BitVec 4) : Statement (.bins width off ra rd) := fun _ hw stl _ =>
  have f := fld_encode (stl := stl) (i := (.bins width off ra rd)) (fs := [(6, 10), (4, rd.toNat), (1, 0), (4, ra.toNat), (1, 1), (6, off.toNat), (6, width.toNat)]) rfl
  long_word rfl hw ((decode32_major0A (fld_major rfl (by decide))).trans
    (by simp [decodeMajor0A, f, packFld, fld_zero, fld_one]))
theorem mul (rb : XReg) (ra : XReg) (rd : XReg) : Statement (.mul rb ra rd) := fun _ hw stl _ =>
  have f := fld_encode (stl := stl) (i := (.mul rb ra rd)) (fs := [(6, 11), (5, rd.toNat), (5, ra.toNat), (5, rb.toNat), (7, 0)]) rfl
  long_word rfl hw ((decode32_major0B (fld_major rfl (by decide))).trans
    (by simp [decodeMajor0B, f, packFld, fld_zero]))
theorem mulh (rb : XReg) (ra : XReg) (rd : XReg) : Statement (.mulh rb ra rd) := fun _ hw stl _ =>
  have f := fld_encode (stl := stl) (i := (.mulh rb ra rd)) (fs := [(6, 11), (5, rd.toNat), (5, ra.toNat), (5, rb.toNat), (7, 1)]) rfl
  long_word rfl hw ((decode32_major0B (fld_major rfl (by decide))).trans
    (by simp [decodeMajor0B, f, packFld, fld_one]))
theorem mulhn (rb : XReg) (ra : XReg) (rd : XReg) : Statement (.mulhn rb ra rd) := fun _ hw stl _ =>
  have f := fld_encode (stl := stl) (i := (.mulhn rb ra rd)) (fs := [(6, 11), (5, rd.toNat), (5, ra.toNat), (5, rb.toNat), (7, 2)]) rfl
  long_word rfl hw ((decode32_major0B (fld_major rfl (by decide))).trans
    (by simp [decodeMajor0B, f, packFld, fld_ofNat]))
theorem div (rb : XReg) (ra : XReg) (rd : XReg) : Statement (.div rb ra rd) := fun _ hw stl _ =>
  have f := fld_encode (stl := stl) (i := (.div rb ra rd)) (fs := [(6, 11), (5, rd.toNat), (5, ra.toNat), (5, rb.toNat), (7, 3)]) rfl
  long_word rfl hw ((decode32_major0B (fld_major rfl (by decide))).trans
    (by simp [decodeMajor0B, f, packFld, fld_ofNat]))
theorem divn (rb : XReg) (ra : XReg) (rd : XReg) : Statement (.divn rb ra rd) := fun _ hw stl _ =>
  have f := fld_encode (stl := stl) (i := (.divn rb ra rd)) (fs := [(6, 11), (5, rd.toNat), (5, ra.toNat), (5, rb.toNat), (7, 4)]) rfl
  long_word rfl hw ((decode32_major0B (fld_major rfl (by decide))).trans
    (by simp [decodeMajor0B, f, packFld, fld_ofNat]))
theorem rem (rb : XReg) (ra : XReg) (rd : XReg) : Statement (.rem rb ra rd) := fun _ hw stl _ =>
  have f := fld_encode (stl := stl) (i := (.rem rb ra rd)) (fs := [(6, 11), (5, rd.toNat), (5, ra.toNat), (5, rb.toNat), (7, 5)]) rfl
  long_word rfl hw ((decode32_major0B (fld_major rfl (by decide))).trans
    (by simp [decodeMajor0B, f, packFld, fld_ofNat]))
theorem remn (rb : XReg) (ra : XReg) (rd : XReg) : Statement (.remn rb ra rd) := fun _ hw stl _ =>
  have f := fld_encode (stl := stl) (i := (.remn rb ra rd)) (fs := [(6, 11), (5, rd.toNat), (5, ra.toNat), (5, rb.toNat), (7, 6)]) rfl
  long_word rfl hw ((decode32_major0B (fld_major rfl (by decide))).trans
    (by simp [decodeMajor0B, f, packFld, fld_ofNat]))
theorem beq (off : BitVec 9) (rb : XReg) (ra : XReg) : Statement (.beq off rb ra) := fun _ hw stl _ =>
  have f := fld_encode (stl := stl) (i := (.beq off rb ra)) (fs := [(6, 14), (5, ra.toNat), (5, rb.toNat), (3, 0), (9, off.toNat)]) rfl
  long_word rfl hw ((decode32_major0E (fld_major rfl (by decide))).trans
    (by simp [decodeMajor0E, f, packFld, fld_zero]))
theorem bne (off : BitVec 9) (rb : XReg) (ra : XReg) : Statement (.bne off rb ra) := fun _ hw stl _ =>
  have f := fld_encode (stl := stl) (i := (.bne off rb ra)) (fs := [(6, 14), (5, ra.toNat), (5, rb.toNat), (3, 1), (9, off.toNat)]) rfl
  long_word rfl hw ((decode32_major0E (fld_major rfl (by decide))).trans
    (by simp [decodeMajor0E, f, packFld, fld_one]))
theorem blt (off : BitVec 9) (rb : XReg) (ra : XReg) : Statement (.blt off rb ra) := fun _ hw stl _ =>
  have f := fld_encode (stl := stl) (i := (.blt off rb ra)) (fs := [(6, 14), (5, ra.toNat), (5, rb.toNat), (3, 2), (9, off.toNat)]) rfl
  long_word rfl hw ((decode32_major0E (fld_major rfl (by decide))).trans
    (by simp [decodeMajor0E, f, packFld, fld_ofNat]))
theorem bge (off : BitVec 9) (rb : XReg) (ra : XReg) : Statement (.bge off rb ra) := fun _ hw stl _ =>
  have f := fld_encode (stl := stl) (i := (.bge off rb ra)) (fs := [(6, 14), (5, ra.toNat), (5, rb.toNat), (3, 3), (9, off.toNat)]) rfl
  long_word rfl hw ((decode32_major0E (fld_major rfl (by decide))).trans
    (by simp [decodeMajor0E, f, packFld, fld_ofNat]))
theorem blo (off : BitVec 9) (rb : XReg) (ra : XReg) : Statement (.blo off rb ra) := fun _ hw stl _ =>
  have f := fld_encode (stl := stl) (i := (.blo off rb ra)) (fs := [(6, 14), (5, ra.toNat), (5, rb.toNat), (3, 4), (9, off.toNat)]) rfl
  long_word rfl hw ((decode32_major0E (fld_major rfl (by decide))).trans
    (by simp [decodeMajor0E, f, packFld, fld_ofNat]))
theorem bhs (off : BitVec 9) (rb : XReg) (ra : XReg) : Statement (.bhs off rb ra) := fun _ hw stl _ =>
  have f := fld_encode (stl := stl) (i := (.bhs off rb ra)) (fs := [(6, 14), (5, ra.toNat), (5, rb.toNat), (3, 5), (9, off.toNat)]) rfl
  long_word rfl hw ((decode32_major0E (fld_major rfl (by decide))).trans
    (by simp [decodeMajor0E, f, packFld, fld_ofNat]))
theorem bz (off : BitVec 12) (ra : XReg) : Statement (.bz off ra) := fun _ hw stl _ =>
  have f := fld_encode (stl := stl) (i := (.bz off ra)) (fs := [(6, 15), (5, ra.toNat), (5, 0), (12, off.toNat)]) rfl
  long_word rfl hw ((decode32_major0F (fld_major rfl (by decide))).trans
    (by simp [decodeMajor0F, f, packFld, fld_zero]))
theorem bnz (off : BitVec 12) (ra : XReg) : Statement (.bnz off ra) := fun _ hw stl _ =>
  have f := fld_encode (stl := stl) (i := (.bnz off ra)) (fs := [(6, 15), (5, ra.toNat), (5, 1), (12, off.toNat)]) rfl
  long_word rfl hw ((decode32_major0F (fld_major rfl (by decide))).trans
    (by simp [decodeMajor0F, f, packFld, fld_one]))
theorem j (off : BitVec 22) : Statement (.j off) := fun _ hw stl _ =>
  have f := fld_encode (stl := stl) (i := (.j off)) (fs := [(6, 16), (22, off.toNat)]) rfl
  long_word rfl hw ((decode32_major10 (fld_major rfl (by decide))).trans
    (by simp [decodeMajor10, f, packFld]))
theorem jal (off : BitVec 22) : Statement (.jal off) := fun _ hw stl _ =>
  have f := fld_encode (stl := stl) (i := (.jal off)) (fs := [(6, 17), (22, off.toNat)]) rfl
  long_word rfl hw ((decode32_major11 (fld_major rfl (by decide))).trans
    (by simp [decodeMajor11, f, packFld]))
theorem jalr (imm : BitVec 12) (ra : XReg) (rd : XReg) : Statement (.jalr imm ra rd) := fun _ hw stl _ =>
  have f := fld_encode (stl := stl) (i := (.jalr imm ra rd)) (fs := [(6, 18), (5, rd.toNat), (5, ra.toNat), (12, imm.toNat)]) rfl
  long_word rfl hw ((decode32_major12 (fld_major rfl (by decide))).trans
    (by simp [decodeMajor12, f, packFld]))
theorem loop (off : BitVec 12) (stp : BitVec 5) : Statement (.loop off stp) := fun _ hw stl _ =>
  have f := fld_encode (stl := stl) (i := (.loop off stp)) (fs := [(6, 19), (5, stp.toNat), (5, 0), (12, off.toNat)]) rfl
  long_word rfl hw ((decode32_major13 (fld_major rfl (by decide))).trans
    (by simp [decodeMajor13, f, packFld, fld_zero]))
theorem nop : Statement .nop := fun _ hw stl _ =>
  have f := fld_encode (stl := stl) (i := .nop) (fs := [(6, 0), (22, 0)]) rfl
  long_word rfl hw ((decode32_major00 (fld_major rfl (by decide))).trans
    (by simp [decodeMajor00, f, packFld, fld_zero]))
theorem hintYield : Statement .hintYield := fun _ hw stl _ =>
  have f := fld_encode (stl := stl) (i := .hintYield) (fs := [(6, 0), (22, 1)]) rfl
  long_word rfl hw ((decode32_major00 (fld_major rfl (by decide))).trans
    (by simp [decodeMajor00, f, packFld, fld_zero, fld_one]))
theorem hintAlign : Statement .hintAlign := fun _ hw stl _ =>
  have f := fld_encode (stl := stl) (i := .hintAlign) (fs := [(6, 0), (22, 2)]) rfl
  long_word rfl hw ((decode32_major00 (fld_major rfl (by decide))).trans
    (by simp [decodeMajor00, f, packFld, fld_ofNat, fld_zero]))
theorem done_ : Statement .done_ := fun _ hw stl _ =>
  have f := fld_encode (stl := stl) (i := .done_) (fs := [(6, 0), (22, 3)]) rfl
  long_word rfl hw ((decode32_major00 (fld_major rfl (by decide))).trans
    (by simp [decodeMajor00, f, packFld, fld_ofNat, fld_zero]))
theorem trap (code : BitVec 12) : Statement (.trap code) := fun _ hw stl _ =>
  have f := fld_encode (stl := stl) (i := (.trap code)) (fs := [(6, 0), (10, 4), (12, code.toNat)]) rfl
  long_word rfl hw ((decode32_major00 (fld_major rfl (by decide))).trans
    (by
        simp [decodeMajor00, f, packFld, fld_ofNat, fld_zero]
        repeat rw [if_neg (by omega)]))
theorem tret : Statement .tret := fun _ hw stl _ =>
  have f := fld_encode (stl := stl) (i := .tret) (fs := [(6, 0), (22, 5)]) rfl
  long_word rfl hw ((decode32_major00 (fld_major rfl (by decide))).trans
    (by simp [decodeMajor00, f, packFld, fld_ofNat, fld_zero]))
theorem abort (code : BitVec 12) : Statement (.abort code) := fun _ hw stl _ =>
  have f := fld_encode (stl := stl) (i := (.abort code)) (fs := [(6, 0), (10, 6), (12, code.toNat)]) rfl
  long_word rfl hw ((decode32_major00 (fld_major rfl (by decide))).trans
    (by
        simp [decodeMajor00, f, packFld, fld_ofNat, fld_zero]
        repeat rw [if_neg (by omega)]))
theorem mfcr (cr : BitVec 12) (rd : XReg) : Statement (.mfcr cr rd) := fun _ hw stl _ =>
  have f := fld_encode (stl := stl) (i := (.mfcr cr rd)) (fs := [(6, 0), (5, 7), (5, rd.toNat), (12, cr.toNat)]) rfl
  long_word rfl hw ((decode32_major00 (fld_major rfl (by decide))).trans
    (by
        simp [decodeMajor00, f, packFld, fld_ofNat, fld_zero]
        repeat rw [if_neg (by omega)]))
theorem mtcr (cr : BitVec 12) (ra : XReg) : Statement (.mtcr cr ra) := fun _ hw stl _ =>
  have f := fld_encode (stl := stl) (i := (.mtcr cr ra)) (fs := [(6, 0), (5, 8), (5, ra.toNat), (12, cr.toNat)]) rfl
  long_word rfl hw ((decode32_major00 (fld_major rfl (by decide))).trans
    (by
        simp [decodeMajor00, f, packFld, fld_ofNat, fld_zero]
        repeat rw [if_neg (by omega)]))
theorem mfid (id : BitVec 6) (rd : XReg) : Statement (.mfid id rd) := fun _ hw stl _ =>
  have f := fld_encode (stl := stl) (i := (.mfid id rd)) (fs := [(6, 0), (5, 9), (5, rd.toNat), (6, id.toNat), (6, 0)]) rfl
  long_word rfl hw ((decode32_major00 (fld_major rfl (by decide))).trans
    (by
        simp [decodeMajor00, f, packFld, fld_ofNat, fld_zero]
        repeat rw [if_neg (by omega)]))
theorem sleep (ra : XReg) : Statement (.sleep ra) := fun _ hw stl _ =>
  have f := fld_encode (stl := stl) (i := (.sleep ra)) (fs := [(6, 0), (5, 10), (5, ra.toNat), (12, 0)]) rfl
  long_word rfl hw ((decode32_major00 (fld_major rfl (by decide))).trans
    (by
        simp [decodeMajor00, f, packFld, fld_ofNat, fld_zero]
        repeat rw [if_neg (by omega)]))
theorem waitx (ra : XReg) : Statement (.waitx ra) := fun _ hw stl _ =>
  have f := fld_encode (stl := stl) (i := (.waitx ra)) (fs := [(6, 0), (5, 11), (5, ra.toNat), (12, 0)]) rfl
  long_word rfl hw ((decode32_major00 (fld_major rfl (by decide))).trans
    (by
        simp [decodeMajor00, f, packFld, fld_ofNat, fld_zero]
        repeat rw [if_neg (by omega)]))
theorem lnch (queue : BitVec 3) (ra : XReg) (rd : XReg) : Statement (.lnch queue ra rd) := fun _ hw stl _ =>
  have f := fld_encode (stl := stl) (i := (.lnch queue ra rd)) (fs := [(6, 0), (5, 12), (5, rd.toNat), (5, ra.toNat), (3, queue.toNat), (4, 0)]) rfl
  long_word rfl hw ((decode32_major00 (fld_major rfl (by decide))).trans
    (by
        simp [decodeMajor00, f, packFld, fld_ofNat, fld_zero]
        repeat rw [if_neg (by omega)]))
theorem slave (leader : BitVec 3) : Statement (.slave leader) := fun _ hw stl _ =>
  have f := fld_encode (stl := stl) (i := (.slave leader)) (fs := [(6, 0), (10, 13), (3, leader.toNat), (9, 0)]) rfl
  long_word rfl hw ((decode32_major00 (fld_major rfl (by decide))).trans
    (by
        simp [decodeMajor00, f, packFld, fld_ofNat, fld_zero]
        repeat rw [if_neg (by omega)]))
theorem unslave : Statement .unslave := fun _ hw stl _ =>
  have f := fld_encode (stl := stl) (i := .unslave) (fs := [(6, 0), (22, 14)]) rfl
  long_word rfl hw ((decode32_major00 (fld_major rfl (by decide))).trans
    (by simp [decodeMajor00, f, packFld, fld_ofNat, fld_zero]))
theorem ld (rsel : Bool) (sc : Scope) (kind : Kind) (off : BitVec 5) (ra : XReg) (rd : XReg) : Statement (.ld rsel sc kind off ra rd) := fun _ hw stl _ =>
  have f := fld_encode (stl := stl) (i := (.ld rsel sc kind off ra rd)) (fs := [(6, 20), (5, rd.toNat), (5, ra.toNat), (5, off.toNat), (3, kind.code), (3, sc.code), (1, rsel.toNat)]) rfl
  long_word rfl hw ((decode32_major14 (fld_major rfl (by decide))).trans
    (by simp [decodeMajor14, f, packFld, bit1]))
theorem st (rsel : Bool) (sc : Scope) (kind : Kind) (off : BitVec 5) (ra : XReg) (rs : XReg) : Statement (.st rsel sc kind off ra rs) := fun _ hw stl _ =>
  have f := fld_encode (stl := stl) (i := (.st rsel sc kind off ra rs)) (fs := [(6, 21), (5, rs.toNat), (5, ra.toNat), (5, off.toNat), (3, kind.code), (3, sc.code), (1, rsel.toNat)]) rfl
  long_word rfl hw ((decode32_major15 (fld_major rfl (by decide))).trans
    (by simp [decodeMajor15, f, packFld, bit1]))
theorem ldx (rsel : Bool) (ord : Ord) (zx : Bool) (size : Size) (rb : XReg) (ra : XReg) (rd : XReg) : Statement (.ldx rsel ord zx size rb ra rd) := fun _ hw stl _ =>
  have f := fld_encode (stl := stl) (i := (.ldx rsel ord zx size rb ra rd)) (fs := [(6, 22), (5, rd.toNat), (5, ra.toNat), (5, rb.toNat), (2, size.code), (1, zx.toNat), (1, 0), (2, ord.code), (1, rsel.toNat)]) rfl
  long_word rfl hw ((decode32_major16 (fld_major rfl (by decide))).trans
    (by simp [decodeMajor16, f, packFld, fld_zero, bit1]))
theorem stx (rsel : Bool) (ord : Ord) (size : Size) (rb : XReg) (ra : XReg) (rs : XReg) : Statement (.stx rsel ord size rb ra rs) := fun _ hw stl _ =>
  have f := fld_encode (stl := stl) (i := (.stx rsel ord size rb ra rs)) (fs := [(6, 22), (5, rs.toNat), (5, ra.toNat), (5, rb.toNat), (2, size.code), (2, 2), (2, ord.code), (1, rsel.toNat)]) rfl
  long_word rfl hw ((decode32_major16 (fld_major rfl (by decide))).trans
    (by simp [decodeMajor16, f, packFld, fld_ofNat, bit1]))
theorem ldfeFf (rsel : Bool) (sc : Scope) (kind : Kind) (ra : XReg) (rd : XReg) : Statement (.ldfeFf rsel sc kind ra rd) := fun _ hw stl _ =>
  have f := fld_encode (stl := stl) (i := (.ldfeFf rsel sc kind ra rd)) (fs := [(6, 23), (5, rd.toNat), (5, ra.toNat), (5, 0), (3, kind.code), (3, sc.code), (1, rsel.toNat)]) rfl
  long_word rfl hw ((decode32_major17 (fld_major rfl (by decide))).trans
    (by simp [decodeMajor17, f, packFld, fld_zero, bit1]))
theorem ldfeFe (rsel : Bool) (sc : Scope) (kind : Kind) (ra : XReg) (rd : XReg) : Statement (.ldfeFe rsel sc kind ra rd) := fun _ hw stl _ =>
  have f := fld_encode (stl := stl) (i := (.ldfeFe rsel sc kind ra rd)) (fs := [(6, 23), (5, rd.toNat), (5, ra.toNat), (5, 1), (3, kind.code), (3, sc.code), (1, rsel.toNat)]) rfl
  long_word rfl hw ((decode32_major17 (fld_major rfl (by decide))).trans
    (by simp [decodeMajor17, f, packFld, fld_one, bit1]))
theorem stfeEf (rsel : Bool) (sc : Scope) (kind : Kind) (ra : XReg) (rs : XReg) : Statement (.stfeEf rsel sc kind ra rs) := fun _ hw stl _ =>
  have f := fld_encode (stl := stl) (i := (.stfeEf rsel sc kind ra rs)) (fs := [(6, 23), (5, rs.toNat), (5, ra.toNat), (5, 2), (3, kind.code), (3, sc.code), (1, rsel.toNat)]) rfl
  long_word rfl hw ((decode32_major17 (fld_major rfl (by decide))).trans
    (by simp [decodeMajor17, f, packFld, fld_ofNat, bit1]))
theorem stfeXf (rsel : Bool) (sc : Scope) (kind : Kind) (ra : XReg) (rs : XReg) : Statement (.stfeXf rsel sc kind ra rs) := fun _ hw stl _ =>
  have f := fld_encode (stl := stl) (i := (.stfeXf rsel sc kind ra rs)) (fs := [(6, 23), (5, rs.toNat), (5, ra.toNat), (5, 3), (3, kind.code), (3, sc.code), (1, rsel.toNat)]) rfl
  long_word rfl hw ((decode32_major17 (fld_major rfl (by decide))).trans
    (by simp [decodeMajor17, f, packFld, fld_ofNat, bit1]))
theorem feq (rsel : Bool) (sc : Scope) (kind : Kind) (ra : XReg) (rd : XReg) : Statement (.feq rsel sc kind ra rd) := fun _ hw stl _ =>
  have f := fld_encode (stl := stl) (i := (.feq rsel sc kind ra rd)) (fs := [(6, 23), (5, rd.toNat), (5, ra.toNat), (5, 4), (3, kind.code), (3, sc.code), (1, rsel.toNat)]) rfl
  long_word rfl hw ((decode32_major17 (fld_major rfl (by decide))).trans
    (by simp [decodeMajor17, f, packFld, fld_ofNat, bit1]))
theorem amoAdd (rsel : Bool) (sc : Scope) (kind : Kind) (ra : XReg) (rd : XReg) : Statement (.amoAdd rsel sc kind ra rd) := fun _ hw stl _ =>
  have f := fld_encode (stl := stl) (i := (.amoAdd rsel sc kind ra rd)) (fs := [(6, 24), (5, rd.toNat), (5, ra.toNat), (5, 0), (3, kind.code), (3, sc.code), (1, rsel.toNat)]) rfl
  long_word rfl hw ((decode32_major18 (fld_major rfl (by decide))).trans
    (by simp [decodeMajor18, f, packFld, fld_zero, bit1]))
theorem amoAnd (rsel : Bool) (sc : Scope) (kind : Kind) (ra : XReg) (rd : XReg) : Statement (.amoAnd rsel sc kind ra rd) := fun _ hw stl _ =>
  have f := fld_encode (stl := stl) (i := (.amoAnd rsel sc kind ra rd)) (fs := [(6, 24), (5, rd.toNat), (5, ra.toNat), (5, 1), (3, kind.code), (3, sc.code), (1, rsel.toNat)]) rfl
  long_word rfl hw ((decode32_major18 (fld_major rfl (by decide))).trans
    (by simp [decodeMajor18, f, packFld, fld_one, bit1]))
theorem amoOr (rsel : Bool) (sc : Scope) (kind : Kind) (ra : XReg) (rd : XReg) : Statement (.amoOr rsel sc kind ra rd) := fun _ hw stl _ =>
  have f := fld_encode (stl := stl) (i := (.amoOr rsel sc kind ra rd)) (fs := [(6, 24), (5, rd.toNat), (5, ra.toNat), (5, 2), (3, kind.code), (3, sc.code), (1, rsel.toNat)]) rfl
  long_word rfl hw ((decode32_major18 (fld_major rfl (by decide))).trans
    (by simp [decodeMajor18, f, packFld, fld_ofNat, bit1]))
theorem amoXor (rsel : Bool) (sc : Scope) (kind : Kind) (ra : XReg) (rd : XReg) : Statement (.amoXor rsel sc kind ra rd) := fun _ hw stl _ =>
  have f := fld_encode (stl := stl) (i := (.amoXor rsel sc kind ra rd)) (fs := [(6, 24), (5, rd.toNat), (5, ra.toNat), (5, 3), (3, kind.code), (3, sc.code), (1, rsel.toNat)]) rfl
  long_word rfl hw ((decode32_major18 (fld_major rfl (by decide))).trans
    (by simp [decodeMajor18, f, packFld, fld_ofNat, bit1]))
theorem amoMin (rsel : Bool) (sc : Scope) (kind : Kind) (ra : XReg) (rd : XReg) : Statement (.amoMin rsel sc kind ra rd) := fun _ hw stl _ =>
  have f := fld_encode (stl := stl) (i := (.amoMin rsel sc kind ra rd)) (fs := [(6, 24), (5, rd.toNat), (5, ra.toNat), (5, 4), (3, kind.code), (3, sc.code), (1, rsel.toNat)]) rfl
  long_word rfl hw ((decode32_major18 (fld_major rfl (by decide))).trans
    (by simp [decodeMajor18, f, packFld, fld_ofNat, bit1]))
theorem amoMax (rsel : Bool) (sc : Scope) (kind : Kind) (ra : XReg) (rd : XReg) : Statement (.amoMax rsel sc kind ra rd) := fun _ hw stl _ =>
  have f := fld_encode (stl := stl) (i := (.amoMax rsel sc kind ra rd)) (fs := [(6, 24), (5, rd.toNat), (5, ra.toNat), (5, 5), (3, kind.code), (3, sc.code), (1, rsel.toNat)]) rfl
  long_word rfl hw ((decode32_major18 (fld_major rfl (by decide))).trans
    (by simp [decodeMajor18, f, packFld, fld_ofNat, bit1]))
theorem amoMinn (rsel : Bool) (sc : Scope) (kind : Kind) (ra : XReg) (rd : XReg) : Statement (.amoMinn rsel sc kind ra rd) := fun _ hw stl _ =>
  have f := fld_encode (stl := stl) (i := (.amoMinn rsel sc kind ra rd)) (fs := [(6, 24), (5, rd.toNat), (5, ra.toNat), (5, 6), (3, kind.code), (3, sc.code), (1, rsel.toNat)]) rfl
  long_word rfl hw ((decode32_major18 (fld_major rfl (by decide))).trans
    (by simp [decodeMajor18, f, packFld, fld_ofNat, bit1]))
theorem amoMaxn (rsel : Bool) (sc : Scope) (kind : Kind) (ra : XReg) (rd : XReg) : Statement (.amoMaxn rsel sc kind ra rd) := fun _ hw stl _ =>
  have f := fld_encode (stl := stl) (i := (.amoMaxn rsel sc kind ra rd)) (fs := [(6, 24), (5, rd.toNat), (5, ra.toNat), (5, 7), (3, kind.code), (3, sc.code), (1, rsel.toNat)]) rfl
  long_word rfl hw ((decode32_major18 (fld_major rfl (by decide))).trans
    (by simp [decodeMajor18, f, packFld, fld_ofNat, bit1]))
theorem amoSwap (rsel : Bool) (sc : Scope) (kind : Kind) (ra : XReg) (rd : XReg) : Statement (.amoSwap rsel sc kind ra rd) := fun _ hw stl _ =>
  have f := fld_encode (stl := stl) (i := (.amoSwap rsel sc kind ra rd)) (fs := [(6, 24), (5, rd.toNat), (5, ra.toNat), (5, 8), (3, kind.code), (3, sc.code), (1, rsel.toNat)]) rfl
  long_word rfl hw ((decode32_major18 (fld_major rfl (by decide))).trans
    (by simp [decodeMajor18, f, packFld, fld_ofNat, bit1]))
theorem amoCas (rsel : Bool) (sc : Scope) (kind : Kind) (ra : XReg) (rd : XReg) : Statement (.amoCas rsel sc kind ra rd) := fun _ hw stl _ =>
  have f := fld_encode (stl := stl) (i := (.amoCas rsel sc kind ra rd)) (fs := [(6, 24), (5, rd.toNat), (5, ra.toNat), (5, 9), (3, kind.code), (3, sc.code), (1, rsel.toNat)]) rfl
  long_word rfl hw ((decode32_major18 (fld_major rfl (by decide))).trans
    (by simp [decodeMajor18, f, packFld, fld_ofNat, bit1]))
theorem amoFaddF32 (rsel : Bool) (sc : Scope) (kind : Kind) (ra : XReg) (rd : XReg) : Statement (.amoFaddF32 rsel sc kind ra rd) := fun _ hw stl _ =>
  have f := fld_encode (stl := stl) (i := (.amoFaddF32 rsel sc kind ra rd)) (fs := [(6, 24), (5, rd.toNat), (5, ra.toNat), (5, 10), (3, kind.code), (3, sc.code), (1, rsel.toNat)]) rfl
  long_word rfl hw ((decode32_major18 (fld_major rfl (by decide))).trans
    (by simp [decodeMajor18, f, packFld, fld_ofNat, bit1]))
theorem amoFmaxF32 (rsel : Bool) (sc : Scope) (kind : Kind) (ra : XReg) (rd : XReg) : Statement (.amoFmaxF32 rsel sc kind ra rd) := fun _ hw stl _ =>
  have f := fld_encode (stl := stl) (i := (.amoFmaxF32 rsel sc kind ra rd)) (fs := [(6, 24), (5, rd.toNat), (5, ra.toNat), (5, 11), (3, kind.code), (3, sc.code), (1, rsel.toNat)]) rfl
  long_word rfl hw ((decode32_major18 (fld_major rfl (by decide))).trans
    (by simp [decodeMajor18, f, packFld, fld_ofNat, bit1]))
theorem fence (sc : Scope) : Statement (.fence sc) := fun _ hw stl _ =>
  have f := fld_encode (stl := stl) (i := (.fence sc)) (fs := [(6, 25), (15, 0), (3, sc.code), (4, 0)]) rfl
  long_word rfl hw ((decode32_major19 (fld_major rfl (by decide))).trans
    (by simp [decodeMajor19, f, packFld, fld_zero]))
theorem fenceSc (sc : Scope) : Statement (.fenceSc sc) := fun _ hw stl _ =>
  have f := fld_encode (stl := stl) (i := (.fenceSc sc)) (fs := [(6, 25), (15, 0), (3, sc.code), (4, 1)]) rfl
  long_word rfl hw ((decode32_major19 (fld_major rfl (by decide))).trans
    (by simp [decodeMajor19, f, packFld, fld_zero, fld_one]))
theorem fencef (sc : Scope) (rope : RopeName) (ra : XReg) (rs : XReg) : Statement (.fencef sc rope ra rs) := fun _ hw stl _ =>
  have f := fld_encode (stl := stl) (i := (.fencef sc rope ra rs)) (fs := [(6, 25), (5, rs.toNat), (5, ra.toNat), (4, rope.toNat), (1, 0), (3, sc.code), (4, 2)]) rfl
  long_word rfl hw ((decode32_major19 (fld_major rfl (by decide))).trans
    (by simp [decodeMajor19, f, packFld, fld_ofNat, fld_zero]))
theorem ropeFork (rpS : RopeName) (rpD : RopeName) : Statement (.ropeFork rpS rpD) := fun _ hw stl _ =>
  have f := fld_encode (stl := stl) (i := (.ropeFork rpS rpD)) (fs := [(6, 25), (10, 0), (4, rpD.toNat), (4, rpS.toNat), (4, 3)]) rfl
  long_word rfl hw ((decode32_major19 (fld_major rfl (by decide))).trans
    (by simp [decodeMajor19, f, packFld, fld_ofNat, fld_zero]))
theorem ropeJoin (rpA : RopeName) (rpD : RopeName) (rpB : RopeName) : Statement (.ropeJoin rpA rpD rpB) := fun _ hw stl _ =>
  have f := fld_encode (stl := stl) (i := (.ropeJoin rpA rpD rpB)) (fs := [(6, 25), (4, rpB.toNat), (6, 0), (4, rpD.toNat), (4, rpA.toNat), (4, 4)]) rfl
  long_word rfl hw ((decode32_major19 (fld_major rfl (by decide))).trans
    (by simp [decodeMajor19, f, packFld, fld_ofNat, fld_zero]))
theorem ropeXfer (rpS : RopeName) (rd : XReg) : Statement (.ropeXfer rpS rd) := fun _ hw stl _ =>
  have f := fld_encode (stl := stl) (i := (.ropeXfer rpS rd)) (fs := [(6, 25), (5, rd.toNat), (9, 0), (4, rpS.toNat), (4, 5)]) rfl
  long_word rfl hw ((decode32_major19 (fld_major rfl (by decide))).trans
    (by simp [decodeMajor19, f, packFld, fld_ofNat, fld_zero]))
theorem ropeAdopt (rpD : RopeName) (rs : XReg) : Statement (.ropeAdopt rpD rs) := fun _ hw stl _ =>
  have f := fld_encode (stl := stl) (i := (.ropeAdopt rpD rs)) (fs := [(6, 25), (5, 0), (5, rs.toNat), (4, rpD.toNat), (8, 96)]) rfl
  long_word rfl hw ((decode32_major19 (fld_major rfl (by decide))).trans
    (by simp [decodeMajor19, f, packFld, fld_ofNat, fld_zero]))
theorem ropeDrop (rope : RopeName) : Statement (.ropeDrop rope) := fun _ hw stl _ =>
  have f := fld_encode (stl := stl) (i := (.ropeDrop rope)) (fs := [(6, 25), (10, 0), (4, rope.toNat), (8, 112)]) rfl
  long_word rfl hw ((decode32_major19 (fld_major rfl (by decide))).trans
    (by simp [decodeMajor19, f, packFld, fld_ofNat, fld_zero]))
theorem ropeWait (rope : RopeName) : Statement (.ropeWait rope) := fun _ hw stl _ =>
  have f := fld_encode (stl := stl) (i := (.ropeWait rope)) (fs := [(6, 25), (10, 0), (4, rope.toNat), (8, 128)]) rfl
  long_word rfl hw ((decode32_major19 (fld_major rfl (by decide))).trans
    (by simp [decodeMajor19, f, packFld, fld_ofNat, fld_zero]))
theorem send (rope : RopeName) (ra : XReg) : Statement (.send rope ra) := fun _ hw stl _ =>
  have f := fld_encode (stl := stl) (i := (.send rope ra)) (fs := [(6, 26), (5, 0), (5, ra.toNat), (8, 0), (4, rope.toNat)]) rfl
  long_word rfl hw ((decode32_major1A (fld_major rfl (by decide))).trans
    (by simp [decodeMajor1A, f, packFld, fld_zero]))
theorem sendc (rope : RopeName) (rb : XReg) (ra : XReg) : Statement (.sendc rope rb ra) := fun _ hw stl _ =>
  have f := fld_encode (stl := stl) (i := (.sendc rope rb ra)) (fs := [(6, 26), (5, 0), (5, ra.toNat), (5, rb.toNat), (3, 1), (4, rope.toNat)]) rfl
  long_word rfl hw ((decode32_major1A (fld_major rfl (by decide))).trans
    (by simp [decodeMajor1A, f, packFld, fld_zero, fld_one]))
theorem spawn (rope : RopeName) (rb : XReg) (ra : XReg) : Statement (.spawn rope rb ra) := fun _ hw stl _ =>
  have f := fld_encode (stl := stl) (i := (.spawn rope rb ra)) (fs := [(6, 26), (5, 0), (5, ra.toNat), (5, rb.toNat), (3, 2), (4, rope.toNat)]) rfl
  long_word rfl hw ((decode32_major1A (fld_major rfl (by decide))).trans
    (by simp [decodeMajor1A, f, packFld, fld_ofNat, fld_zero]))
theorem aread (rope : RopeName) (rb : XReg) (ra : XReg) : Statement (.aread rope rb ra) := fun _ hw stl _ =>
  have f := fld_encode (stl := stl) (i := (.aread rope rb ra)) (fs := [(6, 26), (5, 0), (5, ra.toNat), (5, rb.toNat), (3, 3), (4, rope.toNat)]) rfl
  long_word rfl hw ((decode32_major1A (fld_major rfl (by decide))).trans
    (by simp [decodeMajor1A, f, packFld, fld_ofNat, fld_zero]))
theorem tbind (rb : XReg) (ra : XReg) : Statement (.tbind rb ra) := fun _ hw stl _ =>
  have f := fld_encode (stl := stl) (i := (.tbind rb ra)) (fs := [(6, 26), (5, 0), (5, ra.toNat), (5, rb.toNat), (7, 4)]) rfl
  long_word rfl hw ((decode32_major1A (fld_major rfl (by decide))).trans
    (by simp [decodeMajor1A, f, packFld, fld_ofNat, fld_zero]))
theorem mcld (rope : RopeName) (rb : XReg) (ra : XReg) (rc : XReg) : Statement (.mcld rope rb ra rc) := fun _ hw stl _ =>
  have f := fld_encode (stl := stl) (i := (.mcld rope rb ra rc)) (fs := [(6, 27), (5, rc.toNat), (5, ra.toNat), (5, rb.toNat), (3, 0), (4, rope.toNat)]) rfl
  long_word rfl hw ((decode32_major1B (fld_major rfl (by decide))).trans
    (by simp [decodeMajor1B, f, packFld, fld_zero]))
theorem mcst (rope : RopeName) (rb : XReg) (ra : XReg) (rc : XReg) : Statement (.mcst rope rb ra rc) := fun _ hw stl _ =>
  have f := fld_encode (stl := stl) (i := (.mcst rope rb ra rc)) (fs := [(6, 27), (5, rc.toNat), (5, ra.toNat), (5, rb.toNat), (3, 1), (4, rope.toNat)]) rfl
  long_word rfl hw ((decode32_major1B (fld_major rfl (by decide))).trans
    (by simp [decodeMajor1B, f, packFld, fld_one]))
theorem mcjoin (rb : XReg) (ra : XReg) : Statement (.mcjoin rb ra) := fun _ hw stl _ =>
  have f := fld_encode (stl := stl) (i := (.mcjoin rb ra)) (fs := [(6, 27), (5, 0), (5, ra.toNat), (5, rb.toNat), (7, 2)]) rfl
  long_word rfl hw ((decode32_major1B (fld_major rfl (by decide))).trans
    (by simp [decodeMajor1B, f, packFld, fld_ofNat, fld_zero]))
theorem evpost (cls : BitVec 4) (rb : XReg) (ra : XReg) (rope : RopeName) : Statement (.evpost cls rb ra rope) := fun _ hw stl _ =>
  have f := fld_encode (stl := stl) (i := (.evpost cls rb ra rope)) (fs := [(6, 28), (4, rope.toNat), (1, 0), (5, ra.toNat), (5, rb.toNat), (3, 0), (4, cls.toNat)]) rfl
  long_word rfl hw ((decode32_major1C (fld_major rfl (by decide))).trans
    (by simp [decodeMajor1C, f, packFld, fld_zero]))
theorem evposts (cls : BitVec 4) (rb : XReg) (ra : XReg) (rd : XReg) : Statement (.evposts cls rb ra rd) := fun _ hw stl _ =>
  have f := fld_encode (stl := stl) (i := (.evposts cls rb ra rd)) (fs := [(6, 28), (5, rd.toNat), (5, ra.toNat), (5, rb.toNat), (3, 1), (4, cls.toNat)]) rfl
  long_word rfl hw ((decode32_major1C (fld_major rfl (by decide))).trans
    (by simp [decodeMajor1C, f, packFld, fld_one]))
theorem evcfg (cls : BitVec 4) (ra : XReg) : Statement (.evcfg cls ra) := fun _ hw stl _ =>
  have f := fld_encode (stl := stl) (i := (.evcfg cls ra)) (fs := [(6, 28), (5, 0), (5, ra.toNat), (8, 64), (4, cls.toNat)]) rfl
  long_word rfl hw ((decode32_major1C (fld_major rfl (by decide))).trans
    (by simp [decodeMajor1C, f, packFld, fld_ofNat, fld_zero]))
theorem evflush (cls : BitVec 4) : Statement (.evflush cls) := fun _ hw stl _ =>
  have f := fld_encode (stl := stl) (i := (.evflush cls)) (fs := [(6, 28), (18, 98304), (4, cls.toNat)]) rfl
  long_word rfl hw ((decode32_major1C (fld_major rfl (by decide))).trans
    (by simp [decodeMajor1C, f, packFld, fld_ofNat]))
theorem evquiet (ra : XReg) (rd : XReg) : Statement (.evquiet ra rd) := fun _ hw stl _ =>
  have f := fld_encode (stl := stl) (i := (.evquiet ra rd)) (fs := [(6, 28), (5, rd.toNat), (5, ra.toNat), (12, 128)]) rfl
  long_word rfl hw ((decode32_major1C (fld_major rfl (by decide))).trans
    (by
        simp [decodeMajor1C, f, packFld, fld_ofNat]
        omega))
theorem evcount (ra : XReg) (rd : XReg) : Statement (.evcount ra rd) := fun _ hw stl _ =>
  have f := fld_encode (stl := stl) (i := (.evcount ra rd)) (fs := [(6, 28), (5, rd.toNat), (5, ra.toNat), (12, 160)]) rfl
  long_word rfl hw ((decode32_major1C (fld_major rfl (by decide))).trans
    (by
        simp [decodeMajor1C, f, packFld, fld_ofNat]
        omega))
theorem gjoin (group : BitVec 6) : Statement (.gjoin group) := fun _ hw stl _ =>
  have f := fld_encode (stl := stl) (i := (.gjoin group)) (fs := [(6, 29), (16, 0), (6, group.toNat)]) rfl
  long_word rfl hw ((decode32_major1D (fld_major rfl (by decide))).trans
    (by simp [decodeMajor1D, f, packFld, fld_zero]))
theorem gleave (group : BitVec 6) : Statement (.gleave group) := fun _ hw stl _ =>
  have f := fld_encode (stl := stl) (i := (.gleave group)) (fs := [(6, 29), (16, 1024), (6, group.toNat)]) rfl
  long_word rfl hw ((decode32_major1D (fld_major rfl (by decide))).trans
    (by simp [decodeMajor1D, f, packFld, fld_ofNat]))
theorem gbar (group : BitVec 6) (rd : XReg) : Statement (.gbar group rd) := fun _ hw stl _ =>
  have f := fld_encode (stl := stl) (i := (.gbar group rd)) (fs := [(6, 29), (5, rd.toNat), (11, 64), (6, group.toNat)]) rfl
  long_word rfl hw ((decode32_major1D (fld_major rfl (by decide))).trans
    (by simp [decodeMajor1D, f, packFld, fld_ofNat]))
theorem gcount (group : BitVec 6) (rd : XReg) : Statement (.gcount group rd) := fun _ hw stl _ =>
  have f := fld_encode (stl := stl) (i := (.gcount group rd)) (fs := [(6, 29), (5, rd.toNat), (11, 96), (6, group.toNat)]) rfl
  long_word rfl hw ((decode32_major1D (fld_major rfl (by decide))).trans
    (by simp [decodeMajor1D, f, packFld, fld_ofNat]))
theorem pref (off : BitVec 5) (ra : XReg) : Statement (.pref off ra) := fun _ hw stl _ =>
  have f := fld_encode (stl := stl) (i := (.pref off ra)) (fs := [(6, 30), (5, 0), (5, ra.toNat), (5, off.toNat), (7, 0)]) rfl
  long_word rfl hw ((decode32_major1E (fld_major rfl (by decide))).trans
    (by simp [decodeMajor1E, f, packFld, fld_zero]))
theorem cflush (off : BitVec 5) (ra : XReg) : Statement (.cflush off ra) := fun _ hw stl _ =>
  have f := fld_encode (stl := stl) (i := (.cflush off ra)) (fs := [(6, 30), (5, 0), (5, ra.toNat), (5, off.toNat), (7, 1)]) rfl
  long_word rfl hw ((decode32_major1E (fld_major rfl (by decide))).trans
    (by simp [decodeMajor1E, f, packFld, fld_zero, fld_one]))
theorem cinv (off : BitVec 5) (ra : XReg) : Statement (.cinv off ra) := fun _ hw stl _ =>
  have f := fld_encode (stl := stl) (i := (.cinv off ra)) (fs := [(6, 30), (5, 0), (5, ra.toNat), (5, off.toNat), (7, 2)]) rfl
  long_word rfl hw ((decode32_major1E (fld_major rfl (by decide))).trans
    (by simp [decodeMajor1E, f, packFld, fld_ofNat, fld_zero]))
theorem tlbinv (ra : XReg) : Statement (.tlbinv ra) := fun _ hw stl _ =>
  have f := fld_encode (stl := stl) (i := (.tlbinv ra)) (fs := [(6, 30), (5, 0), (5, ra.toNat), (12, 96)]) rfl
  long_word rfl hw ((decode32_major1E (fld_major rfl (by decide))).trans
    (by simp [decodeMajor1E, f, packFld, fld_ofNat, fld_zero]))
theorem tlbinvAll : Statement .tlbinvAll := fun _ hw stl _ =>
  have f := fld_encode (stl := stl) (i := .tlbinvAll) (fs := [(6, 30), (22, 98305)]) rfl
  long_word rfl hw ((decode32_major1E (fld_major rfl (by decide))).trans
    (by simp [decodeMajor1E, f, packFld, fld_ofNat]))
theorem tlbinvB (ra : XReg) : Statement (.tlbinvB ra) := fun _ hw stl _ =>
  have f := fld_encode (stl := stl) (i := (.tlbinvB ra)) (fs := [(6, 30), (5, 0), (5, ra.toNat), (12, 128)]) rfl
  long_word rfl hw ((decode32_major1E (fld_major rfl (by decide))).trans
    (by
        simp [decodeMajor1E, f, packFld, fld_ofNat, fld_zero]
        omega))
theorem tlbinvBAll : Statement .tlbinvBAll := fun _ hw stl _ =>
  have f := fld_encode (stl := stl) (i := .tlbinvBAll) (fs := [(6, 30), (22, 131073)]) rfl
  long_word rfl hw ((decode32_major1E (fld_major rfl (by decide))).trans
    (by simp [decodeMajor1E, f, packFld, fld_ofNat]))
theorem vaddF (pg : PReg) (vb : VName) (va : VName) (vd : VName) : Statement (.vaddF pg vb va vd) := fun _ hw stl _ =>
  have f := fld_encode (stl := stl) (i := (.vaddF pg vb va vd)) (fs := [(6, 32), (6, vd.toNat), (6, va.toNat), (6, vb.toNat), (3, pg.toNat), (1, 0)]) rfl
  long_word rfl hw ((decode32_major20 (fld_major rfl (by decide))).trans
    (by simp [decodeMajor20, f, packFld, fld_zero]))
theorem vsubF (pg : PReg) (vb : VName) (va : VName) (vd : VName) : Statement (.vsubF pg vb va vd) := fun _ hw stl _ =>
  have f := fld_encode (stl := stl) (i := (.vsubF pg vb va vd)) (fs := [(6, 32), (6, vd.toNat), (6, va.toNat), (6, vb.toNat), (3, pg.toNat), (1, 1)]) rfl
  long_word rfl hw ((decode32_major20 (fld_major rfl (by decide))).trans
    (by simp [decodeMajor20, f, packFld, fld_one]))
theorem vmulF (pg : PReg) (vb : VName) (va : VName) (vd : VName) : Statement (.vmulF pg vb va vd) := fun _ hw stl _ =>
  have f := fld_encode (stl := stl) (i := (.vmulF pg vb va vd)) (fs := [(6, 33), (6, vd.toNat), (6, va.toNat), (6, vb.toNat), (3, pg.toNat), (1, 0)]) rfl
  long_word rfl hw ((decode32_major21 (fld_major rfl (by decide))).trans
    (by simp [decodeMajor21, f, packFld, fld_zero]))
theorem vfmaF (pg : PReg) (vb : VName) (va : VName) (vd : VName) : Statement (.vfmaF pg vb va vd) := fun _ hw stl _ =>
  have f := fld_encode (stl := stl) (i := (.vfmaF pg vb va vd)) (fs := [(6, 34), (6, vd.toNat), (6, va.toNat), (6, vb.toNat), (3, pg.toNat), (1, 0)]) rfl
  long_word rfl hw ((decode32_major22 (fld_major rfl (by decide))).trans
    (by simp [decodeMajor22, f, packFld, fld_zero]))
theorem vfmsF (pg : PReg) (vb : VName) (va : VName) (vd : VName) : Statement (.vfmsF pg vb va vd) := fun _ hw stl _ =>
  have f := fld_encode (stl := stl) (i := (.vfmsF pg vb va vd)) (fs := [(6, 34), (6, vd.toNat), (6, va.toNat), (6, vb.toNat), (3, pg.toNat), (1, 1)]) rfl
  long_word rfl hw ((decode32_major22 (fld_major rfl (by decide))).trans
    (by simp [decodeMajor22, f, packFld, fld_one]))
theorem vminF (pg : PReg) (vb : VName) (va : VName) (vd : VName) : Statement (.vminF pg vb va vd) := fun _ hw stl _ =>
  have f := fld_encode (stl := stl) (i := (.vminF pg vb va vd)) (fs := [(6, 35), (6, vd.toNat), (6, va.toNat), (6, vb.toNat), (3, pg.toNat), (1, 0)]) rfl
  long_word rfl hw ((decode32_major23 (fld_major rfl (by decide))).trans
    (by simp [decodeMajor23, f, packFld, fld_zero]))
theorem vmaxF (pg : PReg) (vb : VName) (va : VName) (vd : VName) : Statement (.vmaxF pg vb va vd) := fun _ hw stl _ =>
  have f := fld_encode (stl := stl) (i := (.vmaxF pg vb va vd)) (fs := [(6, 35), (6, vd.toNat), (6, va.toNat), (6, vb.toNat), (3, pg.toNat), (1, 1)]) rfl
  long_word rfl hw ((decode32_major23 (fld_major rfl (by decide))).trans
    (by simp [decodeMajor23, f, packFld, fld_one]))
theorem vaddI (pg : PReg) (vb : VName) (va : VName) (vd : VName) : Statement (.vaddI pg vb va vd) := fun _ hw stl _ =>
  have f := fld_encode (stl := stl) (i := (.vaddI pg vb va vd)) (fs := [(6, 36), (6, vd.toNat), (6, va.toNat), (6, vb.toNat), (3, pg.toNat), (1, 0)]) rfl
  long_word rfl hw ((decode32_major24 (fld_major rfl (by decide))).trans
    (by simp [decodeMajor24, f, packFld, fld_zero]))
theorem vsubI (pg : PReg) (vb : VName) (va : VName) (vd : VName) : Statement (.vsubI pg vb va vd) := fun _ hw stl _ =>
  have f := fld_encode (stl := stl) (i := (.vsubI pg vb va vd)) (fs := [(6, 36), (6, vd.toNat), (6, va.toNat), (6, vb.toNat), (3, pg.toNat), (1, 1)]) rfl
  long_word rfl hw ((decode32_major24 (fld_major rfl (by decide))).trans
    (by simp [decodeMajor24, f, packFld, fld_one]))
theorem vmulI (pg : PReg) (vb : VName) (va : VName) (vd : VName) : Statement (.vmulI pg vb va vd) := fun _ hw stl _ =>
  have f := fld_encode (stl := stl) (i := (.vmulI pg vb va vd)) (fs := [(6, 37), (6, vd.toNat), (6, va.toNat), (6, vb.toNat), (3, pg.toNat), (1, 0)]) rfl
  long_word rfl hw ((decode32_major25 (fld_major rfl (by decide))).trans
    (by simp [decodeMajor25, f, packFld, fld_zero]))
theorem vmulhI (pg : PReg) (vb : VName) (va : VName) (vd : VName) : Statement (.vmulhI pg vb va vd) := fun _ hw stl _ =>
  have f := fld_encode (stl := stl) (i := (.vmulhI pg vb va vd)) (fs := [(6, 37), (6, vd.toNat), (6, va.toNat), (6, vb.toNat), (3, pg.toNat), (1, 1)]) rfl
  long_word rfl hw ((decode32_major25 (fld_major rfl (by decide))).trans
    (by simp [decodeMajor25, f, packFld, fld_one]))
theorem vminI (pg : PReg) (vb : VName) (va : VName) (vd : VName) : Statement (.vminI pg vb va vd) := fun _ hw stl _ =>
  have f := fld_encode (stl := stl) (i := (.vminI pg vb va vd)) (fs := [(6, 38), (6, vd.toNat), (6, va.toNat), (6, vb.toNat), (3, pg.toNat), (1, 0)]) rfl
  long_word rfl hw ((decode32_major26 (fld_major rfl (by decide))).trans
    (by simp [decodeMajor26, f, packFld, fld_zero]))
theorem vmaxI (pg : PReg) (vb : VName) (va : VName) (vd : VName) : Statement (.vmaxI pg vb va vd) := fun _ hw stl _ =>
  have f := fld_encode (stl := stl) (i := (.vmaxI pg vb va vd)) (fs := [(6, 38), (6, vd.toNat), (6, va.toNat), (6, vb.toNat), (3, pg.toNat), (1, 1)]) rfl
  long_word rfl hw ((decode32_major26 (fld_major rfl (by decide))).trans
    (by simp [decodeMajor26, f, packFld, fld_one]))
theorem vminn (pg : PReg) (vb : VName) (va : VName) (vd : VName) : Statement (.vminn pg vb va vd) := fun _ hw stl _ =>
  have f := fld_encode (stl := stl) (i := (.vminn pg vb va vd)) (fs := [(6, 39), (6, vd.toNat), (6, va.toNat), (6, vb.toNat), (3, pg.toNat), (1, 0)]) rfl
  long_word rfl hw ((decode32_major27 (fld_major rfl (by decide))).trans
    (by simp [decodeMajor27, f, packFld, fld_zero]))
theorem vmaxn (pg : PReg) (vb : VName) (va : VName) (vd : VName) : Statement (.vmaxn pg vb va vd) := fun _ hw stl _ =>
  have f := fld_encode (stl := stl) (i := (.vmaxn pg vb va vd)) (fs := [(6, 39), (6, vd.toNat), (6, va.toNat), (6, vb.toNat), (3, pg.toNat), (1, 1)]) rfl
  long_word rfl hw ((decode32_major27 (fld_major rfl (by decide))).trans
    (by simp [decodeMajor27, f, packFld, fld_one]))
theorem vand (pg : PReg) (vb : VName) (va : VName) (vd : VName) : Statement (.vand pg vb va vd) := fun _ hw stl _ =>
  have f := fld_encode (stl := stl) (i := (.vand pg vb va vd)) (fs := [(6, 40), (6, vd.toNat), (6, va.toNat), (6, vb.toNat), (3, pg.toNat), (1, 0)]) rfl
  long_word rfl hw ((decode32_major28 (fld_major rfl (by decide))).trans
    (by simp [decodeMajor28, f, packFld, fld_zero]))
theorem vandn (pg : PReg) (vb : VName) (va : VName) (vd : VName) : Statement (.vandn pg vb va vd) := fun _ hw stl _ =>
  have f := fld_encode (stl := stl) (i := (.vandn pg vb va vd)) (fs := [(6, 40), (6, vd.toNat), (6, va.toNat), (6, vb.toNat), (3, pg.toNat), (1, 1)]) rfl
  long_word rfl hw ((decode32_major28 (fld_major rfl (by decide))).trans
    (by simp [decodeMajor28, f, packFld, fld_one]))
theorem vor (pg : PReg) (vb : VName) (va : VName) (vd : VName) : Statement (.vor pg vb va vd) := fun _ hw stl _ =>
  have f := fld_encode (stl := stl) (i := (.vor pg vb va vd)) (fs := [(6, 41), (6, vd.toNat), (6, va.toNat), (6, vb.toNat), (3, pg.toNat), (1, 0)]) rfl
  long_word rfl hw ((decode32_major29 (fld_major rfl (by decide))).trans
    (by simp [decodeMajor29, f, packFld, fld_zero]))
theorem vxor (pg : PReg) (vb : VName) (va : VName) (vd : VName) : Statement (.vxor pg vb va vd) := fun _ hw stl _ =>
  have f := fld_encode (stl := stl) (i := (.vxor pg vb va vd)) (fs := [(6, 41), (6, vd.toNat), (6, va.toNat), (6, vb.toNat), (3, pg.toNat), (1, 1)]) rfl
  long_word rfl hw ((decode32_major29 (fld_major rfl (by decide))).trans
    (by simp [decodeMajor29, f, packFld, fld_one]))
theorem vshl (pg : PReg) (vb : VName) (va : VName) (vd : VName) : Statement (.vshl pg vb va vd) := fun _ hw stl _ =>
  have f := fld_encode (stl := stl) (i := (.vshl pg vb va vd)) (fs := [(6, 42), (6, vd.toNat), (6, va.toNat), (6, vb.toNat), (3, pg.toNat), (1, 0)]) rfl
  long_word rfl hw ((decode32_major2A (fld_major rfl (by decide))).trans
    (by simp [decodeMajor2A, f, packFld, fld_zero]))
theorem vshr (pg : PReg) (vb : VName) (va : VName) (vd : VName) : Statement (.vshr pg vb va vd) := fun _ hw stl _ =>
  have f := fld_encode (stl := stl) (i := (.vshr pg vb va vd)) (fs := [(6, 42), (6, vd.toNat), (6, va.toNat), (6, vb.toNat), (3, pg.toNat), (1, 1)]) rfl
  long_word rfl hw ((decode32_major2A (fld_major rfl (by decide))).trans
    (by simp [decodeMajor2A, f, packFld, fld_one]))
theorem vsra (pg : PReg) (vb : VName) (va : VName) (vd : VName) : Statement (.vsra pg vb va vd) := fun _ hw stl _ =>
  have f := fld_encode (stl := stl) (i := (.vsra pg vb va vd)) (fs := [(6, 43), (6, vd.toNat), (6, va.toNat), (6, vb.toNat), (3, pg.toNat), (1, 0)]) rfl
  long_word rfl hw ((decode32_major2B (fld_major rfl (by decide))).trans
    (by simp [decodeMajor2B, f, packFld, fld_zero]))
theorem vrot (pg : PReg) (vb : VName) (va : VName) (vd : VName) : Statement (.vrot pg vb va vd) := fun _ hw stl _ =>
  have f := fld_encode (stl := stl) (i := (.vrot pg vb va vd)) (fs := [(6, 43), (6, vd.toNat), (6, va.toNat), (6, vb.toNat), (3, pg.toNat), (1, 1)]) rfl
  long_word rfl hw ((decode32_major2B (fld_major rfl (by decide))).trans
    (by simp [decodeMajor2B, f, packFld, fld_one]))
theorem vsel (pg : PReg) (vb : VName) (va : VName) (vd : VName) : Statement (.vsel pg vb va vd) := fun _ hw stl _ =>
  have f := fld_encode (stl := stl) (i := (.vsel pg vb va vd)) (fs := [(6, 44), (6, vd.toNat), (6, va.toNat), (6, vb.toNat), (3, pg.toNat), (1, 0)]) rfl
  long_word rfl hw ((decode32_major2C (fld_major rfl (by decide))).trans
    (by simp [decodeMajor2C, f, packFld, fld_zero]))
theorem vmacI (pg : PReg) (vb : VName) (va : VName) (vd : VName) : Statement (.vmacI pg vb va vd) := fun _ hw stl _ =>
  have f := fld_encode (stl := stl) (i := (.vmacI pg vb va vd)) (fs := [(6, 45), (6, vd.toNat), (6, va.toNat), (6, vb.toNat), (3, pg.toNat), (1, 0)]) rfl
  long_word rfl hw ((decode32_major2D (fld_major rfl (by decide))).trans
    (by simp [decodeMajor2D, f, packFld, fld_zero]))
theorem vcpy (pg : PReg) (va : VName) (vd : VName) : Statement (.vcpy pg va vd) := fun _ hw stl _ =>
  have f := fld_encode (stl := stl) (i := (.vcpy pg va vd)) (fs := [(6, 48), (6, vd.toNat), (6, va.toNat), (3, pg.toNat), (7, 0)]) rfl
  long_word rfl hw ((decode32_major30 (fld_major rfl (by decide))).trans
    (by simp [decodeMajor30, f, packFld, fld_zero]))
theorem vnegF (pg : PReg) (va : VName) (vd : VName) : Statement (.vnegF pg va vd) := fun _ hw stl _ =>
  have f := fld_encode (stl := stl) (i := (.vnegF pg va vd)) (fs := [(6, 48), (6, vd.toNat), (6, va.toNat), (3, pg.toNat), (7, 1)]) rfl
  long_word rfl hw ((decode32_major30 (fld_major rfl (by decide))).trans
    (by simp [decodeMajor30, f, packFld, fld_one]))
theorem vabsF (pg : PReg) (va : VName) (vd : VName) : Statement (.vabsF pg va vd) := fun _ hw stl _ =>
  have f := fld_encode (stl := stl) (i := (.vabsF pg va vd)) (fs := [(6, 48), (6, vd.toNat), (6, va.toNat), (3, pg.toNat), (7, 2)]) rfl
  long_word rfl hw ((decode32_major30 (fld_major rfl (by decide))).trans
    (by simp [decodeMajor30, f, packFld, fld_ofNat]))
theorem vsqrtF (pg : PReg) (va : VName) (vd : VName) : Statement (.vsqrtF pg va vd) := fun _ hw stl _ =>
  have f := fld_encode (stl := stl) (i := (.vsqrtF pg va vd)) (fs := [(6, 48), (6, vd.toNat), (6, va.toNat), (3, pg.toNat), (7, 3)]) rfl
  long_word rfl hw ((decode32_major30 (fld_major rfl (by decide))).trans
    (by simp [decodeMajor30, f, packFld, fld_ofNat]))
theorem vnot (pg : PReg) (va : VName) (vd : VName) : Statement (.vnot pg va vd) := fun _ hw stl _ =>
  have f := fld_encode (stl := stl) (i := (.vnot pg va vd)) (fs := [(6, 48), (6, vd.toNat), (6, va.toNat), (3, pg.toNat), (7, 4)]) rfl
  long_word rfl hw ((decode32_major30 (fld_major rfl (by decide))).trans
    (by simp [decodeMajor30, f, packFld, fld_ofNat]))
theorem vnegI (pg : PReg) (va : VName) (vd : VName) : Statement (.vnegI pg va vd) := fun _ hw stl _ =>
  have f := fld_encode (stl := stl) (i := (.vnegI pg va vd)) (fs := [(6, 48), (6, vd.toNat), (6, va.toNat), (3, pg.toNat), (7, 5)]) rfl
  long_word rfl hw ((decode32_major30 (fld_major rfl (by decide))).trans
    (by simp [decodeMajor30, f, packFld, fld_ofNat]))
theorem vabsI (pg : PReg) (va : VName) (vd : VName) : Statement (.vabsI pg va vd) := fun _ hw stl _ =>
  have f := fld_encode (stl := stl) (i := (.vabsI pg va vd)) (fs := [(6, 48), (6, vd.toNat), (6, va.toNat), (3, pg.toNat), (7, 6)]) rfl
  long_word rfl hw ((decode32_major30 (fld_major rfl (by decide))).trans
    (by simp [decodeMajor30, f, packFld, fld_ofNat]))
theorem vclz (pg : PReg) (va : VName) (vd : VName) : Statement (.vclz pg va vd) := fun _ hw stl _ =>
  have f := fld_encode (stl := stl) (i := (.vclz pg va vd)) (fs := [(6, 48), (6, vd.toNat), (6, va.toNat), (3, pg.toNat), (7, 7)]) rfl
  long_word rfl hw ((decode32_major30 (fld_major rfl (by decide))).trans
    (by simp [decodeMajor30, f, packFld, fld_ofNat]))
theorem vpopc (pg : PReg) (va : VName) (vd : VName) : Statement (.vpopc pg va vd) := fun _ hw stl _ =>
  have f := fld_encode (stl := stl) (i := (.vpopc pg va vd)) (fs := [(6, 48), (6, vd.toNat), (6, va.toNat), (3, pg.toNat), (7, 8)]) rfl
  long_word rfl hw ((decode32_major30 (fld_major rfl (by decide))).trans
    (by simp [decodeMajor30, f, packFld, fld_ofNat]))
theorem vcvtFI (pg : PReg) (va : VName) (vd : VName) : Statement (.vcvtFI pg va vd) := fun _ hw stl _ =>
  have f := fld_encode (stl := stl) (i := (.vcvtFI pg va vd)) (fs := [(6, 48), (6, vd.toNat), (6, va.toNat), (3, pg.toNat), (7, 16)]) rfl
  long_word rfl hw ((decode32_major30 (fld_major rfl (by decide))).trans
    (by simp [decodeMajor30, f, packFld, fld_ofNat]))
theorem vcvtFN (pg : PReg) (va : VName) (vd : VName) : Statement (.vcvtFN pg va vd) := fun _ hw stl _ =>
  have f := fld_encode (stl := stl) (i := (.vcvtFN pg va vd)) (fs := [(6, 48), (6, vd.toNat), (6, va.toNat), (3, pg.toNat), (7, 17)]) rfl
  long_word rfl hw ((decode32_major30 (fld_major rfl (by decide))).trans
    (by simp [decodeMajor30, f, packFld, fld_ofNat]))
theorem vcvtIF (pg : PReg) (va : VName) (vd : VName) : Statement (.vcvtIF pg va vd) := fun _ hw stl _ =>
  have f := fld_encode (stl := stl) (i := (.vcvtIF pg va vd)) (fs := [(6, 48), (6, vd.toNat), (6, va.toNat), (3, pg.toNat), (7, 18)]) rfl
  long_word rfl hw ((decode32_major30 (fld_major rfl (by decide))).trans
    (by simp [decodeMajor30, f, packFld, fld_ofNat]))
theorem vnarBf16 (pg : PReg) (va : VName) (vd : VName) : Statement (.vnarBf16 pg va vd) := fun _ hw stl _ =>
  have f := fld_encode (stl := stl) (i := (.vnarBf16 pg va vd)) (fs := [(6, 48), (6, vd.toNat), (6, va.toNat), (3, pg.toNat), (7, 24)]) rfl
  long_word rfl hw ((decode32_major30 (fld_major rfl (by decide))).trans
    (by simp [decodeMajor30, f, packFld, fld_ofNat]))
theorem vnarFp16 (pg : PReg) (va : VName) (vd : VName) : Statement (.vnarFp16 pg va vd) := fun _ hw stl _ =>
  have f := fld_encode (stl := stl) (i := (.vnarFp16 pg va vd)) (fs := [(6, 48), (6, vd.toNat), (6, va.toNat), (3, pg.toNat), (7, 25)]) rfl
  long_word rfl hw ((decode32_major30 (fld_major rfl (by decide))).trans
    (by simp [decodeMajor30, f, packFld, fld_ofNat]))
theorem vnarE4m3 (pg : PReg) (va : VName) (vd : VName) : Statement (.vnarE4m3 pg va vd) := fun _ hw stl _ =>
  have f := fld_encode (stl := stl) (i := (.vnarE4m3 pg va vd)) (fs := [(6, 48), (6, vd.toNat), (6, va.toNat), (3, pg.toNat), (7, 26)]) rfl
  long_word rfl hw ((decode32_major30 (fld_major rfl (by decide))).trans
    (by simp [decodeMajor30, f, packFld, fld_ofNat]))
theorem vnarE5m2 (pg : PReg) (va : VName) (vd : VName) : Statement (.vnarE5m2 pg va vd) := fun _ hw stl _ =>
  have f := fld_encode (stl := stl) (i := (.vnarE5m2 pg va vd)) (fs := [(6, 48), (6, vd.toNat), (6, va.toNat), (3, pg.toNat), (7, 27)]) rfl
  long_word rfl hw ((decode32_major30 (fld_major rfl (by decide))).trans
    (by simp [decodeMajor30, f, packFld, fld_ofNat]))
theorem vnarE2m1 (pg : PReg) (va : VName) (vd : VName) : Statement (.vnarE2m1 pg va vd) := fun _ hw stl _ =>
  have f := fld_encode (stl := stl) (i := (.vnarE2m1 pg va vd)) (fs := [(6, 48), (6, vd.toNat), (6, va.toNat), (3, pg.toNat), (7, 28)]) rfl
  long_word rfl hw ((decode32_major30 (fld_major rfl (by decide))).trans
    (by simp [decodeMajor30, f, packFld, fld_ofNat]))
theorem vnarI8 (pg : PReg) (va : VName) (vd : VName) : Statement (.vnarI8 pg va vd) := fun _ hw stl _ =>
  have f := fld_encode (stl := stl) (i := (.vnarI8 pg va vd)) (fs := [(6, 48), (6, vd.toNat), (6, va.toNat), (3, pg.toNat), (7, 29)]) rfl
  long_word rfl hw ((decode32_major30 (fld_major rfl (by decide))).trans
    (by simp [decodeMajor30, f, packFld, fld_ofNat]))
theorem vcmpFEq (pg : PReg) (vb : VName) (va : VName) (pd : PReg) : Statement (.vcmpFEq pg vb va pd) := fun _ hw stl _ =>
  have f := fld_encode (stl := stl) (i := (.vcmpFEq pg vb va pd)) (fs := [(6, 49), (3, pd.toNat), (3, 0), (6, va.toNat), (6, vb.toNat), (3, pg.toNat), (1, 0)]) rfl
  long_word rfl hw ((decode32_major31 (fld_major rfl (by decide))).trans
    (by simp [decodeMajor31, f, packFld, fld_zero]))
theorem vcmpFNe (pg : PReg) (vb : VName) (va : VName) (pd : PReg) : Statement (.vcmpFNe pg vb va pd) := fun _ hw stl _ =>
  have f := fld_encode (stl := stl) (i := (.vcmpFNe pg vb va pd)) (fs := [(6, 49), (3, pd.toNat), (3, 1), (6, va.toNat), (6, vb.toNat), (3, pg.toNat), (1, 0)]) rfl
  long_word rfl hw ((decode32_major31 (fld_major rfl (by decide))).trans
    (by simp [decodeMajor31, f, packFld, fld_zero, fld_one]))
theorem vcmpFLt (pg : PReg) (vb : VName) (va : VName) (pd : PReg) : Statement (.vcmpFLt pg vb va pd) := fun _ hw stl _ =>
  have f := fld_encode (stl := stl) (i := (.vcmpFLt pg vb va pd)) (fs := [(6, 49), (3, pd.toNat), (3, 2), (6, va.toNat), (6, vb.toNat), (3, pg.toNat), (1, 0)]) rfl
  long_word rfl hw ((decode32_major31 (fld_major rfl (by decide))).trans
    (by simp [decodeMajor31, f, packFld, fld_ofNat, fld_zero]))
theorem vcmpFLe (pg : PReg) (vb : VName) (va : VName) (pd : PReg) : Statement (.vcmpFLe pg vb va pd) := fun _ hw stl _ =>
  have f := fld_encode (stl := stl) (i := (.vcmpFLe pg vb va pd)) (fs := [(6, 49), (3, pd.toNat), (3, 3), (6, va.toNat), (6, vb.toNat), (3, pg.toNat), (1, 0)]) rfl
  long_word rfl hw ((decode32_major31 (fld_major rfl (by decide))).trans
    (by simp [decodeMajor31, f, packFld, fld_ofNat, fld_zero]))
theorem vcmpFUn (pg : PReg) (vb : VName) (va : VName) (pd : PReg) : Statement (.vcmpFUn pg vb va pd) := fun _ hw stl _ =>
  have f := fld_encode (stl := stl) (i := (.vcmpFUn pg vb va pd)) (fs := [(6, 49), (3, pd.toNat), (3, 4), (6, va.toNat), (6, vb.toNat), (3, pg.toNat), (1, 0)]) rfl
  long_word rfl hw ((decode32_major31 (fld_major rfl (by decide))).trans
    (by simp [decodeMajor31, f, packFld, fld_ofNat, fld_zero]))
theorem vcmpIEq (pg : PReg) (vb : VName) (va : VName) (pd : PReg) : Statement (.vcmpIEq pg vb va pd) := fun _ hw stl _ =>
  have f := fld_encode (stl := stl) (i := (.vcmpIEq pg vb va pd)) (fs := [(6, 49), (3, pd.toNat), (3, 0), (6, va.toNat), (6, vb.toNat), (3, pg.toNat), (1, 1)]) rfl
  long_word rfl hw ((decode32_major31 (fld_major rfl (by decide))).trans
    (by simp [decodeMajor31, f, packFld, fld_zero, fld_one]))
theorem vcmpINe (pg : PReg) (vb : VName) (va : VName) (pd : PReg) : Statement (.vcmpINe pg vb va pd) := fun _ hw stl _ =>
  have f := fld_encode (stl := stl) (i := (.vcmpINe pg vb va pd)) (fs := [(6, 49), (3, pd.toNat), (3, 1), (6, va.toNat), (6, vb.toNat), (3, pg.toNat), (1, 1)]) rfl
  long_word rfl hw ((decode32_major31 (fld_major rfl (by decide))).trans
    (by simp [decodeMajor31, f, packFld, fld_one]))
theorem vcmpILt (pg : PReg) (vb : VName) (va : VName) (pd : PReg) : Statement (.vcmpILt pg vb va pd) := fun _ hw stl _ =>
  have f := fld_encode (stl := stl) (i := (.vcmpILt pg vb va pd)) (fs := [(6, 49), (3, pd.toNat), (3, 2), (6, va.toNat), (6, vb.toNat), (3, pg.toNat), (1, 1)]) rfl
  long_word rfl hw ((decode32_major31 (fld_major rfl (by decide))).trans
    (by simp [decodeMajor31, f, packFld, fld_ofNat, fld_one]))
theorem vcmpILe (pg : PReg) (vb : VName) (va : VName) (pd : PReg) : Statement (.vcmpILe pg vb va pd) := fun _ hw stl _ =>
  have f := fld_encode (stl := stl) (i := (.vcmpILe pg vb va pd)) (fs := [(6, 49), (3, pd.toNat), (3, 3), (6, va.toNat), (6, vb.toNat), (3, pg.toNat), (1, 1)]) rfl
  long_word rfl hw ((decode32_major31 (fld_major rfl (by decide))).trans
    (by simp [decodeMajor31, f, packFld, fld_ofNat, fld_one]))
theorem vcmpILo (pg : PReg) (vb : VName) (va : VName) (pd : PReg) : Statement (.vcmpILo pg vb va pd) := fun _ hw stl _ =>
  have f := fld_encode (stl := stl) (i := (.vcmpILo pg vb va pd)) (fs := [(6, 49), (3, pd.toNat), (3, 4), (6, va.toNat), (6, vb.toNat), (3, pg.toNat), (1, 1)]) rfl
  long_word rfl hw ((decode32_major31 (fld_major rfl (by decide))).trans
    (by simp [decodeMajor31, f, packFld, fld_ofNat, fld_one]))
theorem vcmpILs (pg : PReg) (vb : VName) (va : VName) (pd : PReg) : Statement (.vcmpILs pg vb va pd) := fun _ hw stl _ =>
  have f := fld_encode (stl := stl) (i := (.vcmpILs pg vb va pd)) (fs := [(6, 49), (3, pd.toNat), (3, 5), (6, va.toNat), (6, vb.toNat), (3, pg.toNat), (1, 1)]) rfl
  long_word rfl hw ((decode32_major31 (fld_major rfl (by decide))).trans
    (by simp [decodeMajor31, f, packFld, fld_ofNat, fld_one]))
theorem vld (rsel : Bool) (ord : Ord) (pg : PReg) (ra : XReg) (vd : VName) : Statement (.vld rsel ord pg ra vd) := fun _ hw stl _ =>
  have f := fld_encode (stl := stl) (i := (.vld rsel ord pg ra vd)) (fs := [(6, 50), (6, vd.toNat), (5, ra.toNat), (3, 0), (3, pg.toNat), (2, 0), (2, ord.code), (1, rsel.toNat)]) rfl
  long_word rfl hw ((decode32_major32 (fld_major rfl (by decide))).trans
    (by simp [decodeMajor32, f, packFld, fld_zero, bit1]))
theorem vst (rsel : Bool) (ord : Ord) (pg : PReg) (ra : XReg) (vd : VName) : Statement (.vst rsel ord pg ra vd) := fun _ hw stl _ =>
  have f := fld_encode (stl := stl) (i := (.vst rsel ord pg ra vd)) (fs := [(6, 51), (6, vd.toNat), (5, ra.toNat), (3, 0), (3, pg.toNat), (2, 0), (2, ord.code), (1, rsel.toNat)]) rfl
  long_word rfl hw ((decode32_major33 (fld_major rfl (by decide))).trans
    (by simp [decodeMajor33, f, packFld, fld_zero, bit1]))
theorem vldLs (pg : PReg) (va : VName) (vd : VName) : Statement (.vldLs pg va vd) := fun _ hw stl _ =>
  have f := fld_encode (stl := stl) (i := (.vldLs pg va vd)) (fs := [(6, 50), (6, vd.toNat), (6, va.toNat), (2, 0), (3, pg.toNat), (5, 1)]) rfl
  long_word rfl hw ((decode32_major32 (fld_major rfl (by decide))).trans
    (by simp [decodeMajor32, f, packFld, fld_zero, fld_one]))
theorem vstLs (pg : PReg) (va : VName) (vd : VName) : Statement (.vstLs pg va vd) := fun _ hw stl _ =>
  have f := fld_encode (stl := stl) (i := (.vstLs pg va vd)) (fs := [(6, 51), (6, vd.toNat), (6, va.toNat), (2, 0), (3, pg.toNat), (5, 1)]) rfl
  long_word rfl hw ((decode32_major33 (fld_major rfl (by decide))).trans
    (by simp [decodeMajor33, f, packFld, fld_zero, fld_one]))
theorem vgath (rsel : Bool) (pg : PReg) (vb : VName) (ra : XReg) (vd : VName) : Statement (.vgath rsel pg vb ra vd) := fun _ hw stl _ =>
  have f := fld_encode (stl := stl) (i := (.vgath rsel pg vb ra vd)) (fs := [(6, 52), (6, vd.toNat), (5, ra.toNat), (6, vb.toNat), (3, pg.toNat), (1, 0), (1, rsel.toNat)]) rfl
  long_word rfl hw ((decode32_major34 (fld_major rfl (by decide))).trans
    (by simp [decodeMajor34, f, packFld, fld_zero, bit1]))
theorem vscat (rsel : Bool) (pg : PReg) (vb : VName) (ra : XReg) (vd : VName) : Statement (.vscat rsel pg vb ra vd) := fun _ hw stl _ =>
  have f := fld_encode (stl := stl) (i := (.vscat rsel pg vb ra vd)) (fs := [(6, 52), (6, vd.toNat), (5, ra.toNat), (6, vb.toNat), (3, pg.toNat), (1, 1), (1, rsel.toNat)]) rfl
  long_word rfl hw ((decode32_major34 (fld_major rfl (by decide))).trans
    (by simp [decodeMajor34, f, packFld, fld_one, bit1]))
theorem tmld (ra : XReg) (tm : TMap) : Statement (.tmld ra tm) := fun _ hw stl _ =>
  have f := fld_encode (stl := stl) (i := (.tmld ra tm)) (fs := [(6, 53), (2, 0), (3, tm.toNat), (5, ra.toNat), (12, 0)]) rfl
  long_word rfl hw ((decode32_major35 (fld_major rfl (by decide))).trans
    (by simp [decodeMajor35, f, packFld, fld_zero]))
theorem sopen (rope : RopeName) (tm : TMap) (vs : BitVec 2) : Statement (.sopen rope tm vs) := fun _ hw stl _ =>
  have f := fld_encode (stl := stl) (i := (.sopen rope tm vs)) (fs := [(6, 53), (2, vs.toNat), (3, tm.toNat), (5, 0), (4, rope.toNat), (8, 32)]) rfl
  long_word rfl hw ((decode32_major35 (fld_major rfl (by decide))).trans
    (by simp [decodeMajor35, f, packFld, fld_ofNat, fld_zero]))
theorem sclose (vs : BitVec 2) : Statement (.sclose vs) := fun _ hw stl _ =>
  have f := fld_encode (stl := stl) (i := (.sclose vs)) (fs := [(6, 53), (2, vs.toNat), (20, 262144)]) rfl
  long_word rfl hw ((decode32_major35 (fld_major rfl (by decide))).trans
    (by simp [decodeMajor35, f, packFld, fld_ofNat]))
theorem sstat (rd : XReg) (vs : BitVec 2) : Statement (.sstat rd vs) := fun _ hw stl _ =>
  have f := fld_encode (stl := stl) (i := (.sstat rd vs)) (fs := [(6, 53), (2, vs.toNat), (3, 0), (5, rd.toNat), (12, 1536)]) rfl
  long_word rfl hw ((decode32_major35 (fld_major rfl (by decide))).trans
    (by
        simp [decodeMajor35, f, packFld, fld_ofNat, fld_zero]
        omega))
theorem pand (pb : PReg) (pa : PReg) (pd : PReg) : Statement (.pand pb pa pd) := fun _ hw stl _ =>
  have f := fld_encode (stl := stl) (i := (.pand pb pa pd)) (fs := [(6, 54), (3, pd.toNat), (3, pa.toNat), (3, pb.toNat), (13, 0)]) rfl
  long_word rfl hw ((decode32_major36 (fld_major rfl (by decide))).trans
    (by simp [decodeMajor36, f, packFld, fld_zero]))
theorem por (pb : PReg) (pa : PReg) (pd : PReg) : Statement (.por pb pa pd) := fun _ hw stl _ =>
  have f := fld_encode (stl := stl) (i := (.por pb pa pd)) (fs := [(6, 54), (3, pd.toNat), (3, pa.toNat), (3, pb.toNat), (13, 512)]) rfl
  long_word rfl hw ((decode32_major36 (fld_major rfl (by decide))).trans
    (by simp [decodeMajor36, f, packFld, fld_ofNat]))
theorem pxor (pb : PReg) (pa : PReg) (pd : PReg) : Statement (.pxor pb pa pd) := fun _ hw stl _ =>
  have f := fld_encode (stl := stl) (i := (.pxor pb pa pd)) (fs := [(6, 54), (3, pd.toNat), (3, pa.toNat), (3, pb.toNat), (13, 1024)]) rfl
  long_word rfl hw ((decode32_major36 (fld_major rfl (by decide))).trans
    (by simp [decodeMajor36, f, packFld, fld_ofNat]))
theorem pnot (pa : PReg) (pd : PReg) : Statement (.pnot pa pd) := fun _ hw stl _ =>
  have f := fld_encode (stl := stl) (i := (.pnot pa pd)) (fs := [(6, 54), (3, pd.toNat), (3, pa.toNat), (16, 12288)]) rfl
  long_word rfl hw ((decode32_major36 (fld_major rfl (by decide))).trans
    (by simp [decodeMajor36, f, packFld, fld_ofNat]))
theorem pcnt (rd : XReg) (pa : PReg) : Statement (.pcnt rd pa) := fun _ hw stl _ =>
  have f := fld_encode (stl := stl) (i := (.pcnt rd pa)) (fs := [(6, 54), (3, 0), (3, pa.toNat), (3, 0), (5, rd.toNat), (8, 64)]) rfl
  long_word rfl hw ((decode32_major36 (fld_major rfl (by decide))).trans
    (by
        simp [decodeMajor36, f, packFld, fld_ofNat, fld_zero]
        omega))
theorem pfirst (rd : XReg) (pa : PReg) : Statement (.pfirst rd pa) := fun _ hw stl _ =>
  have f := fld_encode (stl := stl) (i := (.pfirst rd pa)) (fs := [(6, 54), (3, 0), (3, pa.toNat), (3, 0), (5, rd.toNat), (8, 80)]) rfl
  long_word rfl hw ((decode32_major36 (fld_major rfl (by decide))).trans
    (by
        simp [decodeMajor36, f, packFld, fld_ofNat, fld_zero]
        omega))
theorem pset (rs : XReg) (pd : PReg) : Statement (.pset rs pd) := fun _ hw stl _ =>
  have f := fld_encode (stl := stl) (i := (.pset rs pd)) (fs := [(6, 54), (3, pd.toNat), (6, 0), (5, rs.toNat), (8, 96)]) rfl
  long_word rfl hw ((decode32_major36 (fld_major rfl (by decide))).trans
    (by
        simp [decodeMajor36, f, packFld, fld_ofNat, fld_zero]
        omega))
theorem pgetPredicate (rd : XReg) (pa : PReg) : Statement (.pgetPredicate rd pa) := fun _ hw stl _ =>
  have f := fld_encode (stl := stl) (i := (.pgetPredicate rd pa)) (fs := [(6, 54), (3, 0), (3, pa.toNat), (3, 0), (5, rd.toNat), (8, 112)]) rfl
  long_word rfl hw ((decode32_major36 (fld_major rfl (by decide))).trans
    (by
        simp [decodeMajor36, f, packFld, fld_ofNat, fld_zero]
        omega))
theorem vraddF (pg : PReg) (va : VName) (rd : XReg) : Statement (.vraddF pg va rd) := fun _ hw stl _ =>
  have f := fld_encode (stl := stl) (i := (.vraddF pg va rd)) (fs := [(6, 55), (5, rd.toNat), (1, 0), (6, va.toNat), (3, pg.toNat), (7, 0)]) rfl
  long_word rfl hw ((decode32_major37 (fld_major rfl (by decide))).trans
    (by simp [decodeMajor37, f, packFld, fld_zero]))
theorem vrmaxF (pg : PReg) (va : VName) (rd : XReg) : Statement (.vrmaxF pg va rd) := fun _ hw stl _ =>
  have f := fld_encode (stl := stl) (i := (.vrmaxF pg va rd)) (fs := [(6, 55), (5, rd.toNat), (1, 0), (6, va.toNat), (3, pg.toNat), (7, 1)]) rfl
  long_word rfl hw ((decode32_major37 (fld_major rfl (by decide))).trans
    (by simp [decodeMajor37, f, packFld, fld_zero, fld_one]))
theorem vrminF (pg : PReg) (va : VName) (rd : XReg) : Statement (.vrminF pg va rd) := fun _ hw stl _ =>
  have f := fld_encode (stl := stl) (i := (.vrminF pg va rd)) (fs := [(6, 55), (5, rd.toNat), (1, 0), (6, va.toNat), (3, pg.toNat), (7, 2)]) rfl
  long_word rfl hw ((decode32_major37 (fld_major rfl (by decide))).trans
    (by simp [decodeMajor37, f, packFld, fld_ofNat, fld_zero]))
theorem vraddI (pg : PReg) (va : VName) (rd : XReg) : Statement (.vraddI pg va rd) := fun _ hw stl _ =>
  have f := fld_encode (stl := stl) (i := (.vraddI pg va rd)) (fs := [(6, 55), (5, rd.toNat), (1, 0), (6, va.toNat), (3, pg.toNat), (7, 3)]) rfl
  long_word rfl hw ((decode32_major37 (fld_major rfl (by decide))).trans
    (by simp [decodeMajor37, f, packFld, fld_ofNat, fld_zero]))
theorem vrmaxI (pg : PReg) (va : VName) (rd : XReg) : Statement (.vrmaxI pg va rd) := fun _ hw stl _ =>
  have f := fld_encode (stl := stl) (i := (.vrmaxI pg va rd)) (fs := [(6, 55), (5, rd.toNat), (1, 0), (6, va.toNat), (3, pg.toNat), (7, 4)]) rfl
  long_word rfl hw ((decode32_major37 (fld_major rfl (by decide))).trans
    (by simp [decodeMajor37, f, packFld, fld_ofNat, fld_zero]))
theorem vrminI (pg : PReg) (va : VName) (rd : XReg) : Statement (.vrminI pg va rd) := fun _ hw stl _ =>
  have f := fld_encode (stl := stl) (i := (.vrminI pg va rd)) (fs := [(6, 55), (5, rd.toNat), (1, 0), (6, va.toNat), (3, pg.toNat), (7, 5)]) rfl
  long_word rfl hw ((decode32_major37 (fld_major rfl (by decide))).trans
    (by simp [decodeMajor37, f, packFld, fld_ofNat, fld_zero]))
theorem vrand (pg : PReg) (va : VName) (rd : XReg) : Statement (.vrand pg va rd) := fun _ hw stl _ =>
  have f := fld_encode (stl := stl) (i := (.vrand pg va rd)) (fs := [(6, 55), (5, rd.toNat), (1, 0), (6, va.toNat), (3, pg.toNat), (7, 6)]) rfl
  long_word rfl hw ((decode32_major37 (fld_major rfl (by decide))).trans
    (by simp [decodeMajor37, f, packFld, fld_ofNat, fld_zero]))
theorem vror (pg : PReg) (va : VName) (rd : XReg) : Statement (.vror pg va rd) := fun _ hw stl _ =>
  have f := fld_encode (stl := stl) (i := (.vror pg va rd)) (fs := [(6, 55), (5, rd.toNat), (1, 0), (6, va.toNat), (3, pg.toNat), (7, 7)]) rfl
  long_word rfl hw ((decode32_major37 (fld_major rfl (by decide))).trans
    (by simp [decodeMajor37, f, packFld, fld_ofNat, fld_zero]))
theorem vrxor (pg : PReg) (va : VName) (rd : XReg) : Statement (.vrxor pg va rd) := fun _ hw stl _ =>
  have f := fld_encode (stl := stl) (i := (.vrxor pg va rd)) (fs := [(6, 55), (5, rd.toNat), (1, 0), (6, va.toNat), (3, pg.toNat), (7, 8)]) rfl
  long_word rfl hw ((decode32_major37 (fld_major rfl (by decide))).trans
    (by simp [decodeMajor37, f, packFld, fld_ofNat, fld_zero]))
theorem vbcast (rs : XReg) (vd : VName) : Statement (.vbcast rs vd) := fun _ hw stl _ =>
  have f := fld_encode (stl := stl) (i := (.vbcast rs vd)) (fs := [(6, 56), (6, vd.toNat), (5, rs.toNat), (11, 0)]) rfl
  long_word rfl hw ((decode32_major38 (fld_major rfl (by decide))).trans
    (by simp [decodeMajor38, f, packFld, fld_zero]))
theorem vext (lane : BitVec 6) (va : VName) (rd : XReg) : Statement (.vext lane va rd) := fun _ hw stl _ =>
  have f := fld_encode (stl := stl) (i := (.vext lane va rd)) (fs := [(6, 56), (5, rd.toNat), (1, 0), (6, va.toNat), (6, lane.toNat), (4, 1)]) rfl
  long_word rfl hw ((decode32_major38 (fld_major rfl (by decide))).trans
    (by simp [decodeMajor38, f, packFld, fld_zero, fld_one]))
theorem vins (lane : BitVec 6) (rs : XReg) (vd : VName) : Statement (.vins lane rs vd) := fun _ hw stl _ =>
  have f := fld_encode (stl := stl) (i := (.vins lane rs vd)) (fs := [(6, 56), (6, vd.toNat), (5, rs.toNat), (1, 0), (6, lane.toNat), (4, 2)]) rfl
  long_word rfl hw ((decode32_major38 (fld_major rfl (by decide))).trans
    (by simp [decodeMajor38, f, packFld, fld_ofNat, fld_zero]))
theorem vperm (vb : VName) (va : VName) (vd : VName) : Statement (.vperm vb va vd) := fun _ hw stl _ =>
  have f := fld_encode (stl := stl) (i := (.vperm vb va vd)) (fs := [(6, 56), (6, vd.toNat), (6, va.toNat), (6, vb.toNat), (4, 3)]) rfl
  long_word rfl hw ((decode32_major38 (fld_major rfl (by decide))).trans
    (by simp [decodeMajor38, f, packFld, fld_ofNat]))
theorem vslideUp (lane : BitVec 6) (va : VName) (vd : VName) : Statement (.vslideUp lane va vd) := fun _ hw stl _ =>
  have f := fld_encode (stl := stl) (i := (.vslideUp lane va vd)) (fs := [(6, 56), (6, vd.toNat), (6, va.toNat), (6, lane.toNat), (4, 4)]) rfl
  long_word rfl hw ((decode32_major38 (fld_major rfl (by decide))).trans
    (by simp [decodeMajor38, f, packFld, fld_ofNat]))
theorem vslideDn (lane : BitVec 6) (va : VName) (vd : VName) : Statement (.vslideDn lane va vd) := fun _ hw stl _ =>
  have f := fld_encode (stl := stl) (i := (.vslideDn lane va vd)) (fs := [(6, 56), (6, vd.toNat), (6, va.toNat), (6, lane.toNat), (4, 5)]) rfl
  long_word rfl hw ((decode32_major38 (fld_major rfl (by decide))).trans
    (by simp [decodeMajor38, f, packFld, fld_ofNat]))
theorem viota (vd : VName) : Statement (.viota vd) := fun _ hw stl _ =>
  have f := fld_encode (stl := stl) (i := (.viota vd)) (fs := [(6, 56), (6, vd.toNat), (16, 24576)]) rfl
  long_word rfl hw ((decode32_major38 (fld_major rfl (by decide))).trans
    (by simp [decodeMajor38, f, packFld, fld_ofNat]))
theorem vfexp2 (pg : PReg) (va : VName) (vd : VName) : Statement (.vfexp2 pg va vd) := fun _ hw stl _ =>
  have f := fld_encode (stl := stl) (i := (.vfexp2 pg va vd)) (fs := [(6, 57), (6, vd.toNat), (6, va.toNat), (3, pg.toNat), (7, 0)]) rfl
  long_word rfl hw ((decode32_major39 (fld_major rfl (by decide))).trans
    (by simp [decodeMajor39, f, packFld, fld_zero]))
theorem vrint (pg : PReg) (va : VName) (vd : VName) : Statement (.vrint pg va vd) := fun _ hw stl _ =>
  have f := fld_encode (stl := stl) (i := (.vrint pg va vd)) (fs := [(6, 57), (6, vd.toNat), (6, va.toNat), (3, pg.toNat), (7, 1)]) rfl
  long_word rfl hw ((decode32_major39 (fld_major rfl (by decide))).trans
    (by simp [decodeMajor39, f, packFld, fld_one]))
theorem vexpi (pg : PReg) (va : VName) (vd : VName) : Statement (.vexpi pg va vd) := fun _ hw stl _ =>
  have f := fld_encode (stl := stl) (i := (.vexpi pg va vd)) (fs := [(6, 57), (6, vd.toNat), (6, va.toNat), (3, pg.toNat), (7, 2)]) rfl
  long_word rfl hw ((decode32_major39 (fld_major rfl (by decide))).trans
    (by simp [decodeMajor39, f, packFld, fld_ofNat]))
theorem vexpx (pg : PReg) (va : VName) (vd : VName) : Statement (.vexpx pg va vd) := fun _ hw stl _ =>
  have f := fld_encode (stl := stl) (i := (.vexpx pg va vd)) (fs := [(6, 57), (6, vd.toNat), (6, va.toNat), (3, pg.toNat), (7, 3)]) rfl
  long_word rfl hw ((decode32_major39 (fld_major rfl (by decide))).trans
    (by simp [decodeMajor39, f, packFld, fld_ofNat]))
theorem vrcp (pg : PReg) (va : VName) (vd : VName) : Statement (.vrcp pg va vd) := fun _ hw stl _ =>
  have f := fld_encode (stl := stl) (i := (.vrcp pg va vd)) (fs := [(6, 57), (6, vd.toNat), (6, va.toNat), (3, pg.toNat), (7, 4)]) rfl
  long_word rfl hw ((decode32_major39 (fld_major rfl (by decide))).trans
    (by simp [decodeMajor39, f, packFld, fld_ofNat]))
theorem vrsq (pg : PReg) (va : VName) (vd : VName) : Statement (.vrsq pg va vd) := fun _ hw stl _ =>
  have f := fld_encode (stl := stl) (i := (.vrsq pg va vd)) (fs := [(6, 57), (6, vd.toNat), (6, va.toNat), (3, pg.toNat), (7, 5)]) rfl
  long_word rfl hw ((decode32_major39 (fld_major rfl (by decide))).trans
    (by simp [decodeMajor39, f, packFld, fld_ofNat]))
theorem mxq (vs : VName) (rd : XReg) : Statement (.mxq vs rd) := fun _ hw stl _ =>
  have f := fld_encode (stl := stl) (i := (.mxq vs rd)) (fs := [(6, 58), (5, rd.toNat), (5, 0), (6, vs.toNat), (6, 0)]) rfl
  long_word rfl hw ((decode32_major3A (fld_major rfl (by decide))).trans
    (by simp [decodeMajor3A, f, packFld, fld_zero]))
theorem mxwait (ra : XReg) : Statement (.mxwait ra) := fun _ hw stl _ =>
  have f := fld_encode (stl := stl) (i := (.mxwait ra)) (fs := [(6, 58), (5, 0), (5, ra.toNat), (12, 256)]) rfl
  long_word rfl hw ((decode32_major3A (fld_major rfl (by decide))).trans
    (by simp [decodeMajor3A, f, packFld, fld_ofNat, fld_zero]))
theorem mxstat (rd : XReg) : Statement (.mxstat rd) := fun _ hw stl _ =>
  have f := fld_encode (stl := stl) (i := (.mxstat rd)) (fs := [(6, 58), (5, rd.toNat), (17, 16384)]) rfl
  long_word rfl hw ((decode32_major3A (fld_major rfl (by decide))).trans
    (by simp [decodeMajor3A, f, packFld, fld_ofNat]))
theorem mxstatC (rd : XReg) : Statement (.mxstatC rd) := fun _ hw stl _ =>
  have f := fld_encode (stl := stl) (i := (.mxstatC rd)) (fs := [(6, 58), (5, rd.toNat), (17, 18432)]) rfl
  long_word rfl hw ((decode32_major3A (fld_major rfl (by decide))).trans
    (by simp [decodeMajor3A, f, packFld, fld_ofNat]))
theorem rackTake (n : BitVec 4) : Statement (.rackTake n) := fun _ hw stl _ =>
  have f := fld_encode (stl := stl) (i := (.rackTake n)) (fs := [(6, 59), (10, 0), (4, n.toNat), (8, 0)]) rfl
  long_word rfl hw ((decode32_major3B (fld_major rfl (by decide))).trans
    (by simp [decodeMajor3B, f, packFld, fld_zero]))
theorem rackGive (n : BitVec 4) : Statement (.rackGive n) := fun _ hw stl _ =>
  have f := fld_encode (stl := stl) (i := (.rackGive n)) (fs := [(6, 59), (10, 0), (4, n.toNat), (8, 16)]) rfl
  long_word rfl hw ((decode32_major3B (fld_major rfl (by decide))).trans
    (by simp [decodeMajor3B, f, packFld, fld_ofNat, fld_zero]))
theorem rackQry (rd : XReg) : Statement (.rackQry rd) := fun _ hw stl _ =>
  have f := fld_encode (stl := stl) (i := (.rackQry rd)) (fs := [(6, 59), (5, rd.toNat), (17, 16384)]) rfl
  long_word rfl hw ((decode32_major3B (fld_major rfl (by decide))).trans
    (by simp [decodeMajor3B, f, packFld, fld_ofNat]))
theorem cMv (b : BitVec 4) (a : BitVec 4) : Statement (.cMv b a) := fun _ hw stl hz =>
  have f := fld_encode (stl := stl) (i := (.cMv b a)) (fs := [(4, 0), (4, a.toNat), (4, b.toNat)]) rfl
  short_word rfl hw (Nat.lt_of_lt_of_le (encode_lt (fs := [(4, 0), (4, a.toNat), (4, b.toNat)]) rfl) (by simp)) (mv_ne_zero hz)
    (by simp [decode16, f, packFld, fld_ofNat, fld_zero, fld_one])
theorem cAdd (b : BitVec 4) (a : BitVec 4) : Statement (.cAdd b a) := fun _ hw stl hz =>
  have f := fld_encode (stl := stl) (i := (.cAdd b a)) (fs := [(4, 1), (4, a.toNat), (4, b.toNat)]) rfl
  short_word rfl hw (Nat.lt_of_lt_of_le (encode_lt (fs := [(4, 1), (4, a.toNat), (4, b.toNat)]) rfl) (by simp)) (ne_zero_of_fld (lo := 4) (n := 4) (v := 1) (by simp [f, packFld, fld_ofNat, fld_one]) (by decide))
    (by simp [decode16, f, packFld, fld_ofNat, fld_zero, fld_one])
theorem cSub (b : BitVec 4) (a : BitVec 4) : Statement (.cSub b a) := fun _ hw stl hz =>
  have f := fld_encode (stl := stl) (i := (.cSub b a)) (fs := [(4, 2), (4, a.toNat), (4, b.toNat)]) rfl
  short_word rfl hw (Nat.lt_of_lt_of_le (encode_lt (fs := [(4, 2), (4, a.toNat), (4, b.toNat)]) rfl) (by simp)) (ne_zero_of_fld (lo := 4) (n := 4) (v := 2) (by simp [f, packFld, fld_ofNat, fld_one]) (by decide))
    (by simp [decode16, f, packFld, fld_ofNat, fld_zero, fld_one])
theorem cAddi (imm : BitVec 4) (a : BitVec 4) : Statement (.cAddi imm a) := fun _ hw stl hz =>
  have f := fld_encode (stl := stl) (i := (.cAddi imm a)) (fs := [(4, 3), (4, a.toNat), (4, imm.toNat)]) rfl
  short_word rfl hw (Nat.lt_of_lt_of_le (encode_lt (fs := [(4, 3), (4, a.toNat), (4, imm.toNat)]) rfl) (by simp)) (ne_zero_of_fld (lo := 4) (n := 4) (v := 3) (by simp [f, packFld, fld_ofNat, fld_one]) (by decide))
    (by simp [decode16, f, packFld, fld_ofNat, fld_zero, fld_one])
theorem cLi (imm : BitVec 4) (a : BitVec 4) : Statement (.cLi imm a) := fun _ hw stl hz =>
  have f := fld_encode (stl := stl) (i := (.cLi imm a)) (fs := [(4, 4), (4, a.toNat), (4, imm.toNat)]) rfl
  short_word rfl hw (Nat.lt_of_lt_of_le (encode_lt (fs := [(4, 4), (4, a.toNat), (4, imm.toNat)]) rfl) (by simp)) (ne_zero_of_fld (lo := 4) (n := 4) (v := 4) (by simp [f, packFld, fld_ofNat, fld_one]) (by decide))
    (by simp [decode16, f, packFld, fld_ofNat, fld_zero, fld_one])
theorem cLd (b : BitVec 4) (a : BitVec 4) : Statement (.cLd b a) := fun _ hw stl hz =>
  have f := fld_encode (stl := stl) (i := (.cLd b a)) (fs := [(4, 5), (4, a.toNat), (4, b.toNat)]) rfl
  short_word rfl hw (Nat.lt_of_lt_of_le (encode_lt (fs := [(4, 5), (4, a.toNat), (4, b.toNat)]) rfl) (by simp)) (ne_zero_of_fld (lo := 4) (n := 4) (v := 5) (by simp [f, packFld, fld_ofNat, fld_one]) (by decide))
    (by simp [decode16, f, packFld, fld_ofNat, fld_zero, fld_one])
theorem cSt (b : BitVec 4) (a : BitVec 4) : Statement (.cSt b a) := fun _ hw stl hz =>
  have f := fld_encode (stl := stl) (i := (.cSt b a)) (fs := [(4, 6), (4, a.toNat), (4, b.toNat)]) rfl
  short_word rfl hw (Nat.lt_of_lt_of_le (encode_lt (fs := [(4, 6), (4, a.toNat), (4, b.toNat)]) rfl) (by simp)) (ne_zero_of_fld (lo := 4) (n := 4) (v := 6) (by simp [f, packFld, fld_ofNat, fld_one]) (by decide))
    (by simp [decode16, f, packFld, fld_ofNat, fld_zero, fld_one])
theorem cAnd (b : BitVec 4) (a : BitVec 4) : Statement (.cAnd b a) := fun _ hw stl hz =>
  have f := fld_encode (stl := stl) (i := (.cAnd b a)) (fs := [(4, 7), (4, a.toNat), (4, b.toNat)]) rfl
  short_word rfl hw (Nat.lt_of_lt_of_le (encode_lt (fs := [(4, 7), (4, a.toNat), (4, b.toNat)]) rfl) (by simp)) (ne_zero_of_fld (lo := 4) (n := 4) (v := 7) (by simp [f, packFld, fld_ofNat, fld_one]) (by decide))
    (by simp [decode16, f, packFld, fld_ofNat, fld_zero, fld_one])
theorem cOr (b : BitVec 4) (a : BitVec 4) : Statement (.cOr b a) := fun _ hw stl hz =>
  have f := fld_encode (stl := stl) (i := (.cOr b a)) (fs := [(4, 8), (4, a.toNat), (4, b.toNat)]) rfl
  short_word rfl hw (Nat.lt_of_lt_of_le (encode_lt (fs := [(4, 8), (4, a.toNat), (4, b.toNat)]) rfl) (by simp)) (ne_zero_of_fld (lo := 4) (n := 4) (v := 8) (by simp [f, packFld, fld_ofNat, fld_one]) (by decide))
    (by simp [decode16, f, packFld, fld_ofNat, fld_zero, fld_one])
theorem cShli (imm : BitVec 4) (a : BitVec 4) : Statement (.cShli imm a) := fun _ hw stl hz =>
  have f := fld_encode (stl := stl) (i := (.cShli imm a)) (fs := [(4, 9), (4, a.toNat), (4, imm.toNat)]) rfl
  short_word rfl hw (Nat.lt_of_lt_of_le (encode_lt (fs := [(4, 9), (4, a.toNat), (4, imm.toNat)]) rfl) (by simp)) (ne_zero_of_fld (lo := 4) (n := 4) (v := 9) (by simp [f, packFld, fld_ofNat, fld_one]) (by decide))
    (by simp [decode16, f, packFld, fld_ofNat, fld_zero, fld_one])
theorem cShri (imm : BitVec 4) (a : BitVec 4) : Statement (.cShri imm a) := fun _ hw stl hz =>
  have f := fld_encode (stl := stl) (i := (.cShri imm a)) (fs := [(4, 10), (4, a.toNat), (4, imm.toNat)]) rfl
  short_word rfl hw (Nat.lt_of_lt_of_le (encode_lt (fs := [(4, 10), (4, a.toNat), (4, imm.toNat)]) rfl) (by simp)) (ne_zero_of_fld (lo := 4) (n := 4) (v := 10) (by simp [f, packFld, fld_ofNat, fld_one]) (by decide))
    (by simp [decode16, f, packFld, fld_ofNat, fld_zero, fld_one])
theorem cBnz (off : BitVec 4) (a : BitVec 4) : Statement (.cBnz off a) := fun _ hw stl hz =>
  have f := fld_encode (stl := stl) (i := (.cBnz off a)) (fs := [(4, 11), (4, a.toNat), (4, off.toNat)]) rfl
  short_word rfl hw (Nat.lt_of_lt_of_le (encode_lt (fs := [(4, 11), (4, a.toNat), (4, off.toNat)]) rfl) (by simp)) (ne_zero_of_fld (lo := 4) (n := 4) (v := 11) (by simp [f, packFld, fld_ofNat, fld_one]) (by decide))
    (by simp [decode16, f, packFld, fld_ofNat, fld_zero, fld_one])
theorem cJ (off : BitVec 8) : Statement (.cJ off) := fun _ hw stl hz =>
  have f := fld_encode (stl := stl) (i := (.cJ off)) (fs := [(4, 12), (8, off.toNat)]) rfl
  short_word rfl hw (Nat.lt_of_lt_of_le (encode_lt (fs := [(4, 12), (8, off.toNat)]) rfl) (by simp)) (ne_zero_of_fld (lo := 4) (n := 4) (v := 12) (by simp [f, packFld, fld_ofNat, fld_one]) (by decide))
    (by simp [decode16, f, packFld, fld_ofNat, fld_zero, fld_one])
theorem cDone : Statement .cDone := fun _ hw stl hz =>
  have f := fld_encode (stl := stl) (i := .cDone) (fs := [(4, 13), (8, 0)]) rfl
  short_word rfl hw (Nat.lt_of_lt_of_le (encode_lt (fs := [(4, 13), (8, 0)]) rfl) (by simp)) (ne_zero_of_fld (lo := 4) (n := 4) (v := 13) (by simp [f, packFld, fld_ofNat, fld_one]) (by decide))
    (by simp [decode16, f, packFld, fld_ofNat, fld_zero, fld_one])
theorem cYield : Statement .cYield := fun _ hw stl hz =>
  have f := fld_encode (stl := stl) (i := .cYield) (fs := [(4, 14), (8, 0)]) rfl
  short_word rfl hw (Nat.lt_of_lt_of_le (encode_lt (fs := [(4, 14), (8, 0)]) rfl) (by simp)) (ne_zero_of_fld (lo := 4) (n := 4) (v := 14) (by simp [f, packFld, fld_ofNat, fld_one]) (by decide))
    (by simp [decode16, f, packFld, fld_ofNat, fld_zero, fld_one])
theorem ropePrefix (rope : RopeName) : Statement (.ropePrefix rope) := fun _ hw stl hz =>
  have f := fld_encode (stl := stl) (i := (.ropePrefix rope)) (fs := [(4, 15), (4, rope.toNat), (4, 0)]) rfl
  short_word rfl hw (Nat.lt_of_lt_of_le (encode_lt (fs := [(4, 15), (4, rope.toNat), (4, 0)]) rfl) (by simp)) (ne_zero_of_fld (lo := 4) (n := 4) (v := 15) (by simp [f, packFld, fld_ofNat, fld_one]) (by decide))
    (by simp [decode16, f, packFld, fld_ofNat, fld_zero, fld_one])
theorem perform : Statement .perform := no_word rfl
theorem retryListService : Statement .retryListService := no_word rfl
theorem nackResend : Statement .nackResend := no_word rfl
theorem withdrawal : Statement .withdrawal := no_word rfl
theorem watchdog : Statement .watchdog := no_word rfl
theorem storeBufferDrain : Statement .storeBufferDrain := no_word rfl
theorem response : Statement .response := no_word rfl
theorem routeFlit : Statement .routeFlit := no_word rfl
theorem injectFlit : Statement .injectFlit := no_word rfl
theorem linkReceive : Statement .linkReceive := no_word rfl
theorem linkReplay : Statement .linkReplay := no_word rfl
theorem linkAcknowledge : Statement .linkAcknowledge := no_word rfl
theorem laneFailure : Statement .laneFailure := no_word rfl
theorem retrainingEnd : Statement .retrainingEnd := no_word rfl
theorem portOutOfService : Statement .portOutOfService := no_word rfl
theorem reassembly : Statement .reassembly := no_word rfl
theorem messageArrival : Statement .messageArrival := no_word rfl
theorem dispatchEntryFill : Statement .dispatchEntryFill := no_word rfl
theorem activationStart : Statement .activationStart := no_word rfl
theorem eventDelivery : Statement .eventDelivery := no_word rfl
theorem tableWalk : Statement .tableWalk := no_word rfl
theorem pageAnswer : Statement .pageAnswer := no_word rfl
theorem tlbInvalidationAck : Statement .tlbInvalidationAck := no_word rfl
theorem cpgoRead : Statement .cpgoRead := no_word rfl
theorem copySector : Statement .copySector := no_word rfl
theorem mma : Statement .mma := no_word rfl
theorem ldb : Statement .ldb := no_word rfl
theorem rotb : Statement .rotb := no_word rfl
theorem stc : Statement .stc := no_word rfl
theorem zc : Statement .zc := no_word rfl
theorem mnote : Statement .mnote := no_word rfl
theorem mfen : Statement .mfen := no_word rfl
theorem ringTransferEnd : Statement .ringTransferEnd := no_word rfl
theorem commandRetire : Statement .commandRetire := no_word rfl
theorem matrixCommandDiscard : Statement .matrixCommandDiscard := no_word rfl
theorem governorWindow : Statement .governorWindow := no_word rfl
theorem mailboxLanding : Statement .mailboxLanding := no_word rfl
theorem rackGrant : Statement .rackGrant := no_word rfl
theorem sleepEnd : Statement .sleepEnd := no_word rfl
theorem adoptService : Statement .adoptService := no_word rfl
theorem adoptAnswer : Statement .adoptAnswer := no_word rfl
theorem fencefMarker : Statement .fencefMarker := no_word rfl
theorem areadReply : Statement .areadReply := no_word rfl
theorem post : Statement .post := no_word rfl
theorem claim : Statement .claim := no_word rfl
theorem refill : Statement .refill := no_word rfl
theorem postSend : Statement .postSend := no_word rfl
theorem postAck : Statement .postAck := no_word rfl
theorem quiescenceSweep : Statement .quiescenceSweep := no_word rfl
theorem hostEnqueue : Statement .hostEnqueue := no_word rfl
theorem launchStart : Statement .launchStart := no_word rfl
theorem entryPresentation : Statement .entryPresentation := no_word rfl
theorem launchCompletion : Statement .launchCompletion := no_word rfl
theorem quantumExpiry : Statement .quantumExpiry := no_word rfl
theorem resume : Statement .resume := no_word rfl
theorem coreRepair : Statement .coreRepair := no_word rfl
theorem multicastStoreLanding : Statement .multicastStoreLanding := no_word rfl
theorem combinedAck : Statement .combinedAck := no_word rfl
theorem mcldRequest : Statement .mcldRequest := no_word rfl
theorem mcldLineSend : Statement .mcldLineSend := no_word rfl
theorem mcldLineArrival : Statement .mcldLineArrival := no_word rfl
theorem mergeReport : Statement .mergeReport := no_word rfl
theorem lineClear : Statement .lineClear := no_word rfl
theorem budgetWindow : Statement .budgetWindow := no_word rfl
theorem rowThrottleEvent : Statement .rowThrottleEvent := no_word rfl
theorem throttleEnd : Statement .throttleEnd := no_word rfl
theorem injectionCapWindow : Statement .injectionCapWindow := no_word rfl
theorem powerSample : Statement .powerSample := no_word rfl
theorem coolantTrip : Statement .coolantTrip := no_word rfl
theorem pseudoChannelRepair : Statement .pseudoChannelRepair := no_word rfl
theorem supervisorFailover : Statement .supervisorFailover := no_word rfl
theorem partSplit : Statement .partSplit := no_word rfl
theorem partMerge : Statement .partMerge := no_word rfl
theorem vdCreate : Statement .vdCreate := no_word rfl
theorem vdDestroy : Statement .vdDestroy := no_word rfl
theorem s2invPage : Statement .s2invPage := no_word rfl
theorem s2invAll : Statement .s2invAll := no_word rfl
theorem rtswap : Statement .rtswap := no_word rfl
theorem pageansRetry : Statement .pageansRetry := no_word rfl
theorem pageansDeny : Statement .pageansDeny := no_word rfl
theorem vdReset : Statement .vdReset := no_word rfl
theorem vdBivouac : Statement .vdBivouac := no_word rfl
theorem vdThaw : Statement .vdThaw := no_word rfl
theorem dispinit : Statement .dispinit := no_word rfl
theorem groupTableWrite : Statement .groupTableWrite := no_word rfl
theorem supervisorRegisterWrite : Statement .supervisorRegisterWrite := no_word rfl
theorem dispbaseWrite : Statement .dispbaseWrite := no_word rfl
theorem tagbaseWrite : Statement .tagbaseWrite := no_word rfl
theorem rackfloorWrite : Statement .rackfloorWrite := no_word rfl
theorem fcrWrite : Statement .fcrWrite := no_word rfl
theorem mxgovWrite : Statement .mxgovWrite := no_word rfl
theorem controlRegisterWrite : Statement .controlRegisterWrite := no_word rfl
theorem hostWrite : Statement .hostWrite := no_word rfl
theorem hostRead : Statement .hostRead := no_word rfl
theorem hostWake : Statement .hostWake := no_word rfl
theorem supervisorSpaceRead : Statement .supervisorSpaceRead := no_word rfl
theorem supervisorSpaceWrite : Statement .supervisorSpaceWrite := no_word rfl
theorem getVersion : Statement .getVersion := no_word rfl
theorem getCapabilities : Statement .getCapabilities := no_word rfl
theorem negotiateAlgorithms : Statement .negotiateAlgorithms := no_word rfl
theorem getDigests : Statement .getDigests := no_word rfl
theorem getCertificate : Statement .getCertificate := no_word rfl
theorem challenge : Statement .challenge := no_word rfl
theorem getMeasurements : Statement .getMeasurements := no_word rfl
theorem keyExchange : Statement .keyExchange := no_word rfl
theorem finish : Statement .finish := no_word rfl
theorem endSession : Statement .endSession := no_word rfl
theorem keyInstall : Statement .keyInstall := no_word rfl
theorem enterOn : Statement .enterOn := no_word rfl
theorem enterStandby : Statement .enterStandby := no_word rfl
theorem enterOff : Statement .enterOff := no_word rfl
theorem setModuleCap : Statement .setModuleCap := no_word rfl
theorem powerOn : Statement .powerOn := no_word rfl
theorem belayRead : Statement .belayRead := no_word rfl
theorem belayWrite : Statement .belayWrite := no_word rfl
theorem belayAnswer : Statement .belayAnswer := no_word rfl
theorem belayEvent : Statement .belayEvent := no_word rfl
theorem illegalEncoding : Statement .illegalEncoding := no_word rfl
theorem instructionFetchFault : Statement .instructionFetchFault := no_word rfl
theorem evquietTimeout : Statement .evquietTimeout := no_word rfl
theorem alignTimeout : Statement .alignTimeout := no_word rfl
theorem resetDrainEnd : Statement .resetDrainEnd := no_word rfl
theorem contextSaveEnd : Statement .contextSaveEnd := no_word rfl
theorem bivouacEntered : Statement .bivouacEntered := no_word rfl
theorem wakeEnd : Statement .wakeEnd := no_word rfl
theorem refreshWindow : Statement .refreshWindow := no_word rfl
theorem softError : Statement .softError := no_word rfl
theorem coreMapRewrite : Statement .coreMapRewrite := no_word rfl
theorem pseudoChannelRemap : Statement .pseudoChannelRemap := no_word rfl
theorem recoveryImageWrite : Statement .recoveryImageWrite := no_word rfl

end Sys2Proof.Laws.RoundTrip
end

