-- ==== Sys2Proof/Tests/Slice0.lean ====
section
/-! SUPPORT. The model's own tests: ill-formed terms, words of every encoded instruction, worked results of the spec, and for every
statement states that meet its hypotheses. -/

set_option Elab.async false
set_option maxRecDepth 20000

namespace Sys2Proof.Machine

/-! ### Small states -/

/-- The state after reset with level L0 of core 0 as `f` makes it. -/
def lv0 (f : Lvl → Lvl) : State := State.reset.setCurLvl (f {})
/-- A level with some scalar registers. -/
def regs (l : List (Nat × Word)) : Lvl := l.foldl (fun (x : Lvl) e => x.wx (BitVec.ofNat 5 e.1) e.2) {}
/-- One step of the instruction `w` of `n` bits, placed where core 0 fetches, with those registers. -/
def ran (n w : Nat) (l : List (Nat × Word)) (p : State → Bool) : Bool :=
  match step ((State.reset.setCurLvl (regs l)).withFetchWord n w) with
  | .next t => p t
  | _ => false
/-- A scalar register of L0 of core 0. -/
def x0 (t : State) (r : XReg) : Word := (t.lvl 0 0).rx r
/-- A register's outstanding result at L0 of core 0. -/
def late0 (t : State) (r : Nat) : Option RVal := ((t.lvl 0 0).pend.find? fun e => e.reg == .x r).map Pend.val
/-- Core 0 run by virtual device 1 with L0 as `l`, in an activation, with the 64 KiB page at 0x10000 mapped to itself. -/
def mapped (l : Lvl) : State := (State.reset.setCurLvl l).withFetchWord 32 1

/-- Checks that pass, with something about their elements. -/
def Checked.passes (c : Checked) (p : List Placed → Bool) : Bool :=
  match c with
  | .ok ps => p ps
  | _ => false
def Checked.fails (c : Checked) : Bool :=
  match c with
  | .fail _ _ _ => true
  | _ => false
theorem Checked.passes_ok {c : Checked} {p : List Placed → Bool} (h : c.passes p = true) : ∃ ps, c = .ok ps ∧ p ps = true := by
  cases c <;> simp_all [Checked.passes]
theorem Checked.fails_fail {c : Checked} (h : c.fails = true) : ∃ n v a, c = .fail n v a := by
  cases c <;> simp_all [Checked.fails]
/-- An access that performs. -/
def Perf.goes (x : Perf) : Bool :=
  match x with
  | .done _ _ => true
  | _ => false
theorem Perf.goes_done {x : Perf} (h : x.goes = true) : ∃ v t, x = .done v t := by
  cases x <;> simp_all [Perf.goes]
theorem Checked.passes_one {c : Checked} (h : (c.passes fun ps => ps.length == 1) = true) : ∃ q, c = .ok [q] := by
  obtain ⟨ps, rfl, h⟩ := Checked.passes_ok h
  obtain ⟨q, rfl⟩ := List.length_eq_one_iff.mp (eq_of_beq h)
  exact ⟨q, rfl⟩
/-- Checks that miss a translation. -/
def Checked.misses (c : Checked) : Bool :=
  match c with
  | .wait _ => true
  | _ => false
theorem Checked.misses_wait {c : Checked} (h : c.misses = true) : ∃ ps, c = .wait ps := by
  cases c <;> simp_all [Checked.misses]
/-- An outcome of a translation and of a gate. -/
def Gate.opens (g : Gate) : Bool :=
  match g with
  | .go _ => true
  | _ => false
theorem Gate.opens_go {g : Gate} (h : g.opens = true) : ∃ t, g = .go t := by
  cases g <;> simp_all [Gate.opens]
/-- An activation of a level, of a launch and type. -/
def anAct (ty launch : Nat) (inbox : Bool) : Act := ⟨ty, launch, 0, 0, List.replicate 6 0, none, inbox⟩
theorem Checked.passes_some {c : Checked} (h : (c.passes fun _ => true) = true) : ∃ ps, c = .ok ps :=
  (Checked.passes_ok h).imp fun _ h => h.1

/-! ### Words of every encoded instruction, field by field from the encodings of R271 to R276, with a stall count -/

theorem test_decode_scalar_1 :
    decodeWord 0b0000000_00111_01110_10101_001100_001_1 = some (.padd 7 14 21) ∧
    decodeWord 0b0000001_00111_01110_10101_001100_100_1 = some (.psub 7 14 21) ∧
    decodeWord 0b0000010_00111_01110_10101_001100_111_1 = some (.ptag 7 14 21) ∧
    decodeWord 0b000001100000_01110_10101_001100_010_1 = some (.pget 14 21) ∧
    decodeWord 0b000010000000_01110_10101_001100_101_1 = some (.pstrip 14 21) ∧
    decodeWord 0b0000000_00111_01110_10101_000001_000_1 = some (.add 7 14 21) ∧
    decodeWord 0b0000001_00111_01110_10101_000001_011_1 = some (.sub 7 14 21) ∧
    decodeWord 0b0000010_00111_01110_10101_000001_110_1 = some (.and_ 7 14 21) ∧
    decodeWord 0b0000011_00111_01110_10101_000001_001_1 = some (.or_ 7 14 21) ∧
    decodeWord 0b0000100_00111_01110_10101_000001_100_1 = some (.xor_ 7 14 21) ∧
    decodeWord 0b0000101_00111_01110_10101_000001_111_1 = some (.shl 7 14 21) ∧
    decodeWord 0b0000110_00111_01110_10101_000001_010_1 = some (.shr 7 14 21) ∧
    decodeWord 0b0000111_00111_01110_10101_000001_101_1 = some (.sra 7 14 21) ∧
    decodeWord 0b0001000_00111_01110_10101_000001_000_1 = some (.rot 7 14 21) ∧
    decodeWord 0b0001001_00111_01110_10101_000001_011_1 = some (.slt 7 14 21) ∧
    decodeWord 0b0001010_00111_01110_10101_000001_110_1 = some (.sltn 7 14 21) := by
  decide

theorem test_decode_scalar_2 :
    decodeWord 0b0001011_00111_01110_10101_000001_001_1 = some (.min_ 7 14 21) ∧
    decodeWord 0b0001100_00111_01110_10101_000001_100_1 = some (.max_ 7 14 21) ∧
    decodeWord 0b0001101_00111_01110_10101_000001_111_1 = some (.minn 7 14 21) ∧
    decodeWord 0b0001110_00111_01110_10101_000001_010_1 = some (.maxn 7 14 21) ∧
    decodeWord 0b0001111_00111_01110_10101_000001_101_1 = some (.sel 7 14 21) ∧
    decodeWord 0b001000000000_01110_10101_000001_000_1 = some (.clz 14 21) ∧
    decodeWord 0b001000100000_01110_10101_000001_011_1 = some (.ctz 14 21) ∧
    decodeWord 0b001001000000_01110_10101_000001_110_1 = some (.popc 14 21) ∧
    decodeWord 0b001001100000_01110_10101_000001_001_1 = some (.brev 14 21) ∧
    decodeWord 0b000111101011_01110_10101_000010_100_1 = some (.addi 491 14 21) ∧
    decodeWord 0b000111101011_01110_10101_000011_111_1 = some (.andi 491 14 21) ∧
    decodeWord 0b000111101011_01110_10101_000100_010_1 = some (.ori 491 14 21) ∧
    decodeWord 0b000111101011_01110_10101_000101_101_1 = some (.xori 491 14 21) ∧
    decodeWord 0b000111101011_01110_10101_000110_000_1 = some (.slti 491 14 21) ∧
    decodeWord 0b000000_101011_01110_10101_000111_011_1 = some (.shli 43 14 21) ∧
    decodeWord 0b000001_101011_01110_10101_000111_110_1 = some (.shri 43 14 21) := by
  decide

theorem test_decode_scalar_3 :
    decodeWord 0b000010_101011_01110_10101_000111_001_1 = some (.srai 43 14 21) ∧
    decodeWord 0b000011_101011_01110_10101_000111_100_1 = some (.roti 43 14 21) ∧
    decodeWord 0b00111000111101011_10101_001000_111_1 = some (.lui 29163 21) ∧
    decodeWord 0b00111000111101011_10101_001001_010_1 = some (.addpc 29163 21) ∧
    decodeWord 0b101011_101011_0_1110_0_0101_001010_101_1 = some (.bxt 43 43 14 5) ∧
    decodeWord 0b101011_101011_0_1110_1_0101_001010_000_1 = some (.bxtn 43 43 14 5) ∧
    decodeWord 0b101011_101011_1_1110_0_0101_001010_011_1 = some (.bins 43 43 14 5) ∧
    decodeWord 0b0000000_00111_01110_10101_001011_110_1 = some (.mul 7 14 21) ∧
    decodeWord 0b0000001_00111_01110_10101_001011_001_1 = some (.mulh 7 14 21) ∧
    decodeWord 0b0000010_00111_01110_10101_001011_100_1 = some (.mulhn 7 14 21) ∧
    decodeWord 0b0000011_00111_01110_10101_001011_111_1 = some (.div 7 14 21) ∧
    decodeWord 0b0000100_00111_01110_10101_001011_010_1 = some (.divn 7 14 21) ∧
    decodeWord 0b0000101_00111_01110_10101_001011_101_1 = some (.rem 7 14 21) ∧
    decodeWord 0b0000110_00111_01110_10101_001011_000_1 = some (.remn 7 14 21) := by
  decide

theorem test_decode_control :
    decodeWord 0b111101011_000_00111_01110_001110_011_1 = some (.beq 491 7 14) ∧
    decodeWord 0b111101011_001_00111_01110_001110_110_1 = some (.bne 491 7 14) ∧
    decodeWord 0b111101011_010_00111_01110_001110_001_1 = some (.blt 491 7 14) ∧
    decodeWord 0b111101011_011_00111_01110_001110_100_1 = some (.bge 491 7 14) ∧
    decodeWord 0b111101011_100_00111_01110_001110_111_1 = some (.blo 491 7 14) ∧
    decodeWord 0b111101011_101_00111_01110_001110_010_1 = some (.bhs 491 7 14) ∧
    decodeWord 0b000111101011_00000_01110_001111_101_1 = some (.bz 491 14) ∧
    decodeWord 0b000111101011_00001_01110_001111_000_1 = some (.bnz 491 14) ∧
    decodeWord 0b0101100111000111101011_010000_011_1 = some (.j 1470955) ∧
    decodeWord 0b0101100111000111101011_010001_110_1 = some (.jal 1470955) ∧
    decodeWord 0b000111101011_01110_10101_010010_001_1 = some (.jalr 491 14 21) ∧
    decodeWord 0b000111101011_00000_01011_010011_100_1 = some (.loop 491 11) := by
  decide

theorem test_decode_system :
    decodeWord 0b0000000000000000000000000000_111_1 = some .nop ∧
    decodeWord 0b0000000000000000000001000000_010_1 = some .hintYield ∧
    decodeWord 0b0000000000000000000010000000_101_1 = some .hintAlign ∧
    decodeWord 0b0000000000000000000011000000_000_1 = some .done_ ∧
    decodeWord 0b000111101011_0000000100000000_011_1 = some (.trap 491) ∧
    decodeWord 0b0000000000000000000101000000_110_1 = some .tret ∧
    decodeWord 0b000111101011_0000000110000000_001_1 = some (.abort 491) ∧
    decodeWord 0b000000101100_10101_00111000000_100_1 = some (.mfcr 0x02C 21) ∧
    decodeWord 0b000000101100_01110_01000000000_111_1 = some (.mtcr 0x02C 14) ∧
    decodeWord 0b000000_101011_10101_01001000000_010_1 = some (.mfid 43 21) ∧
    decodeWord 0b000000000000_01110_01010000000_101_1 = some (.sleep 14) ∧
    decodeWord 0b000000000000_01110_01011000000_000_1 = some (.waitx 14) ∧
    decodeWord 0b0000_011_01110_10101_01100000000_011_1 = some (.lnch 3 14 21) ∧
    decodeWord 0b000000000_011_0000001101000000_110_1 = some (.slave 3) ∧
    decodeWord 0b0000000000000000001110000000_001_1 = some .unslave := by
  decide

theorem test_decode_memory_1 :
    decodeWord 0b1_010_010_01011_01110_10101_010100_100_1 = some (.ld true .d .acq 11 14 21) ∧
    decodeWord 0b1_011_011_01011_01110_10011_010101_111_1 = some (.st true .v .rel 11 14 19) ∧
    decodeWord 0b1_10_0_1_00_00111_01110_10101_010110_010_1 = some (.ldx true .sync true .b 7 14 21) ∧
    decodeWord 0b1_01_10_01_00111_01110_10011_010110_101_1 = some (.stx true .s .h 7 14 19) ∧
    decodeWord 0b1_010_010_00000_01110_10101_010111_000_1 = some (.ldfeFf true .d .acq 14 21) ∧
    decodeWord 0b1_011_100_00001_01110_10101_010111_011_1 = some (.ldfeFe true .v .ar 14 21) ∧
    decodeWord 0b1_100_011_00010_01110_10011_010111_110_1 = some (.stfeEf true .y .rel 14 19) ∧
    decodeWord 0b1_001_100_00011_01110_10011_010111_001_1 = some (.stfeXf true .k .ar 14 19) ∧
    decodeWord 0b1_010_011_00100_01110_10101_010111_100_1 = some (.feq true .d .rel 14 21) ∧
    decodeWord 0b1_011_011_00000_01110_10101_011000_111_1 = some (.amoAdd true .v .rel 14 21) ∧
    decodeWord 0b1_100_100_00001_01110_10101_011000_010_1 = some (.amoAnd true .y .ar 14 21) ∧
    decodeWord 0b1_001_001_00010_01110_10101_011000_101_1 = some (.amoOr true .k .s 14 21) ∧
    decodeWord 0b1_010_010_00011_01110_10101_011000_000_1 = some (.amoXor true .d .acq 14 21) ∧
    decodeWord 0b1_011_011_00100_01110_10101_011000_011_1 = some (.amoMin true .v .rel 14 21) ∧
    decodeWord 0b1_100_100_00101_01110_10101_011000_110_1 = some (.amoMax true .y .ar 14 21) ∧
    decodeWord 0b1_001_001_00110_01110_10101_011000_001_1 = some (.amoMinn true .k .s 14 21) := by
  decide

theorem test_decode_memory_2 :
    decodeWord 0b1_010_010_00111_01110_10101_011000_100_1 = some (.amoMaxn true .d .acq 14 21) ∧
    decodeWord 0b1_011_011_01000_01110_10101_011000_111_1 = some (.amoSwap true .v .rel 14 21) ∧
    decodeWord 0b1_100_100_01001_01110_10101_011000_010_1 = some (.amoCas true .y .ar 14 21) ∧
    decodeWord 0b1_001_001_01010_01110_10101_011000_101_1 = some (.amoFaddF32 true .k .s 14 21) ∧
    decodeWord 0b1_010_010_01011_01110_10101_011000_000_1 = some (.amoFmaxF32 true .d .acq 14 21) := by
  decide

theorem test_decode_ropes :
    decodeWord 0b0000_011_000000000000000011001_011_1 = some (.fence .v) ∧
    decodeWord 0b0001_100_000000000000000011001_110_1 = some (.fenceSc .y) ∧
    decodeWord 0b0010_001_0_1011_01110_10011_011001_001_1 = some (.fencef .k 11 14 19) ∧
    decodeWord 0b0011_1001_1101_0000000000011001_100_1 = some (.ropeFork 9 13) ∧
    decodeWord 0b0100_0110_1101_000000_1010_011001_111_1 = some (.ropeJoin 6 13 10) ∧
    decodeWord 0b0101_1001_000000000_10101_011001_010_1 = some (.ropeXfer 9 21) ∧
    decodeWord 0b01100000_1101_10011_00000011001_101_1 = some (.ropeAdopt 13 19) ∧
    decodeWord 0b01110000_1011_0000000000011001_000_1 = some (.ropeDrop 11) ∧
    decodeWord 0b10000000_1011_0000000000011001_011_1 = some (.ropeWait 11) := by
  decide

theorem test_decode_messages :
    decodeWord 0b1011_00000000_01110_00000011010_110_1 = some (.send 11 14) ∧
    decodeWord 0b1011_001_00111_01110_00000011010_001_1 = some (.sendc 11 7 14) ∧
    decodeWord 0b1011_010_00111_01110_00000011010_100_1 = some (.spawn 11 7 14) ∧
    decodeWord 0b1011_011_00111_01110_00000011010_111_1 = some (.aread 11 7 14) ∧
    decodeWord 0b0000100_00111_01110_00000011010_010_1 = some (.tbind 7 14) ∧
    decodeWord 0b1011_000_00111_01110_11010_011011_101_1 = some (.mcld 11 7 14 26) ∧
    decodeWord 0b1011_001_00111_01110_11010_011011_000_1 = some (.mcst 11 7 14 26) ∧
    decodeWord 0b0000010_00111_01110_00000011011_011_1 = some (.mcjoin 7 14) := by
  decide

theorem test_decode_shared_1 :
    decodeWord 0b1011_000_00111_01110_0_1011_011100_110_1 = some (.evpost 11 7 14 11) ∧
    decodeWord 0b1011_001_00111_01110_10101_011100_001_1 = some (.evposts 11 7 14 21) ∧
    decodeWord 0b1011_01000000_01110_00000011100_100_1 = some (.evcfg 11 14) ∧
    decodeWord 0b1011_011000000000000000011100_111_1 = some (.evflush 11) ∧
    decodeWord 0b000010000000_01110_10101_011100_010_1 = some (.evquiet 14 21) ∧
    decodeWord 0b000010100000_01110_10101_011100_101_1 = some (.evcount 14 21) ∧
    decodeWord 0b101011_0000000000000000011101_000_1 = some (.gjoin 43) ∧
    decodeWord 0b101011_0000010000000000011101_011_1 = some (.gleave 43) ∧
    decodeWord 0b101011_00001000000_10101_011101_110_1 = some (.gbar 43 21) ∧
    decodeWord 0b101011_00001100000_10101_011101_001_1 = some (.gcount 43 21) ∧
    decodeWord 0b0000000_01011_01110_00000011110_100_1 = some (.pref 11 14) ∧
    decodeWord 0b0000001_01011_01110_00000011110_111_1 = some (.cflush 11 14) ∧
    decodeWord 0b0000010_01011_01110_00000011110_010_1 = some (.cinv 11 14) ∧
    decodeWord 0b000001100000_01110_00000011110_101_1 = some (.tlbinv 14) ∧
    decodeWord 0b0000011000000000000001011110_000_1 = some .tlbinvAll ∧
    decodeWord 0b000010000000_01110_00000011110_011_1 = some (.tlbinvB 14) := by
  decide

theorem test_decode_shared_2 :
    decodeWord 0b0000100000000000000001011110_110_1 = some .tlbinvBAll := by
  decide

theorem test_decode_vector_a :
    decodeWord 0b0_101_110110_100011_101100_100000_001_1 = some (.vaddF 5 54 35 44) ∧
    decodeWord 0b1_101_110110_100011_101100_100000_100_1 = some (.vsubF 5 54 35 44) ∧
    decodeWord 0b0_101_110110_100011_101100_100001_111_1 = some (.vmulF 5 54 35 44) ∧
    decodeWord 0b0_101_110110_100011_101100_100010_010_1 = some (.vfmaF 5 54 35 44) ∧
    decodeWord 0b1_101_110110_100011_101100_100010_101_1 = some (.vfmsF 5 54 35 44) ∧
    decodeWord 0b0_101_110110_100011_101100_100011_000_1 = some (.vminF 5 54 35 44) ∧
    decodeWord 0b1_101_110110_100011_101100_100011_011_1 = some (.vmaxF 5 54 35 44) := by
  decide

theorem test_decode_vector_b_1 :
    decodeWord 0b0_101_110110_100011_101100_100100_110_1 = some (.vaddI 5 54 35 44) ∧
    decodeWord 0b1_101_110110_100011_101100_100100_001_1 = some (.vsubI 5 54 35 44) ∧
    decodeWord 0b0_101_110110_100011_101100_100101_100_1 = some (.vmulI 5 54 35 44) ∧
    decodeWord 0b1_101_110110_100011_101100_100101_111_1 = some (.vmulhI 5 54 35 44) ∧
    decodeWord 0b0_101_110110_100011_101100_100110_010_1 = some (.vminI 5 54 35 44) ∧
    decodeWord 0b1_101_110110_100011_101100_100110_101_1 = some (.vmaxI 5 54 35 44) ∧
    decodeWord 0b0_101_110110_100011_101100_100111_000_1 = some (.vminn 5 54 35 44) ∧
    decodeWord 0b1_101_110110_100011_101100_100111_011_1 = some (.vmaxn 5 54 35 44) ∧
    decodeWord 0b0_101_110110_100011_101100_101000_110_1 = some (.vand 5 54 35 44) ∧
    decodeWord 0b1_101_110110_100011_101100_101000_001_1 = some (.vandn 5 54 35 44) ∧
    decodeWord 0b0_101_110110_100011_101100_101001_100_1 = some (.vor 5 54 35 44) ∧
    decodeWord 0b1_101_110110_100011_101100_101001_111_1 = some (.vxor 5 54 35 44) ∧
    decodeWord 0b0_101_110110_100011_101100_101010_010_1 = some (.vshl 5 54 35 44) ∧
    decodeWord 0b1_101_110110_100011_101100_101010_101_1 = some (.vshr 5 54 35 44) ∧
    decodeWord 0b0_101_110110_100011_101100_101011_000_1 = some (.vsra 5 54 35 44) ∧
    decodeWord 0b1_101_110110_100011_101100_101011_011_1 = some (.vrot 5 54 35 44) := by
  decide

theorem test_decode_vector_b_2 :
    decodeWord 0b0_101_110110_100011_101100_101100_110_1 = some (.vsel 5 54 35 44) ∧
    decodeWord 0b0_101_110110_100011_101100_101101_001_1 = some (.vmacI 5 54 35 44) ∧
    decodeWord 0b0000000_101_100011_101100_110000_100_1 = some (.vcpy 5 35 44) ∧
    decodeWord 0b0000001_101_100011_101100_110000_111_1 = some (.vnegF 5 35 44) ∧
    decodeWord 0b0000010_101_100011_101100_110000_010_1 = some (.vabsF 5 35 44) ∧
    decodeWord 0b0000011_101_100011_101100_110000_101_1 = some (.vsqrtF 5 35 44) ∧
    decodeWord 0b0000100_101_100011_101100_110000_000_1 = some (.vnot 5 35 44) ∧
    decodeWord 0b0000101_101_100011_101100_110000_011_1 = some (.vnegI 5 35 44) ∧
    decodeWord 0b0000110_101_100011_101100_110000_110_1 = some (.vabsI 5 35 44) ∧
    decodeWord 0b0000111_101_100011_101100_110000_001_1 = some (.vclz 5 35 44) ∧
    decodeWord 0b0001000_101_100011_101100_110000_100_1 = some (.vpopc 5 35 44) ∧
    decodeWord 0b0010000_101_100011_101100_110000_111_1 = some (.vcvtFI 5 35 44) ∧
    decodeWord 0b0010001_101_100011_101100_110000_010_1 = some (.vcvtFN 5 35 44) ∧
    decodeWord 0b0010010_101_100011_101100_110000_101_1 = some (.vcvtIF 5 35 44) ∧
    decodeWord 0b0011000_101_100011_101100_110000_000_1 = some (.vnarBf16 5 35 44) ∧
    decodeWord 0b0011001_101_100011_101100_110000_011_1 = some (.vnarFp16 5 35 44) := by
  decide

theorem test_decode_vector_b_3 :
    decodeWord 0b0011010_101_100011_101100_110000_110_1 = some (.vnarE4m3 5 35 44) ∧
    decodeWord 0b0011011_101_100011_101100_110000_001_1 = some (.vnarE5m2 5 35 44) ∧
    decodeWord 0b0011100_101_100011_101100_110000_100_1 = some (.vnarE2m1 5 35 44) ∧
    decodeWord 0b0011101_101_100011_101100_110000_111_1 = some (.vnarI8 5 35 44) ∧
    decodeWord 0b0_101_110110_100011_000_110_110001_010_1 = some (.vcmpFEq 5 54 35 6) ∧
    decodeWord 0b0_101_110110_100011_001_110_110001_101_1 = some (.vcmpFNe 5 54 35 6) ∧
    decodeWord 0b0_101_110110_100011_010_110_110001_000_1 = some (.vcmpFLt 5 54 35 6) ∧
    decodeWord 0b0_101_110110_100011_011_110_110001_011_1 = some (.vcmpFLe 5 54 35 6) ∧
    decodeWord 0b0_101_110110_100011_100_110_110001_110_1 = some (.vcmpFUn 5 54 35 6) ∧
    decodeWord 0b1_101_110110_100011_000_110_110001_001_1 = some (.vcmpIEq 5 54 35 6) ∧
    decodeWord 0b1_101_110110_100011_001_110_110001_100_1 = some (.vcmpINe 5 54 35 6) ∧
    decodeWord 0b1_101_110110_100011_010_110_110001_111_1 = some (.vcmpILt 5 54 35 6) ∧
    decodeWord 0b1_101_110110_100011_011_110_110001_010_1 = some (.vcmpILe 5 54 35 6) ∧
    decodeWord 0b1_101_110110_100011_100_110_110001_101_1 = some (.vcmpILo 5 54 35 6) ∧
    decodeWord 0b1_101_110110_100011_101_110_110001_000_1 = some (.vcmpILs 5 54 35 6) := by
  decide

theorem test_decode_vector_memory :
    decodeWord 0b1_01_00_101_000_01110_101100_110010_011_1 = some (.vld true .s 5 14 44) ∧
    decodeWord 0b00001_101_00_100011_101100_110010_001_1 = some (.vldLs 5 35 44) ∧
    decodeWord 0b1_10_00_101_000_01110_101100_110011_110_1 = some (.vst true .sync 5 14 44) ∧
    decodeWord 0b00001_101_00_100011_101100_110011_100_1 = some (.vstLs 5 35 44) ∧
    decodeWord 0b1_0_101_110110_01110_101100_110100_111_1 = some (.vgath true 5 54 14 44) ∧
    decodeWord 0b1_1_101_110110_01110_101100_110100_010_1 = some (.vscat true 5 54 14 44) ∧
    decodeWord 0b000000000000_01110_101_00110101_101_1 = some (.tmld 14 5) ∧
    decodeWord 0b00100000_1011_00000_101_11_110101_000_1 = some (.sopen 11 5 3) ∧
    decodeWord 0b01000000000000000000_11_110101_011_1 = some (.sclose 3) ∧
    decodeWord 0b011000000000_10101_000_11_110101_110_1 = some (.sstat 21 3) := by
  decide

theorem test_decode_vector_c_1 :
    decodeWord 0b0000000000000_100_011_110_110110_001_1 = some (.pand 4 3 6) ∧
    decodeWord 0b0001000000000_100_011_110_110110_100_1 = some (.por 4 3 6) ∧
    decodeWord 0b0010000000000_100_011_110_110110_111_1 = some (.pxor 4 3 6) ∧
    decodeWord 0b0011000000000000_011_110_110110_010_1 = some (.pnot 3 6) ∧
    decodeWord 0b01000000_10101_000_011_000110110_101_1 = some (.pcnt 21 3) ∧
    decodeWord 0b01010000_10101_000_011_000110110_000_1 = some (.pfirst 21 3) ∧
    decodeWord 0b01100000_10011_000000_110_110110_011_1 = some (.pset 19 6) ∧
    decodeWord 0b01110000_10101_000_011_000110110_110_1 = some (.pgetPredicate 21 3) ∧
    decodeWord 0b0000000_101_100011_0_10101_110111_001_1 = some (.vraddF 5 35 21) ∧
    decodeWord 0b0000001_101_100011_0_10101_110111_100_1 = some (.vrmaxF 5 35 21) ∧
    decodeWord 0b0000010_101_100011_0_10101_110111_111_1 = some (.vrminF 5 35 21) ∧
    decodeWord 0b0000011_101_100011_0_10101_110111_010_1 = some (.vraddI 5 35 21) ∧
    decodeWord 0b0000100_101_100011_0_10101_110111_101_1 = some (.vrmaxI 5 35 21) ∧
    decodeWord 0b0000101_101_100011_0_10101_110111_000_1 = some (.vrminI 5 35 21) ∧
    decodeWord 0b0000110_101_100011_0_10101_110111_011_1 = some (.vrand 5 35 21) ∧
    decodeWord 0b0000111_101_100011_0_10101_110111_110_1 = some (.vror 5 35 21) := by
  decide

theorem test_decode_vector_c_2 :
    decodeWord 0b0001000_101_100011_0_10101_110111_001_1 = some (.vrxor 5 35 21) ∧
    decodeWord 0b00000000000_10011_101100_111000_100_1 = some (.vbcast 19 44) ∧
    decodeWord 0b0001_101011_100011_0_10101_111000_111_1 = some (.vext 43 35 21) ∧
    decodeWord 0b0010_101011_0_10011_101100_111000_010_1 = some (.vins 43 19 44) ∧
    decodeWord 0b0011_110110_100011_101100_111000_101_1 = some (.vperm 54 35 44) ∧
    decodeWord 0b0100_101011_100011_101100_111000_000_1 = some (.vslideUp 43 35 44) ∧
    decodeWord 0b0101_101011_100011_101100_111000_011_1 = some (.vslideDn 43 35 44) ∧
    decodeWord 0b0110000000000000_101100_111000_110_1 = some (.viota 44) ∧
    decodeWord 0b0000000_101_100011_101100_111001_001_1 = some (.vfexp2 5 35 44) ∧
    decodeWord 0b0000001_101_100011_101100_111001_100_1 = some (.vrint 5 35 44) ∧
    decodeWord 0b0000010_101_100011_101100_111001_111_1 = some (.vexpi 5 35 44) ∧
    decodeWord 0b0000011_101_100011_101100_111001_010_1 = some (.vexpx 5 35 44) ∧
    decodeWord 0b0000100_101_100011_101100_111001_101_1 = some (.vrcp 5 35 44) ∧
    decodeWord 0b0000101_101_100011_101100_111001_000_1 = some (.vrsq 5 35 44) := by
  decide

theorem test_decode_matrix :
    decodeWord 0b000000_101011_00000_10101_111010_011_1 = some (.mxq 43 21) ∧
    decodeWord 0b000100000000_01110_00000111010_110_1 = some (.mxwait 14) ∧
    decodeWord 0b00100000000000000_10101_111010_001_1 = some (.mxstat 21) ∧
    decodeWord 0b00100100000000000_10101_111010_100_1 = some (.mxstatC 21) ∧
    decodeWord 0b00000000_1011_0000000000111011_111_1 = some (.rackTake 11) ∧
    decodeWord 0b00010000_1011_0000000000111011_010_1 = some (.rackGive 11) ∧
    decodeWord 0b00100000000000000_10101_111011_101_1 = some (.rackQry 21) := by
  decide

theorem test_decode_compact :
    decodeWord 0b1011_1011_0000_000_0 = some (.cMv 11 11) ∧
    decodeWord 0b1011_1011_0001_011_0 = some (.cAdd 11 11) ∧
    decodeWord 0b1011_1011_0010_110_0 = some (.cSub 11 11) ∧
    decodeWord 0b1011_1011_0011_001_0 = some (.cAddi 11 11) ∧
    decodeWord 0b1011_1011_0100_100_0 = some (.cLi 11 11) ∧
    decodeWord 0b1011_1011_0101_111_0 = some (.cLd 11 11) ∧
    decodeWord 0b1011_1011_0110_010_0 = some (.cSt 11 11) ∧
    decodeWord 0b1011_1011_0111_101_0 = some (.cAnd 11 11) ∧
    decodeWord 0b1011_1011_1000_000_0 = some (.cOr 11 11) ∧
    decodeWord 0b1011_1011_1001_011_0 = some (.cShli 11 11) ∧
    decodeWord 0b1011_1011_1010_110_0 = some (.cShri 11 11) ∧
    decodeWord 0b1011_1011_1011_001_0 = some (.cBnz 11 11) ∧
    decodeWord 0b11101011_1100_100_0 = some (.cJ 235) ∧
    decodeWord 0b000000001101_111_0 = some .cDone ∧
    decodeWord 0b000000001110_010_0 = some .cYield ∧
    decodeWord 0b0000_1011_1111_101_0 = some (.ropePrefix 11) := by
  decide

/-! ### States that meet the hypotheses of the statements -/

/-- A word at the fetch address of core 0, whose issue is the next turn; the turn taken off, and its pages asked for. -/
def fetching (w : Nat) : State := State.reset.withFetchWord 48 w
def fetched (w : Nat) : State := ({ fetching w with agenda := [] }).askFetches 0 0 0
/-- What an instruction's fetch uses. -/
def Fetched.uses (f : Fetched) : List ParcelUse :=
  match f with
  | .instr _ _ _ u => u
  | _ => []
/-- What that core fetches. -/
def fetchedWord (w : Nat) : Fetched := (fetched w).fetch 0 ((fetched w).lvl 0 0)

/-- ADDI x6, x10, 8; the prefix of rp3 with LD x5, [x10]; a reserved major; an address beyond mapped space. -/
theorem witness_StepRunsDecoded :
    (fetching 0x00851825).agenda = [.issue 0 0 0] ∧ ({ fetching 0x00851825 with agenda := [] }).coreIssues (coreKey 0 0 0) = true ∧
    (fetched 0x00851825).pickLevel 0 = some 0 ∧
    (∃ fills, fetchedWord 0x00851825 = .instr 0x00851825 none (.addi 8 10 6) fills ∧
      ((fetched 0x00851825).beginIssue ⟨0, 0, 0, 0⟩ 0x00851825 fills).curLvl.stallShort (.addi 8 10 6) (fetched 0x00851825).free = none) ∧
    (∃ w fills, fetchedWord 0xB205154103F0 = .instr w (some 3) (.ld true .v .s 0 10 5) fills ∧
      ((fetched 0xB205154103F0).beginIssue ⟨0, 0, 0, 0⟩ w fills).curLvl.stallShort (.ld true .v .s 0 10 5) (fetched 0xB205154103F0).free = none) ∧
    fetchedWord 0x000000D1 = .illegal 0x000000D1 ∧
    (∃ c v a, (fetched 0).fetch 0 { fetchLevel {} with pc := 2 ^ 56 } = .fail c v a) := by
  refine ⟨rfl, rfl, by decide, ?_, ?_, by decide, ?_⟩
  · exact ⟨(fetchedWord 0x00851825).uses, by decide, by decide⟩
  · exact ⟨0x03F0B2051541, (fetchedWord 0xB205154103F0).uses, by decide, by decide⟩
  · exact ⟨_, _, _, rfl⟩
/-- Results of x10 and of p7 that are still short of credit, and one of x10 that is due in the coming cycle. -/
def shortOf (check : Word) : Lvl :=
  { stallchk := check, pend := [⟨.x 10, .word 5, 4, 3⟩, ⟨.x 10, .word 6, 6, 1⟩, ⟨.p 7, .word 1, 2, 0⟩] }
/-- ADDI x6, x10, 8 reads x10, which is short of credit; without the check it reads what x10 holds; results that come due, and not. -/
theorem witness_StepRunsDecoded_short : ∀ n,
    (shortOf 1).stallShort (.addi 8 10 6) n = some (BitVec.ofNat 64 (Reg.x 10).code) ∧ (shortOf 0).stallShort (.addi 8 10 6) n = none ∧
    (∀ q ∈ (Instr.uses (.addi 8 10 6)).1 ++ (Instr.uses (.addi 8 10 6)).2, ((shortOf 1).reach q).isSome) ∧
    (Reg.x 10 ∈ (Instr.uses (.addi 8 10 6)).1 ∧ ∃ e ∈ (shortOf 1).pend, some e.reg = (shortOf 1).reach (.x 10)) ∧
    ((fetched 0).lvl 0 0).act.isSome ∧ ((fetched 0).lvl 0 0).again = false ∧
    (∀ e ∈ (shortOf 0).pend, (∀ m, e.reg = .x m → m < 32) ∧ ∀ m, e.reg = .p m → m < 8) ∧
    (⟨.x 10, .word 5, 4, 3⟩ : Pend).lam ≤ 3 + (1 + stallOf 0x00851825) ∧ ¬ (⟨.x 10, .word 6, 6, 1⟩ : Pend).lam ≤ 1 + (1 + stallOf 0x00851825) := by
  intro n
  refine ⟨?_, rfl, by decide, by decide, by decide, by decide, ?_, by decide⟩
  · have h : (shortOf 1).shortReads (.addi 8 10 6) = [.x 10] := by decide
    have c : (shortOf 1).stallchk.getLsbD 0 = true := by decide
    simp only [Lvl.stallShort, h, c, if_true, List.length_singleton, Nat.mod_one]
    rfl
  · intro e he
    simp only [shortOf, List.mem_cons, List.not_mem_nil, or_false] at he
    rcases he with rfl | rfl | rfl <;> simp

theorem witness_FetchReadsCode :
    let s := fetching 0x00851825
    let l := s.lvl 0 0
    l.inInbox = false ∧ (∀ i, i < 2 → (l.pc + BitVec.ofNat 64 (2 * i)).toNat < 2 ^ 56 ∧ s.populated (0x10000 + 2 * i) = true ∧
      s.isBad (0x10000 + 2 * i) = false ∧ s.memWaits (s.core 0).owner (0x10000 + 2 * i) = false ∧ s.owed (0x10000 + 2 * i) 2 = false ∧
      (s.clu (keyCluster 0)).icache.find? (fun e => e.1 == ((s.core 0).owner, 0x10000 + 2 * i)) = none) ∧
    (∀ i, i < 2 → ∃ mt e,
      s.xlate (s.core 0).tlb l.xl (s.core 0).owner (l.pc + BitVec.ofNat 64 (2 * i)).toNat permX = .ok (0x10000 + 2 * i) mt e) ∧
    isLong (s.peek 0x10000 2) = true ∧ decodeWord (s.peek 0x10000 2 + s.peek 0x10002 2 * 2 ^ 16) = some (.addi 8 10 6) ∧
    Instr.ropeSel (.addi 8 10 6) ≠ some true ∧
    (isLong 0xA550 = false ∧ isPrefix 0xA550 = false ∧ decodeWord 0xA550 = some (.cLd 10 5)) ∧
    (isLong 0 = false ∧ isPrefix 0 = false ∧ decodeWord 0 = none) ∧ (isLong 0x00D1 = true ∧ decodeWord 0x000000D1 = none) := by
  refine ⟨by decide, by decide, ?_, by decide⟩
  intro i hi
  match i with
  | 0 => exact ⟨_, _, rfl⟩
  | 1 => exact ⟨_, _, rfl⟩
  | n + 2 => omega

theorem witness_DecodeEncode :
    (Instr.addi 8 10 6).encoded = true ∧ (Instr.addi 8 10 6).wellFormed = true ∧ ¬ Instr.addi 8 10 6 = .cMv 0 0 := by decide
theorem witness_DecodeIsEncoding : 0x00851825 < 2 ^ (8 * wordBytes 0x00851825) ∧ decodeWord 0x00851825 = some (.addi 8 10 6) := by decide
theorem witness_MemoryStaysCanonical : (fetching 0x00851825).mem.wf = true ∧ (∃ t, step (fetching 0x00851825) = .next t) := by
  exact ⟨by decide, _, rfl⟩
/-- A candidate list of units that exist: whichever is chosen exists. -/
theorem choose_ok {s : State} (h : ∀ t ∈ s.candidates, t.ok = true) : s.choose.ok = true := by
  unfold State.choose
  rw [List.getD_eq_getElem?_getD]
  cases hc : s.candidates[Config.freeNat s.free % s.candidates.length]? with
  | none => rfl
  | some t => exact h t (List.mem_of_getElem? hc)
theorem witness_EveryInstructionAnswers :
    ((fetching 0x00851825).agenda ≠ [] ∧ ∀ t rest, (fetching 0x00851825).agenda = t :: rest → t.ok = true) ∧
    (State.reset.agenda = [] ∧ ({ State.reset with free := State.reset.free + 1 } : State).choose.ok = true) := by
  refine ⟨⟨by decide, fun t rest h => ?_⟩, rfl, choose_ok (by decide)⟩
  injection h with h _; subst h; decide

/-- A width of 5 at bit 60, which is clipped to 4 bits, and a width of 0. -/
theorem witness_BitFields : 0 < min (5 : BitVec 6).toNat (64 - (60 : BitVec 6).toNat) ∧ (0 : BitVec 6).toNat = 0 := by decide

def most : State := lv0 fun _ => regs [(6, 0x8000000000000000), (7, -1), (8, 3)]
theorem witness_MultiplyDivide :
    most.curLvl.rx 0 = 0 ∧ ((most.curLvl.rx 6).toInt = -2 ^ 63 ∧ most.curLvl.rx 7 = -1) ∧ most.curLvl.rx 8 ≠ 0 ∧
    ¬ ((most.curLvl.rx 6).toInt = -2 ^ 63 ∧ most.curLvl.rx 8 = -1) := by decide

/-- The first and the last address of a pointer, moved by 0 and 1. -/
def ends : State := lv0 fun _ => regs [(6, 0x6400000000000000), (7, 0x65FFFFFFFFFFFFFF), (8, 1)]
theorem witness_Pointers :
    let at_ := fun (r : XReg) => (((ends.curLvl.rx r).toNat % 2 ^ 57 : Nat) : Int)
    let d := (ends.curLvl.rx 8).toInt
    (0 ≤ at_ 6 + d ∧ at_ 6 + d < 2 ^ 57) ∧ (0 ≤ at_ 7 - d ∧ at_ 7 - d < 2 ^ 57) ∧ 2 ^ 57 ≤ at_ 7 + d ∧ at_ 6 - d < 0 := by decide


/-- A jump target that is odd, in the inbox code, beyond it, and the last instruction of mapped space. -/
def jumps : State := lv0 fun _ => regs [(6, 1), (7, 0x8000000000000000), (8, 0x8000000000000200), (9, 0xFFFFFFFFFFFFFE), (10, 2 ^ 56)]
theorem witness_JumpsAndLinks :
    let inbox := fun (v : Word) => v.getLsbD 63 = true ∧ v.toNat / 2 ^ 9 % 2 ^ 54 = 0
    let t := fun (r : XReg) => jumps.curLvl.rx r + (0 : BitVec 12).signExtend 64
    let hasCode := fun (l : Lvl) => ∃ a c, l.act = some a ∧ a.code = some c
    (t 6).getLsbD 0 = true ∧ ((t 7).getLsbD 0 = false ∧ inbox (t 7)) ∧ ¬ hasCode jumps.curLvl ∧
    hasCode { jumps.curLvl with act := some { anAct 0 0 true with code := some [0] } } ∧
    ((t 8).getLsbD 0 = false ∧ ¬ inbox (t 8) ∧ 2 ^ 56 ≤ (t 8).toNat) ∧ ((t 10).getLsbD 0 = false ∧ ¬ inbox (t 10) ∧ 2 ^ 56 ≤ (t 10).toNat) ∧
    ((t 9).getLsbD 0 = false ∧ (t 9).toNat < 2 ^ 56) := by
  refine ⟨by decide, by decide, ?_, ⟨_, _, rfl, rfl⟩, by decide⟩
  rintro ⟨a, c, h, -⟩
  rw [show jumps.curLvl.act = none by decide] at h
  exact absurd h (by simp)
theorem witness_LoopRotates :
    ({ lcount := 0x100000000 } : Lvl).lcount.toNat % 2 ^ 32 = 0 ∧ 0 < ({ lcount := 1, rbase := 0x11F } : Lvl).lcount.toNat % 2 ^ 32 ∧
    ({ lcount := 1, rbase := 0x11F } : Lvl).rbase.getLsbD 8 = true ∧ ({ rbase := 0x01F } : Lvl).rbase.getLsbD 8 = false := by decide
/-- Core 1 follows core 0 at L0 and has lost it. -/
def aFollower : State := State.reset.setLvl 1 0 { follow := some ⟨0, false, 0, []⟩ }
theorem witness_HintsAndWaits :
    State.reset.detached State.reset.curKey 0 = false ∧
    (∃ s : State, s.detached s.curKey s.cur.lev = true) ∧
    ((lv0 fun l => { l with wait := .align 0 }).lvl 0 0).wait = .align 0 ∧ 0 ≤ State.reset.now ∧
    ((lv0 fun l => { l with wait := .sleep 0 }).lvl 0 0).wait = .sleep 0 ∧ ends.curLvl.rx 8 ≠ 0 ∧ ends.curLvl.rx 1 = 0 ∧
    (ends.curLvl.rx 1).toNat ≤ ends.curCore.chan.done.toNat ∧ ends.curCore.chan.done.toNat < (ends.curLvl.rx 8).toNat ∧
    activeOf (State.reset.clu (keyCluster State.reset.curKey)) State.reset.cur.slot ≠ some (1 : BitVec 3).toNat ∧
    activeOf (State.reset.clu (keyCluster State.reset.curKey)) State.reset.cur.slot = some (0 : BitVec 3).toNat := by
  refine ⟨by decide, ⟨aFollower, by decide⟩, by decide⟩
/-- A level whose trap a handler would take. -/
def trapping : State :=
  (lv0 fun l => { l with act := some (anAct 0 1 false), word := 0x00000001 }).updCore 0 fun c => { c with disp := [(5, { v := true })] }
/-- The handler of L1's trap, at L3. -/
def handling : State :=
  let s : State := { State.reset with cur := ⟨0, 0, 0, 3⟩ }
  (s.setLvl 0 3 { act := some { anAct 5 1 false with slot := 17 } }).setLvl 0 1
    { act := some (anAct 0 1 false), wait := .trapped, trap := some ⟨[0, 0, 0, 0], 0x40, 0, true, false⟩ }
theorem witness_TrapsByProgram :
    (trapping.cur.lev ≠ 3 ∧ (∃ a, trapping.curLvl.act = some a ∧ a.ty ≠ 5) ∧ (AMap.get trapping.curCore.disp {} 5).v = true) ∧
    ¬ (AMap.get State.reset.curCore.disp {} 5).v = true ∧ (handling.cur.lev = 3 ∧ handling.curCore.forwarded = some 1) ∧
    handling.curLvl.trappc.getLsbD 0 = false ∧ ({ handling.curLvl with trappc := 3 } : Lvl).trappc.getLsbD 0 = true ∧
    State.reset.cur.lev ≠ 3 ∧ (∃ c v a, State.reset.fetch State.reset.curKey { State.reset.curLvl with pc := 2 ^ 56 } = .fail c v a) := by
  refine ⟨⟨by decide, ⟨anAct 0 1 false, by decide⟩, by decide⟩, by decide, by decide, by decide, by decide, by decide, _, _, _, rfl⟩
theorem witness_DoneEnds :
    ({ inlineN := 16 } : Lvl).inlineN ≠ 0 ∧ ((regs [(1, 3)]).rx 1).getLsbD 0 = true ∧ ((regs [(1, 2)]).rx 1).getLsbD 0 = false ∧
    (trapping.curLvl.inlineN = 0 ∧ trapping.cur.lev ≠ 3) ∧
    trapping.curLvl.act = some (anAct 0 1 false) ∧ (anAct 0 1 false).slot < trapping.curCore.slots.length ∧
    (handling.curLvl.inlineN = 0 ∧ handling.cur.lev = 3 ∧ handling.curCore.forwarded = some 1) := by decide
/-- A virtual device of one cluster with launch 1 active. -/
def aVd : VDev := { fetchVd State.reset with launches := [⟨1, 0, 0, List.replicate 8 0, [], none, 0, 0, false⟩] }
/-- The trapping level run by that virtual device. -/
def owned : State := ({ trapping with vds := [(1, aVd)] }).updCore 0 fun c => { c with owner := 1 }
theorem witness_FaultsAndHandlers :
    (owned.lvl 0 0).act = some (anAct 0 1 false) ∧ (owned.lvl 0 0).trap = none ∧ (owned.core 0).forwarded = none ∧
    owned.vdev? (owned.core 0).owner = some aVd ∧ (anAct 0 1 false).launch ≠ 0 ∧
    (aVd.launches.any fun j => j.id == (anAct 0 1 false).launch) = true ∧ aVd.iso (anAct 0 1 false).launch = false ∧
    (owned.lvl 0 0).trapcause.toNat % 2 ^ 8 ≠ 0x0F ∧ trappable 0x03 = true ∧ trappable 0x0F = false := by decide

/-- Registers at the ends of the ranges that the control registers take, and pointers to mapped words. -/
def crs : State := mapped (regs [(5, 0xE1F), (6, 0xE60), (7, 0x1F), (8, 0x10FF), (9, 0x4FFFFFFFF), (10, 0x10000), (11, 0x10001), (12, 0x1000000),
  (13, 0x2000000000010000), (14, 0x2000000000010008), (15, 0x2000000001000000), (16, 0x2111), (17, 0x0FF1), (18, 16), (19, 17)])
/-- The same with the page denied to everyone. -/
def denied : State := crs.updCore 0 fun c => { c with tlb := [⟨1, 1, 16, 0x10000, 0x10000, (4, 0), (4, 0), 0⟩] }
/-- The level owes the flags of a collection that is still to come. -/
def owingFlags : State := crs.updCore 0 fun c => { c with colls := [⟨6, 0, 0, 0, 0, 1, [], .vstore .f32 VReg.zero 0 [], none, []⟩] }
theorem witness_ControlRegisterReads : crs.flagsDue = none ∧ owingFlags.flagsDue = some 6 ∧ crs.vdev? crs.curVd = some (fetchVd State.reset) ∧
    State.reset.vdev? State.reset.curVd = none ∧
    crAssigned (0x016 : BitVec 12).toNat = false ∧ crAssigned (0xFFF : BitVec 12).toNat = false := by decide
theorem witness_ControlRegisterWrites :
    let v := fun (r : XReg) => (crs.curLvl.rx r).toNat
    IsMtcr (.mtcr 0x000 5) crs 0x000 5 ∧ IsMtcr .fcrWrite { crs with arg := { reg := 5 } } 0x000 5 ∧
    IsMtcr .controlRegisterWrite { crs with arg := { reg := 5, cr := 0x009 } } 0x009 5 ∧
    (v 5 < 2 ^ 12 ∧ v 5 / 2 ^ 5 % 4 = 0 ∧ crs.flagsDue = none) ∧ v 0 < 2 ∧ v 7 < 2 ^ 11 ∧ (v 7 < 2 ^ 9 ∧ v 7 / 2 ^ 5 % 8 = 0) ∧ v 8 < 2 ^ 32 ∧
    (0x020 ≤ (0x022 : BitVec 12).toNat ∧ (0x022 : BitVec 12).toNat ≤ 0x029) ∧ (v 18 < 2 ^ 16 ∧ v 18 / 2 % 2 ^ 11 = 8 ∧ v 0 / 2 % 2 ^ 11 = 0) ∧
    crAssigned (0x016 : BitVec 12).toNat = false ∧ 2 ^ 12 ≤ v 8 ∧ 2 ≤ v 7 ∧ 2 ^ 11 ≤ v 5 ∧ v 6 / 2 ^ 5 % 8 ≠ 0 ∧ 2 ^ 32 ≤ v 9 ∧
    v 6 / 2 ^ 5 % 4 ≠ 0 ∧ 2 ^ 9 ≤ v 8 ∧ 2 ^ 16 ≤ v 9 ∧ v 17 / 2 % 2 ^ 11 ≠ 0 ∧ owingFlags.flagsDue = some 6 := by
  refine ⟨.inl rfl, .inr ⟨rfl, .inl ⟨rfl, rfl⟩⟩, .inr ⟨rfl, ?_⟩, by decide⟩
  exact .inr (.inr (.inr (.inr (.inr (by decide)))))
theorem witness_TableAndRackWrites :
    let v := fun (r : XReg) => crs.curLvl.rx r
    IsMtcr (.mtcr 0x014 10) crs 0x014 10 ∧
    ((v 10).toNat < 2 ^ 56 ∧ (v 10).toNat % 2 ^ 12 = 0 ∧ ∃ ps, crs.checkCur false (wordEls (v 10) 64) = .ok ps ∧
      crs.curCore.ropeRoom crs.cur.lev.val ps.length = true) ∧
    ((v 10).toNat % 2 ^ 10 = 0 ∧ ∃ ps, crs.checkCur false (wordEls (v 10) 128) = .ok ps ∧
      crs.curCore.ropeRoom crs.cur.lev.val ps.length = true) ∧
    (∃ k a b, denied.checkCur false (wordEls (v 10) 64) = .fail k a b) ∧
    ((v 11).toNat % 2 ^ 12 ≠ 0 ∧ 2 ^ 56 ≤ (v 13).toNat) ∧
    (let f := fun (m : Level) => (v 16).toNat / 2 ^ (4 * m.val) % 16
     (v 16).toNat < 2 ^ 16 ∧ (∀ m, 1 ≤ f m) ∧ f 0 + f 1 + f 2 + f 3 ≤ 8 ∧ (∀ m, m ≠ crs.cur.lev → (crs.curCore.lvl m).act = none) ∧
       (∀ m, crs.curCore.borrowed m = 0) ∧ crs.curCore.takes = []) ∧
    ¬ 1 ≤ (v 17).toNat / 2 ^ (4 * (3 : Level).val) % 16 ∧
    (∀ f ∈ [Finish.dispload 0x10000, .tagload 0x10000], ∃ q : Coll, q.bad = none ∧ q.share = [] ∧ q.finish = f) ∧
    ((v 18).toNat < 2 ^ 21 ∧ (v 18).toNat / 2 ^ 5 % 2 ^ 11 = 0 ∧ 1 ≤ (v 18).toNat % 32 ∧ (v 18).toNat % 32 ≤ 16) ∧ 16 < (v 19).toNat % 32 := by
  refine ⟨.inl rfl, ⟨by decide, by decide, Checked.passes_ok (by decide)⟩, ⟨by decide, Checked.passes_ok (by decide)⟩,
    Checked.fails_fail (by decide), by decide, by decide, by decide, fun f _ => ⟨⟨1, 0, 0, 0, 0, 0, [], f, none, []⟩, rfl, rfl, rfl⟩, by decide⟩
/-- A channel whose transfer is aligned and of the largest size; one larger; one unaligned; one with a full queue. -/
def channel (shadow : List Word) (n : Nat) : State :=
  crs.updCore 0 fun c => { c with chan := { c.chan with shadow := shadow, queue := List.replicate n ⟨1, shadow, 0, 0, 0, 0, 0, false, false, [], [], [], none⟩ } }
def largest : List Word := [0x10000, 0x20000, 0x80000000, 0, 0, 0, 4, 1, 1, 0]
theorem witness_CopyStartsAndIdentity :
    let aligned := fun (s : State) => ∀ j, j < 6 → (s.curCore.chan.shadow.getD j 0).toNat % 8 = 0 ∧
      (3 ≤ j → (s.curCore.chan.shadow.getD j 0).toNat / 2 ^ 32 % 8 = 0)
    let bytes := fun (s : State) => (s.curCore.chan.shadow.getD 2 0).toNat * (s.curCore.chan.shadow.getD 6 0).toNat *
      (s.curCore.chan.shadow.getD 7 0).toNat * (s.curCore.chan.shadow.getD 8 0).toNat
    let p := fun (r : XReg) => crs.curLvl.rx r
    (aligned (channel largest 15) ∧ bytes (channel largest 15) = 2 ^ 33 ∧ (channel largest 15).curCore.chan.queue.length < 16) ∧
    (aligned (channel largest 16) ∧ 16 ≤ (channel largest 16).curCore.chan.queue.length) ∧
    ¬ aligned (channel (largest.set 5 4) 0) ∧ (aligned (channel (largest.set 7 2) 0) ∧ 2 ^ 33 < bytes (channel (largest.set 7 2) 0)) ∧
    crs.vdev? crs.curVd = some (fetchVd State.reset) ∧ (6 : BitVec 6) = BitVec.ofNat 6 (6 + 0) ∧ 14 ≤ (14 : BitVec 6).toNat ∧
    (tagOk (p 13) = true ∧ (p 13).toNat % 64 = 0 ∧ ∃ ps, crs.checkCur false (wordEls (p 13) 8) = .ok ps ∧
      crs.curCore.ropeRoom crs.cur.lev.val ps.length = true) ∧
    tagOk 0xA000000000000000 = false ∧ (tagOk (p 14) = true ∧ (p 14).toNat % 64 ≠ 0) ∧
    (∃ c v a, denied.checkCur false (wordEls (p 13) 8) = .fail c v a) := by
  refine ⟨by decide, by decide, by decide, by decide, by decide, by decide, by decide,
    ⟨by decide, by decide, Checked.passes_ok (by decide)⟩, by decide, by decide, Checked.fails_fail (by decide)⟩

/-- An operation of level 0 at core 0. -/
def anOp (id : Nat) (w : Work) (d : Dest) (st : OpState) : Op :=
  ⟨id, 0, 0, 0, 0, 0, 0, 0, .s, .v, 0, 0, w, d, st, 0, none, none, false, false, 0⟩
/-- The conditions of a scalar access: a name without a rope; a bad tag; a denied page; an unknown one; a full rope; a free one. -/
def accesses (el : El) : Prop :=
  let on := fun (v : Word) => { el with va := v }
  let full := crs.updCore 0 fun c => { c with ops := List.replicate 2048 (anOp 0 (.cinv 0) .drop .held) }
  crs.curLvl.slotOf crs.cur.lev 3 = none ∧ crs.curLvl.slotOf crs.cur.lev 0 = some 0 ∧ tagOk 0xA000000000000000 = false ∧
    (tagOk 0x10000 = true ∧ ∃ c v a, denied.checkCur false [on 0x10000] = .fail c v a) ∧
    (tagOk 0x1000000 = true ∧ ∃ ps, crs.checkCur false [on 0x1000000] = .wait ps) ∧
    (∃ q, full.checkCur false [on 0x10000] = .ok [q]) ∧ full.curCore.ropeRoom 0 1 = false ∧
    (∃ q, crs.checkCur false [on 0x1FFF8] = .ok [q]) ∧ crs.curCore.ropeRoom 0 1 = true
theorem witness_LoadsAndStores :
    accesses ⟨0, 0, 8, .load, 1, 0, 0, -1, false, 0⟩ ∧ accesses ⟨0, 0, 8, .store, 2, -1, 0, -1, false, 0⟩ := by
  unfold accesses
  and_intros <;> first | decide | exact Checked.fails_fail (by decide) | exact Checked.misses_wait (by decide) |
    exact Checked.passes_one (by decide)
theorem witness_FullEmptyAndAtomics :
    accesses ⟨0, 0, 8, .fe .fe, 3, 0, 0, -1, false, 0⟩ ∧ accesses ⟨0, 0, 4, .amo .faddF32, 3, 1, 0, -1, false, 0⟩ ∧
    (30 : XReg).toNat % 2 = 0 ∧ (31 : XReg).toNat % 2 = 1 := by
  unfold accesses
  and_intros <;> first | decide | exact Checked.fails_fail (by decide) | exact Checked.misses_wait (by decide) |
    exact Checked.passes_one (by decide)
/-- What a translation gives. -/
def Xres.is (x : Xres) (n : Nat) : Bool :=
  match x with
  | .ok _ _ _ => n == 0
  | .denied _ => n == 1
  | .miss => n == 2
  | .lost _ => n == 3
theorem Xres.is_ok {x : Xres} (h : x.is 0 = true) : ∃ pa mt e, x = .ok pa mt e := by cases x <;> simp_all [Xres.is]
theorem Xres.is_denied {x : Xres} (h : x.is 1 = true) : ∃ t, x = .denied t := by cases x <;> simp_all [Xres.is]
theorem Xres.is_lost {x : Xres} (h : x.is 3 = true) : ∃ c, x = .lost c := by cases x <;> simp_all [Xres.is]
theorem Xres.is_miss {x : Xres} (h : x.is 2 = true) : x = .miss := by cases x <;> simp_all [Xres.is]
/-- The state with die-scratchpad slice 1 granted to the virtual device that runs. -/
def granted : State := ({ crs with vds := AMap.put crs.vds 1 { fetchVd State.reset with slot := [(0, 1)] } }).updChip 0
  fun c => { c with slots := [(1, { grants := [dieNode 0 1] })] }
/-- The same with stage 1 switched off. -/
def unmapped : State := { crs with vds := AMap.put crs.vds 1 { fetchVd State.reset with s1 := 0 } }
theorem witness_ChecksInOrder :
    let el := fun (va : Word) => (⟨0, va, 8, .load, 1, 0, 0, -1, false, 0⟩ : El)
    let b := 0x100000000000000
    ((el 0x10004).strange = false ∧ (el 0x10004).va.toNat % 8 ≠ 0 ∧
    (0x10000 % 8 = 0 ∧ granted.lead 0 0 (BitVec.ofNat 64 (b + 0x11000)) = .bad 0x04) ∧
    granted.lead 0 0 (BitVec.ofNat 64 (b + 0xFFF8)) = .phys (scratchPa 0 0xFFF8) ∧ scratchPa 0 0xFFF8 < 2 ^ 56 ∧
    granted.lead 0 0 (BitVec.ofNat 64 (b + 0x10000)) = .phys (windowPa 0 0) ∧ 2 ^ 56 ≤ windowPa 0 0) ∧
    (granted.lead 0 0 (BitVec.ofNat 64 (b + 0xFFFFF)) = .phys (scratchPa 7 0xFFFF) ∧ granted.lead 0 0 (BitVec.ofNat 64 (b + 0x7FFFF)) = .bad 0x04 ∧
    granted.lead 0 0 (BitVec.ofNat 64 (b + 0xFFFFFFF)) = .bad 0x04 ∧ granted.lead 0 0 (BitVec.ofNat 64 (b + 0x17FFFFFF)) = .bad 0x0F ∧
    granted.lead 0 0 (BitVec.ofNat 64 (b + 0x1003FFFF)) = .phys (slicePa 0 0 1 0x1FFFF) ∧
    granted.lead 0 0 (BitVec.ofNat 64 (b + 0xFFFFFFFF)) = .bad 0x04 ∧ granted.lead 0 0 (BitVec.ofNat 64 (b + 0x10007FFFF)) = .phys (scratchPa 7 0xFFFF) ∧
    granted.lead 0 0 (BitVec.ofNat 64 (b + 0x100080000)) = .bad 0x04 ∧ granted.lead 0 0 (BitVec.ofNat 64 (b + 0x120000000)) = .bad 0x04) ∧
    (∃ c, granted.xlate (granted.core 0).tlb [(2, .lost 0x04)] (granted.core 0).owner 0x20000 1 = .lost c) ∧
    (∃ pa mt e, granted.xlate (granted.core 0).tlb [] (granted.core 0).owner 0x10000 1 = .ok pa mt e) ∧
    (∃ t, denied.xlate (denied.core 0).tlb [] (denied.core 0).owner 0x10000 1 = .denied t) ∧
    (∃ v, unmapped.vdev? (unmapped.core 0).owner = some v ∧ (v.s1.getLsbD 0 = false ∨ v.s2.getLsbD 0 = false)) ∧
    granted.xlate (granted.core 0).tlb [] (granted.core 0).owner 0x20000 1 = .miss ∧ (granted.vdev? (granted.core 0).owner).isSome = true ∧
    dieNode 0 1 ∈ (granted.vdSlotRec (granted.core 0).owner (keyChip 0)).grants ∧
    dieNode 3 63 ∉ (granted.vdSlotRec (granted.core 0).owner (keyChip 0)).grants := by
  exact ⟨by decide, by decide, Xres.is_lost (by decide), Xres.is_ok (by decide), Xres.is_denied (by decide), ⟨_, rfl, by decide⟩,
    Xres.is_miss (by decide), by decide⟩
/-- An access of the first word of core 0's scratchpad. -/
def anAcc (c : AccClass) : Acc := { pa := scratchPa 0 0, size := 8, cls := c, vd := 1, src := coreUnit 0 }
/-- The same of memory that starts full. -/
def filled : State := { crs with fe := [scratchPa 0 0 / 8] }
theorem witness_AccessesPerform :
    crs.mem.wf = true ∧ crs.populated (scratchPa 0 0) = true ∧ crs.isBad (scratchPa 0 0) = false ∧ scratchPa 0 0 < 2 ^ 56 ∧
    scratchPa 0 0 % 8 = 0 ∧ (anAcc .load).size ∈ [1, 2, 4, 8] ∧ (anAcc (.fe .ef)).mask = -1 ∧ crs.isFull (scratchPa 0 0) = false ∧
    filled.mem.wf = true ∧ filled.populated (scratchPa 0 0) = true ∧ filled.isBad (scratchPa 0 0) = false ∧
    filled.isFull (scratchPa 0 0) = true := by decide
/-- A packet that has arrived at core 0, with the state's argument naming it. -/
def arriving (s : State) (pl : Payload) : State :=
  { s with pkts := [⟨5, coreUnit 1, coreUnit 0, 1, .control, 0, pl, .arrived, 0, 0, 0⟩], arg := { id := 5 } }
/-- A waiter of the first word of core 0's scratchpad. -/
def aWaiter (op order : Nat) : Waiter := ⟨coreUnit 0, anAcc (.fe .ff), op, order⟩
/-- What performing gives. -/
def Perf.is (x : Perf) (n : Nat) : Bool :=
  match x with
  | .done _ _ => n == 0
  | .wait => n == 1
  | .ecc => n == 2
  | _ => false
theorem Perf.is_wait {x : Perf} (h : x.is 1 = true) : x = .wait := by cases x <;> simp_all [Perf.is]
theorem Perf.is_ecc {x : Perf} (h : x.is 2 = true) : x = .ecc := by cases x <;> simp_all [Perf.is]
/-- A port about to serve that packet's access. -/
def serving (s : State) (a : Acc) : State := (((s.dropPkt 5).portServed (coreUnit 0) 3).trace a).l2Fill a.pa a.mt
theorem witness_OwnersServeRequests :
    (∀ pl s, s ∈ [crs, filled] → (arriving s pl).arrivedPkt = some ⟨5, coreUnit 1, coreUnit 0, 1, .control, 0, pl, .arrived, 0, 0, 0⟩) ∧
    (let s := arriving filled (.access (anAcc (.fe .fe)) 9)
     s.draining 1 (coreUnit 1) (coreUnit 0) = false ∧ (s.clu (nodeKey (coreUnit 0).chip (coreUnit 0).node)).repair ≠ some (coreUnit 0).unit ∧
     s.portTurn ⟨5, coreUnit 1, coreUnit 0, 1, .control, 0, .access (anAcc (.fe .fe)) 9, .arrived, 0, 0, 0⟩ = true ∧
     s.owed (scratchPa 0 0) 8 = false ∧ s.populated (scratchPa 0 0) = true ∧
     ∃ t, s.gate ⟨5, coreUnit 1, coreUnit 0, 1, .control, 0, .access (anAcc (.fe .fe)) 9, .arrived, 0, 0, 0⟩ (anAcc (.fe .fe)) = .go t) ∧
    (∃ v u, (serving (arriving filled (.access (anAcc (.fe .fe)) 9)) (anAcc (.fe .fe))).perform (anAcc (.fe .fe)) = .done v u) ∧
    (serving (arriving crs (.access (anAcc (.fe .fe)) 9)) (anAcc (.fe .fe))).perform (anAcc (.fe .fe)) = .wait ∧
    (serving (arriving { crs with bad := [(scratchPa 0 0 / 8, true)] } (.access (anAcc .load) 9)) (anAcc .load)).perform (anAcc .load) = .ecc ∧
    (let s := arriving crs (.marker (anAcc .load) 9 0)
     s.arrivedPkt.isSome = true ∧ ∀ p, s.arrivedPkt = some p → s.markerDue p (anAcc .load) 9 0 = true) ∧
    ((List.replicate 1023 (aWaiter 0 0)).filter fun w => w.owner == coreUnit 0).length < 1024 ∧
    1024 ≤ ((List.replicate 1024 (aWaiter 0 0)).filter fun w => w.owner == coreUnit 0).length ∧
    ({ crs with vds := [] } : State).draining 1 (coreUnit 1) (coreUnit 0) = true ∧
    (let s := { filled with retry := [aWaiter 7 3, aWaiter 8 4], arg := { addr := scratchPa 0 0 } }
     aWaiter 7 3 ∈ s.retry ∧ (aWaiter 7 3).acc.pa / 8 = s.arg.addr / 8 ∧ s.holds (aWaiter 7 3).acc = true ∧
     (∀ x ∈ s.retry, x.acc.pa / 8 = s.arg.addr / 8 → s.holds x.acc = true → x = aWaiter 7 3 ∨ (aWaiter 7 3).order < x.order) ∧
     (∀ x ∈ s.retry, x.op = (aWaiter 7 3).op → x = aWaiter 7 3) ∧
     ∃ v u, ({ s with retry := s.retry.filter fun x => x.op != 7 } : State).perform (aWaiter 7 3).acc = .done v u) := by
  refine ⟨fun pl s hs => ?_, ⟨by decide, by decide, by decide, by decide, by decide, Gate.opens_go (by decide)⟩, Perf.goes_done (by decide),
    Perf.is_wait (by decide), Perf.is_ecc (by decide), ⟨by decide, ?_⟩, by decide, by decide, by decide, ?_⟩
  · simp only [List.mem_cons, List.not_mem_nil, or_false] at hs
    rcases hs with rfl | rfl <;> rfl
  · rintro p ⟨⟩
    decide
  · and_intros <;> first | decide | exact Perf.goes_done (by decide)

/-- A packet of an access that has arrived at core 0, whose operation 9 waits at core 0, with `n` records in core 0's queue. -/
def accessing (a : Acc) (n : Nat) : State :=
  (arriving crs (.access a 9)).updCore 0 fun c => { c with
    ops := [anOp 9 (.mem a) .drop .sent], mx := { c.mx with queue := List.replicate n ⟨1, [0, 0, 0, 0, 0, 0, 0, 0], 0, 0, 0, 0, 0, false, 0, [], false, 0, 0⟩ } }
/-- That packet, and a store into the window of the matrix queue. -/
def accessPkt (a : Acc) : Packet := ⟨5, coreUnit 1, coreUnit 0, 1, .control, 0, .access a 9, .arrived, 0, 0, 0⟩
def windowAcc (off : Nat) (c : AccClass) : Acc := { anAcc c with pa := windowPa 0 off }
/-- An unpopulated word; the window's last and first words, the queue full or with room; the word that wakes; a slot being copied. -/
theorem witness_OwnersServeRequests_kinds :
    (let a : Acc := { anAcc .load with pa := 0x9000000000 }
     let s := accessing a 0
     s.arrivedPkt = some (accessPkt a) ∧ s.draining 1 (coreUnit 1) (coreUnit 0) = false ∧ s.portTurn (accessPkt a) = true ∧ s.owed a.pa 8 = false ∧
     s.populated a.pa = false ∧ ∃ t, s.gate (accessPkt a) a = .go t) ∧
    (∀ off ∈ [0, 4088], ∀ n ∈ [63, 64], ∀ c ∈ [AccClass.load, .store], let a := windowAcc off c
      let s := accessing a n
      s.arrivedPkt = some (accessPkt a) ∧ s.draining 1 (coreUnit 1) (coreUnit 0) = false ∧ s.portTurn (accessPkt a) = true ∧
      a.pa = windowPa (coreUnit 0).core off ∧ off + a.size ≤ 4096 ∧ off % a.size = 0 ∧ a.mask = -1 ∧ (s.core 0).mx.window.wf = true ∧
      (s.core 0).mx.queue.length = n ∧ s.opOf 9 = some (0, anOp 9 (.mem a) .drop .sent)) ∧
    (0 % 64 + 8 ≠ 64 ∧ 4088 % 64 + 8 = 64) ∧ recordOk [0x4000000000000000, 0, 0, 0, 0, 0, 0, 0] 0 = true ∧
    ((crs.updClu 0 fun c => { c with repair := some 0 }).clu (nodeKey (coreUnit 0).chip (coreUnit 0).node)).repair = some (coreUnit 0).unit ∧
    (let v := { fetchVd State.reset with res := .bivouac, wakeAddr := scratchPa 0 0 }
     (anAcc .store).cls = .store ∧ v.wakeAddr / 8 = (anAcc .store).pa / 8 ∧ (v.res = .bivouac ∨ v.res = .entering)) ∧
    (∀ line ∈ [0x100, 0x90000000], let s := arriving crs (.flush line 9)
      s.draining 1 (coreUnit 1) (coreUnit 0) = false ∧ s.arrivedPkt.isSome = true ∧
      (∀ p, s.arrivedPkt = some p → s.portTurn p = true) ∧ s.populated (line * 256) = (line == 0x100)) ∧
    (arriving crs (.withdraw 9)).arrivedPkt.isSome = true := by
  refine ⟨⟨by decide, by decide, by decide, by decide, by decide, Gate.opens_go (by decide)⟩, ?_, by decide, by decide, by decide, by decide, ?_, by decide⟩
  · intro off ho n hn c hc
    simp only [List.mem_cons, List.not_mem_nil, or_false] at ho hn hc
    rcases ho with rfl | rfl <;> rcases hn with rfl | rfl <;> rcases hc with rfl | rfl <;> decide
  · intro line hl
    simp only [List.mem_cons, List.not_mem_nil, or_false] at hl
    rcases hl with rfl | rfl <;> refine ⟨by decide, by decide, ?_, by decide⟩ <;> (rintro p ⟨⟩; decide)
/-- A core with operations. -/
def Core.withOps (c : Core) (ops : List Op) : Core := { c with ops := ops }
/-- Core 0 with an operation. -/
def outstanding (s : State) (o : Op) : State := s.updCore 0 fun c => { c with ops := [o] }
theorem witness_Fences :
    (∀ o ∈ crs.curCore.ops, o.lev ≠ crs.cur.lev.val) ∧ crs.curLvl.slotOf crs.cur.lev (3 : RopeName).toNat = none ∧
    crs.curLvl.slotOf crs.cur.lev (0 : RopeName).toNat = some 0 ∧ tagOk 0xA000000000000000 = false ∧
    (tagOk 0x10000 = true ∧ ∃ c v a, denied.checkCur false [⟨0, 0x10000, 8, .fe .xf, 2, 1, 0, -1, false, 0⟩] = .fail c v a) ∧
    (∃ pl, crs.checkCur false [⟨0, 0x10000, 8, .fe .xf, 2, 1, 0, -1, false, 0⟩] = .ok [pl]) ∧ crs.curCore.ropeRoom 0 1 = true := by
  and_intros <;> first | decide | exact Checked.fails_fail (by decide) | exact Checked.passes_one (by decide)
/-- The same with no slot for a rope. -/
def noSlots : State := crs.updCore 0 fun c => { c with ropes := (tab 60 fun i => (4 + i, ⟨100 + i, 0, 0, 0, [], [], [], false⟩)) }
theorem witness_RopesMade :
    let h : Nat := 2 ^ 48 + 8 * 2 ^ 25
    (crs.curLvl.slotOf crs.cur.lev (3 : RopeName).toNat = none ∧ crs.curLvl.slotOf crs.cur.lev (0 : RopeName).toNat = some 0) ∧
    (∃ slot, (crs.curCore.dropName crs.cur.lev (15 : RopeName).toNat).freeSlot = some slot) ∧
    (noSlots.curCore.dropName noSlots.cur.lev (15 : RopeName).toNat).freeSlot = none ∧ h / 2 ^ 25 % 16 < 9 ∧ h / 2 ^ 48 % 2 ^ 16 = crs.curVd ∧
    9 ≤ (9 * 2 ^ 25) / 2 ^ 25 % 16 ∧ 0 / 2 ^ 48 % 2 ^ 16 ≠ crs.curVd ∧ (15 : RopeName).toNat < crs.curLvl.rope.length ∧
    (∀ o ∈ crs.curCore.ops, o.rope ≠ (crs.curCore.ropeAt 0).uid) := by
  refine ⟨by decide, ⟨4, by decide⟩, by decide⟩
theorem witness_OperationsLeave :
    let st := outstanding crs (anOp 7 (.mem (anAcc .store)) .drop .buffered)
    let s := { st with arg := { id := 7 } }
    ((s.core 0).ops.find? fun p => p.id == s.arg.id && p.st == .buffered) = some (anOp 7 (.mem (anAcc .store)) .drop .buffered) ∧
    (∀ p ∈ (s.core 0).ops, p.id = 7 → p = anOp 7 (.mem (anAcc .store)) .drop .buffered) ∧
    (outstanding crs (anOp 7 (.mem (anAcc .load)) .drop (.backoff 3))).opOf 7 =
      some (0, anOp 7 (.mem (anAcc .load)) .drop (.backoff 3)) ∧ crs.now < 3 ∧
    (outstanding crs (anOp 7 (.mem (anAcc .load)) .drop (.backoff 3))).sendsNow 0 = true := by decide
/-- The answer to operation 7 with a status, at core 0. -/
def answering (d : Dest) (act : Nat) (status : Nat) : State :=
  arriving (outstanding crs { anOp 7 (.mem (anAcc .load)) d .sent with act := act }) (.resp 7 status 0xFF80 none)
theorem witness_ResponseSettles :
    ∀ d ∈ [Dest.reg 0 8 false, .reg 31 2 true, .drop], ∀ act ∈ [0, 1], ∀ st ∈ [0, 1, 2, 3, 4, 5],
      let s := answering d act st
      (∃ p o, s.arrivedPkt = some p ∧ p.payload = .resp 7 st 0xFF80 none ∧ ((s.core p.dst.core).ops.find? fun x => x.id == 7) = some o ∧
        o.work = .mem (anAcc .load) ∧ o.dest = d ∧ ((s.lvl p.dst.core (lvOf o.lev)).isAct o.act = (act == 0)) ∧
        (s.lvl p.dst.core (lvOf o.lev)).withdraws 7 = false ∧ o.quiet = false ∧ (s.core p.dst.core).run = .running) ∧ 5 < s.nextId := by
  intro d hd act ha st hs
  refine ⟨⟨⟨5, coreUnit 1, coreUnit 0, 1, .control, 0, .resp 7 st 0xFF80 none, .arrived, 0, 0, 0⟩, { anOp 7 (.mem (anAcc .load)) d .sent with act := act }, ?_⟩, ?_⟩
  all_goals
    simp only [List.mem_cons, List.not_mem_nil, or_false] at hd ha hs
    rcases hd with rfl | rfl | rfl <;> rcases ha with rfl | rfl <;> rcases hs with rfl | rfl | rfl | rfl | rfl | rfl <;> decide
/-- An activation past its limit, with the operation its level waits for. -/
def late (ops : List Op) : State :=
  { (mapped {}).updCore 0 fun c => (c.setLvl 0 { act := some (anAct 0 1 false) }).withOps ops with
    now := 0x800000, vds := [(1, { fetchVd State.reset with launches := [⟨1, 0, 0, List.replicate 8 0, [], none, 0, 0, false⟩] })] }
theorem witness_WatchdogExpires :
    let a := anAct 0 1 false
    let w := anOp 7 (.mem (anAcc (.fe .ff))) .drop
    (((late []).core 0).lvl 0).act = some a ∧ (∃ v, (late []).vdev? ((late []).core 0).owner = some v ∧
      ({ late [] with now := 0x7FFFFF } : State).now < a.start + v.limit ∧ a.start + v.limit ≤ (late []).now ∧ v.iso a.launch = false ∧
      ∃ j ∈ v.launches, j.id = a.launch) ∧ ((late []).core 0).run = .running ∧ (((late []).core 0).lvl 0).wait = .ready ∧
    ((late []).core 0).feWaiting 0 = none ∧ ((late [w .sent]).core 0).feWaiting 0 = some (w .sent) ∧
    ((late [w (.backoff 1)]).core 0).feWaiting 0 = some (w (.backoff 1)) := by
  refine ⟨by decide, ⟨((late []).vdev? 1).getD (fetchVd State.reset), by decide⟩, by decide⟩
/-- The level waits for the answer to the withdrawal of its operation 7, which has arrived, or for the operation's own. -/
def withdrawn (pl : Payload) : State :=
  arriving ((late [anOp 7 (.mem (anAcc (.fe .ff))) .drop .sent]).setLvl 0 0 { act := some (anAct 0 1 false), wait := .gone 7 0 }) pl
theorem witness_WatchdogExpires_exchange :
    (∀ pl ∈ [Payload.withdrawn 7 true, .withdrawn 7 false, .resp 7 0 5 none, .resp 7 1 0 none],
      let s := withdrawn pl
      let o := anOp 7 (.mem (anAcc (.fe .ff))) .drop .sent
      s.arrivedPkt = some ⟨5, coreUnit 1, coreUnit 0, 1, .control, 0, pl, .arrived, 0, 0, 0⟩ ∧
      ((s.core 0).ops.find? fun y => y.id == 7) = some o ∧ (s.lvl 0 0).act = some (anAct 0 1 false) ∧ (s.lvl 0 0).acts = o.act ∧
      (s.lvl 0 0).wait = .gone o.id 0 ∧ (∃ v, s.vdev? (s.core 0).owner = some v ∧ v.iso 1 = false)) ∧
    (let o := anOp 7 (.mem (anAcc (.fe .ff))) .drop (.rewithdraw 3)
     (outstanding crs o).opOf 7 = some (0, o) ∧ (outstanding crs o).sendsNow 0 = true ∧ ¬ 3 ≤ crs.now ∧ 3 ≤ ({ crs with now := 3 } : State).now) := by
  refine ⟨fun pl hp => ?_, by decide⟩
  simp only [List.mem_cons, List.not_mem_nil, or_false] at hp
  rcases hp with rfl | rfl | rfl | rfl <;>
    exact ⟨by decide, by decide, by decide, by decide, by decide, ((late []).vdev? 1).getD (fetchVd State.reset), by decide⟩

/-- Messages and AREADs at the ends of their ranges: core 7 is the last of the virtual device; type 0x20 with four arguments, code of 2 and
of 448 bytes; a spawn; a read of tag 63 that ends at a block's and at the scratchpad's last byte. -/
def sends : State := crs.updCore 0 fun c => { c with tags := [(63, { v := true })] }
theorem witness_MessagesLeave :
    let v := fetchVd State.reset
    let an := fun (ty len narg core : Nat) => ty * 2 ^ 56 + len * 2 ^ 47 + narg * 2 ^ 44 + core
    let f := fun (a : Nat) => (a / 2 ^ 56, a / 2 ^ 47 % 2 ^ 9, a / 2 ^ 44 % 8, a % 2 ^ 24)
    sends.vdev? sends.curVd = some v ∧ v.cores = 8 ∧ f (an 0x20 0 4 7) = (0x20, 0, 4, 7) ∧ an 0x20 0 4 7 / 2 ^ 24 % 2 ^ 20 = 0 ∧
    f (an 0xFF 448 0 0) = (0xFF, 448, 0, 0) ∧ f (an 0 0 0 7) = (0, 0, 0, 7) ∧ f (an 0x1F 0 0 8) = (0x1F, 0, 0, 8) ∧
    sends.curLvl.slotOf sends.cur.lev (3 : RopeName).toNat = none ∧ sends.curLvl.slotOf sends.cur.lev (0 : RopeName).toNat = some 0 ∧
    sends.curCore.ropeRoom 0 1 = true ∧ sends.curCore.ropeRoom 0 2 = true ∧ tagOk 0x10000 = true ∧ tagOk 0xA000000000000000 = false ∧
    (∃ ps, sends.checkCur false (tab 1 fun i => El.mk i (0x10000 + BitVec.ofNat 64 (2 * i)) 2 .load 1 0 0 (-1) false i) = .ok ps) ∧
    (∃ c x y, denied.checkCur false (tab 1 fun i => El.mk i (0x10000 + BitVec.ofNat 64 (2 * i)) 2 .load 1 0 0 (-1) false i) = .fail c x y) ∧
    (∀ w ∈ [63 + 0x3F * 2 ^ 8 + 0xFE00 * 2 ^ 32], w / 2 ^ 48 = 0 ∧ w / 2 ^ 14 % 2 ^ 18 = 0 ∧ w / 2 ^ 6 % 4 = 0 ∧ w % 2 ^ 6 = 63 ∧
      (w / 2 ^ 8 % 2 ^ 6 + 1) * 8 = 512 ∧ w / 2 ^ 32 % 2 ^ 16 = 0xFE00) ∧
    (AMap.get sends.curCore.tags {} 63).v = true ∧ ¬ (AMap.get sends.curCore.tags {} 62).v = true ∧ 63 ∉ sends.curCore.tagBusy ∧
    0x100F8 % 256 + 8 ≤ 256 ∧ 256 < 0x100F8 % 256 + 16 ∧ 0xFFF8 % 8 = 0 ∧ 0xFFF8 + 8 ≤ 0x10000 ∧ 0x10000 < 0xFFF8 + 16 ∧
    (∃ q, sends.checkCur false [⟨0, 0x100F8, 8, .load, 1, 0, 0, -1, false, 0⟩] = .ok [q]) ∧ 63 / 2 ^ 10 = 0 ∧ 63 / 2 ^ 6 % 4 = 0 ∧
    2 ^ 10 / 2 ^ 10 ≠ 0 ∧ 63 ∈ (sends.updCore 0 fun c => { c with tagBusy := [63] }).curCore.tagBusy ∧
    (∃ c x y, denied.checkCur false [⟨0, 0x100F8, 8, .load, 1, 0, 0, -1, false, 0⟩] = .fail c x y) ∧
    (∃ ps, (sends.updCore 0 fun c => { c with tagBusy := [63] }).checkCur false [⟨0, 0x100F8, 8, .load, 1, 0, 0, -1, false, 0⟩] = .ok ps) ∧
    (∃ ps, sends.checkCur false [⟨0, 0x10000, 8, .store, 2, 1, 0, -1, false, 0⟩, ⟨1, 0x10008, 8, .store, 2, 0x83, 0, -1, false, 1⟩] = .ok ps) := by
  and_intros <;> first | decide | exact Checked.passes_one (by decide) | exact Checked.passes_some (by decide) |
    exact Checked.fails_fail (by decide)

/-- The state with an entry of group 1 at package 0 for virtual device 1, rooted at node 0, that lists core 0. -/
def grouped : State := crs.updChip 0 fun c => { c with groups :=
  [(1, [BitVec.ofNat 64 (2 ^ 63 + 2 ^ 47 + 7 * 2 ^ 44 + 2 ^ 17), 0, 0, 0, 0, 0, 0, 0])] }
theorem witness_MulticastIssued :
    let reachAll := ((tab 32 id).getLast?.map fun i => 256 * (i + 1)).getD 0
    let els := fun (l : List Nat) => (0 :: l).map fun i => El.mk i (0x10000 + BitVec.ofNat 64 (256 * i)) 8 .load 1 0 0 (-1) false i
    let busy := grouped.updCore 0 fun c => { c with mcOut := [1] }
    grouped.curLvl.slotOf grouped.cur.lev (3 : RopeName).toNat = none ∧ grouped.curLvl.slotOf grouped.cur.lev (0 : RopeName).toNat = some 0 ∧
    ((1 : Nat) / 2 ^ 14 % 2 ^ 18 = 0 ∧ 1 / 2 ^ 12 % 4 < 2 ∧ 1 / 2 ^ 32 = 0 ∧ 1 % 2 ^ 10 = 1) ∧ ¬ (2 ^ 13 / 2 ^ 12 % 4 < 2) ∧
    tagOk 0xA000000000000000 = false ∧ (tagOk 0x10000 = true ∧ 0x10000 % 256 = 0) ∧ 0x10008 % 256 ≠ 0 ∧ 4 % 8 ≠ 0 ∧
    (0x100000000010000 / 2 ^ 56 % 2 = 1 ∧ 0x10000 / 2 ^ 56 % 2 = 0) ∧ 0xFF00 + 256 ≤ 0x10000 ∧ 0x10000 < 0xFF08 + 256 ∧ reachAll = 0x2000 ∧
    0xE000 + reachAll ≤ 0x10000 ∧ 1 ∉ grouped.curCore.mcOut ∧ 1 ∈ busy.curCore.mcOut ∧ grouped.curCore.ropeRoom 0 1 = true ∧
    (∃ x y z, denied.checkCur false (els [31]) = .fail x y z) ∧ (∃ ps, grouped.checkCur false (els [31]) = .ok ps) ∧
    (∃ ps, grouped.checkCur false (els []) = .ok ps) ∧
    (grouped.entryValid grouped.cur.chip 1 grouped.curVd = true ∧
      (grouped.cur.node, grouped.cur.slot) ∈ entryMembers (grouped.groupEntry grouped.cur.chip 1)) ∧
    ¬ grouped.entryValid grouped.cur.chip 0 grouped.curVd = true ∧ 1023 / 2 ^ 10 = 0 ∧ 1024 / 2 ^ 10 ≠ 0 ∧
    (∃ ps, grouped.checkCur false (tab 8 fun i => El.mk i (0x10000 + BitVec.ofNat 64 (8 * i)) 8 .load 1 0 0 (-1) false i) = .ok ps) := by
  and_intros <;> first | decide | exact Checked.passes_some (by decide) | exact Checked.fails_fail (by decide)
/-- A post of class 15. -/
def aPost : Post := ⟨0xFFFFFFFFFF, 15, 0, 0⟩
/-- The state whose virtual device has class 15 enabled, with a spilled record and entries of it, and `n` posts in the buffer. -/
def classed (n : Nat) : State :=
  let s := { crs with vds := AMap.put crs.vds 1 { fetchVd State.reset with classes := [(15, [BitVec.ofNat 64 (2 ^ 63), 0, 0, 0])] } }
  (s.updCore 0 fun c => { c with ops := List.replicate n (anOp 7 (.post aPost none) .drop .sent) }).updClu 0 fun c =>
    { c with cairn := [⟨1, 5, 15, 0, 0⟩] }
theorem witness_CairnInstructions :
    (∃ v, (classed 0).vdev? (classed 0).curVd = some v ∧ ((v.cls (15 : BitVec 4).toNat).getD 0 0).getLsbD 63 = true ∧
      ¬ ((v.cls (14 : BitVec 4).toNat).getD 0 0).getLsbD 63 = true ∧ (0, 0) ∈ v.nodes) ∧
    (classed 0).curLvl.slotOf (classed 0).cur.lev (3 : RopeName).toNat = none ∧
    (classed 0).curLvl.slotOf (classed 0).cur.lev (0 : RopeName).toNat = some 0 ∧
    32 ≤ ((classed 32).curCore.ops.filter fun o => o.isPost.isSome).length ∧
    ((classed 31).curCore.ops.filter fun o => o.isPost.isSome).length < 32 ∧ (classed 31).curCore.ropeRoom 0 1 = true ∧
    tagOk 0xA000000000000000 = false ∧ tagOk 0x10000 = true ∧ (classed 1).ropePreds (classed 1).cur.lev.val ≠ [] ∧
    (classed 0).ropePreds (classed 0).cur.lev.val = [] ∧ (∃ e ∈ ((classed 0).clu 0).cairn, e.vd = (classed 0).curVd ∧ e.cls = 15) ∧
    (∃ ps, (classed 0).checkCur false (tab 4 fun i => El.mk i (0x10000 + BitVec.ofNat 64 (8 * i)) 8 .load 1 0 0 (-1) false i) = .ok ps) := by
  and_intros <;> first | decide | exact Checked.passes_some (by decide)
/-- The state whose virtual device has group 63 as given. -/
def barrier (g : Group) : State := { crs with vds := AMap.put crs.vds 1 { fetchVd State.reset with groups := [(63, g)] } }
theorem witness_GroupsAndBarriers :
    let m : Nat × Nat := (0, 0)
    (∀ g ∈ [({} : Group), { members := [m, (1, 0)] }, { members := [(1, 0), (2, 0)], arrived := [(1, 0)], joiners := [m] }],
      ∃ v, (barrier g).vdev? (barrier g).curVd = some v ∧ AMap.get v.groups {} 63 = g ∧ (barrier g).vdCoreKey v m.1 = (barrier g).curKey) ∧
    ({ members := [(1, 0), (2, 0)], arrived := [(1, 0)], joiners := [m] } : Group).waiting = [] ∧ (barrier {}).pair = m ∧ (∀ o ∈ (barrier {}).curCore.ops, o.lev = (barrier {}).cur.lev.val → (barrier {}).curLvl.po ≤ o.po) ∧
    ¬ (∀ o ∈ [anOp 7 (.cinv 0) .drop .sent], o.lev = 0 → 1 ≤ o.po) := by
  refine ⟨fun g hg => ⟨((barrier g).vdev? 1).getD (fetchVd State.reset), ?_⟩, by decide⟩
  simp only [List.mem_cons, List.not_mem_nil, or_false] at hg
  rcases hg with rfl | rfl | rfl <;> decide
theorem witness_MemoryManagement :
    let els := fun (v : Word) => [(⟨0, v, 1, .load, 1, 0, 0, -1, false, 0⟩ : El)]
    tagOk 0xA000000000000000 = false ∧ (tagOk 0x1001F = true ∧ ∃ c x a, denied.checkCur false (els 0x1001F) = .fail c x a) ∧
    (∃ q, crs.checkCur false (els 0x1001F) = .ok [q] ∧ mappedPa q.pa = true) ∧
    (∃ q, crs.checkCur false (els 0x10000000000FFFF) = .ok [q] ∧ mappedPa q.pa = false) ∧ crs.curCore.ropeRoom crs.cur.lev.val 1 = true ∧
    (∃ pa mt e, crs.xlate crs.curCore.tlb [] crs.curVd (0x1001F : Word).toNat 1 = .ok pa mt e ∧ crs.populated pa = true ∧
      mappedPa pa = true ∧ mt ≠ 2) ∧ (0x10000000000FFFF : Word).getLsbD 56 = true ∧ (0x1001F : Word).getLsbD 56 = false ∧
    crs.curVd ≠ 0 ∧ (classed 1).ropePreds 0 ≠ [] ∧ crs.ropePreds 0 = [] ∧ crs.vdev? crs.curVd = some (fetchVd State.reset) := by
  refine ⟨by decide, ⟨by decide, Checked.fails_fail (by decide)⟩, ?_, ?_, by decide, ⟨_, _, _, rfl, by decide⟩, by decide⟩
  · obtain ⟨ps, h, hp⟩ := Checked.passes_ok (p := fun ps => ps.length == 1 && ps.all fun q => mappedPa q.pa)
      (c := crs.checkCur false [⟨0, 0x1001F, 1, .load, 1, 0, 0, -1, false, 0⟩]) (by decide)
    match ps, hp with
    | [q], hp => exact ⟨q, h, by simpa using hp⟩
  · obtain ⟨ps, h, hp⟩ := Checked.passes_ok (p := fun ps => ps.length == 1 && ps.all fun q => !mappedPa q.pa)
      (c := crs.checkCur false [⟨0, 0x10000000000FFFF, 1, .load, 1, 0, 0, -1, false, 0⟩]) (by decide)
    match ps, hp with
    | [q], hp => exact ⟨q, h, by simpa using hp⟩

/-- A descriptor of 64 raw words at 0x10000: read, or written. -/
def aDesc (wr : Nat) : List Word := [0x10000, 0x100000040, 1, 0, 0, BitVec.ofNat 64 wr, 0, 0]
/-- A level with a read stream whose chunk has come, a write stream, an exhausted stream and one whose chunk has not come; p1 empty,
p2 of lane 63; a reserved rounding mode where `rm` says so. -/
def streaming (rm : Bool) : State :=
  mapped ((({ regs [(5, 0x10000), (6, 0x0400000000010000), (7, 0x10001), (8, 0x0500000000010000)] with
    streams := [some ⟨aDesc 0, 0, 0, 4, some (false, VReg.zero), false⟩, some ⟨aDesc 1, 0, 0, 5, none, false⟩,
      some ⟨aDesc 0, 1, 64, 6, none, false⟩, some ⟨aDesc 0, 0, 0, 7, none, false⟩],
    fcr := if rm then 0xE00 else 0 } : Lvl).wp 1 0).wp 2 0x8000000000000000)
theorem vecReads_register {s : State} {n : VName} {k : Nat} (h : s.curLvl.stream n.toNat = none) (hk : s.curLvl.place n.toNat = some k) :
    VecReads s n (s.curCore.rv k) := .inl ⟨h, k, hk, rfl⟩
theorem vecSources_one {s : State} {n : VName} {v : VReg} (h : VecReads s n v) : VecSources s [n] [v] := by
  refine ⟨rfl, fun j m x hm hx => ?_⟩
  match j, hm, hx with
  | 0, hm, hx => simp only [List.getElem?_cons_zero, Option.some.injEq] at hm hx; subst hm hx; exact h
  | _ + 1, hm, _ => simp at hm
theorem vecSources_two {s : State} {n m : VName} {v w : VReg} (h : VecReads s n v) (h' : VecReads s m w) :
    VecSources s [n, m] [v, w] := by
  refine ⟨rfl, fun j x y hx hy => ?_⟩
  match j, hx, hy with
  | 0, hx, hy => simp only [List.getElem?_cons_zero, Option.some.injEq] at hx hy; subst hx hy; exact h
  | 1, hx, hy =>
    simp only [List.getElem?_cons_succ, List.getElem?_cons_zero, Option.some.injEq] at hx hy; subst hx hy; exact h'
  | _ + 2, hx, _ => simp at hx
/-- Sources from a register and a read stream, names that can be none, and destinations of each kind. -/
theorem streaming_operands (rm : Bool) :
    (∃ v w, VecSources (streaming rm) [15, 0] [v, w]) ∧ VecSources (streaming rm) [] [] ∧
    VecUnreadable (streaming rm) 1 ∧ VecUnreadable (streaming rm) 2 ∧ VecUnreadable (streaming rm) 16 ∧
    VecWritable (streaming rm) 15 true ∧ VecWritable (streaming rm) 1 false ∧ ¬ VecWritable (streaming rm) 1 true ∧
    ¬ VecWritable (streaming rm) 0 false := by
  have r15 : (streaming rm).curLvl.stream 15 = none ∧ (streaming rm).curLvl.place 15 = some 15 := by cases rm <;> decide
  have r0 : (streaming rm).curLvl.stream 0 = some ⟨aDesc 0, 0, 0, 4, some (false, VReg.zero), false⟩ := by cases rm <;> decide
  have r1 : (streaming rm).curLvl.stream 1 = some ⟨aDesc 1, 0, 0, 5, none, false⟩ := by cases rm <;> decide
  have r2 : (streaming rm).curLvl.stream 2 = some ⟨aDesc 0, 1, 64, 6, none, false⟩ := by cases rm <;> decide
  have r16 : (streaming rm).curLvl.stream 16 = none ∧ (streaming rm).curLvl.place 16 = none := by cases rm <;> decide
  refine ⟨⟨_, VReg.zero, vecSources_two (vecReads_register r15.1 r15.2) (.inr ⟨_, r0, by decide, by decide, ?_⟩)⟩,
    ⟨rfl, fun j n v h => by simp at h⟩, .inr ⟨_, r1, .inl (by decide)⟩, .inr ⟨_, r2, .inr (by decide)⟩, .inl r16,
    .inl ⟨r15.1, by rw [show (15 : VName).toNat = 15 from rfl, r15.2]; rfl⟩, .inr ⟨_, r1, by decide, rfl, by decide⟩, ?_, ?_⟩
  · cases rm <;> decide
  · rintro (⟨h, -⟩ | ⟨st, -, -, h, -⟩)
    · rw [show (1 : VName).toNat = 1 from rfl, r1] at h; cases h
    · cases h
  · rintro (⟨h, -⟩ | ⟨st, h, h', -⟩)
    · rw [show (0 : VName).toNat = 0 from rfl, r0] at h; cases h
    · rw [show (0 : VName).toNat = 0 from rfl, r0] at h; injection h with h; subst h; exact absurd h' (by decide)
theorem witness_VectorLanes :
    (∃ v w, VecSources (streaming false) [15, 0] [v, w]) ∧ VecUnreadable (streaming false) 1 ∧ VecWritable (streaming false) 15 true ∧
    ¬ VecWritable (streaming false) 1 true ∧ badRm (streaming true).curLvl.fcr = true ∧ badRm (streaming false).curLvl.fcr = false ∧
    ((streaming false).curLvl.stream (15 : VName).toNat = none ∧ (streaming false).curLvl.place (15 : VName).toNat = some 15) ∧
    (streaming false).curLvl.stream (1 : VName).toNat = some ⟨aDesc 1, 0, 0, 5, none, false⟩ ∧ tmapDir (aDesc 1) = true ∧
    0 < tmapChunks (aDesc 1) ∧ chunkRow (aDesc 1) 0 = some 0x10000 ∧ (fmtOf 0x10000).rounds = false ∧
    (∃ ps, (streaming false).checkCur false ((activeLanes ((streaming false).curLvl.rp 2 &&& chunkMask (aDesc 1) 0)).flatMap fun j =>
      storeEls 0x10000 (fmtOf 0x10000) j (chunkIdx (aDesc 1) 0 j)) = .ok ps) := by
  obtain ⟨h, -, h1, -, -, h15, -, h1', -⟩ := streaming_operands false
  exact ⟨h, h1, h15, h1', by decide, by decide, by decide, by decide, by decide, by decide, by decide, by decide, Checked.passes_some (by decide)⟩
theorem witness_VectorMoves :
    (∃ v w, VecSources (streaming false) [15, 0] [v, w]) ∧ VecSources (streaming false) [] [] ∧ VecUnreadable (streaming false) 2 ∧
    VecWritable (streaming false) 1 false ∧ ¬ VecWritable (streaming false) 0 false ∧ ∃ v, VecReads (streaming false) 15 v := by
  obtain ⟨h, h0, -, h2, -, -, h1, -, h0'⟩ := streaming_operands false
  exact ⟨h, h0, h2, h1, h0', _, vecReads_register (k := 15) (by decide) (by decide)⟩
theorem witness_ComparesPredicatesReductions :
    (∃ a, VecReads (streaming false) 15 a) ∧ (∃ b, VecReads (streaming false) 14 b) ∧ VecUnreadable (streaming false) 16 := by
  obtain ⟨-, -, -, -, h, -⟩ := streaming_operands false
  exact ⟨⟨_, vecReads_register (k := 15) (by decide) (by decide)⟩, ⟨_, vecReads_register (k := 14) (by decide) (by decide)⟩, h⟩

/-- What a push's checks give. -/
def Got.isOk {α : Type} (g : Got α) : Bool :=
  match g with
  | .ok _ => true
  | _ => false
theorem Got.isOk_ok {α : Type} {g : Got α} (h : g.isOk = true) : ∃ a, g = .ok a := by
  cases g <;> simp_all [Got.isOk]
/-- The last access of a gathering, its part 252 or another, answered. -/
def landsAt (part : Nat) (f : Finish) (share : List (Nat × Nat)) : State :=
  (arriving (outstanding (mapped {}) { anOp 7 (.mem (anAcc .load)) (.part 6 part) .sent with kind := .w }) (.resp 7 0 0x3F800000 none)).updCore 0
    fun c => { c with colls := [⟨6, 0, 0, 0, 0, 1, [], f, none, share⟩] }
def landsQ : Packet := ⟨5, coreUnit 1, coreUnit 0, 1, .control, 0, .resp 7 0 0x3F800000 none, .arrived, 0, 0, 0⟩
theorem landsAt_lastPart (part : Nat) (f : Finish) (share : List (Nat × Nat)) :
    LastPart (landsAt part f share) landsQ ⟨6, 0, 0, 0, 0, 1, [], f, none, share⟩ part 0x3F800000 := by
  refine ⟨7, { anOp 7 (.mem (anAcc .load)) (.part 6 part) .sent with kind := .w }, anAcc .load, rfl, rfl, by decide, ?_, rfl,
    fun n h => by simp [anOp] at h, rfl, ?_, rfl, rfl, rfl, rfl, ?_, ?_⟩ <;> rfl
theorem witness_VectorLoadsAndStores :
    let s := streaming false
    let l := s.curLvl
    let els := fun (m : Word) => (activeLanes m).flatMap fun j => loadEls 0x10000 (fmtOf 0x10000) j (j : Int)
    (l.slotOf s.cur.lev 3 = none ∧ l.slotOf s.cur.lev 0 = some 0) ∧ ¬ VecWritable s 0 false ∧ VecWritable s 15 false ∧ VecUnreadable s 1 ∧
    (∃ v, VecReads s 15 v) ∧ (∃ b, VecReads s 14 b) ∧ tagOk 0xA000000000000000 = false ∧ tagOk 0x10000 = true ∧
    (∃ c v a, denied.checkCur false (els 0x8000000000000000) = .fail c v a) ∧ els (l.rp 1) = [] ∧ els (l.rp 2) ≠ [] ∧
    (∃ ps, s.checkCur false (els (l.rp 2)) = .ok ps) ∧ s.curCore.ropeRoom 0 1 = true ∧
    l.stream (1 : VName).toNat = some ⟨aDesc 1, 0, 0, 5, none, false⟩ ∧ (∃ d, s.pushCheck ⟨aDesc 1, 0, 0, 5, none, false⟩ (l.rp 2) = .ok d) ∧
    (l.stream (15 : VName).toNat = none ∧ l.place (15 : VName).toNat = some 15) ∧ badRm (streaming true).curLvl.fcr = true ∧
    (fmtOf 0x2000000000010000).rounds = true ∧ badRm l.fcr = false ∧ (fmtOf 0x10000).rounds = false ∧
    (let share : List (Nat × Nat) := [(63, 0)]
     (∃ s c, LastPart s landsQ c 0 0x3F800000 ∧ c.finish = .vload 2 .f32 VReg.zero 0x8000000000000001 0 false ∧ c.share = share) ∧
     (share.map Prod.fst).Nodup ∧ (∀ x ∈ share, x.1 ≠ 0 / 4 ∧ (∀ y ∈ share, y.1 ≠ x.2) ∧ ∀ n, n < 3 → AMap.find? ([] : AMap Word) (4 * x.1 + n) = none)) ∧
    (let ops : List LaneOp := [⟨63, true, true, anOp 8 (.mem (anAcc .store)) .drop .awaiting⟩]
     (∃ s c, LastPart s landsQ c 255 0x3F800000 ∧ c.finish = .vstore (.e2m1x 32) VReg.zero 0 ops ∧ c.share = []) ∧
     ((ops.filter LaneOp.live).map fun x => x.op.id).Nodup) := by
  obtain ⟨-, -, h1, -, -, h15, -, -, h0⟩ := streaming_operands false
  refine ⟨by decide, h0, ?_, h1, ⟨_, vecReads_register (k := 15) (by decide) (by decide)⟩, ⟨_, vecReads_register (k := 14) (by decide) (by decide)⟩,
    by decide, by decide, Checked.fails_fail (by decide), by decide, by decide, Checked.passes_some (by decide), by decide, by decide,
    Got.isOk_ok (by decide), by decide, by decide, by decide, by decide, by decide,
    ⟨⟨_, _, landsAt_lastPart 0 _ [(63, 0)], rfl, rfl⟩, by decide, by decide⟩, ⟨⟨_, _, landsAt_lastPart 255 _ [], rfl, rfl⟩, by decide⟩⟩
  exact .inl ⟨by decide, by decide⟩
/-- Register 5 holds offset `o` in lane 63, the only lane of p2; word `w` of the slices is in error. -/
def sliced (o : Lane) (w : Nat) : State :=
  (streaming false).updCore 0 fun c => { c with vreg := [(5, VReg.tab fun j => if j = 63 then o else 0)], lanesBad := [w] }
theorem witness_LaneSlices :
    VecUnreadable (streaming false) 1 ∧
    VecReads (sliced 252 0) 5 ((sliced 252 0).curCore.rv 5) ∧
    ((sliced 252 0).curCore.rv 5).lane 63 = 252 ∧
    (252 % 4 = 0 ∧ 252 ≤ 252 ∧ 32 * 63 + 252 / 8 ∉ (sliced 252 0).curCore.lanesBad ∧ 2048 + (32 * 63 + 252 / 8) ∉ (sliced 252 0).curCore.lanesBad) ∧
    ((sliced 253 0).curCore.rv 5).lane 63 = 253 ∧ 253 % 4 ≠ 0 ∧ ((sliced 256 0).curCore.rv 5).lane 63 = 256 ∧ 256 % 4 = 0 ∧
    32 * 63 + 252 / 8 ∈ (sliced 252 2047).curCore.lanesBad ∧ (sliced 252 0).curCore.lanes.wf = true ∧
    (∀ j, j < 63 → ((sliced 252 0).curLvl.rp 2).getLsbD j = false) ∧ ((sliced 252 0).curLvl.rp 2).getLsbD 63 = true := by
  obtain ⟨-, -, h1, -⟩ := streaming_operands false
  exact ⟨h1, vecReads_register (k := 5) (by decide) (by decide), by decide⟩
/-- Tensor-map registers 0 and 1 with a descriptor that breaks its limits and a good one, and streams 0 and 3 open. -/
def tensors (full : Bool) : State :=
  (if full then noSlots else streaming false).updCore 0 fun c => { c with tm := #v[(aDesc 0).set 2 0, aDesc 0, (aDesc 0).set 0 0xA000000000000000,
    aDesc 0, aDesc 0, aDesc 0, aDesc 0, aDesc 0] }
theorem witness_TensorStreams :
    let s := tensors false
    let l := s.curLvl
    let good := fun (d : List Word) => let w := fun (i : Nat) => (d.getD i 0).toNat
      w 1 % 2 ^ 32 ≠ 0 ∧ w 1 / 2 ^ 32 ≠ 0 ∧ w 2 % 2 ^ 32 ≠ 0 ∧ w 2 / 2 ^ 32 = 0 ∧ w 5 / 2 = 0 ∧ w 6 = 0 ∧ w 7 = 0
    tagOk 0xA000000000000000 = false ∧ tagOk 0x10000 = true ∧ 0x10008 % 64 ≠ 0 ∧ 0x10000 % 64 = 0 ∧ (l.stream 0).isSome ∧
    (∃ ps, s.checkCur false (tab 8 fun i => El.mk i (0x10000 + BitVec.ofNat 64 (8 * i)) 8 .load 1 0 0 (-1) false i) = .ok ps) ∧
    (crs.curLvl.stream 3 = none ∧ crs.curLvl.slotOf crs.cur.lev (3 : RopeName).toNat = none ∧
      crs.curLvl.slotOf crs.cur.lev (0 : RopeName).toNat = some 0) ∧
    ¬ good (s.curCore.tm.get 0) ∧ good (s.curCore.tm.get 1) ∧ tagOk ((s.curCore.tm.get 2).getD 0 0) = false ∧
    ((tensors true).curLvl.stream 0 = none ∧ (tensors true).curCore.freeSlot = none ∧ good ((tensors true).curCore.tm.get 1)) ∧
    (∃ slot, crs.curCore.freeSlot = some slot) ∧
    (∃ st, l.stream 1 = some st ∧ tmapDir st.desc = true ∧ s.curCore.outstanding (s.curCore.ropeAt st.rope).uid = 0 ∧
      let o := { anOp 7 (.mem (anAcc .store)) .drop .sent with rope := (s.curCore.ropeAt st.rope).uid }
      (s.curCore.withOps [o]).outstanding ((s.curCore.withOps [o]).ropeAt st.rope).uid ≠ 0) ∧
    (∃ st, l.stream 3 = some st ∧ tmapDir st.desc = false ∧ st.pos < tmapChunks st.desc ∧ st.buf = none ∧
      chunkRow st.desc st.pos = some 0x10000 ∧
      let els := (activeLanes (chunkMask st.desc st.pos)).flatMap fun i => loadEls 0x10000 (fmtOf 0x10000) i (chunkIdx st.desc st.pos i)
      (∃ ps, s.checkCur false els = .ok ps) ∧ s.curCore.ropeRoom st.rope 64 = true ∧ ∃ x y z, denied.checkCur false els = .fail x y z) ∧
    (Instr.firstRead (.vext 0 3 5) = some 3 ∧ Instr.firstRead (.vaddF 0 5 3 5) = some 3) ∧
    (let d := ((aDesc 0).set 2 2).set 4 (BitVec.ofNat 64 (2 ^ 64 - 2 ^ 20)); 1 < tmapChunks d ∧ chunkRow d 1 = none) ∧
    (∀ m, m < 8 → ∃ s c, LastPart s landsQ c 0 0x3F800000 ∧ c.share = [] ∧ c.finish = .tmld m) ∧
    (∃ s c, LastPart s landsQ c 0 0x3F800000 ∧ c.share = [] ∧ c.finish = .chunk 3 .f32 0x8000000000000000 0 true) := by
  refine ⟨by decide, by decide, by decide, by decide, by decide, Checked.passes_some (by decide), by decide, by decide, by decide, by decide, by decide,
    ⟨4, by decide⟩, ⟨⟨aDesc 1, 0, 0, 5, none, false⟩, by decide⟩,
    ⟨⟨aDesc 0, 0, 0, 7, none, false⟩, by decide, by decide, by decide, by decide, by decide, Checked.passes_some (by decide), by decide,
      Checked.fails_fail (by decide)⟩, by decide, by decide, fun m _ => ⟨_, _, landsAt_lastPart 0 (.tmld m) [], rfl, rfl⟩,
    ⟨_, _, landsAt_lastPart 0 (.chunk 3 .f32 0x8000000000000000 0 true) [], rfl, rfl⟩⟩

/-- A command of a record. -/
def aCmd (w : Word) : Cmd := ⟨1, [w, 0, 0, 0, 0, 0, 0, 0], 0, 0, 0, 0, 0, false, 0, [], false, 0, 0⟩
/-- The core that the argument names, with a matrix unit. -/
def mxUnit (m : Mx) : State := crs.updCore 0 fun c => { c with mx := m }
/-- Register 5 of the level with a record in its lanes 0 and 1. -/
def recordIn (w : Word) (n : Nat) : State :=
  (mxUnit { queue := List.replicate n (aCmd 0x4000000000000000) }).updCore 0 fun c => { c with vreg := [(5, VReg.tab fun j =>
    if j = 0 then w.setWidth 32 else if j = 1 then (w >>> 32).setWidth 32 else 0)] }
/-- The core's pool with all its sets free, one level having borrowed one, or four lent to others. -/
def racks (h0 h1 : List Nat) (takes : List (Nat × Nat)) : State :=
  crs.updCore 0 fun c => { (c.setLvl 0 { c.lvl 0 with held := h0, ilock := [(.v 64, 9)] }).setLvl 1 { c.lvl 1 with held := h1 } with takes := takes }
theorem witness_MatrixAndRackInstructions :
    VecUnreadable (streaming false) 1 ∧ (∃ v, VecReads (recordIn 0x4000000000000000 63) 5 v ∧
      recordOk (tab 8 fun i => BitVec.ofNat 64 ((v.lane (2 * i + 1)).toNat * 2 ^ 32 + (v.lane (2 * i)).toNat)) 0 = true) ∧
    (recordIn 0x4000000000000000 63).curLvl.fcr = 0 ∧ (recordIn 0x4000000000000000 63).curCore.mx.queue.length < 64 ∧
    64 ≤ (recordIn 0x4000000000000000 64).curCore.mx.queue.length ∧
    (∃ v, VecReads (recordIn 0x7000000000000000 0) 5 v ∧
      recordOk (tab 8 fun i => BitVec.ofNat 64 ((v.lane (2 * i + 1)).toNat * 2 ^ 32 + (v.lane (2 * i)).toNat)) 0 = false) ∧
    (let s := racks [0] [1] []
     s.curCore.borrowed s.cur.lev = 0 ∧ 8 - s.curCore.floors = 4 ∧ s.curLvl.setsBusy [5] = false) ∧
    (let s := racks [0, 4] [1] []
     s.curCore.borrowed s.cur.lev ≠ 0 ∧ s.curLvl.setsBusy (s.curLvl.held.drop (s.curLvl.held.length - 1)) = true) ∧
    (let s := racks [0] [1] [(0, 4), (1, 1)]
     (s.core (coreKey s.arg.chip s.arg.node s.arg.slot)).takes = (0, 4) :: [(1, 1)] ∧
       4 ≤ (s.core (coreKey s.arg.chip s.arg.node s.arg.slot)).rackFree ∧
       (s.core (coreKey s.arg.chip s.arg.node s.arg.slot)).run = .running) := by
  obtain ⟨-, -, h, -⟩ := streaming_operands false
  exact ⟨h, ⟨_, vecReads_register (k := 5) (by decide) (by decide), by decide⟩, by decide, by decide, by decide,
    ⟨_, vecReads_register (k := 5) (by decide) (by decide), by decide⟩, by decide, by decide, by decide⟩
/-- The command heads the sequencer of a running core, its push's earlier operations done. -/
abbrev atHead (s : State) (m : Cmd) (rest : List Cmd) (kind : Nat) : Prop :=
  (s.core 0).mx.queue = m :: rest ∧ recKind m.words = kind ∧ (s.core 0).mx.stopped = false ∧ (s.core 0).run = .running ∧
    (s.core 0).mx.last ≠ some s.now ∧
    ∀ i ∈ m.after, ∀ o ∈ (s.core 0).ops, o.id ≠ i
def mma : Cmd := aCmd 0x0000000000400000
def ldb : Cmd := aCmd 0x1020000000800000
def rotb : Cmd := aCmd 0x2000000000000000
def stc : Cmd := aCmd 0x3010000001000000
def note : Cmd := aCmd 0x5C00000000000000
theorem witness_MatrixCommands :
    coreKey crs.arg.chip crs.arg.node crs.arg.slot = 0 ∧
    (let s := mxUnit { queue := [mma], st0 := .loaded }
     atHead s mma [] 0 ∧ (∀ x ∈ (s.core 0).mx.run, recKind x.words ≠ 0) ∧ (s.core 0).mx.st (recLat mma.words) = .loaded ∧
     s.rowsWait 0 (recOff mma.words) (recStr mma.words) 16 64 = false ∧
     s.mmaAdmits s.arg.chip s.arg.node ((activeOf (s.clu (keyCluster 0)) s.arg.slot).getD 0) = true ∧
     s.badRow 0 (recOff mma.words) (recStr mma.words) 16 64 = none) ∧
    (let s := mxUnit { queue := [ldb] }
     atHead s ldb [] 1 ∧ ((s.core 0).mx.settle s.now).st (recLat ldb.words) = .isOpen ∧
     (s.core 0).mx.reads s.now (recLat ldb.words) = false ∧ s.ringFirst 0 (recLat ldb.words) = false ∧
     s.rowsWait 0 (recOff ldb.words) (recStr ldb.words) 32 (ldbRow ldb.words) = false ∧ recBit56 ldb.words ≠ 1 ∧ s.badRow 0 (recOff ldb.words) (recStr ldb.words) 32 (ldbRow ldb.words) = none ∧ recFmt ldb.words = 2) ∧
    (let s := mxUnit { queue := [aCmd 0x1100000000000000], st0 := .loaded }
     atHead s (aCmd 0x1100000000000000) [] 1 ∧ ((s.core 0).mx.settle s.now).st 0 = .loaded ∧ (s.core 0).mx.reads s.now 0 = false ∧
     s.ringFirst 0 0 = false ∧ recBit56 (aCmd 0x1100000000000000).words = 1) ∧
    (let s := mxUnit { queue := [rotb], st0 := .loaded }
     atHead s rotb [] 2 ∧ s.ringNext 0 ≠ 0 ∧ (s.core 0).mx.st (recLat rotb.words) = .loaded ∧
     ((s.core (s.ringNext 0)).mx.settle s.now).st (recBit56 rotb.words) = .isOpen) ∧
    (let s := mxUnit { ring := [⟨1, 0, 7, 1⟩], st0 := .leaving }
     (s.core 0).mx.ring = ⟨1, 0, 7, 1⟩ :: [] ∧ coreKey s.arg.chip s.arg.node 7 ≠ 0 ∧ (s.core 0).mx.st 0 = .leaving ∧
     (s.core 0).mx.reads s.now 0 = false) ∧
    (let s := mxUnit { queue := [stc] }
     atHead s stc [] 3 ∧ (∀ x ∈ (s.core 0).mx.run, recKind x.words ≠ 3) ∧ recBit56 stc.words ≠ 1 ∧
     s.rowsWait 0 (recOff stc.words) (recStr stc.words) 16 256 = false ∧ (recForm stc.words).size = 4 ∧
     recBit56 (aCmd 0x3110000001000000).words = 1) ∧
    (let s := mxUnit { queue := [aCmd 0x4000000000000000, mma] }
     atHead s (aCmd 0x4000000000000000) [mma] 4) ∧
    (let s := mxUnit { queue := [note] }
     atHead s note [] 5) ∧
    (let s := mxUnit { queue := [aCmd 0x6000000000000000] }
     atHead s (aCmd 0x6000000000000000) [] 6) ∧
    (let s := mxUnit { run := [{ mma with done := true }, note] }
     (s.core 0).mx.run = { mma with done := true } :: [note] ∧ ({ mma with done := true } : Cmd).done = true) ∧
    (let s := mxUnit { run := [note] }
     (s.core 0).mx.run = note :: [] ∧ note.done = false ∧ recKind note.words = 5 ∧ (s.core 0).noted (recAcc note.words) note.num = false ∧
     (s.core 0).mbq.getD (recAcc note.words) [] = [] ∧ recAcc note.words < (s.core 0).mbq.length ∧ recAcc note.words = 3) ∧
    (let s := { mxUnit { queue := [note] } with now := 0x800000 }
     (s.core 0).mx.queue = [note] ∧ s.vdev? (s.core 0).owner = some (fetchVd State.reset) ∧ note.head + (fetchVd State.reset).limit ≤ s.now) ∧
    (let s := crs.updCore 0 fun c => { c with mbq := [[], [⟨0, 1, 3, 0⟩], [], [⟨0, 0, 1, 2⟩, ⟨0, 1, 3, 0⟩]], ended := [1] }
     (s.core 0).mbq.getD 3 [] = ⟨0, 0, 1, 2⟩ :: [⟨0, 1, 3, 0⟩] ∧ 3 ∉ (s.core 0).ended ∧ (s.core 0).mbq.getD 1 [] = ⟨0, 1, 3, 0⟩ :: [] ∧
       1 ∈ (s.core 0).ended ∧ (s.core 0).noteDue 1 = false ∧ (s.core 0).noteDue 3 = false) ∧
    (let s := mxUnit { run := [note] }
     (s.core 0).noteDue 3 = true ∧ 3 ∈ ((s.updCore 0 fun c => { c with ended := [3] }).core 0).ended ∧ 3 ∉ (s.core 0).ended ∧
     (∀ y ∈ (s.core 0).mbq.getD 3 [], y.at_ < s.now ∨ y.cls = 0)) ∧
    (let s := { mxUnit { queue := [mma], st0 := .loaded } with fe := [scratchPa 0 0 / 8], retry := [aWaiter 7 0] }
     atHead s mma [] 0 ∧ s.rowsWait 0 (recOff mma.words) (recStr mma.words) 16 64 = true ∧
     s.mmaAdmits s.arg.chip s.arg.node ((activeOf (s.clu (keyCluster 0)) s.arg.slot).getD 0) = true) ∧
    (let s := { crs with olds := [⟨0, 3, 7, [1]⟩] }
     (∃ o ∈ s.olds, o.core = 0 ∧ o.word = 3 ∧ 1 ∈ o.cmds) ∧ ∀ o ∈ s.olds, o.core = 0 → o.word = 3 → 2 ∉ o.cmds) := by
  refine ⟨?_, ?_, ?_, ?_, ?_, ?_, ?_, ?_, ?_, ?_, ?_, ?_, ?_, ?_, ?_, ?_, ?_⟩ <;> decide
/-- Without errors and failed pseudo-channels no word is in error. -/
theorem isBad_none {s : State} (hb : s.bad = []) (hc : (s.chips.all fun (c : Nat × Chip) => c.2.pcs.isEmpty) = true) (pa : Nat) :
    s.isBad pa = false := by
  have hp : ∀ c, (s.chip c).pcs = [] := by
    intro c
    unfold State.chip AMap.get
    generalize s.chips = l at hc
    induction l with
    | nil => rfl
    | cons e l ih =>
      obtain ⟨k, v⟩ := e
      rw [List.all_cons, Bool.and_eq_true] at hc
      rw [AMap.find?]
      split
      · exact List.isEmpty_iff.mp hc.1
      · exact ih hc.2
  unfold State.isBad State.pcFailed
  split <;> simp [hb, hp]
theorem witness_MatrixCommands_stc : ∀ n, n < 1024 → (mxUnit {}).isBad (scratchPa 0 (n / 64 * 256 + n % 64 * 4)) = false :=
  fun _ _ => isBad_none (by decide) (by decide) _

/-- A cairn store with entries and a state for virtual device 1, whose class 15 is enabled with a ring of two records at 0x20000. -/
def cairn (es : List CairnEntry) (cv : CairnVd) (starved : Nat) : State :=
  let s := { crs with vds := AMap.put crs.vds 1 { fetchVd State.reset with classes := [(15, [BitVec.ofNat 64 (2 ^ 63 + 2 ^ 51), 0, 0x20000, 0])] } }
  s.updClu 0 fun c => { c with cairn := es, cairnVd := [(1, cv)], starved := starved, tlb := [⟨1, 2, 16, 0x20000, 0x20000, (4, 7), (4, 7), 0⟩] }
/-- A post of key 5 that has arrived at the store of node 0. -/
def posting (s : State) (key : Nat) : State :=
  { s with pkts := [⟨5, coreUnit 0, ⟨0, 0, 12⟩, 1, .control, 0, .post ⟨key, 15, 0, 0⟩ 9, .arrived, 0, 0, 0⟩], arg := { id := 5 } }
/-- A direct translation that succeeds. -/
def Direct.isOk (d : Direct) : Bool :=
  match d with
  | .ok _ _ => true
  | _ => false
theorem Direct.isOk_ok {d : Direct × Option TlbEntry} (h : d.1.isOk = true) : ∃ pa mt e, d = (.ok pa mt, e) := by
  obtain ⟨d, e⟩ := d; cases d <;> simp_all [Direct.isOk]
theorem Direct.isOk_ok' {d : Direct} (h : d.isOk = true) : ∃ pa mt, d = .ok pa mt := by
  cases d <;> simp_all [Direct.isOk]
/-- A direct translation that is denied. -/
def Direct.isDenied (d : Direct) : Bool :=
  match d with
  | .denied _ => true
  | _ => false
theorem Direct.isDenied_denied {d : Direct} (h : d.isDenied = true) : ∃ v, d = .denied v := by cases d <;> simp_all [Direct.isDenied]
/-- The store takes the post now. -/
abbrev takesPost (s : State) : Prop :=
  s.arrivedPkt.isSome = true ∧ (s.vdev? 1).isSome = true ∧ s.draining 1 (coreUnit 0) ⟨0, 0, 12⟩ = false ∧ (s.cairnVd 0 1).saving = false ∧
    s.select 0 = none ∧ s.refillDue 0 = false ∧ (s.cairnVd 0 1).waitPg = none ∧ ∀ p, s.arrivedPkt = some p → s.postTurn 0 p = true
theorem witness_CairnEvents_post :
    (let s := posting (cairn [] { saving := true } 0) 5
     s.arrivedPkt.isSome = true ∧ (∃ v, s.vdev? 1 = some v ∧ v.reset < 2) ∧ (s.cairnVd 0 1).saving = true) ∧
    (let s := posting { crs with vds := AMap.put crs.vds 1 { fetchVd State.reset with reset := 2 } } 5
     s.arrivedPkt.isSome = true ∧ ∃ v, s.vdev? 1 = some v ∧ 2 ≤ v.reset) ∧
    (∃ v, ({ crs with vds := AMap.put crs.vds 1 { fetchVd State.reset with running := false } } : State).vdev? 1 = some v ∧
      v.running = false ∧ v.reset < 2) ∧
    (let s := posting (cairn [⟨1, 5, 15, 0, 0⟩] { stopped := true } 0) 5
     takesPost s ∧ (s.cairnVd 0 1).spilled 15 = 0 ∧
     ((s.clu 0).cairn.filter fun x => x.vd == 1).find? (fun x => x.key == 5) = some ⟨1, 5, 15, 0, 0⟩) ∧
    (let s := posting (cairn [⟨1, 5, 15, 0, 0⟩] { stopped := true } 0) 6
     takesPost s ∧ (s.cairnVd 0 1).spilled 15 = 0 ∧ (∀ e ∈ (s.clu 0).cairn, ¬ (e.vd = 1 ∧ e.key = 6)) ∧ (s.clu 0).cairn.length < 4096) ∧
    (let s := posting (cairn [] { stopped := true, tails := [(15, 2)] } 0) 5
     takesPost s ∧ (s.cairnVd 0 1).spilled 15 = 2) ∧
    (let s := posting (cairn [] { stopped := true, tails := [(15, 1)] } 0) 5
     takesPost s ∧ (s.cairnVd 0 1).spilled 15 = 1 ∧ s.populated 0x20020 = true ∧
     ∃ pa mt e, s.ringWay 0 1 5 0x20020 2 = (.ok pa mt, e)) ∧
    (crs.pcFailed 0x20020 = false ∧ crs.owed 0x20020 32 = false ∧ crs.memWaits 1 0x20020 = false) := by
  refine ⟨by decide, by decide, by decide, ?_, ?_, ?_, ?_, by decide⟩
  all_goals and_intros <;> first | decide | exact Direct.isOk_ok (by decide)
theorem witness_CairnEvents :
    (let s := cairn [⟨1, 5, 15, 0, 0⟩] {} 0
     s.select 0 = some (0, 15, ⟨1, 5, 15, 0, 0⟩, 0) ∧ (s.vdAt 0).isSome = true ∧ s.refillDue 0 = false ∧
     (s.core (s.activeKey 0 0)).slotFor 0 = some 0 ∧ 0 < (s.core (s.activeKey 0 0)).slots.length ∧
     (s.core (coreKey s.arg.chip s.arg.node s.arg.slot)).slots[15]?.isSome = true) ∧
    (let s := cairn [] { tails := [(15, 1)] } 15
     (s.refillClass 0).isSome = true ∧ s.select 0 = none ∧ s.postReady 0 = false ∧ s.refillDue 0 = true ∧ (s.vdev? 1).isSome = true ∧
     ∃ pa mt e, s.ringWay 0 1 0 0x20000 1 = (.ok pa mt, e)) ∧ (crs.owed 0x20000 32 = false ∧ crs.memWaits 1 0x20000 = false) ∧
    (let s := (classed 0).updCore 0 fun c => { c with ops := [{ anOp 7 (.post aPost none) .drop .held with kind := .rel, scope := .y }] }
     let posts := (s.core 0).ops.filter fun x => x.isPost.isSome
     posts[s.arg.index]? = some { anOp 7 (.post aPost none) .drop .held with kind := .rel, scope := .y } ∧
     (∀ x ∈ posts.take s.arg.index, x.lev ≠ 0 ∨ x.isPost.map Post.key ≠ some aPost.key) ∧
     s.sendsNow 0 = true ∧ (s.core 0).clearToGo { anOp 7 (.post aPost none) .drop .held with kind := .rel, scope := .y } = true) ∧
    (∀ st ∈ [0, 1], ∀ strict ∈ [none, some 0, some 31],
      let o := anOp 7 (.post aPost strict) .drop .sent
      let s := (arriving (outstanding (classed 0) o) (.postAck 7 st 1)).setLvl 0 0 { act := some (anAct 0 0 false), wait := .evposts 7 5 }
      ((s.core 0).ops.find? fun y => y.id == 7) = some o ∧ (s.lvl 0 (lvOf o.lev)).isAct o.act = true ∧
      (s.lvl 0 (lvOf o.lev)).wait = .evposts 7 5 ∧ o.quiet = false ∧ (s.core 0).evretry.toNat < 0xFFFFFFFF) ∧
    (let s := (({ classed 0 with arg := { vd := 1 } } : State).setLvl 0 0 { wait := .evquiet 5 10 true })
     (∃ v, s.vdev? s.arg.vd = some v ∧ 0 < v.cores ∧ s.vdCoreKey v 0 = 0 ∧
      (v.nodes.all fun n => s.nodeQuiet v s.arg.vd (nodeKey n.1 n.2)) = false) ∧
     (s.lvl 0 0).wait = .evquiet 5 10 true ∧ s.now < 10) ∧
    (let s := ({ crs with arg := { vd := 1 }, vds := [(1, { fetchVd State.reset with sweep := some 0 })] } : State).updCore 0 fun c =>
       { c.setLvl 0 { wait := .evquiet 31 0 false } with slots := List.replicate 16 {} }
     (∃ v, s.vdev? s.arg.vd = some v ∧ v.sweep = some (s.activity v s.arg.vd) ∧
      (v.nodes.all fun n => s.nodeQuiet v s.arg.vd (nodeKey n.1 n.2)) = true) ∧ (s.lvl 0 0).wait = .evquiet 31 0 false ∧ 0 ≤ s.now) := by
  refine ⟨by decide, ⟨by decide, by decide, by decide, by decide, by decide, Direct.isOk_ok (by decide)⟩, by decide, by decide, by decide,
    ⟨⟨((classed 0).vdev? 1).getD (fetchVd State.reset), by decide⟩, by decide⟩, ⟨⟨{ fetchVd State.reset with sweep := some 0 }, by decide⟩, by decide⟩⟩
/-- A message for core 0 of a type and level. -/
def aMsg (ty lev : Nat) (code : Option (List Byte)) : Msg := ⟨ty, [1, 2, 3, 4], 0x10000, lev, code, 1, true, [], true⟩
/-- The message arriving at a core whose dispatch cache holds an entry of types 3, 5 and 0x20, and whose slots are free or not. -/
def messaged (m : Msg) (full : Bool) (run : RunState) : State :=
  let disp : AMap DispEntry := [(3, { v := true }), (5, { v := true }), (0x20, { v := true, lev := 3 }), (0x21, { v := false })]
  let slots : List Slot := List.replicate 16 { st := if full then .running else .free }
  (arriving crs (.message m 9)).updCore 0 fun c => { c with run := run, disp := disp, slots := slots }
/-- The level free to start what its core holds. -/
def starting (f : Core → Core) : State := crs.updCore 0 fun c => (f c).setLvl 0 {}
theorem witness_ActivationsStart :
    (∀ m ∈ [aMsg 1 0 none, aMsg 0x20 0 none, aMsg 0xFF 0 none, aMsg 3 0 none], ∀ full ∈ [false, true],
      let s := messaged m full .running
      s.arrivedPkt = some ⟨5, coreUnit 1, coreUnit 0, 1, .control, 0, .message m 9, .arrived, 0, 0, 0⟩ ∧
      (∃ v, s.vdev? 1 = some v ∧ v.running = true ∧ v.step < 6) ∧ s.draining 1 (coreUnit 1) (coreUnit 0) = false ∧ (s.core 0).owner = 1) ∧
    (((messaged (aMsg 1 0 none) false .running).core 0).slotFor 0 = some 0 ∧ (((messaged (aMsg 1 0 none) false .running).core 0).slotFor 3).isSome = true ∧
      ((messaged (aMsg 1 0 none) true .running).core 0).slotFor 0 = none ∧ ((messaged (aMsg 1 0 none) true .running).core 0).slotFor 3 = none) ∧
    ((messaged (aMsg 1 0 none) false .frozen).core 0).run = .frozen ∧
    AMap.find? ((messaged (aMsg 0x20 0 none) false .running).core 0).disp 0x20 = some { v := true, lev := 3 } ∧
    (({ v := true, lev := 3 } : DispEntry).code = (none : Option (List Byte)).isSome) ∧
    AMap.find? ((messaged (aMsg 0x20 0 none) false .running).core 0).disp 0x21 = some { v := false } ∧
    AMap.find? ((messaged (aMsg 0x20 0 none) false .running).core 0).disp 3 = some { v := true } ∧
    AMap.find? ((messaged (aMsg 0xFF 0 none) false .running).core 0).disp 0xFF = none ∧
    (let s := crs.updCore 0 fun c => { c with dispbase := 0x10000, dispAsk := [(0xFF, [9])] }
     (∃ pa mt, s.entryWay 0 0xFF = .ok pa mt) ∧ AMap.find? (s.core 0).dispAsk 0xFF = some [9] ∧ (s.core 0).loading = false ∧
     s.populated 0x10FF0 = true ∧ s.badRun 0x10FF0 16 = false ∧ s.owed 0x10FF0 16 = false ∧ s.memWaits 1 0x10FF0 = false) ∧
    (∃ val, (denied.updCore 0 fun c => { c with dispbase := 0x10000, dispAsk := [(0xFF, [9])] }).entryWay 0 0xFF = .denied val) ∧
    (let s := (messaged (aMsg 0xFF 0 none) false .running).updCore 0 fun c => { c with dispbase := 0x10000 }
     (∃ pa mt, s.entryWay 0 0xFF = .ok pa mt) ∧ (s.core 0).filling = false ∧ AMap.find? (s.core 0).dispBad 9 = none ∧
     AMap.find? (s.updCore 0 fun c => { c with dispBad := [(9, 2)] }).curCore.dispBad 9 = some 2) ∧
    ((messaged (aMsg 0x20 0 none) false .lost).core 0).run = .lost ∧
    ((messaged (aMsg 0x20 0 none) false .running).updCore 0 fun c => { c with dispAsk := [(3, [])] }).curCore.filling = true ∧
    (∀ f ∈ [fun (c : Core) => c, fun c => { c with slots := c.slots.set 15 ⟨.pending, aMsg 1 0 none, 0, 3, none, 0⟩ },
        fun c => { c with slots := c.slots.set 0 ⟨.pending, aMsg 0x1F 0 none, 0, 3, none, 0⟩, disp := [(0x1F, { v := true })] },
        fun c => { c with tagPend := [(63, aMsg 2 0 none, 1)] }],
      let s := starting f
      ((s.core 0).lvl 0).act = none ∧ (s.core 0).run = .running ∧ (s.core 0).filling = false ∧ s.starts 0 = true) ∧
    oldestStarter ((starting fun c => c).core 0 |>.starters 0) = none ∧
    oldestStarter ((starting fun c => { c with slots := c.slots.set 15 ⟨.pending, aMsg 1 0 none, 0, 3, none, 0⟩ }).core 0 |>.starters 0) =
      some (.slot 15, 3) ∧
    oldestStarter ((starting fun c => { c with slots := c.slots.set 0 ⟨.pending, aMsg 0x1F 0 none, 0, 3, none, 0⟩ }).core 0 |>.starters 0) =
      some (.slot 0, 3) ∧
    oldestStarter ((starting fun c => { c with tagPend := [(63, aMsg 2 0 none, 1)] }).core 0 |>.starters 0) = some (.tag 63, 1) ∧
    (let s := (trapping.setLvl 0 1 { act := some (anAct 0 1 false), wait := .trapped, trap := some ⟨[0, 0, 0, 0], 0x40, 0, false, false⟩ })
     oldestStarter ((s.core 0).starters 3) = some (.forward 1, 0) ∧ ((s.core 0).lvl 3).act = none ∧ ((s.core 0).lvl 1).trap.isSome = true) ∧
    (let o := anOp 7 (.aread 0x10000 512 63 0xFE00 [63, 0, 0, 0x10000]) .drop .sent
     ((outstanding crs o).core 0).ops.find? (fun x => x.id == 7) = some o ∧
     (arriving (outstanding crs o) (.areadReply 7 0 [])).arrivedPkt.isSome = true ∧
     (arriving (outstanding crs o) (.areadReply 7 0 [])).pkts.all (fun p => !(arriving (outstanding crs o) (.areadReply 7 0 [])).landingWaits p) = true) ∧
    ((starting fun c => { c with dispAsk := [(3, [])] }).core 0).taking = true ∧
    (let s := arriving (crs.updCore 0 fun c =>
       { c.withOps [{ anOp 7 (.cinv 0) .drop .held with rope := 9 }] with ropes := [(5, ⟨9, 0, 1, 1, [], [], [], false⟩)] }) (.adopt 0 9)
     s.draining 1 (coreUnit 1) (coreUnit 0) = false ∧ (s.core 0).adoptPassed (BitVec.ofNat 64 (5 * 2 ^ 19 + 2 ^ 12 + 1)) = false ∧
     (s.core 0).adoptPassed (BitVec.ofNat 64 (5 * 2 ^ 19)) = true) := by
  refine ⟨?_, by decide, by decide, by decide, by decide, by decide, by decide, by decide, ⟨Direct.isOk_ok' (by decide), by decide⟩, Direct.isDenied_denied (by decide),
    ⟨Direct.isOk_ok' (by decide), by decide⟩, by decide, by decide, ?_, by decide,
    by decide, by decide, by decide, by decide, by decide, by decide, by decide⟩
  · intro m hm full hf
    refine ⟨?_, ⟨((messaged m full .running).vdev? 1).getD (fetchVd State.reset), ?_⟩, ?_⟩ <;>
      (simp only [List.mem_cons, List.not_mem_nil, or_false] at hm hf
       rcases hm with rfl | rfl | rfl | rfl <;> rcases hf with rfl | rfl <;> decide)
  · intro f hf
    simp only [List.mem_cons, List.not_mem_nil, or_false] at hf
    rcases hf with rfl | rfl | rfl | rfl <;> decide

/-- Tables of both stages at 0x30000 that map the first GiB to itself, for virtual device 1, whose walk of page 1 core 0 waits for. -/
def tabledAt (s1 s2 : Word) : State :=
  let m := ((crs.mem.writeBytes 0x30000 (leBytes 8 0x31003)).writeBytes 0x31000 (leBytes 8 0x32003)).writeBytes 0x32000 (leBytes 8 0x1D)
  let v := { fetchVd State.reset with s1 := s1, s2 := s2 }
  { crs.setLvl 0 0 { wait := .page } with
    mem := m, vds := [(1, v)], arg := { id := 9, index := 2 }, walks := [⟨9, 1, 1, [.level 0 0 0], none⟩] }
def tabled (s1 : Word) : State := tabledAt s1 0x30001
/-- What a walk gives; a denial of a malformed entry is told apart. -/
def WalkRes.is (w : WalkRes) (n : Nat) : Bool :=
  match w with
  | .hit _ _ => n == 0
  | .denied _ none _ => n == 1
  | .denied _ (some _) _ => n == 2
  | .lost _ _ => n == 3
  | .ask _ _ _ _ => n == 4
theorem WalkRes.is_hit {w : WalkRes} (h : w.is 0 = true) : ∃ e l, w = .hit e l := by
  cases w with
  | denied _ b _ => cases b <;> simp_all [WalkRes.is]
  | _ => simp_all [WalkRes.is]
theorem WalkRes.is_denied {w : WalkRes} (h : w.is 1 = true) : ∃ t l, w = .denied t none l := by
  cases w with
  | denied _ b _ => cases b <;> simp_all [WalkRes.is]
  | _ => simp_all [WalkRes.is]
theorem WalkRes.is_bad {w : WalkRes} (h : w.is 2 = true) : ∃ t r l, w = .denied t (some r) l := by
  cases w with
  | denied _ b _ => cases b <;> simp_all [WalkRes.is]
  | _ => simp_all [WalkRes.is]
theorem WalkRes.is_lost {w : WalkRes} (h : w.is 3 = true) : ∃ c l, w = .lost c l := by
  cases w with
  | denied _ b _ => cases b <;> simp_all [WalkRes.is]
  | _ => simp_all [WalkRes.is]
theorem WalkRes.is_ask {w : WalkRes} (h : w.is 4 = true) : ∃ a b c l, w = .ask a b c l := by
  cases w with
  | denied _ b _ => cases b <;> simp_all [WalkRes.is]
  | _ => simp_all [WalkRes.is]
theorem witness_WalksAndInvalidations :
    (let s := tabled 0x30001
     (s.walks.find? fun x => x.id == s.arg.id && x.asked.isNone && s.walkGoes x) = some ⟨9, 1, 1, [.level 0 0 0], none⟩ ∧
     (s.lvl 0 0).wait = .page ∧ (s.lvl 0 0).acts = 0 ∧ ∀ x ∈ s.walks, x.id = 9) ∧
    (∃ e l, (tabled 0x30001).walkVa 1 false 0x10000 = .hit e l) ∧ (∃ t l, (tabled 0x30000).walkVa 1 false 0x10000 = .denied t none l) ∧
    (∃ t r l, (tabled 0x32001).walkVa 1 false 0x10000 = .denied t (some r) l) ∧
    (∃ c l, (tabledAt 0x30001 0x9000000001).walkVa 1 false 0x10000 = .lost c l) ∧
    (∃ a b c l, (tabled 0x40001).walkVa 1 false 0x10000 = .ask a b c l) ∧
    (let s := { tabled 0x30001 with walks := [⟨9, 1, 1, [.level 0 0 0], some (2, 1, 4)⟩], arg := { index := 2, vd := 1, addr := 1, flag := true } }
     (⟨9, 1, 1, [.level 0 0 0], some (2, 1, 4)⟩ : Walk) ∈ s.walks ∧
     (⟨9, 1, 1, [.level 0 0 0], some (2, 1, 4)⟩ : Walk).waitsOn s.arg.vd 2 s.arg.addr = true ∧ s.arg.flag = true) ∧
    (let s := { crs.setLvl 0 0 { wait := .tlbinv 9 } with invals := [⟨9, 1, none, [(0, none)], some (0, 0), 0⟩], arg := { id := 9 } }
     (s.invals.find? fun x => x.id == s.arg.id) = some ⟨9, 1, none, [(0, none)], some (0, 0), 0⟩ ∧
     AMap.find? [((0 : Nat), (none : Option (List (Nat × Nat))))] (nodeKey s.arg.chip s.arg.node) = some none ∧
     s.savedCovered 1 none = false ∧
     (∀ n, n < 9 → (s.core (coreKey s.arg.chip s.arg.node n)).coveredOps 1 none = []) ∧ (s.lvl 0 0).wait = .tlbinv 9) ∧
    (∃ n m, n < 1024 ∧ m < 9 ∧ (AMap.find? crs.cores (coreKey crs.arg.chip n m)).isSome) ∧ crs.arg.addr ∉ crs.clear ∧
    (let s := { crs with clear := [0x100], arg := { addr := 0x100 } }
     s.arg.addr ∈ s.clear) ∧ crs.untouched (0x100 * 256) = true ∧
    (∀ n ∈ [0x100, scratchPa 0 0 / 256], n ∉ crs.clear ∧ ({ crs with touched := [0x100] } : State).untouched (n * 256) = false) ∧
    (∀ s ∈ [tabled 0x30001, tabled 0x30000, tabled 0x32001, tabledAt 0x30001 0x9000000001, tabled 0x40001],
      s.walkWaits ⟨9, 1, 1, [.level 0 0 0], none⟩ (s.walkVa 1 false 0x10000).seen = false) ∧
    (let s := { tabled 0x30001 with fe := [0x30000 / 8], retry := [⟨coreUnit 0, { anAcc (.fe .ff) with pa := 0x30000 }, 7, 0⟩] }
     s.walkWaits ⟨9, 1, 1, [.level 0 0 0], none⟩ (s.walkVa 1 false 0x10000).seen = true) := by
  refine ⟨by decide, WalkRes.is_hit (by decide), WalkRes.is_denied (by decide), WalkRes.is_bad (by decide), WalkRes.is_lost (by decide),
    WalkRes.is_ask (by decide), by decide, by decide, ⟨0, 0, by decide⟩, by decide, by decide, by decide, by decide, by decide, by decide⟩
/-- A transfer of `n` bytes from `src` to `dst`. -/
def xfer (src dst n : Word) : Xfer := ⟨1, [src, dst, n, 0, 0, 0, 1, 1, 1, 0], 0, 0, 0, 0, 0, false, false, [], [], [], none⟩
/-- A channel at work on a transfer, its first sector next, the copy unit's TLB holding page 1. -/
def copying (x : Xfer) (perm : Nat) : State :=
  (crs.updCore 0 fun c => { c with chan := { c.chan with queue := [x] } }).updClu 0
    fun c => { c with tlb := [⟨1, 1, 16, 0x10000, 0x10000, (4, perm), (4, 7), 0⟩] }
/-- The checks of that channel's sector, and whether its words all go where `near` says. -/
def sectorOf (x : Xfer) (perm : Nat) : Checked :=
  (copying x perm).check 0 x.launch ((copying x perm).clu 0).tlb x.xl false (sectorEls x.snap x.sector)
def movable (x : Xfer) (near : Bool) (ps : List Placed) : Bool :=
  let s := copying x 7
  !s.sectorWaits 0 ps && (ps.all fun q => s.populated q.pa && !s.pcFailed q.pa && !s.isBad q.pa) &&
    (pairUp ps).all fun w => decide ((ownerOf w.2.pa).chip = keyChip 0 ∧ (ownerOf w.2.pa).node = keyNode 0) == near
/-- A sector whose destination has a waiter to be served first. -/
def waitingCopy : State :=
  { copying (xfer 0x10000 0x100000000000000 16) 7 with fe := [scratchPa 0 0 / 8], retry := [aWaiter 7 0] }
theorem witness_CopiesMove :
    let own : Word := 0x100000000000000
    (let s := copying (xfer 0x10000 0x18000 16) 7
     (s.core 0).chan.queue = [xfer 0x10000 0x18000 16] ∧ s.channelRuns 0 = true ∧ (xfer 0x10000 0x18000 16).parked = false ∧ (xfer 0x10000 0x18000 16).retry = false ∧
     (xfer 0x10000 0x18000 16).flight = [] ∧ ∀ o ∈ (s.core 0).ops, o.id ∉ (xfer 0x10000 0x18000 16).after) ∧
    copyBytes (xfer 0x10000 own 0).snap = 0 ∧ copyBytes (xfer 0x10000 own 16).snap ≠ 0 ∧ sectorCount (xfer 0x10000 own 16).snap ≤ 0 + 1 ∧
    0 + 1 < sectorCount (xfer 0x10000 own 1024).snap ∧
    (∃ ps, sectorOf (xfer 0x20000 own 16) 7 = .wait ps) ∧ (∃ c v a, sectorOf (xfer 0x10000 own 16) 4 = .fail c v a) ∧
    (∃ ps, sectorOf (xfer 0x10000 own 16) 7 = .ok ps ∧ movable (xfer 0x10000 own 16) true ps = true) ∧
    (∃ ps, sectorOf (xfer own 0x10000 16) 7 = .ok ps ∧ movable (xfer own 0x10000 16) false ps = true) ∧
    (let x := xfer 0x10000 own 16
     let s := waitingCopy
     ∃ ps, s.check 0 x.launch (s.clu 0).tlb x.xl false (sectorEls x.snap x.sector) = .ok ps ∧ s.sectorWaits 0 ps = true ∧
       ∀ q ∈ ps, s.draining (s.core 0).owner (ownerOf q.pa) (ownerOf q.pa) = false) ∧
    (crs.updClu 0 fun c => { c with repair := some 0 }).copying (coreUnit 0) = true ∧ crs.copying (coreUnit 0) = false ∧
    (let ws : List (Nat × Nat × Word × Option Bool) := [(scratchPa 0 0, 2, 5, none)]
     let s := arriving crs (.copyData 9 3 ws)
     s.arrivedPkt.isSome = true ∧ s.draining 1 (coreUnit 1) (coreUnit 0) = false ∧
     (s.clu (nodeKey (coreUnit 0).chip (coreUnit 0).node)).repair ≠ some (coreUnit 0).unit ∧ (∀ p ∈ s.pkts, s.portTurn p = true) ∧
     ∀ w ∈ ws, s.owed w.1 8 = false ∧ s.memWaits 1 w.1 = false ∧ s.pcFailed w.1 = false) ∧
    (let f : CopyPart := ⟨3, ⟨0, 1, 10⟩, 0, [], [], 0, 0, none⟩
     let x := { xfer own 0x10000 16 with flight := [f] }
     let s := { copying x 7 with pkts := [⟨5, ⟨0, 1, 10⟩, ⟨0, 0, 9⟩, 1, .control, 0, .copyAck 0 3 0, .arrived, 0, 0, 0⟩], arg := { id := 5 } }
     s.arrivedPkt.isSome = true ∧ (∀ p, s.arrivedPkt = some p → p.dst.unit = 9) ∧ (s.core 0).chan.queue = [x] ∧
     (x.flight.find? fun g => g.id == 3) = some f ∧ (x.flight.filter fun g => g.id != 3) = [] ∧ x.bad = none ∧
     ([f, { f with id := 4 }].filter fun g => g.id != 3) ≠ []) := by
  refine ⟨by decide, by decide, by decide, by decide, by decide, Checked.misses_wait (by decide), Checked.fails_fail (by decide),
    Checked.passes_ok (by decide), Checked.passes_ok (by decide), ?_, by decide, by decide, by decide, by decide⟩
  obtain ⟨ps, h, hp⟩ := Checked.passes_ok (c := waitingCopy.check 0 0 (waitingCopy.clu 0).tlb [] false
      (sectorEls (xfer 0x10000 0x100000000000000 16).snap 0))
    (p := fun ps => waitingCopy.sectorWaits 0 ps && ps.all fun q =>
      !waitingCopy.draining (waitingCopy.core 0).owner (ownerOf q.pa) (ownerOf q.pa)) (by decide)
  rw [Bool.and_eq_true, List.all_eq_true] at hp
  exact ⟨ps, h, hp.1, fun q hq => by simpa only [Bool.not_eq_true'] using hp.2 q hq⟩

/-- The words of a record of one tile at priority 0, good when `good`. -/
def aRecord (good : Bool) : List Word := [0x20000, 7, 0x100000001, BitVec.ofNat 64 (2 ^ 48 + 2 ^ 32 + 1), if good then 1 else 0, 0, 0, 0]
/-- Virtual device 1 with the tables above, record 0 in queue 0 whose word 0 is `w`, launches, and a clock. -/
def queuedAt (w : Word) (good : Bool) (tail : Nat) (ls : List Launch) : State :=
  let s := tabled 0x30001
  let v := { fetchVd State.reset with s1 := 0x30001, s2 := 0x30001, slot := [(0, 1)], launches := ls, queues := [⟨tail, 0, 0, [], [(0, 1)], none⟩] }
  let m := (aRecord good).foldl (fun (m : Memory × Nat) w => (m.1.writeBytes m.2 (leBytes 8 w.toNat), m.2 + 8)) (s.mem, 0x10000)
  let told := [offerKey 0, finishKey 1, enqueueKey (2 ^ 64 + 3 * 2 ^ 32 + 9)].flatMap fun n => [1, 0x3FFF].map fun p =>
    (Walker.launch 1 n, p, Xlate.hit ⟨1, p, 16, p * 65536, p * 65536, (4, 7), (4, 7), 0⟩)
  ({ s with mem := m.1, vds := [(1, v)], walks := [], told := told, arg := { vd := 1, id := 1 } }).updChip 0 fun c =>
    { c with slots := [(1, { queue0 := [w] })] }
def queued (good : Bool) (tail : Nat) (ls : List Launch) : State := queuedAt 0x10001 good tail ls
/-- A launch of that record. -/
def aLaunch (next : AMap Nat) (fault : Option (List Word)) : Launch := ⟨1, 0, 0, aRecord true, next, fault, 0, 2, false⟩
/-- Every core of the virtual device has begun its last entry. -/
def begunAll : AMap Nat := tab 8 fun n => (n, n + 8)
/-- What a unit's translation gives. -/
def UnitPa.is (u : UnitPa) (n : Nat) : Bool :=
  match u with
  | .ok _ _ => n == 0
  | .bad _ => n == 1
  | .ask => n == 2
theorem UnitPa.is_ok {u : UnitPa} (h : u.is 0 = true) : ∃ pa mt, u = .ok pa mt := by cases u <;> simp_all [UnitPa.is]
theorem UnitPa.is_ask {u : UnitPa} (h : u.is 2 = true) : u = .ask := by cases u <;> simp_all [UnitPa.is]
/-- The record that a state's queues offer. -/
abbrev offer (good : Bool) : Offer := ⟨0, 0, 1, aRecord good⟩
/-- The state in which LAUNCH_START looks at the queues, the virtual device there, and what it finds. -/
def looks (s : State) : State := (s.retryEnqueues 1).retryFailing 1
def looksVd (s : State) : VDev := ((looks s).vdev? 1).getD (fetchVd State.reset)
def looksAt (s : State) : List Offer × State := (looks s).offers 1 (looksVd s)
/-- The translation of the status word of record 0. -/
def statusPa (s : State) : UnitPa :=
  (looksAt s).2.unitPa (.launch 1 (finishKey 1)) 1 (statusVa ((looksAt s).2.queueWord 1 0) 0) permW
theorem witness_LaunchesRun_start :
    (∀ good ∈ [true, false], let s := queued good 1 []
      (looks s).vdev? 1 = some (looksVd s) ∧ (looksVd s).running = true ∧ (looksVd s).res = .run ∧ (looksVd s).step = 0 ∧
        (looksVd s).reset = 0 ∧ (looksAt s).1 = [offer good] ∧ (looksVd s).recordReady 1 (aRecord good) = true ∧
        (looksVd s).recordOk 1 (aRecord good) = good ∧ (looksVd s).launches.length < 4 ∧
        ∀ n, n < (looksVd s).cores → ((looksAt s).2.core ((looksAt s).2.vdCoreKey (looksVd s) n)).run = .running) ∧
    (looksAt (queued true 0 [])).1 = [] ∧ (∃ pa mt, statusPa (queued false 1 []) = .ok pa mt) ∧
    (let s := queuedAt 0x3FFFF00D false 1 []
     let ws : List Word := List.replicate 8 0
     (looksAt s).1 = [⟨0, 0, 1, ws⟩] ∧ (looksVd s).recordReady 1 ws = true ∧ (looksVd s).recordOk 1 ws = false ∧ (looksVd s).lwmark ≤ 1 ∧ 1 ∉ (looksVd s).doneIds ∧
     statusPa s = .ask) := by
  refine ⟨fun good hg => ?_, by decide, UnitPa.is_ok (by decide), by decide +kernel, by decide, by decide, by decide, by decide,
    UnitPa.is_ask (by decide +kernel)⟩
  simp only [List.mem_cons, List.not_mem_nil, or_false] at hg
  rcases hg with rfl | rfl <;> decide +kernel
/-- Virtual device 1 on packages 0 and 1, with an entry of launch 1 on its way to core 8 or none. -/
def apart (ps : List Packet) : State :=
  let v := { fetchVd State.reset with chips := [0, 1], base := [(0, 0), (1, 0)], launches := [aLaunch [] none] }
  let s : State := { crs with vds := [(1, v)], arg := { vd := 1, index := 8 }, pkts := ps }
  (s.updChip 1 fun c => { c with power := .on }).updCore (coreKey 1 0 0) fun c => { c with owner := 1 }
def anEntry : Packet := ⟨5, ⟨0, 0, 14⟩, ⟨1, 0, 14⟩, 1, .control, 0, .entry 8 1 8, .arrived, 0, 0, 0⟩
theorem witness_LaunchesRun :
    (∀ ls ∈ [[], [aLaunch [] none]], let s := queued true 1 ls
      (∃ v, s.vdev? 1 = some v ∧ v.running = true ∧ v.res = .run ∧ v.step = 0 ∧ v.reset = 0 ∧ 0 < v.cores ∧ s.vdCoreKey v 0 = 0 ∧
        keyChip 0 = v.chips.getD 0 0 ∧
        v.launches = ls ∧ (v.launches.filter fun j => j.waits (s.core 0) 0 && ((s.core 0).slotFor (recordLevel j.words)).isSome) = ls) ∧
      s.entryPkts 1 0 = []) ∧
    ((queued true 1 []).core 0).run = .running ∧ ((queued true 1 []).core 0).owner = 1 ∧
    (∀ ps ∈ [[], [anEntry]], let s := apart ps
      s.entryPkts 1 8 = ps.map (fun e => (e, 1, 8)) ∧
      (∃ v, s.vdev? 1 = some v ∧ v.running = true ∧ v.res = .run ∧ v.step = 0 ∧ v.reset = 0 ∧ 8 < v.cores ∧
        s.vdCoreKey v 8 = coreKey 1 0 0 ∧ keyChip (coreKey 1 0 0) ≠ v.chips.getD 0 0 ∧ v.active 1 = some (aLaunch [] none) ∧
        (v.launches.filter fun j => j.waits (s.core (coreKey 1 0 0)) 8) = [aLaunch [] none]) ∧ (aLaunch [] none).goesOn = true ∧
      (s.core (coreKey 1 0 0)).owner = 1 ∧ (s.core (coreKey 1 0 0)).run = .running ∧
      ((s.core (coreKey 1 0 0)).slotFor (recordLevel (aRecord true))).isSome = true) ∧
    (∀ f ∈ [none, some [(3 : Word), 0, 0, 0]], let s := queued true 1 [aLaunch begunAll f]
      (∃ v, s.vdev? 1 = some v ∧ v.active 1 = some (aLaunch begunAll f) ∧ v.running = true ∧ v.reset = 0 ∧ v.step < 6 ∧
        (aLaunch begunAll f).entriesLeft v = false ∧ (aLaunch [] none).entriesLeft v = true ∧ ∀ n, n < v.cores → s.entryPkts 1 n = []) ∧
      (∀ kc ∈ s.cores, kc.2.owner = 1 → kc.2.worksFor 1 = false)) ∧
    (let s := queued true 1 [aLaunch begunAll (some [3, 0, 0, 0])]
     let w := s.queueWord 1 0
     (s.unitHeld 1 0x10040 8 = false ∧ s.unitHeld 1 0x10048 32 = false ∧ statusVa w 0 = 0x10040) ∧
     (∃ pa mt, s.unitPa (.launch 1 (finishKey 1)) 1 (statusVa w 0) permW = .ok pa mt) ∧
     ∃ pf mf, s.unitPa (.launch 1 (finishKey 1)) 1 (faultVa w 0) permW = .ok pf mf ∧
      ∃ ps ms, (s.pokeRun pf mf [3 + BitVec.ofNat 64 (2 * 2 ^ 24), 0, 0, 0] []).unitPa (.launch 1 (finishKey 1)) 1 (statusVa w 0) permW = .ok ps ms) := by
  refine ⟨fun ls hl => ?_, by decide, by decide, fun ps hp => ?_, fun f hf => ?_,
    by decide, UnitPa.is_ok (by decide), 0x10048, 0, by decide, UnitPa.is_ok (by decide)⟩
  · simp only [List.mem_cons, List.not_mem_nil, or_false] at hl
    rcases hl with rfl | rfl <;> decide
  · simp only [List.mem_cons, List.not_mem_nil, or_false] at hp
    rcases hp with rfl | rfl <;> decide
  · simp only [List.mem_cons, List.not_mem_nil, or_false] at hf
    rcases hf with rfl | rfl <;> decide
/-- A virtual device with work that does not run. -/
def idle : VDev := { fetchVd State.reset with running := false, launches := [aLaunch [] none], slot := [(0, 1)] }
/-- Virtual device 1 as changed, beside virtual device 2 on the same block, not running, with a launch; the argument names device 1. -/
def shared (f : VDev → VDev) (now : Nat) : State :=
  let v := { fetchVd State.reset with slot := [(0, 1)] }
  ({ crs with now := now, arg := { vd := 1 }, vds := [(1, f v), (2, idle)] } : State).updChip 0 fun c => { c with slots := [(1, { keyed := true })] }
/-- The virtual device 1 of a state. -/
def vd1 (s : State) : VDev := (s.vdev? 1).getD (fetchVd State.reset)
theorem witness_ResidencyAndReset :
    (let s := shared id 65536
     let v := vd1 s
     s.vdev? s.arg.vd = some v ∧ v.running = true ∧ v.step = 0 ∧ v.reset = 0 ∧ v.res = .run ∧ v.since + 2 ^ v.qlog ≤ s.now ∧
     (∃ x ∈ s.vds, x.1 ≠ 1 ∧ x.2.overlaps v = true ∧ s.runnable x.1 x.2 = true) ∧ ¬ v.since + 2 ^ v.qlog ≤ (shared id 65535).now) ∧
    (let s := shared (fun v => { v with step := 6 }) 0
     ∃ v, (s.preSteps 1).vdev? 1 = some v ∧ v.step = 6 ∧ v.forBiv = false) ∧
    (let s := shared id 0
     ∃ v, (s.preSteps 1).vdev? 1 = some v ∧ v.step ≠ 6) ∧
    (let s := { shared id 0 with vds := [(1, idle)] }
     let v := vd1 s
     s.vdev? 1 = some v ∧ s.runnable 1 v = true ∧ v.running = false ∧ (∀ x ∈ s.vds, x.2.running = true → x.2.overlaps v = false) ∧
     (∀ c ∈ v.chips, (s.chip c).power = .on) ∧ v.saved = [] ∧ v.ran = true ∧
     ¬ ∃ x ∈ s.vds, x.1 ≠ 1 ∧ x.2.overlaps v = true ∧ s.startable x.1 x.2 = true ∧ s.turnAt v x.1 < s.turnAt v 1) ∧
    (let s := shared (fun v => { v with res := .entering, step := 6, forBiv := true }) 0
     ∃ v, (s.preSteps 1).vdev? 1 = some v ∧ v.res = .entering ∧ v.step = 6 ∧ v.wake = 0) ∧
    ((vd1 (shared (fun v => { v with res := .waking }) 0)).res = .waking ∧ (vd1 (shared id 0)).res ≠ .waking) ∧
    (let s := shared (fun v => { v with reset := 3, scope := [0], drainEnd := 5120 }) 5120
     (vd1 s).reset = 3 ∧ (vd1 s).drainEnd ≤ s.now ∧ ¬ (vd1 s).drainEnd ≤ 5119 ∧ (s.core (s.vdCoreKey (vd1 s) 0)).owner = 1 ∧
     (∃ b ∈ s.vdBlocks 1 (vd1 s), chipOf b.base ∈ (vd1 s).scope ∧ s.takenUp 1 (vd1 s) b = false ∧ 0 < b.size) ∧
     (∀ m ∈ s.media, m.data.length ≤ 256 ∧ m.line ≠ 0) ∧ ¬ ∃ p ∈ s.pkts, p.vd = 1 ∧ p.id < (vd1 s).drainMark) ∧
    (let s := ({ shared (fun v => { v with frozen := [(0, 3)] }) 0 with arg := { index := 1 } } : State).updChip 0 fun c =>
       { c with slots := [(1, { vd := 1, scope := [0], cmdarg := BitVec.ofNat 64 (3 * 2 ^ 16) })] }
     s.vdev? (s.slotVd 0 1) = some (vd1 s) ∧ (vd1 s).res = .run ∧ (vd1 s).reset = 0 ∧ s.vdev? (s.slotVd 0 2) = none ∧
     ((windowCore 0 (fld (3 * 2 ^ 16) 0 14), fld (3 * 2 ^ 16) 16 2) ∈ (vd1 s).frozen) ∧ (windowCore 0 0, 2) ∉ (vd1 s).frozen ∧
     (vd1 s).chips.filter (AMap.get (s.chip 0).slots {} 1).scope.contains = [0] ∧
     (vd1 s).chips.filter (AMap.get (s.chip 0).slots {} 2).scope.contains = []) := by
  refine ⟨⟨by decide, by decide, by decide, by decide, by decide, by decide, ?_, by decide⟩, ⟨vd1 ((shared (fun v => { v with step := 6 }) 0).preSteps 1), by decide⟩,
    ⟨vd1 ((shared id 0).preSteps 1), by decide⟩, by decide,
    ⟨vd1 ((shared (fun v => { v with res := .entering, step := 6, forBiv := true }) 0).preSteps 1), by decide⟩, by decide, by decide, by decide⟩
  exact ⟨(2, idle), by decide⟩

/-- A packet in flight and a flit of it at a port of a node of package 0. -/
def aPkt (id : Nat) (dst : UnitId) (last : Nat) (st : Stage) : Packet := ⟨id, coreUnit 0, dst, 1, .control, last, .withdraw 9, st, 0, 0, 7⟩
def aFlit (id pkt idx node port : Nat) : Flit := { id := id, pkt := pkt, idx := idx, plane := .control, age := 0, chip := 0, node := node, port := port }
/-- The state with packets and flits. -/
def fabric (a : Arg) (ps : List Packet) (fs : List Flit) : State := { crs with arg := a, pkts := ps, flits := fs }
theorem witness_FabricAndLinks_routing :
    (({ crs with clus := [(0, { used := [[98], []] })] } : State).clu 0).used.getD 0 [] = [98] ∧
    (∀ d ∈ [(⟨0, 1, 3⟩ : UnitId), ⟨0, 0, 15⟩, ⟨0, 0, 3⟩], ∀ last ∈ [0, 1],
      let f := aFlit 6 5 0 0 0
      let s := fabric {} [aPkt 5 d last .flying] [f]
      (s.clu 0).used.getD 0 [] = [] ∧ s.heads 0 0 .control = [f] ∧ f.rnode = none ∧ s.pktOf f = some (aPkt 5 d last .flying)) ∧
    (let f := aFlit 6 5 0 (attach 0) 1
     let s := (fabric { node := attach 0 } [aPkt 5 ⟨1, 0, 3⟩ 0 .flying] [f]).updChip 0 fun c => { c with table := [(1, 1)] }
     s.heads 0 (attach 0) .control = [f] ∧ s.pktOf f = some (aPkt 5 ⟨1, 0, 3⟩ 0 .flying) ∧ portAt (attach 0) = some 0 ∧
     (AMap.get ((s.chip 0).tableAt s.now (attach 0)) 0 1).getLsbD 0 = true ∧ ((s.chip 0).port 0).open 0 = true ∧
     0 < ((s.chip 0).port 0).store.length) ∧
    (let f := aFlit 6 5 0 0 0
     let g := aFlit 7 8 0 0 1
     let s := fabric {} [aPkt 5 ⟨0, 1, 3⟩ 0 .flying, aPkt 8 ⟨0, 2, 3⟩ 0 .flying] [f, g]
     (s.clu 0).used.getD 0 [] = [] ∧ 0 < (s.clu 0).used.length ∧ s.heads 0 0 .control = [f, g] ∧ f.id ≠ g.id ∧ s.flitKey f < s.flitKey g ∧
     s.pktOf f = some (aPkt 5 ⟨0, 1, 3⟩ 0 .flying) ∧ s.pktOf g = some (aPkt 8 ⟨0, 2, 3⟩ 0 .flying)) ∧
    (fabric {} [] []).turnOf 0 0 .control = none ∧
    (let s := fabric {} [aPkt 5 ⟨0, 1, 3⟩ 0 (.outbox 0)] []
     let t := s.routed 0 0 .control
     let f : Flit := { id := t.nextId, pkt := 5, idx := 0, plane := .control, age := 0, chip := 0, node := 0, port := 5 }
     s.turnOf 0 0 .control = some (aPkt 5 ⟨0, 1, 3⟩ 0 (.outbox 0), 0) ∧ 99 ∉ (t.clu 0).used.getD 0 [] ∧ (t.clu 0).old.getD 0 false = false ∧
     s.injCap 1 0 0 0 = 0 ∧ (∃ d, t.way f (aPkt 5 ⟨0, 1, 3⟩ 0 (.outbox 0)) ((t.clu 0).used.getD 0 []) = .torus d) ∧
     t.pktOf f = some (aPkt 5 ⟨0, 1, 3⟩ 0 (.outbox 0)) ∧ 0 < ((t.clu 0).injIn s.now).length ∧ 0 < (t.clu 0).injUnit.length) := by
  refine ⟨by decide, by decide, by decide, by decide, by decide, ?_⟩
  and_intros <;> first | decide | exact ⟨0, by decide⟩
/-- A flit ejected at node 0, with the messages being put together there. -/
def ejected (rs : List Reasm) (floor : Nat) : State :=
  ({ fabric { id := 6 } [aPkt 5 ⟨0, 0, 3⟩ 1 .flying] [aFlit 6 5 1 0 6] with vds := [(1, { fetchVd State.reset with floor := floor })] } : State).updClu 0
    fun c => { c with reasm := rs }
/-- The link that arrives at package 0 by port 1, with what is on its wire and the far end's store, for a unit of the edge node or beyond. -/
def linked (m next : Nat) (p : Port) (d : UnitId) : State :=
  ((fabric { port := 1, lane := 0 } [aPkt 5 d 0 .flying] []).updPort 1 3 fun x => { x with wire := [[(m, aFlit 6 5 0 0 4)], []] }).updPort 0 1 fun _ =>
    { p with seqIn := [next, 0] }
/-- The flit as it comes in at the edge node of port 1, with that router's outputs taken as given. -/
def coming : Flit := { aFlit 6 5 0 0 4 with node := attach 1 }
def taken (s : State) (us : List Nat) : State := s.updClu (nodeKey 0 (attach 1)) fun c => { c with used := [us, []] }
theorem witness_FabricAndLinks :
    (∀ fl ∈ [0, 1], let s := ejected [] fl
      (s.flits.find? fun f => f.id == s.arg.id && f.port == 6 && f.chip == 0 && f.node == 0) = some (aFlit 6 5 1 0 6) ∧
      s.pktOf (aFlit 6 5 1 0 6) = some (aPkt 5 ⟨0, 0, 3⟩ 1 .flying) ∧
      (s.clu 0).reasm.find? (fun r => r.src == coreUnit 0 && r.tag == 7) = none ∧ s.floorOf 1 0 0 = fl ∧ s.floorsAt 0 0 = fl) ∧
    (let rs := tab 256 fun i => (⟨coreUnit 0, 100 + i, 2, [0], true⟩ : Reasm)
     256 - 0 ≤ (rs.filter fun r => r.shared).length ∧ (rs.filter fun r => r.vd == 1 && !r.shared).length = 0 ∧
       rs.find? (fun r => r.src == coreUnit 0 && r.tag == 7) = none) ∧
    (((ejected [⟨coreUnit 0, 7, 1, [0], true⟩] 0).clu 0).reasm.find? fun r => r.src == coreUnit 0 && r.tag == 7) =
      some ⟨coreUnit 0, 7, 1, [0], true⟩ ∧ 1 < (insertNat 1 [0]).length ∧ (insertNat 1 []).length ≤ 1 ∧
    (let s := linked 4095 4095 {} ⟨0, 1, 3⟩
     (((s.chip (neighbour 0 (1 / 2))).port (farPort 1)).wire.getD 0 [] = [(4095, aFlit 6 5 0 0 4)]) ∧
     0 < ((s.chip (neighbour 0 (1 / 2))).port (farPort 1)).wire.length ∧ ((s.chip 0).port 1).seqIn.getD 0 0 = 4095 ∧ 0 < ((s.chip 0).port 1).seqIn.length ∧
     98 ∉ (s.clu (nodeKey 0 (attach 1))).used.getD 0 [] ∧ s.pktOf (aFlit 6 5 0 0 4) = some (aPkt 5 ⟨0, 1, 3⟩ 0 .flying) ∧
     s.heads 0 (attach 1) .control = [] ∧ (1 : Nat) ≠ attach 1 ∧
     ((productive (attach 1) 1 ++ [0, 2, 1, 3]).find? fun d => !([] : List Nat).contains d).getD 0 ∉ (s.clu (nodeKey 0 (attach 1))).used.getD 0 []) ∧
    (let s := taken (linked 4095 4095 {} ⟨0, 1, 3⟩) [0, 1, 2, 3]
     98 ∉ (s.clu (nodeKey 0 (attach 1))).used.getD 0 [] ∧ ∀ d, d < 4 → d ∈ (s.clu (nodeKey 0 (attach 1))).used.getD 0 []) ∧
    98 ∈ ((taken crs [98]).clu (nodeKey 0 (attach 1))).used.getD 0 [] ∧ crs.dark 0 = false ∧ State.reset.dark 0 = true ∧
    (let s := linked 4095 4095 { inService := false } ⟨0, 1, 3⟩
     (((s.chip (neighbour 0 (1 / 2))).port (farPort 1)).wire.getD 0 [] = [(4095, aFlit 6 5 0 0 4)]) ∧ ((s.chip 0).port 1).inService = false) ∧
    (let s := linked 5 5 {} ⟨0, attach 1, 3⟩
     s.pktOf (aFlit 6 5 0 0 4) = some (aPkt 5 ⟨0, attach 1, 3⟩ 0 .flying) ∧ s.heads 0 (attach 1) .control = [] ∧
     (((s.clu (nodeKey 0 (attach 1))).used.getD 0 []).filter (· == 6)).length < 2) ∧
    ((linked 5 4 {} ⟨0, 1, 3⟩).chip 0 |>.port 1).seqIn.getD 0 0 ≠ 5 ∧ ((crs.chip 1).port 3).wire.getD 0 [] = [] ∧
    (({ lanes := [false] } : Port).lanes.getD 0 true = false ∧ ({} : Port).lanes.getD 0 true = true ∧ 0 < ({} : Port).lanes.length) ∧
    (let s := (linked 5 4 { training := true } ⟨0, 1, 3⟩).updChip 0 fun c => { c with power := .training }
     ((s.chip 0).port 1).training = true ∧ ((s.chip 0).port 1).dead = false ∧ (s.chip 0).power = .training ∧
     ((s.chip 0).port (opposite 1)).store.length = 2) ∧
    (({} : Port).inService = true ∧ ({} : Port).training = false ∧ ({} : Port).dead = false ∧ ({ dead := true } : Port).dead = true ∧
      ({ training := true } : Port).since + portBound ≤ ({ crs with now := portBound } : State).now ∧
      ({ crs with now := portBound - 1 } : State).now < ({ training := true } : Port).since + portBound) := by
  refine ⟨by decide, ?_, ?_⟩
  · decide +kernel
  · and_intros <;> decide

/-- A packet of virtual device 1 arrived at a unit of node 0 of package 0, where group 1 is rooted. -/
def tree (u : UnitId) (pl : Payload) (f : Cluster → Cluster) : State :=
  ({ grouped with pkts := [⟨5, coreUnit 0, u, 1, .control, 0, pl, .arrived, 0, 0, 0⟩], arg := { id := 5, index := 1 } } : State).updClu 0 f
def router0 : UnitId := ⟨0, 0, 13⟩
def slice0 : UnitId := ⟨0, 0, 10⟩
def aMc (g : Nat) : Mcast := ⟨g, 0, 0, 0, 0x10000, 0, 0⟩
/-- The merge entry of group 1 for a line at 0x10000. -/
def aMerge (sent : List Nat) (owed : List (UnitId × Nat)) (buf : List SentLine) : Merge := ⟨1, 1, 0x10000, 0, [(31, 0x10000)], sent, owed, buf, 0, 0, 0, 0⟩
/-- A line sent, and the same refused until cycle `n`. -/
def aSent (n : Option Nat) : SentLine := { line := 31, to_ := none, data := [], bad := [], again := n }
/-- A package of whose first stack every pseudo-channel has failed. -/
def failing : State := crs.updChip 0 fun c => { c with pcs := tab 64 fun i => (i, .failed) }
theorem witness_pcFailed : failing.pcFailed 0x10000 = true := by
  have all : ∀ n, n < 64 → AMap.find? (failing.chip 0).pcs (0 * 64 + n) = some PcState.failed := by decide
  have here := all (pcOf 0x10000) (Nat.lt_of_lt_of_le (Nat.mod_lt _ (by decide)) (by decide : 63 ≤ 64))
  unfold State.pcFailed
  rw [show regionOf 0x10000 = .hbm 0 0 0x10000 by decide]
  simp only [here, Bool.and_eq_true, beq_self_eq_true, and_true]
  decide
/-- A waiter whose condition holds at the first word of a line. -/
def owing (pa : Nat) : State := { crs with fe := [pa / 8], retry := [⟨coreUnit 0, { anAcc (.fe .ff) with pa := pa }, 7, 0⟩] }
/-- A virtual device whose budget for stack 0 is spent. -/
def spent : State :=
  { crs with vds := [(1, { fetchVd State.reset with budget := 5 })], chips := [(0, { power := .on, budget := [(16, 5)] })] }
theorem witness_MulticastTrees :
    (let s := tree router0 (.mcst (aMc 1) [] 9) id
     s.arrivedPkt.isSome = true ∧ s.draining 1 (coreUnit 0) router0 = false ∧ s.isRoot 1 1 router0 = true ∧ s.isRoot 2 1 router0 = false ∧
     AMap.find? (s.clu 0).root 1 = none ∧ membersAt (s.treeEntry 0 1) 0 ≠ []) ∧
    AMap.find? ((tree router0 (.mcst (aMc 1) [] 9) fun c => { c with root := [(1, 8)] }).clu 0).root 1 = some 8 ∧
    (let e := { grouped with chips := [(0, { power := .on, groups := [(1, [BitVec.ofNat 64 (2 ^ 63 + 2 ^ 47 + 7 * 2 ^ 44)])] })] }
     e.isRoot 1 1 router0 = true ∧ membersAt (e.treeEntry 0 1) 0 = [] ∧ treePorts (e.treeEntry 0 1) 0 0 = []) ∧
    (let p : Packet := ⟨5, router0, coreUnit 0, 1, .data, 0, .mcData (aMc 1) [] 0 router0, .arrived, 0, 0, 0⟩
     (∃ v, (tabled 0x30000).landingWay p 0x20000 = .denied v) ∧
       (∃ c, ({ tabled 0x30001 with told := [(p.lander, 2, .lost 0x04)] } : State).landingWay p 0x20000 = .lost c) ∧
       (let s := (tabled 0x30001).updClu 0 fun c => { c with tlb := [⟨1, 1, 16, 0x10000, 0x10000, (4, 7), (4, 7), 0⟩] }
        ∃ pa mt, s.landingWay p 0x10000 = .ok pa mt) ∧
       (tabled 0x30001).unitTurn (ownerOf 0x10000) (lineInput 0x10000) = true ∧ (tabled 0x30001).copying (ownerOf 0x10000) = false) ∧
    (tabled 0x30001).populated 0x10000 = true ∧ (tabled 0x30001).populated 0x9000000000 = false ∧
    (∀ pa ∈ [0x10000, scratchPa 0 0], (owing pa).owed pa 256 = true ∧ crs.owed pa 256 = false) ∧
    (tabled 0x30001).memWaits 1 0x10000 = false ∧ spent.memWaits 1 0x10100 = true ∧
    (let r : Comb := ⟨1, 0, 1, 2, 0, 0, 0, (coreUnit 0, true), some (9, coreUnit 0)⟩
     let s := tree router0 (.comb 1 0 1 0 0 router0) fun c => { c with combs := [r], root := [(1, 9)] }
     (s.clu 0).comb? 1 0 1 = some r ∧ r.expect - 1 ≠ 0 ∧ ({ r with expect := 1 } : Comb).expect - 1 = 0 ∧ (s.clu 0).comb? 1 1 1 = none ∧
     AMap.find? (s.clu 0).root 1 = some 9) ∧
    (let s := tree slice0 (.comb 1 31 1 0 0 slice0) fun c => { c with merges := [aMerge [31] [] [aSent none]] }
     aMerge [31] [] [aSent none] ∈ (s.clu 0).merges ∧ slice0.unit = 10) ∧
    (let s := tree slice0 (.mcldReq (aMc 1) 0x10000 [(31, 0x10000)] 9) fun c => { c with merges := [aMerge [] [] []] }
     s.draining 1 (coreUnit 0) slice0 = false ∧ s.treeValid 0 1 1 = true ∧ s.treeValid 0 2 1 = false ∧ s.populated 0x10000 = true ∧
     ((s.clu 0).merges.find? fun e => e.group == 1) = some (aMerge [] [] []) ∧
     (aMerge [] [] []).pa = 0x10000 ∧ (aMerge [] [] []).pa ≠ 0x20000) ∧
    (tree slice0 (.lineBusy 1 31) fun c => { c with merges := [aMerge [31] [] [aSent none]] }).arrivedPkt.isSome = true ∧
    ([aSent (some 64), aSent none].find? fun x => x.again.any fun t => decide (t ≤ 64)) = some (aSent (some 64)) ∧
    ([aSent (some 64), aSent none].find? fun x => x.again.any fun t => decide (t ≤ 63)) = none ∧
    (let s := tree (coreUnit 0) (.mcldLine 1 0x10000 [] [] 31 false slice0) id
     s.pkts.all (fun p => !s.landingWaits p) = true) ∧
    (grouped.updClu 0 fun c => { c with repair := some 0 }).copying (coreUnit 0) = true ∧ grouped.copying (coreUnit 0) = false ∧
    ((tree slice0 (.mcldReq (aMc 1) 0x10000 [] 9) id).clu 0).merges.find? (fun e => e.group == 1) = none ∧
    (let e := aMerge [] [] []
     ((tab 32 id).find? fun i => (e.lines.any fun l => l.1 == i) && !e.sent.contains i) = some 31 ∧
     (grouped.readLine slice0 e.vd (e.lineAt 31) e.mt).2.2.groupRoot 0 1 1 = some router0 ∧ grouped.owed (e.lineAt 31) 256 = false ∧ grouped.memWaits 1 (e.lineAt 31) = false) ∧
    (let e := aMerge [31] [(coreUnit 0, 31)] []
     (∀ i, i < 32 → (∃ l ∈ e.lines, l.1 = i) → i ∈ e.sent) ∧ e.owed = (coreUnit 0, 31) :: []) ∧
    (let e := aMerge [31] [] []
     e.buf = [] ∧ e.owed = [] ∧ (∀ l ∈ e.lines, l.1 ∈ e.sent) ∧ entryMembers (grouped.treeEntry 0 1) = [(0, 0)] ∧
     grouped.treeValid 0 1 1 = true) ∧ (aMerge [31] [] [aSent none]).buf ≠ [] ∧
    (let c : Core := { mclds := [⟨9, aMc 1, 0, 0, [(31, 0x10000)], [], [31], 0, 0, 0⟩] }
     (c.mclds.find? fun r => r.m.group == 1 && r.left.contains 31 && r.lines.contains (31, 0x10000)) =
      some ⟨9, aMc 1, 0, 0, [(31, 0x10000)], [], [31], 0, 0, 0⟩ ∧
     (c.mclds.find? fun r => r.m.group == 1 && r.left.contains 30 && r.lines.contains (30, 0x10000)) = none ∧
     ([31].filter (· != 31) = [] ∧ [30, 31].filter (· != 31) ≠ [])) ∧ (coreUnit 0).unit < 9 ∧ router0.unit = 13 ∧ 8 ≠ mcldKey slice0 := by
  refine ⟨by decide, by decide, by decide, ⟨Direct.isDenied_denied (by decide), ⟨0x04, by decide⟩, Direct.isOk_ok' (by decide), by decide⟩, ?_⟩
  and_intros <;> decide

/-- Core 0 stopped, in a cluster whose map is `m` and whose slot `r` is being copied. -/
def broken (a : Arg) (m : List Nat) (r : Option Nat) : State :=
  ({ crs.updCore 0 fun c => { c with run := .stopped } with arg := a } : State).updClu 0 fun c => { c with map := m, repair := r }
/-- The state with package 0 changed. -/
def package (a : Arg) (f : Chip → Chip) : State := ({ crs with arg := a } : State).updChip 0 f
theorem witness_RepairsAndPower :
    (let s := broken { index := 1 } [0, 1, 2, 3, 4, 5, 6, 7] none
     (s.core 0).run = .stopped ∧ (s.clu 0).repair = none ∧ ∀ i, i < 8 → i ∈ (s.clu 0).map) ∧
    (let s := broken { index := 2 } [8, 1, 2, 3, 4, 5, 6, 7] none
     ¬ (∀ i, i < 8 → i ∈ (s.clu 0).map) ∧ (∃ v, s.vdev? (s.core 0).owner = some v)) ∧ (crs.core 0).run ≠ .stopped ∧
    (let s := broken {} [0, 1, 2, 3, 4, 5, 6, 7] (some 0)
     (s.clu 0).repair = some s.arg.slot ∧ (s.clu 0).spareSlot = some 8 ∧ s.arg.slot ∈ (s.clu 0).map ∧
     fld (s.chip 0).evbase.toNat 0 5 = 0 ∧ s.mem.wf = true ∧ s.clear = []) ∧
    (let s := package { stack := 7, pc := 62 } fun c => { c with pcs := [(510, .copying)] }
     AMap.get (s.chip 0).pcs .good 510 = .copying ∧ AMap.get (crs.chip 0).pcs .good 510 = .good ∧ 7 ∉ (crs.chip 0).spare ∧
     7 ∈ ((package {} fun c => { c with spare := [7] }).chip 0).spare) ∧
    ((crs.chip 0).sups.getD 15 false = true ∧ ((crs.chip 0).sups.set 15 false).getD 15 false = false ∧ (crs.chip 0).lead = 0 ∧
     ∃ j, j < 16 ∧ ((crs.chip 0).sups.set 0 false).getD j false = true) ∧
    (let c := crs.updCore 0 fun c => { c with l1 := [⟨0x100, [], []⟩] }
     2 ^ 61 ≤ 2 ^ 61 + 0x201F ∧ (⟨0x100, [], []⟩ : L1Line) ∈ (c.core 0).l1 ∧ 0x100 = 0x201F / 32 ∧ ∀ l ∈ (crs.core 0).l1, l.addr ≠ 0x201F / 32) ∧
    (2 ^ 60 - 1 < 2 ^ 60 ∧ 2 ^ 60 ≤ 2 ^ 60 + 2047 ∧ (2 ^ 60 + 2047 - 2 ^ 60) / 2048 = 0) ∧
    (let s := package { vd := 1, row := 9 } fun c => { c with banks := [(0, { counts := [((9, 1), 4000)] })] }
     AMap.find? (s.chip 0).banks 0 = some { counts := [((9, 1), 4000)] } ∧ bankKey s.arg = 0 ∧ (s.chip 0).rhth.getD 0 0 ≤ 4000 ∧ 3999 < (s.chip 0).rhth.getD 0 0) ∧
    (∀ pw ∈ [Power.standby, .on, .recovery, .training], (package { conn := 3, seq := 9 } fun c => { c with power := pw }).takesUp opMgmt) ∧
    (∀ pw ∈ [Power.standby, .on, .training], ∀ cmd ∈ [1, 2, 3, 4],
      (package { conn := 3, seq := 9, words := [BitVec.ofNat 64 (4 * 2 ^ 56 + cmd * 2 ^ 52)] } fun c => { c with power := pw }).takesMgmt 4
        (if cmd = 4 then 0xF000000000FFFF else 0xF0000000000000)) ∧
    (∀ n ∈ [1499, 1500, 3200, 3201], let w := 4 * 2 ^ 56 + 4 * 2 ^ 52 + n
      (package { conn := 3, seq := 9, words := [BitVec.ofNat 64 w] } id).takesMgmt 4 0xF000000000FFFF ∧ fld w 0 16 = n ∧ fld w 52 4 = 4) ∧
    (let s := package {} fun c => { c with power := .on }
     ¬ (∀ x ∈ s.vds, 0 ∈ x.2.created → x.2.res = .bivouac)) ∧
    (∀ x ∈ ({ crs with vds := [(1, { fetchVd State.reset with res := .bivouac })] } : State).vds, 0 ∈ x.2.created → x.2.res = .bivouac) ∧
    ((1500 : Nat) ≤ 3200 ∧ 3201 > 3200 ∧ 1499 < 1500) ∧ (crs.chip 0).rollback ≤ (⟨0, true, true, 0⟩ : Image).version ∧
    (({} : Chip).flash.find? ({} : Chip).verified = some ⟨0, true, true, 0⟩ ∧
      ({ flash := [⟨0, false, true, 0⟩] } : Chip).flash.find? ({} : Chip).verified = none ∧
      ((package {} fun c => { c with power := .off }).chip 0).power = .off) ∧
    (let c : Chip := { power := .on, throttled := true }
     c.modCap < 3201 ∧ 3040 ≤ c.modCap ∧ 3040 * 100 ≤ c.modCap * 95 ∧ c.modCap * 95 < 3041 * 100) := by
  refine ⟨by decide, ⟨by decide, vd1 crs, by decide⟩, by decide, by decide, by decide, ⟨by decide, by decide, by decide, 1, by decide⟩, by decide, by decide, by decide, ?_,
    ?_, ?_, by decide, by decide, by decide, by decide, ⟨by decide, by decide, by decide⟩, by decide⟩
  · intro pw hp
    simp only [List.mem_cons, List.not_mem_nil, or_false] at hp
    unfold State.takesUp
    rcases hp with rfl | rfl | rfl | rfl <;> decide
  · intro pw hp cmd hc
    simp only [List.mem_cons, List.not_mem_nil, or_false] at hp hc
    unfold State.takesMgmt State.takesUp
    rcases hp with rfl | rfl | rfl <;> rcases hc with rfl | rfl | rfl | rfl <;> decide
  · intro n hn
    simp only [List.mem_cons, List.not_mem_nil, or_false] at hn
    unfold State.takesMgmt State.takesUp
    rcases hn with rfl | rfl | rfl | rfl <;> decide

/-- A partition command at the head of package 0's queue, with blocks, slots and virtual devices. -/
def partition (cmd log : Nat) (bs : AMap Block) (sl : AMap VdSlot) (vs : AMap VDev) : State :=
  let w : Word := BitVec.ofNat 64 (cmd * 2 ^ 60 + log * 2 ^ 46)
  ({ crs with vds := vs } : State).updChip 0 fun c => { c with partq := [w], blocks := bs, slots := sl }
/-- A descriptor of virtual device 1 on one cluster. -/
def aDescriptor : List Word := [BitVec.ofNat 64 (2 ^ 48 + 2 ^ 32 + 0x800000), 0, 0x10000, BitVec.ofNat 64 (16 * 2 ^ 39)]
theorem witness_PartitionsAndSupervisorSpace :
    (∀ n ∈ [0, 10], let s := partition 1 n [(n * 1024, .free)] [] []
      s.partHead 0 1 = some ⟨1, 0, n, 0⟩ ∧ n ≤ 10 ∧ AMap.find? (s.chip 0).blocks (blockKey n 0) = some .free) ∧
    (let s := partition 2 1 [(0, .free), (1, .free), (1024, .split)] [] []
     s.partHead 0 2 = some ⟨2, 0, 1, 0⟩ ∧ AMap.find? (s.chip 0).blocks (blockKey 1 0) = some .split ∧
     AMap.find? (s.chip 0).blocks (blockKey 0 0) = some .free ∧ AMap.find? (s.chip 0).blocks (blockKey 0 1) = some .free) ∧
    (let s := partition 3 0 [(0, .free)] [(0, { desc := aDescriptor, chips := [0] })] []
     s.partHead 0 3 = some ⟨3, 0, 0, 0⟩ ∧ s.createOk 0 ⟨3, 0, 0, 0⟩ = true ∧
     (partition 3 0 [] [] []).createOk 0 ⟨3, 0, 0, 0⟩ = false) ∧
    (let s := partition 4 0 [(0, .assigned)] [(0, { vd := 1 })] [(1, { fetchVd State.reset with running := false })]
     s.partHead 0 4 = some ⟨4, 0, 0, 0⟩ ∧ (∃ v, s.vdev? (s.slotVd 0 0) = some v ∧ v.running = false ∧ v.reset = 0 ∧ 0 ∈ v.created ∧ v.plog = 0 ∧
      AMap.get v.base 0 0 = 0 ∧ ∀ c ∈ v.created, c = 0) ∧ (s.vds.map Prod.fst).Pairwise (· < ·) ∧ (partition 4 0 [] [] []).vdev? 0 = none) ∧
    (partition 4 0 [] [] []).partHead 0 1 = none ∧
    ((0xFFFFFFFFFFF000 : Word).toNat / 2 ^ 56 = 0 ∧ (0xFFFFFFFFFFF000 : Word).toNat % 2 ^ 12 = 0 ∧ (0x800 : Word).toNat % 2 ^ 12 ≠ 0) ∧
    (let s := package {} fun c => { c with slots := [(0, { vd := 1 })] }
     s.vdev? (s.slotVd 0 0) = some (vd1 s) ∧ (vd1 s).running = true ∧ crs.vdev? (crs.slotVd 0 0) = none) ∧
    (fld (0x80 : Word).toNat 56 8 = 0 ∧ fld (0x1000 : Word).toNat 5 7 = 0 ∧ fld (0x80 : Word).toNat 5 7 ≠ 0 ∧ fld (0x1000 : Word).toNat 0 32 ≠ 0) ∧
    (let w : Word := BitVec.ofNat 64 (2 ^ 60)
     (partCmd w).cmd = 1 ∧ (partCmd w).log ≤ 10 ∧ (partCmd w).base % 2 ^ (partCmd w).log = 0 ∧ (partCmd w).slot = 0 ∧ fld w.toNat 0 32 = 0 ∧
     (crs.chip 0).partq.length < 16 ∧ (partCmd (BitVec.ofNat 64 (5 * 2 ^ 60))).cmd = 5) ∧
    ((0xFFF : Word).toNat < 2 ^ 12 ∧ 2 ^ 12 ≤ (0x1000 : Word).toNat) ∧
    ((AMap.get (crs.chip 0).slots {} 0).vd = 0 ∧ (AMap.get ((package {} fun c => { c with slots := [(0, { vd := 1 })] }).chip 0).slots {} 0).vd ≠ 0) ∧
    ((0x23FFF : Word).toNat < 2 ^ 18 ∧ fld (0x23FFF : Word).toNat 14 2 = 0) ∧
    (fld (0x800000 : Word).toNat 56 7 = 0 ∧ fld (0x800000 : Word).toNat 0 23 = 0 ∧ fld (1 : Word).toNat 0 23 ≠ 0) ∧ 4 % 8 ≠ 0 ∧ 3 ∉ [1, 2, 4, 8] ∧
    ((crs.core (windowCore 0 0)).inspected = false ∧ ((broken {} [] none).core (windowCore 0 0)).inspected = true) ∧
    ((⟨1, 0, 10, 0⟩ : PartCmd).ok = true ∧ (⟨1, 1, 0, 0⟩ : PartCmd).ok = true ∧ (⟨1, 1, 1, 0⟩ : PartCmd).ok = false ∧
      (⟨1, 0, 11, 0⟩ : PartCmd).ok = false ∧ (⟨2, 0, 1, 7⟩ : PartCmd).ok = false ∧ (⟨3, 0, 0, 7⟩ : PartCmd).ok = true) ∧
    ((crs.chip 0).partq = [] ∧ (partCmd (BitVec.ofNat 64 (15 * 2 ^ 60))).cmd = 15 ∧ (partCmd 0).cmd = 0) ∧
    (∀ n ∈ [0, 3], ∀ dying ∈ [true, false],
      let s := partition 4 0 [(0, .assigned)] [(0, { vd := 1 })] [(1, { fetchVd State.reset with running := false, reset := n, dying := dying })]
      (s.partHead 0 4).map PartCmd.ok = some true ∧ ∃ v, s.vdev? (s.slotVd 0 0) = some v ∧ v.dying = dying ∧ v.reset = n ∧
        v.running = false ∧ 0 ∈ v.created ∧ v.plog = 0 ∧ AMap.get v.base 0 0 = 0) ∧
    ((package { words := [BitVec.ofNat 64 (2 ^ 56 + 8)], addr := supBase + 0x030 } id).takesMgmt 1 0x1FFF ∧
      (package { words := [BitVec.ofNat 64 (2 * 2 ^ 56), 7], addr := supBase + 0x030 } id).takesMgmt 2 0 ∧ supRun (supBase + 0x030) 8 = true ∧ supRun (supBase + 0xFFFFFFF8) 8 = true ∧ supRun (supBase + 0xFFFFFFF8) 16 = false) := by
  unfold State.takesMgmt State.takesUp
  and_intros <;> decide

/-- A host request of connection 3 for a virtual device. -/
def asking (vd : Nat) (a : Arg) : State :=
  let s := queued true 0 []
  { s with arg := { a with vd := vd, conn := 3, seq := 9 },
           told := s.told ++ [(Walker.host 3, 2, Xlate.hit ⟨1, 2, 16, 0x20000, 0x20000, (4, 7), (4, 7), 0⟩)] }
/-- What a host's access gives. -/
def HostPerf.is (x : HostPerf) (n : Nat) : Bool :=
  match x with
  | .done _ _ => n == 0
  | .fail _ _ => n == 1
  | .wait _ => n == 2
theorem HostPerf.is_done {x : HostPerf} (h : x.is 0 = true) : ∃ v u, x = .done v u := by cases x <;> simp_all [HostPerf.is]
theorem HostPerf.is_fail {x : HostPerf} (h : x.is 1 = true) : ∃ st u, x = .fail st u := by cases x <;> simp_all [HostPerf.is]
theorem HostPerf.is_wait {x : HostPerf} (h : x.is 2 = true) : ∃ u, x = .wait u := by cases x <;> simp_all [HostPerf.is]
/-- A request of 8,192 bytes at an address, as it begins. -/
def hosting (s : State) (op addr : Nat) : HostReq :=
  (s.setConn 3 1 9).hostReq ⟨⟨3, 9, 1, op, addr, 0⟩, 0, addr, if op = 1 then List.replicate 8 0 else [], if op = 1 then 0 else 8⟩
/-- A belay message of a supervisor stop, with those on the network. -/
def belaying (w : Word) (b : List Belay) : State := package { words := [w] } fun c => { c with belay := b }
theorem witness_HostSpdmAndBelay_requests :
    let s := asking 1 { words := aRecord true }
    let turn := fun (s : State) => (s.chip 0).power ≠ .off ∧ s.connWaits 3 = false ∧ (s.connOf 3 s.arg.vd 9).2 = 9
    turn s ∧ ¬ turn { s with conns := [⟨3, 0, 1, 8, 0⟩] } ∧
    (turn { s with conns := [⟨3, 0, 2, 9, 0⟩] } ∧ s.arg.vd ≠ (({ s with conns := [⟨3, 0, 2, 9, 0⟩] } : State).connOf 3 1 9).1) ∧
    (turn (asking 0 {}) ∧ (asking 0 {}).arg.vd = 0 ∧ s.arg.vd ≠ 0) ∧ s.arg.vd = (s.connOf 3 1 9).1 ∧
    (turn (s.updChip 0 fun c => { c with power := .standby }) ∧ ((s.updChip 0 fun c => { c with power := .standby }).chip 0).power ≠ .on) ∧
    (∀ op ∈ [1, 2, 3, 4], s.takesUp op) ∧ (∀ op ∈ [1, 2, 3, 4], ({ s with vds := [] } : State).takesUp op) ∧ s.vdev? 1 = some (vd1 s) ∧
    (let w := s.queueWord 1 0
     s.arg.words.length = 8 ∧ ¬ (w % 2 = 0 ∨ (vd1 s).res = .bivouac ∨ ((vd1 s).queue 0).tail - ((vd1 s).queue 0).head = queueLen w) ∧
     0 < (vd1 s).queues.length ∧ (∃ pr mr, s.unitPa (.launch 1 (enqueueKey (2 ^ 64 + 3 * 2 ^ 32 + 9))) 1 (recordVa w ((vd1 s).queue 0).tail) permW = .ok pr mr) ∧
     ∃ ps ms, s.unitPa (.launch 1 (enqueueKey (2 ^ 64 + 3 * 2 ^ 32 + 9))) 1 (statusVa w ((vd1 s).queue 0).tail) permW = .ok ps ms) ∧
    (s.unitHeld 1 0x10000 64 = false ∧ s.unitHeld 1 0x10040 8 = false ∧ ({ s with told := [] } : State).unitPa (.launch 1 0) 1 0x10000 permW = .ask) ∧ (queued true 1 []).queueWord 1 0 % 2 = 1 ∧
    ((vd1 (queued true 1 [])).queue 0).tail - ((vd1 (queued true 1 [])).queue 0).head = queueLen ((queued true 1 []).queueWord 1 0) := by
  refine ⟨by decide, by decide, by decide, by decide, by decide, by decide, ?_, ?_, by decide,
    ⟨by decide, by decide, by decide, UnitPa.is_ok (by decide), UnitPa.is_ok (by decide)⟩, by decide, by decide, by decide⟩
  · unfold State.takesUp; decide
  · unfold State.takesUp; decide
/-- The write of a WAKE. -/
def wake (s : State) (pa : Nat) : HostPerf :=
  s.hostPerform { pa := pa, size := 8, cls := .store, data := 1, kind := .s, vd := 1, src := hostUnit 0 }
theorem witness_HostSpdmAndBelay :
    let s := asking 1 {}
    let write := fun (s : State) (addr : Nat) => (s.setConn 3 1 9).hostAccess (hosting s 1 addr) (hostPiece addr 8) permW .store 0
    let read := fun (s : State) (addr : Nat) => (s.setConn 3 1 9).hostAccess (hosting s 2 addr) (hostPiece addr 8) permR .load 0
    ((hosting s 1 0x20000).bytes ≠ [] ∧ (hosting s 2 0x20000).left ≠ 0) ∧
    (∃ v u, write s 0x20000 = .done v u) ∧ (∃ st u, write s (2 ^ 56) = .fail st u) ∧
    (∃ u, write { s with told := [] } 0x20000 = .wait u) ∧
    (∃ v u, read s 0x20000 = .done v u) ∧ (∃ st u, read s (2 ^ 56) = .fail st u) ∧
    (∃ u, read { s with told := [] } 0x20000 = .wait u) ∧
    (∃ val u, wake (s.setConn 3 1 9) (vd1 s).wakeAddr = .done val u) ∧ (∃ st u, wake (s.setConn 3 1 9) 0x9000000000 = .fail st u) ∧
    (∃ u, wake (owing 0x10000) 0x10000 = .wait u) ∧ (asking 0 { index := 1, words := [BitVec.ofNat 64 (3 * 2 ^ 56)] }).takesMgmt 3 0 ∧
    (let x : Spdm := { version := true, caps := true, algs := true, keyex := true, session := true, accepted := true }
     x.algs = true ∧ x.session = true ∧ x.accepted = true ∧ ∃ v, (asking 0 { index := 1 }).vdev? 1 = some v ∧ 0 ∈ v.created ∧ v.dying = false) ∧
    ((asking 1 { op := some 5 }).arg.op.isSome ∧ 2 ^ 57 ≤ (asking 1 { addr := 2 ^ 57 }).arg.addr ∧ 1 ≤ 5 ∧ ¬ (6 : Nat) ≤ 5) ∧
    (let w := fun (ty off : Nat) => (BitVec.ofNat 64 (ty * 2 ^ 60 + 3 * 2 ^ 58 + 257 * 2 ^ 49 + 267 * 2 ^ 38 + off) : Word)
     let ok := fun (ty off : Nat) => let m := belayMsg (w ty off)
      256 ≤ m.sstop ∧ m.sstop < 260 ∧ 4 * m.sdie + (m.sstop - 256) ∈ ((belaying (w ty off) []).chip 0).duty ∧
        ((belaying (w ty off) []).chip 0).power ≠ .off ∧ (m.dstop < 267 ∨ (m.dstop = 267 ∧ m.ddie % 2 = 0)) ∧ m.ty = ty
     (let m := belayMsg (w 0 0x10000000 - 267 * 2 ^ 38)
      keyNode (windowCore 0 0) = 0 ∧ m.ddie = nodeDie 0 ∧ m.dstop = nodeInDie 0 ∧ m.ty = 0) ∧
     ok 0 0x10000000 ∧ inspection 0x10000000 = true ∧ ok 0 0x12400000 ∧ inspection 0x12400000 = false ∧ ok 1 0 ∧ ok 1 0x123FFFFF ∧
     (belaying 0 [⟨0, w 2 0, 0⟩]).belayFind 2 = some ⟨0, w 2 0, 0⟩ ∧ (belaying 0 []).belayFind 2 = none ∧
     (belaying 0 [⟨0, w 3 (3 * 2 ^ 32), 5⟩]).belayFind 3 = some ⟨0, w 3 (3 * 2 ^ 32), 5⟩ ∧
     (∃ e, (belaying 0 []).belayEntry 0 ⟨0, w 3 (3 * 2 ^ 32), 5⟩ = some e) ∧ (belaying 0 []).belayEntry 0 ⟨0, w 3 (4 * 2 ^ 32), 5⟩ = none) := by
  refine ⟨by decide, HostPerf.is_done (by decide), HostPerf.is_fail (by decide), HostPerf.is_wait (by decide), HostPerf.is_done (by decide),
    HostPerf.is_fail (by decide), HostPerf.is_wait (by decide), HostPerf.is_done (by decide),
    HostPerf.is_fail (by decide), HostPerf.is_wait (by decide), ?_, ⟨by decide, by decide, by decide, vd1 (asking 0 {}), by decide⟩,
    by decide, ?_⟩
  · unfold State.takesMgmt State.takesUp; decide
  · and_intros <;> first | decide | exact ⟨_, rfl⟩

/-! ### Terms that are no instruction -/

/-- A kind that the class does not admit, or a weak access of a wider scope (R115); a zero-extending LDX.d (R344). -/
theorem test_wellFormed_accesses :
    (Instr.ld false .c .rel 0 1 2).wellFormed = false ∧ (Instr.ld false .v .w 0 1 2).wellFormed = false ∧
    (Instr.st false .c .acq 0 1 2).wellFormed = false ∧ (Instr.st false .y .w 0 1 2).wellFormed = false ∧
    (Instr.ldfeFf false .c .rel 1 2).wellFormed = false ∧ (Instr.ldfeFf false .c .ar 1 2).wellFormed = false ∧
    (Instr.ldfeFe false .c .rel 1 2).wellFormed = false ∧ (Instr.stfeEf false .c .acq 1 2).wellFormed = false ∧
    (Instr.stfeXf false .c .acq 1 2).wellFormed = false ∧ (Instr.feq false .v .w 1 2).wellFormed = false ∧
    (Instr.amoCas false .v .w 1 2).wellFormed = false ∧ (Instr.ldx false .w true .d 1 2 3).wellFormed = false ∧
    (Instr.ld false .c .w 0 1 2).wellFormed = true ∧ (Instr.amoCas false .v .ar 1 2).wellFormed = true := by decide
/-- A control register that R285 does not assign. -/
theorem test_wellFormed_controlRegisters :
    (Instr.mfcr 0x00A 5).wellFormed = false ∧ (Instr.mtcr 0xFFF 5).wellFormed = false ∧ (Instr.mfcr 0x064 5).wellFormed = true := by decide
/-- An event that names a unit beyond the last one. -/
theorem test_wellFormed_events :
    ({ chip := 512 } : Arg).ok = false ∧ ({ node := 1024 } : Arg).ok = false ∧ ({ slot := 9 } : Arg).ok = false ∧ ({ port := 12 } : Arg).ok = false ∧
    ({ lane := 9 } : Arg).ok = false ∧ ({ vd := 65536 } : Arg).ok = false ∧
    ({ chip := 511, node := 1023, slot := 8, port := 11, lane := 8, vd := 65535 } : Arg).ok = true := by decide

/-! ### Results of one instruction -/

/-- What core 0 does with an instruction, with scalar registers. -/
def did (i : Instr) (l : List (Nat × Word)) (p : State → Bool) : Bool :=
  match exec i (State.reset.setCurLvl (regs l)) with
  | .next t => p t
  | _ => false
/-- Whether register 5 of L0 holds a value. -/
def x5 (v : Word) (t : State) : Bool := x0 t 5 == v
/-- The result that ADD, SUB and so on give in x5 for x7 and x6. -/
def two (i : XReg → XReg → XReg → Instr) (a b v : Word) : Bool := did (i 6 7 5) [(7, a), (6, b)] (x5 v)
theorem test_add_wraps : two .add (-1) 1 0 = true := by decide
theorem test_sub_takes_rb_from_ra : two .sub 1 2 (-1) = true := by decide
theorem test_and_or_xor : two .and_ 6 3 2 && two .or_ 6 3 7 && two .xor_ 6 3 5 = true := by decide
theorem test_shl_counts_modulo_64 : two .shl 3 65 6 = true := by decide
theorem test_shr_sra : two .shr (-2) 1 0x7FFFFFFFFFFFFFFF && two .sra (-2) 1 (-1) = true := by decide
theorem test_rot_by_64_keeps : two .rot 0x8000000000000001 64 0x8000000000000001 && two .rot 0x8000000000000001 1 3 = true := by decide
theorem test_slt_signed_sltn_not : two .slt (-1) 0 1 && two .sltn (-1) 0 0 = true := by decide
theorem test_min_max : two .min_ (-1) 0 (-1) && two .max_ (-1) 0 0 && two .minn (-1) 0 0 && two .maxn (-1) 0 (-1) = true := by decide
theorem test_sel_by_old_rd : did (.sel 6 7 5) [(5, 1), (6, 3), (7, 2)] (x5 2) && did (.sel 6 7 5) [(6, 3), (7, 2)] (x5 3) = true := by decide
theorem test_counts_of_zero : did (.clz 7 5) [] (x5 64) && did (.ctz 7 5) [] (x5 64) && did (.popc 7 5) [(7, -1)] (x5 64) = true := by decide
theorem test_brev : did (.brev 7 5) [(7, 1)] (x5 0x8000000000000000) = true := by decide
theorem test_addi_signed_andi_not : did (.addi 0xFFF 7 5) [(7, 0)] (x5 (-1)) && did (.andi 0xFFF 7 5) [(7, -1)] (x5 0xFFF) = true := by decide
theorem test_x0_discards : did (.addi 5 0 0) [] (fun t => x0 t 0 == 0 && (t.lvl 0 0).pc == 4) = true := by decide
theorem test_lui_extends : did (.lui 0x1FFFF 5) [] (x5 0xFFFFFFFFFFFFF000) = true := by decide
theorem test_addpc : did (.addpc 1 5) [] (x5 0x1000) = true := by decide
theorem test_bxt_extends : did (.bxt 4 60 7 5) [(7, 0x8000000000000000)] (x5 (-8)) && did (.bxtn 4 60 7 5) [(7, 0x8000000000000000)] (x5 8) = true := by decide
theorem test_bins_keeps : did (.bins 4 4 7 5) [(7, 0xAB), (5, 0xFFF)] (x5 0xFBF) = true := by decide
theorem test_mul_late : did (.mul 6 7 5) [(7, -3), (6, 5)] (fun t => late0 t 5 == some (.word (-15))) = true := by decide
theorem test_mulh_mulhn : did (.mulh 6 7 5) [(7, -1), (6, 2)] (fun t => late0 t 5 == some (.word (-1))) &&
    did (.mulhn 6 7 5) [(7, -1), (6, 2)] (fun t => late0 t 5 == some (.word 1)) = true := by decide
theorem test_div_by_zero : two .div 7 0 (-1) && two .rem 7 0 7 && two .divn 7 0 (-1) && two .remn 7 0 7 = true := by decide
theorem test_div_truncates : two .div (-7) 2 (-3) && two .rem (-7) 2 (-1) = true := by decide
theorem test_div_overflow : two .div 0x8000000000000000 (-1) 0x8000000000000000 && two .rem 0x8000000000000000 (-1) 0 = true := by decide
/-- PTR_OVF, cause 0x06, with the pointer as TRAPVAL (R13). -/
theorem test_padd_overflow : did (.padd 6 7 5) [(7, 0x01FFFFFFFFFFFFFF), (6, 1)] (fun t => (t.lvl 0 0).trapcause == 6 && x0 t 5 == 0) = true := by decide
theorem test_padd_keeps_tag : two .padd 0x2000000000001000 (-8) 0x2000000000000FF8 = true := by decide
theorem test_beq_taken_blt_not : did (.beq 0x1FF 6 7) [] (fun t => (t.lvl 0 0).pc == -2) && did (.blt 8 6 7) [] (fun t => (t.lvl 0 0).pc == 4) = true := by decide
/-- The worked J word 0xFFFF8101 of the encoding chapter: 64 bytes back. -/
theorem test_j_example : decodeWord 0xFFFF8101 = some (.j 0x3FFFE0) ∧ did (.j 0x3FFFE0) [] (fun t => (t.lvl 0 0).pc == -64) = true := by decide
theorem test_jal_links : did (.jal 8) [] (fun t => (t.lvl 0 0).pc == 16 && x0 t 1 == 4) = true := by decide
theorem test_jalr_offset : did (.jalr (-4) 7 5) [(7, 0x1004)] (fun t => (t.lvl 0 0).pc == 0x1000 && x0 t 5 == 4) = true := by decide
theorem test_compact : did (.cLi 0xF 5) [] (x5 (-1)) && did (.cAddi 0x8 5) [(5, 3)] (x5 (-5)) && did (.cMv 7 5) [(7, 9)] (fun t => x5 9 t && (t.lvl 0 0).pc == 2) = true := by
  decide

/-- A special function of lane 0: the bits it leaves in the vector register's outstanding result. -/
def special (i : PReg → VName → VName → Instr) (a v : Lane) : Bool :=
  match exec (i 0 1 2) (State.reset.updCore 0 fun c => { c with vreg := [(1, VReg.tab fun _ => a)] }) with
  | .next t => (t.lvl 0 0).pend.any fun e => match e.val with
    | .vec r => r.lane 63 == v
    | .word _ => false
  | _ => false
/-- The worked values of R397. -/
theorem test_vrcp_examples : special .vrcp 0x40400000 0x3EAA8000 && special .vrcp 0x3F800000 0x3F7F8000 = true := by decide +kernel
theorem test_vrsq_examples : special .vrsq 0x40000000 0x3F348000 && special .vrsq 0x40800000 0x3EFF8000 = true := by decide +kernel
/-- −1 to UINT32-less formats: INT32 saturates at both ends (R301, R303), and a BF16 tie rounds to even. -/
theorem test_vcvt_saturates : special .vcvtIF 0x4F000000 0x7FFFFFFF && special .vcvtIF 0xCF000001 0x80000000 = true := by decide +kernel
theorem test_vnar_bf16_tie : special .vnarBf16 0x3F808000 0x3F800000 && special .vnarBf16 0x3F818000 0x3F820000 = true := by decide +kernel
theorem test_vabs_vneg : special .vabsF 0xBF800000 0x3F800000 && special .vnegF 0xFFC00000 0x7FC00000 = true := by decide +kernel

/-- TRAP 3 with a handler takes USER: TRAPVAL is the code, TRAPPC the next word, and the level waits for its handler (R328, R435). -/
theorem test_trap_goes_to_its_handler :
    (match exec (.trap 3) trapping with
      | .next t => (t.lvl 0 0).trapcause == 0x10 && (t.lvl 0 0).trapval == 3 && (t.lvl 0 0).trappc == 4 && (t.lvl 0 0).wait == .trapped
      | _ => false) = true := by decide
/-- A privileged exit elsewhere: TRET outside a handler is ILLEGAL (R329). -/
theorem test_tret_outside_handler :
    (match exec .tret (lv0 fun l => { l with word := 0x1401 }) with
      | .next t => (t.lvl 0 0).trapcause == 1 && (t.lvl 0 0).trapval == 0x1401
      | _ => false) = true := by decide
/-- TRET in the handler resumes the level that trapped (R329, R436). -/
theorem test_tret_resumes :
    (match exec .tret handling with
      | .next t => (t.lvl 0 3).act == none && (t.lvl 0 1).wait == .ready && (t.lvl 0 1).trap == none
      | _ => false) = true := by decide
/-- LOOP 1 with COUNT 2 goes round and rotates; with COUNT 0 it falls through and rotates nothing (R324). -/
theorem test_loop :
    (match exec (.loop (-4) 1) (lv0 fun l => { l with lcount := 2, rbase := 0x11F }) with
      | .next t => (t.lvl 0 0).lcount == 1 && (t.lvl 0 0).rbase == 0x100 && (t.lvl 0 0).pc == -8
      | _ => false) = true ∧
    (match exec (.loop (-4) 1) (lv0 fun l => { l with rbase := 0x11F }) with
      | .next t => (t.lvl 0 0).lcount == 0 && (t.lvl 0 0).rbase == 0x11F && (t.lvl 0 0).pc == 4
      | _ => false) = true := by decide
/-- One access of core 0's scratchpad, and the word after it. -/
def performed (s : State) (a : Acc) (p : Word → State → Bool) : Bool :=
  match s.perform a with
  | .done v t => p v t
  | _ => false
/-- Memory with the word 0x8877665544332211 in place. -/
def storedWord : State := { crs with mem := crs.mem.writeBytes (scratchPa 0 0) (leBytes 8 0x8877665544332211) }
theorem test_load_is_little_endian :
    performed storedWord { anAcc .load with pa := scratchPa 0 2, size := 2 } (fun v _ => v == 0x4433) = true := by decide
theorem test_store_keeps_neighbours :
    performed storedWord { anAcc .store with pa := scratchPa 0 4, size := 4, data := 0x01020304 } (fun _ t =>
      t.peek (scratchPa 0 0) 8 == 0x0102030444332211) = true := by decide
theorem test_amo_returns_the_old_value :
    performed storedWord { anAcc (.amo .add) with data := 1 } (fun v t => v == 0x8877665544332211 && t.peek (scratchPa 0 0) 8 == 0x8877665544332212) &&
    performed storedWord { anAcc (.amo .cas) with data := 1, data2 := 2 } (fun v t => v == 0x8877665544332211 &&
      t.peek (scratchPa 0 0) 8 == 0x8877665544332211) && performed storedWord { anAcc (.amo .min) with data := 1 } (fun _ t =>
      t.peek (scratchPa 0 0) 8 == 0x8877665544332211) && performed storedWord { anAcc (.amo .minn) with data := 1 } (fun _ t =>
      t.peek (scratchPa 0 0) 8 == 1) = true := by decide
/-- .fe takes the word and leaves it empty; .ef then fills it (R67). -/
theorem test_full_empty :
    performed filled (anAcc (.fe .fe)) (fun _ t => !t.isFull (scratchPa 0 0)) &&
    performed crs { anAcc (.fe .ef) with data := 7 } (fun _ t => t.isFull (scratchPa 0 0) && t.peek (scratchPa 0 0) 8 == 7) = true := by decide
/-- XLATE_DENY of a page whose stage-1 leaf at level 4 lacks the permission: REASON 0, LEVEL 4, STAGE 1 (R433). -/
theorem test_denied_page :
    (match exec (.ld false .c .w 0 10 5) denied with
      | .next t => (t.lvl 0 0).trapcause == 7 && (t.lvl 0 0).trapval == 17 && (t.lvl 0 0).trapaddr == 0x10000
      | _ => false) = true := by decide
/-- MFCR of an LCOUNT that MTCR wrote, and MFID of the level (R331, R335). -/
theorem test_mtcr_writes :
    (match exec (.mtcr 0x009 9) { crs with vds := crs.vds } with
      | .next t => (t.lvl 0 0).lcount == 0 && (t.lvl 0 0).trapcause != 0
      | _ => false) = true ∧
    (match exec (.mtcr 0x009 8) crs with
      | .next t => (t.lvl 0 0).lcount == 0x10FF
      | _ => false) = true := by decide
/-- The governor's window ends every 64 cycles (R258). -/
theorem test_governor_window :
    (match exec .governorWindow (({ crs with now := 128 } : State).updClu 0 fun c => { c with starts := 5 }) with
      | .next t => (t.clu 0).starts == 0
      | _ => false) = true := by decide
/-- A fetched ADD, the worked word 0x00731411, step by step. -/
theorem test_step_add : ran 32 0x00731411 [(6, 5), (7, -1)] (fun t => x0 t 5 == 4 && (t.lvl 0 0).pc == 0x10004) = true := by decide
theorem test_step_compact : ran 16 0xA550 [(10, 0x10000)] (fun t => ((t.core 0).ops.length == 1) && (t.lvl 0 0).pc == 0x10002) = true := by decide

end Sys2Proof.Machine
end

section
/-! Taking a cause: what making outstanding results visible leaves alone, and `State.raise` as `Raises` says it (R431 to R435). -/

namespace Sys2Proof.Machine

/-! ### Outstanding results made visible -/

/-- From core `c` to `d` only registers have changed: vector registers of the core, scalar and predicate registers of level `l`. -/
structure LandsIn (l : Level) (c d : Core) : Prop where
  rest : { d with lv := c.lv, vreg := c.vreg } = c
  other : ∀ m, m ≠ l → d.lvl m = c.lvl m
  level : { d.lvl l with x := (c.lvl l).x, p := (c.lvl l).p } = c.lvl l

theorem LandsIn.refl (l : Level) (c : Core) : LandsIn l c c := ⟨rfl, fun _ _ => rfl, rfl⟩

theorem LandsIn.trans {l : Level} {c d e : Core} (h : LandsIn l c d) (g : LandsIn l d e) : LandsIn l c e := by
  refine ⟨?_, fun m hm => (g.other m hm).trans (h.other m hm), ?_⟩
  · calc { e with lv := c.lv, vreg := c.vreg }
        = { { e with lv := d.lv, vreg := d.vreg } with lv := c.lv, vreg := c.vreg } := rfl
      _ = c := by rw [g.rest, h.rest]
  · calc { e.lvl l with x := (c.lvl l).x, p := (c.lvl l).p }
        = { { e.lvl l with x := (d.lvl l).x, p := (d.lvl l).p } with x := (c.lvl l).x, p := (c.lvl l).p } := rfl
      _ = c.lvl l := by rw [g.level, h.level]

/-- A level put in place of another that differs in scalar and predicate registers only. -/
theorem LandsIn.setLvl {l : Level} (c : Core) (y : Lvl) (h : { y with x := (c.lvl l).x, p := (c.lvl l).p } = c.lvl l) :
    LandsIn l c (c.setLvl l y) :=
  ⟨rfl, fun _ hm => c.lvl_setLvl_ne y hm, by rw [Core.lvl_setLvl]; exact h⟩

theorem Core.land_landsIn (c : Core) (l : Level) (r : Reg) (v : RVal) : LandsIn l c (c.land l r v) := by
  unfold Core.land
  split
  · split
    · exact .refl l c
    · exact .setLvl c _ rfl
  · split
    · exact .refl l c
    · exact .setLvl c _ rfl
  · exact ⟨rfl, fun _ _ => rfl, rfl⟩
  · exact .refl l c

theorem Core.foldl_land_landsIn (l : Level) (es : List Pend) (c : Core) :
    LandsIn l c (es.foldl (fun c e => c.land l e.reg e.val) c) := by
  induction es generalizing c with
  | nil => exact .refl l c
  | cons e es ih => exact (c.land_landsIn l e.reg e.val).trans (ih _)

theorem Pend.stay_all (ps : List Pend) : Pend.stay (fun _ => true) ps = [] := by
  induction ps with
  | nil => rfl
  | cons e es ih => simpa [Pend.stay] using ih

/-- The core before its level's outstanding results are dropped, and the one after: what `commitAll` does in two steps. -/
theorem Core.commitAll_eq (c : Core) (l : Level) :
    ∃ d, LandsIn l c d ∧ c.commitAll l = d.setLvl l { d.lvl l with pend := [] } ∧ ((c.lvl l).pend = [] → d = c) := by
  refine ⟨_, Core.foldl_land_landsIn l ((c.lvl l).pend.filter fun _ => true) c, ?_, fun h => ?_⟩
  · simp only [Core.commitAll, Core.commit, Pend.stay_all]
  · rw [h]; rfl

/-- What is left alone when a level's outstanding results become visible: the rest of the core, the other levels, and of the level
everything but its registers. -/
theorem Core.commitAll_rest (c : Core) (l : Level) : { c.commitAll l with lv := c.lv, vreg := c.vreg } = c := by
  obtain ⟨d, h, e, -⟩ := c.commitAll_eq l
  rw [e]; exact h.rest
theorem Core.commitAll_lvl_ne (c : Core) {l m : Level} (hm : m ≠ l) : (c.commitAll l).lvl m = c.lvl m := by
  obtain ⟨d, h, e, -⟩ := c.commitAll_eq l
  rw [e, Core.lvl_setLvl_ne _ _ hm, h.other m hm]
theorem Core.commitAll_lvl (c : Core) (l : Level) :
    { (c.commitAll l).lvl l with x := (c.lvl l).x, p := (c.lvl l).p } = { c.lvl l with pend := [] } := by
  obtain ⟨d, h, e, -⟩ := c.commitAll_eq l
  rw [e, Core.lvl_setLvl]
  calc { d.lvl l with pend := [], x := (c.lvl l).x, p := (c.lvl l).p }
      = { { d.lvl l with x := (c.lvl l).x, p := (c.lvl l).p } with pend := [] } := rfl
    _ = _ := by rw [h.level]
theorem Core.commitAll_regs (c : Core) (l : Level) (h : (c.lvl l).pend = []) :
    ((c.commitAll l).lvl l).x = (c.lvl l).x ∧ ((c.commitAll l).lvl l).p = (c.lvl l).p := by
  obtain ⟨d, -, e, hd⟩ := c.commitAll_eq l
  rw [e, Core.lvl_setLvl, hd h]
  exact ⟨rfl, rfl⟩

@[simp] theorem Core.commitAll_act (c : Core) (l : Level) : ((c.commitAll l).lvl l).act = (c.lvl l).act := by
  have h := congrArg Lvl.act (c.commitAll_lvl l); exact h
@[simp] theorem Core.commitAll_fcr (c : Core) (l : Level) : ((c.commitAll l).lvl l).fcr = (c.lvl l).fcr := by
  have h := congrArg Lvl.fcr (c.commitAll_lvl l); exact h
@[simp] theorem Core.commitAll_pend (c : Core) (l : Level) : ((c.commitAll l).lvl l).pend = [] := by
  have h := congrArg Lvl.pend (c.commitAll_lvl l); exact h
@[simp] theorem Core.commitAll_disp (c : Core) (l : Level) : (c.commitAll l).disp = c.disp := by
  have h := congrArg Core.disp (c.commitAll_rest l); exact h
@[simp] theorem Core.commitAll_mx (c : Core) (l : Level) : (c.commitAll l).mx = c.mx := by
  have h := congrArg Core.mx (c.commitAll_rest l); exact h

/-! ### Frames -/

/-- A core replaced by one with the same matrix unit leaves every byte as it was. -/
theorem State.setCore_sameBytes (s : State) (k : Nat) (c : Core) (h : c.mx = (s.core k).mx) : SameBytes s (s.setCore k c) := by
  intro a
  refine State.peek_congr (s := s) (t := s.setCore k c) rfl rfl (fun j => ?_) a 1
  by_cases hj : j = k
  · subst hj; rw [State.core_setCore, h]
  · rw [s.core_setCore_ne c hj]

/-! ### Taking a cause at the issuing instruction -/

/-- The level whose trap registers take a cause at the issuing instruction. -/
def State.caused (s : State) (cause : Nat) (val addr : Word) : Lvl :=
  { (s.curCore.commitAll s.cur.lev).lvl s.cur.lev with
    trapcause := BitVec.ofNat 64 (s.cur.lev.val * 256 + cause), trappc := s.curLvl.ipc, trapval := val, trapaddr := addr,
    pfx := none, xl := [], again := true }

/-- The trap record of a cause that goes to the handler. -/
def State.causedTrap (s : State) (cause : Nat) (val addr : Word) : TrapRec :=
  ⟨[BitVec.ofNat 64 (s.cur.lev.val * 256 + cause), s.curLvl.ipc, val, addr],
    resumeAddr cause s.curLvl.ipc (s.curLvl.ipc + BitVec.ofNat 64 s.curLvl.instrBytes), s.now, false,
    (s.caused cause val addr).inInbox⟩

/-- A cause with a handler: the level waits for it (R434, R435). -/
theorem State.raise_handled (s : State) {cause : Nat} (val addr : Word) (ht : trappable cause = true) (h : s.handled) :
    s.raise cause val addr = s.setCurCore ((s.curCore.commitAll s.cur.lev).setLvl s.cur.lev { s.caused cause val addr with
      wait := .trapped, pc := (s.causedTrap cause val addr).resume, trap := some (s.causedTrap cause val addr) }) := by
  obtain ⟨hl, ⟨a, ha, hty⟩, hv⟩ := h
  have ha' : (((s.core s.curKey).commitAll s.cur.lev).lvl s.cur.lev).act = some a := (Core.commitAll_act _ _).trans ha
  unfold State.raise State.raiseAt
  dsimp only
  rw [if_pos]
  · simp only [State.setCurCore, State.caused, State.causedTrap, State.curCore, Bool.false_eq_true, if_false, Nat.zero_add]
  · rw [ha', Core.commitAll_disp]
    simpa [ht, hl, hty] using (show (AMap.get (s.core s.curKey).disp {} 5).v = true from hv)

/-- A cause without one: the fault, with the cause in the trap registers (R434, R438). -/
theorem State.raise_fault (s : State) {cause : Nat} (val addr : Word) (h : trappable cause = false ∨ ¬ s.handled) :
    s.raise cause val addr = (s.withCause cause s.curLvl.ipc val addr).fault s.curKey s.cur.lev := by
  unfold State.raise State.raiseAt
  dsimp only
  rw [if_neg]
  · simp only [State.withCause, State.setCurCore, State.curCore, Bool.false_eq_true, if_false, Nat.zero_add]
  · intro hc
    have hact : (((s.core s.curKey).commitAll s.cur.lev).lvl s.cur.lev).act = s.curLvl.act := Core.commitAll_act _ _
    rw [hact, Core.commitAll_disp] at hc
    rcases h with h | h
    · simp [h] at hc
    · refine h ?_
      unfold State.handled
      revert hc
      cases s.curLvl.act <;> simp +contextual [State.curCore]

/-- A cause that its handler takes changes the issuing level only, and of that what the trap needs (R434, R435). -/
theorem State.raise_trapsTo (s : State) {cause : Nat} (val addr : Word) (ht : trappable cause = true) (h : s.handled) :
    TrapsTo s (s.raise cause val addr) cause s.curLvl.ipc
      (resumeAddr cause s.curLvl.ipc (s.curLvl.ipc + BitVec.ofNat 64 s.curLvl.instrBytes)) val addr := by
  rw [s.raise_handled val addr ht h]
  have hl : ∀ c : Core, (s.setCurCore c).curLvl = c.lvl s.cur.lev := fun c => by
    show ((s.setCore s.curKey c).core s.curKey).lvl _ = _
    rw [State.core_setCore]; rfl
  have ho : ∀ m, m ≠ s.cur.lev → ∀ x, ((s.curCore.commitAll s.cur.lev).setLvl s.cur.lev x).lvl m = s.lvl s.curKey m := fun m hm x => by
    rw [Core.lvl_setLvl_ne _ _ hm, Core.commitAll_lvl_ne _ hm]; rfl
  unfold TrapsTo
  rw [hl, Core.lvl_setLvl]
  refine ⟨rfl, rfl, rfl, rfl, rfl, rfl, rfl, Core.commitAll_pend _ _, ⟨_, rfl, rfl, rfl, rfl⟩, fun hp => ?_, Core.commitAll_fcr _ _,
    s.setCore_only _ _, fun m hm => ?_, s.setCore_sameBytes _ _ (Core.commitAll_mx _ _)⟩
  · exact Core.commitAll_regs s.curCore s.cur.lev hp
  · rw [← ho m hm]
    show ((s.setCore s.curKey _).core s.curKey).lvl m = _
    rw [State.core_setCore]

/-- An instruction that answers with `raise` takes the cause as `Raises` says. -/
theorem Raises.of_exec {i : Instr} {s : State} {cause : Nat} {val addr : Word} (h : exec i s = .next (s.raise cause val addr)) :
    Raises i s cause val addr :=
  ⟨_, h, fun ht hh => s.raise_trapsTo val addr ht hh, fun hn => s.raise_fault val addr hn⟩

/-! ### Results in a register -/

/-- An instruction that answers with a result of latency 1 writes it, moves on and changes nothing else. -/
theorem WritesReg.of_alu {i : Instr} {s : State} {n : Nat} {rd : XReg} {v : Lvl → Word} (h : exec i s = .next (s.alu n rd v)) :
    WritesReg i s n rd (v s.curLvl) := by
  refine ⟨_, h, s.setCurLvl_only _, ?_⟩
  rw [State.alu, State.retire_eq, State.curLvl_setCurLvl]
  exact s.curLvl.wx_result n rd _

/-! ### Pointers (R12, R13) -/

theorem movePtr_none {p : Word} {d : Int} (h : ((p.toNat % 2 ^ 57 : Nat) : Int) + d < 0 ∨ 2 ^ 57 ≤ ((p.toNat % 2 ^ 57 : Nat) : Int) + d) :
    movePtr p d = none := by
  unfold movePtr; dsimp only; rw [if_pos h]

/-- A pointer moved within the range of its address keeps its tag. -/
theorem movePtr_some {p : Word} {d : Int} (h0 : 0 ≤ ((p.toNat % 2 ^ 57 : Nat) : Int) + d)
    (h1 : ((p.toNat % 2 ^ 57 : Nat) : Int) + d < 2 ^ 57) :
    ∃ q, movePtr p d = some q ∧ ((q.toNat % 2 ^ 57 : Nat) : Int) = ((p.toNat % 2 ^ 57 : Nat) : Int) + d ∧
      q.toNat / 2 ^ 57 = p.toNat / 2 ^ 57 := by
  refine ⟨_, by unfold movePtr; dsimp only; rw [if_neg (by omega)], ?_⟩
  have hp := p.isLt
  rw [BitVec.toNat_ofNat]
  omega

theorem State.ptrMove_writes {i : Instr} {s : State} {ra rd : XReg} {d : Int} (h : exec i s = .next (s.ptrMove ra rd d))
    (h0 : 0 ≤ (((s.curLvl.rx ra).toNat % 2 ^ 57 : Nat) : Int) + d)
    (h1 : (((s.curLvl.rx ra).toNat % 2 ^ 57 : Nat) : Int) + d < 2 ^ 57) :
    ∃ q, WritesReg i s 4 rd q ∧ ((q.toNat % 2 ^ 57 : Nat) : Int) = (((s.curLvl.rx ra).toNat % 2 ^ 57 : Nat) : Int) + d ∧
      q.toNat / 2 ^ 57 = (s.curLvl.rx ra).toNat / 2 ^ 57 := by
  obtain ⟨q, hq, ha, ht⟩ := movePtr_some h0 h1
  refine ⟨q, WritesReg.of_alu (v := fun _ => q) (h.trans ?_), ha, ht⟩
  simp only [State.ptrMove, hq]

theorem State.ptrMove_raises {i : Instr} {s : State} {ra rd : XReg} {d : Int} (h : exec i s = .next (s.ptrMove ra rd d))
    (hd : (((s.curLvl.rx ra).toNat % 2 ^ 57 : Nat) : Int) + d < 0 ∨ 2 ^ 57 ≤ (((s.curLvl.rx ra).toNat % 2 ^ 57 : Nat) : Int) + d) :
    Raises i s 0x06 (s.curLvl.rx ra) 0 :=
  .of_exec (h.trans (by simp only [State.ptrMove, movePtr_none hd]; rfl))

/-- PTAG as arithmetic: the seven low bits of one register over the address of the other. -/
theorem ptag_eq (b p : Word) :
    (b.setWidth 7 ++ p.setWidth 57 : BitVec 64) = BitVec.ofNat 64 (b.toNat % 2 ^ 7 * 2 ^ 57 + p.toNat % 2 ^ 57) := by
  apply BitVec.eq_of_toNat_eq
  rw [BitVec.toNat_append, Nat.shiftLeft_eq, Nat.mul_comm, ← Nat.two_pow_add_eq_or_of_lt (BitVec.isLt _), BitVec.toNat_setWidth, BitVec.toNat_setWidth,
    BitVec.toNat_ofNat]
  omega
/-- PGET as arithmetic. -/
theorem pget_eq (p : Word) : p >>> 57 = BitVec.ofNat 64 (p.toNat / 2 ^ 57) := by
  apply BitVec.eq_of_toNat_eq
  have := p.isLt
  rw [BitVec.toNat_ushiftRight, Nat.shiftRight_eq_div_pow, BitVec.toNat_ofNat]
  omega
/-- PSTRIP as arithmetic. -/
theorem pstrip_eq (p : Word) : (p.setWidth 57).setWidth 64 = BitVec.ofNat 64 (p.toNat % 2 ^ 57) := by
  apply BitVec.eq_of_toNat_eq
  simp

/-- Settles O14: PADD and PSUB by the two cases of `movePtr`, the others as results of latency 1. -/
theorem pointers : Obligations.Pointers := by
  intro s rb ra rd
  refine ⟨s.ptrMove_writes rfl, s.ptrMove_writes rfl, s.ptrMove_raises rfl, s.ptrMove_raises rfl, ?_, ?_, ?_⟩
  · exact ptag_eq _ _ ▸ WritesReg.of_alu (i := .ptag rb ra rd) rfl
  · exact pget_eq _ ▸ WritesReg.of_alu (i := .pget ra rd) rfl
  · exact pstrip_eq _ ▸ WritesReg.of_alu (i := .pstrip ra rd) rfl

end Sys2Proof.Machine
end

section
/-! The checks of one element (R340), and where the offsets of a core's own space lead (R18, R19). -/

namespace Sys2Proof.Machine

/-! ### The checks of one element -/

section
variable {s : State} {k launch : Nat} {tlb : List TlbEntry} {xl : List (Nat × Xlate)} {win : Bool} {el : El}

theorem State.check_misaligned (h : el.va.toNat % el.size ≠ 0) : s.check k launch tlb xl win [el] = .fail 0x03 0 el.va := by
  simp [State.check, h, Cause.misalign]

/-- An aligned element whose place the space rules refuse (R18, R47, R405). -/
theorem State.check_refused (h : el.va.toNat % el.size = 0) {c : Nat} (ha : el.admitted win (s.lead k launch el.va) = some c) :
    s.check k launch tlb xl win [el] = .fail c (if c = 0x0F then el.va else 0) el.va := by
  simp only [State.check, List.find?_cons, h, List.map_cons, List.map_nil, List.findSome?_cons, ha]
  rfl

/-- An aligned element that leads to a physical address needs no translation. -/
theorem State.check_phys (h : el.va.toNat % el.size = 0) (hs : el.strange = false) {pa : Nat} (hl : s.lead k launch el.va = .phys pa)
    (hp : pa < 2 ^ 56 ∨ win = true) : s.check k launch tlb xl win [el] = .ok [⟨el, pa, 2, none⟩] := by
  have ha : el.admitted win (.phys pa) = none := by
    have : ¬ (2 ^ 56 ≤ pa ∧ (!win) = true) := by
      rintro ⟨h1, h2⟩
      rcases hp with hp | hp
      · omega
      · simp [hp] at h2
    simp only [El.admitted, hs, Bool.false_eq_true, if_false, if_neg this]
  simp [State.check, h, hl, ha]

/-- What translation gives decides for an aligned element of mapped space. -/
theorem State.check_mapped (h : el.va.toNat % el.size = 0) (hs : el.strange = false) {a : Nat} (hl : s.lead k launch el.va = .mapped a) :
    s.check k launch tlb xl win [el] = match s.xlate tlb xl (s.core k).owner a el.need with
      | .ok pa mt e => .ok [⟨el, pa, mt, some e⟩]
      | .denied t => .fail 0x07 t el.va
      | .lost c => .fail c 0 el.va
      | .miss => .wait [a / 2 ^ 16] := by
  simp only [State.check, List.find?_cons, h, List.map_cons, List.map_nil, hl, El.admitted]
  cases hx : s.xlate tlb xl (s.core k).owner a el.need <;> simp [hs, Cause.xlateDeny, List.eraseDups_cons]

end

/-- Translation denies everything while a stage is disabled (R24). -/
theorem State.xlate_disabled {s : State} {vd : Nat} {v : VDev} (hv : s.vdev? vd = some v)
    (h : v.s1.getLsbD 0 = false ∨ v.s2.getLsbD 0 = false) (tlb : List TlbEntry) (xl : List (Nat × Xlate)) (va need : Nat) :
    ∃ t, s.xlate tlb xl vd va need = .denied t := by
  unfold State.xlate
  rw [hv]
  dsimp only
  split
  · exact ⟨_, rfl⟩
  · rename_i h1
    rw [if_pos (by simpa using h.resolve_left (by simpa using h1))]
    exact ⟨_, rfl⟩

/-! ### Where an address leads -/

theorem State.lead_mapped {s : State} {k launch : Nat} {p : Word} (h : p.toNat % 2 ^ 57 < 2 ^ 56) :
    s.lead k launch p = .mapped (p.toNat % 2 ^ 57) := by
  simp only [State.lead, if_pos h]

/-- Settles O29: the checks of one element in their order, and the windows of the own space by the branches of `State.lead`. -/
theorem checksInOrder : Obligations.ChecksInOrder := by
  intro s k launch tlb xl win el hs
  refine ⟨State.check_misaligned, fun h => ⟨fun c hc => ?_, fun pa hl hp => ?_, fun pa hl hp hw => ?_, fun hm => ?_⟩,
    fun v hv h => State.xlate_disabled hv h _ _ _ _, fun v hv h => ?_⟩
  · exact State.check_refused h (by rw [hc]; rfl)
  · exact State.check_phys h hs hl hp
  · exact State.check_refused h (by rw [hl, hw]; simp only [El.admitted, hs, Bool.false_eq_true, if_false]; exact if_pos ⟨hp, rfl⟩)
  · rw [State.check_mapped h hs (State.lead_mapped hm)]
    exact ⟨fun _ _ _ e => by rw [e], fun _ e => by rw [e], fun _ e => by rw [e], fun e => by rw [e]⟩
  · unfold State.lead
    obtain ⟨own, ho⟩ := Nat.exists_eq_add_of_le h
    rw [ho]
    dsimp only
    rw [hv, if_neg (by omega), Nat.add_sub_cancel_left]
    dsimp only
    refine ⟨fun h1 => ?_, fun h0 h1 => ?_, fun h0 h1 => ?_, fun h0 h1 => ?_, fun h0 h1 => ?_, fun h0 h1 => ⟨fun hg => ?_, fun hg => ?_⟩,
      fun h0 h1 => ?_, fun h0 h1 => ⟨fun hr => ?_, fun hr => ?_⟩, fun h0 => ?_⟩
    · rw [if_pos h1]
    · rw [if_neg (by omega), if_pos h1]
    · rw [if_neg (by omega), if_neg (by omega), if_neg (by omega), if_neg (by omega), if_neg (by omega)]; rfl
    · rw [if_neg (by omega), if_neg (by omega), if_pos ⟨h0, h1⟩]
    · rw [if_neg (by omega), if_neg (by omega), if_neg (by omega), if_neg (by omega), if_neg (by omega)]; rfl
    · rw [if_neg (by omega), if_neg (by omega), if_neg (by omega), if_pos ⟨h0, h1⟩, if_pos (by simpa using hg)]
    · rw [if_neg (by omega), if_neg (by omega), if_neg (by omega), if_pos ⟨h0, h1⟩, if_neg (by simpa using hg)]; rfl
    · rw [if_neg (by omega), if_neg (by omega), if_neg (by omega), if_neg (by omega), if_neg (by omega)]; rfl
    · rw [if_neg (by omega), if_neg (by omega), if_neg (by omega), if_neg (by omega), if_pos ⟨h0, h1⟩, if_pos (by simpa using hr)]
    · rw [if_neg (by omega), if_neg (by omega), if_neg (by omega), if_neg (by omega), if_pos ⟨h0, h1⟩, if_neg (by simpa using hr)]; rfl
    · rw [if_neg (by omega), if_neg (by omega), if_neg (by omega), if_neg (by omega), if_neg (by omega)]; rfl

end Sys2Proof.Machine
end

section
/-! Two statements that fail, each at a state that the model can be run on. -/

namespace Sys2Proof.Machine

/-! ### PREF of a page whose TLB entry names a scratchpad -/

/-- A virtual device of one cluster of package 0, with both stages of its translation enabled. -/
def oneCluster : VDev :=
  { chips := [0], slot := [], base := [(0, 0)], plog := 0, wake := 0, floor := 0, limit := 0x800000, savebase := 0, wakeAddr := 0,
    budget := 0, qlog := 16, s1 := 1, s2 := 1 }

/-- Core 0 holds a TLB entry whose frame is the scratchpad of core 1, and core 1 records the arrivals at its port. No page table yields
such an entry (R26), but the statement speaks of every state. -/
def prefReachesCore1 : State :=
  { vds := [(1, oneCluster)],
    cores := [(0, { owner := 1, tlb := [⟨1, 0, 16, scratchPa 1 0, 0, (4, 7), (4, 7), 0⟩] }), (1, { tracectl := 1 })] }

/-- The PREF is recorded in the ring of core 1, whose record counter goes on. -/
theorem pref_counts_at_core1 :
    (match exec (.pref 0 0) prefReachesCore1 with
      | .next t => decide ((t.core 1).traceptr = 1)
      | _ => false) = true := by decide

/-- Refutes O41: PREF reaches the line through a TLB entry, and one that names another core's scratchpad makes that core record the
arrival (R148), so that a core other than the issuing one changes. -/
theorem not_memoryManagement : ¬ Obligations.MemoryManagement := by
  intro h
  obtain ⟨⟨t, ht, -, -, -, others, -⟩, -⟩ := h prefReachesCore1 0 0
  have counted := pref_counts_at_core1
  rw [ht] at counted
  have same : t.core 1 = prefReachesCore1.core 1 := others 1 (by decide)
  simp only [same] at counted
  exact absurd counted (by decide)

/-! ### A copy that fails for no launch -/

/-- The one part of a sector on its way. -/
def onePart : CopyPart := { id := 7, dst := ⟨0, 1, 0⟩, tag := 0, words := [], xls := [], va := 0 }

/-- A transfer that belongs to no launch, with that part under way. -/
def launchlessXfer : Xfer :=
  { id := 1, snap := [], lev := 0, act := 0, launch := 0, pc := 0, sector := 0, parked := false, xl := [], after := [],
    flight := [onePart] }

/-- The refusal of the part with ACCESS, arrived at the copy unit of node 0. -/
def refusedPart : Packet :=
  { id := 0, src := ⟨0, 1, 0⟩, dst := ⟨0, 0, 9⟩, vd := 1, plane := .control, last := 0, payload := .copyAck 0 7 3, stage := .arrived,
    age := 0, eject := 0, tag := 0 }

/-- The refusal has arrived, and the event ring of package 0 has room for 64 entries at address 0. -/
def refusedCopy : State :=
  { vds := [(1, oneCluster)], cores := [(0, { owner := 1, chan := { queue := [launchlessXfer] } })], chips := [(0, { evbase := 6 })],
    pkts := [refusedPart] }

/-- The fault is of no launch and goes to the hypervisor, through the ring in memory. -/
theorem refusedCopy_writes_ring :
    (match exec .response refusedCopy with
      | .next t => t.mem != []
      | _ => false) = true := by decide

/-- Refutes O53: a transfer that ends with a bad status raises its fault, and the fault of a transfer of no launch is an entry of the
event ring (R438, R471), so that memory changes. -/
theorem not_copiesMove : ¬ Obligations.CopiesMove := by
  intro h
  obtain ⟨-, -, answers⟩ := h refusedCopy launchlessXfer []
  obtain ⟨-, -, -, failed⟩ := answers refusedPart 0 7 3 onePart rfl rfl rfl rfl rfl
  obtain ⟨t, ht, hmem, -⟩ := failed (by decide) rfl (by decide)
  have written := refusedCopy_writes_ring
  rw [ht] at written
  simp only [hmem] at written
  exact absurd written (by decide)

end Sys2Proof.Machine
end

section
/-! What serving an access at its owner may change, and what it leaves alone: one relation, kept by every operation from the
allocation of a line to the record of an arrival (R43, R51, R62, R65, R117, R135, R148). -/

namespace Sys2Proof.Machine

/-- The state `t` with the memory of `s` and all that stands around it: what serving accesses may change outside cores and clusters. -/
def State.around (s t : State) : State :=
  { t with free := s.free, nextId := s.nextId, mem := s.mem, fe := s.fe, bad := s.bad, media := s.media, l2 := s.l2,
           olds := s.olds, clear := s.clear, touched := s.touched, chips := s.chips, vds := s.vds }

/-- From `s` to `t` units have served accesses: of the cores only their port's rotation, their record counter and the bytes of their
matrix queue window have changed, of the clusters only counters of their ports, and nothing of what waits or is under way. -/
structure Served (s t : State) : Prop where
  rest : { s.around t with cores := s.cores, clus := s.clus } = s
  core : ∀ k, { t.core k with port := (s.core k).port, want := (s.core k).want, traceptr := (s.core k).traceptr,
                              mx := { (t.core k).mx with window := (s.core k).mx.window } } = s.core k
  window : ∀ k, (s.core k).mx.window.wf = true → (t.core k).mx.window.wf = true
  clu : ∀ n, { t.clu n with portL := (s.clu n).portL, portD := (s.clu n).portD, traceN := (s.clu n).traceN,
                            traceD := (s.clu n).traceD, fwrites := (s.clu n).fwrites } = s.clu n

namespace Served

theorem refl (s : State) : Served s s := ⟨rfl, fun _ => rfl, fun _ h => h, fun _ => rfl⟩

theorem trans {s t u : State} (h : Served s t) (g : Served t u) : Served s u := by
  refine ⟨?_, fun k => ?_, fun k hk => g.window k (h.window k hk), fun n => ?_⟩
  · have e := h.rest
    rw [← g.rest] at e
    exact e
  · have e := h.core k
    rw [← g.core k] at e
    exact e
  · have e := h.clu n
    rw [← g.clu n] at e
    exact e

/-- A change of what stands outside cores and clusters. -/
theorem of_around {s t : State} (h : s.around t = s) : Served s t := by
  have hc : t.cores = s.cores := (congrArg State.cores h :)
  have hn : t.clus = s.clus := (congrArg State.clus h :)
  refine ⟨?_, fun k => ?_, fun k => ?_, fun n => ?_⟩
  · rw [h]
  · simp only [State.core, hc]
  · simp only [State.core, hc]; exact id
  · simp only [State.clu, hn]

theorem updCore {s t : State} (h : Served s t) (k : Nat) (f : Core → Core)
    (hf : ∀ c : Core, { f c with port := c.port, want := c.want, traceptr := c.traceptr,
                                 mx := { (f c).mx with window := c.mx.window } } = c)
    (hw : ∀ c : Core, c.mx.window.wf = true → (f c).mx.window.wf = true) : Served s (t.updCore k f) := by
  refine h.trans ⟨rfl, fun j => ?_, fun j => ?_, fun _ => rfl⟩ <;> by_cases hj : j = k
  · subst hj; rw [State.core_updCore]; exact hf _
  · rw [State.core_updCore_ne t f hj]
  · subst hj; rw [State.core_updCore]; exact hw _
  · rw [State.core_updCore_ne t f hj]; exact id

theorem updClu {s t : State} (h : Served s t) (k : Nat) (f : Cluster → Cluster)
    (hf : ∀ c : Cluster, { f c with portL := c.portL, portD := c.portD, traceN := c.traceN, traceD := c.traceD,
                                    fwrites := c.fwrites } = c) : Served s (t.updClu k f) := by
  refine h.trans ⟨rfl, fun _ => rfl, fun _ => id, fun j => ?_⟩
  by_cases hj : j = k
  · subst hj; rw [State.clu_updClu]; exact hf _
  · rw [State.clu_updClu_ne t f hj]

theorem foldl {α : Type} {f : State → α → State} (hf : ∀ s a, Served s (f s a)) (as : List α) (s : State) :
    Served s (as.foldl f s) := by
  induction as generalizing s with
  | nil => exact refl s
  | cons a as ih => exact (hf s a).trans (ih _)

/-! ### Every operation of an owner -/

theorem l2Fill (s : State) (pa mt : Nat) : Served s (s.l2Fill pa mt) :=
  of_around (congrArg s.around (s.l2Fill_rest pa mt) :)
theorem memServe (s : State) (vd pa : Nat) : Served s (s.memServe vd pa) :=
  of_around (congrArg s.around (s.memServe_rest vd pa) :)
theorem lineServe (s : State) (vd pa mt : Nat) : Served s (s.lineServe vd pa mt) :=
  (memServe s vd pa).trans (l2Fill _ pa mt)
theorem ownFrame (s : State) (pa vd : Nat) : Served s (s.ownFrame pa vd) :=
  of_around (congrArg s.around (s.ownFrame_rest pa vd) :)
theorem keepOld (s : State) (pa n : Nat) : Served s (s.keepOld pa n) :=
  of_around (congrArg s.around (s.keepOld_rest pa n) :)

theorem readyLine (s : State) (pa mt : Nat) : Served s (s.readyLine pa mt) := by
  refine (l2Fill s pa mt).trans (of_around ?_)
  unfold State.readyLine
  dsimp only
  generalize s.l2Fill pa mt = u
  split <;> split <;> split <;> rfl

theorem wakeWatch (s : State) (pa v : Nat) : Served s (s.wakeWatch pa v) := by
  unfold State.wakeWatch
  split
  · exact refl s
  · exact of_around rfl

theorem poke (s : State) (pa n v mt : Nat) : Served s (s.poke pa n v mt) := by
  unfold State.poke
  split
  · exact (refl s).updCore _ _ (fun _ => rfl) fun _ h => Memory.wf_writeBytes _ _ h
  · refine ((keepOld s pa n).trans (readyLine _ pa mt)).trans ?_
    exact Served.trans (t := { (s.keepOld pa n).readyLine pa mt with
      mem := ((s.keepOld pa n).readyLine pa mt).mem.writeBytes pa (leBytes n v) }) (of_around rfl) (wakeWatch _ pa v)

theorem countSoft (s : State) (pa : Nat) : Served s (s.countSoft pa) := by
  unfold State.countSoft
  dsimp only
  split <;> exact of_around rfl
theorem setFull (s : State) (pa : Nat) (b : Bool) : Served s (s.setFull pa b) := of_around rfl
theorem dropBad (s : State) (pa : Nat) : Served s (s.dropBad pa) := of_around rfl
theorem correct (s : State) (pa : Nat) : Served s (s.correct pa) := by
  unfold State.correct
  split
  · exact (dropBad s pa).trans (countSoft _ pa)
  · exact refl s

theorem pokeRun (s : State) (pa mt : Nat) (ws : List Word) (bits : List (Option Bool)) : Served s (s.pokeRun pa mt ws bits) := by
  induction ws generalizing s pa bits with
  | nil => exact refl s
  | cons w ws ih =>
    unfold State.pokeRun
    dsimp only
    refine (poke s pa 8 w.toNat mt).trans (Served.trans ?_ (ih _ (pa + 8) bits.tail))
    cases bits.headD none <;> by_cases hb : s.isBad pa = true <;> simp only [hb, if_true, if_false, Bool.false_eq_true]
    · exact ((setFull _ _ _).trans (dropBad _ _)).trans (countSoft _ _)
    · exact dropBad _ _
    · exact ((setFull _ _ _).trans (dropBad _ _)).trans (countSoft _ _)
    · exact (setFull _ _ _).trans (dropBad _ _)

theorem traceCore (s : State) (k : Nat) (a : Acc) : Served s (s.traceCore k a) := by
  unfold State.traceCore
  dsimp only
  split
  · exact (pokeRun s _ _ _ _).updCore _ _ (fun _ => rfl) fun _ h => h
  · exact refl s

/-- A record in a ring that a home slice keeps, whether its channel can be written or not. -/
theorem servedRun (s : State) (vd base mt : Nat) (ws : List Word) (bits : List (Option Bool)) :
    Served s (if s.pcFailed base then s else ((s.memServe vd base).ownFrame base vd).pokeRun base mt ws bits) := by
  split
  · exact refl s
  · exact ((memServe s _ _).trans (ownFrame _ _ _)).trans (pokeRun _ _ _ _ _)

theorem trace (s : State) (a : Acc) : Served s (s.trace a) := by
  unfold State.trace
  split
  · exact traceCore _ _ _
  · exact traceCore _ _ _
  · exact refl s
  · dsimp only
    split
    · exact updClu (servedRun s _ _ _ _ _) _ _ fun c => by split <;> rfl
    · exact refl s

theorem store (s : State) (a : Acc) (v : Word) : Served s (s.store a v) := by
  unfold State.store
  dsimp only
  split
  · exact poke _ _ _ _ _
  · split
    · exact (((poke _ _ _ _ _).trans (setFull _ _ _)).trans (dropBad _ _)).trans (countSoft _ _)
    · exact (poke _ _ _ _ _).trans (dropBad _ _)

/-- An access that performs. -/
theorem perform {s : State} {a : Acc} {v : Word} {t : State} (h : s.perform a = .done v t) : Served s t := by
  unfold State.perform at h
  have hc : Served s (if a.readsWord then s.correct a.pa else s) := by
    split
    · exact correct s a.pa
    · exact refl s
  generalize (if a.readsWord then s.correct a.pa else s) = u at h hc
  refine hc.trans ?_
  split at h
  · cases h
  · split at h
    · cases h
    · split at h
      · cases h
      · dsimp only at h
        split at h <;> injection h with _ h <;> subst h
        · exact refl u
        · exact store _ _ _
        · exact store _ _ _
        · exact refl u
        · exact (readyLine _ _ _).trans (setFull _ _ _)
        · exact (store _ _ _).trans (setFull _ _ _)
        · exact (store _ _ _).trans (setFull _ _ _)
        · exact refl u

theorem portServed (s : State) (u : UnitId) (input : Nat) : Served s (s.portServed u input) := by
  unfold State.portServed
  dsimp only
  split
  · exact (refl s).updCore _ _ (fun _ => rfl) fun _ h => h
  · exact (refl s).updClu _ _ fun c => by split <;> rfl

theorem countWrite (s : State) (n : Nat) (a : Acc) : Served s (s.countWrite n a) := by
  unfold State.countWrite
  split
  · exact (refl s).updClu _ _ fun _ => rfl
  · exact refl s
theorem countEnd (s : State) (n : Nat) (a : Acc) : Served s (s.countEnd n a) := (refl s).updClu _ _ fun _ => rfl
theorem settleOld (s : State) (pa n : Nat) (sees : Cmd → Bool) : Served s (s.settleOld pa n sees) := by
  unfold State.settleOld
  split
  · exact of_around rfl
  · exact refl s
theorem afterAcc (s : State) (u : UnitId) (a : Acc) (op : Nat) : Served s (s.afterAcc u a op) := by
  unfold State.afterAcc
  split
  · exact ((ownFrame _ _ _).trans (countWrite _ _ _)).trans (settleOld _ _ _ _)
  · exact refl s

/-! ### What stays as it was -/

section
variable {s t : State} (h : Served s t)
include h

theorem arg_eq : t.arg = s.arg := (congrArg State.arg h.rest :)
theorem retry_eq : t.retry = s.retry := (congrArg State.retry h.rest :)
theorem walks_eq : t.walks = s.walks := (congrArg State.walks h.rest :)
theorem wcache_eq : t.wcache = s.wcache := (congrArg State.wcache h.rest :)
theorem lv_eq (k : Nat) : (t.core k).lv = (s.core k).lv := (congrArg Core.lv (h.core k) :)
theorem lvl_eq (k : Nat) (l : Level) : t.lvl k l = s.lvl k l := by rw [State.lvl, State.lvl, Core.lvl, Core.lvl, h.lv_eq k]
theorem tlb_eq (k : Nat) : (t.core k).tlb = (s.core k).tlb := (congrArg Core.tlb (h.core k) :)
theorem chan_eq (k : Nat) : (t.core k).chan = (s.core k).chan := (congrArg Core.chan (h.core k) :)
theorem queue_eq (k : Nat) : (t.core k).mx.queue = (s.core k).mx.queue := (congrArg (fun c : Core => c.mx.queue) (h.core k) :)

end

end Served

end Sys2Proof.Machine
end

section
/-! The end of a walk: what it does for those who waited for it (R33 to R37). -/

namespace Sys2Proof.Machine

/-! ### Levels that are told a page -/

/-- The level `y` is `x` told decisions of a page, `v` the last: nothing but the decisions that it keeps and its wait has changed, and
where it waits no more it keeps `v`. -/
structure Lvl.Told (page : Nat) (v : Xlate) (x y : Lvl) : Prop where
  rest : { y with xl := x.xl, wait := x.wait } = x
  wait : y.wait = x.wait ∨ (y.wait = .ready ∧ AMap.find? y.xl page = some v)
  kept : AMap.find? x.xl page = some v → AMap.find? y.xl page = some v

theorem Lvl.Told.refl (page : Nat) (v : Xlate) (x : Lvl) : Lvl.Told page v x x := ⟨rfl, .inl rfl, id⟩

theorem Lvl.Told.trans {page : Nat} {v : Xlate} {x y z : Lvl} (h : Lvl.Told page v x y) (g : Lvl.Told page v y z) :
    Lvl.Told page v x z := by
  refine ⟨?_, ?_, g.kept ∘ h.kept⟩
  · have e := h.rest
    rw [← g.rest] at e
    exact e
  · rcases g.wait with gw | gw
    · rcases h.wait with hw | ⟨hw, hx⟩
      · exact .inl (gw.trans hw)
      · exact .inr ⟨gw.trans hw, g.kept hx⟩
    · exact .inr gw

theorem Lvl.Told.x_eq {page : Nat} {v : Xlate} {x y : Lvl} (h : Lvl.Told page v x y) : y.x = x.x := (congrArg Lvl.x h.rest :)
theorem Lvl.Told.acts_eq {page : Nat} {v : Xlate} {x y : Lvl} (h : Lvl.Told page v x y) : y.acts = x.acts :=
  (congrArg Lvl.acts h.rest :)
theorem Lvl.Told.ready {page : Nat} {v : Xlate} {x y : Lvl} (h : Lvl.Told page v x y) (hx : x.wait = .ready) : y.wait = .ready := by
  rcases h.wait with hw | hw
  · exact hw.trans hx
  · exact hw.1

/-- From `s` to `t` some who waited for a page have been told `v`. -/
structure Tells (page : Nat) (v : Xlate) (s t : State) : Prop where
  rest : { t with cores := s.cores, told := s.told } = s
  core : ∀ k, { t.core k with lv := (s.core k).lv, chan := (s.core k).chan } = s.core k
  lvl : ∀ k l, Lvl.Told page v (s.lvl k l) (t.lvl k l)

namespace Tells

theorem refl (page : Nat) (v : Xlate) (s : State) : Tells page v s s := ⟨rfl, fun _ => rfl, fun _ _ => .refl page v _⟩

theorem trans {page : Nat} {v : Xlate} {s t u : State} (h : Tells page v s t) (g : Tells page v t u) : Tells page v s u := by
  refine ⟨?_, fun k => ?_, fun k l => (h.lvl k l).trans (g.lvl k l)⟩
  · have e := h.rest
    rw [← g.rest] at e
    exact e
  · have e := h.core k
    rw [← g.core k] at e
    exact e

section
variable {page : Nat} {v : Xlate} {s t : State} (h : Tells page v s t)
include h

theorem mem_eq : t.mem = s.mem := (congrArg State.mem h.rest :)
theorem walks_eq : t.walks = s.walks := (congrArg State.walks h.rest :)
theorem wcache_eq : t.wcache = s.wcache := (congrArg State.wcache h.rest :)
theorem chips_eq : t.chips = s.chips := (congrArg State.chips h.rest :)
theorem clus_eq : t.clus = s.clus := (congrArg State.clus h.rest :)
theorem tlb_eq (k : Nat) : (t.core k).tlb = (s.core k).tlb := (congrArg Core.tlb (h.core k) :)

end

end Tells

/-- The level of a waiter once it is told. -/
def State.toldLvl (s : State) (page : Nat) (v : Xlate) (w : Walker) (act : Nat) (y : Lvl) : Lvl :=
  if y.wait = .page ∧ y.acts = act then
    { y with xl := AMap.put y.xl page v, wait := if s.walks.any fun z => z.who.contains w then y.wait else .ready }
  else y

theorem State.tellWalk_level (s : State) (page : Nat) (v : Xlate) (k l act : Nat) :
    s.tellWalk page v (.level k l act) = s.updLvl k (lvOf l) (s.toldLvl page v (.level k l act) act) := rfl

theorem State.toldLvl_told (s : State) (page : Nat) (v : Xlate) (w : Walker) (act : Nat) (y : Lvl) :
    Lvl.Told page v y (s.toldLvl page v w act y) := by
  unfold State.toldLvl
  split
  · refine ⟨rfl, ?_, fun _ => AMap.find?_put_self ..⟩
    dsimp only
    split
    · exact .inl rfl
    · exact .inr ⟨rfl, AMap.find?_put_self ..⟩
  · exact .refl page v y

/-- A core changed in its channel only. -/
theorem Tells.updChan {page : Nat} {v : Xlate} (s : State) (k : Nat) (f : Core → Chan) :
    Tells page v s (s.updCore k fun c => { c with chan := f c }) := by
  have hc : ∀ j, { (s.updCore k fun c => { c with chan := f c }).core j with chan := (s.core j).chan } = s.core j := fun j => by
    by_cases hj : j = k
    · subst hj; rw [State.core_updCore]
    · rw [State.core_updCore_ne s _ hj]
  refine ⟨rfl, fun j => ?_, fun j l => ?_⟩
  · have e := hc j
    have g := congrArg Core.lv e
    rw [← g]; exact e
  · have g : ((s.updCore k fun c => { c with chan := f c }).core j).lv = (s.core j).lv := (congrArg Core.lv (hc j) :)
    have e : (s.updCore k fun c => { c with chan := f c }).lvl j l = s.lvl j l := by simp only [State.lvl, Core.lvl, g]
    rw [e]
    exact .refl page v _

/-- The channel of a copy unit once it is told. -/
def State.copyTold (s : State) (page : Nat) (v : Xlate) (w : Walker) (c : Core) : Chan :=
  { c.chan with queue := c.chan.queue.mapIdx fun i t =>
      if i = 0 then { t with parked := s.waitsPager w, xl := AMap.put t.xl page v } else t }

/-- Telling one waiter. -/
theorem State.tellWalk_tells (s : State) (page : Nat) (v : Xlate) (w : Walker) : Tells page v s (s.tellWalk page v w) := by
  cases w with
  | level k l act =>
    rw [State.tellWalk_level]
    refine ⟨rfl, fun j => ?_, fun j m => ?_⟩
    · by_cases hj : j = k
      · subst hj; simp only [State.updLvl, State.setLvl, State.core_setCore]; rfl
      · rw [State.updLvl, State.core_setLvl_ne s _ _ hj]
    · by_cases hj : j = k
      · subst hj
        by_cases hm : m = lvOf l
        · subst hm; rw [State.lvl_updLvl]; exact s.toldLvl_told page v _ act _
        · rw [State.updLvl, State.lvl_setLvl_ne s _ _ hm]; exact .refl page v _
      · have e : (s.updLvl k (lvOf l) (s.toldLvl page v (.level k l act) act)).lvl j m = s.lvl j m := by
          simp only [State.lvl, State.updLvl, State.core_setLvl_ne s _ _ hj]
        rw [e]; exact .refl page v _
  | copyUnit n k => exact .updChan s k (s.copyTold page v (.copyUnit n k))
  | _ => exact ⟨rfl, fun _ => rfl, fun _ _ => .refl page v _⟩

theorem State.foldl_tellWalk_tells (page : Nat) (v : Xlate) (ws : List Walker) (s : State) :
    Tells page v s (ws.foldl (fun s w => s.tellWalk page v w) s) := by
  induction ws generalizing s with
  | nil => exact .refl page v s
  | cons w ws ih => exact (s.tellWalk_tells page v w).trans (ih _)

/-- A level among the waiters keeps the decision, and is ready unless another of its walks goes on. -/
theorem State.foldl_tellWalk_level (page : Nat) (v : Xlate) {ws : List Walker} {k l act : Nat} (hw : .level k l act ∈ ws) (s : State)
    (hp : (s.lvl k (lvOf l)).wait = .page) (ha : (s.lvl k (lvOf l)).acts = act) :
    let t := ws.foldl (fun s w => s.tellWalk page v w) s
    AMap.find? (t.lvl k (lvOf l)).xl page = some v ∧
      ((∀ z ∈ s.walks, .level k l act ∉ z.who) → (t.lvl k (lvOf l)).wait = .ready) := by
  induction ws generalizing s with
  | nil => cases hw
  | cons w ws ih =>
    have step := (s.tellWalk_tells page v w).lvl k (lvOf l)
    have later := (State.foldl_tellWalk_tells page v ws (s.tellWalk page v w)).lvl k (lvOf l)
    have done : AMap.find? ((s.tellWalk page v w).lvl k (lvOf l)).xl page = some v →
        ((∀ z ∈ s.walks, .level k l act ∉ z.who) → ((s.tellWalk page v w).lvl k (lvOf l)).wait = .ready) →
        AMap.find? ((List.foldl (fun s w => s.tellWalk page v w) s (w :: ws)).lvl k (lvOf l)).xl page = some v ∧
          ((∀ z ∈ s.walks, .level k l act ∉ z.who) →
            ((List.foldl (fun s w => s.tellWalk page v w) s (w :: ws)).lvl k (lvOf l)).wait = .ready) :=
      fun hx hr => ⟨later.kept hx, fun hm => later.ready (hr hm)⟩
    rcases List.mem_cons.1 hw with rfl | hw
    · refine done ?_ fun hm => ?_ <;> rw [State.tellWalk_level, State.lvl_updLvl, State.toldLvl, if_pos ⟨hp, ha⟩]
      · exact AMap.find?_put_self ..
      · exact if_neg (by simpa using hm)
    · rcases step.wait with sw | ⟨sw, sx⟩
      · have := ih hw (s.tellWalk page v w) (sw.trans hp) (step.acts_eq.trans ha)
        rwa [(s.tellWalk_tells page v w).walks_eq] at this
      · exact done sx fun _ => sw

/-! ### The translation put into the TLBs that asked -/

/-- From `s` to `t` TLBs have gained `e`; what asked for it is in `ws`. -/
structure Fills (e : TlbEntry) (s t : State) : Prop where
  rest : { t with free := s.free, cores := s.cores, clus := s.clus } = s
  core : ∀ k, { t.core k with tlb := (s.core k).tlb, tlbUse := (s.core k).tlbUse } = s.core k
  coreKeeps : ∀ k, e ∈ (s.core k).tlb → e ∈ (t.core k).tlb
  cluKeeps : ∀ n, e ∈ (s.clu n).tlb → e ∈ (t.clu n).tlb

theorem mem_tlbAdd (tlb used : List TlbEntry) (e : TlbEntry) (pick : Nat) : e ∈ tlbAdd tlb used e pick := by
  simp [tlbAdd]

theorem Fills.refl (e : TlbEntry) (s : State) : Fills e s s := ⟨rfl, fun _ => rfl, fun _ => id, fun _ => id⟩
theorem Fills.trans {e : TlbEntry} {s t u : State} (h : Fills e s t) (g : Fills e t u) : Fills e s u := by
  refine ⟨?_, fun k => ?_, fun k => g.coreKeeps k ∘ h.coreKeeps k, fun n => g.cluKeeps n ∘ h.cluKeeps n⟩
  · have i := h.rest
    rw [← g.rest] at i
    exact i
  · have i := h.core k
    rw [← g.core k] at i
    exact i

theorem Fills.core_fill (e : TlbEntry) (s : State) (k pick n : Nat) :
    Fills e s ({ s with free := n }.updCore k fun c => c.tlbFill e pick) := by
  refine ⟨rfl, fun j => ?_, fun j hj => ?_, fun _ => id⟩ <;> by_cases h : j = k
  · subst h; rw [State.core_updCore]; rfl
  · rw [State.core_updCore_ne _ _ h]; rfl
  · subst h; rw [State.core_updCore]; exact mem_tlbAdd ..
  · rw [State.core_updCore_ne _ _ h]; exact hj
theorem Fills.clu_fill (e : TlbEntry) (s : State) (k pick n : Nat) :
    Fills e s ({ s with free := n }.updClu k fun c => c.tlbFill e pick) := by
  refine ⟨rfl, fun _ => rfl, fun _ => id, fun j hj => ?_⟩
  by_cases h : j = k
  · subst h; rw [State.clu_updClu]; exact mem_tlbAdd ..
  · rw [State.clu_updClu_ne _ _ h]; exact hj

theorem State.fillTlb_fills (s : State) (e : TlbEntry) (w : Walker) : Fills e s (s.fillTlb e w) := by
  cases w with
  | level k _ _ => exact .core_fill e s k _ _
  | dispatch k _ => exact .core_fill e s k _ _
  | copyUnit n _ => exact .clu_fill e s n _ _
  | cairn n _ _ => exact .clu_fill e s n _ _
  | landing n _ => exact .clu_fill e s n _ _
  | _ => exact ⟨rfl, fun _ => rfl, fun _ => id, fun _ => id⟩

theorem State.foldl_fillTlb_fills (e : TlbEntry) (ws : List Walker) (s : State) :
    Fills e s (ws.foldl (fun s w => s.fillTlb e w) s) := by
  induction ws generalizing s with
  | nil => exact .refl e s
  | cons w ws ih => exact (s.fillTlb_fills e w).trans (ih _)

/-- The TLB of the core that a requester asks for. -/
def Walker.fillsCore (w : Walker) (k : Nat) : Prop := (∃ l act, w = .level k l act) ∨ ∃ ty, w = .dispatch k ty
/-- The TLB of the copy unit that a requester asks for. -/
def Walker.fillsClu (w : Walker) (n : Nat) : Prop :=
  (∃ k, w = .copyUnit n k) ∨ (∃ vd i, w = .cairn n vd i) ∨ ∃ i, w = .landing n i

theorem State.mem_fillTlb_core (s : State) (e : TlbEntry) {w : Walker} {k : Nat} (h : w.fillsCore k) :
    e ∈ ((s.fillTlb e w).core k).tlb := by
  rcases h with ⟨l, act, rfl⟩ | ⟨ty, rfl⟩ <;>
    exact (State.core_updCore { s with free := s.free + 1 } k _).symm ▸ mem_tlbAdd ..
theorem State.mem_fillTlb_clu (s : State) (e : TlbEntry) {w : Walker} {n : Nat} (h : w.fillsClu n) :
    e ∈ ((s.fillTlb e w).clu n).tlb := by
  rcases h with ⟨k, rfl⟩ | ⟨vd, i, rfl⟩ | ⟨i, rfl⟩ <;>
    exact (State.clu_updClu { s with free := s.free + 1 } n _).symm ▸ mem_tlbAdd ..

theorem State.mem_foldl_fillTlb_core (e : TlbEntry) {ws : List Walker} {w : Walker} (hw : w ∈ ws) (s : State) {k : Nat}
    (h : w.fillsCore k) : e ∈ ((ws.foldl (fun s w => s.fillTlb e w) s).core k).tlb := by
  induction ws generalizing s with
  | nil => cases hw
  | cons x ws ih =>
    rcases List.mem_cons.1 hw with rfl | hw
    · exact (State.foldl_fillTlb_fills e ws _).coreKeeps k (s.mem_fillTlb_core e h)
    · exact ih hw _
theorem State.mem_foldl_fillTlb_clu (e : TlbEntry) {ws : List Walker} {w : Walker} (hw : w ∈ ws) (s : State) {n : Nat}
    (h : w.fillsClu n) : e ∈ ((ws.foldl (fun s w => s.fillTlb e w) s).clu n).tlb := by
  induction ws generalizing s with
  | nil => cases hw
  | cons x ws ih =>
    rcases List.mem_cons.1 hw with rfl | hw
    · exact (State.foldl_fillTlb_fills e ws _).cluKeeps n (s.mem_fillTlb_clu e h)
    · exact ih hw _

end Sys2Proof.Machine
end

section
/-! The obligations of TABLE_WALK, of the page service's answers, of invalidations and of LINE_CLEAR (R33 to R42, R75). -/

namespace Sys2Proof.Machine

/-! ### The end of a walk -/

section
variable {e : TlbEntry} {s t : State} (h : Fills e s t)
include h

theorem Fills.mem_eq : t.mem = s.mem := (congrArg State.mem h.rest :)
theorem Fills.walks_eq : t.walks = s.walks := (congrArg State.walks h.rest :)
theorem Fills.lv_eq (k : Nat) : (t.core k).lv = (s.core k).lv := (congrArg Core.lv (h.core k) :)
theorem Fills.lvl_eq (k : Nat) (l : Level) : t.lvl k l = s.lvl k l := by simp only [State.lvl, Core.lvl, h.lv_eq k]

end

theorem State.walkerReads_served (s : State) (w : Walk) (seen : Seen) : Served s (s.walkerReads w seen) :=
  Served.foldl (fun _ _ => (((Served.trace _ _).trans (Served.lineServe _ _ _ _)).trans (Served.correct _ _)).trans
    (Served.portServed _ _ _)) seen s

theorem State.endWalk_tells (s : State) (w : Walk) (v : Xlate) : Tells w.page v (s.dropWalk w.id) (s.endWalk w v) :=
  State.foldl_tellWalk_tells w.page v w.who _

theorem State.endWalk_gone (s : State) (w : Walk) (v : Xlate) : ∀ x ∈ (s.endWalk w v).walks, x.id ≠ w.id := by
  rw [(s.endWalk_tells w v).walks_eq]
  intro x hx
  simpa using (List.mem_filter.1 hx).2

/-- What a level that waited for a walk keeps of its end, in the terms of the state `s` from which the walk began. -/
theorem State.endWalk_level {s u : State} (hu : u.walks = s.walks) (hl : ∀ k l, u.lvl k l = s.lvl k l) (w : Walk) (v : Xlate)
    {k l act : Nat} (hw : .level k l act ∈ w.who) :
    ((u.endWalk w v).lvl k (lvOf l)).x = (s.lvl k (lvOf l)).x ∧
      ((s.lvl k (lvOf l)).wait = .page → (s.lvl k (lvOf l)).acts = act →
        AMap.find? ((u.endWalk w v).lvl k (lvOf l)).xl w.page = some v ∧
          ((¬ ∃ x ∈ s.walks, x.id ≠ w.id ∧ .level k l act ∈ x.who) → ((u.endWalk w v).lvl k (lvOf l)).wait = .ready)) := by
  have hd : (u.dropWalk w.id).lvl k (lvOf l) = s.lvl k (lvOf l) := hl k (lvOf l)
  refine ⟨?_, fun hp ha => ?_⟩
  · rw [((u.endWalk_tells w v).lvl k (lvOf l)).x_eq, hd]
  · obtain ⟨hx, hr⟩ := State.foldl_tellWalk_level w.page v hw (u.dropWalk w.id) (hd ▸ hp) (hd ▸ ha)
    refine ⟨hx, fun hm => hr fun z hz hin => hm ?_⟩
    obtain ⟨hz, hne⟩ := List.mem_filter.1 hz
    exact ⟨z, hu ▸ hz, by simpa using hne, hin⟩

/-! ### Walks that ask the page service -/

theorem State.tellPager_rest (s : State) (vd st p : Nat) : { s.tellPager vd st p with mem := s.mem, chips := s.chips } = s := by
  unfold State.tellPager
  dsimp only
  split
  · exact s.ringEntry_rest _ _ _ _
  · rfl
theorem State.tellPager_mem (s : State) (vd p : Nat) {st : Nat} (h : st ≠ 2) : (s.tellPager vd st p).mem = s.mem := by
  unfold State.tellPager
  rw [if_neg (by simp [h])]

/-- The channel of a core whose oldest transfer is parked. -/
def Core.parked (c : Core) : Chan :=
  { c.chan with queue := c.chan.queue.mapIdx fun i t => if i = 0 then { t with parked := true } else t }

theorem Core.parked_queue {c : Core} {x : Xfer} {rest : List Xfer} (h : c.chan.queue = x :: rest) :
    c.parked.queue = { x with parked := true } :: rest := by
  refine List.ext_getElem? fun i => ?_
  cases i <;> simp [Core.parked, h]

/-- From `s` to `t` copies have been parked: where the oldest transfer of a core was `x`, it is `x` or `x` parked. -/
structure Parks (s t : State) : Prop where
  frame : { t with cores := s.cores } = s
  core : ∀ k, { t.core k with chan := (s.core k).chan } = s.core k
  queue : ∀ k (x : Xfer) (xs : List Xfer), (s.core k).chan.queue = x :: xs →
    (t.core k).chan.queue = x :: xs ∨ (t.core k).chan.queue = { x with parked := true } :: xs
  kept : ∀ k (x : Xfer) (xs : List Xfer), (s.core k).chan.queue = { x with parked := true } :: xs → (t.core k).chan.queue = { x with parked := true } :: xs

theorem Parks.refl (s : State) : Parks s s := ⟨rfl, fun _ => rfl, fun _ _ _ h => .inl h, fun _ _ _ h => h⟩
theorem Parks.trans {s t u : State} (h : Parks s t) (g : Parks t u) : Parks s u := by
  refine ⟨?_, fun k => ?_, fun k x xs hx => ?_, fun k x xs hx => g.kept k x xs (h.kept k x xs hx)⟩
  · have e := h.frame
    rw [← g.frame] at e
    exact e
  · have e := h.core k
    rw [← g.core k] at e
    exact e
  · rcases h.queue k x xs hx with hq | hq
    · exact g.queue k x xs hq
    · exact .inr (g.kept k x xs hq)

theorem State.parkCopy_parks (s : State) (w : Walker) : Parks s (s.parkCopy w) := by
  cases w with
  | copyUnit n k =>
    have hk : (s.parkCopy (.copyUnit n k)).core k = { s.core k with chan := (s.core k).parked } := State.core_updCore s k _
    have hj : ∀ j, j ≠ k → (s.parkCopy (.copyUnit n k)).core j = s.core j := fun j => State.core_updCore_ne s _
    refine ⟨rfl, fun j => ?_, fun j x xs hx => ?_, fun j x xs hx => ?_⟩ <;> by_cases h : j = k
    · subst h; rw [hk]
    · rw [hj j h]
    · subst h; rw [hk]; exact .inr (Core.parked_queue hx)
    · rw [hj j h]; exact .inl hx
    · subst h; rw [hk]; exact Core.parked_queue (x := { x with parked := true }) hx
    · rw [hj j h]; exact hx
  | _ => exact .refl s

theorem State.foldl_parkCopy_parks (ws : List Walker) (s : State) : Parks s (ws.foldl State.parkCopy s) := by
  induction ws generalizing s with
  | nil => exact .refl s
  | cons w ws ih => exact (s.parkCopy_parks w).trans (ih _)

/-- A copy among those who wait is parked. -/
theorem State.foldl_parkCopy_queue {ws : List Walker} {n k : Nat} (hw : .copyUnit n k ∈ ws) (s : State) {x : Xfer} {xs : List Xfer}
    (hx : (s.core k).chan.queue = x :: xs) :
    ((ws.foldl State.parkCopy s).core k).chan.queue = { x with parked := true } :: xs := by
  induction ws generalizing s with
  | nil => cases hw
  | cons w ws ih =>
    have later := State.foldl_parkCopy_parks ws (s.parkCopy w)
    rcases List.mem_cons.1 hw with rfl | hw
    · refine later.kept k x xs ?_
      exact (congrArg (fun c : Core => c.chan.queue) (State.core_updCore s k _)).trans (Core.parked_queue hx)
    · rcases (s.parkCopy_parks w).queue k x xs hx with hq | hq
      · exact ih hw _ hq
      · exact later.kept k x xs hq

theorem Parks.lvl_eq {s t : State} (h : Parks s t) (k : Nat) (l : Level) : t.lvl k l = s.lvl k l := by
  have e : (t.core k).lv = (s.core k).lv := (congrArg Core.lv (h.core k) :)
  simp only [State.lvl, Core.lvl, e]

/-! ### TABLE_WALK -/

section
variable {s : State} {w : Walk} (hw : (s.walks.find? fun x => x.id == s.arg.id && x.asked.isNone && s.walkGoes x) = some w)
include hw

theorem exec_tableWalk_waits (h : s.walkWaits w (s.walkVa w.vd s.arg.flag (w.page * 2 ^ 16)).seen = true) :
    exec .tableWalk s = .next s := by
  simp only [exec, execTableWalk, hw, h, if_true]

variable (h : s.walkWaits w (s.walkVa w.vd s.arg.flag (w.page * 2 ^ 16)).seen = false)
include h

/-- The entries that a walk has read, as its walk cache keeps them. -/
def Walk.entries (w : Walk) (seen : Seen) : List WalkEntry := seen.map fun x => ⟨w.vd, x.1, x.2⟩

/-- The state in which a walk that found its leaf has filled the TLBs and the walk cache. -/
def State.walkHit (s : State) (w : Walk) (e : TlbEntry) (seen : Seen) : State :=
  let t := w.who.foldl (fun s x => s.fillTlb e x) (s.walkerReads w seen)
  { t with wcache := t.wcache.filter (fun c => !((w.entries seen).any fun n => n.vd == c.vd && n.addr == c.addr)) ++ w.entries seen }

theorem exec_tableWalk_hit {e : TlbEntry} {seen : Seen} (hr : s.walkVa w.vd s.arg.flag (w.page * 2 ^ 16) = .hit e seen) :
    exec .tableWalk s = .next ((s.walkHit w e seen).endWalk w (.hit e)) := by
  rw [hr] at h
  simp only [exec, execTableWalk, hw, hr, h, Bool.false_eq_true, if_false]; rfl
theorem exec_tableWalk_denied {val : Word} {bad : Option Report} {seen : Seen}
    (hr : s.walkVa w.vd s.arg.flag (w.page * 2 ^ 16) = .denied val bad seen) :
    exec .tableWalk s = .next (((s.walkerReads w seen).reportEntry w bad).endWalk w (.denied val)) := by
  rw [hr] at h
  simp only [exec, execTableWalk, hw, hr, h, Bool.false_eq_true, if_false]
theorem exec_tableWalk_lost {c : Nat} {seen : Seen} (hr : s.walkVa w.vd s.arg.flag (w.page * 2 ^ 16) = .lost c seen) :
    exec .tableWalk s = .next ((s.walkerReads w seen).endWalk w (.lost c)) := by
  rw [hr] at h
  simp only [exec, execTableWalk, hw, hr, h, Bool.false_eq_true, if_false]

/-- The state in which a walk waits on the page service. -/
def State.walkAsk (s : State) (w : Walk) (st lv page : Nat) (seen : Seen) : State :=
  let t := w.who.foldl State.parkCopy ((s.walkerReads w seen).tellPager w.vd st page)
  { t with walks := t.walks.map fun x => if x.id = w.id then { x with asked := some (st, page, lv) } else x }

theorem exec_tableWalk_ask {st lv page : Nat} {seen : Seen} (hr : s.walkVa w.vd s.arg.flag (w.page * 2 ^ 16) = .ask st lv page seen) :
    exec .tableWalk s = .next (s.walkAsk w st lv page seen) := by
  rw [hr] at h
  simp only [exec, execTableWalk, hw, hr, h, Bool.false_eq_true, if_false]; rfl

end

theorem State.walkHit_fills (s : State) (w : Walk) (e : TlbEntry) (seen : Seen) :
    Fills e (s.walkerReads w seen) (w.who.foldl (fun s x => s.fillTlb e x) (s.walkerReads w seen)) :=
  State.foldl_fillTlb_fills e w.who _
theorem State.walkHit_lvl (s : State) (w : Walk) (e : TlbEntry) (seen : Seen) (k : Nat) (l : Level) :
    (s.walkHit w e seen).lvl k l = s.lvl k l :=
  ((s.walkHit_fills w e seen).lvl_eq k l).trans ((s.walkerReads_served w seen).lvl_eq k l)
theorem State.walkHit_walks (s : State) (w : Walk) (e : TlbEntry) (seen : Seen) : (s.walkHit w e seen).walks = s.walks :=
  (s.walkHit_fills w e seen).walks_eq.trans (s.walkerReads_served w seen).walks_eq

/-- A report of a malformed entry changes its package only. -/
theorem State.reportEntry_rest (s : State) (w : Walk) (r : Option Report) : { s.reportEntry w r with chips := s.chips } = s := by
  cases r <;> rfl
theorem State.reportEntry_mem_reports (s : State) (w : Walk) (r : Report) : ∃ n, r ∈ ((s.reportEntry w (some r)).chip n).reports := by
  refine ⟨(w.who.findSome? Walker.node).getD 0 / 1024, ?_⟩
  simp only [State.reportEntry, State.chip_updChip]
  simp

/-! ### The page service's answers -/

/-- From `s` to `t` waiting levels may have been made ready, and no register has changed. -/
structure Spares (s t : State) : Prop where
  mem : t.mem = s.mem
  walks : t.walks = s.walks
  x : ∀ k l, (t.lvl k l).x = (s.lvl k l).x
  acts : ∀ k l, (t.lvl k l).acts = (s.lvl k l).acts
  wait : ∀ k l, (t.lvl k l).wait = (s.lvl k l).wait ∨ (t.lvl k l).wait = .ready

theorem Spares.refl (s : State) : Spares s s := ⟨rfl, rfl, fun _ _ => rfl, fun _ _ => rfl, fun _ _ => .inl rfl⟩
theorem Spares.trans {s t u : State} (h : Spares s t) (g : Spares t u) : Spares s u := by
  refine ⟨g.mem.trans h.mem, g.walks.trans h.walks, fun k l => (g.x k l).trans (h.x k l), fun k l => (g.acts k l).trans (h.acts k l),
    fun k l => ?_⟩
  rcases g.wait k l with e | e
  · rw [e]; exact h.wait k l
  · exact .inr e
theorem Spares.ready {s t : State} (h : Spares s t) {k : Nat} {l : Level} (hr : (s.lvl k l).wait = .ready) : (t.lvl k l).wait = .ready :=
  (h.wait k l).elim (fun e => e.trans hr) id

theorem Tells.spares {page : Nat} {v : Xlate} {s t : State} (h : Tells page v s t) : Spares s t :=
  ⟨h.mem_eq, h.walks_eq, fun k l => (h.lvl k l).x_eq, fun k l => (h.lvl k l).acts_eq, fun k l => (h.lvl k l).wait.imp id And.left⟩

/-- The waiters of a walk told the denial of its page. -/
def State.denyWalk (st : Nat) (s : State) (w : Walk) : State :=
  w.who.foldl (fun s x => s.tellWalk w.page (.denied (denyVal 2 w.level st)) x) s

theorem State.denyWalk_spares (st : Nat) (s : State) (w : Walk) : Spares s (s.denyWalk st w) :=
  (State.foldl_tellWalk_tells w.page _ w.who s).spares

theorem State.foldl_denyWalk_spares (st : Nat) (ws : List Walk) (s : State) : Spares s (ws.foldl (State.denyWalk st) s) := by
  induction ws generalizing s with
  | nil => exact .refl s
  | cons w ws ih => exact (s.denyWalk_spares st w).trans (ih _)

/-- A level whose walk is denied is ready unless another of its walks goes on. -/
theorem State.foldl_denyWalk_ready (st : Nat) {ws : List Walk} {w : Walk} (hw : w ∈ ws) (s : State) {k l act : Nat}
    (hl : .level k l act ∈ w.who) (hp : (s.lvl k (lvOf l)).wait = .page) (ha : (s.lvl k (lvOf l)).acts = act)
    (hm : ∀ z ∈ s.walks, .level k l act ∉ z.who) : ((ws.foldl (State.denyWalk st) s).lvl k (lvOf l)).wait = .ready := by
  induction ws generalizing s with
  | nil => cases hw
  | cons y ws ih =>
    have step := s.denyWalk_spares st y
    have later := State.foldl_denyWalk_spares st ws (s.denyWalk st y)
    rcases List.mem_cons.1 hw with rfl | hw
    · exact later.ready ((State.foldl_tellWalk_level w.page _ hl s hp ha).2 hm)
    · rcases step.wait k (lvOf l) with e | e
      · exact ih hw _ (e.trans hp) ((step.acts k (lvOf l)).trans ha) (step.walks ▸ hm)
      · exact later.ready e

/-- The walks that an answer is for, gone. -/
theorem State.foldl_dropWalk (ws : List Walk) (s : State) : ws.foldl (fun s w => s.dropWalk w.id) s =
    { s with walks := s.walks.filter fun x => ws.all fun w => x.id != w.id } := by
  induction ws generalizing s with
  | nil => simp
  | cons w ws ih =>
    rw [List.foldl_cons, ih]
    simp only [State.dropWalk, List.filter_filter, List.all_cons, Bool.and_comm]

theorem State.pageAnswer_deny (s : State) (vd st page : Nat) {w : Walk} (hw : w ∈ s.walks) (ha : w.waitsOn vd st page = true) :
    let t := s.pageAnswer vd st page true
    (∀ x ∈ t.walks, x.id ≠ w.id) ∧
      ∀ k l act, .level k l act ∈ w.who → (s.lvl k (lvOf l)).wait = .page → (s.lvl k (lvOf l)).acts = act →
        (t.lvl k (lvOf l)).x = (s.lvl k (lvOf l)).x ∧
          ((∀ y ∈ s.walks, y.waitsOn vd st page = false → .level k l act ∉ y.who) → (t.lvl k (lvOf l)).wait = .ready) := by
  have hh : w ∈ s.walks.filter fun w => w.waitsOn vd st page := List.mem_filter.2 ⟨hw, ha⟩
  have ht : s.pageAnswer vd st page true = (s.walks.filter fun w => w.waitsOn vd st page).foldl (State.denyWalk st)
      ((s.walks.filter fun w => w.waitsOn vd st page).foldl (fun s w => s.dropWalk w.id) s) := rfl
  rw [State.foldl_dropWalk] at ht
  have sp := State.foldl_denyWalk_spares st (s.walks.filter fun w => w.waitsOn vd st page)
    { s with walks := s.walks.filter fun x => (s.walks.filter fun w => w.waitsOn vd st page).all fun w => x.id != w.id }
  rw [← ht] at sp
  refine ⟨fun x hx => ?_, fun k l act hl hp hc => ⟨sp.x k (lvOf l), fun hm => ?_⟩⟩
  · rw [sp.walks] at hx
    simpa using List.all_eq_true.1 (List.mem_filter.1 hx).2 w hh
  · rw [ht]
    refine State.foldl_denyWalk_ready st hh _ hl hp hc fun z hz => ?_
    obtain ⟨hz, hne⟩ := List.mem_filter.1 hz
    refine hm z hz ?_
    by_contra hc
    have := List.all_eq_true.1 hne z (List.mem_filter.2 ⟨hz, by simpa using hc⟩)
    simp at this

theorem State.pageAnswer_deny_mem (s : State) (vd st page : Nat) : (s.pageAnswer vd st page true).mem = s.mem := by
  have ht : s.pageAnswer vd st page true = (s.walks.filter fun w => w.waitsOn vd st page).foldl (State.denyWalk st)
      ((s.walks.filter fun w => w.waitsOn vd st page).foldl (fun s w => s.dropWalk w.id) s) := rfl
  rw [ht, State.foldl_dropWalk]
  exact (State.foldl_denyWalk_spares st _ _).mem

end Sys2Proof.Machine
end

section
/-! Invalidations (R38 to R42), the clearing of a line (R75), and the obligation about walks, invalidations and LINE_CLEAR. -/

namespace Sys2Proof.Machine

/-! ### What an invalidation drops -/

/-- A TLB without the covered entries. -/
def keepTlb (vd : Nat) (page : Option (Nat × Bool)) (tlb : List TlbEntry) : List TlbEntry := tlb.filter fun e => !e.covered vd page

theorem keepTlb_keepTlb (vd : Nat) (page : Option (Nat × Bool)) (tlb : List TlbEntry) :
    keepTlb vd page (keepTlb vd page tlb) = keepTlb vd page tlb := by
  simp only [keepTlb, List.filter_filter, Bool.and_self]

/-- From `s` to `t` TLBs and walk caches have dropped covered entries, decided translations with them. -/
structure Purges (vd : Nat) (page : Option (Nat × Bool)) (s t : State) : Prop where
  frame : { t with cores := s.cores, clus := s.clus, told := s.told, wcache := s.wcache } = s
  wait : ∀ k l, (t.lvl k l).wait = (s.lvl k l).wait
  tlb : ∀ k, (t.core k).tlb = (s.core k).tlb ∨ (t.core k).tlb = keepTlb vd page (s.core k).tlb
  clu : ∀ n, (t.clu n).tlb = (s.clu n).tlb ∨ (t.clu n).tlb = keepTlb vd page (s.clu n).tlb
  wcache : ∀ w ∈ t.wcache, w ∈ s.wcache

namespace Purges
variable {vd : Nat} {page : Option (Nat × Bool)}

theorem refl (s : State) : Purges vd page s s := ⟨rfl, fun _ _ => rfl, fun _ => .inl rfl, fun _ => .inl rfl, fun _ => id⟩

/-- Dropping twice drops no more. -/
theorem kept_trans {a b c : List TlbEntry} (h : b = a ∨ b = keepTlb vd page a) (g : c = b ∨ c = keepTlb vd page b) :
    c = a ∨ c = keepTlb vd page a := by
  rcases h with rfl | rfl
  · exact g
  · rw [keepTlb_keepTlb, or_self] at g; exact .inr g

theorem trans {s t u : State} (h : Purges vd page s t) (g : Purges vd page t u) : Purges vd page s u := by
  refine ⟨?_, fun k l => (g.wait k l).trans (h.wait k l), fun k => kept_trans (h.tlb k) (g.tlb k), fun n => kept_trans (h.clu n) (g.clu n),
    fun w hw => h.wcache w (g.wcache w hw)⟩
  have e := h.frame
  rw [← g.frame] at e
  exact e

theorem mem_eq {s t : State} (h : Purges vd page s t) : t.mem = s.mem := (congrArg State.mem h.frame :)
theorem vds_eq {s t : State} (h : Purges vd page s t) : t.vds = s.vds := (congrArg State.vds h.frame :)
theorem invals_eq {s t : State} (h : Purges vd page s t) : t.invals = s.invals := (congrArg State.invals h.frame :)

/-- What has dropped its covered entries has done so for good. -/
theorem tlb_kept {s t : State} (h : Purges vd page s t) {k : Nat} {tlb : List TlbEntry} (hk : (s.core k).tlb = keepTlb vd page tlb) :
    (t.core k).tlb = keepTlb vd page tlb := by
  rcases h.tlb k with e | e <;> rw [e, hk]
  rw [keepTlb_keepTlb]
theorem clu_kept {s t : State} (h : Purges vd page s t) {n : Nat} {tlb : List TlbEntry} (hn : (s.clu n).tlb = keepTlb vd page tlb) :
    (t.clu n).tlb = keepTlb vd page tlb := by
  rcases h.clu n with e | e <;> rw [e, hn]
  rw [keepTlb_keepTlb]

theorem foldl {α : Type} {f : State → α → State} (hf : ∀ s a, Purges vd page s (f s a)) (as : List α) (s : State) :
    Purges vd page s (as.foldl f s) := by
  induction as generalizing s with
  | nil => exact refl s
  | cons a as ih => exact (hf s a).trans (ih _)

end Purges

theorem mem_tabFrom {α : Type} (f : Nat → α) (n i : Nat) {x : α} : x ∈ tabFrom f n i ↔ ∃ j, i ≤ j ∧ j < i + n ∧ f j = x := by
  induction n generalizing i with
  | zero => simp only [tabFrom, List.not_mem_nil, false_iff]; rintro ⟨j, h1, h2, -⟩; omega
  | succ n ih =>
    rw [tabFrom, List.mem_cons, ih]
    constructor
    · rintro (rfl | ⟨j, h1, h2, hx⟩)
      · exact ⟨i, le_refl i, by omega, rfl⟩
      · exact ⟨j, by omega, by omega, hx⟩
    · rintro ⟨j, h1, h2, hx⟩
      by_cases h : j = i
      · exact .inl (h ▸ hx.symm)
      · exact .inr ⟨j, by omega, by omega, hx⟩

theorem mem_tab {α : Type} {n : Nat} {f : Nat → α} {x : α} : x ∈ tab n f ↔ ∃ i, i < n ∧ f i = x := by
  simp [tab, mem_tabFrom]

theorem Core.lvl_mapLvls (c : Core) (f : Lvl → Lvl) (l : Level) : (c.mapLvls f).lvl l = f (c.lvl l) := by
  fin_cases l <;> rfl

/-- A core reached by an invalidation. -/
def State.reachCore (s : State) (vd : Nat) (page : Option (Nat × Bool)) (k : Nat) : State :=
  if (AMap.find? s.cores k).isSome then s.updCore k fun c => c.invalidate vd page else s

theorem State.reachCore_purges (s : State) (vd : Nat) (page : Option (Nat × Bool)) (k : Nat) : Purges vd page s (s.reachCore vd page k) := by
  unfold State.reachCore
  split
  · refine ⟨rfl, fun j l => ?_, fun j => ?_, fun _ => .inl rfl, fun _ => id⟩ <;> by_cases h : j = k
    · subst h
      simp only [State.lvl, State.core_updCore]
      exact (congrArg Lvl.wait (Core.lvl_mapLvls (s.core j) (fun l => l.dropXl vd page) l) :)
    · simp only [State.lvl, State.core_updCore_ne s _ h]
    · subst h; rw [State.core_updCore]; exact .inr rfl
    · rw [State.core_updCore_ne s _ h]; exact .inl rfl
  · exact .refl s

theorem State.reachCore_tlb (s : State) (vd : Nat) (page : Option (Nat × Bool)) (k : Nat) :
    ((s.reachCore vd page k).core k).tlb = keepTlb vd page (s.core k).tlb := by
  unfold State.reachCore
  split
  · rw [State.core_updCore]; rfl
  next h =>
    have e : s.core k = {} := by
      rw [State.core, AMap.get, Option.not_isSome_iff_eq_none.1 h]; rfl
    rw [e]; rfl

theorem State.foldl_reachCore_tlb (vd : Nat) (page : Option (Nat × Bool)) {ks : List Nat} {k : Nat} (hk : k ∈ ks) (s : State) :
    ((ks.foldl (fun s k => s.reachCore vd page k) s).core k).tlb = keepTlb vd page (s.core k).tlb := by
  induction ks generalizing s with
  | nil => cases hk
  | cons j ks ih =>
    have later : Purges vd page (s.reachCore vd page j) (ks.foldl (fun s k => s.reachCore vd page k) (s.reachCore vd page j)) :=
      .foldl (fun s k => s.reachCore_purges vd page k) ks _
    by_cases h : k = j
    · subst h; exact later.tlb_kept (s.reachCore_tlb vd page k)
    · rw [List.foldl_cons, ih ((List.mem_cons.1 hk).resolve_left h)]
      rcases (s.reachCore_purges vd page j).tlb k with e | e <;> rw [e]
      rw [keepTlb_keepTlb]

section
variable (s : State) (chip node vd : Nat) (page : Option (Nat × Bool))

/-- The cores of a cluster reached by an invalidation. -/
def State.reachCores : State := (tab 9 fun i => coreKey chip node i).foldl (fun s k => s.reachCore vd page k) s

theorem State.reachCores_purges : Purges vd page s (s.reachCores chip node vd page) :=
  .foldl (fun s k => s.reachCore_purges vd page k) _ _

/-- What an invalidation that has reached the cores of a cluster drops besides. -/
def State.dropNode (s : State) (node vd : Nat) (page : Option (Nat × Bool)) : State :=
  { s.updClu node (fun c => { c with tlb := keepTlb vd page c.tlb }) with
    wcache := s.wcache.filter fun w => !w.covered vd
    told := s.told.filter fun x => match x.2.2 with
      | .hit e => !e.covered vd page
      | _ => true }

theorem State.invalidateNode_fst :
    (s.invalidateNode chip node vd page).1 = (s.reachCores chip node vd page).dropNode (nodeKey chip node) vd page := by
  have h : s.reachCores chip node vd page = (tab 9 fun i => coreKey chip node i).foldl
      (fun s k => if (AMap.find? s.cores k).isSome then s.updCore k fun c => c.invalidate vd page else s) s := rfl
  unfold State.invalidateNode
  rw [h]
  generalize (tab 9 fun i => coreKey chip node i) = ks
  dsimp only
  generalize List.foldl _ s ks = u
  rfl

theorem State.reachCores_clus : (s.reachCores chip node vd page).clus = s.clus := by
  unfold State.reachCores
  generalize tab 9 _ = ks
  induction ks generalizing s with
  | nil => rfl
  | cons k ks ih =>
    rw [List.foldl_cons, ih]
    unfold State.reachCore
    split <;> rfl

theorem State.invalidateNode_purges : Purges vd page s (s.invalidateNode chip node vd page).1 := by
  rw [State.invalidateNode_fst]
  refine (s.reachCores_purges chip node vd page).trans ?_
  generalize s.reachCores chip node vd page = u
  refine ⟨rfl, fun _ _ => rfl, fun _ => .inl rfl, fun n => ?_, fun w hw => List.mem_of_mem_filter hw⟩
  by_cases hn : n = nodeKey chip node
  · subst hn; exact .inr (congrArg Cluster.tlb (u.clu_updClu (nodeKey chip node) fun c => { c with tlb := keepTlb vd page c.tlb }))
  · exact .inl (congrArg Cluster.tlb (u.clu_updClu_ne (fun c => { c with tlb := keepTlb vd page c.tlb }) hn))

theorem State.invalidateNode_core {i : Nat} (hi : i < 9) :
    ((s.invalidateNode chip node vd page).1.core (coreKey chip node i)).tlb = keepTlb vd page (s.core (coreKey chip node i)).tlb := by
  have h : ((s.reachCores chip node vd page).core (coreKey chip node i)).tlb = keepTlb vd page (s.core (coreKey chip node i)).tlb :=
    State.foldl_reachCore_tlb vd page (mem_tab.2 ⟨i, hi, rfl⟩) s
  rw [State.invalidateNode_fst, ← h]
  generalize s.reachCores chip node vd page = u
  rfl

theorem State.invalidateNode_clu :
    ((s.invalidateNode chip node vd page).1.clu (nodeKey chip node)).tlb = keepTlb vd page (s.clu (nodeKey chip node)).tlb := by
  rw [State.invalidateNode_fst]
  have h : (s.reachCores chip node vd page).clu (nodeKey chip node) = s.clu (nodeKey chip node) := by
    simp only [State.clu, s.reachCores_clus]
  rw [← h]
  generalize s.reachCores chip node vd page = u
  exact congrArg Cluster.tlb (State.clu_updClu u (nodeKey chip node) fun c => { c with tlb := keepTlb vd page c.tlb })

theorem State.invalidateNode_wcache : ∀ w ∈ (s.invalidateNode chip node vd page).1.wcache, vd ≠ 0 ∧ w.vd ≠ vd := by
  rw [State.invalidateNode_fst]
  generalize s.reachCores chip node vd page = u
  intro w hw
  simpa [WalkEntry.covered] using (List.mem_filter.1 hw).2

/-- A cluster none of whose operations is covered waits for none. -/
theorem State.invalidateNode_wait (h : ∀ n, n < 9 → (s.core (coreKey chip node n)).coveredOps vd page = []) :
    (s.invalidateNode chip node vd page).2 = [] := by
  have e : (s.invalidateNode chip node vd page).2 =
      (tab 9 fun i => coreKey chip node i).flatMap fun k => ((s.core k).coveredOps vd page).map fun o => (k, o) := by
    unfold State.invalidateNode
    generalize (tab 9 fun i => coreKey chip node i) = ks
    rfl
  rw [e, List.flatMap_eq_nil_iff]
  intro k hk
  obtain ⟨i, hi, rfl⟩ : ∃ i, i < 9 ∧ coreKey chip node i = k := mem_tab.1 hk
  rw [h i hi]; rfl

end

theorem State.purgeEntries_purges (s : State) (vd : Nat) (page : Option (Nat × Bool)) : Purges vd page s (s.purgeEntries vd page) := by
  unfold State.purgeEntries
  exact .foldl (fun s (n : Nat × Nat) => s.invalidateNode_purges n.1 n.2 vd page) _ s

/-! ### TLB_INVALIDATION_ACK -/

/-- What dropped its covered entries before an invalidation ends has dropped them after. -/
structure Ends (i : Inval) (s t : State) : Prop where
  mem : t.mem = s.mem
  tlb : ∀ k tlb, (s.core k).tlb = keepTlb i.vd i.page tlb → (t.core k).tlb = keepTlb i.vd i.page tlb
  clu : ∀ n tlb, (s.clu n).tlb = keepTlb i.vd i.page tlb → (t.clu n).tlb = keepTlb i.vd i.page tlb
  wcache : ∀ w ∈ t.wcache, w ∈ s.wcache

theorem Ends.of_purges {i : Inval} {s t : State} (h : Purges i.vd i.page s t) : Ends i s t :=
  ⟨h.mem_eq, fun _ _ => h.tlb_kept, fun _ _ => h.clu_kept, h.wcache⟩
theorem Ends.trans {i : Inval} {s t u : State} (h : Ends i s t) (g : Ends i t u) : Ends i s u :=
  ⟨g.mem.trans h.mem, fun k tlb e => g.tlb k tlb (h.tlb k tlb e), fun n tlb e => g.clu n tlb (h.clu n tlb e),
    fun w hw => h.wcache w (g.wcache w hw)⟩

/-- The issuer of an invalidation that has ended. -/
def Lvl.wakeInval (id : Nat) (x : Lvl) : Lvl := if x.wait = .tlbinv id then { x with wait := .ready } else x

theorem Lvl.wakeInval_wait {id : Nat} {x : Lvl} (h : x.wait = .tlbinv id) : (x.wakeInval id).wait = .ready := by
  rw [Lvl.wakeInval, if_pos h]

theorem Ends.wake (i : Inval) (s : State) (k : Nat) (l : Level) : Ends i s (s.updLvl k l (Lvl.wakeInval i.id)) := by
  refine ⟨rfl, fun j tlb e => ?_, fun _ _ e => e, fun _ => id⟩
  rw [← e]
  by_cases h : j = k
  · subst h; simp only [State.updLvl, State.setLvl, State.core_setCore]; rfl
  · exact congrArg Core.tlb (s.core_setLvl_ne l _ h)

theorem Ends.updVd (i : Inval) (s : State) (vd : Nat) (f : VDev → VDev) : Ends i s (s.updVd vd f) := by
  have h := s.updVd_rest vd f
  refine ⟨(congrArg State.mem h :), fun k tlb e => ?_, fun n tlb e => ?_, fun w hw => ?_⟩
  · rw [← e]; simp only [State.core, State.updVd_cores]
  · rw [← e]; simp only [State.clu, State.updVd_clus]
  · exact (congrArg State.wcache h :) ▸ hw

/-- The bases written before an invalidation take effect (R24). -/
def State.takeBases (s : State) (i : Inval) : State :=
  match s.vdev? i.vd with
  | none => s
  | some v =>
    let b := s.basesOf v
    if b = (v.s1, v.s2) then s else (s.purgeEntries i.vd i.page).updVd i.vd fun v => { v with s1 := b.1, s2 := b.2 }

theorem State.takeBases_cases (s : State) (i : Inval) :
    s.takeBases i = s ∨ ∃ f, s.takeBases i = (s.purgeEntries i.vd i.page).updVd i.vd f := by
  unfold State.takeBases
  split
  · exact .inl rfl
  · dsimp only
    split
    · exact .inl rfl
    · exact .inr ⟨_, rfl⟩

theorem State.takeBases_ends (s : State) (i : Inval) : Ends i s (s.takeBases i) := by
  rcases s.takeBases_cases i with e | ⟨f, e⟩ <;> rw [e]
  · exact .of_purges (.refl s)
  · exact (Ends.of_purges (s.purgeEntries_purges i.vd i.page)).trans (.updVd i _ i.vd f)

theorem State.takeBases_wait (s : State) (i : Inval) (k : Nat) (l : Level) : ((s.takeBases i).lvl k l).wait = (s.lvl k l).wait := by
  rcases s.takeBases_cases i with e | ⟨f, e⟩ <;> rw [e]
  rw [← (s.purgeEntries_purges i.vd i.page).wait k l]
  simp only [State.lvl, State.core, State.updVd_cores]

theorem State.takeBases_invals (s : State) (i : Inval) : (s.takeBases i).invals = s.invals := by
  rcases s.takeBases_cases i with e | ⟨f, e⟩ <;> rw [e]
  exact (congrArg State.invals ((s.purgeEntries i.vd i.page).updVd_rest i.vd f) :).trans (s.purgeEntries_purges i.vd i.page).invals_eq

/-- An invalidation taken off the list. -/
def State.dropInval (s : State) (id : Nat) : State := { s with invals := s.invals.filter fun x => x.id != id }

theorem Ends.dropInval (i : Inval) (s : State) : Ends i s (s.dropInval i.id) := ⟨rfl, fun _ _ e => e, fun _ _ e => e, fun _ => id⟩

theorem State.endInval_core (s : State) {i : Inval} (h : i.left = []) {k l : Nat} (hc : i.core = some (k, l)) :
    s.endInval i = ((s.dropInval i.id).updLvl k (lvOf l) (Lvl.wakeInval i.id)).takeBases i := by
  unfold State.endInval
  rw [if_neg (by simp [h])]
  dsimp only
  rw [hc]
  rfl

theorem State.endInval_ends (s : State) (i : Inval) : Ends i s (s.endInval i) := by
  by_cases h : i.left = []
  · rcases hc : i.core with _ | ⟨k, l⟩
    · unfold State.endInval
      rw [if_neg (by simp [h]), hc]
      exact ⟨rfl, fun _ _ e => e, fun _ _ e => e, fun _ => id⟩
    · rw [s.endInval_core h hc]
      exact ((Ends.dropInval i s).trans (.wake i (s.dropInval i.id) k (lvOf l))).trans
        (State.takeBases_ends _ i)
  · unfold State.endInval
    rw [if_pos h]
    exact .of_purges (.refl s)

/-- The last acknowledgement makes the issuing level ready. -/
theorem State.endInval_ready (s : State) {i : Inval} (h : i.left = []) {k l : Nat} (hc : i.core = some (k, l))
    (hw : (s.lvl k (lvOf l)).wait = .tlbinv i.id) :
    ((s.endInval i).lvl k (lvOf l)).wait = .ready ∧ ∀ x ∈ (s.endInval i).invals, x.id ≠ i.id := by
  rw [s.endInval_core h hc, State.takeBases_wait, State.takeBases_invals]
  refine ⟨?_, fun x hx => ?_⟩
  · rw [State.lvl_updLvl]; exact Lvl.wakeInval_wait hw
  · have hx : x ∈ s.invals.filter fun x => x.id != i.id := hx
    simpa using (List.mem_filter.1 hx).2

/-- The state in which an invalidation has been written over in the list. -/
def State.putInval (s : State) (j : Inval) : State := { s with invals := s.invals.map fun x => if x.id = j.id then j else x }

/-- An invalidation that a cluster has acknowledged. -/
def Inval.ackedBy (i : Inval) (node : Nat) : Inval := { i with left := i.left.filter fun x => x.1 != node }

/-- The state in which a cluster has acknowledged at once. -/
def State.acked (s : State) (i : Inval) : State :=
  (s.invalidateNode s.arg.chip s.arg.node i.vd i.page).1.putInval (i.ackedBy (nodeKey s.arg.chip s.arg.node))

theorem State.putInval_lvl (s : State) (j : Inval) (k : Nat) (l : Level) : (s.putInval j).lvl k l = s.lvl k l := rfl

/-- The list of invalidations does not bear on what an invalidation drops. -/
theorem State.putInval_ends (s : State) (i j : Inval) : Ends i s (s.putInval j) :=
  ⟨rfl, fun _ _ e => e, fun _ _ e => e, fun _ => id⟩

theorem exec_tlbInvalidationAck {s : State} {i : Inval} (hi : (s.invals.find? fun x => x.id == s.arg.id) = some i)
    (hl : AMap.find? i.left (nodeKey s.arg.chip s.arg.node) = some none)
    (hc : ∀ n, n < 9 → (s.core (coreKey s.arg.chip s.arg.node n)).coveredOps i.vd i.page = [])
    (hs : s.savedCovered i.vd i.page = false) : exec .tlbInvalidationAck s = .next ((s.acked i).endInval
      (i.ackedBy (nodeKey s.arg.chip s.arg.node))) := by
  have hw := s.invalidateNode_wait s.arg.chip s.arg.node i.vd i.page hc
  have hv : (s.invalidateNode s.arg.chip s.arg.node i.vd i.page).1.savedCovered i.vd i.page = false := by
    rw [← hs, State.savedCovered, State.savedCovered, (s.invalidateNode_purges s.arg.chip s.arg.node i.vd i.page).vds_eq]
  simp only [exec, execTlbInvalidationAck, hi, hl, hw, hv, State.acked, State.putInval, Inval.ackedBy]
  generalize s.invalidateNode s.arg.chip s.arg.node i.vd i.page = p
  simp
  rfl

/-! ### S2INV -/

/-- The nodes of a chip with a core. -/
def State.liveNodes (s : State) (chip : Nat) : List (Nat × Nat) :=
  (tab 1024 fun n => (chip, n)).filter fun n => (tab 9 fun i => coreKey n.1 n.2 i).any fun k => (AMap.find? s.cores k).isSome

theorem State.liveNodes_ne_nil {s : State} {chip n m : Nat} (hn : n < 1024) (hm : m < 9)
    (h : (AMap.find? s.cores (coreKey chip n m)).isSome = true) : s.liveNodes chip ≠ [] := by
  refine List.ne_nil_of_mem (a := (chip, n)) (List.mem_filter.2 ⟨mem_tab.2 ⟨n, hn, rfl⟩, ?_⟩)
  exact List.any_eq_true.2 ⟨_, mem_tab.2 ⟨m, hm, rfl⟩, h⟩

/-- The invalidation that S2INV begins. -/
def State.chipInval (s : State) (chip vd : Nat) (page : Option (Nat × Bool)) : Inval :=
  ⟨s.nextId, vd, page, (s.liveNodes chip).map fun n => (nodeKey n.1 n.2, none), none, chip⟩

theorem State.s2inv_eq (s : State) (chip vd : Nat) (page : Option (Nat × Bool)) :
    let t : State := { s with invals := s.invals ++ [s.chipInval chip vd page], nextId := s.nextId + 1,
                              wcache := s.wcache.filter fun w => !w.covered vd }
    s.s2inv chip vd page = if s.liveNodes chip = [] then { t with invals := t.invals.filter fun x => x.id != s.nextId }
      else t.updChip chip fun c => { c with s2inv := c.s2inv ++ [s.nextId] } := by
  unfold State.s2inv State.beginInval State.chipInval State.liveNodes
  generalize (tab 1024 fun n => (chip, n)) = ns
  rfl

theorem State.s2inv_keeps (s : State) (chip vd : Nat) (page : Option (Nat × Bool)) :
    (s.s2inv chip vd page).mem = s.mem ∧ (s.s2inv chip vd page).cores = s.cores ∧
      ∀ w ∈ (s.s2inv chip vd page).wcache, vd ≠ 0 ∧ w.vd ≠ vd := by
  rw [State.s2inv_eq]
  have hw : ∀ w ∈ s.wcache.filter fun w => !w.covered vd, vd ≠ 0 ∧ w.vd ≠ vd := fun w hw => by
    simpa [WalkEntry.covered] using (List.mem_filter.1 hw).2
  dsimp only
  split <;> exact ⟨rfl, rfl, hw⟩

theorem State.s2inv_begins {s : State} {chip : Nat} (h : s.liveNodes chip ≠ []) (vd : Nat) (page : Option (Nat × Bool)) :
    s.nextId ∈ ((s.s2inv chip vd page).chip chip).s2inv ∧ s.chipInval chip vd page ∈ (s.s2inv chip vd page).invals := by
  rw [State.s2inv_eq]
  dsimp only
  rw [if_neg h, State.chip_updChip]
  exact ⟨by simp, List.mem_append_right _ (List.mem_singleton.2 rfl)⟩

/-! ### LINE_CLEAR -/

theorem Memory.read_filter (p : Nat → Bool) (m : Memory) (a : Nat) :
    Memory.read (m.filter fun c => p c.1) a = if p a then m.read a else unlistedByte := by
  induction m with
  | nil => simp [Memory.read]
  | cons c m ih =>
    obtain ⟨k, b⟩ := c
    by_cases ha : a = k
    · subst ha
      by_cases hp : p a = true
      · simp [hp, Memory.read]
      · simp only [List.filter_cons, hp, ih, Bool.false_eq_true, if_false]
    · by_cases hp : p k = true
      · simp only [List.filter_cons, hp, if_true, Memory.read, if_neg ha, ih]
      · simp only [List.filter_cons, hp, Bool.false_eq_true, if_false, Memory.read, if_neg ha, ih]

/-- What a cleared range reads. -/
theorem Memory.read_clear (m : Memory) (a n j : Nat) : (m.clear a n).read j = if a ≤ j ∧ j < a + n then 0 else m.read j := by
  have h := Memory.read_filter (fun k => !(decide (a ≤ k) && decide (k < a + n))) m j
  rw [Memory.clear, h]
  by_cases hj : a ≤ j ∧ j < a + n
  · simp [hj, unlistedByte]
  · rw [if_neg hj, if_pos (by simp only [Bool.not_eq_true', Bool.and_eq_false_iff, decide_eq_false_iff_not]; omega)]

theorem mem_insertNat (a : Nat) (l : List Nat) : a ∈ insertNat a l := by
  induction l with
  | nil => simp [insertNat]
  | cons k l ih =>
    unfold insertNat
    split
    · simp
    · split
      · next h => simp [h]
      · simp [ih]

/-- A line written to zero, its marks gone. -/
def State.lineCleared (s : State) (line : Nat) : State :=
  { s.clearBlock (line * 256) 256 with clear := s.clear.filter (· != line), touched := insertNat line s.touched }

theorem exec_lineClear_untouched {s : State} (h : s.arg.addr ∉ s.clear) (hu : s.untouched (s.arg.addr * 256) = false) :
    exec .lineClear s = .next s := by
  simp only [exec, execLineClear, hu, List.contains_iff_mem, h, Bool.or_false, if_false]
theorem exec_lineClear_cleared {s : State} (h : s.arg.addr ∈ s.clear ∨ s.untouched (s.arg.addr * 256) = true) :
    exec .lineClear s = .next (s.lineCleared s.arg.addr) := by
  simp only [exec, execLineClear, Bool.or_eq_true, List.contains_iff_mem]
  rw [if_pos h]
  rfl

theorem State.lineCleared_spec (s : State) (line : Nat) :
    line ∉ (s.lineCleared line).clear ∧ (s.lineCleared line).untouched (line * 256) = false ∧
      (∀ w ∈ (s.lineCleared line).fe, w / 32 ≠ line) ∧
      ∀ a, (s.lineCleared line).mem.read a = if a / 256 = line then 0 else s.mem.read a := by
  refine ⟨by simp [State.lineCleared], ?_, fun w hw => ?_, fun a => ?_⟩
  · simp [State.untouched, State.lineCleared, mem_insertNat]
  · have h := (List.mem_filter.1 hw).2
    simp only [Bool.not_eq_true', decide_eq_false_iff_not] at h
    omega
  · have h := Memory.read_clear s.mem (line * 256) 256 a
    have e : (line * 256 ≤ a ∧ a < line * 256 + 256) ↔ a / 256 = line := by omega
    simp only [e] at h
    exact h

/-! ### The obligation -/

/-- A walker that only levels wait for is taken up by the counts of one of them (R33). -/
theorem State.walkGoes_iff (s : State) {w : Walk} (h : ∀ q ∈ w.who, ∃ k l act, q = .level k l act) :
    s.walkGoes w = true ↔ ∃ k l act, .level k l act ∈ w.who ∧
      let before := s.walks.takeWhile fun x => x.id != w.id
      (before.filter fun x => x.asked.isNone && x.who.any fun y =>
        y.die.isSome && y.die == some (keyChip k * 4 + nodeDie (keyNode k))).length < 16 ∧
      (before.filter fun x => x.who.any fun y => y.missCore == some k).length < 8 := by
  have hm : ∀ (y : Walker) k, (y.missCore.isSome && y.missCore == some k) = (y.missCore == some k) := fun y k => by
    cases y.missCore <;> simp
  have hl : ∀ k l act, (Walker.level k l act).missCore = some k := fun _ _ _ => rfl
  simp only [State.walkGoes, List.any_eq_true, Bool.and_eq_true, decide_eq_true_eq]
  constructor
  · rintro ⟨q, hq, h16, h8⟩
    obtain ⟨k, l, act, rfl⟩ := h q hq
    simp only [hl, hm] at h8
    exact ⟨k, l, act, hq, h16, h8⟩
  · rintro ⟨k, l, act, hq, h16, h8⟩
    refine ⟨_, hq, h16, ?_⟩
    simp only [hl, hm]
    exact h8

/-- Settles O52: each event's equation, and what its operations change: `Served`, `Fills` and `Tells` for a walk, `Spares` for a
denial, `Purges` and `Ends` for an invalidation. -/
theorem walksAndInvalidations : Obligations.WalksAndInvalidations := by
  intro s
  refine ⟨fun w hw => ⟨exec_tableWalk_waits hw, fun hn => ⟨fun e seen hr => ?_, fun val bad seen hr => ?_, fun c seen hr => ?_,
    fun st lv page seen hr => ?_⟩⟩, fun w h => s.walkGoes_iff h, fun i st hi => ?_, fun i st hi => ?_, ?_, fun i page hi => ?_,
    exec_lineClear_untouched, fun h => ?_⟩
  · have hf := s.walkHit_fills w e seen
    have ht := (s.walkHit w e seen).endWalk_tells w (.hit e)
    have hcore : ∀ k, ((s.walkHit w e seen).endWalk w (.hit e) |>.core k).tlb = _ := ht.tlb_eq
    have hclu : ∀ n, ((s.walkHit w e seen).endWalk w (.hit e)).clu n = (s.walkHit w e seen).clu n := fun n => by
      simp only [State.clu, ht.clus_eq]; rfl
    have fillsCore : ∀ y ∈ w.who, ∀ k, y.fillsCore k → e ∈ ((s.walkHit w e seen).endWalk w (.hit e) |>.core k).tlb := fun y hy k hk => by
      rw [hcore]; exact State.mem_foldl_fillTlb_core e hy (s.walkerReads w seen) hk
    have fillsClu : ∀ y ∈ w.who, ∀ n, y.fillsClu n → e ∈ ((s.walkHit w e seen).endWalk w (.hit e) |>.clu n).tlb := fun y hy n hn => by
      rw [hclu]; exact State.mem_foldl_fillTlb_clu e hy (s.walkerReads w seen) hn
    refine ⟨_, exec_tableWalk_hit hw hn hr, State.endWalk_gone _ w _, ht.mem_eq.trans hf.mem_eq,
      fun k l act => State.endWalk_level (s.walkHit_walks w e seen) (s.walkHit_lvl w e seen) w _, fun x hx => ?_,
      fun k l act hk => fillsCore _ hk k (.inl ⟨l, act, rfl⟩), fun k ty hk => fillsCore _ hk k (.inr ⟨ty, rfl⟩),
      fun n vd i hn => fillsClu _ hn n (.inr (.inl ⟨vd, i, rfl⟩)), fun n i hn => fillsClu _ hn n (.inr (.inr ⟨i, rfl⟩)),
      fun n k hn => fillsClu _ hn n (.inl ⟨k, rfl⟩)⟩
    rw [ht.wcache_eq]
    exact List.mem_append_right _ (List.mem_map.2 ⟨x, hx, rfl⟩)
  · have hs := s.walkerReads_served w seen
    have hf := (s.walkerReads w seen).reportEntry_rest w bad
    have hwalks : ((s.walkerReads w seen).reportEntry w bad).walks = (s.walkerReads w seen).walks := (congrArg State.walks hf :)
    have hc : ((s.walkerReads w seen).reportEntry w bad).cores = (s.walkerReads w seen).cores := (congrArg State.cores hf :)
    have ht := ((s.walkerReads w seen).reportEntry w bad).endWalk_tells w (.denied val)
    refine ⟨_, exec_tableWalk_denied hw hn hr, State.endWalk_gone _ w _, ht.mem_eq.trans (congrArg State.mem hf :),
      fun k l act => State.endWalk_level (hwalks.trans hs.walks_eq) (fun k l => ?_) w _,
      (ht.wcache_eq.trans (congrArg State.wcache hf :)).trans hs.wcache_eq, fun k => ?_, ?_⟩
    · rw [← hs.lvl_eq k l]; simp only [State.lvl, State.core, hc]
    · rw [ht.tlb_eq, ← hs.tlb_eq k]
      exact congrArg (fun m => (AMap.get m {} k).tlb) hc
    · rintro r rfl
      obtain ⟨n, hn⟩ := (s.walkerReads w seen).reportEntry_mem_reports w r
      refine ⟨n, ?_⟩
      rw [State.chip, ht.chips_eq]; exact hn
  · have hs := s.walkerReads_served w seen
    have ht := (s.walkerReads w seen).endWalk_tells w (.lost c)
    exact ⟨_, exec_tableWalk_lost hw hn hr, State.endWalk_gone _ w _, ht.mem_eq,
      fun k l act => State.endWalk_level hs.walks_eq hs.lvl_eq w _, fun k => (ht.tlb_eq k).trans (hs.tlb_eq k)⟩
  · have hs := s.walkerReads_served w seen
    have hp := State.foldl_parkCopy_parks w.who ((s.walkerReads w seen).tellPager w.vd st page)
    have hf := (s.walkerReads w seen).tellPager_rest w.vd st page
    have hcore : ∀ k, ((s.walkerReads w seen).tellPager w.vd st page).core k = (s.walkerReads w seen).core k := fun k => by
      have e : ((s.walkerReads w seen).tellPager w.vd st page).cores = _ := (congrArg State.cores hf :)
      simp only [State.core, e]
    refine ⟨_, exec_tableWalk_ask hw hn hr, ?_, fun k l => ?_, fun n k hk x rest hx => ?_, fun h2 => ?_⟩
    · refine ⟨{ w with asked := some (st, page, lv) }, List.mem_map.2 ⟨w, ?_, if_pos rfl⟩, rfl, rfl⟩
      rw [(congrArg State.walks hp.frame :), (congrArg State.walks hf :), hs.walks_eq]
      exact List.mem_of_find?_eq_some hw
    · exact (hp.lvl_eq k l).trans ((congrArg (fun c : Core => c.lvl l) (hcore k)).trans (hs.lvl_eq k l))
    · exact State.foldl_parkCopy_queue hk _ ((congrArg (fun c : Core => c.chan.queue) (hcore k)).trans ((hs.chan_eq k).symm ▸ hx))
    · exact (congrArg State.mem hp.frame :).trans (State.tellPager_mem _ _ _ h2)
  · have he : exec i s = .next (s.pageAnswer s.arg.vd st s.arg.addr false) := by
      rcases hi with ⟨rfl, rfl, hf⟩ | ⟨rfl, rfl⟩
      · simp only [exec, execPageAnswer, hf]
      · rfl
    refine ⟨_, he, rfl, rfl, fun w hw => ?_⟩
    split
    · next h => exact List.mem_map.2 ⟨w, hw, if_pos h⟩
    · next h => exact List.mem_map.2 ⟨w, hw, if_neg h⟩
  · have he : exec i s = .next (s.pageAnswer s.arg.vd st s.arg.addr true) := by
      rcases hi with ⟨rfl, rfl, hf⟩ | ⟨rfl, rfl⟩
      · simp only [exec, execPageAnswer, hf]
      · rfl
    exact ⟨_, he, s.pageAnswer_deny_mem _ _ _, fun w hw ha => s.pageAnswer_deny _ _ _ hw ha⟩
  · intro i node key keep hi hl hc hs
    have hp := s.invalidateNode_purges s.arg.chip s.arg.node i.vd i.page
    have he : Ends (i.ackedBy node) (s.invalidateNode s.arg.chip s.arg.node i.vd i.page).1 ((s.acked i).endInval (i.ackedBy node)) :=
      (State.putInval_ends _ _ _).trans (State.endInval_ends _ _)
    refine ⟨_, exec_tlbInvalidationAck hi hl hc hs, he.mem.trans hp.mem_eq,
      fun n hn => he.tlb _ _ (s.invalidateNode_core s.arg.chip s.arg.node i.vd i.page hn),
      he.clu _ _ (s.invalidateNode_clu s.arg.chip s.arg.node i.vd i.page),
      fun w hw => s.invalidateNode_wcache s.arg.chip s.arg.node i.vd i.page w (he.wcache w hw), fun k l hleft hcore hwait => ?_⟩
    refine State.endInval_ready (s.acked i) (by simp [Inval.ackedBy, hleft, node]) hcore ?_
    rw [State.acked, State.putInval_lvl, hp.wait]
    exact hwait
  · have he : exec i s = .next (s.s2inv s.arg.chip s.arg.vd page) := by
      rcases hi with ⟨rfl, rfl⟩ | ⟨rfl, rfl⟩ <;> rfl
    obtain ⟨hm, hc, hw⟩ := s.s2inv_keeps s.arg.chip s.arg.vd page
    refine ⟨_, he, hm, hc, hw, fun ⟨n, m, hn, hm, h⟩ => ?_⟩
    obtain ⟨h1, h2⟩ := State.s2inv_begins (State.liveNodes_ne_nil hn hm h) s.arg.vd page
    exact ⟨h1, _, h2, rfl, rfl, rfl, rfl⟩
  · obtain ⟨h1, h2, h3, h4⟩ := s.lineCleared_spec s.arg.addr
    exact ⟨_, exec_lineClear_cleared h, h1, h2, rfl, h3, h4⟩

end Sys2Proof.Machine
end

section
/-! What a cause that arrives late leaves alone: the matrix queue windows (R342, R407, R431 to R443). -/

namespace Sys2Proof.Machine

/-- Every core's matrix queue window as it was. -/
def SameWindows (s t : State) : Prop := ∀ k, (t.core k).mx.window = (s.core k).mx.window

theorem Core.land_mx (c : Core) (l : Level) (r : Reg) (v : RVal) : (c.land l r v).mx = c.mx :=
  (congrArg Core.mx (c.land_landsIn l r v).rest :)

namespace SameWindows

theorem refl (s : State) : SameWindows s s := fun _ => rfl
theorem trans {s t u : State} (h : SameWindows s t) (g : SameWindows t u) : SameWindows s u := fun k => (g k).trans (h k)
theorem of_cores {s t : State} (h : t.cores = s.cores) : SameWindows s t := fun k => by simp only [State.core, h]

theorem setCore (s : State) (k : Nat) (c : Core) (h : c.mx.window = (s.core k).mx.window) : SameWindows s (s.setCore k c) := fun j => by
  by_cases hj : j = k
  · subst hj; rw [State.core_setCore, h]
  · rw [State.core_setCore_ne s c hj]
theorem updCore (s : State) (k : Nat) (f : Core → Core) (h : ∀ c : Core, (f c).mx.window = c.mx.window) :
    SameWindows s (s.updCore k f) := setCore s k _ (h _)
theorem updVd (s : State) (vd : Nat) (f : VDev → VDev) : SameWindows s (s.updVd vd f) := of_cores (s.updVd_cores vd f)

theorem foldl {α : Type} {f : State → α → State} (hf : ∀ s a, SameWindows s (f s a)) (as : List α) (s : State) :
    SameWindows s (as.foldl f s) := by
  induction as generalizing s with
  | nil => exact refl s
  | cons a as ih => exact (hf s a).trans (ih _)

/-! ### Groups (R225 to R228) -/

theorem gbarResume (s : State) (v : VDev) (status : Word) (m : Nat × Nat) : SameWindows s (s.gbarResume v status m) := by
  unfold State.gbarResume
  dsimp only
  split
  · refine setCore s _ _ ?_
    simp only [Core.land_mx, Core.setLvl]
  · exact refl s

theorem barrierFuel (n : Nat) (s : State) (vd g : Nat) (status : Word) : SameWindows s (State.barrierFuel n s vd g status) := by
  induction n generalizing s status with
  | zero => exact refl s
  | succ n ih =>
    unfold State.barrierFuel
    split
    · exact refl s
    · dsimp only
      split
      · exact ((foldl (fun s m => gbarResume s _ _ m) _ s).trans (updVd _ vd _)).trans (ih _ _)
      · exact refl s

theorem barrier (s : State) (vd g : Nat) : SameWindows s (s.barrier vd g) := barrierFuel _ s vd g 0

theorem gleave (s : State) (vd g : Nat) (m : Nat × Nat) (deferred : Bool) : SameWindows s (s.gleave vd g m deferred) := by
  unfold State.gleave
  split
  · exact refl s
  · dsimp only
    split
    · exact updVd s vd _
    · split
      · split
        · split
          · exact updVd s vd _
          · exact refl s
        · exact (updVd s vd _).trans (barrier _ vd g)
      · exact refl s

theorem leaveAll (s : State) (vd : Nat) (m : Nat × Nat) : SameWindows s (s.leaveAll vd m) := by
  unfold State.leaveAll
  split
  · exact refl s
  · exact foldl (fun s g => gleave s vd _ m true) _ s

/-! ### Faults (R438 to R443) -/

theorem returnPost (s : State) (k : Nat) (p : Post) : SameWindows s (s.returnPost k p) := of_cores rfl
theorem belayEvent (s : State) (chip die stop code : Nat) (data : Word) : SameWindows s (s.belayEvent chip die stop code data) := of_cores rfl

theorem report (s : State) (vd launch : Nat) (record : List Word) : SameWindows s (s.report vd launch record) := by
  unfold State.report
  split
  · exact refl s
  · dsimp only
    split
    · refine (updVd s vd _).trans (foldl (fun s kc => ?_) _ _)
      split
      · refine SameWindows.trans ?_ (foldl (fun s p => returnPost s kc.1 p) _ _)
        exact updCore s kc.1 _ fun _ => rfl
      · exact refl s
    · exact of_cores (s.ringEntry_cores _ _ _ _)

theorem freeze (s : State) (k master : Nat) : SameWindows s (s.freeze k master) :=
  ((updCore s k _ fun c => by split <;> rfl).trans (updVd _ _ _)).trans (belayEvent _ _ _ _ _ _)

theorem isoStop (s : State) (k : Nat) (record : List Word) (cause : Nat) : SameWindows s (s.isoStop k record cause) := by
  unfold State.isoStop
  dsimp only
  split
  · exact refl s
  · refine SameWindows.trans ?_ (belayEvent _ _ _ _ _ _)
    refine SameWindows.trans ?_ (foldl (fun s i => leaveAll s _ _) _ _)
    refine SameWindows.trans ?_ (updVd _ _ _)
    refine SameWindows.trans ?_ (foldl (fun s p => returnPost s k p) _ _)
    exact updCore s k _ fun _ => rfl

theorem reportStop (s : State) (k src launch cause : Nat) (record : List Word) : SameWindows s (s.reportStop k src launch cause record) := by
  unfold State.reportStop
  dsimp only
  split
  · exact (freeze s k src).trans (report _ _ _ _)
  · split
    · exact (report s _ _ _).trans (isoStop _ _ _ _)
    · exact report s _ _ _

theorem endAct (s : State) (k : Nat) (l : Level) : SameWindows s (s.updCore k fun c => c.endAct l) := updCore s k _ fun _ => rfl

theorem faultLevel (s : State) (k : Nat) (l : Level) : SameWindows s (s.faultLevel k l) := by
  unfold State.faultLevel
  dsimp only
  split
  · exact refl s
  · split
    · exact reportStop s _ _ _ _ _
    · exact (reportStop s _ _ _ _ _).trans (endAct _ k l)

theorem faultForward (s : State) (k : Nat) (t : Level) : SameWindows s (s.faultForward k t) := by
  unfold State.faultForward
  dsimp only
  split
  · exact faultLevel s k 3
  · exact ((report s _ _ _).trans (faultLevel _ k 3)).trans (endAct _ k t)

theorem fault (s : State) (k : Nat) (l : Level) : SameWindows s (s.fault k l) := by
  unfold State.fault
  dsimp only
  split
  · exact faultForward s k _
  · refine SameWindows.trans ?_ (faultLevel _ k l)
    split
    · exact endAct s k 3
    · exact refl s

/-! ### Causes (R342, R431 to R435) -/

theorem raiseAt (s : State) (k : Nat) (l : Level) (cause : Nat) (pc next val addr : Word) (late : Bool) :
    SameWindows s (s.raiseAt k l cause pc next val addr late) := by
  have hw : ((s.core k).commitAll l).mx.window = (s.core k).mx.window := by rw [Core.commitAll_mx]
  unfold State.raiseAt
  dsimp only
  split
  · exact setCore s k _ hw
  · refine SameWindows.trans ?_ (fault _ k l)
    exact setCore s k _ hw

theorem lateCause (s : State) (k lev act launch cause : Nat) (pc val addr : Word) (late : Bool) :
    SameWindows s (s.lateCause k lev act launch cause pc val addr late) := by
  unfold State.lateCause
  dsimp only
  split
  · exact raiseAt s k _ _ _ _ _ _ _
  · exact reportStop s k _ _ _ _

theorem lateRaise (s : State) (k : Nat) (o : Op) (cause : Nat) (val addr : Word) : SameWindows s (s.lateRaise k o cause val addr) := by
  unfold State.lateRaise
  split
  · exact refl s
  · refine SameWindows.trans ?_ (lateCause _ k _ _ _ _ _ _ _ _)
    exact updCore s k _ fun _ => rfl

end SameWindows

end Sys2Proof.Machine
end

section
/-! Accesses that have arrived at their owners: PERFORM and FENCEF_MARKER (R117, R135), the gates before them (R453, R454), and what
performing leaves alone. -/

namespace Sys2Proof.Machine

/-! ### Answers -/

/-- An answer of status `st` to the packet `p` is on its way. -/
def Answers (p : Packet) (t : State) (op st : Nat) (v : Word) : Prop :=
  ∃ q, q ∈ t.pkts ∧ q.src = p.dst ∧ q.dst = p.src ∧ q.vd = p.vd ∧ ∃ line, q.payload = .resp op st v line

theorem State.reply_answers (s : State) (p : Packet) (op st : Nat) (v : Word) (line : Option (Nat × List Byte × List Nat)) :
    Answers p (s.reply p op st v line) op st v := by
  obtain ⟨stage, h⟩ := s.sendPkt_pkts p.dst p.src p.vd (if line.isSome then .data else .control) 0 (.resp op st v line)
  exact ⟨⟨s.nextId, p.dst, p.src, p.vd, if line.isSome then .data else .control, 0, .resp op st v line, stage, 0, 0, 0⟩,
    by rw [State.reply, h]; exact List.mem_append_right _ (List.mem_singleton.2 rfl), rfl, rfl, rfl, line, rfl⟩

theorem Answers.of_pkts {p : Packet} {s t : State} {op st : Nat} {v : Word} (h : Answers p s op st v) (e : t.pkts = s.pkts) :
    Answers p t op st v := by
  obtain ⟨q, hq, hr⟩ := h
  exact ⟨q, e ▸ hq, hr⟩

/-! ### The gates of a memory controller -/

/-- From `s` to `t` only what packages count has changed: not what memory they hold. -/
structure Gated (s t : State) : Prop where
  rest : { t with chips := s.chips } = s
  holds : ∀ c, (t.chip c).hbmGiB = (s.chip c).hbmGiB ∧ (t.chip c).expGiB = (s.chip c).expGiB

theorem Gated.refl (s : State) : Gated s s := ⟨rfl, fun _ => ⟨rfl, rfl⟩⟩
theorem Gated.updChip (s : State) (k : Nat) (f : Chip → Chip)
    (h : ∀ c : Chip, (f c).hbmGiB = c.hbmGiB ∧ (f c).expGiB = c.expGiB) : Gated s (s.updChip k f) := by
  refine ⟨rfl, fun c => ?_⟩
  by_cases hc : c = k
  · subst hc; rw [State.chip_updChip]; exact h _
  · rw [State.chip_updChip_ne s f hc]; exact ⟨rfl, rfl⟩
theorem Gated.trans {s t u : State} (h : Gated s t) (g : Gated t u) : Gated s u := by
  refine ⟨?_, fun c => ⟨(g.holds c).1.trans (h.holds c).1, (g.holds c).2.trans (h.holds c).2⟩⟩
  have e := h.rest
  rw [← g.rest] at e
  exact e

theorem State.memServe_gated (s : State) (vd pa : Nat) : Gated s (s.memServe vd pa) := by
  unfold State.memServe
  split
  · exact .refl s
  · refine .updChip s _ _ fun c => ?_
    dsimp only
    split <;> exact ⟨rfl, rfl⟩

/-- Whether memory is there does not change. -/
theorem State.populated_congr {s t : State} (h : ∀ c, (t.chip c).hbmGiB = (s.chip c).hbmGiB ∧ (t.chip c).expGiB = (s.chip c).expGiB)
    (pa : Nat) : t.populated pa = s.populated pa := by
  unfold State.populated
  split
  · rw [(h _).1]
  · rw [(h _).2]
  · rfl
  · rfl

theorem State.gate_go {s t : State} {p : Packet} {a : Acc} (h : s.gate p a = .go t) : Gated s t := by
  have go : ∀ {u : State}, Gated s u → Gate.go u = .go t → Gated s t := fun hu e => by injection e with e; exact e ▸ hu
  unfold State.gate at h
  split at h
  · exact go (.refl s) h
  split at h
  · cases h
  split at h
  · exact go (.refl s) h
  split at h
  · cases h
  split at h
  · exact go (s.memServe_gated _ _) h
  dsimp only at h
  split at h
  · split at h
    · cases h
    · split at h <;> cases h
  · split at h
    · exact go (s.memServe_gated _ _) h
    · split at h
      · refine go ((s.memServe_gated a.vd a.pa).trans ?_) h
        exact .updChip _ _ _ fun _ => ⟨rfl, rfl⟩
      · cases h

/-! ### An access at its owner -/

/-- The state in which a packet has been taken up by its port. -/
def State.takeUp (s : State) (p : Packet) : State := (s.dropPkt p.id).portServed p.dst p.input

theorem State.portServed_rest (s : State) (u : UnitId) (input : Nat) :
    { s.portServed u input with cores := s.cores, clus := s.clus } = s := by
  unfold State.portServed
  dsimp only
  split <;> rfl
theorem State.takeUp_rest (s : State) (p : Packet) : { s.takeUp p with pkts := s.pkts, cores := s.cores, clus := s.clus } = s := by
  have e := congrArg (fun t : State => { t with pkts := s.pkts }) ((s.dropPkt p.id).portServed_rest p.dst p.input)
  exact e

theorem State.takeUp_populated (t : State) (p : Packet) (pa : Nat) : (t.takeUp p).populated pa = t.populated pa := by
  have h : (t.takeUp p).chips = t.chips := (congrArg State.chips (t.takeUp_rest p) :)
  exact State.populated_congr (fun c => by simp only [State.chip, h]; exact ⟨trivial, trivial⟩) pa

/-- The access `a` of the packet `p` is served in `s`, and `t` is the state past the memory controller's gates. -/
structure Reaches (s t : State) (p : Packet) (a : Acc) : Prop where
  runs : s.draining p.vd p.src p.dst = false
  there : s.copying p.dst = false
  phys : a.pa < 2 ^ 56
  turn : s.portTurn p = true
  owed : s.owed a.pa a.size = false
  gate : s.gate p a = .go t

theorem Reaches.populated {s t : State} {p : Packet} {a : Acc} (h : Reaches s t p a) :
    (t.takeUp p).populated a.pa = s.populated a.pa :=
  (t.takeUp_populated p a.pa).trans (State.populated_congr (State.gate_go h.gate).holds a.pa)

/-- The state in which an access is about to perform. -/
def State.before (t : State) (p : Packet) (a : Acc) : State := ((t.takeUp p).trace a).l2Fill a.pa a.mt

/-- What the home of an access makes of it. -/
def State.serve (u : State) (p : Packet) (a : Acc) (op : Nat) : State :=
  match u.perform a with
  | .access => (u.countWrite (nodeKey p.dst.chip p.dst.node) a).reply p op 3 0 none
  | .ecc => ((u.eccSeen a.pa).countWrite (nodeKey p.dst.chip p.dst.node) a).reply p op 4 0 none
  | .done v w => (w.afterAcc p.dst a op).reply p op 0 v (if a.fill then some (w.lineOf a.pa) else none)
  | .wait =>
    if (u.retry.filter fun w => w.owner == p.dst).length < 1024 then
      let t : State := { u with retry := u.retry ++ [⟨p.dst, a, op, u.nextId⟩], nextId := u.nextId + 1 }
      match t.opOf op with
      | some (k, o) => if o.withdraws then t else t.updOp k op fun o => { o with st := .waiting }
      | none => t
    else u.reply p op 1 0 none

section
variable {s t : State} {p : Packet} {a : Acc} (h : Reaches s t p a) (op : Nat)
include h

theorem Reaches.performPkt : s.performPkt p a op =
    (if s.populated a.pa then t.before p a else t.takeUp p).serve p a op := by
  have hp := h.populated
  unfold State.performPkt
  rw [if_neg (by simp [h.runs]), if_neg (by simp [h.there]), if_neg (by simp [h.turn]), if_neg (Nat.not_le.2 h.phys),
    if_neg (by simp [h.owed]), h.gate]
  simp only [State.takeUp, State.before] at hp ⊢
  rw [hp]
  generalize (if s.populated a.pa = true then _ else _) = u
  unfold State.serve
  cases u.perform a <;> rfl

theorem Reaches.performPkt_populated (hp : s.populated a.pa = true) : s.performPkt p a op = (t.before p a).serve p a op := by
  rw [h.performPkt, if_pos hp]

end

section
variable {u : State} (p : Packet) {a : Acc} (op : Nat)

theorem State.serve_access (h : u.perform a = .access) :
    u.serve p a op = (u.countWrite (nodeKey p.dst.chip p.dst.node) a).reply p op 3 0 none := by simp only [State.serve, h]
theorem State.serve_ecc (h : u.perform a = .ecc) :
    u.serve p a op = ((u.eccSeen a.pa).countWrite (nodeKey p.dst.chip p.dst.node) a).reply p op 4 0 none := by simp only [State.serve, h]
theorem State.serve_done {v : Word} {w : State} (h : u.perform a = .done v w) :
    u.serve p a op = (w.afterAcc p.dst a op).reply p op 0 v (if a.fill then some (w.lineOf a.pa) else none) := by
  simp only [State.serve, h]
theorem State.serve_busy (h : u.perform a = .wait) (hn : 1024 ≤ (u.retry.filter fun w => w.owner == p.dst).length) :
    u.serve p a op = u.reply p op 1 0 none := by
  simp only [State.serve, h, if_neg (Nat.not_lt.2 hn)]
theorem State.serve_wait (h : u.perform a = .wait) (hn : (u.retry.filter fun w => w.owner == p.dst).length < 1024) :
    { u.serve p a op with cores := u.cores } =
      { u with retry := u.retry ++ [⟨p.dst, a, op, u.nextId⟩], nextId := u.nextId + 1 } := by
  simp only [State.serve, h, if_pos hn]
  split
  · split <;> rfl
  · rfl

end

/-- The count of writes does not bear on what a state holds outside its clusters. -/
theorem State.countWrite_rest (s : State) (n : Nat) (a : Acc) : { s.countWrite n a with clus := s.clus } = s := by
  unfold State.countWrite
  split <;> rfl

theorem State.settleOld_rest (s : State) (pa n : Nat) (sees : Cmd → Bool) : { s.settleOld pa n sees with olds := s.olds } = s := by
  unfold State.settleOld
  split <;> rfl

/-- What follows a performed access. -/
theorem State.afterAcc_rest (s : State) (u : UnitId) (a : Acc) (op : Nat) :
    { s.afterAcc u a op with chips := s.chips, clus := s.clus, olds := s.olds } = s := by
  unfold State.afterAcc
  split
  · have h1 := s.ownFrame_rest a.pa a.vd
    have h2 := (s.ownFrame a.pa a.vd).countWrite_rest (nodeKey u.chip u.node) a
    have h3 := ((s.ownFrame a.pa a.vd).countWrite (nodeKey u.chip u.node) a).settleOld_rest a.pa a.size fun m => m.after.contains op
    rw [← h2] at h1
    rw [← h3] at h1
    exact (congrArg (fun t : State => { t with clus := s.clus, olds := s.olds }) h1 :)
  · rfl

/-! ### The two events of an access -/

theorem exec_perform_access {s : State} {p : Packet} (hp : s.arrivedPkt = some p) {a : Acc} {op : Nat} (hl : p.payload = .access a op) :
    exec .perform s = .next (s.performPkt p a op) := by
  simp only [exec, execPerform, hp, hl]

/-- A marker whose access was served gives up its count, and one that is still there waits. -/
def State.markerEnds (s : State) (p : Packet) (a : Acc) (op : Nat) : State :=
  let t := s.performPkt p a op
  if t.pkts.any fun q => q.id == p.id then t else t.countEnd (nodeKey p.dst.chip p.dst.node) a

theorem exec_fencefMarker_due {s : State} {p : Packet} (hp : s.arrivedPkt = some p) {a : Acc} {op n : Nat}
    (hl : p.payload = .marker a op n) (hd : s.draining p.vd p.src p.dst = false) (hm : s.markerDue p a op n = true) :
    exec .fencefMarker s = .next (s.markerEnds p a op) := by
  simp only [exec, execFencefMarker, hp, hl, hd, hm, Bool.not_true, Bool.false_eq_true, if_false, State.markerEnds]

/-- PERFORM and FENCEF_MARKER give what its owner makes of the access, FENCEF_MARKER up to the counts of its cluster. -/
theorem exec_performPkt {s : State} {p : Packet} (hp : s.arrivedPkt = some p) {i : Instr} {a : Acc} {op n : Nat}
    (hi : (i = .perform ∧ p.payload = .access a op) ∨ (i = .fencefMarker ∧ p.payload = .marker a op n ∧ s.markerDue p a op n = true))
    (hd : s.draining p.vd p.src p.dst = false) :
    ∃ r, exec i s = .next r ∧ { r with clus := (s.performPkt p a op).clus } = s.performPkt p a op := by
  rcases hi with ⟨rfl, hl⟩ | ⟨rfl, hl, hm⟩
  · exact ⟨_, exec_perform_access hp hl, rfl⟩
  · refine ⟨_, exec_fencefMarker_due hp hl hd hm, ?_⟩
    unfold State.markerEnds
    dsimp only
    split <;> rfl

/-! ### What a store does to wakes (R462) -/

/-- The virtual devices once `v` has been written at `pa`. -/
def wakes (pa : Nat) (v : Word) (x : Nat × VDev) : Nat × VDev :=
  if v ≠ 0 ∧ x.2.wakeAddr / 8 = pa / 8 ∧ (x.2.res = .bivouac ∨ x.2.res = .entering) then (x.1, { x.2 with res := .waking }) else x

theorem State.wakeWatch_vds (s : State) (pa : Nat) (v : Word) : (s.wakeWatch pa v.toNat).vds = s.vds.map (wakes pa v) := by
  by_cases h : v = 0
  · subst h
    have : wakes pa 0 = id := funext fun x => by simp [wakes]
    rw [this, List.map_id]; rfl
  · have hn : v.toNat ≠ 0 := fun e => h (BitVec.eq_of_toNat_eq e)
    unfold State.wakeWatch
    rw [if_neg hn]
    refine List.map_congr_left fun x _ => ?_
    simp only [wakes, h, ne_eq, not_false_eq_true, true_and]

theorem State.readyLine_vds (s : State) (pa mt : Nat) : (s.readyLine pa mt).vds = s.vds := by
  have h : (s.l2Fill pa mt).vds = s.vds := (congrArg State.vds (s.l2Fill_rest pa mt) :)
  rw [← h]
  unfold State.readyLine
  dsimp only
  generalize s.l2Fill pa mt = u
  split <;> split <;> split <;> rfl

theorem regionOf_ne_window {pa : Nat} (h : pa < 2 ^ 56) (k off : Nat) : regionOf pa ≠ .window k off := by
  unfold regionOf
  rw [if_neg (by omega)]
  dsimp only
  split
  · nofun
  split
  · nofun
  split
  · nofun
  split <;> nofun

theorem State.poke_vds (s : State) {pa : Nat} (h : pa < 2 ^ 56) (n mt : Nat) (v : Word) :
    (s.poke pa n v.toNat mt).vds = s.vds.map (wakes pa v) := by
  unfold State.poke
  split
  next k off hr => exact absurd hr (regionOf_ne_window h k off)
  · dsimp only
    rw [State.wakeWatch_vds]
    exact congrArg (List.map (wakes pa v)) ((State.readyLine_vds _ pa mt).trans (congrArg State.vds (s.keepOld_rest pa n) :))

end Sys2Proof.Machine
end

section
/-! Stores into matrix queue windows (R405 to R407), the retry lists (R71), and the obligation about what owners serve. -/

namespace Sys2Proof.Machine

/-! ### The wakes of a performed store -/

theorem State.correct_vds (s : State) (pa : Nat) : (s.correct pa).vds = s.vds := by
  unfold State.correct State.countSoft
  dsimp only
  split
  · split <;> rfl
  · rfl
theorem State.correct_clear (s : State) (pa : Nat) : (s.correct pa).clear = s.clear := by
  unfold State.correct State.countSoft
  dsimp only
  split
  · split <;> rfl
  · rfl
theorem State.countSoft_vds (s : State) (pa : Nat) : (s.countSoft pa).vds = s.vds := by
  unfold State.countSoft
  dsimp only
  split <;> rfl

/-- The word that a store leaves. -/
def Acc.merged (a : Acc) (v old : Word) : Word := (v &&& a.mask) ||| (old &&& ~~~a.mask)

theorem State.store_vds (s : State) {a : Acc} (h : a.pa < 2 ^ 56) (v : Word) :
    (s.store a v).vds = s.vds.map (wakes a.pa (a.merged v (BitVec.ofNat 64 (s.peek a.pa a.size)))) := by
  have hp := s.poke_vds h a.size a.mt (a.merged v (BitVec.ofNat 64 (s.peek a.pa a.size)))
  unfold State.store
  dsimp only
  split
  · exact hp
  · split
    · rw [State.countSoft_vds]; exact hp
    · exact hp

theorem State.perform_store_vds {s u : State} {a : Acc} {v : Word} (hs : a.cls = .store) (h : a.pa < 2 ^ 56)
    (hp : s.perform a = .done v u) :
    u.vds = s.vds.map (wakes a.pa (a.merged a.data (BitVec.ofNat 64 (s.peek a.pa a.size)))) := by
  have hk : ∀ t : State, t = (if a.readsWord then s.correct a.pa else s) → t.vds = s.vds ∧ t.peek a.pa a.size = s.peek a.pa a.size := by
    rintro t rfl
    split
    · exact ⟨s.correct_vds _, State.peek_congr_phys (s.correct_mem _) (s.correct_clear _) h _⟩
    · exact ⟨rfl, rfl⟩
  unfold State.perform at hp
  split at hp
  · cases hp
  split at hp
  · cases hp
  split at hp
  · cases hp
  rw [hs] at hp
  injection hp with _ hp
  obtain ⟨h1, h2⟩ := hk _ rfl
  rw [← hp, State.store_vds _ h, h1, h2]

/-! ### Bytes of a matrix queue window -/

theorem leNat_leBytes (n v : Nat) : leNat (leBytes n v) = v % 2 ^ (8 * n) := by
  induction n generalizing v with
  | zero => simp [leBytes, leNat, Nat.mod_one]
  | succ n ih =>
    rw [leBytes, leNat, ih, BitVec.toNat_ofNat, show 8 * (n + 1) = 8 + 8 * n by omega, Nat.pow_add, Nat.mod_mul]

theorem leBytes_length (n v : Nat) : (leBytes n v).length = n := by
  induction n generalizing v with
  | zero => rfl
  | succ n ih => simp [leBytes, ih]

theorem tabFrom_congr {α : Type} {f g : Nat → α} {n : Nat} (i : Nat) (h : ∀ j, i ≤ j → j < i + n → f j = g j) :
    tabFrom f n i = tabFrom g n i := by
  induction n generalizing i with
  | zero => rfl
  | succ n ih => rw [tabFrom, tabFrom, h i (le_refl i) (by omega), ih (i + 1) fun j h1 h2 => h j (by omega) (by omega)]
theorem tab_congr {α : Type} {f g : Nat → α} {n : Nat} (h : ∀ j, j < n → f j = g j) : tab n f = tab n g :=
  tabFrom_congr 0 fun j _ hj => h j (by omega)

theorem tabFrom_getElem (bs : List Byte) (i : Nat) (h : i ≤ bs.length) :
    tabFrom (fun j => bs.getD j 0) (bs.length - i) i = bs.drop i := by
  obtain ⟨n, hn⟩ : ∃ n, n = bs.length - i := ⟨_, rfl⟩
  induction n generalizing i with
  | zero => rw [← hn, tabFrom, List.drop_eq_nil_of_le (by omega)]
  | succ n ih =>
    rw [← hn, tabFrom, List.drop_eq_getElem_cons (by omega)]
    have := ih (i + 1) (by omega) (by omega)
    rw [show bs.length - (i + 1) = n by omega] at this
    rw [this, List.getD_eq_getElem _ _ (by omega)]

/-- Bytes written are the bytes read. -/
theorem Memory.readNat_writeBytes {m : Memory} (w : m.wf = true) (a n v : Nat) :
    (m.writeBytes a (leBytes n v)).readNat a n = v % 2 ^ (8 * n) := by
  have h : (m.writeBytes a (leBytes n v)).readBytes a n = leBytes n v := by
    have hl := tabFrom_getElem (leBytes n v) 0 (Nat.zero_le _)
    rw [Nat.sub_zero, leBytes_length, List.drop_zero] at hl
    rw [Memory.readBytes, ← hl]
    refine tab_congr fun j hj => ?_
    rw [hl]
    have hj' : j < (leBytes n v).length := by rw [leBytes_length]; exact hj
    rw [Memory.read_writeBytes_in a _ w hj', List.getD_eq_getElem _ _ hj']
  rw [Memory.readNat, h, leNat_leBytes]

theorem regionOf_windowPa (k : Nat) {off : Nat} (h : off < 4096) : regionOf (windowPa k off) = .window k off := by
  have h1 : 2 ^ 56 ≤ windowPa k off := by unfold windowPa; omega
  have h2 : (windowPa k off - 2 ^ 56) / 4096 = k := by unfold windowPa; omega
  have h3 : windowPa k off % 4096 = off := by unfold windowPa; omega
  unfold regionOf
  rw [if_pos h1, h2, h3]

theorem State.peek_windowPa (s : State) (k : Nat) {off : Nat} (h : off < 4096) (n : Nat) :
    s.peek (windowPa k off) n = (s.core k).mx.window.readNat off n := by
  unfold State.peek
  rw [regionOf_windowPa k h]

/-! ### A store into a window -/

theorem State.poke_window (s : State) (k : Nat) {off : Nat} (h : off < 4096) (n v mt : Nat) :
    s.poke (windowPa k off) n v mt =
      s.updCore k fun c => { c with mx := { c.mx with window := c.mx.window.writeBytes off (leBytes n v) } } := by
  unfold State.poke
  rw [regionOf_windowPa k h]

theorem State.countSoft_cores (s : State) (pa : Nat) : (s.countSoft pa).cores = s.cores := by
  unfold State.countSoft
  dsimp only
  split <;> rfl

theorem State.store_cores (s : State) (a : Acc) (v : Word) :
    (s.store a v).cores = (s.poke a.pa a.size (a.merged v (BitVec.ofNat 64 (s.peek a.pa a.size))).toNat a.mt).cores := by
  unfold State.store
  dsimp only
  split
  · rfl
  · split
    · rw [State.countSoft_cores]; rfl
    · rfl

theorem Acc.merged_whole {a : Acc} (h : a.mask = -1) (v old : Word) : a.merged v old = v := by
  rw [Acc.merged, h]
  have h1 : (-1 : Word) = BitVec.allOnes 64 := by decide
  rw [h1, BitVec.and_allOnes, BitVec.not_allOnes, BitVec.and_zero, BitVec.or_zero]

theorem State.portServed_mx (s : State) (u : UnitId) (input k : Nat) : ((s.portServed u input).core k).mx = (s.core k).mx := by
  unfold State.portServed
  dsimp only
  split
  · by_cases h : k = u.core
    · subst h; rw [State.core_updCore]
    · rw [State.core_updCore_ne _ _ h]
  · rfl

/-- The state in which a store into a window has been taken up and its bytes are there. -/
def State.stored (s : State) (p : Packet) (a : Acc) : State :=
  ((((s.dropPkt p.id).trace a).store a a.data).portServed p.dst p.input).countWrite (nodeKey p.dst.chip p.dst.node) a

theorem State.stored_served (s : State) (p : Packet) (a : Acc) : Served (s.dropPkt p.id) (s.stored p a) :=
  (((Served.trace _ a).trans (.store _ a a.data)).trans (.portServed _ _ _)).trans (.countWrite _ _ a)

theorem State.stored_window (s : State) (p : Packet) {a : Acc} {k off : Nat} (h : off < 4096) (ha : a.pa = windowPa k off)
    (hm : a.mask = -1) : ((s.stored p a).core k).mx.window =
      (((s.dropPkt p.id).trace a).core k).mx.window.writeBytes off (leBytes a.size a.data.toNat) := by
  have hc : ∀ (t : State) n, (t.countWrite n a).core k = t.core k := fun t n =>
    (congrArg (fun u : State => u.core k) (t.countWrite_rest n a) :)
  rw [State.stored, hc, State.portServed_mx, State.core, State.store_cores, ha, State.poke_window _ k h, Acc.merged_whole hm]
  exact congrArg (fun c : Core => c.mx.window) (State.core_updCore _ k _)

/-- What a window reads after a store of a whole field. -/
theorem State.stored_peek (s : State) (p : Packet) {a : Acc} {k off : Nat} (h : off < 4096) (ha : a.pa = windowPa k off)
    (hm : a.mask = -1) (hw : (s.core k).mx.window.wf = true) :
    (s.stored p a).peek a.pa a.size = a.data.toNat % 2 ^ (8 * a.size) := by
  have hw' : (((s.dropPkt p.id).trace a).core k).mx.window.wf = true := (Served.trace (s.dropPkt p.id) a).window k hw
  rw [ha, State.peek_windowPa _ k h, s.stored_window p h ha hm, Memory.readNat_writeBytes hw']

/-! ### Pushes (R406, R407) -/

/-- The record that a window holds in the slot of an offset. -/
def State.slotWords (s : State) (k off : Nat) : List Word :=
  tab 8 fun j => BitVec.ofNat 64 (s.peek (windowPa k (off / 64 * 64 + 8 * j)) 8)

theorem State.slotWords_eq (s : State) (k : Nat) {off : Nat} (h : off < 4096) :
    s.slotWords k off = tab 8 fun j => BitVec.ofNat 64 ((s.core k).mx.window.readNat (off / 64 * 64 + 8 * j) 8) :=
  tab_congr fun j hj => by rw [State.peek_windowPa s k (by omega)]

theorem State.pushSlot_windows (s : State) (k off : Nat) (o : Op) (fcr : Word) : SameWindows s (s.pushSlot k off o fcr) := by
  unfold State.pushSlot
  dsimp only
  split
  · exact SameWindows.updCore s k _ fun _ => rfl
  · exact SameWindows.lateRaise s k o _ _ _

theorem SameWindows.slotWords {s t : State} (h : SameWindows s t) (k : Nat) {off : Nat} (ho : off < 4096) :
    t.slotWords k off = s.slotWords k off := by
  rw [State.slotWords_eq t k ho, State.slotWords_eq s k ho, h k]
theorem SameWindows.peek {s t : State} (h : SameWindows s t) (k : Nat) {off : Nat} (ho : off < 4096) (n : Nat) :
    t.peek (windowPa k off) n = s.peek (windowPa k off) n := by
  rw [State.peek_windowPa t k ho, State.peek_windowPa s k ho, h k]

/-- A record that passes its check enters the queue. -/
theorem State.pushSlot_ok (s : State) (k : Nat) {off : Nat} (ho : off < 4096) (o : Op) {fcr : Word}
    (h : recordOk (s.slotWords k off) fcr = true) :
    ∃ c, ((s.pushSlot k off o fcr).core k).mx.queue = (s.core k).mx.queue ++ [c] ∧
      c.words = s.slotWords k off ∧ c.lev = o.lev ∧ c.act = o.act ∧ c.launch = o.launch ∧ c.pc = o.pc ∧ c.fcr = fcr := by
  rw [State.slotWords_eq s k ho] at h ⊢
  unfold State.pushSlot
  dsimp only
  rw [if_pos h, State.pushRecord, State.core_updCore]
  exact ⟨_, rfl, rfl, rfl, rfl, rfl, rfl, rfl⟩

section
variable {s : State} {p : Packet} {a : Acc} {op : Nat} (hd : s.draining p.vd p.src p.dst = false) (hc : s.copying p.dst = false)
  (ht : s.portTurn p = true) {k off : Nat} (ho : off < 4096) (ha : a.pa = windowPa k off)
include hd hc ht ho ha

theorem State.performPkt_windowLoad (hs : a.cls ≠ .store) : s.performPkt p a op =
    (((s.dropPkt p.id).trace a).portServed p.dst p.input).reply p op 0 (BitVec.ofNat 64 (s.peek a.pa a.size)) none := by
  have hp : 2 ^ 56 ≤ a.pa := by rw [ha]; unfold windowPa; omega
  unfold State.performPkt
  rw [if_neg (by simp [hd]), if_neg (by simp [hc]), if_neg (by simp [ht]), if_pos hp, if_neg (by simpa using hs)]

theorem State.performPkt_windowStore (hs : a.cls = .store) : s.performPkt p a op = s.windowStore p a op := by
  have hp : 2 ^ 56 ≤ a.pa := by rw [ha]; unfold windowPa; omega
  unfold State.performPkt
  rw [if_neg (by simp [hd]), if_neg (by simp [hc]), if_neg (by simp [ht]), if_pos hp, if_pos (by simp [hs])]

end

section
variable {a : Acc} {k off : Nat} (ho : off < 4096) (ha : a.pa = windowPa k off) (hs : a.cls = .store)
include ho ha hs

theorem Acc.pushes_window : a.pushes = true ↔ off % 64 + a.size = 64 := by
  have h1 : 2 ^ 56 ≤ windowPa k off := by unfold windowPa; omega
  have h2 : windowPa k off % 64 = off % 64 := by unfold windowPa; omega
  simp only [Acc.pushes, hs, ha, beq_self_eq_true, Bool.true_and, Bool.and_eq_true, decide_eq_true_eq, h1, true_and, h2]

variable {s : State} {p : Packet} {op src : Nat} {o : Op} (hop : s.opOf op = some (src, o))
include hop

theorem State.windowStore_full (hk : k = p.dst.core) (hp : off % 64 + a.size = 64) (hq : 64 ≤ (s.core k).mx.queue.length) :
    s.windowStore p a op = s.updOp src op fun o => { o with st := .waiting } := by
  subst hk
  simp only [State.windowStore, hop, (Acc.pushes_window ho ha hs).2 hp, hq, and_self, if_true]

theorem State.windowStore_taken (hk : k = p.dst.core) (hq : off % 64 + a.size = 64 → (s.core k).mx.queue.length < 64) :
    s.windowStore p a op = (if off % 64 + a.size = 64 then (s.stored p a).pushSlot k off o a.fcr else s.stored p a).reply p op 0 0 none := by
  subst hk
  have h3 : a.pa % 4096 = off := by rw [ha]; unfold windowPa; omega
  have hn : ¬ (off % 64 + a.size = 64 ∧ 64 ≤ (s.core p.dst.core).mx.queue.length) := fun h => by
    have := hq h.1
    omega
  simp only [State.windowStore, hop, h3, Acc.pushes_window ho ha hs, if_neg hn]
  rfl

end

/-! ### The retry list (R71) -/

theorem mem_insertFirst {α : Type} {le : α → α → Bool} {a x : α} {l : List α} (h : x ∈ sortBy.insertFirst le a l) : x = a ∨ x ∈ l := by
  induction l with
  | nil => exact .inl (List.mem_singleton.1 h)
  | cons b l ih =>
    unfold sortBy.insertFirst at h
    split at h
    · exact List.mem_cons.1 h
    · rcases List.mem_cons.1 h with rfl | h
      · exact .inr List.mem_cons_self
      · exact (ih h).imp id (List.mem_cons_of_mem b)
theorem mem_of_mem_sortBy {α : Type} {le : α → α → Bool} {x : α} {l : List α} (h : x ∈ sortBy le l) : x ∈ l := by
  induction l with
  | nil => cases h
  | cons a l ih =>
    rcases mem_insertFirst h with rfl | h
    · exact List.mem_cons_self
    · exact List.mem_cons_of_mem a (ih h)

/-- The one element below all others is the head of the sorted list. -/
theorem sortBy_least {α : Type} {le : α → α → Bool} {w : α} {l : List α} (hw : w ∈ l) (h1 : ∀ x ∈ l, le w x = true)
    (h2 : ∀ x ∈ l, le x w = true → x = w) : ∃ xs, sortBy le l = w :: xs := by
  induction l with
  | nil => cases hw
  | cons a l ih =>
    by_cases hl : w ∈ l
    · obtain ⟨xs, hx⟩ := ih hl (fun x hx => h1 x (List.mem_cons_of_mem a hx)) fun x hx => h2 x (List.mem_cons_of_mem a hx)
      rw [sortBy, hx, sortBy.insertFirst]
      split
      next h => rw [h2 a List.mem_cons_self h]; exact ⟨_, rfl⟩
      · exact ⟨_, rfl⟩
    · obtain rfl : w = a := (List.mem_cons.1 hw).resolve_right hl
      rw [sortBy]
      cases hs : sortBy le l with
      | nil => exact ⟨_, rfl⟩
      | cons b xs =>
        have hb : b ∈ l := mem_of_mem_sortBy (hs ▸ List.mem_cons_self)
        rw [sortBy.insertFirst, if_pos (h1 b (List.mem_cons_of_mem w hb))]
        exact ⟨_, rfl⟩

theorem State.served_head {s : State} {w : Waiter} {pa : Nat} (hw : w ∈ s.retry) (ha : w.acc.pa / 8 = pa / 8) (hh : s.holds w.acc = true)
    (hm : ∀ x ∈ s.retry, x.acc.pa / 8 = pa / 8 → s.holds x.acc = true → x = w ∨ w.order < x.order) :
    ∃ ws, s.served pa = w :: ws := by
  have hf : ∀ x ∈ s.retry.filter fun w => w.acc.pa / 8 == pa / 8 && s.holds w.acc, x = w ∨ w.order < x.order := fun x hx => by
    obtain ⟨hx, hc⟩ := List.mem_filter.1 hx
    simp only [Bool.and_eq_true, beq_iff_eq] at hc
    exact hm x hx hc.1 hc.2
  refine sortBy_least (List.mem_filter.2 ⟨hw, by simp [ha, hh]⟩) (fun x hx => ?_) fun x hx hl => ?_
  · rcases hf x hx with rfl | h
    · simp
    · simp only [decide_eq_true_eq]; omega
  · simp only [decide_eq_true_eq] at hl
    exact (hf x hx).resolve_right (by omega)

/-- A waiter whose access performs is answered and off the list. -/
theorem exec_retryListService_done {s : State} {w : Waiter} {ws : List Waiter} (hs : s.served s.arg.addr = w :: ws) {v : Word} {u : State}
    (hp : State.perform { s with retry := s.retry.filter fun x => x.op != w.op } w.acc = .done v u) :
    exec .retryListService s = .next ((u.afterAcc w.owner w.acc w.op).sendPkt w.owner w.acc.src w.acc.vd .control 0
      (.resp w.op 0 v none)) := by
  simp only [exec, execRetryListService, hs, hp]

end Sys2Proof.Machine
end

section
/-! The obligation about what owners serve: PERFORM, FENCEF_MARKER, WITHDRAWAL and RETRY_LIST_SERVICE. -/

namespace Sys2Proof.Machine

/-! ### Accesses past the gates -/

section
variable {s t : State} {p : Packet} {a : Acc} {op n : Nat} {i : Instr} (hp : s.arrivedPkt = some p)
  (hi : (i = .perform ∧ p.payload = .access a op) ∨ (i = .fencefMarker ∧ p.payload = .marker a op n ∧ s.markerDue p a op n = true))
  (h : Reaches s t p a)
include hp hi h

/-- What an access event gives, but for the counts of a cluster. -/
theorem exec_reaches : ∃ r, exec i s = .next r ∧ { r with clus := (s.performPkt p a op).clus } = s.performPkt p a op :=
  exec_performPkt hp hi h.runs

/-- Where no memory is, ACCESS. -/
theorem exec_unpopulated (hn : s.populated a.pa = false) : ∃ r, exec i s = .next r ∧ Answers p r op 3 0 ∧ r.mem = s.mem := by
  obtain ⟨r, he, hr⟩ := exec_reaches hp hi h
  have ha : (t.takeUp p).perform a = .access := by
    unfold State.perform
    rw [h.populated, hn]; rfl
  rw [h.performPkt, hn] at hr
  have hs := State.serve_access p op ha
  simp only [Bool.false_eq_true, if_false, hs] at hr
  refine ⟨r, he, (State.reply_answers _ p op 3 0 none).of_pkts (congrArg State.pkts hr :), ?_⟩
  calc r.mem = ((t.takeUp p).countWrite (nodeKey p.dst.chip p.dst.node) a).mem := (congrArg State.mem hr :)
    _ = (t.takeUp p).mem := (congrArg State.mem ((t.takeUp p).countWrite_rest _ a) :)
    _ = t.mem := (congrArg State.mem (t.takeUp_rest p) :)
    _ = s.mem := (congrArg State.mem (State.gate_go h.gate).rest :)

variable (hn : s.populated a.pa = true)
include hn

theorem exec_done {v : Word} {u : State} (hu : (t.before p a).perform a = .done v u) :
    ∃ r, exec i s = .next r ∧ Answers p r op 0 v ∧ r.mem = u.mem ∧ r.fe = u.fe ∧ r.clear = u.clear ∧ r.vds = u.vds := by
  obtain ⟨r, he, hr⟩ := exec_reaches hp hi h
  rw [h.performPkt_populated op hn, State.serve_done p op hu] at hr
  have ha := u.afterAcc_rest p.dst a op
  exact ⟨r, he, (State.reply_answers _ p op 0 v _).of_pkts (congrArg State.pkts hr :),
    (congrArg State.mem hr :).trans (congrArg State.mem ha :), (congrArg State.fe hr :).trans (congrArg State.fe ha :),
    (congrArg State.clear hr :).trans (congrArg State.clear ha :), (congrArg State.vds hr :).trans (congrArg State.vds ha :)⟩

theorem exec_ecc (hu : (t.before p a).perform a = .ecc) : ∃ r, exec i s = .next r ∧ Answers p r op 4 0 := by
  obtain ⟨r, he, hr⟩ := exec_reaches hp hi h
  rw [h.performPkt_populated op hn, State.serve_ecc p op hu] at hr
  exact ⟨r, he, (State.reply_answers _ p op 4 0 none).of_pkts (congrArg State.pkts hr :)⟩

theorem exec_busy (hu : (t.before p a).perform a = .wait)
    (hl : 1024 ≤ ((t.before p a).retry.filter fun w => w.owner == p.dst).length) : ∃ r, exec i s = .next r ∧ Answers p r op 1 0 := by
  obtain ⟨r, he, hr⟩ := exec_reaches hp hi h
  rw [h.performPkt_populated op hn, State.serve_busy p op hu hl] at hr
  exact ⟨r, he, (State.reply_answers _ p op 1 0 none).of_pkts (congrArg State.pkts hr :)⟩

theorem exec_wait (hu : (t.before p a).perform a = .wait)
    (hl : ((t.before p a).retry.filter fun w => w.owner == p.dst).length < 1024) : ∃ r w, exec i s = .next r ∧
      r.retry = (t.before p a).retry ++ [w] ∧ w.owner = p.dst ∧ w.acc = a ∧ w.op = op ∧ r.mem = (t.before p a).mem ∧
      r.fe = (t.before p a).fe := by
  obtain ⟨r, he, hr⟩ := exec_reaches hp hi h
  rw [h.performPkt_populated op hn] at hr
  have hs := State.serve_wait p op hu hl
  exact ⟨r, _, he, (congrArg State.retry hr :).trans (congrArg State.retry hs :), rfl, rfl, rfl,
    (congrArg State.mem hr :).trans (congrArg State.mem hs :), (congrArg State.fe hr :).trans (congrArg State.fe hs :)⟩

end

/-! ### Accesses to a matrix queue window -/

section
variable {s : State} {p : Packet} {a : Acc} {op src off : Nat} {o : Op} (hp : s.arrivedPkt = some p) (hl : p.payload = .access a op)
  (hd : s.draining p.vd p.src p.dst = false) (hc : s.copying p.dst = false) (ht : s.portTurn p = true) (ho : off < 4096)
  (ha : a.pa = windowPa p.dst.core off)
include hp hl hd hc ht ho ha

theorem exec_windowLoad (hs : a.cls ≠ .store) : ∃ r, exec .perform s = .next r ∧
    Answers p r op 0 (BitVec.ofNat 64 (s.peek a.pa a.size)) ∧ (r.core p.dst.core).mx.queue = (s.core p.dst.core).mx.queue := by
  refine ⟨_, (exec_perform_access hp hl).trans (congrArg _ (State.performPkt_windowLoad hd hc ht ho ha hs)),
    State.reply_answers _ _ _ _ _ _, ?_⟩
  exact ((Served.trace (s.dropPkt p.id) a).trans (.portServed _ _ _)).queue_eq p.dst.core

variable (hs : a.cls = .store) (hop : s.opOf op = some (src, o))
include hs hop

theorem exec_windowStore_full (hq : off % 64 + a.size = 64) (hn : 64 ≤ (s.core p.dst.core).mx.queue.length) :
    exec .perform s = .next (s.updOp src op fun o => { o with st := .waiting }) := by
  rw [exec_perform_access hp hl, State.performPkt_windowStore hd hc ht ho ha hs, State.windowStore_full ho ha hs hop rfl hq hn]

variable (hq : off % 64 + a.size = 64 → (s.core p.dst.core).mx.queue.length < 64)
include hq

theorem exec_windowStore_taken : exec .perform s = .next ((if off % 64 + a.size = 64 then (s.stored p a).pushSlot p.dst.core off o a.fcr
    else s.stored p a).reply p op 0 0 none) := by
  rw [exec_perform_access hp hl, State.performPkt_windowStore hd hc ht ho ha hs, State.windowStore_taken ho ha hs hop rfl hq]

variable (hm : a.mask = -1) (hw : (s.core p.dst.core).mx.window.wf = true)
include hm hw

theorem exec_windowStore : ∃ r, exec .perform s = .next r ∧ Answers p r op 0 0 ∧
    (off % 64 + a.size ≠ 64 → r.peek a.pa a.size = a.data.toNat % 2 ^ (8 * a.size) ∧
      (r.core p.dst.core).mx.queue = (s.core p.dst.core).mx.queue) ∧
    (off % 64 + a.size = 64 → recordOk (r.slotWords p.dst.core off) a.fcr = true →
      r.peek a.pa a.size = a.data.toNat % 2 ^ (8 * a.size) ∧ ∃ c, (r.core p.dst.core).mx.queue = (s.core p.dst.core).mx.queue ++ [c] ∧
        c.words = r.slotWords p.dst.core off ∧ c.lev = o.lev ∧ c.act = o.act ∧ c.launch = o.launch ∧ c.pc = o.pc ∧ c.fcr = a.fcr) := by
  have hpeek := s.stored_peek p ho ha hm hw
  have hqueue : ((s.stored p a).core p.dst.core).mx.queue = (s.core p.dst.core).mx.queue := (s.stored_served p a).queue_eq p.dst.core
  refine ⟨_, exec_windowStore_taken hp hl hd hc ht ho ha hs hop hq, State.reply_answers _ _ _ _ _ _, fun hn => ?_, fun hn hr => ?_⟩
  · rw [if_neg hn]
    exact ⟨hpeek, hqueue⟩
  · rw [if_pos hn] at hr ⊢
    have hsame := (s.stored p a).pushSlot_windows p.dst.core off o a.fcr
    have hreply : ∀ u : State, (u.reply p op 0 0 none).slotWords p.dst.core off = u.slotWords p.dst.core off := fun _ => rfl
    rw [hreply, hsame.slotWords p.dst.core ho] at hr ⊢
    refine ⟨?_, ?_⟩
    · rw [← hpeek, ha]
      exact hsame.peek p.dst.core ho a.size
    · rw [← hqueue]
      exact (s.stored p a).pushSlot_ok p.dst.core ho o hr

end

/-! ### Refusals, write-backs and withdrawals -/

theorem State.writeBack_spec (s : State) (line : Nat) :
    (∀ m ∈ (s.writeBack line).media, m.line ≠ line) ∧ (∀ m ∈ s.media, m.line ≠ line → m ∈ (s.writeBack line).media) ∧
      (s.writeBack line).mem = s.mem := by
  have hf : ∀ m ∈ s.media.filter fun m => m.line != line, m.line ≠ line := fun m hm => by simpa using (List.mem_filter.1 hm).2
  have hk : ∀ m ∈ s.media, m.line ≠ line → m ∈ s.media.filter fun m => m.line != line := fun m hm hl =>
    List.mem_filter.2 ⟨hm, by simpa using hl⟩
  unfold State.writeBack
  split
  · dsimp only
    split <;> exact ⟨hf, hk, rfl⟩
  next h =>
    refine ⟨fun m hm hl => h ?_, fun m hm _ => hm, rfl⟩
    exact List.any_eq_true.2 ⟨m, hm, by simpa using hl⟩

section
variable {s : State} {p : Packet} (hp : s.arrivedPkt = some p)
include hp

theorem exec_copied {a : Acc} {op : Nat} (hl : p.payload = .access a op) (hd : s.draining p.vd p.src p.dst = false)
    (hc : s.copying p.dst = true) : exec .perform s = .next ((s.dropPkt p.id).reply p op 1 0 none) := by
  rw [exec_perform_access hp hl, State.performPkt, if_neg (by simp [hd]), if_pos hc]

theorem exec_drained {a : Acc} {op n : Nat} (hl : p.payload = .access a op ∨ p.payload = .marker a op n)
    (hd : s.draining p.vd p.src p.dst = true) : exec (if p.payload = .access a op then .perform else .fencefMarker) s =
      .next ((s.dropPkt p.id).reply p op 5 0 none) := by
  have h5 : s.performPkt p a op = (s.dropPkt p.id).reply p op 5 0 none := by rw [State.performPkt, if_pos hd]
  rcases hl with hl | hl
  · rw [if_pos hl, exec_perform_access hp hl, h5]
  · rw [if_neg (by rw [hl]; nofun), ← h5]
    simp only [exec, execFencefMarker, hp, hl, hd, if_true]

variable {line op : Nat} (hl : p.payload = .flush line op) (hd : s.draining p.vd p.src p.dst = false) (ht : s.portTurn p = true)
include hl hd ht

theorem exec_flush_unpopulated (hn : s.populated (line * 256) = false) :
    exec .perform s = .next ((s.takeUp p).reply p op 3 0 none) := by
  simp only [exec, execPerform, hp, hl, hd, ht, hn, Bool.not_true, Bool.not_false, Bool.false_eq_true, if_false, if_true]
  rfl
theorem exec_flush (hn : s.populated (line * 256) = true) :
    exec .perform s = .next (((s.takeUp p).writeBack line).reply p op 0 0 none) := by
  simp only [exec, execPerform, hp, hl, hd, ht, hn, Bool.not_true, Bool.false_eq_true, if_false]
  rfl

end

/-- The waiters that an operation's withdrawal leaves. -/
def State.withdrawn (s : State) (p : Packet) (op : Nat) : State :=
  ({ s.dropPkt p.id with retry := s.retry.filter fun w => !(w.op == op && w.owner == p.dst) }).sendPkt p.dst p.src p.vd .control 0
    (.withdrawn op (s.retry.any fun w => w.op == op && w.owner == p.dst))

theorem exec_withdrawal {s : State} {p : Packet} (hp : s.arrivedPkt = some p) {op : Nat} (hl : p.payload = .withdraw op) :
    exec .withdrawal s = .next (s.withdrawn p op) := by
  simp only [exec, execWithdrawal, hp, hl]
  rfl

theorem State.mem_withdrawn_retry {s : State} {p : Packet} {op : Nat} {w : Waiter} :
    w ∈ (s.withdrawn p op).retry ↔ w ∈ s.retry ∧ ¬ (w.op = op ∧ w.owner = p.dst) := by
  have h : (s.withdrawn p op).retry = s.retry.filter fun w => !(w.op == op && w.owner == p.dst) := rfl
  rw [h, List.mem_filter]
  simp only [Bool.not_eq_true', Bool.and_eq_false_iff, beq_eq_false_iff_ne, ne_eq, not_and_or]

/-! ### The obligation -/

/-- Settles O31: `Reaches` with what its owner makes of an access, the bytes and pushes of a window, and the head of the retry list. -/
theorem ownersServeRequests : Obligations.OwnersServeRequests := by
  refine ⟨fun s p hp => ?_, fun s w hw ha hh hm hu => ?_⟩
  · intro ready answered
    have copying : ∀ {b}, s.copying p.dst = b ↔ ((s.clu (nodeKey p.dst.chip p.dst.node)).repair == some p.dst.unit) = b := Iff.rfl
    refine ⟨fun i a op n t hi hr hpa ht ho hg => ?_, fun a op src off o hl hr ht ha hsz _ _ hm hw hop => ?_, fun a op hl hd hr => ?_,
      fun a op n hl hd => ?_, fun line op hl hd ht hn => ?_, fun line op hl hr ht hn => ?_, fun op hl => ?_⟩
    · have h : Reaches s t p a := ⟨hr.1, copying.2 (by simpa using hr.2), hpa, ht, ho, hg⟩
      refine ⟨exec_unpopulated hp hi h, fun hn => ⟨fun v u hu => ?_, exec_ecc hp hi h hn, exec_wait hp hi h hn, exec_busy hp hi h hn⟩⟩
      obtain ⟨r, he, hans, hmem, hfe, hclear, hvds⟩ := exec_done hp hi h hn hu
      exact ⟨r, he, hans, hmem, hfe, hclear, fun hs => hvds.trans (State.perform_store_vds hs hpa hu)⟩
    · have hc : s.copying p.dst = false := copying.2 (by simpa using hr.2)
      have hoff : off < 4096 := by
        have : 0 < a.size := by
          simp only [List.mem_cons, List.not_mem_nil, or_false] at *
          omega
        omega
      intro queue pushes
      refine ⟨exec_windowLoad hp hl hr.1 hc ht hoff ha, fun hs hq hn => exec_windowStore_full hp hl hr.1 hc ht hoff ha hs hop hq hn,
        fun hs hq => ?_⟩
      exact exec_windowStore hp hl hr.1 hc ht hoff ha hs hop hq hm hw
    · exact ⟨_, exec_copied hp hl hd (copying.2 (by simpa using hr)), State.reply_answers _ _ _ _ _ _, rfl⟩
    · exact ⟨_, exec_drained hp hl hd, State.reply_answers _ _ _ _ _ _, rfl⟩
    · have h := s.takeUp_rest p
      exact ⟨_, exec_flush_unpopulated hp hl hd ht hn, State.reply_answers _ _ _ _ _ _, (congrArg State.mem h :), (congrArg State.media h :)⟩
    · obtain ⟨h1, h2, h3⟩ := (s.takeUp p).writeBack_spec line
      have h := s.takeUp_rest p
      refine ⟨_, exec_flush hp hl hr.1 ht hn, State.reply_answers _ _ _ _ _ _, h1, fun m hm => h2 m ?_, h3.trans (congrArg State.mem h :)⟩
      exact (congrArg State.media h :) ▸ hm
    · refine ⟨_, exec_withdrawal hp hl, fun w hw => (State.mem_withdrawn_retry.1 hw).2, fun w hw hn => State.mem_withdrawn_retry.2 ⟨hw, hn⟩,
        rfl, _, List.mem_append_right _ (List.mem_singleton.2 rfl), rfl, rfl⟩
  · intro s' v u hd
    obtain ⟨ws, hs⟩ := State.served_head hw ha hh hm
    have hrest := u.afterAcc_rest w.owner w.acc w.op
    have hretry : (u.afterAcc w.owner w.acc w.op).retry = s.retry.filter fun x => x.op != w.op :=
      (congrArg State.retry hrest :).trans (Served.perform hd).retry_eq
    refine ⟨_, exec_retryListService_done hs hd, (congrArg State.mem hrest :), (congrArg State.fe hrest :), fun h => ?_, fun x hx hne => ?_,
      _, List.mem_append_right _ (List.mem_singleton.2 rfl), rfl, rfl, rfl⟩
    · have h : w ∈ (u.afterAcc w.owner w.acc w.op).retry := h
      rw [hretry] at h
      simpa using (List.mem_filter.1 h).2
    · have h : x ∈ (u.afterAcc w.owner w.acc w.op).retry := by
        rw [hretry]
        exact List.mem_filter.2 ⟨hx, by simpa using fun e => hne (hu x hx e)⟩
      exact h

end Sys2Proof.Machine
end

section
/-! Repairs of cores, pseudo-channels and supervisors, and bit errors (R65, R442, R460). -/

namespace Sys2Proof.Machine

/-! ### Reports of repairs (R471) -/

/-- An entry of the event ring changes of a package the ring's tail and its count of losses only. -/
theorem State.ringEntry_chip (s : State) (chip ty vd : Nat) (body : List Word) (c : Nat) :
    { (s.ringEntry chip ty vd body).chip c with evlost := (s.chip c).evlost, evtail := (s.chip c).evtail } = s.chip c := by
  unfold State.ringEntry
  dsimp only
  split <;> by_cases h : c = chip
  · subst h; rw [State.chip_updChip]
  · rw [State.chip_updChip_ne _ _ h]
  · subst h; rw [State.chip_updChip]; rfl
  · rw [State.chip_updChip_ne _ _ h]; rfl

/-- The event ring of a package and the memory under it, as they were. -/
structure SameRing (chip : Nat) (s t : State) : Prop where
  mem : t.mem = s.mem
  base : (t.chip chip).evbase = (s.chip chip).evbase
  head : (t.chip chip).evhead = (s.chip chip).evhead
  tail : (t.chip chip).evtail = (s.chip chip).evtail

/-- The bytes that an entry writes rest on the ring alone. -/
theorem SameRing.ringEntry_mem {chip : Nat} {s t : State} (h : SameRing chip s t) (ty vd : Nat) (body : List Word) :
    (t.ringEntry chip ty vd body).mem = (s.ringEntry chip ty vd body).mem := by
  unfold State.ringEntry
  dsimp only
  rw [h.base, h.head, h.tail]
  split
  · exact h.mem
  · simp only [State.updChip_mem, State.pokeWords, h.mem]

/-- A ring of no size keeps nothing. -/
theorem State.ringEntry_mem_unset (s : State) {chip : Nat} (h : fld (s.chip chip).evbase.toNat 0 5 = 0) (ty vd : Nat) (body : List Word) :
    (s.ringEntry chip ty vd body).mem = s.mem := by
  unfold State.ringEntry
  dsimp only
  rw [if_pos (.inl (by omega))]
  rfl

/-- A repair reported and counted. -/
def State.reported (s : State) (chip vd element num outcome : Nat) (lost : List Nat) : State :=
  (s.repairEntry chip vd element num outcome lost).countRepair chip

section
variable (s : State) (chip vd element num outcome : Nat) (lost : List Nat)

theorem State.repairEntry_rest : { s.repairEntry chip vd element num outcome lost with mem := s.mem, chips := s.chips } = s :=
  s.ringEntry_rest _ _ _ _
theorem State.repairEntry_chip (c : Nat) : { (s.repairEntry chip vd element num outcome lost).chip c with
    evlost := (s.chip c).evlost, evtail := (s.chip c).evtail } = s.chip c := s.ringEntry_chip _ _ _ _ c

theorem State.reported_rest : { s.reported chip vd element num outcome lost with mem := s.mem, chips := s.chips } = s :=
  s.repairEntry_rest chip vd element num outcome lost
theorem State.reported_core (k : Nat) : (s.reported chip vd element num outcome lost).core k = s.core k :=
  (congrArg (fun t : State => t.core k) (s.reported_rest chip vd element num outcome lost) :)
theorem State.reported_clu (n : Nat) : (s.reported chip vd element num outcome lost).clu n = s.clu n :=
  (congrArg (fun t : State => t.clu n) (s.reported_rest chip vd element num outcome lost) :)
theorem State.reported_cores : (s.reported chip vd element num outcome lost).cores = s.cores :=
  (congrArg State.cores (s.reported_rest chip vd element num outcome lost) :)
theorem State.reported_vdev? (v : Nat) : (s.reported chip vd element num outcome lost).vdev? v = s.vdev? v :=
  (congrArg (fun t : State => t.vdev? v) (s.reported_rest chip vd element num outcome lost) :)

/-- Of its package a reported repair changes measurement 3 and the ring's registers. -/
theorem State.reported_chip : { (s.reported chip vd element num outcome lost).chip chip with
    evlost := (s.chip chip).evlost, evtail := (s.chip chip).evtail } = { s.chip chip with repairs := (s.chip chip).repairs + 1 } := by
  rw [State.reported, State.countRepair, State.chip_updChip]
  have h := s.repairEntry_chip chip vd element num outcome lost chip
  exact (congrArg (fun c : Chip => { c with repairs := c.repairs + 1 }) h :)
theorem State.reported_repairs : ((s.reported chip vd element num outcome lost).chip chip).repairs = (s.chip chip).repairs + 1 :=
  (congrArg Chip.repairs (s.reported_chip chip vd element num outcome lost) :)

end

/-- A report made after changes that leave the ring alone writes what it would have written before them. -/
theorem SameRing.reported_mem {chip : Nat} {s t : State} (h : SameRing chip s t) (vd element num outcome : Nat) (lost : List Nat) :
    (t.reported chip vd element num outcome lost).mem = (s.repairEntry chip vd element num outcome lost).mem :=
  h.ringEntry_mem 4 vd _

/-- Changes outside memory and packages. -/
theorem SameRing.of_chips {s t : State} (hm : t.mem = s.mem) (hc : t.chips = s.chips) (chip : Nat) : SameRing chip s t := by
  refine ⟨hm, ?_, ?_, ?_⟩ <;> simp only [State.chip, hc]

/-- A change of a package that leaves its ring alone. -/
theorem SameRing.updChip (s : State) (chip : Nat) (f : Chip → Chip) (hf : ∀ c : Chip, { f c with
    evbase := c.evbase, evhead := c.evhead, evtail := c.evtail } = f c) : SameRing chip s (s.updChip chip f) := by
  refine ⟨rfl, ?_, ?_, ?_⟩ <;> rw [State.chip_updChip]
  · exact (congrArg Chip.evbase (hf (s.chip chip)) :).symm
  · exact (congrArg Chip.evhead (hf (s.chip chip)) :).symm
  · exact (congrArg Chip.evtail (hf (s.chip chip)) :).symm

/-! ### CORE_REPAIR (R442) -/

section
variable {s : State}

/-- The core and the cluster that a repair names. -/
def State.repairKey (s : State) : Nat := coreKey s.arg.chip s.arg.node s.arg.slot
def State.repairNode (s : State) : Nat := nodeKey s.arg.chip s.arg.node

/-- The state in which a core that cannot be repaired is lost to its virtual device. -/
def State.coreLost (s : State) : State :=
  let t := s.updCore s.repairKey fun c => { c with run := .lost }
  t.updVd (s.core s.repairKey).owner fun v => { v with lost := v.lost ++ [t.vdCoreOf v s.repairKey] }

theorem State.coreLost_arg (s : State) : s.coreLost.arg = s.arg := (congrArg State.arg (State.updVd_rest _ _ _) :)

theorem exec_coreRepair_none (h : (s.core s.repairKey).run ≠ .stopped ∨ (s.clu s.repairNode).repair ≠ none) :
    exec .coreRepair s = .next s := by
  have h' : (s.core s.repairKey).run ≠ .stopped ∨ (s.clu s.repairNode).repair.isSome := h.imp id Option.isSome_iff_ne_none.2
  simp only [State.repairKey, State.repairNode] at h'
  simp only [exec, execCoreRepair, if_pos h']

variable (hr : (s.core s.repairKey).run = .stopped) (hu : (s.clu s.repairNode).repair = none)
include hr hu

theorem repair_due : ¬ ((s.core s.repairKey).run ≠ .stopped ∨ (s.clu s.repairNode).repair.isSome) := by simp [hr, hu]

theorem exec_coreRepair_return (hi : s.arg.index = 0) : exec .coreRepair s =
    .next ((s.setCore s.repairKey (s.core s.repairKey).repaired).reported s.arg.chip (s.core s.repairKey).owner 1
      (windowOf s.repairKey) 0 []) := by
  have h := repair_due hr hu
  simp only [State.repairKey, State.repairNode] at h
  simp only [exec, execCoreRepair, if_neg h, hi]
  rfl

theorem exec_coreRepair_spare (hi : s.arg.index = 1) (hm : ∀ i, i < 8 → i ∈ (s.clu s.repairNode).map) : exec .coreRepair s =
    .next (s.updClu s.repairNode fun u => { u with repair := some s.arg.slot }) := by
  have h := repair_due hr hu
  have hf : (tab 8 id).all (s.clu s.repairNode).map.contains = true := by
    simpa [List.all_eq_true, mem_tab] using hm
  simp only [State.repairKey, State.repairNode] at h hf
  simp only [exec, execCoreRepair, if_neg h, hi, if_pos hf]
  rfl

theorem exec_coreRepair_noSpare (hi : s.arg.index = 1) (hm : ¬ ∀ i, i < 8 → i ∈ (s.clu s.repairNode).map) :
    exec .coreRepair s = .next s := by
  have h := repair_due hr hu
  have hf : ¬ (tab 8 id).all (s.clu s.repairNode).map.contains = true := by
    simpa [List.all_eq_true, mem_tab] using hm
  simp only [State.repairKey, State.repairNode] at h hf
  simp only [exec, execCoreRepair, if_neg h, hi, if_neg hf]

theorem exec_coreRepair_kept {n : Nat} (hi : s.arg.index = n + 2) (hm : ∀ i, i < 8 → i ∈ (s.clu s.repairNode).map) :
    exec .coreRepair s = .next s := by
  have h := repair_due hr hu
  have hf : (tab 8 id).all (s.clu s.repairNode).map.contains = true := by
    simpa [List.all_eq_true, mem_tab] using hm
  simp only [State.repairKey, State.repairNode] at h hf
  simp only [exec, execCoreRepair, if_neg h, hi, if_pos hf]

theorem exec_coreRepair_lost {n : Nat} (hi : s.arg.index = n + 2) (hm : ¬ ∀ i, i < 8 → i ∈ (s.clu s.repairNode).map) :
    exec .coreRepair s = .next (s.coreLost.reported s.arg.chip (s.core s.repairKey).owner 1 (windowOf s.repairKey) 2 []) := by
  have h := repair_due hr hu
  have hf : ¬ (tab 8 id).all (s.clu s.repairNode).map.contains = true := by
    simpa [List.all_eq_true, mem_tab] using hm
  simp only [State.repairKey, State.repairNode] at h hf
  have e : exec .coreRepair s = .next (s.coreLost.reported s.coreLost.arg.chip (s.core s.repairKey).owner 1 (windowOf s.repairKey) 2 []) := by
    simp only [exec, execCoreRepair, if_neg h, hi, if_neg hf]
    rfl
  rw [e, State.coreLost_arg]

end

theorem State.coreLost_core (s : State) : s.coreLost.core s.repairKey = { s.core s.repairKey with run := .lost } := by
  simp only [State.coreLost, State.core, State.updVd_cores]
  exact State.core_updCore s s.repairKey _
theorem State.coreLost_ring (s : State) (chip : Nat) : SameRing chip s s.coreLost := by
  unfold State.coreLost
  dsimp only
  exact .of_chips (by rw [State.updVd_mem]; rfl) (by rw [State.updVd_chips]; rfl) chip
theorem State.coreLost_vdev? (s : State) : s.coreLost.vdev? (s.core s.repairKey).owner =
    (s.vdev? (s.core s.repairKey).owner).map fun v => { v with lost := v.lost ++
      [(s.updCore s.repairKey fun c => { c with run := .lost }).vdCoreOf v s.repairKey] } := State.vdev?_updVd _ _ _

/-! ### Pseudo-channels (R460) -/

/-- The pseudo-channel that a repair names, in its package, and its state. -/
def State.pcKey (s : State) : Nat := s.arg.stack % 8 * 64 + s.arg.pc % 63
def State.pcState (s t : State) : PcState := AMap.get (t.chip s.arg.chip).pcs .good s.pcKey

section
variable {s : State}

theorem exec_pcRepair_none (h : s.pcState s = .copying ∨ s.pcState s = .failed) : exec .pseudoChannelRepair s = .next s := by
  simp only [State.pcState, State.pcKey] at h
  simp only [exec, execPseudoChannelRepair, if_pos h]

variable (h1 : s.pcState s ≠ .copying) (h2 : s.pcState s ≠ .failed)
include h1 h2

theorem exec_pcRepair_spare (hs : s.arg.stack % 8 ∉ (s.chip s.arg.chip).spare) : exec .pseudoChannelRepair s =
    .next (s.updChip s.arg.chip fun c => { c with pcs := AMap.put c.pcs s.pcKey .copying, spare := insertNat (s.arg.stack % 8) c.spare }) := by
  have h : ¬ (s.pcState s = .copying ∨ s.pcState s = .failed) := fun h => h.elim h1 h2
  simp only [State.pcState, State.pcKey] at h
  have hc : (!(s.chip s.arg.chip).spare.contains (s.arg.stack % 8)) = true := by simpa using hs
  simp only [exec, execPseudoChannelRepair, if_neg h, if_pos hc]
  rfl

theorem exec_pcRepair_failed (hs : s.arg.stack % 8 ∈ (s.chip s.arg.chip).spare) : exec .pseudoChannelRepair s =
    .next ((s.updChip s.arg.chip fun c => { c with pcs := AMap.put c.pcs s.pcKey .failed }).repairEntry s.arg.chip 0 2 s.pcKey 4
      ((s.chip s.arg.chip).framesOn (s.arg.stack % 8) (s.arg.pc % 63))) := by
  have h : ¬ (s.pcState s = .copying ∨ s.pcState s = .failed) := fun h => h.elim h1 h2
  simp only [State.pcState, State.pcKey] at h
  have hc : ¬ (!(s.chip s.arg.chip).spare.contains (s.arg.stack % 8)) = true := by simpa using hs
  simp only [exec, execPseudoChannelRepair, if_neg h, if_neg hc]
  rfl

end

theorem exec_pcRemap_none {s : State} (h : s.pcState s ≠ .copying) : exec .pseudoChannelRemap s = .next s := by
  simp only [State.pcState, State.pcKey] at h
  simp only [exec, execPseudoChannelRemap, if_pos h]

/-- The state in which the copy of a pseudo-channel has ended. -/
def State.pcRemapped (s : State) : State :=
  (s.copyChannel s.arg.chip (s.arg.stack % 8) (s.arg.pc % 63)).updChip s.arg.chip fun c =>
    { c with pcs := AMap.put c.pcs s.pcKey .remapped }

theorem exec_pcRemap {s : State} (h : s.pcState s = .copying) : exec .pseudoChannelRemap s =
    .next (s.pcRemapped.reported s.arg.chip 0 2 s.pcKey 3 []) := by
  have h' : ¬ s.pcState s ≠ .copying := by simp [h]
  simp only [State.pcState, State.pcKey] at h'
  simp only [exec, execPseudoChannelRemap, if_neg h']
  rfl

/-! ### SUPERVISOR_FAILOVER (R442, R460, R480) -/

/-- The spare of a supervisor's die. -/
def Chip.supSpare (c : Chip) (i : Nat) : Option Nat :=
  (tab 4 fun j => i / 4 * 4 + j).find? fun j => (c.sups.set i false).getD j false && !c.duty.contains j

/-- The supervisors on duty once one has stopped. -/
def Chip.dutyAfter (c : Chip) (i : Nat) : List Nat := c.duty.flatMap fun j => if j = i then (c.supSpare i).toList else [j]

/-- The lead once a supervisor has stopped. -/
def Chip.leadAfter (c : Chip) (i : Nat) : Nat :=
  if c.lead = i then
    ((c.supSpare i).orElse fun _ => ((c.dutyAfter i).find? fun j => j / 4 == i / 4).orElse fun _ => (c.dutyAfter i).head?).getD i
  else c.lead

theorem Chip.mem_dutyAfter {c : Chip} {i j : Nat} : j ∈ c.dutyAfter i ↔ (j ∈ c.duty ∧ j ≠ i) ∨ (i ∈ c.duty ∧ c.supSpare i = some j) := by
  rw [Chip.dutyAfter, List.mem_flatMap]
  constructor
  · rintro ⟨x, hx, hj⟩
    split at hj
    next h => subst h; exact .inr ⟨hx, Option.mem_toList.1 hj⟩
    next h => rw [List.mem_singleton] at hj; subst hj; exact .inl ⟨hx, h⟩
  · rintro (⟨hj, hne⟩ | ⟨hi, hs⟩)
    · exact ⟨j, hj, by rw [if_neg hne]; exact List.mem_singleton.2 rfl⟩
    · exact ⟨i, hi, by rw [if_pos rfl]; exact Option.mem_toList.2 hs⟩

theorem Chip.leadAfter_spare {c : Chip} {i j : Nat} (hl : c.lead = i) (hs : c.supSpare i = some j) : c.leadAfter i = j := by
  rw [Chip.leadAfter, if_pos hl, hs]; rfl

/-- Without a spare another on duty leads. -/
theorem Chip.leadAfter_duty {c : Chip} {i j : Nat} (hl : c.lead = i) (hs : c.supSpare i = none) (hj : j ∈ c.duty) (hne : j ≠ i) :
    c.leadAfter i ∈ c.duty ∧ c.leadAfter i ≠ i := by
  have hd : ∀ x ∈ c.dutyAfter i, x ∈ c.duty ∧ x ≠ i := fun x hx =>
    (Chip.mem_dutyAfter.1 hx).resolve_right fun h => by simp [hs] at h
  have hmem : j ∈ c.dutyAfter i := Chip.mem_dutyAfter.2 (.inl ⟨hj, hne⟩)
  have he : c.leadAfter i = (((c.dutyAfter i).find? fun j => j / 4 == i / 4).orElse fun _ => (c.dutyAfter i).head?).getD i := by
    rw [Chip.leadAfter, if_pos hl, hs]; rfl
  rw [he]
  cases hf : (c.dutyAfter i).find? fun j => j / 4 == i / 4 with
  | some x => exact hd x (List.mem_of_find?_eq_some hf)
  | none =>
    cases hh : (c.dutyAfter i).head? with
    | some x => exact hd x (List.mem_of_mem_head? hh)
    | none => rw [List.head?_eq_none_iff.1 hh] at hmem; cases hmem

section
variable {s : State}

theorem exec_failover_none (h : (s.chip s.arg.chip).sups.getD (s.arg.index % 16) false = false) : exec .supervisorFailover s = .next s := by
  simp only [exec, execSupervisorFailover, h, Bool.not_false, if_true]

/-- The state in which a supervisor has stopped and another has taken over. -/
def State.failedOver (s : State) (i : Nat) : State :=
  s.updChip s.arg.chip fun c => { c with
    sups := (s.chip s.arg.chip).sups.set i false, duty := (s.chip s.arg.chip).dutyAfter i, lead := (s.chip s.arg.chip).leadAfter i }

theorem exec_failover (h : (s.chip s.arg.chip).sups.getD (s.arg.index % 16) false = true) : exec .supervisorFailover s =
    .next ((s.failedOver (s.arg.index % 16)).reported s.arg.chip 0 4 (s.arg.index % 16) 0 []) := by
  simp only [exec, execSupervisorFailover, h, Bool.not_true, Bool.false_eq_true, if_false]
  rfl

end

/-! ### Bit errors (R65) -/

section
variable {s : State}

theorem exec_softError_untouched (h : s.arg.addr < 2 ^ 60) (hu : s.untouched (8 * s.arg.addr) = true) : exec .softError s = .next s := by
  simp only [exec, execSoftError, if_neg (show ¬ 2 ^ 61 ≤ s.arg.addr by omega), if_pos h, hu, if_true]

/-- The state in which a bit error has struck a word of memory. -/
def State.struck (s : State) : State :=
  { s with bad := s.bad.filter (fun x => x.1 != s.arg.addr) ++
      [(s.arg.addr, !s.arg.flag || s.bad.any fun x => x.1 == s.arg.addr)] }

theorem exec_softError_word (h : s.arg.addr < 2 ^ 60) (hu : s.untouched (8 * s.arg.addr) = false) :
    exec .softError s = .next s.struck := by
  simp only [exec, execSoftError, if_neg (show ¬ 2 ^ 61 ≤ s.arg.addr by omega), if_pos h, hu, Bool.false_eq_true, if_false, State.struck]

theorem exec_softError_l1 (h : 2 ^ 61 ≤ s.arg.addr) :
    exec .softError s = .next (s.strikeL1 s.repairKey (s.arg.addr - 2 ^ 61) (!s.arg.flag)) := by
  simp only [exec, execSoftError, if_pos h]
  rfl

/-- The words of a core's lane slices that hold errors once one has been struck. -/
def Core.struckLanes (c : Core) (i : Nat) (hard : Bool) : List Nat :=
  insertNat (if hard || (c.lanesBad.contains i || c.lanesBad.contains (i + 2048)) then i else i + 2048)
    (c.lanesBad.filter fun x => x != i && x != i + 2048)

theorem exec_softError_lane (h1 : 2 ^ 60 ≤ s.arg.addr) (h2 : s.arg.addr < 2 ^ 61) :
    exec .softError s = .next (s.updCore ((s.arg.addr - 2 ^ 60) / 2048) fun c =>
      { c with lanesBad := c.struckLanes ((s.arg.addr - 2 ^ 60) % 2048) (!s.arg.flag) }) := by
  simp only [exec, execSoftError, if_neg (show ¬ 2 ^ 61 ≤ s.arg.addr by omega), if_neg (show ¬ s.arg.addr < 2 ^ 60 by omega)]
  rfl

theorem State.strikeL1_none {s : State} {k w : Nat} (h : ∀ l ∈ (s.core k).l1, l.addr ≠ w / 32) (hard : Bool) : s.strikeL1 k w hard = s := by
  unfold State.strikeL1
  rw [if_neg fun hc => ?_]
  obtain ⟨l, hl, he⟩ := List.any_eq_true.1 hc
  exact h l hl (by simpa using he)

/-- A core whose copy of a line holds an uncorrectable error. -/
def Core.struckL1 (c : Core) (w : Nat) : Core :=
  { c with l1 := c.l1.map fun l => if l.addr = w / 32 then { l with bad := insertNat w l.bad } else l }

theorem State.strikeL1_some {s : State} {k w : Nat} {l : L1Line} (hl : l ∈ (s.core k).l1) (ha : l.addr = w / 32) (hard : Bool) :
    s.strikeL1 k w hard = if hard then s.updCore k (Core.struckL1 · w)
      else s.updChip (keyChip k) fun c => { c with softErrs := c.softErrs + 1 } := by
  unfold State.strikeL1
  rw [if_pos (List.any_eq_true.2 ⟨l, hl, by simpa using ha⟩)]
  rfl

end

end Sys2Proof.Machine
end

section
/-! CORE_MAP_REWRITE: the spare slot of a cluster takes over (R21, R442). -/

namespace Sys2Proof.Machine

/-! ### Scratchpads (R15) -/

theorem windowOf_lt (k : Nat) : windowOf k < 9216 := by
  have hn : keyNode k < 1024 := Nat.mod_lt _ (by decide)
  have h1 : nodeDie (keyNode k) ≤ 3 := by unfold nodeDie; omega
  have h2 : nodeInDie (keyNode k) ≤ 255 := by unfold nodeInDie; omega
  unfold windowOf keySlot
  omega

theorem scratchPa_lt {k : Nat} (h : keyChip k < 512) {off : Nat} (ho : off < 0x10000) : scratchPa k off < 2 ^ 56 := by
  have := windowOf_lt k
  unfold scratchPa
  omega

theorem scratchPa_end {k : Nat} (h : keyChip k < 512) : scratchPa k 0 + 0x10000 ≤ 2 ^ 56 := by
  have := windowOf_lt k
  unfold scratchPa
  omega

theorem regionOf_scratchPa {k : Nat} (h : keyChip k < 512) {off : Nat} (ho : off < 0x10000) :
    regionOf (scratchPa k off) = .scratch (keyChip k) (windowOf k) off := by
  have hw := windowOf_lt k
  have hl := scratchPa_lt h ho
  have h1 : fld (scratchPa k off) 47 9 = keyChip k := by unfold fld scratchPa; omega
  have h2 : fld (scratchPa k off) 0 47 = 0x080000000000 + windowOf k * 0x10000 + off := by unfold fld scratchPa; omega
  have h3 : (0x080000000000 + windowOf k * 0x10000 + off - 0x080000000000) / 0x10000 = windowOf k := by omega
  have h4 : (0x080000000000 + windowOf k * 0x10000 + off) % 0x10000 = off := by omega
  unfold regionOf
  rw [if_neg (by omega), h1, h2]
  dsimp only
  rw [if_neg (by omega), if_neg (by omega), if_pos (by omega), h3, h4]

theorem State.pcFailed_scratch (s : State) {k : Nat} (h : keyChip k < 512) {off : Nat} (ho : off < 0x10000) :
    s.pcFailed (scratchPa k off) = false := by
  rw [State.pcFailed, regionOf_scratchPa h ho]

/-! ### Writes to a scratchpad with no mark anywhere -/

theorem State.l2Fill_streamed (s : State) (pa : Nat) : s.l2Fill pa 2 = s := by
  unfold State.l2Fill
  simp

theorem State.readyLine_unmarked {s : State} (h : s.clear = []) (pa : Nat) : { s.readyLine pa 2 with touched := s.touched } = s := by
  unfold State.readyLine
  dsimp only
  rw [State.l2Fill_streamed]
  have hm : ∀ ts, ¬ State.marked { s with touched := ts } pa = true := fun ts => by simp [State.marked, h]
  split
  · rw [if_neg (by simp), if_neg (hm _)]
  · rw [if_neg (by simp), if_neg (hm s.touched)]

theorem State.readyLine_chips (s : State) (pa : Nat) : (s.readyLine pa 2).chips = s.chips := by
  unfold State.readyLine
  dsimp only
  rw [State.l2Fill_streamed]
  split <;> split <;> split <;> rfl

/-- A write past L2 leaves the packages as they are. -/
theorem State.poke_chips (s : State) (pa n v : Nat) : (s.poke pa n v 2).chips = s.chips := by
  unfold State.poke
  split
  · rfl
  · dsimp only
    have h1 := State.readyLine_chips (s.keepOld pa n) pa
    have h2 : (s.keepOld pa n).chips = s.chips := (congrArg State.chips (s.keepOld_rest pa n) :)
    unfold State.wakeWatch
    split <;> exact h1.trans h2

section
variable {s : State} (hc : s.clear = []) {pa : Nat} (h : pa < 2 ^ 56)
include hc h

theorem State.poke_unmarked (n v : Nat) :
    { s.poke pa n v 2 with touched := s.touched, olds := s.olds, vds := s.vds } = { s with mem := s.mem.writeBytes pa (leBytes n v) } := by
  have h1 := s.keepOld_rest pa n
  have hk : (s.keepOld pa n).clear = [] := (congrArg State.clear h1 :).trans hc
  have h2 := State.readyLine_unmarked hk pa
  unfold State.poke
  split
  next k off hr => exact absurd hr (regionOf_ne_window h k off)
  · dsimp only
    have h3 : { (s.keepOld pa n).readyLine pa 2 with touched := s.touched, olds := s.olds } = s := by
      rw [← h2] at h1
      exact (congrArg (fun t : State => { t with touched := s.touched }) h1 :)
    have h4 := congrArg (fun t : State => { t with mem := t.mem.writeBytes pa (leBytes n v) }) h3
    unfold State.wakeWatch
    split
    · exact (congrArg (fun t : State => { t with vds := s.vds }) h4 :)
    · exact (congrArg (fun t : State => { t with vds := s.vds }) h4 :)

theorem State.peek_unmarked (n : Nat) : s.peek pa n = s.mem.readNat pa n := by
  unfold State.peek
  split
  next k off hr => exact absurd hr (regionOf_ne_window h k off)
  · rw [if_neg (by simp [State.marked, hc])]

end

/-! ### The copy of a scratchpad -/

/-- Between the scratchpads at `A` and `B`, a copy from the state `s` has come to the state `y`. -/
structure Copies (s y : State) (A : Nat) : Prop where
  clear : y.clear = []
  wf : y.mem.wf = true
  bad : ∀ i, i < 8192 → y.isBad (A + 8 * i) = s.isBad (A + 8 * i)
  src : ∀ x, A ≤ x → x < A + 0x10000 → y.mem.read x = s.mem.read x

/-- The value of a word in the spare. -/
def State.spareWord (s : State) (A i : Nat) : Nat := if s.isBad (A + 8 * i) then 0 else s.mem.readNat (A + 8 * i) 8

theorem Memory.readNat_congr {m m' : Memory} {a n : Nat} (h : ∀ x, a ≤ x → x < a + n → m'.read x = m.read x) :
    m'.readNat a n = m.readNat a n := by
  unfold Memory.readNat Memory.readBytes
  rw [tab_congr fun j hj => h (a + j) (by omega) (by omega)]

theorem leNat_lt (bs : List Byte) : leNat bs < 2 ^ (8 * bs.length) := by
  induction bs with
  | nil => simp [leNat]
  | cons b bs ih =>
    have hb := b.isLt
    rw [leNat, List.length_cons, show 8 * (bs.length + 1) = 8 + 8 * bs.length by omega, Nat.pow_add]
    omega

theorem Memory.readNat_lt (m : Memory) (a n : Nat) : m.readNat a n < 2 ^ (8 * n) := by
  have h := leNat_lt (m.readBytes a n)
  rwa [Memory.readBytes, tab_length] at h

theorem State.isBad_congr {s t : State} (h1 : t.bad = s.bad) (h2 : t.clear = s.clear) (h3 : t.chips = s.chips) (pa : Nat) :
    t.isBad pa = s.isBad pa := by
  unfold State.isBad State.pcFailed State.marked
  rw [h1, h2]
  simp only [State.chip, h3]

section
variable {s y : State} {A B : Nat} (hA : A + 0x10000 ≤ 2 ^ 56) (hB : B + 0x10000 ≤ 2 ^ 56) (hy : Copies s y A) {i : Nat} (hi : i < 8192)
include hA hB hy hi

/-- One word copied. -/
theorem Copies.copySpare_rest : { y.copySpare A B i with touched := y.touched, olds := y.olds, vds := y.vds, fe := y.fe } =
    { y with mem := y.mem.writeBytes (B + 8 * i) (leBytes 8 (s.spareWord A i)) } := by
  have hp : B + 8 * i < 2 ^ 56 := by omega
  have hv : (if y.isBad (A + 8 * i) then 0 else y.peek (A + 8 * i) 8) = s.spareWord A i := by
    rw [State.spareWord, hy.bad i hi, State.peek_unmarked hy.clear (by omega)]
    rw [Memory.readNat_congr fun x h1 h2 => hy.src x (by omega) (by omega)]
  unfold State.copySpare
  dsimp only
  split at hv
  next hb => rw [if_pos hb, ← hv]; exact (congrArg (fun t : State => { t with fe := y.fe }) (State.poke_unmarked hy.clear hp 8 0) :)
  next hb =>
    rw [if_neg hb, ← hv]
    exact (congrArg (fun t : State => { t with fe := y.fe }) (State.poke_unmarked hy.clear hp 8 (y.peek (A + 8 * i) 8)) :)

theorem Copies.copySpare_mem : (y.copySpare A B i).mem = y.mem.writeBytes (B + 8 * i) (leBytes 8 (s.spareWord A i)) :=
  (congrArg State.mem (Copies.copySpare_rest hA hB hy hi) :)

theorem Copies.step_word {j : Nat} : (y.copySpare A B i).mem.readNat (B + 8 * j) 8 =
    if j = i then s.spareWord A i else y.mem.readNat (B + 8 * j) 8 := by
  rw [Copies.copySpare_mem hA hB hy hi]
  split
  next h =>
    subst h
    have hlt : s.spareWord A j < 2 ^ (8 * 8) := by
      unfold State.spareWord
      split
      · exact Nat.two_pow_pos _
      · exact Memory.readNat_lt _ _ _
    rw [Memory.readNat_writeBytes hy.wf, Nat.mod_eq_of_lt hlt]
  next h =>
    exact Memory.readNat_congr fun x h1 h2 => Memory.read_writeBytes_out _ _ (by rw [leBytes_length]; omega)

variable (hd : A + 0x10000 ≤ B ∨ B + 0x10000 ≤ A)
include hd

theorem Copies.step : Copies s (y.copySpare A B i) A := by
  have hr := Copies.copySpare_rest hA hB hy hi
  have hm := Copies.copySpare_mem hA hB hy hi
  have hc : (y.copySpare A B i).clear = y.clear := (congrArg State.clear hr :)
  refine ⟨hc.trans hy.clear, ?_, fun j hj => ?_, fun x h1 h2 => ?_⟩
  · rw [hm]; exact Memory.wf_writeBytes _ _ hy.wf
  · rw [← hy.bad j hj]; exact State.isBad_congr (congrArg State.bad hr :) hc (congrArg State.chips hr :) _
  · rw [hm, Memory.read_writeBytes_out _ _ (by rw [leBytes_length]; omega), hy.src x h1 h2]

end

/-- Words copied are in the spare, and the others as they were. -/
theorem Copies.foldl {s : State} {A B : Nat} (hA : A + 0x10000 ≤ 2 ^ 56) (hB : B + 0x10000 ≤ 2 ^ 56)
    (hd : A + 0x10000 ≤ B ∨ B + 0x10000 ≤ A) {ws : List Nat} (hw : ∀ i ∈ ws, i < 8192) {y : State} (hy : Copies s y A) (j : Nat) :
    (ws.foldl (fun s i => s.copySpare A B i) y).mem.readNat (B + 8 * j) 8 =
      (if j ∈ ws then s.spareWord A j else y.mem.readNat (B + 8 * j) 8) ∧ (ws.foldl (fun s i => s.copySpare A B i) y).clear = [] := by
  induction ws generalizing y with
  | nil => exact ⟨rfl, hy.clear⟩
  | cons i ws ih =>
    have hi := hw i List.mem_cons_self
    obtain ⟨h1, h2⟩ := ih (fun x hx => hw x (List.mem_cons_of_mem i hx)) (Copies.step hA hB hy hi hd)
    refine ⟨?_, h2⟩
    rw [List.foldl_cons, h1, Copies.step_word hA hB hy hi]
    by_cases hj : j ∈ ws
    · rw [if_pos hj, if_pos (List.mem_cons_of_mem i hj)]
    · rw [if_neg hj]
      by_cases he : j = i
      · subst he; rw [if_pos rfl, if_pos List.mem_cons_self]
      · rw [if_neg he, if_neg (by simp [he, hj])]

/-! ### The words that a scratchpad holds -/

theorem Memory.mem_of_read_ne {m : Memory} {a : Nat} (h : m.read a ≠ 0) : ∃ c ∈ m, c.1 = a := by
  induction m with
  | nil => exact absurd rfl h
  | cons c m ih =>
    by_cases hc : a = c.1
    · exact ⟨c, List.mem_cons_self, hc.symm⟩
    · rw [Memory.read, if_neg hc] at h
      obtain ⟨d, hd, he⟩ := ih h
      exact ⟨d, List.mem_cons_of_mem c hd, he⟩

theorem leNat_zeros (bs : List Byte) (h : ∀ b ∈ bs, b = 0) : leNat bs = 0 := by
  induction bs with
  | nil => rfl
  | cons b bs ih =>
    rw [leNat, ih fun x hx => h x (List.mem_cons_of_mem b hx), h b List.mem_cons_self]
    rfl

/-- Whether a word has anything that a copy must carry. -/
theorem State.mem_usedWords {s : State} {base i : Nat} (hb : base % 8 = 0) (hi : i < 8192)
    (h : (∃ c ∈ s.mem, c.1 / 8 = base / 8 + i) ∨ ∃ x ∈ s.bad, x.1 = base / 8 + i) : i ∈ s.usedWords base := by
  refine List.mem_map.2 ⟨base / 8 + i, List.mem_eraseDups.2 ?_, by omega⟩
  rw [List.mem_append, List.mem_append]
  rcases h with ⟨c, hc, he⟩ | ⟨x, hx, he⟩
  · exact .inl (.inl (List.mem_map.2 ⟨c, List.mem_filter.2 ⟨hc, by simp only [decide_eq_true_eq]; omega⟩, he⟩))
  · exact .inr (List.mem_filter.2 ⟨List.mem_map.2 ⟨x, hx, he⟩, by simp only [decide_eq_true_eq]; omega⟩)

theorem State.usedWords_lt {s : State} {base : Nat} (hb : base % 8 = 0) {i : Nat} (h : i ∈ s.usedWords base) : i < 8192 := by
  obtain ⟨w, hw, rfl⟩ := List.mem_map.1 h
  rw [List.mem_eraseDups, List.mem_append, List.mem_append] at hw
  rcases hw with (hw | hw) | hw
  · obtain ⟨c, hc, rfl⟩ := List.mem_map.1 hw
    have := (List.mem_filter.1 hc).2
    simp only [decide_eq_true_eq] at this
    omega
  · have := (List.mem_filter.1 hw).2
    simp only [decide_eq_true_eq] at this
    omega
  · have := (List.mem_filter.1 hw).2
    simp only [decide_eq_true_eq] at this
    omega

/-- A word that is not among them is readable and reads zero. -/
theorem State.spareWord_unused {s : State} {A i : Nat} (hA : A % 8 = 0) (hi : i < 8192) (h : i ∉ s.usedWords A) :
    s.spareWord A i = 0 := by
  unfold State.spareWord
  split
  · rfl
  · refine leNat_zeros _ fun b hb => ?_
    obtain ⟨j, hj, rfl⟩ := mem_tab.1 hb
    by_contra hne
    obtain ⟨c, hc, he⟩ := Memory.mem_of_read_ne hne
    exact h (State.mem_usedWords hA hi (.inl ⟨c, hc, by omega⟩))

/-! ### CORE_MAP_REWRITE -/

/-- The state once the words that the scratchpad at `A` holds are in the one at `B`. -/
def State.copyScratch (s : State) (A B : Nat) : State :=
  (s.usedWords A).foldl (fun s i => s.copySpare A B i) (s.clearBlock B 0x10000)

/-- The state once the words of a core's scratchpad are in the spare's. -/
def State.copied (s : State) (k new : Nat) : State := s.copyScratch (scratchPa k 0) (scratchPa new 0)

/-- The words that a repair's report names as lost. -/
def State.lostWords (s : State) (k : Nat) : List Nat :=
  (((s.usedWords (scratchPa k 0)).filter fun i => s.isBad (scratchPa k 0 + 8 * i)).map fun i => scratchPa k 0 + 8 * i) ++
    ((s.core k).lanesBad.filter fun i => decide (i < 2048)).map laneWord

/-- The state in which the core `new` has taken over from `k`, in the slots of the cluster `node`. -/
def State.takenOver (s : State) (k new node slot j : Nat) (c : Core) : State :=
  ((s.setCore new (c.spareOf (s.core new))).updCore k fun c => { c with chan := { c.chan with queue := [] } }).updClu node
    fun u => { u with repair := none, map := u.map.map fun i => if i = slot then j else i }

theorem State.copySpare_served (s : State) (A B i : Nat) : Served s (s.copySpare A B i) := by
  unfold State.copySpare
  dsimp only
  split <;> exact (Served.poke _ _ _ _ _).trans (Served.setFull _ _ _)

theorem State.clearBlock_served (s : State) (base size : Nat) : Served s (s.clearBlock base size) := .of_around rfl

theorem State.copyScratch_served (s : State) (A B : Nat) : Served s (s.copyScratch A B) :=
  (s.clearBlock_served B 0x10000).trans (.foldl (fun s i => s.copySpare_served A B i) _ _)

theorem State.foldl_copySpare_chips (A B : Nat) (ws : List Nat) (s : State) :
    (ws.foldl (fun s i => s.copySpare A B i) s).chips = s.chips := by
  induction ws generalizing s with
  | nil => rfl
  | cons i ws ih =>
    rw [List.foldl_cons, ih]
    unfold State.copySpare
    dsimp only
    split <;> exact State.poke_chips _ _ _ _

theorem State.copyScratch_chips (s : State) (A B : Nat) : (s.copyScratch A B).chips = s.chips :=
  State.foldl_copySpare_chips A B _ _

section
variable {s : State}

theorem exec_coreMapRewrite_none (h : (s.clu s.repairNode).repair ≠ some s.arg.slot) : exec .coreMapRewrite s = .next s := by
  simp only [State.repairNode] at h
  simp only [exec, execCoreMapRewrite, if_pos h]

theorem exec_coreMapRewrite (h : (s.clu s.repairNode).repair = some s.arg.slot) {j : Nat} (hj : (s.clu s.repairNode).spareSlot = some j) :
    let new := coreKey s.arg.chip s.arg.node j
    exec .coreMapRewrite s = .next (((s.copied s.repairKey new).takenOver s.repairKey new s.repairNode s.arg.slot j
      (s.core s.repairKey)).reported s.arg.chip (s.core s.repairKey).owner 1 (windowOf s.repairKey) 1 (s.lostWords s.repairKey)) := by
  have hn : ¬ (s.clu s.repairNode).repair ≠ some s.arg.slot := by simp [h]
  intro new
  have ha : (s.copied s.repairKey new).arg = s.arg := (s.copyScratch_served _ _).arg_eq
  have e : exec .coreMapRewrite s = .next (((s.copied s.repairKey new).takenOver s.repairKey new s.repairNode
      (s.copied s.repairKey new).arg.slot j (s.core s.repairKey)).reported (s.copied s.repairKey new).arg.chip
      (s.core s.repairKey).owner 1 (windowOf s.repairKey) 1 (s.lostWords s.repairKey)) := by
    simp only [State.repairNode] at hn hj
    simp only [exec, execCoreMapRewrite, if_neg hn, hj, State.copied, State.copyScratch, State.lostWords, State.repairNode, State.repairKey,
      new]
    generalize scratchPa (coreKey s.arg.chip s.arg.node s.arg.slot) 0 = A
    generalize scratchPa (coreKey s.arg.chip s.arg.node j) 0 = B
    generalize List.foldl _ (s.clearBlock B _) _ = X
    rfl
  rw [e, ha]

end

/-- The spare is another core of the cluster. -/
theorem Cluster.spareSlot_ne {u : Cluster} {i j : Nat} (hj : u.spareSlot = some j) (hi : i ∈ u.map) : j < 9 ∧ j ≠ i := by
  have h1 := List.mem_of_find?_eq_some hj
  have h2 := List.find?_some hj
  refine ⟨by simpa [mem_tab] using h1, ?_⟩
  rintro rfl
  simp [hi] at h2

/-- Lane slices with unreadable words cleared. -/
theorem read_foldl_clear (ws : List Nat) (m : Memory) (a : Nat) :
    (ws.foldl (fun m i => m.clear (8 * i) 8) m).read a = if ∃ i ∈ ws, a / 8 = i then 0 else m.read a := by
  induction ws generalizing m with
  | nil => simp
  | cons i ws ih =>
    rw [List.foldl_cons, ih, Memory.read_clear]
    by_cases h : ∃ i ∈ ws, a / 8 = i
    · rw [if_pos h, if_pos (by obtain ⟨x, hx, he⟩ := h; exact ⟨x, List.mem_cons_of_mem i hx, he⟩)]
    · rw [if_neg h]
      by_cases hi : a / 8 = i
      · rw [if_pos (by omega), if_pos ⟨i, List.mem_cons_self, hi⟩]
      · rw [if_neg (by omega), if_neg]
        rintro ⟨x, hx, he⟩
        rcases List.mem_cons.1 hx with rfl | hx
        · exact hi he
        · exact h ⟨x, hx, he⟩

theorem Core.spareOf_lanes (c d : Core) (a : Nat) :
    (c.spareOf d).lanes.read a = if ∃ i ∈ c.lanesBad, i < 2048 ∧ a / 8 = i then 0 else c.lanes.read a := by
  have h : (c.spareOf d).lanes = (c.lanesBad.filter fun i => decide (i < 2048)).foldl (fun m i => m.clear (8 * i) 8) c.lanes := rfl
  rw [h, read_foldl_clear]
  simp only [List.mem_filter, decide_eq_true_eq, and_assoc]

section
variable (s : State) {k new : Nat} (hk : k ≠ new) (node slot j : Nat) (c : Core)
include hk

theorem State.takenOver_old : (s.takenOver k new node slot j c).core k =
    { s.core k with chan := { (s.core k).chan with queue := [] } } := by
  have h : (s.takenOver k new node slot j c).core k = ((s.setCore new (c.spareOf (s.core new))).updCore k fun c =>
    { c with chan := { c.chan with queue := [] } }).core k := rfl
  rw [h, State.core_updCore, State.core_setCore_ne s _ hk]

theorem State.takenOver_new : (s.takenOver k new node slot j c).core new = c.spareOf (s.core new) := by
  have h : (s.takenOver k new node slot j c).core new = ((s.setCore new (c.spareOf (s.core new))).updCore k fun c =>
    { c with chan := { c.chan with queue := [] } }).core new := rfl
  rw [h, State.core_updCore_ne _ _ hk.symm, State.core_setCore]

end

theorem State.takenOver_clu (s : State) (k new node slot j : Nat) (c : Core) : (s.takenOver k new node slot j c).clu node =
    { s.clu node with repair := none, map := (s.clu node).map.map fun i => if i = slot then j else i } :=
  State.clu_updClu ((s.setCore new (c.spareOf (s.core new))).updCore k fun c => { c with chan := { c.chan with queue := [] } }) node _

/-- The spare's scratchpad after the copy. -/
theorem State.copied_word {s : State} {k new : Nat} (hk : keyChip k < 512) (hn : keyChip new < 512) (hc : keyChip new = keyChip k)
    (hw : windowOf new ≠ windowOf k) (hm : s.mem.wf = true) (hl : s.clear = []) {i : Nat} (hi : i < 8192) :
    (s.copied k new).clear = [] ∧ (s.copied k new).mem.readNat (scratchPa new (8 * i)) 8 =
      if s.isBad (scratchPa k (8 * i)) then 0 else s.peek (scratchPa k (8 * i)) 8 := by
  have h1 := scratchPa_end hk
  have h2 := scratchPa_end hn
  have hd : scratchPa k 0 + 0x10000 ≤ scratchPa new 0 ∨ scratchPa new 0 + 0x10000 ≤ scratchPa k 0 := by unfold scratchPa; omega
  have hak : ∀ i, scratchPa k 0 + 8 * i = scratchPa k (8 * i) := fun i => by unfold scratchPa; omega
  have han : scratchPa new 0 + 8 * i = scratchPa new (8 * i) := by unfold scratchPa; omega
  have h8k : scratchPa k 0 % 8 = 0 := by unfold scratchPa; omega
  have h8n : scratchPa new 0 % 8 = 0 := by unfold scratchPa; omega
  have start : Copies s (s.clearBlock (scratchPa new 0) 0x10000) (scratchPa k 0) := by
    refine ⟨hl, Memory.wf_clear _ _ hm, fun j hj => ?_, fun x hx1 hx2 => ?_⟩
    · rw [hak]
      unfold State.isBad
      rw [State.pcFailed_scratch _ hk (by omega), State.pcFailed_scratch _ hk (by omega)]
      have hin : ((s.clearBlock (scratchPa new 0) 0x10000).bad.contains (scratchPa k (8 * j) / 8, true)) =
          s.bad.contains (scratchPa k (8 * j) / 8, true) := by
        rw [Bool.eq_iff_iff, List.contains_iff_mem, List.contains_iff_mem]
        refine ⟨fun h => (List.mem_filter.1 h).1, fun h => List.mem_filter.2 ⟨h, ?_⟩⟩
        rw [← hak]
        simp only [Bool.not_eq_true', decide_eq_false_iff_not]
        omega
      rw [hin]
      rfl
    · have hr := Memory.read_clear s.mem (scratchPa new 0) 0x10000 x
      rw [if_neg (by omega)] at hr
      exact hr
  have hclr : s.copied k new = (s.usedWords (scratchPa k 0)).foldl (fun s i => s.copySpare (scratchPa k 0) (scratchPa new 0) i)
      (s.clearBlock (scratchPa new 0) 0x10000) := by rw [State.copied, State.copyScratch]
  obtain ⟨hword, hclear⟩ := Copies.foldl h1 h2 hd (fun i hi => State.usedWords_lt h8k hi) start i
  rw [hclr]
  refine ⟨hclear, ?_⟩
  rw [← han, hword]
  have hval : s.spareWord (scratchPa k 0) i = if s.isBad (scratchPa k (8 * i)) then 0 else s.peek (scratchPa k (8 * i)) 8 := by
    rw [State.spareWord, hak, State.peek_unmarked hl (scratchPa_lt hk (by omega))]
  split
  · exact hval
  next h =>
    rw [← hval, State.spareWord_unused h8k hi h]
    have hz : (s.clearBlock (scratchPa new 0) 0x10000).mem.readNat (scratchPa new 0 + 8 * i) 8 = Memory.readNat [] 0 8 := by
      unfold Memory.readNat Memory.readBytes
      rw [tab_congr fun j hj => ?_]
      have hr := Memory.read_clear s.mem (scratchPa new 0) 0x10000 (scratchPa new 0 + 8 * i + j)
      rw [if_pos (by omega)] at hr
      exact hr
    rw [hz]; rfl

end Sys2Proof.Machine
end

section
/-! The windows of the memory controllers (R453 to R455), requests of the host (R475 to R478), and the power of a package (R480 to
R483). -/

namespace Sys2Proof.Machine

/-! ### Tables -/

theorem AMap.find?_map {α : Type} (f : Nat → α → α) (m : AMap α) (k : Nat) :
    AMap.find? (m.map fun x => (x.1, f x.1 x.2)) k = (AMap.find? m k).map (f k) := by
  induction m with
  | nil => rfl
  | cons x m ih =>
    obtain ⟨j, v⟩ := x
    by_cases h : k = j
    · subst h; simp [AMap.find?]
    · simp only [List.map_cons, AMap.find?, if_neg h, ih]

theorem AMap.find?_filter {α : Type} (p : Nat → Bool) (m : AMap α) (k : Nat) :
    AMap.find? (List.filter (fun x : Nat × α => p x.1) m) k = if p k then AMap.find? m k else none := by
  induction m with
  | nil => simp [AMap.find?]
  | cons x m ih =>
    obtain ⟨j, v⟩ := x
    by_cases h : k = j
    · subst h
      by_cases hp : p k = true
      · simp [hp, AMap.find?]
      · simp only [List.filter_cons, hp, ih, Bool.false_eq_true, if_false]
    · by_cases hp : p j = true
      · simp only [List.filter_cons, hp, if_true, AMap.find?, if_neg h, ih]
      · simp only [List.filter_cons, hp, Bool.false_eq_true, if_false, AMap.find?, if_neg h, ih]

/-- A key that no entry has. -/
theorem AMap.find?_none {α : Type} {m : AMap α} {k : Nat} (h : ∀ x ∈ m, x.1 ≠ k) : AMap.find? m k = none := by
  induction m with
  | nil => rfl
  | cons x m ih =>
    obtain ⟨j, v⟩ := x
    rw [AMap.find?, if_neg (Ne.symm (h (j, v) List.mem_cons_self)), ih fun y hy => h y (List.mem_cons_of_mem _ hy)]

/-! ### The memory controllers -/

/-- A bank whose stack's refresh window has ended. -/
def Bank.refreshed (stack key : Nat) (b : Bank) : Bank := if key / 2048 = stack then { b with counts := [], events := [] } else b

theorem exec_refreshWindow (s : State) : exec .refreshWindow s = .next (s.updChip s.arg.chip fun c =>
    { c with banks := c.banks.map fun x => (x.1, x.2.refreshed (s.arg.stack % 8) x.1) }) := by
  have h : (fun x : Nat × Bank => if x.1 / 2048 = s.arg.stack % 8 then (x.1, { x.2 with counts := [], events := [] }) else x) =
      fun x => (x.1, x.2.refreshed (s.arg.stack % 8) x.1) := funext fun x => by
    unfold Bank.refreshed
    split <;> rfl
  simp only [exec, execRefreshWindow, h]

section
variable (s : State)

/-- The bank that an event names, and the activations of its row for a virtual device. -/
def State.namedBank : Bank := AMap.get (s.chip s.arg.chip).banks {} (bankKey s.arg)
def State.rowCount : Nat := ((s.namedBank.counts.find? fun x => x.1 == (s.arg.row, s.arg.vd)).map Prod.snd).getD 0

/-- The bank once a row's tenant is parked. -/
def State.parkedBank : Bank :=
  { s.namedBank with
    counts := s.namedBank.counts.filter fun x => x.1 != (s.arg.row, s.arg.vd)
    events := AMap.put s.namedBank.events s.arg.vd (AMap.get s.namedBank.events 0 s.arg.vd + 1)
    parked := s.namedBank.parked.filter (fun x => x.1 != s.arg.vd) ++ [(s.arg.vd, s.now + 2048)] }

/-- The state in which a row's tenant is parked and charged. -/
def State.rowParked : State :=
  s.updChip s.arg.chip fun c => { c.countLines s.now (s.arg.vd * 16 + s.arg.stack % 8) 64 with
    banks := AMap.put c.banks (bankKey s.arg) s.parkedBank }

/-- What the hypervisor is told of it. -/
def State.rowEvent : List Word :=
  [BitVec.ofNat 64 (s.arg.vd * 2 ^ 48 + s.arg.stack % 8 * 2 ^ 45 + s.arg.pc % 63 * 2 ^ 39 + s.arg.bank % 32 * 2 ^ 34 +
    s.arg.row % 2 ^ 18 * 2 ^ 16 + min (AMap.get s.namedBank.events 0 s.arg.vd + 1) 0xFFFF), BitVec.ofNat 64 s.now]

variable {s}

theorem exec_rowThrottle_below (h : s.rowCount < (s.chip s.arg.chip).rhth.getD (s.arg.stack % 8) 0) :
    exec .rowThrottleEvent s = .next s := by
  simp only [State.rowCount, State.namedBank] at h
  simp only [exec, execRowThrottleEvent, if_pos h]

theorem exec_rowThrottle (h : (s.chip s.arg.chip).rhth.getD (s.arg.stack % 8) 0 ≤ s.rowCount) :
    exec .rowThrottleEvent s = .next (s.rowParked.ringEntry s.arg.chip 1 s.arg.vd s.rowEvent) := by
  have h := Nat.not_lt.2 h
  simp only [State.rowCount, State.namedBank] at h
  simp only [exec, execRowThrottleEvent, if_neg h]
  rfl

end

/-! ### Requests of the host (R475 to R478) -/

/-- Only the connections, the answers and the requests in progress. -/
def State.ofLink (s t : State) : State := { t with conns := s.conns, answers := s.answers, hostQ := s.hostQ }

/-- From `s` to `t` only the host link has changed. -/
def LinkOnly (s t : State) : Prop := s.ofLink t = s

theorem find?_append_filter {s : List Conn} {conn : Nat} {c : Conn} (h : c.conn = conn) :
    (s.filter (fun c => c.conn != conn) ++ [c]).find? (fun c => c.conn == conn) = some c := by
  rw [List.find?_append, List.find?_eq_none.2 fun x hx => by simpa using (List.mem_filter.1 hx).2]
  simp [h]

theorem find?_map_conn {cs : List Conn} {f : Conn → Conn} (hf : ∀ c, (f c).conn = c.conn) (conn : Nat) :
    (cs.map f).find? (fun c => c.conn == conn) = (cs.find? fun c => c.conn == conn).map f := by
  induction cs with
  | nil => rfl
  | cons c cs ih =>
    simp only [List.map_cons, List.find?_cons, hf]
    split <;> simp_all

/-- The record of a connection, or a new one's. -/
def State.conn (s : State) (conn vd : Nat) : Conn := (s.conns.find? fun c => c.conn == conn).getD ⟨conn, s.arg.chip, vd, 0, 0⟩

theorem State.conn_conn (s : State) (conn vd : Nat) : (s.conn conn vd).conn = conn := by
  unfold State.conn
  cases h : s.conns.find? fun c => c.conn == conn with
  | none => rfl
  | some c => simpa using List.find?_some h

theorem State.setConn_find (s : State) (conn vd next : Nat) :
    ((s.setConn conn vd next).conns.find? fun c => c.conn == conn) = some { s.conn conn vd with next := next % 2 ^ 32 } :=
  find?_append_filter (s.conn_conn conn vd)

theorem State.outOf_eq (s : State) (conn vd : Nat) : s.outOf conn = (s.conn conn vd).sent := by
  unfold State.outOf State.conn
  cases s.conns.find? fun c => c.conn == conn <;> rfl

/-- A connection set twice, and its record in between. -/
theorem State.setConn_conn (s : State) (conn vd next vd' : Nat) :
    (s.setConn conn vd next).conn conn vd' = { s.conn conn vd with next := next % 2 ^ 32 } := by
  rw [State.conn, State.setConn_find]; rfl

section
variable (s : State) (h : Header) (status : Nat) (data : List Word) (bytes : List Byte)

theorem State.hostAnswer_link : LinkOnly s (s.hostAnswer h status data bytes) := rfl
theorem State.hostAnswer_hostQ : ∀ q ∈ (s.hostAnswer h status data bytes).hostQ, q.head.conn ≠ h.conn := by
  intro q hq
  simpa using (List.mem_filter.1 hq).2

/-- The connection of a request that has been answered. -/
theorem State.hostAnswer_find : ((s.hostAnswer h status data bytes).conns.find? fun c => c.conn == h.conn) =
    some { s.conn h.conn (s.connOf h.conn h.vd h.seq).1 with
      next := (h.seq + 1) % 2 ^ 32, sent := (s.outOf h.conn + 1) % 2 ^ 32 } := by
  have hc : (s.hostAnswer h status data bytes).conns = (s.setConn h.conn (s.connOf h.conn h.vd h.seq).1 (h.seq + 1)).conns.map fun c =>
    if c.conn = h.conn then { c with sent := (c.sent + 1) % 2 ^ 32 } else c := rfl
  rw [hc, find?_map_conn (fun c => by split <;> rfl), State.setConn_find, Option.map_some, s.outOf_eq h.conn (s.connOf h.conn h.vd h.seq).1]
  rw [if_pos (s.conn_conn h.conn _)]

theorem State.hostAnswer_answers : (s.hostAnswer h status data bytes).answers = s.answers ++ [⟨h, s.outOf h.conn, status, data, bytes⟩] := by
  have hc : (s.hostAnswer h status data bytes).answers =
    s.answers ++ [⟨h, (s.setConn h.conn (s.connOf h.conn h.vd h.seq).1 (h.seq + 1)).outOf h.conn, status, data, bytes⟩] := rfl
  rw [hc, State.outOf_eq _ h.conn 0, State.setConn_conn, s.outOf_eq h.conn (s.connOf h.conn h.vd h.seq).1]

end

/-- The state in which a request is taken up. -/
def State.linked (s : State) : State := s.setConn s.arg.conn s.arg.vd s.arg.seq

theorem State.linked_link (s : State) : LinkOnly s s.linked := rfl

section
variable {s : State} {op : Nat} (h : s.takesUp op)
include h

theorem State.hostRequest_takesUp (act : Header → State → State) : s.hostRequest op act = act (s.header op) s.linked := by
  obtain ⟨hp, hw, hc, ho, hv, ha, hon⟩ := h
  unfold State.hostRequest
  dsimp only
  rw [hc, if_neg (by simp [hp, hw]), if_neg (by rintro ⟨h1, h2⟩; exact hon.elim h1 h2), if_neg]
  · rfl
  · rintro (h1 | h1 | h1 | h1)
    · simp [ho] at h1
    · exact h1 rfl
    · exact h1 hv
    · omega

/-- A request answered after a change that leaves the link alone. -/
theorem State.answered_of (f : State) (hf : f.conns = s.linked.conns) (ha : f.answers = s.answers) (harg : f.arg = s.arg)
    (status : Nat) (data : List Word) (bytes : List Byte) : Answered s (f.hostAnswer (s.header op) status data bytes) op status data bytes := by
  obtain ⟨-, -, hc, -⟩ := h
  have hconn : ∀ vd, f.conn s.arg.conn vd = { s.conn s.arg.conn s.arg.vd with next := s.arg.seq % 2 ^ 32 } := fun vd => by
    rw [← s.setConn_conn s.arg.conn s.arg.vd s.arg.seq vd, State.conn, State.conn, hf, harg]
    rfl
  have hvd : (s.conn s.arg.conn s.arg.vd).vd = s.arg.vd := by
    unfold State.conn
    unfold State.connOf at hc
    cases hfind : s.conns.find? fun c => c.conn == s.arg.conn with
    | none => rfl
    | some c => rw [hfind] at hc; exact (Prod.mk.inj hc).1
  have hout : f.outOf s.arg.conn = s.outOf s.arg.conn := by
    rw [f.outOf_eq s.arg.conn s.arg.vd, hconn, s.outOf_eq s.arg.conn s.arg.vd]
  have hfind := f.hostAnswer_find (s.header op) status data bytes
  rw [show (s.header op).conn = s.arg.conn from rfl, hconn, hout] at hfind
  refine ⟨?_, ?_, ?_, f.hostAnswer_hostQ (s.header op) status data bytes⟩
  · rw [State.hostAnswer_answers, ha, show (s.header op).conn = s.arg.conn from rfl, hout]
  · rw [State.connOf, hfind]
    exact congrArg (fun n => (n, (s.arg.seq + 1) % 2 ^ 32)) hvd
  · rw [State.outOf, hfind]; rfl

end

end Sys2Proof.Machine
end

section
/-! The power of a package (R478 to R483). -/

namespace Sys2Proof.Machine

/-! ### The memory controllers' counts -/

theorem exec_budgetWindow (s : State) : exec .budgetWindow s = .next (s.updChip s.arg.chip fun c =>
    { c with budget := c.budgetIn s.now, budgetWin := s.now / 4096 }) := by
  simp only [exec, execBudgetWindow]

theorem exec_throttleEnd (s : State) : exec .throttleEnd s = .next (s.updChip s.arg.chip fun c =>
    { c with banks := AMap.put c.banks (bankKey s.arg) { AMap.get c.banks {} (bankKey s.arg) with
      parked := (AMap.get c.banks {} (bankKey s.arg)).parked.filter fun x => !(x.1 == s.arg.vd && decide (x.2 ≤ s.now)) } }) := by
  simp only [exec, execThrottleEnd]

/-! ### What a change of the host link keeps -/

theorem LinkOnly.trans {s t u : State} (h : LinkOnly s t) (h' : LinkOnly t u) : LinkOnly s u := by
  have e : s.ofLink u = s.ofLink (t.ofLink u) := rfl
  rw [LinkOnly, e, h', h]

section
variable {s t : State} (h : LinkOnly s t)
include h

theorem LinkOnly.mem : t.mem = s.mem := (congrArg State.mem h :)
theorem LinkOnly.cores : t.cores = s.cores := (congrArg State.cores h :)
theorem LinkOnly.chips : t.chips = s.chips := (congrArg State.chips h :)
theorem LinkOnly.chip (c : Nat) : t.chip c = s.chip c := by rw [State.chip, State.chip, h.chips]

end

/-! ### Commands granted and refused -/

/-- The bits that a power command's word may set. -/
def powerBits (cmd : Nat) : BitVec 56 := if cmd = 4 then 0xF000000000FFFF#56 else 0xF0000000000000#56

/-- The command word of a request asks for a power command. -/
def State.asksPower (s : State) (cmd : Nat) : Prop :=
  s.takesMgmt 4 (powerBits cmd) ∧ s.arg.addr = 0 ∧ fld (s.arg.words.headD 0).toNat 52 4 = cmd

/-- An instruction answers a MGMT request with success and leaves the package as `f`. -/
def Granted (s : State) (i : Instr) (f : Chip) : Prop :=
  ∃ t, exec i s = .next t ∧ Answered s t opMgmt 0 [] [] ∧ t.chip s.arg.chip = f ∧ t.mem = s.mem ∧ t.cores = s.cores

/-- An instruction answers a MGMT request with ACCESS. -/
def Refused (s : State) (i : Instr) : Prop :=
  ∃ t, exec i s = .next t ∧ Answered s t opMgmt 3 [] [] ∧ t.mem = s.mem ∧ t.cores = s.cores ∧
    ((s.chip s.arg.chip).power ≠ .training → t.chip s.arg.chip = s.chip s.arg.chip)

section
variable {s : State}

theorem State.mgmtRequest_taken {code : Nat} {used : BitVec 56} (h : s.takesMgmt code used) (act : Header → State → State) :
    s.mgmtRequest code used act = act (s.header opMgmt) s.linked := by
  obtain ⟨ht, hr, hc, hu⟩ := h
  have hb : ¬ ((s.chip s.arg.chip).power = .recovery ∨ fld (s.arg.words.headD 0).toNat 56 8 ≠ code ∨
      ((s.arg.words.headD 0).setWidth 56 &&& ~~~used) ≠ 0) := by
    rintro (h | h | h)
    exacts [hr h, h hc, h hu]
  rw [State.mgmtRequest, State.hostRequest_takesUp ht]
  exact if_neg hb

/-- A MGMT request answered ACCESS where it was taken up. -/
def State.denied (s : State) : State := s.linked.hostAnswer (s.header opMgmt) 3 [] []

theorem State.denied_answered (h : s.takesUp opMgmt) : Answered s s.denied opMgmt 3 [] [] :=
  State.answered_of h s.linked rfl rfl rfl 3 [] []

theorem State.denied_link (s : State) : LinkOnly s s.denied := s.linked_link.trans (s.linked.hostAnswer_link _ _ _ _)

theorem refused_of_denied {i : Instr} (h : s.takesUp opMgmt) (he : exec i s = .next s.denied) : Refused s i :=
  ⟨s.denied, he, State.denied_answered h, s.denied_link.mem, s.denied_link.cores, fun _ => s.denied_link.chip _⟩

/-- A MGMT request carried out by a change of its package alone. -/
def State.grants (s : State) (f : Chip → Chip) : State :=
  (s.linked.updChip s.arg.chip f).hostAnswer (s.header opMgmt) 0 [] []

theorem State.grants_answered (h : s.takesUp opMgmt) (f : Chip → Chip) : Answered s (s.grants f) opMgmt 0 [] [] :=
  State.answered_of h (s.linked.updChip s.arg.chip f) rfl rfl rfl 0 [] []

theorem State.grants_link (f : Chip → Chip) : LinkOnly (s.linked.updChip s.arg.chip f) (s.grants f) :=
  State.hostAnswer_link _ _ _ _ _

theorem State.grants_chip (f : Chip → Chip) : (s.grants f).chip s.arg.chip = f (s.chip s.arg.chip) := by
  rw [(State.grants_link f).chip, State.chip_updChip, s.linked_link.chip]
theorem State.grants_mem (f : Chip → Chip) : (s.grants f).mem = s.mem := by
  rw [(State.grants_link f).mem, State.updChip_mem, s.linked_link.mem]
theorem State.grants_cores (f : Chip → Chip) : (s.grants f).cores = s.cores := by
  rw [(State.grants_link f).cores, State.updChip_cores, s.linked_link.cores]

theorem granted_of_grants {i : Instr} (h : s.takesUp opMgmt) {f : Chip → Chip} (he : exec i s = .next (s.grants f)) :
    Granted s i (f (s.chip s.arg.chip)) := ⟨_, he, State.grants_answered h f, State.grants_chip f, State.grants_mem f, State.grants_cores f⟩

variable {cmd : Nat} (ok : State → Bool) (f : State → State)

theorem State.powerCommand_granted (h : s.asksPower cmd) (hok : ok s.linked = true) :
    s.powerCommand cmd ok f = (f s.linked).hostAnswer (s.header opMgmt) 0 [] [] := by
  obtain ⟨ht, ha, hc⟩ := h
  refine (State.mgmtRequest_taken ht _).trans (if_pos ⟨ha, hc, hok⟩)

theorem State.powerCommand_refused (h : s.takesMgmt 4 (powerBits cmd))
    (hb : ¬ (s.arg.addr = 0 ∧ fld (s.arg.words.headD 0).toNat 52 4 = cmd ∧ ok s.linked = true)) :
    s.powerCommand cmd ok f = s.denied := (State.mgmtRequest_taken h _).trans (if_neg hb)

end

/-! ### ENTER_ON (R482) -/

/-- The ports from a list once they have begun to retrain. -/
def Chip.retrainPorts (c : Chip) (now : Nat) (qs : List Nat) (t : AMap Port) : AMap Port :=
  qs.foldl (fun t q => AMap.put t q { c.port q with training := (c.port q).inService && !(c.port q).dead, since := now }) t

theorem Chip.retrain_eq (c : Chip) (now : Nat) : c.retrain now = c.retrainPorts now (tab 12 id) c.ports := rfl

theorem Chip.retrainPorts_get (c : Chip) (now q : Nat) (qs : List Nat) : ∀ t : AMap Port,
    AMap.get (c.retrainPorts now qs t) {} q = if q ∈ qs then
      { c.port q with training := (c.port q).inService && !(c.port q).dead, since := now } else AMap.get t {} q := by
  induction qs with
  | nil => intro t; rfl
  | cons j qs ih =>
    intro t
    refine (ih _).trans ?_
    by_cases hm : q ∈ qs
    · rw [if_pos hm, if_pos (List.mem_cons_of_mem _ hm)]
    by_cases hj : q = j
    · subst hj; rw [if_neg hm, if_pos List.mem_cons_self, AMap.get_put_self]
    · rw [if_neg hm, if_neg (by simp [hm, hj]), AMap.get_put_ne _ _ _ hj]

/-- A package that enters ON: its ports retrain. -/
def Chip.entersOn (now : Nat) (c : Chip) : Chip := { c with power := .training, ports := c.retrain now }

theorem Chip.entersOn_training (c : Chip) (now : Nat) : ((tab 12 id).all fun q => !((c.entersOn now).port q).training) =
    (tab 12 id).all fun q => !(c.port q).inService || (c.port q).dead := by
  rw [Bool.eq_iff_iff, List.all_eq_true, List.all_eq_true]
  refine forall₂_congr fun q hq => ?_
  have hp : ((c.entersOn now).port q).training = ((c.port q).inService && !(c.port q).dead) := by
    have h := c.retrainPorts_get now q (tab 12 id) c.ports
    rw [if_pos hq, ← Chip.retrain_eq] at h
    exact (congrArg Port.training h :)
  rw [hp]
  cases (c.port q).inService <;> simp

theorem State.trained_rest (s : State) (chip : Nat) : { s.trained chip with chips := s.chips } = s := by
  unfold State.trained
  dsimp only
  split <;> rfl

theorem Answered.trained {s t : State} {op status : Nat} {data : List Word} {bytes : List Byte} (h : Answered s t op status data bytes)
    (chip : Nat) : Answered s (t.trained chip) op status data bytes := by
  unfold State.trained
  dsimp only
  split
  exacts [h, h]

theorem State.trained_chip (s : State) (chip : Nat) : (s.trained chip).chip chip =
    if (s.chip chip).power = .training ∧ ((tab 12 id).all fun q => !((s.chip chip).port q).training) = true then
      { s.chip chip with power := .on } else s.chip chip := by
  unfold State.trained
  dsimp only
  split
  · exact State.chip_updChip s chip _
  · rfl

section
variable {s : State}

/-- STANDBY, as ENTER_ON and ENTER_OFF ask for it. -/
def State.standsBy (s : State) : Bool := (s.chip s.arg.chip).power == .standby

theorem State.linked_standsBy : s.linked.standsBy = true ↔ (s.chip s.arg.chip).power = .standby := beq_iff_eq

theorem exec_enterOn_eq : exec .enterOn s = .next ((s.powerCommand 1 State.standsBy fun t =>
    t.updChip t.arg.chip (Chip.entersOn t.now)).trained s.arg.chip) := by
  simp only [exec, execEnterOn]
  rfl

theorem exec_enterOn_granted (h : s.asksPower 1) (hp : (s.chip s.arg.chip).power = .standby) :
    exec .enterOn s = .next ((s.grants (Chip.entersOn s.now)).trained s.arg.chip) := by
  rw [exec_enterOn_eq, State.powerCommand_granted _ _ h (State.linked_standsBy.2 hp)]
  rfl

theorem enterOn_granted (h : s.asksPower 1) (hp : (s.chip s.arg.chip).power = .standby) :
    Granted s .enterOn { s.chip s.arg.chip with
      power := if (tab 12 id).all fun q => !((s.chip s.arg.chip).port q).inService || ((s.chip s.arg.chip).port q).dead then .on
        else .training
      ports := (s.chip s.arg.chip).retrain s.now } := by
  have hr := (s.grants (Chip.entersOn s.now)).trained_rest s.arg.chip
  refine ⟨_, exec_enterOn_granted h hp, (State.grants_answered h.1.1 _).trained _, ?_,
    (congrArg State.mem hr :).trans (State.grants_mem _), (congrArg State.cores hr :).trans (State.grants_cores _)⟩
  rw [State.trained_chip, State.grants_chip, Chip.entersOn_training]
  by_cases ha : ((tab 12 id).all fun q => !((s.chip s.arg.chip).port q).inService || ((s.chip s.arg.chip).port q).dead) = true
  · rw [if_pos ⟨rfl, ha⟩, if_pos ha]; rfl
  · rw [if_neg fun hc => ha hc.2, if_neg ha]; rfl

theorem enterOn_refused (h : s.takesMgmt 4 (powerBits 1)) (hb : ¬ (s.arg.addr = 0 ∧ fld (s.arg.words.headD 0).toNat 52 4 = 1 ∧
    (s.chip s.arg.chip).power = .standby)) : Refused s .enterOn := by
  have he : exec .enterOn s = .next (s.denied.trained s.arg.chip) := by
    rw [exec_enterOn_eq, State.powerCommand_refused _ _ h fun hc => hb ⟨hc.1, hc.2.1, State.linked_standsBy.1 hc.2.2⟩]
  have hr := s.denied.trained_rest s.arg.chip
  refine ⟨_, he, (State.denied_answered h.1).trained _, (congrArg State.mem hr :).trans s.denied_link.mem,
    (congrArg State.cores hr :).trans s.denied_link.cores, fun ht => ?_⟩
  rw [State.trained_chip, s.denied_link.chip, if_neg fun hc => ht hc.1]

/-! ### SET_MODULE_CAP (R483) and RECOVERY_IMAGE_WRITE (R480) -/

theorem exec_setModuleCap_eq : exec .setModuleCap s = .next (s.powerCommand 4
    (fun _ => decide (1500 ≤ fld (s.arg.words.headD 0).toNat 0 16 ∧ fld (s.arg.words.headD 0).toNat 0 16 ≤ 3200)) fun t =>
      t.updChip t.arg.chip fun c => { c with modCap := fld (s.arg.words.headD 0).toNat 0 16 }) := by
  simp only [exec, execSetModuleCap]

theorem setModuleCap_granted (h : s.asksPower 4) (h1 : 1500 ≤ fld (s.arg.words.headD 0).toNat 0 16)
    (h2 : fld (s.arg.words.headD 0).toNat 0 16 ≤ 3200) :
    Granted s .setModuleCap { s.chip s.arg.chip with modCap := fld (s.arg.words.headD 0).toNat 0 16 } := by
  refine granted_of_grants (f := fun c => { c with modCap := fld (s.arg.words.headD 0).toNat 0 16 }) h.1.1 ?_
  rw [exec_setModuleCap_eq, State.powerCommand_granted _ _ h (decide_eq_true ⟨h1, h2⟩)]
  rfl

theorem setModuleCap_refused (h : s.takesMgmt 4 (powerBits 4)) (hb : ¬ (s.arg.addr = 0 ∧ fld (s.arg.words.headD 0).toNat 52 4 = 4 ∧
    1500 ≤ fld (s.arg.words.headD 0).toNat 0 16 ∧ fld (s.arg.words.headD 0).toNat 0 16 ≤ 3200)) : Refused s .setModuleCap := by
  refine refused_of_denied h.1 ?_
  rw [exec_setModuleCap_eq, State.powerCommand_refused _ _ h fun hc => hb ⟨hc.1, hc.2.1, of_decide_eq_true hc.2.2⟩]

theorem Chip.verified_iff (c : Chip) (i : Image) : c.verified i = true ↔ i.ecdsaOk = true ∧ i.lmsOk = true ∧ c.rollback ≤ i.version := by
  simp [Chip.verified, and_assoc]

theorem recoveryImage_granted (h : s.takesUp opMgmt) (hp : (s.chip s.arg.chip).power = .recovery) (hi : s.arg.index < 2)
    (hv : (s.chip s.arg.chip).verified s.arg.image = true) : Granted s .recoveryImageWrite { s.chip s.arg.chip with
      flash := (s.chip s.arg.chip).flash.set s.arg.index s.arg.image } := by
  refine granted_of_grants (f := fun c => { c with flash := c.flash.set s.arg.index s.arg.image }) h ?_
  simp only [exec, execRecoveryImageWrite]
  rw [State.hostRequest_takesUp h]
  exact congrArg Host.Outcome.next (if_pos ⟨hp, hi, hv⟩)

theorem recoveryImage_refused (h : s.takesUp opMgmt) (hb : ¬ ((s.chip s.arg.chip).power = .recovery ∧ s.arg.index < 2 ∧
    (s.chip s.arg.chip).verified s.arg.image = true)) : Refused s .recoveryImageWrite := by
  refine refused_of_denied h ?_
  simp only [exec, execRecoveryImageWrite]
  rw [State.hostRequest_takesUp h]
  exact congrArg Host.Outcome.next (if_neg hb)

/-! ### ENTER_STANDBY, ENTER_OFF and POWER_ON (R480, R482) -/

/-- The cores of a package without power are at reset, and the others keep theirs. -/
theorem State.powerDown_core (s : State) (chip k : Nat) : (s.powerDown chip).core k = if keyChip k = chip then {} else s.core k := by
  have h : AMap.find? (s.powerDown chip).cores k = if (keyChip k != chip) = true then AMap.find? s.cores k else none :=
    AMap.find?_filter (fun j => keyChip j != chip) s.cores k
  rw [State.core, AMap.get, h]
  by_cases hk : keyChip k = chip
  · simp [hk]
  · simp only [bne_iff_ne, ne_eq, hk, not_false_eq_true, if_true, if_false]; rfl

/-- Its SRAM is gone. -/
theorem State.powerDown_read (s : State) (chip a : Nat) : (s.powerDown chip).mem.read a =
    if chipOf a = chip ∧ mappedPa a = false then 0 else s.mem.read a := by
  have h : (s.powerDown chip).mem.read a = if (!(chipOf a == chip && !mappedPa a)) = true then s.mem.read a else unlistedByte :=
    Memory.read_filter (fun a => !(chipOf a == chip && !mappedPa a)) s.mem a
  rw [h]
  by_cases hc : chipOf a = chip ∧ mappedPa a = false
  · simp [hc, unlistedByte]
  · rw [if_neg hc, if_pos]
    simpa [imp_iff_not_or] using hc

theorem State.powerLoss_core (s : State) {chip k : Nat} (hk : keyChip k = chip) : (s.powerLoss chip).core k = {} := by
  have h : AMap.find? (s.powerLoss chip).cores k = none := AMap.find?_none fun x hx he => by
    have hm := (List.mem_filter.1 (List.mem_filter.1 hx).1).2
    rw [he, hk, bne_self_eq_false] at hm
    cases hm
  rw [State.core, AMap.get, h]
  rfl

/-- Without any power a package has lost its memory too. -/
theorem State.powerLoss_read (s : State) (chip a : Nat) : (s.powerLoss chip).mem.read a = if chipOf a = chip then 0 else s.mem.read a := by
  have h : (s.powerLoss chip).mem.read a = if (chipOf a != chip) = true then (s.powerDown chip).mem.read a else unlistedByte :=
    Memory.read_filter (fun a => chipOf a != chip) (s.powerDown chip).mem a
  rw [h, State.powerDown_read]
  by_cases hc : chipOf a = chip
  · simp [hc, unlistedByte]
  · simp [hc]

theorem State.powerLoss_conns (s : State) (chip : Nat) : ∀ c ∈ (s.powerLoss chip).conns, c.chip ≠ chip := fun c hc => by
  simpa using (List.mem_filter.1 hc).2

/-- Every virtual device of the package is in BIVOUAC. -/
def State.powerIdle (s : State) : Prop := ∀ x ∈ s.vds, s.arg.chip ∈ x.2.created → x.2.res = .bivouac

/-- As ENTER_STANDBY checks it. -/
def State.idles (s : State) : Bool :=
  List.all s.vds fun x : Nat × VDev => !x.2.created.contains s.arg.chip || x.2.res == .bivouac

theorem State.linked_idles : s.linked.idles = true ↔ s.powerIdle := by
  have h : s.linked.idles = List.all s.vds fun x : Nat × VDev => !x.2.created.contains s.arg.chip || x.2.res == .bivouac := rfl
  rw [h, List.all_eq_true, State.powerIdle]
  refine forall₂_congr fun x _ => ?_
  rw [Bool.or_eq_true, Bool.not_eq_true', beq_iff_eq, ← Bool.not_eq_true, List.contains_iff_mem, imp_iff_not_or]

/-- A package in STANDBY. -/
def Chip.standby (c : Chip) : Chip := { c with power := .standby }

/-- The state in which ENTER_STANDBY has taken effect, and in which it has been answered too. -/
def State.stoodDown (s : State) : State := (s.linked.powerDown s.arg.chip).updChip s.arg.chip Chip.standby
def State.onStandby (s : State) : State := s.stoodDown.hostAnswer (s.header opMgmt) 0 [] []

theorem exec_enterStandby_eq : exec .enterStandby s = .next (s.powerCommand 2 State.idles fun t =>
    (t.powerDown t.arg.chip).updChip t.arg.chip Chip.standby) := by
  simp only [exec, execEnterStandby]
  rfl

theorem exec_enterStandby (h : s.asksPower 2) (hi : s.powerIdle) : exec .enterStandby s = .next s.onStandby := by
  rw [exec_enterStandby_eq, State.powerCommand_granted _ _ h (State.linked_idles.2 hi)]
  rfl

theorem State.onStandby_answered (h : s.takesUp opMgmt) : Answered s s.onStandby opMgmt 0 [] [] :=
  State.answered_of h s.stoodDown rfl rfl rfl 0 [] []

theorem State.onStandby_link : LinkOnly s.stoodDown s.onStandby := State.hostAnswer_link _ _ _ _ _

theorem State.powerDown_chips (s : State) (chip : Nat) : (s.powerDown chip).chips = s.chips := rfl

theorem State.onStandby_chip : s.onStandby.chip s.arg.chip = { s.chip s.arg.chip with power := .standby } := by
  rw [State.onStandby_link.chip, State.stoodDown, State.chip_updChip, State.chip, State.powerDown_chips, s.linked_link.chips]
  rfl
theorem State.onStandby_core (k : Nat) : s.onStandby.core k = if keyChip k = s.arg.chip then {} else s.core k := by
  have h := s.linked.powerDown_core s.arg.chip k
  rw [State.core, State.core, s.linked_link.cores] at h
  rw [State.core, State.onStandby_link.cores, State.stoodDown, State.updChip_cores, h]
  rfl
theorem State.onStandby_read (a : Nat) : s.onStandby.mem.read a =
    if chipOf a = s.arg.chip ∧ mappedPa a = false then 0 else s.mem.read a := by
  rw [State.onStandby_link.mem, State.stoodDown, State.updChip_mem, State.powerDown_read, s.linked_link.mem]

theorem enterStandby_refused (h : s.takesMgmt 4 (powerBits 2)) (hb : ¬ (s.arg.addr = 0 ∧ fld (s.arg.words.headD 0).toNat 52 4 = 2 ∧
    s.powerIdle)) : Refused s .enterStandby := by
  refine refused_of_denied h.1 ?_
  rw [exec_enterStandby_eq, State.powerCommand_refused _ _ h fun hc => hb ⟨hc.1, hc.2.1, State.linked_idles.1 hc.2.2⟩]

/-- A package that is off. -/
def Chip.off (c : Chip) : Chip := { c with power := .off }

/-- The answer to ENTER_OFF. -/
def State.offCommand (s : State) : State := s.powerCommand 3 State.standsBy fun t => t.updChip t.arg.chip Chip.off

theorem exec_enterOff_eq : exec .enterOff s = .next (if (s.chip s.arg.chip).power ≠ .off ∧ (s.offCommand.chip s.arg.chip).power = .off
    then s.offCommand.powerLoss s.arg.chip else s.offCommand) := by
  simp only [exec, execEnterOff]
  rfl

theorem exec_enterOff (h : s.asksPower 3) (hp : (s.chip s.arg.chip).power = .standby) :
    exec .enterOff s = .next ((s.grants Chip.off).powerLoss s.arg.chip) := by
  have he : s.offCommand = s.grants Chip.off := State.powerCommand_granted _ _ h (State.linked_standsBy.2 hp)
  have ht : ((s.grants Chip.off).chip s.arg.chip).power = .off := by rw [State.grants_chip]; rfl
  have hn : (s.chip s.arg.chip).power ≠ .off := by simp [hp]
  rw [exec_enterOff_eq, he, if_pos ⟨hn, ht⟩]

theorem enterOff_refused (h : s.takesMgmt 4 (powerBits 3)) (hb : ¬ (s.arg.addr = 0 ∧ fld (s.arg.words.headD 0).toNat 52 4 = 3 ∧
    (s.chip s.arg.chip).power = .standby)) : Refused s .enterOff := by
  have he : s.offCommand = s.denied :=
    State.powerCommand_refused _ _ h fun hc => hb ⟨hc.1, hc.2.1, State.linked_standsBy.1 hc.2.2⟩
  refine refused_of_denied h.1 ?_
  rw [exec_enterOff_eq, he, s.denied_link.chip, if_neg fun hc => hc.1 hc.2]

theorem exec_powerOn_none (h1 : (s.chip s.arg.chip).power ≠ .off) (h2 : (s.chip s.arg.chip).power ≠ .recovery) :
    exec .powerOn s = .next s := by
  simp only [exec, execPowerOn, h1, h2, or_self, if_false]

/-- The state in which a package has been powered on. -/
def State.poweredOn (s : State) : State :=
  (s.powerLoss s.arg.chip).updChip s.arg.chip fun c => c.booted (s.arg.words.headD 0)

theorem exec_powerOn (h : (s.chip s.arg.chip).power = .off ∨ (s.chip s.arg.chip).power = .recovery) :
    exec .powerOn s = .next s.poweredOn := by
  simp only [exec, execPowerOn, if_pos h]
  rfl

theorem State.poweredOn_chip : s.poweredOn.chip s.arg.chip = (s.chip s.arg.chip).booted (s.arg.words.headD 0) :=
  State.chip_updChip (s.powerLoss s.arg.chip) s.arg.chip _

section
variable (c : Chip) (failing : Word)

/-- A boot runs the first image that verifies. -/
theorem Chip.booted_image {i : Image} (h : c.flash.find? c.verified = some i) : (c.booted failing).power = .standby ∧
    (c.booted failing).version = i.version ∧ (c.booted failing).digest = i.digest := by
  simp only [Chip.booted, h, and_self]

theorem Chip.booted_recovery (h : c.flash.find? c.verified = none) : (c.booted failing).power = .recovery := by
  simp only [Chip.booted, h]

theorem Chip.booted_sups : (c.booted failing).sups = (tab 16 fun i => c.sups.getD i false && !failing.getLsbD i) ∧
    (c.booted failing).duty = onDuty (c.booted failing).sups := by
  cases h : c.flash.find? c.verified with
  | none => simp only [Chip.booted, h, and_self]
  | some i => simp only [Chip.booted, h, and_self]

end

/-! ### POWER_SAMPLE and COOLANT_TRIP (R483) -/

theorem lowered_pos (cap pick : Nat) : 1 ≤ lowered cap pick := by
  unfold lowered
  split <;> omega

theorem lowered_lt {cap : Nat} (h : 1 < cap) (pick : Nat) : lowered cap pick < cap := by
  have := Nat.mod_lt pick (show 0 < cap - 1 by omega)
  rw [lowered, if_neg (by omega)]
  omega

/-- A package whose power exceeds its cap. -/
def Chip.throttledBy (a b : Nat) (c : Chip) : Chip :=
  { c with throttled := true, capLow := lowered c.capLow a, injLow := lowered (if c.injLow = 0 then 65 else c.injLow) b }

theorem Chip.throttledBy_injLow {c : Chip} (h : 1 < c.injLow) (a b : Nat) : (c.throttledBy a b).injLow < c.injLow := by
  have hn : c.injLow ≠ 0 := by omega
  simpa only [Chip.throttledBy, if_neg hn] using lowered_lt h b

/-- A package whose power is below its cap again. -/
def Chip.restored (c : Chip) : Chip := { c with throttled := false, capLow := if c.coolant then 1 else 16, injLow := 0 }

/-- The state in which the supervisors have chosen two numbers. -/
def State.chosen (s : State) : State := { s with free := s.free + 1 + 1 }

theorem exec_powerSample_high (hp : (s.chip s.arg.chip).power = .on) (hw : (s.chip s.arg.chip).modCap < s.arg.value) :
    exec .powerSample s = .next (s.chosen.updChip s.arg.chip
      (Chip.throttledBy (Config.freeNat s.free) (Config.freeNat (s.free + 1)))) := by
  simp only [exec, execPowerSample, State.freeNat]
  rw [if_neg (fun h => h hp), if_pos hw]
  rfl

theorem exec_powerSample_low (hp : (s.chip s.arg.chip).power = .on) (hw : s.arg.value ≤ (s.chip s.arg.chip).modCap)
    (ht : (s.chip s.arg.chip).throttled = true) (hl : s.arg.value * 100 ≤ (s.chip s.arg.chip).modCap * 95) :
    exec .powerSample s = .next (s.chosen.updChip s.arg.chip Chip.restored) := by
  simp only [exec, execPowerSample, State.freeNat]
  rw [if_neg (fun h => h hp), if_neg (Nat.not_lt.2 hw), if_pos ⟨ht, hl⟩]
  rfl

theorem exec_powerSample_kept (h : (s.chip s.arg.chip).power ≠ .on ∨ (s.arg.value ≤ (s.chip s.arg.chip).modCap ∧
    ((s.chip s.arg.chip).throttled = false ∨ (s.chip s.arg.chip).modCap * 95 < s.arg.value * 100))) :
    exec .powerSample s = .next s.chosen := by
  simp only [exec, execPowerSample, State.freeNat]
  by_cases hp : (s.chip s.arg.chip).power = .on
  · obtain ⟨hw, hl⟩ := h.resolve_left (fun h => h hp)
    have hn : ¬ ((s.chip s.arg.chip).throttled = true ∧ s.arg.value * 100 ≤ (s.chip s.arg.chip).modCap * 95) := by
      rintro ⟨h1, h2⟩
      rcases hl with h3 | h3
      · rw [h1] at h3; cases h3
      · omega
    rw [if_neg (fun h => h hp), if_neg (Nat.not_lt.2 hw), if_neg hn]
    rfl
  · rw [if_pos hp]
    rfl

theorem exec_coolantTrip_none (h : (s.chip s.arg.chip).power ≠ .on) : exec .coolantTrip s = .next s := by
  simp only [exec, execCoolantTrip, if_neg h]

theorem exec_coolantTrip (h : (s.chip s.arg.chip).power = .on) : exec .coolantTrip s = .next (s.updChip s.arg.chip fun c =>
    { c with coolant := true, capLow := 1, coolantReports := c.coolantReports + 1 }) := by
  simp only [exec, execCoolantTrip, if_pos h]

end

end Sys2Proof.Machine
end

section
/-! What the repairs and the ends of the memory controllers' windows give, clause by clause. -/

namespace Sys2Proof.Machine

/-! ### Cores (R442) -/

section
variable (s : State)

/-- A repair of the named core has been reported with an outcome, and counted. -/
def State.ToldRepair (t : State) (outcome : Nat) : Prop :=
  t.mem = (s.repairEntry s.arg.chip (s.core s.repairKey).owner 1 (windowOf s.repairKey) outcome []).mem ∧
    (t.chip s.arg.chip).repairs = (s.chip s.arg.chip).repairs + 1

/-- The cluster has no spare slot to fill. -/
def State.SpareFree : Prop := ∀ i, i < 8 → i ∈ (s.clu s.repairNode).map

variable {s}

theorem SameRing.setCore (s : State) (k : Nat) (c : Core) (chip : Nat) : SameRing chip s (s.setCore k c) :=
  .of_chips (State.setCore_mem ..) (State.setCore_chips ..) chip
theorem State.chip_setCore (s : State) (k : Nat) (c : Core) (n : Nat) : (s.setCore k c).chip n = s.chip n := rfl

theorem toldRepair_of_ring {f : State} (h : SameRing s.arg.chip s f) (hr : (f.chip s.arg.chip).repairs = (s.chip s.arg.chip).repairs)
    (outcome : Nat) :
    s.ToldRepair (f.reported s.arg.chip (s.core s.repairKey).owner 1 (windowOf s.repairKey) outcome []) outcome :=
  ⟨h.reported_mem _ _ _ _ _, by rw [State.reported_repairs, hr]⟩

variable (hr : (s.core s.repairKey).run = .stopped) (hu : (s.clu s.repairNode).repair = none)
include hr hu

theorem coreRepair_return (hi : s.arg.index = 0) : ∃ t, exec .coreRepair s = .next t ∧
    t.core s.repairKey = (s.core s.repairKey).repaired ∧ (∀ j, j ≠ s.repairKey → t.core j = s.core j) ∧ s.ToldRepair t 0 :=
  ⟨_, exec_coreRepair_return hr hu hi, by rw [State.reported_core, State.core_setCore],
    fun j hj => by rw [State.reported_core, State.core_setCore_ne _ _ hj],
    toldRepair_of_ring (.setCore ..) (congrArg Chip.repairs (State.chip_setCore ..)) 0⟩

theorem coreRepair_spare (hi : s.arg.index = 1) (hm : s.SpareFree) : ∃ t, exec .coreRepair s = .next t ∧
    t.clu s.repairNode = { s.clu s.repairNode with repair := some s.arg.slot } ∧ t.mem = s.mem ∧ t.cores = s.cores :=
  ⟨_, exec_coreRepair_spare hr hu hi hm, State.clu_updClu _ _ _, rfl, rfl⟩

theorem coreRepair_lost (hi : 2 ≤ s.arg.index) (hm : ¬ s.SpareFree) : ∃ t, exec .coreRepair s = .next t ∧
    t.core s.repairKey = { s.core s.repairKey with run := .lost } ∧ s.ToldRepair t 2 ∧
    ∀ v, s.vdev? (s.core s.repairKey).owner = some v →
      ∃ v', t.vdev? (s.core s.repairKey).owner = some v' ∧ v'.lost.length = v.lost.length + 1 := by
  obtain ⟨n, hn⟩ := Nat.exists_eq_add_of_le' hi
  have hc : s.coreLost.chips = s.chips := State.updVd_chips _ _ _
  refine ⟨_, exec_coreRepair_lost hr hu hn hm, by rw [State.reported_core, State.coreLost_core],
    toldRepair_of_ring (s.coreLost_ring _) (by rw [State.chip, State.chip, hc]) 2, fun v hv => ?_⟩
  rw [State.reported_vdev?, State.coreLost_vdev?, hv]
  exact ⟨_, rfl, List.length_append⟩

theorem coreRepair_kept (hi : 2 ≤ s.arg.index) (hm : s.SpareFree) : exec .coreRepair s = .next s := by
  obtain ⟨n, hn⟩ := Nat.exists_eq_add_of_le' hi
  exact exec_coreRepair_kept hr hu hn hm

end

/-! ### The spare of a cluster (R442) -/

section
variable {chip node slot : Nat}

theorem keyCluster_coreKey (hs : slot < 9) : coreKey chip node slot / 9 = chip * 1024 + node := by unfold coreKey; omega

theorem keyChip_coreKey (hn : node < 1024) (hs : slot < 9) : keyChip (coreKey chip node slot) = chip := by
  rw [keyChip, keyCluster_coreKey hs]; omega

theorem windowOf_coreKey (hn : node < 1024) (hs : slot < 9) :
    windowOf (coreKey chip node slot) = nodeDie node * 2304 + nodeInDie node * 9 + slot := by
  have hk : keyNode (coreKey chip node slot) = node := by rw [keyNode, keyCluster_coreKey hs]; omega
  have hl : keySlot (coreKey chip node slot) = slot := by unfold keySlot coreKey; omega
  rw [windowOf, hk, hl]

end

section
variable {s : State}

/-- The core that takes over. -/
def State.spareKey (s : State) (j : Nat) : Nat := coreKey s.arg.chip s.arg.node j

/-- The state that the rewrite of a core map gives. -/
def State.mapRewritten (s : State) (j : Nat) : State :=
  ((s.copied s.repairKey (s.spareKey j)).takenOver s.repairKey (s.spareKey j) s.repairNode s.arg.slot j (s.core s.repairKey)).reported
    s.arg.chip (s.core s.repairKey).owner 1 (windowOf s.repairKey) 1 (s.lostWords s.repairKey)

variable {j : Nat}

section
variable (y : State) (k new node slot i : Nat) (c : Core)

theorem State.takenOver_chips : (y.takenOver k new node slot i c).chips = y.chips := rfl
theorem State.takenOver_mem : (y.takenOver k new node slot i c).mem = y.mem := rfl
theorem State.takenOver_clear : (y.takenOver k new node slot i c).clear = y.clear := rfl

end

section
variable (y : State) (chip vd element num outcome : Nat) (lost : List Nat)

theorem State.reported_clear : (y.reported chip vd element num outcome lost).clear = y.clear :=
  (congrArg State.clear (y.reported_rest chip vd element num outcome lost) :)
theorem State.reported_mem_unset {chip : Nat} (h : fld (y.chip chip).evbase.toNat 0 5 = 0) :
    (y.reported chip vd element num outcome lost).mem = y.mem := y.ringEntry_mem_unset h 4 vd _

end

theorem State.mapRewritten_repairs :
    ((s.mapRewritten j).chip s.arg.chip).repairs = (s.chip s.arg.chip).repairs + 1 := by
  rw [State.mapRewritten, State.reported_repairs, State.chip, State.chip, State.takenOver_chips, State.copied, State.copyScratch_chips]

/-- The named cluster's slots once the spare has taken over. -/
theorem State.mapRewritten_clu : ((s.mapRewritten j).clu s.repairNode).repair = none ∧
    ((s.mapRewritten j).clu s.repairNode).map = (s.clu s.repairNode).map.map fun i => if i = s.arg.slot then j else i := by
  have hm : ((s.copied s.repairKey (s.spareKey j)).clu s.repairNode).map = (s.clu s.repairNode).map :=
    (congrArg Cluster.map ((s.copyScratch_served _ _).clu s.repairNode) :)
  rw [State.mapRewritten, State.reported_clu, State.takenOver_clu, ← hm]
  exact ⟨rfl, rfl⟩

theorem State.mapRewritten_old (hne : s.repairKey ≠ s.spareKey j) :
    ((s.mapRewritten j).core s.repairKey).ops = (s.core s.repairKey).ops ∧ ((s.mapRewritten j).core s.repairKey).chan.queue = [] := by
  have ho : ((s.copied s.repairKey (s.spareKey j)).core s.repairKey).ops = (s.core s.repairKey).ops :=
    (congrArg Core.ops ((s.copyScratch_served _ _).core s.repairKey) :)
  rw [State.mapRewritten, State.reported_core, State.takenOver_old _ hne]
  exact ⟨ho, rfl⟩

theorem State.mapRewritten_new (hne : s.repairKey ≠ s.spareKey j) : ∃ d : Core,
    (s.mapRewritten j).core (s.spareKey j) = (s.core s.repairKey).spareOf d := by
  rw [State.mapRewritten, State.reported_core, State.takenOver_new _ hne]
  exact ⟨_, rfl⟩

theorem Core.endAct_owner (c : Core) (l : Level) : (c.endAct l).owner = c.owner := rfl

theorem Core.cleanse_owner (c : Core) : c.cleanse.owner = c.owner := by
  simp only [Core.cleanse, Core.endAct_owner]

section
variable (c d : Core)

theorem Core.spareOf_owner : (c.spareOf d).owner = c.owner := by simp only [Core.spareOf, Core.repaired, Core.cleanse_owner]
theorem Core.spareOf_run : (c.spareOf d).run = .running := by simp only [Core.spareOf, Core.repaired]
theorem Core.spareOf_ops : (c.spareOf d).ops = [] := by simp only [Core.spareOf]
theorem Core.spareOf_queue : (c.spareOf d).chan.queue = [] := by simp only [Core.spareOf, Chan.thawed]
theorem Core.spareOf_lanesBad : (c.spareOf d).lanesBad = [] := by simp only [Core.spareOf]

end

/-- The spare holds the words of the scratchpad that could be read. -/
theorem State.mapRewritten_word (hc : s.arg.chip < 512) (hn : s.arg.node < 1024) (hs : s.arg.slot < 9) (hj : j < 9) (hjs : j ≠ s.arg.slot)
    (he : fld (s.chip s.arg.chip).evbase.toNat 0 5 = 0) (hm : s.mem.wf = true) (hl : s.clear = []) {i : Nat} (hi : i < 8192) :
    (s.mapRewritten j).peek (scratchPa (s.spareKey j) (8 * i)) 8 =
      if s.isBad (scratchPa s.repairKey (8 * i)) then 0 else s.peek (scratchPa s.repairKey (8 * i)) 8 := by
  have hk : keyChip s.repairKey = s.arg.chip := keyChip_coreKey hn hs
  have hnew : keyChip (s.spareKey j) = s.arg.chip := keyChip_coreKey hn hj
  have hw : windowOf (s.spareKey j) ≠ windowOf s.repairKey := by
    rw [State.spareKey, State.repairKey, windowOf_coreKey hn hj, windowOf_coreKey hn hs]
    omega
  obtain ⟨hclear, hword⟩ := State.copied_word (hk ▸ hc) (hnew ▸ hc) (hnew.trans hk.symm) hw hm hl hi
  have hbase : fld (((s.copied s.repairKey (s.spareKey j)).takenOver s.repairKey (s.spareKey j) s.repairNode s.arg.slot j
      (s.core s.repairKey)).chip s.arg.chip).evbase.toNat 0 5 = 0 := by
    rw [State.chip, State.takenOver_chips, State.copied, State.copyScratch_chips]
    exact he
  have hmem : (s.mapRewritten j).mem = (s.copied s.repairKey (s.spareKey j)).mem := by
    rw [State.mapRewritten, State.reported_mem_unset _ _ _ _ _ _ hbase, State.takenOver_mem]
  have hcl : (s.mapRewritten j).clear = [] := by
    rw [State.mapRewritten, State.reported_clear, State.takenOver_clear, hclear]
  rw [State.peek_unmarked hcl (scratchPa_lt (hnew ▸ hc) (by omega)), hmem, hword]

theorem exec_coreMapRewrite_rewritten (h : (s.clu s.repairNode).repair = some s.arg.slot) (hj : (s.clu s.repairNode).spareSlot = some j) :
    exec .coreMapRewrite s = .next (s.mapRewritten j) := exec_coreMapRewrite h hj

theorem repairKey_ne_spareKey (hjs : j ≠ s.arg.slot) : s.repairKey ≠ s.spareKey j := by
  unfold State.repairKey State.spareKey coreKey
  omega

end

/-! ### Pseudo-channels, supervisors and bit errors (R65, R460, R480) -/

section
variable {s : State}

theorem State.pcState_put (m : AMap PcState) (p : PcState) : AMap.get (AMap.put m s.pcKey p) .good s.pcKey = p := AMap.get_put_self _ _ _ _

theorem pcRepair_spare (h1 : s.pcState s ≠ .copying) (h2 : s.pcState s ≠ .failed)
    (hs : s.arg.stack % 8 ∉ (s.chip s.arg.chip).spare) : ∃ t, exec .pseudoChannelRepair s = .next t ∧ s.pcState t = .copying ∧
      s.arg.stack % 8 ∈ (t.chip s.arg.chip).spare ∧ t.mem = s.mem ∧ t.cores = s.cores := by
  refine ⟨_, exec_pcRepair_spare h1 h2 hs, ?_, ?_, rfl, rfl⟩
  · rw [State.pcState, State.chip_updChip, State.pcState_put]
  · rw [State.chip_updChip]; exact mem_insertNat _ _

theorem pcRepair_failed (h1 : s.pcState s ≠ .copying) (h2 : s.pcState s ≠ .failed)
    (hs : s.arg.stack % 8 ∈ (s.chip s.arg.chip).spare) : ∃ t, exec .pseudoChannelRepair s = .next t ∧ s.pcState t = .failed ∧
      t.cores = s.cores ∧ t.mem = (s.repairEntry s.arg.chip 0 2 s.pcKey 4
        ((s.chip s.arg.chip).framesOn (s.arg.stack % 8) (s.arg.pc % 63))).mem := by
  refine ⟨_, exec_pcRepair_failed h1 h2 hs, ?_, (congrArg State.cores (State.repairEntry_rest _ _ _ _ _ _ _) :),
    (SameRing.updChip s s.arg.chip _ fun _ => rfl).ringEntry_mem _ _ _⟩
  set f := s.updChip s.arg.chip fun c => { c with pcs := AMap.put c.pcs s.pcKey .failed } with hf
  have hp := (congrArg Chip.pcs (f.repairEntry_chip s.arg.chip 0 2 s.pcKey 4
    ((s.chip s.arg.chip).framesOn (s.arg.stack % 8) (s.arg.pc % 63)) s.arg.chip) :)
  rw [State.pcState, hp, hf, State.chip_updChip, State.pcState_put]

theorem SameRing.copyChannel (s : State) (chip st pc : Nat) : SameRing chip s (s.copyChannel chip st pc) :=
  .of_chips (s := s) (t := s.copyChannel chip st pc) rfl rfl chip

theorem pcRemap (h : s.pcState s = .copying) : ∃ t, exec .pseudoChannelRemap s = .next t ∧ s.pcState t = .remapped ∧
    (t.chip s.arg.chip).repairs = (s.chip s.arg.chip).repairs + 1 ∧ t.mem = (s.repairEntry s.arg.chip 0 2 s.pcKey 3 []).mem ∧
    t.cores = s.cores := by
  have hring : SameRing s.arg.chip (s.copyChannel s.arg.chip (s.arg.stack % 8) (s.arg.pc % 63)) s.pcRemapped :=
    SameRing.updChip _ _ (fun c => { c with pcs := AMap.put c.pcs s.pcKey .remapped }) fun _ => rfl
  have hcopy := SameRing.copyChannel s s.arg.chip (s.arg.stack % 8) (s.arg.pc % 63)
  have hchip : s.pcRemapped.chip s.arg.chip = { s.chip s.arg.chip with
      pcs := AMap.put (s.chip s.arg.chip).pcs s.pcKey .remapped } :=
    State.chip_updChip (s.copyChannel s.arg.chip (s.arg.stack % 8) (s.arg.pc % 63)) s.arg.chip _
  refine ⟨_, exec_pcRemap h, ?_, ?_, (hring.reported_mem ..).trans (hcopy.ringEntry_mem ..), State.reported_cores _ _ _ _ _ _ _⟩
  · have hp := (congrArg Chip.pcs (s.pcRemapped.reported_chip s.arg.chip 0 2 s.pcKey 3 []) :)
    rw [State.pcState, hp, hchip, State.pcState_put]
  · rw [State.reported_repairs, hchip]

/-- The state that a supervisor's failure gives. -/
def State.supervised (s : State) : State :=
  (s.failedOver (s.arg.index % 16)).reported s.arg.chip 0 4 (s.arg.index % 16) 0 []

/-- What it leaves of the package. -/
theorem State.supervised_chip : { s.supervised.chip s.arg.chip with
    evlost := (s.chip s.arg.chip).evlost, evtail := (s.chip s.arg.chip).evtail } = { s.chip s.arg.chip with
      repairs := (s.chip s.arg.chip).repairs + 1
      sups := (s.chip s.arg.chip).sups.set (s.arg.index % 16) false
      duty := (s.chip s.arg.chip).dutyAfter (s.arg.index % 16)
      lead := (s.chip s.arg.chip).leadAfter (s.arg.index % 16) } := by
  have h := (s.failedOver (s.arg.index % 16)).reported_chip s.arg.chip 0 4 (s.arg.index % 16) 0 []
  have hc : (s.failedOver (s.arg.index % 16)).chip s.arg.chip = { s.chip s.arg.chip with
      sups := (s.chip s.arg.chip).sups.set (s.arg.index % 16) false
      duty := (s.chip s.arg.chip).dutyAfter (s.arg.index % 16)
      lead := (s.chip s.arg.chip).leadAfter (s.arg.index % 16) } := State.chip_updChip s s.arg.chip _
  rw [hc] at h
  exact h

theorem State.supervised_mem : s.supervised.mem = (s.repairEntry s.arg.chip 0 4 (s.arg.index % 16) 0 []).mem :=
  (SameRing.updChip s s.arg.chip _ fun _ => rfl).reported_mem _ _ _ _ _

theorem State.supervised_cores : s.supervised.cores = s.cores := State.reported_cores _ _ _ _ _ _ _

theorem Chip.leadAfter_ne {c : Chip} {i : Nat} (h : c.lead ≠ i) : c.leadAfter i = c.lead := if_neg h

/-- What a failover says of the package, as the obligation does. -/
def Chip.FailsOver (c d : Chip) (i : Nat) : Prop :=
  (c.lead ≠ i → d.lead = c.lead) ∧ (∀ j, j ∈ d.duty ↔ (j ∈ c.duty ∧ j ≠ i) ∨ (i ∈ c.duty ∧ c.supSpare i = some j)) ∧
    (c.lead = i → ∀ j, c.supSpare i = some j → d.lead = j) ∧
    (c.lead = i → c.supSpare i = none → (∃ j ∈ c.duty, j ≠ i) → d.lead ∈ c.duty ∧ d.lead ≠ i)

theorem Chip.failsOver {c d : Chip} {i : Nat} (hd : d.duty = c.dutyAfter i) (hl : d.lead = c.leadAfter i) : c.FailsOver d i := by
  rw [Chip.FailsOver, hd, hl]
  exact ⟨Chip.leadAfter_ne, fun _ => Chip.mem_dutyAfter, fun h _ hs => Chip.leadAfter_spare h hs,
    fun h hs ⟨_, hj, hne⟩ => Chip.leadAfter_duty h hs hj hne⟩

theorem softError_word (h : s.arg.addr < 2 ^ 60) (hu : s.untouched (8 * s.arg.addr) = false) :
    ∃ t, exec .softError s = .next t ∧ t.mem = s.mem ∧ t.cores = s.cores ∧
      (s.arg.addr, !s.arg.flag || s.bad.any fun x => x.1 == s.arg.addr) ∈ t.bad ∧
      ∀ x, x.1 ≠ s.arg.addr → (x ∈ t.bad ↔ x ∈ s.bad) := by
  refine ⟨_, exec_softError_word h hu, rfl, rfl, List.mem_append_right _ (List.mem_singleton.2 rfl), fun x hx => ?_⟩
  have hn : x ≠ (s.arg.addr, !s.arg.flag || s.bad.any fun x => x.1 == s.arg.addr) := fun h => hx (congrArg Prod.fst h)
  have hb : s.struck.bad = s.bad.filter (fun x => x.1 != s.arg.addr) ++
      [(s.arg.addr, !s.arg.flag || s.bad.any fun x => x.1 == s.arg.addr)] := rfl
  rw [hb, List.mem_append, List.mem_singleton, or_iff_left hn, List.mem_filter]
  simp [hx]

/-- An error in an L1 line that is held: an uncorrectable one marks its word, a correctable one is counted. -/
def State.StrikesL1 (s t : State) (k w : Nat) (l : L1Line) : Prop :=
  t.mem = s.mem ∧ t.bad = s.bad ∧
    (s.arg.flag = false → { l with bad := insertNat w l.bad } ∈ (t.core k).l1 ∧ ∀ j, j ≠ k → t.core j = s.core j) ∧
    (s.arg.flag = true → t.cores = s.cores ∧ (t.chip (keyChip k)).softErrs = (s.chip (keyChip k)).softErrs + 1)

theorem State.strikesL1 {k w : Nat} {l : L1Line} (hl : l ∈ (s.core k).l1) (ha : l.addr = w / 32) :
    s.StrikesL1 (s.strikeL1 k w (!s.arg.flag)) k w l := by
  rw [State.strikeL1_some hl ha, State.StrikesL1]
  cases s.arg.flag with
  | false =>
    simp only [Bool.not_false, if_true]
    refine ⟨rfl, rfl, fun _ => ⟨?_, fun j hj => State.core_updCore_ne s _ hj⟩, fun h => Bool.noConfusion h⟩
    have hc : (s.updCore k (Core.struckL1 · w)).core k = (s.core k).struckL1 w := State.core_updCore _ _ _
    have hm := List.mem_map_of_mem (f := fun l : L1Line => if l.addr = w / 32 then { l with bad := insertNat w l.bad } else l) hl
    rw [if_pos ha] at hm
    exact (congrArg Core.l1 hc).symm ▸ hm
  | true =>
    refine ⟨rfl, rfl, fun h => Bool.noConfusion h, fun _ => ⟨rfl, ?_⟩⟩
    exact (congrArg Chip.softErrs (State.chip_updChip s (keyChip k) fun c => { c with softErrs := c.softErrs + 1 }) :)

theorem softError_l1 (h : 2 ^ 61 ≤ s.arg.addr) {l : L1Line} (hl : l ∈ (s.core s.repairKey).l1)
    (ha : l.addr = (s.arg.addr - 2 ^ 61) / 32) :
    ∃ t, exec .softError s = .next t ∧ s.StrikesL1 t s.repairKey (s.arg.addr - 2 ^ 61) l :=
  ⟨_, exec_softError_l1 h, State.strikesL1 hl ha⟩

theorem Core.mem_struckLanes (c : Core) (i : Nat) (hard : Bool) :
    i ∈ c.struckLanes i hard ∨ (hard = false ∧ i + 2048 ∈ c.struckLanes i hard) := by
  have hm := mem_insertNat (if hard || (c.lanesBad.contains i || c.lanesBad.contains (i + 2048)) then i else i + 2048)
    (c.lanesBad.filter fun x => x != i && x != i + 2048)
  by_cases h : (hard || (c.lanesBad.contains i || c.lanesBad.contains (i + 2048))) = true
  · rw [if_pos h] at hm
    exact .inl (by rw [Core.struckLanes, if_pos h]; exact hm)
  · rw [if_neg h] at hm
    refine .inr ⟨(Bool.or_eq_false_iff.1 (Bool.not_eq_true _ ▸ h)).1, ?_⟩
    rw [Core.struckLanes, if_neg h]
    exact hm

/-- A bit error in a lane slice: its word is marked, at a correctable first one as such. -/
def State.StrikesLane (s t : State) (k i : Nat) : Prop :=
  t.mem = s.mem ∧ t.bad = s.bad ∧ (∀ j, j ≠ k → t.core j = s.core j) ∧
    (i ∈ (t.core k).lanesBad ∨ (s.arg.flag = true ∧ i + 2048 ∈ (t.core k).lanesBad))

theorem State.strikesLane (s : State) (k i : Nat) :
    s.StrikesLane (s.updCore k fun c => { c with lanesBad := c.struckLanes i (!s.arg.flag) }) k i := by
  refine ⟨rfl, rfl, fun j hj => State.core_updCore_ne s _ hj, ?_⟩
  rw [State.core_updCore]
  exact ((s.core k).mem_struckLanes i (!s.arg.flag)).imp id fun h => ⟨by simpa using h.1, h.2⟩

theorem softError_lane (h1 : 2 ^ 60 ≤ s.arg.addr) (h2 : s.arg.addr < 2 ^ 61) : ∃ t, exec .softError s = .next t ∧
    s.StrikesLane t ((s.arg.addr - 2 ^ 60) / 2048) ((s.arg.addr - 2 ^ 60) % 2048) :=
  ⟨_, exec_softError_lane h1 h2, State.strikesLane ..⟩

/-! ### The memory controllers (R453 to R455) -/

theorem budgetWindow_ends : ∃ t, exec .budgetWindow s = .next t ∧ t.chip s.arg.chip = { s.chip s.arg.chip with
    budget := (s.chip s.arg.chip).budgetIn s.now, budgetWin := s.now / 4096 } ∧ t.mem = s.mem ∧ t.cores = s.cores :=
  ⟨_, exec_budgetWindow s, State.chip_updChip _ _ _, rfl, rfl⟩

theorem refreshWindow_ends : ∃ t, exec .refreshWindow s = .next t ∧ t.mem = s.mem ∧ t.cores = s.cores ∧ ∀ key b,
    AMap.find? (s.chip s.arg.chip).banks key = some b →
      AMap.find? (t.chip s.arg.chip).banks key = some (b.refreshed (s.arg.stack % 8) key) := by
  refine ⟨_, exec_refreshWindow s, rfl, rfl, fun key b hb => ?_⟩
  rw [State.chip_updChip]
  exact (AMap.find?_map (fun key b => Bank.refreshed (s.arg.stack % 8) key b) _ key).trans (by rw [hb]; rfl)

/-- The table entries that a parked row leaves. -/
theorem State.rowParked_chip : s.rowParked.chip s.arg.chip =
    { (s.chip s.arg.chip).countLines s.now (s.arg.vd * 16 + s.arg.stack % 8) 64 with
      banks := AMap.put (s.chip s.arg.chip).banks (bankKey s.arg) s.parkedBank } := State.chip_updChip s s.arg.chip _

theorem State.rowParked_after : { (s.rowParked.ringEntry s.arg.chip 1 s.arg.vd s.rowEvent).chip s.arg.chip with
    evlost := (s.rowParked.chip s.arg.chip).evlost, evtail := (s.rowParked.chip s.arg.chip).evtail } = s.rowParked.chip s.arg.chip :=
  State.ringEntry_chip _ _ _ _ _ _

theorem State.rowParked_bank : AMap.get ((s.rowParked.ringEntry s.arg.chip 1 s.arg.vd s.rowEvent).chip s.arg.chip).banks {} (bankKey s.arg) =
    s.parkedBank := by
  have h := (congrArg Chip.banks (s.rowParked_after) :)
  rw [h, State.rowParked_chip]
  exact AMap.get_put_self _ _ _ _

theorem State.rowParked_budget : AMap.get ((s.rowParked.ringEntry s.arg.chip 1 s.arg.vd s.rowEvent).chip s.arg.chip).budget 0
    (s.arg.vd * 16 + s.arg.stack % 8) = AMap.get ((s.chip s.arg.chip).budgetIn s.now) 0 (s.arg.vd * 16 + s.arg.stack % 8) + 64 := by
  have h := (congrArg Chip.budget (s.rowParked_after) :)
  rw [h, State.rowParked_chip]
  exact AMap.get_put_self _ _ _ _

theorem State.rowParked_ring : SameRing s.arg.chip s s.rowParked := SameRing.updChip s s.arg.chip _ fun _ => rfl

theorem throttle_ends : ∃ t, exec .throttleEnd s = .next t ∧ t.mem = s.mem ∧ t.cores = s.cores ∧
    (AMap.get (t.chip s.arg.chip).banks {} (bankKey s.arg)).parked =
      s.namedBank.parked.filter fun x => !(x.1 == s.arg.vd && decide (x.2 ≤ s.now)) := by
  refine ⟨_, exec_throttleEnd s, rfl, rfl, ?_⟩
  rw [State.chip_updChip]
  exact congrArg Bank.parked (AMap.get_put_self _ _ _ _)

end

end Sys2Proof.Machine
end

section
/-! The power of a package, and the obligation about repairs, windows and power: its clauses, one lemma each. -/

namespace Sys2Proof.Machine

/-! ### The power of a package (R480 to R483) -/

section
variable {s : State}

/-- A power command whose word names another is refused. -/
theorem powerCommand_misnamed {i : Instr} {cmd : Nat}
    (hi : (i, cmd) ∈ [(Instr.enterOn, 1), (.enterStandby, 2), (.enterOff, 3), (.setModuleCap, 4)])
    (h : s.takesMgmt 4 (powerBits cmd)) (hb : s.arg.addr ≠ 0 ∨ fld (s.arg.words.headD 0).toNat 52 4 ≠ cmd) : Refused s i := by
  have hn : ¬ (s.arg.addr = 0 ∧ fld (s.arg.words.headD 0).toNat 52 4 = cmd) := fun hc => hb.elim (· hc.1) (· hc.2)
  simp only [List.mem_cons, List.not_mem_nil, or_false, Prod.mk.injEq] at hi
  rcases hi with ⟨rfl, rfl⟩ | ⟨rfl, rfl⟩ | ⟨rfl, rfl⟩ | ⟨rfl, rfl⟩
  · exact enterOn_refused h fun hc => hn ⟨hc.1, hc.2.1⟩
  · exact enterStandby_refused h fun hc => hn ⟨hc.1, hc.2.1⟩
  · exact enterOff_refused h fun hc => hn ⟨hc.1, hc.2.1⟩
  · exact setModuleCap_refused h fun hc => hn ⟨hc.1, hc.2.1⟩

theorem enterStandby_granted (h : s.asksPower 2) (hi : s.powerIdle) : ∃ t, exec .enterStandby s = .next t ∧
    Answered s t opMgmt 0 [] [] ∧ t.chip s.arg.chip = { s.chip s.arg.chip with power := .standby } ∧
    (∀ k, t.core k = if keyChip k = s.arg.chip then {} else s.core k) ∧
    ∀ a, t.mem.read a = if chipOf a = s.arg.chip ∧ mappedPa a = false then 0 else s.mem.read a :=
  ⟨_, exec_enterStandby h hi, State.onStandby_answered h.1.1, State.onStandby_chip, State.onStandby_core, State.onStandby_read⟩

theorem State.powerLoss_chips (s : State) (chip : Nat) : (s.powerLoss chip).chips = s.chips := rfl
theorem State.powerLoss_answers (s : State) (chip : Nat) : (s.powerLoss chip).answers = s.answers := rfl

theorem enterOff_granted (h : s.asksPower 3) (hp : (s.chip s.arg.chip).power = .standby) : ∃ t, exec .enterOff s = .next t ∧
    t.answers = s.answers ++ [⟨s.header opMgmt, s.outOf s.arg.conn, 0, [], []⟩] ∧ (∀ c ∈ t.conns, c.chip ≠ s.arg.chip) ∧
    t.chip s.arg.chip = { s.chip s.arg.chip with power := .off } ∧ (∀ k, keyChip k = s.arg.chip → t.core k = {}) ∧
    ∀ a, t.mem.read a = if chipOf a = s.arg.chip then 0 else s.mem.read a := by
  refine ⟨_, exec_enterOff h hp, ?_, State.powerLoss_conns _ _, ?_, fun k hk => State.powerLoss_core _ hk, fun a => ?_⟩
  · rw [State.powerLoss_answers]
    exact (State.grants_answered h.1.1 Chip.off).1
  · rw [State.chip, State.powerLoss_chips]
    exact State.grants_chip Chip.off
  · rw [State.powerLoss_read, State.grants_mem]

theorem powerOn_boots (h : (s.chip s.arg.chip).power = .off ∨ (s.chip s.arg.chip).power = .recovery) :
    ∃ t, exec .powerOn s = .next t ∧ t.chip s.arg.chip = (s.chip s.arg.chip).booted (s.arg.words.headD 0) ∧
      (∀ k, keyChip k = s.arg.chip → t.core k = {}) ∧ ∀ a, chipOf a = s.arg.chip → t.mem.read a = 0 := by
  refine ⟨_, exec_powerOn h, State.poweredOn_chip, fun k hk => ?_, fun a ha => ?_⟩
  · rw [State.core, State.poweredOn, State.updChip_cores]
    exact State.powerLoss_core s hk
  · rw [State.poweredOn, State.updChip_mem, State.powerLoss_read, if_pos ha]

/-- What POWER_SAMPLE makes of the package `c`, whose power is `w`. -/
def Chip.Sampled (c d : Chip) (w : Nat) : Prop :=
  (c.power = .on → c.modCap < w → d.throttled = true ∧ 1 ≤ d.capLow ∧ (1 < c.capLow → d.capLow < c.capLow) ∧ 1 ≤ d.injLow ∧
    (1 < c.injLow → d.injLow < c.injLow)) ∧
  (c.power = .on → w ≤ c.modCap → c.throttled = true → w * 100 ≤ c.modCap * 95 →
    d.throttled = false ∧ d.capLow = (if c.coolant then 1 else 16) ∧ d.injLow = 0) ∧
  (c.power ≠ .on ∨ (w ≤ c.modCap ∧ (c.throttled = false ∨ c.modCap * 95 < w * 100)) → d = c)

section
variable {c : Chip} {w : Nat}

theorem Chip.sampled_high (hp : c.power = .on) (hw : c.modCap < w) (a b : Nat) : c.Sampled (c.throttledBy a b) w :=
  ⟨fun _ _ => ⟨rfl, lowered_pos _ _, fun h => lowered_lt h a, lowered_pos _ _, fun h => Chip.throttledBy_injLow h a b⟩,
    fun _ h => absurd hw (Nat.not_lt.2 h), fun h => (h.elim (· hp) fun h => absurd hw (Nat.not_lt.2 h.1)).elim⟩

theorem Chip.sampled_low (hp : c.power = .on) (hw : w ≤ c.modCap) (ht : c.throttled = true) (hl : w * 100 ≤ c.modCap * 95) :
    c.Sampled c.restored w := by
  refine ⟨fun _ h => absurd hw (Nat.not_le.2 h), fun _ _ _ _ => ⟨rfl, rfl, rfl⟩, ?_⟩
  rintro (h | ⟨-, h | h⟩)
  · exact absurd hp h
  · rw [ht] at h; cases h
  · omega

theorem Chip.sampled_kept (h : c.power ≠ .on ∨ (w ≤ c.modCap ∧ (c.throttled = false ∨ c.modCap * 95 < w * 100))) : c.Sampled c w := by
  refine ⟨fun hp hw => ?_, fun hp _ ht hl => ?_, fun _ => rfl⟩
  · exact absurd hw (Nat.not_lt.2 (h.resolve_left (· hp)).1)
  · rcases (h.resolve_left (· hp)).2 with h | h
    · rw [ht] at h; cases h
    · omega

end

theorem powerSample_lowers : ∃ t, exec .powerSample s = .next t ∧ t.mem = s.mem ∧ t.cores = s.cores ∧
    (s.chip s.arg.chip).Sampled (t.chip s.arg.chip) s.arg.value := by
  have hchip : ∀ f, (s.chosen.updChip s.arg.chip f).chip s.arg.chip = f (s.chip s.arg.chip) := State.chip_updChip s.chosen s.arg.chip
  by_cases hk : (s.chip s.arg.chip).power ≠ .on ∨ (s.arg.value ≤ (s.chip s.arg.chip).modCap ∧
      ((s.chip s.arg.chip).throttled = false ∨ (s.chip s.arg.chip).modCap * 95 < s.arg.value * 100))
  · exact ⟨_, exec_powerSample_kept hk, rfl, rfl, Chip.sampled_kept hk⟩
  simp only [not_or, not_and, not_not, Bool.not_eq_false, Nat.not_lt] at hk
  obtain ⟨hp, hr⟩ := hk
  by_cases hw : (s.chip s.arg.chip).modCap < s.arg.value
  · exact ⟨_, exec_powerSample_high hp hw, rfl, rfl, by rw [hchip]; exact Chip.sampled_high hp hw _ _⟩
  · obtain ⟨ht, hl⟩ := hr (Nat.not_lt.1 hw)
    exact ⟨_, exec_powerSample_low hp (Nat.not_lt.1 hw) ht hl, rfl, rfl,
      by rw [hchip]; exact Chip.sampled_low hp (Nat.not_lt.1 hw) ht hl⟩

theorem coolantTrip_holds (h : (s.chip s.arg.chip).power = .on) : ∃ t, exec .coolantTrip s = .next t ∧
    t.chip s.arg.chip = { s.chip s.arg.chip with
      coolant := true, capLow := 1, coolantReports := (s.chip s.arg.chip).coolantReports + 1 } ∧ t.mem = s.mem ∧ t.cores = s.cores :=
  ⟨_, exec_coolantTrip h, State.chip_updChip _ _ _, rfl, rfl⟩

/-! ### The clauses together -/

theorem softError_l1_none (h : 2 ^ 61 ≤ s.arg.addr) (hn : ∀ l ∈ (s.core s.repairKey).l1, l.addr ≠ (s.arg.addr - 2 ^ 61) / 32) :
    exec .softError s = .next s := by
  rw [exec_softError_l1 h, State.strikeL1_none hn]

theorem coreMapRewrite_spare {j : Nat} (h : (s.clu s.repairNode).repair = some s.arg.slot) (hj : (s.clu s.repairNode).spareSlot = some j)
    (hm : s.arg.slot ∈ (s.clu s.repairNode).map) :
    let c := s.core s.repairKey
    let new := s.spareKey j
    ∃ t, exec .coreMapRewrite s = .next t ∧ (t.clu s.repairNode).map = ((s.clu s.repairNode).map.map fun i => if i = s.arg.slot then j else i) ∧
      (t.clu s.repairNode).repair = none ∧ (t.core s.repairKey).ops = c.ops ∧ (t.core s.repairKey).chan.queue = [] ∧
      (t.core new).owner = c.owner ∧ (t.core new).run = .running ∧ (t.core new).ops = [] ∧ (t.core new).chan.queue = [] ∧
      (t.core new).lanesBad = [] ∧ (∀ a, (∀ i ∈ c.lanesBad, i < 2048 → a / 8 ≠ i) → (t.core new).lanes.read a = c.lanes.read a) ∧
      (∀ i ∈ c.lanesBad, i < 2048 → ∀ a, a / 8 = i → (t.core new).lanes.read a = 0) ∧
      (t.chip s.arg.chip).repairs = (s.chip s.arg.chip).repairs + 1 ∧
      (s.arg.chip < 512 → s.arg.node < 1024 → s.arg.slot < 9 → fld (s.chip s.arg.chip).evbase.toNat 0 5 = 0 → s.mem.wf = true →
        s.clear = [] → ∀ i, i < 8192 → t.peek (scratchPa new (8 * i)) 8 =
          if s.isBad (scratchPa s.repairKey (8 * i)) then 0 else s.peek (scratchPa s.repairKey (8 * i)) 8) := by
  intro c new
  obtain ⟨hj9, hne⟩ := Cluster.spareSlot_ne hj hm
  have hk : s.repairKey ≠ new := repairKey_ne_spareKey hne
  obtain ⟨d, hd⟩ := State.mapRewritten_new hk
  obtain ⟨hrep, hmap⟩ := State.mapRewritten_clu (s := s) (j := j)
  obtain ⟨hops, hq⟩ := State.mapRewritten_old hk
  refine ⟨_, exec_coreMapRewrite_rewritten h hj, hmap, hrep, hops, hq, ?_, ?_, ?_, ?_, ?_, fun a ha => ?_, fun i hi h8 a ha => ?_,
    State.mapRewritten_repairs, fun h1 h2 h3 h4 h5 h6 i hi => State.mapRewritten_word h1 h2 h3 hj9 hne h4 h5 h6 hi⟩ <;> rw [hd]
  · exact Core.spareOf_owner c d
  · exact Core.spareOf_run c d
  · exact Core.spareOf_ops c d
  · exact Core.spareOf_queue c d
  · exact Core.spareOf_lanesBad c d
  · rw [Core.spareOf_lanes, if_neg]
    rintro ⟨i, hi, h8, he⟩
    exact ha i hi h8 he
  · rw [Core.spareOf_lanes, if_pos ⟨i, hi, h8, ha⟩]

theorem exec_rowThrottle_parks (h : (s.chip s.arg.chip).rhth.getD (s.arg.stack % 8) 0 ≤ s.rowCount) :
    ∃ t b', exec .rowThrottleEvent s = .next t ∧ t.cores = s.cores ∧ b' = AMap.get (t.chip s.arg.chip).banks {} (bankKey s.arg) ∧
      (s.arg.vd, s.now + 2048) ∈ b'.parked ∧ AMap.get b'.events 0 s.arg.vd = AMap.get s.namedBank.events 0 s.arg.vd + 1 ∧
      (∀ x ∈ b'.counts, x.1 ≠ (s.arg.row, s.arg.vd)) ∧
      AMap.get (t.chip s.arg.chip).budget 0 (s.arg.vd * 16 + s.arg.stack % 8) =
        AMap.get ((s.chip s.arg.chip).budgetIn s.now) 0 (s.arg.vd * 16 + s.arg.stack % 8) + 64 ∧
      t.mem = (s.ringEntry s.arg.chip 1 s.arg.vd s.rowEvent).mem := by
  refine ⟨_, s.parkedBank, exec_rowThrottle h, (congrArg State.cores (State.ringEntry_rest _ _ _ _ _) :), State.rowParked_bank.symm,
    List.mem_append_right _ (List.mem_singleton.2 rfl), AMap.get_put_self _ _ _ _, fun x hx => ?_, State.rowParked_budget,
    State.rowParked_ring.ringEntry_mem _ _ _⟩
  simpa using (List.mem_filter.1 hx).2

end

/-- Settles O58, clause by clause. -/
theorem repairsAndPower : Obligations.RepairsAndPower := by
  unfold Obligations.RepairsAndPower
  intro s
  refine ⟨⟨exec_coreRepair_none, fun hr hu => ⟨coreRepair_return hr hu, coreRepair_spare hr hu, exec_coreRepair_noSpare hr hu,
      coreRepair_kept hr hu, coreRepair_lost hr hu⟩, exec_coreMapRewrite_none, fun j h hj hm => coreMapRewrite_spare h hj hm⟩,
    ⟨exec_pcRepair_none, pcRepair_spare, pcRepair_failed, exec_pcRemap_none, pcRemap⟩, ⟨exec_failover_none, fun h => ?_⟩,
    exec_softError_untouched, softError_word, fun h => ⟨softError_l1_none h, fun l hl ha => softError_l1 h hl ha⟩, softError_lane,
    budgetWindow_ends, refreshWindow_ends, ⟨exec_rowThrottle_below, exec_rowThrottle_parks, throttle_ends⟩,
    ⟨fun i cmd hi => powerCommand_misnamed hi, enterOn_granted, fun h hp => enterOn_refused h.1 fun hc => hp hc.2.2,
      enterStandby_granted, fun h hp => enterStandby_refused h.1 fun hc => hp hc.2.2,
      enterOff_granted, fun h hp => enterOff_refused h.1 fun hc => hp hc.2.2,
      setModuleCap_granted, fun h hw => setModuleCap_refused h.1 fun hc => ?_, fun h => ⟨fun hok => ?_, fun hok => ?_⟩⟩,
    exec_powerOn_none, fun h => ?_, powerSample_lowers, exec_coolantTrip_none, coolantTrip_holds⟩
  · -- a supervisor fails
    have hs := s.supervised_chip
    obtain ⟨hlead, hduty, hspare, hother⟩ := Chip.failsOver (c := s.chip s.arg.chip) (congrArg Chip.duty hs :) (congrArg Chip.lead hs :)
    exact ⟨_, exec_failover h, (congrArg Chip.sups hs :), (congrArg Chip.repairs hs :), State.supervised_mem, State.supervised_cores,
      hlead, hduty, hspare, hother⟩
  · omega
  · obtain ⟨hp, hi, h1, h2, h3⟩ := hok
    exact recoveryImage_granted h hp hi ((Chip.verified_iff _ _).2 ⟨h1, h2, h3⟩)
  · refine recoveryImage_refused h fun hc => hok ?_
    obtain ⟨hp, hi, hv⟩ := hc
    exact ⟨hp, hi, (Chip.verified_iff _ _).1 hv⟩
  · obtain ⟨t, he, hc, hk, ha⟩ := powerOn_boots h
    obtain ⟨hsups, hduty⟩ := (s.chip s.arg.chip).booted_sups (s.arg.words.headD 0)
    refine ⟨t, he, fun i hi => hc ▸ Chip.booted_image _ _ hi, hc ▸ hsups, hc ▸ hduty, fun hn => hc ▸ Chip.booted_recovery _ _ hn, hk, ha⟩

end Sys2Proof.Machine
end

section
/-! What leaves the memory alone: one lemma for each operation of the state that writes no byte of it, in the order of the model. -/

namespace Sys2Proof.Machine

/-- A fold of changes that leave memory alone leaves it alone. -/
theorem State.foldl_mem {α : Type} {f : State → α → State} (h : ∀ s a, (f s a).mem = s.mem) (l : List α) (s : State) :
    (l.foldl f s).mem = s.mem := by
  induction l generalizing s with
  | nil => rfl
  | cons a l ih => rw [List.foldl_cons, ih, h]

/-! ### Ops -/

@[simp] theorem State.setLvl_mem (s : State) (k : Nat) (l : Level) (x : Lvl) : (s.setLvl k l x).mem = s.mem := rfl
@[simp] theorem State.updLvl_mem (s : State) (k : Nat) (l : Level) (f : Lvl → Lvl) : (s.updLvl k l f).mem = s.mem := rfl
@[simp] theorem State.setCurCore_mem (s : State) (c : Core) : (s.setCurCore c).mem = s.mem := rfl
@[simp] theorem State.freeWord_mem (s : State) : s.freeWord.2.mem = s.mem := rfl
@[simp] theorem State.freeBool_mem (s : State) : s.freeBool.2.mem = s.mem := rfl
@[simp] theorem State.freeNat_mem (s : State) : s.freeNat.2.mem = s.mem := rfl
@[simp] theorem State.freeVReg_mem (s : State) : s.freeVReg.2.mem = s.mem := rfl
@[simp] theorem State.replay_mem (s : State) : s.replay.mem = s.mem := rfl
@[simp] theorem State.replayWait_mem (s : State) (w : Wait) : (s.replayWait w).mem = s.mem := rfl
@[simp] theorem State.belayEvent_mem (s : State) (chip die stop code : Nat) (data : Word) :
    (s.belayEvent chip die stop code data).mem = s.mem := rfl
@[simp] theorem State.gbarResume_mem (s : State) (v : VDev) (status : Word) (m : Nat × Nat) :
    (s.gbarResume v status m).mem = s.mem := by
  unfold State.gbarResume; dsimp only; split <;> rfl
@[simp] theorem State.setGroup_mem (s : State) (vd g : Nat) (grp : Group) :
    (s.setGroup vd g grp).mem = s.mem := by simp [State.setGroup]
theorem State.barrierFuel_mem (n : Nat) (s : State) (vd g : Nat) (status : Word) :
    (State.barrierFuel n s vd g status).mem = s.mem := by
  induction n generalizing s status with
  | zero => rfl
  | succ n ih =>
    unfold State.barrierFuel
    split
    · rfl
    · dsimp only
      split
      · rw [ih, State.setGroup_mem]
        exact State.foldl_mem (fun t m => State.gbarResume_mem ..) _ _
      · rfl
@[simp] theorem State.barrier_mem (s : State) (vd g : Nat) : (s.barrier vd g).mem = s.mem := State.barrierFuel_mem ..
@[simp] theorem State.gleave_mem (s : State) (vd g : Nat) (m : Nat × Nat) (deferred : Bool) :
    (s.gleave vd g m deferred).mem = s.mem := by
  unfold State.gleave; dsimp only; (repeat' split) <;> simp
@[simp] theorem State.gwithdraw_mem (s : State) (vd g : Nat) (m : Nat × Nat) : (s.gwithdraw vd g m).mem = s.mem := by
  unfold State.gwithdraw; dsimp only; (repeat' split) <;> simp
@[simp] theorem State.leaveAll_mem (s : State) (vd : Nat) (m : Nat × Nat) : (s.leaveAll vd m).mem = s.mem := by
  unfold State.leaveAll
  split
  · rfl
  · exact State.foldl_mem (fun t g => State.gleave_mem ..) _ _
@[simp] theorem State.leaveLaunch_mem (s : State) (vd id : Nat) : (s.leaveLaunch vd id).mem = s.mem := by
  unfold State.leaveLaunch
  split
  · rfl
  · exact State.foldl_mem (fun t g => State.foldl_mem (fun u o => State.gleave_mem ..) _ _) _ _
@[simp] theorem State.returnPost_mem (s : State) (k : Nat) (p : Post) : (s.returnPost k p).mem = s.mem := rfl
@[simp] theorem State.isoStop_mem (s : State) (k : Nat) (record : List Word) (cause : Nat) :
    (s.isoStop k record cause).mem = s.mem := by
  unfold State.isoStop
  dsimp only
  split
  · rfl
  · rw [State.belayEvent_mem]
    refine (State.foldl_mem (fun t i => State.leaveAll_mem ..) _ _).trans ?_
    rw [State.updVd_mem]
    exact State.foldl_mem (fun t p => State.returnPost_mem ..) _ _
@[simp] theorem State.freeze_mem (s : State) (k master : Nat) : (s.freeze k master).mem = s.mem := by simp [State.freeze]
@[simp] theorem State.retire_mem (s : State) (n : Nat) (f : Lvl → Lvl) : (s.retire n f).mem = s.mem := rfl

/-! ### Space -/

@[simp] theorem State.lineAccess_mem (s : State) (vd pa : Nat) : (s.lineAccess vd pa).mem = s.mem := rfl
@[simp] theorem State.writeBack_mem (s : State) (line : Nat) : (s.writeBack line).mem = s.mem := by
  unfold State.writeBack; (repeat' split) <;> simp
@[simp] theorem State.l2Run_mem (s : State) (pa n mt : Nat) : (s.l2Run pa n mt).mem = s.mem := by
  unfold State.l2Run; exact State.foldl_mem (fun _ _ => by simp) _ _
@[simp] theorem State.runServe_mem (s : State) (vd pa n mt : Nat) : (s.runServe vd pa n mt).mem = s.mem := by
  unfold State.runServe; exact State.foldl_mem (fun _ _ => by simp) _ _

/-! ### Port -/

@[simp] theorem State.countWrite_mem (s : State) (node : Nat) (a : Acc) : (s.countWrite node a).mem = s.mem := by
  unfold State.countWrite; split <;> rfl
@[simp] theorem State.countEnd_mem (s : State) (node : Nat) (a : Acc) : (s.countEnd node a).mem = s.mem := rfl
@[simp] theorem State.portAsk_mem (s : State) (k input : Nat) : (s.portAsk k input).mem = s.mem := rfl
@[simp] theorem State.portServed_mem (s : State) (u : UnitId) (input : Nat) : (s.portServed u input).mem = s.mem := by
  unfold State.portServed; split <;> rfl
@[simp] theorem State.settleOld_mem (s : State) (pa n : Nat) (sees : Cmd → Bool) : (s.settleOld pa n sees).mem = s.mem := by
  unfold State.settleOld; split <;> rfl

/-! ### Access -/

@[simp] theorem State.askWalk_mem (s : State) (vd page : Nat) (w : Walker) : (s.askWalk vd page w).mem = s.mem := by
  unfold State.askWalk; split <;> rfl
@[simp] theorem State.awaitPages_mem (s : State) (pages : List Nat) : (s.awaitPages pages).mem = s.mem := by
  unfold State.awaitPages; exact State.foldl_mem (fun _ _ => by simp) _ _
@[simp] theorem State.selfAnswer_mem (s : State) (k : Nat) (o : Op) (status : Nat) (data : Word) :
    (s.selfAnswer k o status data).mem = s.mem := rfl
@[simp] theorem State.updOp_mem (s : State) (k id : Nat) (f : Op → Op) : (s.updOp k id f).mem = s.mem := rfl
@[simp] theorem State.dropOp_mem (s : State) (k id : Nat) : (s.dropOp k id).mem = s.mem := rfl
@[simp] theorem State.setGroupEntry_mem (s : State) (chip g : Nat) (e : Option (List Word)) :
    (s.setGroupEntry chip g e).mem = s.mem := rfl
@[simp] theorem State.sendMcst_mem (s : State) (k : Nat) (m : Mcast) (data : List Byte) (op : Nat) :
    (s.sendMcst k m data op).mem = s.mem := rfl
@[simp] theorem State.addOp_mem (s : State) (a : Ask) (it : Item) : (s.addOp a it).mem = s.mem := rfl
@[simp] theorem State.addOps_mem (s : State) (a : Ask) (its : List Item) : (s.addOps a its).mem = s.mem := by
  unfold State.addOps; exact State.foldl_mem (fun _ _ => by simp) _ _

/-! ### Scalar -/

@[simp] theorem State.alu_mem (s : State) (n : Nat) (rd : XReg) (v : Lvl → Word) : (s.alu n rd v).mem = s.mem := rfl
@[simp] theorem State.mulResult_mem (s : State) (rd : XReg) (v : Lvl → Word) : (s.mulResult rd v).mem = s.mem := rfl

/-! ### Control -/

@[simp] theorem State.branch_mem (s : State) (n : Nat) (taken : Lvl → Bool) (off : Int) :
    (s.branch n taken off).mem = s.mem := rfl
@[simp] theorem State.tretOrder_mem (s : State) (t : Level) : (s.tretOrder t).mem = s.mem := by
  unfold State.tretOrder; dsimp only; split <;> rfl

/-! ### Operands -/

@[simp] theorem State.issueOps_mem (s : State) (slot : Nat) (os : List Op) : (s.issueOps slot os).mem = s.mem := rfl
@[simp] theorem State.storeLanes_mem (s : State) (a : Ask) (f : Fmt) (vals : VReg) (ps : List Placed) :
    (s.storeLanes a f vals ps).mem = s.mem := by
  have h := fun (f : State → Placed → Ask) (g : State → Placed → Item) (ps : List Placed) (t : State) =>
    State.foldl_mem (fun t p => State.addOp_mem t (f t p) (g t p)) ps t
  unfold State.storeLanes
  dsimp only
  split <;> exact h _ _ _ _

/-! ### System -/

@[simp] theorem State.gather_mem (s : State) (ask : Ask) (accKind : Kind) (ps : List Placed) (f : Finish) :
    (s.gather ask accKind ps f).1.mem = s.mem := by simp [State.gather]
@[simp] theorem State.acquired_mem (s : State) : s.acquired.mem = s.mem := rfl
@[simp] theorem State.queueCopy_mem (s : State) (k : Nat) (l : Level) (snap : List Word) (pc : Word) (after : List Nat) :
    (s.queueCopy k l snap pc after).1.mem = s.mem := rfl
@[simp] theorem State.blankSets_mem (s : State) (k : Nat) (sets : List Nat) : (s.blankSets k sets).mem = s.mem := by
  unfold State.blankSets; exact State.foldl_mem (fun _ _ => by simp) _ _

/-! ### Order -/

theorem State.newRope_mem (s : State) (name : Nat) (preds : List (Nat × Nat × Nat)) (adopt : List Nat) {t : State}
    (h : s.newRope name preds adopt = some t) :
    t.mem = s.mem := by
  unfold State.newRope at h
  obtain ⟨slot, -, rfl⟩ := Option.map_eq_some_iff.mp h
  rfl

/-! ### Translate -/

@[simp] theorem State.askDirect_mem (s : State) (w : Walker) (vd va : Nat) :
    (s.askDirect w vd va).mem = s.mem := by simp [State.askDirect]
@[simp] theorem State.untold_mem (s : State) (w : Walker) : (s.untold w).mem = s.mem := rfl
@[simp] theorem State.dropWalk_mem (s : State) (id : Nat) : (s.dropWalk id).mem = s.mem := rfl
@[simp] theorem State.tellWalk_mem (s : State) (page : Nat) (x : Xlate) (w : Walker) :
    (s.tellWalk page x w).mem = s.mem := by
  unfold State.tellWalk; split <;> rfl
@[simp] theorem State.fillTlb_mem (s : State) (e : TlbEntry) (w : Walker) : (s.fillTlb e w).mem = s.mem := by
  unfold State.fillTlb; dsimp only; split <;> rfl
@[simp] theorem State.reportEntry_mem (s : State) (w : Walk) (r : Option Report) : (s.reportEntry w r).mem = s.mem := by
  cases r <;> rfl
@[simp] theorem State.parkCopy_mem (s : State) (w : Walker) : (s.parkCopy w).mem = s.mem := by
  cases w <;> rfl
@[simp] theorem State.endWalk_mem (s : State) (w : Walk) (x : Xlate) : (s.endWalk w x).mem = s.mem := by
  unfold State.endWalk; exact State.foldl_mem (fun _ _ => by simp) _ _
@[simp] theorem State.pageAnswer_mem (s : State) (vd st page : Nat) (deny : Bool) :
    (s.pageAnswer vd st page deny).mem = s.mem := by
  unfold State.pageAnswer
  dsimp only
  split
  · exact (State.foldl_mem (fun t w => State.foldl_mem (fun u x => State.tellWalk_mem ..) _ _) _ _).trans
      (State.foldl_mem (fun t w => State.dropWalk_mem ..) _ _)
  · rfl
@[simp] theorem State.invalidateNode_mem (s : State) (chip node vd : Nat) (page : Option (Nat × Bool)) :
    (s.invalidateNode chip node vd page).1.mem = s.mem := by
  unfold State.invalidateNode
  dsimp only
  rw [State.updClu_mem]
  refine State.foldl_mem (fun t k => ?_) _ _
  split <;> rfl
@[simp] theorem State.beginInval_mem (s : State) (vd : Nat) (page : Option (Nat × Bool)) (core : Option (Nat × Nat))
    (chip : Nat) (nodes : List (Nat × Nat)) : (s.beginInval vd page core chip nodes).mem = s.mem := rfl
@[simp] theorem State.purgeEntries_mem (s : State) (vd : Nat) (page : Option (Nat × Bool)) :
    (s.purgeEntries vd page).mem = s.mem := by
  unfold State.purgeEntries
  refine State.foldl_mem (fun t n => ?_) _ _
  rw [State.invalidateNode_mem]
@[simp] theorem State.endInval_mem (s : State) (i : Inval) : (s.endInval i).mem = s.mem := by
  unfold State.endInval; dsimp only; (repeat' split) <;> simp
@[simp] theorem State.s2inv_mem (s : State) (chip vd : Nat) (page : Option (Nat × Bool)) :
    (s.s2inv chip vd page).mem = s.mem := by
  unfold State.s2inv; dsimp only; split <;> rfl

/-! ### Launch -/

@[simp] theorem State.sendAnswer_mem (s : State) (h : Header) (status : Nat) (data : List Word) (bytes : List Byte) :
    (s.sendAnswer h status data bytes).mem = s.mem := rfl
@[simp] theorem State.enqueueAnswer_mem (s : State) (e : Enqueue) (id : Nat) : (s.enqueueAnswer e id).mem = s.mem := by
  unfold State.enqueueAnswer; split <;> rfl
@[simp] theorem State.dropCode_mem (s : State) (v : VDev) : (s.dropCode v).mem = s.mem := rfl
@[simp] theorem State.sendEntry_mem (s : State) (vd : Nat) (v : VDev) (n : Nat) (j : Launch) :
    (s.sendEntry vd v n j).mem = s.mem := by simp [State.sendEntry]
theorem State.presentSent_mem (s : State) (n k : Nat) (v : VDev) (es : List (Packet × Nat × Nat)) {t : State}
    (h : s.presentSent n k v es = some t) :
    t.mem = s.mem := by
  unfold State.presentSent at h
  dsimp only at h
  split at h
  · cases h; rfl
  · split at h
    · cases h
    · split at h <;> cases h
      rfl
@[simp] theorem State.dropEntry_mem (s : State) (vd n : Nat) : (s.dropEntry vd n).mem = s.mem := by
  unfold State.dropEntry; split <;> rfl

/-! ### Sequencer -/

@[simp] theorem State.pushRecord_mem (s : State) (k : Nat) (ws : List Word) (lev act launch : Nat) (pc fcr : Word)
    (after : List Nat) : (s.pushRecord k ws lev act launch pc fcr after).mem = s.mem := rfl
@[simp] theorem State.cmdRead_mem (s : State) (k num : Nat) : (s.cmdRead k num).mem = s.mem := rfl
@[simp] theorem State.rowsAsk_mem (s : State) (k : Nat) : (s.rowsAsk k).mem = s.mem := by
  unfold State.rowsAsk; split <;> rfl

/-! ### Owner -/

@[simp] theorem State.dropPkt_mem (s : State) (id : Nat) : (s.dropPkt id).mem = s.mem := rfl
@[simp] theorem State.reply_mem (s : State) (p : Packet) (op status : Nat) (data : Word)
    (line : Option (Nat × List Byte × List Nat)) : (s.reply p op status data line).mem = s.mem := rfl
@[simp] theorem State.eccSeen_mem (s : State) (pa : Nat) : (s.eccSeen pa).mem = s.mem := rfl
@[simp] theorem State.afterAcc_mem (s : State) (u : UnitId) (a : Acc) (op : Nat) : (s.afterAcc u a op).mem = s.mem := by
  unfold State.afterAcc; split <;> simp
@[simp] theorem State.sendPart_mem (s : State) (k : Nat) (f : CopyPart) : (s.sendPart k f).mem = s.mem := rfl
@[simp] theorem State.updFlight_mem (s : State) (k : Nat) (f : Xfer → Xfer) : (s.updFlight k f).mem = s.mem := rfl
@[simp] theorem State.resendPart_mem (s : State) (k : Nat) (f : CopyPart) : (s.resendPart k f).mem = s.mem := by
  unfold State.resendPart; (repeat' split) <;> simp

/-! ### Complete -/

@[simp] theorem State.issueLanes_mem (s : State) (k : Nat) (c : Coll) (ops : List LaneOp) (f : Fmt) (vals : VReg)
    (fcr : Word) :
    (s.issueLanes k c ops f vals fcr).mem = s.mem := rfl
@[simp] theorem State.keepLine_mem (s : State) (k : Nat) (o : Op) (line : Option (Nat × List Byte × List Nat)) :
    (s.keepLine k o line).mem = s.mem := by
  unfold State.keepLine; dsimp only; (repeat' split) <;> simp
@[simp] theorem State.opOver_mem (s : State) (k : Nat) (o : Op) : (s.opOver k o).mem = s.mem := by
  unfold State.opOver; (repeat' split) <;> simp
@[simp] theorem State.mcastDone_mem (s : State) (k : Nat) (m : Mcast) (lev launch pos neg first count : Nat) :
    (s.mcastDone k m lev launch pos neg first count).mem = s.mem := by
  unfold State.mcastDone; split <;> rfl
@[simp] theorem State.mcldDone_mem (s : State) (k : Nat) (r : McldReg) : (s.mcldDone k r).mem = s.mem
    := by simp [State.mcldDone]
@[simp] theorem State.settleMcld_mem (s : State) (k : Nat) (r : McldReg) : (s.settleMcld k r).mem = s.mem := by
  unfold State.settleMcld; split <;> simp
@[simp] theorem State.quitWait_mem (s : State) (k : Nat) (l : Level) : (s.quitWait k l).mem = s.mem := by
  unfold State.quitWait; (repeat' split) <;> simp

/-! ### VectorArith -/

@[simp] theorem State.pred_mem (s : State) (pd : PReg) (v : Lvl → Word) : (s.pred pd v).mem = s.mem := rfl

/-! ### VectorMem -/

@[simp] theorem State.loadPush_mem (s : State) (ask : Ask) (f : Fmt) (nib mask : Word) (ps : List Placed) (n : Nat)
    (st : Stream) (dst : Fmt) (ws : List Placed) : (s.loadPush ask f nib mask ps n st dst ws).mem = s.mem := by
  have h := fun (f : State → Placed → Ask) (g : State → Placed → Item) (ps : List Placed) (t : State) =>
    State.foldl_mem (fun t p => State.addOp_mem t (f t p) (g t p)) ps t
  unfold State.loadPush
  exact (h _ _ _ _).trans (h _ _ _ _)
@[simp] theorem State.share_mem (s : State) (id : Nat) (lanes : List (Nat × Nat)) : (s.share id lanes).mem = s.mem := by
  unfold State.share; split <;> rfl
@[simp] theorem State.sliceCorrect_mem (s : State) (mask : Word) (va : VReg) : (s.sliceCorrect mask va).mem = s.mem := by
  unfold State.sliceCorrect
  dsimp only
  split
  · rfl
  · simp [State.foldl_mem]

/-! ### Stream -/

@[simp] theorem State.closeStream_mem (s : State) (n : Nat) (st : Stream) : (s.closeStream n st).mem = s.mem := by
  unfold State.closeStream; dsimp only; split <;> rfl

/-! ### MemMgt -/

@[simp] theorem State.invalCore_mem (s : State) (page : Option (Nat × Bool)) : (s.invalCore page).mem = s.mem := rfl
@[simp] theorem State.invalAll_mem (s : State) (page : Option (Nat × Bool)) : (s.invalAll page).mem = s.mem := by
  unfold State.invalAll; split <;> rfl

/-! ### Cairn -/

@[simp] theorem State.updCairn_mem (s : State) (node vd : Nat) (f : CairnVd → CairnVd) :
    (s.updCairn node vd f).mem = s.mem := rfl
@[simp] theorem State.unmark_mem (s : State) (node vd : Nat) : (s.unmark node vd).mem = s.mem := rfl
@[simp] theorem State.countStore_mem (s : State) (node vd : Nat) : (s.countStore node vd).mem = s.mem := rfl
@[simp] theorem State.ringTook_mem (s : State) (node vd key : Nat) (e : Option TlbEntry) :
    (s.ringTook node vd key e).mem = s.mem := rfl
@[simp] theorem State.portCycle_mem (s : State) (node : Nat) : (s.portCycle node).mem = s.mem := rfl
@[simp] theorem State.ackPost_mem (s : State) (p : Packet) (op status outcome : Nat) :
    (s.ackPost p op status outcome).mem = s.mem := by
  unfold State.ackPost; (repeat' split) <;> simp
@[simp] theorem State.place_mem (s : State) (v : VDev) (node vd : Nat) (rec_ : List Word) :
    (s.place v node vd rec_).mem = s.mem := by
  unfold State.place; dsimp only; split <;> rfl
@[simp] theorem State.resumeReg_mem (s : State) (k : Nat) (l : Level) (rd : Nat) (v : Word) :
    (s.resumeReg k l rd v).mem = s.mem := rfl
@[simp] theorem State.sweepReport_mem (s : State) (vd : Nat) (v : VDev) (quiet : Bool) :
    (s.sweepReport vd v quiet).mem = s.mem := by
  unfold State.sweepReport
  refine State.foldl_mem (fun t n => ?_) _ _
  dsimp only
  split
  · rfl
  · refine State.foldl_mem (fun t l => ?_) _ _
    (repeat' split) <;> simp

/-! ### Activation -/

@[simp] theorem State.entryAsk_mem (s : State) (k ty : Nat) : (s.entryAsk k ty).mem = s.mem := by
  unfold State.entryAsk; split <;> simp
@[simp] theorem State.entryEnd_mem (s : State) (k ty status : Nat) : (s.entryEnd k ty status).mem = s.mem := rfl
@[simp] theorem State.busyMsg_mem (s : State) (p : Packet) (op : Nat) (slotless : Bool) :
    (s.busyMsg p op slotless).mem = s.mem := by
  unfold State.busyMsg; split <;> rfl
@[simp] theorem State.ansMsg_mem (s : State) (p : Packet) (op status : Nat) : (s.ansMsg p op status).mem = s.mem := by
  unfold State.ansMsg; split <;> rfl
@[simp] theorem State.acceptMsg_mem (s : State) (k : Nat) (p : Packet) (m : Msg) (op : Nat) {without : State → State}
    (h : (without s).mem = s.mem) : (s.acceptMsg k p m op without).mem = s.mem := by
  unfold State.acceptMsg
  split
  · simp
  · exact h
@[simp] theorem State.userMsg_mem (s : State) (k : Nat) (p : Packet) (m : Msg) (op : Nat) :
    (s.userMsg k p m op).mem = s.mem := by
  unfold State.userMsg; (repeat' split) <;> simp
@[simp] theorem State.deviceMsg_mem (s : State) (v : VDev) (k : Nat) (p : Packet) (m : Msg) (op : Nat) :
    (s.deviceMsg v k p m op).mem = s.mem := by
  unfold State.deviceMsg; dsimp only; (repeat' split) <;> simp
@[simp] theorem State.floorKeep_mem (s : State) (k : Nat) (sets : List Nat) : (s.floorKeep k sets).mem = s.mem := by
  unfold State.floorKeep; exact State.foldl_mem (fun _ _ => by simp) _ _
@[simp] theorem State.beginAct_mem (s : State) (k : Nat) (l : Level) (pc : Word) (schk : Bool) (args : List Word)
    (a : Act) (acquire : Bool) : (s.beginAct k l pc schk args a acquire).mem = s.mem := by simp [State.beginAct]
@[simp] theorem State.startForward_mem (s : State) (k : Nat) (l : Level) : (s.startForward k l).mem = s.mem := by
  unfold State.startForward; dsimp only; (repeat' split) <;> simp
@[simp] theorem State.answerAdopt_mem (s : State) : s.answerAdopt.mem = s.mem := by
  unfold State.answerAdopt; (repeat' split) <;> simp

/-! ### Copy -/

@[simp] theorem State.copyDone_mem (s : State) (k : Nat) (t : Xfer) : (s.copyDone k t).mem = s.mem := by
  unfold State.copyDone
  refine (State.foldl_mem (fun t l => ?_) _ _).trans ((State.foldl_mem (fun t l => ?_) _ _).trans rfl)
  · split
    · split <;> rfl
    · rfl
  · split
    · split <;> rfl
    · rfl
@[simp] theorem State.sectorOver_mem (s : State) (k : Nat) (t : Xfer) : (s.sectorOver k t).mem = s.mem := by
  unfold State.sectorOver
  split
  · exact State.copyDone_mem ..
  · rfl
@[simp] theorem State.flyPart_mem (s : State) (k : Nat) (u : UnitId) (ws : List (Nat × Nat × Word × Option Bool))
    (xls : List TlbEntry) (va : Word) : (s.flyPart k u ws xls va).mem = s.mem := rfl
@[simp] theorem State.sectorAsk_mem (s : State) (k : Nat) (ps : List Placed) : (s.sectorAsk k ps).mem = s.mem := by
  unfold State.sectorAsk; split <;> rfl
@[simp] theorem State.sectorUse_mem (s : State) (k : Nat) (ps : List Placed) : (s.sectorUse k ps).mem = s.mem := by
  unfold State.sectorUse; split <;> simp

/-! ### Fabric -/

@[simp] theorem State.rootFree_mem (s : State) (u : UnitId) (g key : Nat) : (s.rootFree u g key).mem = s.mem := by
  unfold State.rootFree; split <;> rfl
@[simp] theorem State.combSend_mem (s : State) (u : UnitId) (r : Comb) : (s.combSend u r).mem = s.mem := by
  unfold State.combSend; (repeat' split) <;> simp
@[simp] theorem State.combTake_mem (s : State) (u : UnitId) (g line vd pos neg first : Nat) :
    (s.combTake u g line vd pos neg first).mem = s.mem := by
  unfold State.combTake; split <;> simp
@[simp] theorem State.addCopy_mem (s : State) (p : Packet) (chip n entry age port : Nat) :
    (s.addCopy p chip n entry age port).mem = s.mem := rfl
@[simp] theorem State.replicate_mem (s : State) (p : Packet) (chip n entry age : Nat) (up : UnitId × Bool)
    (root : Option (Nat × UnitId)) : (s.replicate p chip n entry age up root).mem = s.mem := by
  unfold State.replicate
  exact (State.foldl_mem (fun t q => State.addCopy_mem ..) _ _).trans (State.combSend_mem ..)
@[simp] theorem State.dropFlit_mem (s : State) (id : Nat) : (s.dropFlit id).mem = s.mem := rfl
@[simp] theorem State.deliver_mem (s : State) (p : Packet) : (s.deliver p).mem = s.mem := rfl
@[simp] theorem State.eject_mem (s : State) (f : Flit) (p : Packet) (port : Nat) : (s.eject f p port).mem = s.mem := by
  unfold State.eject
  dsimp only
  split
  · exact State.foldl_mem (fun t u => State.sendPkt_mem ..) _ _
  · (repeat' split) <;> simp
@[simp] theorem State.move_mem (s : State) (f : Flit) (p : Packet) (used : List Nat) (w : Way) :
    (s.move f p used w).mem = s.mem := by
  cases w
  · exact State.eject_mem ..
  all_goals rfl
@[simp] theorem State.placeFlit_mem (s : State) (f : Flit) (due : Nat) : (s.placeFlit f due).mem = s.mem := by
  unfold State.placeFlit
  split <;> simp
@[simp] theorem State.resumeTree_mem (s : State) (chip n : Nat) (pl : Plane) : (s.resumeTree chip n pl).mem = s.mem := by
  unfold State.resumeTree
  refine State.foldl_mem (fun t f => ?_) _ _
  split
  · split <;> simp
  · rfl
@[simp] theorem State.routed_mem (s : State) (chip n : Nat) (pl : Plane) : (s.routed chip n pl).mem = s.mem := by
  have h : ∀ (fs : List Flit) (t : State × Nat), (fs.foldl (fun (t : State × Nat) f =>
      let due := if f.port < 4 then t.2 - 1 else t.2
      (t.1.placeFlit f due, due)) t).1.mem = t.1.mem := by
    intro fs
    induction fs with
    | nil => exact fun _ => rfl
    | cons f fs ih => exact fun t => (ih _).trans (State.placeFlit_mem ..)
  unfold State.routed
  dsimp only
  split
  · rfl
  · exact (h _ _).trans (State.resumeTree_mem ..)
@[simp] theorem State.takeSlot_mem (s : State) (p : Packet) (f : Flit) : (s.takeSlot p f).mem = s.mem := by
  unfold State.takeSlot; dsimp only; (repeat' split) <;> simp

/-! ### Links -/

@[simp] theorem State.updPort_mem (s : State) (chip q : Nat) (f : Port → Port) : (s.updPort chip q f).mem = s.mem := rfl
@[simp] theorem State.enterChip_mem (s : State) (chip q : Nat) (f : Flit) : (s.enterChip chip q f).mem = s.mem := by
  unfold State.enterChip; dsimp only; (repeat' split) <;> simp
@[simp] theorem State.countRepair_mem (s : State) (chip : Nat) : (s.countRepair chip).mem = s.mem := rfl
@[simp] theorem State.trained_mem (s : State) (chip : Nat) : (s.trained chip).mem = s.mem := by
  unfold State.trained; dsimp only; split <;> rfl
@[simp] theorem State.portDies_mem (s : State) (chip q : Nat) : (s.portDies chip q).mem = s.mem := by simp [State.portDies]
@[simp] theorem State.moveStored_mem (s : State) (chip q pl : Nat) : (s.moveStored chip q pl).mem = s.mem := by
  unfold State.moveStored; (repeat' split) <;> simp

/-! ### Multicast -/

@[simp] theorem State.updMerge_mem (s : State) (u : UnitId) (g : Nat) (f : Merge → Merge) :
    (s.updMerge u g f).mem = s.mem := rfl
@[simp] theorem State.enterTree_mem (s : State) (p : Packet) (u : UnitId) (up : UnitId × Bool)
    (root : Option (Nat × UnitId)) :
    (s.enterTree p u up root).mem = s.mem := by simp [State.enterTree]
@[simp] theorem State.memberSays_mem (s : State) (p : Packet) (g line pos neg st : Nat) :
    (s.memberSays p g line pos neg st).mem = s.mem := rfl
@[simp] theorem State.storeAtRoot_mem (s : State) (p : Packet) (m : Mcast) (data : List Byte) (op : Nat) :
    (s.storeAtRoot p m data op).mem = s.mem := by
  unfold State.storeAtRoot; dsimp only; (repeat' split) <;> simp
@[simp] theorem State.sendHeld_mem (s : State) (u : UnitId) (e : Merge) (x : SentLine) : (s.sendHeld u e x).mem = s.mem := by
  unfold State.sendHeld; (repeat' split) <;> simp

/-! ### Preempt -/

@[simp] theorem State.allCairns_mem (s : State) (vd : Nat) (v : VDev) (f : CairnVd → CairnVd) :
    (s.allCairns vd v f).mem = s.mem := by
  unfold State.allCairns; exact State.foldl_mem (fun _ _ => by simp) _ _
theorem State.preFuel_mem (n : Nat) (s : State) (vd : Nat) : (State.preFuel n s vd).mem = s.mem := by
  induction n generalizing s with
  | zero => rfl
  | succ n ih =>
    unfold State.preFuel
    split
    · rfl
    · split
      · rfl
      · dsimp only
        rw [ih]
        split <;> simp
@[simp] theorem State.preSteps_mem (s : State) (vd : Nat) : (s.preSteps vd).mem = s.mem := State.preFuel_mem ..
@[simp] theorem State.stopVd_mem (s : State) (vd : Nat) (v : VDev) (forBiv : Bool) :
    (s.stopVd vd v forBiv).mem = s.mem := by simp [State.stopVd]
@[simp] theorem State.dropWaits_mem (s : State) (vd : Nat) (keys : List Nat) : (s.dropWaits vd keys).mem = s.mem := rfl
@[simp] theorem State.saveContext_mem (s : State) (vd : Nat) (v : VDev) : (s.saveContext vd v).mem = s.mem := by
  unfold State.saveContext
  dsimp only
  rw [State.dropWaits_mem, State.updVd_mem]
  exact (State.foldl_mem (fun t n => State.updCore_mem ..) _ _).trans (State.foldl_mem (fun t n => State.updClu_mem ..) _ _)
@[simp] theorem State.rejoin_mem (s : State) (k : Nat) : (s.rejoin k).mem = s.mem := rfl
@[simp] theorem State.resumeCore_mem (s : State) (vd : Nat) (v : VDev) (n : Nat) : (s.resumeCore vd v n).mem = s.mem := by
  unfold State.resumeCore; dsimp only; (repeat' split) <;> simp
@[simp] theorem State.resumeCluster_mem (s : State) (vd : Nat) (v : VDev) (i : Nat) :
    (s.resumeCluster vd v i).mem = s.mem := by
  unfold State.resumeCluster; dsimp only; split <;> rfl
@[simp] theorem State.updSlot_mem (s : State) (chip slot : Nat) (f : VdSlot → VdSlot) :
    (s.updSlot chip slot f).mem = s.mem := rfl
@[simp] theorem State.refuseCmd_mem (s : State) (chip slot : Nat) : (s.refuseCmd chip slot).mem = s.mem := rfl
@[simp] theorem State.acceptCmd_mem (s : State) (chip slot : Nat) : (s.acceptCmd chip slot).mem = s.mem := rfl
@[simp] theorem State.purgeReasm_mem (s : State) (vd node : Nat) (scope : List Nat) :
    (s.purgeReasm vd node scope).mem = s.mem := by
  unfold State.purgeReasm
  refine State.foldl_mem (fun t r => ?_) _ _
  dsimp only
  split
  · rfl
  · split <;> rfl
@[simp] theorem State.purgeChip_mem (s : State) (vd chip : Nat) (scope : List Nat) :
    (s.purgeChip vd chip scope).mem = s.mem := by
  unfold State.purgeChip; exact State.foldl_mem (fun _ _ => by simp) _ _
@[simp] theorem State.purgeRetry_mem (s : State) (vd : Nat) (scope : List Nat) : (s.purgeRetry vd scope).mem = s.mem := by
  unfold State.purgeRetry
  refine (State.foldl_mem (fun t w => ?_) _ _).trans rfl
  split <;> rfl
@[simp] theorem State.abortMsg_mem (s : State) (vd k x10 : Nat) : (s.abortMsg vd k x10).mem = s.mem := rfl
@[simp] theorem State.resetGroup_mem (s : State) (vd : Nat) (v : VDev) (scope : List Nat) (g : Nat) :
    (s.resetGroup vd v scope g).mem = s.mem := by
  unfold State.resetGroup
  dsimp only
  rw [State.barrier_mem, State.setGroup_mem]
  split
  · rfl
  · exact State.foldl_mem (fun t m => State.gbarResume_mem ..) _ _
@[simp] theorem State.leaveEnded_mem (s : State) (vd : Nat) : (s.leaveEnded vd).mem = s.mem := by
  unfold State.leaveEnded
  split
  · rfl
  · exact State.foldl_mem (fun t id => State.leaveLaunch_mem ..) _ _
@[simp] theorem State.takeFrames_mem (s : State) (chip vd : Nat) (which : Nat → Bool) :
    (s.takeFrames chip vd which).mem = s.mem := rfl
@[simp] theorem State.dropSaved_mem (s : State) (vd : Nat) (v : VDev) (scope : List Nat) :
    (s.dropSaved vd v scope).mem = s.mem := by simp [State.dropSaved]

/-! ### Partition -/

@[simp] theorem State.partEnd_mem (s : State) (chip : Nat) (refused : Bool) : (s.partEnd chip refused).mem = s.mem := rfl
theorem State.partRun_keeps {P : Memory → Prop} {s : State} {cmd : Nat} {f : Nat → PartCmd → Option State} (hs : P s.mem)
    (hf : ∀ chip p t, f chip p = some t → P t.mem) {t : State} (h : s.partRun cmd f = .next t) : P t.mem := by
  unfold State.partRun at h
  cases h
  split
  · exact hs
  · rename_i p _
    split
    · rename_i u hu
      split at hu
      · exact hf _ _ u hu
      · cases hu
    · exact hs
@[simp] theorem State.create_mem (s : State) (chip : Nat) (p : PartCmd) : (s.create chip p).mem = s.mem := rfl
@[simp] theorem State.eraseKey_mem (s : State) (vd : Nat) : (s.eraseKey vd).mem = s.mem := rfl
@[simp] theorem State.destroy_mem (s : State) (chip slot : Nat) (v : VDev) : (s.destroy chip slot v).mem = s.mem := by
  have h := State.foldl_mem (fun (t : State) c => State.takeFrames_mem t c (s.slotVd chip slot) fun _ => true)
    (List.map Prod.fst s.chips) (s.eraseKey (s.slotVd chip slot))
  unfold State.destroy
  dsimp only
  rw [State.updChip_mem]
  split
  · exact (State.foldl_mem (fun t e => State.enqueueAnswer_mem ..) _ _).trans h
  · exact (State.updVd_mem ..).trans h

/-! ### Repair -/

@[simp] theorem State.thaw_mem (s : State) (chip slot : Nat) : (s.thaw chip slot).mem = s.mem := by
  unfold State.thaw; dsimp only; (repeat' split) <;> simp
@[simp] theorem State.copyChannel_mem (s : State) (chip st pc : Nat) : (s.copyChannel chip st pc).mem = s.mem := rfl
@[simp] theorem State.strikeL1_mem (s : State) (k w : Nat) (hard : Bool) : (s.strikeL1 k w hard).mem = s.mem := by
  unfold State.strikeL1; (repeat' split) <;> simp

/-! ### Supervisor -/

@[simp] theorem State.rtswap_mem (s : State) (chip : Nat) : (s.rtswap chip).mem = s.mem := rfl
theorem State.dispinit_mem (s : State) (chip slot : Nat) (w : Word) {t : State} (h : s.dispinit chip slot w = some t) :
    t.mem = s.mem := by
  unfold State.dispinit at h
  dsimp only at h
  split at h
  · cases h
  · split at h
    · cases h; rfl
    · split at h
      · cases h
      · cases h
        refine (State.foldl_mem (fun t n => ?_) _ _).trans ((State.updVd_mem ..).trans rfl)
        split <;> rfl
@[simp] theorem State.groupWrite_mem (s : State) (chip g : Nat) (w : Word) : (s.groupWrite chip g w).mem = s.mem := rfl
theorem State.queueWrite_mem (s : State) (chip slot q : Nat) (w : Word) {t : State}
    (h : s.queueWrite chip slot q w = some t) :
    t.mem = s.mem := by
  unfold State.queueWrite at h
  dsimp only at h
  split at h
  · cases h
  · split at h
    · cases h
    · cases h
      split
      · exact (State.updVd_mem ..).trans rfl
      · rfl
theorem State.baseWrite_mem (s : State) (chip slot : Nat) (w : Word) (stage2 : Bool) {t : State}
    (h : s.baseWrite chip slot w stage2 = some t) :
    t.mem = s.mem := by
  unfold State.baseWrite at h
  dsimp only at h
  split at h
  · cases h
  · cases h
    exact (State.updVd_mem ..).trans rfl
theorem State.capsWrite_mem (s : State) (chip slot m : Nat) (w : Word) {t : State} (h : s.capsWrite chip slot m w = some t) :
    t.mem = s.mem := by
  unfold State.capsWrite at h
  dsimp only at h
  split at h
  · cases h
  · cases h
    refine (State.foldl_mem (fun t i => ?_) _ _).trans rfl
    split
    · split <;> rfl
    · rfl
theorem State.injWrite_mem (s : State) (chip slot m : Nat) (w : Word) {t : State} (h : s.injWrite chip slot m w = some t) :
    t.mem = s.mem := by
  unfold State.injWrite at h
  dsimp only at h
  split at h
  · cases h
  · cases h; rfl
theorem State.partWrite_mem (s : State) (chip : Nat) (w : Word) {t : State} (h : s.partWrite chip w = some t) :
    t.mem = s.mem := by
  unfold State.partWrite at h
  split at h
  · cases h
  · split at h <;> cases h <;> rfl
theorem State.s2invWrite_mem (s : State) (chip : Nat) (w : Word) {t : State} (h : s.s2invWrite chip w = some t) :
    t.mem = s.mem := by
  unfold State.s2invWrite at h
  dsimp only at h
  split at h
  · cases h
  · cases h
    split <;> exact State.s2inv_mem ..
theorem State.pageansWrite_mem (s : State) (w : Word) {t : State} (h : s.pageansWrite w = some t) : t.mem = s.mem := by
  unfold State.pageansWrite at h
  split at h
  · cases h
  · cases h
    exact State.pageAnswer_mem ..
theorem State.chipWrite_mem (s : State) (chip off : Nat) (w : Word) {t : State} (h : s.chipWrite chip off w = some t) :
    t.mem = s.mem := by
  unfold State.chipWrite at h
  split at h
  · exact State.partWrite_mem s chip w h
  · exact State.s2invWrite_mem s chip w h
  · split at h <;> cases h
    exact State.rtswap_mem ..
  · split at h <;> cases h
    rfl
  · cases h; rfl
  · cases h; rfl
  · exact State.pageansWrite_mem s w h
  · cases h

/-! ### HostLink -/

@[simp] theorem State.setConn_mem (s : State) (conn vd next : Nat) : (s.setConn conn vd next).mem = s.mem := rfl
@[simp] theorem State.hostAnswer_mem (s : State) (h : Header) (status : Nat) (data : List Word) (bytes : List Byte) :
    (s.hostAnswer h status data bytes).mem = s.mem := rfl
/-- A request of the host leaves memory as it was or as its action makes it. -/
theorem State.hostRequest_keeps {P : Memory → Prop} {s : State} {op : Nat} {act : Header → State → State} (hs : P s.mem)
    (ha : ∀ h t, t.mem = s.mem → P (act h t).mem) : P (s.hostRequest op act).mem := by
  unfold State.hostRequest
  dsimp only
  split
  · exact hs
  · split
    · simpa using hs
    · split
      · simpa using hs
      · exact ha _ _ (State.setConn_mem ..)
@[simp] theorem State.setHostReq_mem (s : State) (q : HostReq) : (s.setHostReq q).mem = s.mem := rfl
theorem State.mgmtRequest_keeps {P : Memory → Prop} {s : State} {code : Nat} {used : BitVec 56} {act : Header → State → State}
    (hs : P s.mem) (ha : ∀ h t, t.mem = s.mem → P (act h t).mem) : P (s.mgmtRequest code used act).mem := by
  unfold State.mgmtRequest
  refine State.hostRequest_keeps hs fun h t ht => ?_
  dsimp only
  split
  · simpa [ht] using hs
  · exact ha h t ht

/-! ### Power -/

@[simp] theorem State.spdmRequest_mem (s : State) (ok : Spdm → Bool) (f : Spdm → Spdm) (carries : State → List Word) :
    (s.spdmRequest ok f carries).mem = s.mem := by
  unfold State.spdmRequest
  refine State.mgmtRequest_keeps (P := (· = s.mem)) rfl fun h t ht => ?_
  dsimp only
  split
  · simpa using ht
  · split <;> simpa using ht
theorem State.powerCommand_keeps {P : Memory → Prop} {s : State} {cmd : Nat} {ok : State → Bool} {f : State → State}
    (hs : P s.mem)
    (hf : ∀ t, t.mem = s.mem → P (f t).mem) : P (s.powerCommand cmd ok f).mem := by
  unfold State.powerCommand
  refine State.mgmtRequest_keeps hs fun h t ht => ?_
  split
  · rw [State.hostAnswer_mem]; exact hf t ht
  · simpa [ht] using hs

/-! ### Belay -/

@[simp] theorem State.belaySend_mem (s : State) (chip : Nat) (m : BelayMsg) (data : Word) :
    (s.belaySend chip m data).mem = s.mem := rfl
theorem State.belayRequest_mem {s : State} {ty : Nat} {f : BelayMsg → State → State} (hf : ∀ m, (f m s).mem = s.mem) :
    (s.belayRequest ty f).mem = s.mem := by
  unfold State.belayRequest
  dsimp only
  split
  · exact hf _
  · rfl
@[simp] theorem State.belayDone_mem (s : State) (id : Nat) : (s.belayDone id).mem = s.mem := rfl

/-! ### Issue -/

@[simp] theorem State.askFetches_mem (s : State) (chip node slot : Nat) : (s.askFetches chip node slot).mem = s.mem := by
  unfold State.askFetches
  refine State.foldl_mem (fun t l => ?_) _ _
  split
  · split <;> simp
  · rfl
@[simp] theorem State.attach_mem (s : State) (k : Nat) (l : Level) (pc : Word) : (s.attach k l pc).mem = s.mem := by
  unfold State.attach
  dsimp only
  split
  · exact State.updLvl_mem ..
  · refine (State.foldl_mem (fun t f => ?_) _ _).trans (State.updLvl_mem ..)
    split <;> simp
@[simp] theorem State.endIssue_mem (s : State) (is_ : Issuer) (old : Lvl) (word : Nat) :
    (s.endIssue is_ old word).mem = s.mem := by
  unfold State.endIssue; dsimp only; (repeat' split) <;> simp

/-! ### Schedule -/

@[simp] theorem State.passCycle_mem (s : State) : s.passCycle.mem = s.mem := by
  unfold State.passCycle
  refine (State.foldl_mem (fun t x => ?_) _ _).trans rfl
  split <;> simp

end Sys2Proof.Machine
end

section
/-! What writes the memory: each such operation keeps its canonical form (R69). -/

namespace Sys2Proof.Machine

/-- A fold of changes that keep the canonical form keeps it. -/
theorem State.foldl_wf {α : Type} {f : State → α → State} (h : ∀ s a, s.mem.wf = true → (f s a).mem.wf = true) (l : List α)
    {s : State} (w : s.mem.wf = true) : (l.foldl f s).mem.wf = true := by
  induction l generalizing s with
  | nil => exact w
  | cons a l ih => exact ih (h s a w)
theorem State.ite_wf {c : Prop} [Decidable c] {s t : State} (hs : s.mem.wf = true) (ht : t.mem.wf = true) :
    (if c then s else t).mem.wf = true := by split <;> assumption

/-! ### Ops -/

@[simp] theorem State.pokeWords_wf {s : State} (pa : Nat) (ws : List Word) (w : s.mem.wf = true) :
    (s.pokeWords pa ws).mem.wf = true := Memory.wf_writeBytes _ _ w
@[simp] theorem State.report_wf {s : State} (vd launch : Nat) (record : List Word) (w : s.mem.wf = true) :
    (s.report vd launch record).mem.wf = true := by
  unfold State.report
  split
  · exact w
  · dsimp only
    split
    · refine State.foldl_wf (fun t kc h => ?_) _ (by rw [State.updVd_mem]; exact w)
      split
      · exact State.foldl_wf (fun u p g => by rw [State.returnPost_mem]; exact g) _ h
      · exact h
    · exact State.ringEntry_wf _ _ _ _ w
@[simp] theorem State.reportStop_wf {s : State} (k src launch cause : Nat) (record : List Word) (w : s.mem.wf = true) :
    (s.reportStop k src launch cause record).mem.wf = true := by
  unfold State.reportStop; dsimp only; (repeat' split) <;> simp [w]
@[simp] theorem State.faultLevel_wf {s : State} (k : Nat) (l : Level) (w : s.mem.wf = true) :
    (s.faultLevel k l).mem.wf = true := by
  unfold State.faultLevel; dsimp only; (repeat' split) <;> simp [w]
@[simp] theorem State.faultForward_wf {s : State} (k : Nat) (t : Level) (w : s.mem.wf = true) :
    (s.faultForward k t).mem.wf = true := by
  unfold State.faultForward; split <;> simp [w]
@[simp] theorem State.fault_wf {s : State} (k : Nat) (l : Level) (w : s.mem.wf = true) : (s.fault k l).mem.wf = true := by
  unfold State.fault; dsimp only; (repeat' split) <;> simp [w]
@[simp] theorem State.raiseAt_wf {s : State} (k : Nat) (l : Level) (cause : Nat) (pc next val addr : Word) (late : Bool)
    (w : s.mem.wf = true) : (s.raiseAt k l cause pc next val addr late).mem.wf = true := by
  unfold State.raiseAt; dsimp only; (repeat' split) <;> simp [w]
@[simp] theorem State.raise_wf {s : State} (cause : Nat) (val addr : Word) (w : s.mem.wf = true) :
    (s.raise cause val addr).mem.wf = true := by simp [State.raise, w]
@[simp] theorem State.illegal_wf {s : State} (w : s.mem.wf = true) : s.illegal.mem.wf = true := by simp [State.illegal, w]
theorem State.trapReturn_wf {s : State} (w : s.mem.wf = true) {t : State} (h : s.trapReturn = some t) : t.mem.wf = true := by
  unfold State.trapReturn at h
  dsimp only at h
  split at h
  · split at h
    · split at h <;> cases h
      · exact State.raise_wf _ _ _ w
      · exact w
    · cases h
  · cases h

/-! ### Access -/

@[simp] theorem State.readMcst_wf {s : State} (k : Nat) (o : Op) (m : Mcast) (pa : Nat) (w : s.mem.wf = true) :
    (s.readMcst k o m pa).mem.wf = true := by
  have ht
      := State.trace_wf { pa := pa, size := 256, cls := .load, vd := (s.core k).owner, src := coreUnit k, rope := o.name } w
  unfold State.readMcst
  dsimp only
  split
  · exact w
  · split
    · rw [State.sendPkt_mem, State.portServed_mem]; exact ht
    · rw [State.sendMcst_mem, State.updOp_mem]
      exact State.foldl_wf (fun u i g => by rw [State.correct_mem]; exact g) _ (by rw [State.portServed_mem]; exact ht)
@[simp] theorem State.sendOp_wf {s : State} (k : Nat) (o : Op) (w : s.mem.wf = true) : (s.sendOp k o).mem.wf = true := by
  unfold State.sendOp; dsimp only; (repeat' split) <;> simp [w]
@[simp] theorem State.goLoad_wf {s : State} (k : Nat) (o : Op) (a : Acc) (w : s.mem.wf = true) :
    (s.goLoad k o a).mem.wf = true := by
  unfold State.goLoad; dsimp only; (repeat' split) <;> simp [w]
@[simp] theorem State.tryOp_wf {s : State} (k id : Nat) (w : s.mem.wf = true) : (s.tryOp k id).mem.wf = true := by
  unfold State.tryOp; dsimp only; (repeat' split) <;> simp [w]
@[simp] theorem State.pump_wf {s : State} (k : Nat) (w : s.mem.wf = true) : (s.pump k).mem.wf = true := by
  unfold State.pump
  exact State.foldl_wf (fun t id h => State.tryOp_wf _ _ h) _ w
@[simp] theorem State.scalarAccess_wf {s : State} (n : Nat) (rsel : Bool) (kind : Kind) (sc : Scope) (win : Bool)
    (el : El) (dest : Dest)
    (w : s.mem.wf = true) : (s.scalarAccess n rsel kind sc win el dest).mem.wf = true := by
  unfold State.scalarAccess; (repeat' split) <;> simp [w]

/-! ### Scalar -/

@[simp] theorem State.ptrMove_wf {s : State} (ra rd : XReg) (d : Int) (w : s.mem.wf = true) :
    (s.ptrMove ra rd d).mem.wf = true := by
  unfold State.ptrMove; dsimp only; (repeat' split) <;> simp [w]

/-! ### Control -/

@[simp] theorem State.done_wf {s : State} (w : s.mem.wf = true) : s.done.mem.wf = true := by
  unfold State.done; dsimp only; (repeat' split) <;> simp [w]

/-! ### Operands -/

@[simp] theorem State.illegalV_wf {s : State} (name : Nat) (w : s.mem.wf = true) :
    (s.illegalV name).mem.wf = true := by simp [State.illegalV, w]
@[simp] theorem State.fetchChunk_wf {s : State} (n : Nat) (st : Stream) (daz : Bool) (w : s.mem.wf = true) :
    (s.fetchChunk n st daz).mem.wf = true := by
  unfold State.fetchChunk; dsimp only; (repeat' split) <;> simp [w]
/-! A vector instruction stops at a source, a destination or a push that it cannot have. -/

theorem State.vsrc_wf {s t : State} {name : Nat} (w : s.mem.wf = true) (h : s.vsrc name = .stop t) : t.mem.wf = true := by
  unfold State.vsrc at h
  split at h
  · split at h
    · cases h; exact State.illegalV_wf _ w
    · dsimp only at h
      split at h
      · split at h <;> cases h
        exact State.fetchChunk_wf _ _ _ w
      · cases h; exact State.fetchChunk_wf _ _ _ w
  · split at h <;> cases h
    exact State.illegalV_wf _ w
theorem State.vsrcs_wf {s t : State} {names : List Nat} (w : s.mem.wf = true) (h : s.vsrcs names = .stop t) :
    t.mem.wf = true := by
  induction names with
  | nil => cases h
  | cons n ns ih =>
    unfold State.vsrcs at h
    split at h
    · rename_i hs; cases h; exact State.vsrc_wf w hs
    · split at h <;> cases h
      rename_i hs; exact ih hs
theorem State.vdst_wf {s t : State} {name : Nat} {old : Bool} (w : s.mem.wf = true) (h : s.vdst name old = .stop t) :
    t.mem.wf = true := by
  unfold State.vdst at h
  split at h
  · split at h <;> cases h
    exact State.illegalV_wf _ w
  · split at h <;> cases h
    exact State.illegalV_wf _ w
theorem State.pushCheck_wf {s t : State} {st : Stream} {mask : Word} (w : s.mem.wf = true)
    (h : s.pushCheck st mask = .stop t) :
    t.mem.wf = true := by
  unfold State.pushCheck at h
  dsimp only at h
  split at h
  · cases h; exact State.raise_wf _ _ _ w
  · split at h
    · cases h; exact State.raise_wf _ _ _ w
    · split at h
      · cases h; exact State.raise_wf _ _ _ w
      · cases h; rw [State.awaitPages_mem]; exact w
      · split at h <;> cases h
        rw [State.replay_mem]; exact w
@[simp] theorem State.vput_wf {s : State} (d : VDest) (srcs : List Nat) (mask : Word) (v : VReg) (fl : Flags) (lam : Nat)
    (w : s.mem.wf = true) : (s.vput d srcs mask v fl lam).mem.wf = true := by
  unfold State.vput
  split
  · exact w
  · split
    · rename_i h; exact State.pushCheck_wf w h
    · refine State.pump_wf _ ?_
      rw [State.retire_mem, State.storeLanes_mem]
      exact w
@[simp] theorem State.vlanes_wf {s : State} (srcs : List Nat) (vd : Nat) (old : Bool) (pg : PReg) (lam : Nat)
    (rounds : Bool) (f : Modes → List Lane → Lane → Flagged Lane)
    (w : s.mem.wf = true) : (s.vlanes srcs vd old pg lam rounds f).mem.wf = true := by
  unfold State.vlanes
  split
  · rename_i h; exact State.vsrcs_wf w h
  · split
    · rename_i h; exact State.vdst_wf w h
    · split
      · exact State.raise_wf _ _ _ w
      · exact State.vput_wf _ _ _ _ _ _ w

/-! ### System -/

@[simp] theorem State.cpgo_wf {s : State} (rd : XReg) (w : s.mem.wf = true) : (s.cpgo rd).mem.wf = true := by
  unfold State.cpgo; dsimp only; (repeat' split) <;> simp [w]
@[simp] theorem State.readCr_wf {s : State} (rd : XReg) (cr : Nat) (w : s.mem.wf = true) :
    (s.readCr rd cr).mem.wf = true := by
  unfold State.readCr; (repeat' split) <;> simp [w]
@[simp] theorem State.writeFcr_wf {s : State} (v : Word) (w : s.mem.wf = true) : (s.writeFcr v).mem.wf = true := by
  unfold State.writeFcr; (repeat' split) <;> simp [w]
@[simp] theorem State.loadTable_wf {s : State} (base : Word) (n : Nat) (f : Finish) (w : s.mem.wf = true) :
    (s.loadTable base n f).mem.wf = true := by
  unfold State.loadTable; dsimp only; (repeat' split) <;> simp [w]
@[simp] theorem State.writeDispbase_wf {s : State} (v : Word) (w : s.mem.wf = true) : (s.writeDispbase v).mem.wf = true := by
  unfold State.writeDispbase; split <;> simp [w]
@[simp] theorem State.writeTagbase_wf {s : State} (v : Word) (w : s.mem.wf = true) : (s.writeTagbase v).mem.wf = true := by
  unfold State.writeTagbase; split <;> simp [w]
@[simp] theorem State.writeRackfloor_wf {s : State} (v : Word) (w : s.mem.wf = true) :
    (s.writeRackfloor v).mem.wf = true := by
  unfold State.writeRackfloor; dsimp only; (repeat' split) <;> simp [w]
@[simp] theorem State.writeMxgov_wf {s : State} (v : Word) (w : s.mem.wf = true) : (s.writeMxgov v).mem.wf = true := by
  unfold State.writeMxgov; dsimp only; (repeat' split) <;> simp [w]
@[simp] theorem State.writePlain_wf {s : State} (cr : Nat) (v : Word) (w : s.mem.wf = true) :
    (s.writePlain cr v).mem.wf = true := by
  unfold State.writePlain; split <;> simp [w]
@[simp] theorem State.writeCr_wf {s : State} (cr : Nat) (v : Word) (w : s.mem.wf = true) :
    (s.writeCr cr v).mem.wf = true := by
  unfold State.writeCr; split <;> simp [w]

/-! ### Memory -/

@[simp] theorem State.loadX_wf {s : State} (n : Nat) (rsel : Bool) (k : Kind) (sc : Scope) (a : Word) (z : Nat)
    (signed : Bool) (rd : XReg)
    (w : s.mem.wf = true) : (s.loadX n rsel k sc a z signed rd).mem.wf = true := by simp [State.loadX, w]
@[simp] theorem State.storeX_wf {s : State} (n : Nat) (rsel : Bool) (k : Kind) (sc : Scope) (a : Word) (z : Nat) (v : Word)
    (w : s.mem.wf = true) : (s.storeX n rsel k sc a z v).mem.wf = true := by simp [State.storeX, w]
@[simp] theorem State.feAccess_wf {s : State} (rsel : Bool) (sc : Scope) (k : Kind) (c : AccClass) (ra : XReg)
    (v : Word) (d : Dest)
    (w : s.mem.wf = true) : (s.feAccess rsel sc k c ra v d).mem.wf = true := by simp [State.feAccess, w]
@[simp] theorem State.amoWith_wf {s : State} (rsel : Bool) (sc : Scope) (k : Kind) (op : AmoOp) (z : Nat)
    (ra rd : XReg) (v v' : Word)
    (w : s.mem.wf = true) : (s.amoWith rsel sc k op z ra rd v v').mem.wf = true := by simp [State.amoWith, w]
@[simp] theorem State.amo_wf {s : State} (rsel : Bool) (sc : Scope) (k : Kind) (op : AmoOp) (z : Nat) (ra rd : XReg)
    (w : s.mem.wf = true) : (s.amo rsel sc k op z ra rd).mem.wf = true := by simp [State.amo, w]

/-! ### Order -/

@[simp] theorem State.fenceWith_wf {s : State} (all : Bool) (sc : Scope) (w : s.mem.wf = true) :
    (s.fenceWith all sc).mem.wf = true := by simp [State.fenceWith, w]
@[simp] theorem State.noRope_wf {s : State} (name : Nat) (w : s.mem.wf = true) :
    (s.noRope name).mem.wf = true := by simp [State.noRope, w]

/-! ### Translate -/

@[simp] theorem State.tellPager_wf {s : State} (vd st p : Nat) (w : s.mem.wf = true) :
    (s.tellPager vd st p).mem.wf = true := by
  unfold State.tellPager
  dsimp only
  split
  · exact State.ringEntry_wf _ _ _ _ w
  · exact w
@[simp] theorem State.walkerReads_wf {s : State} (w : Walk) (seen : Seen) (hw : s.mem.wf = true) :
    (s.walkerReads w seen).mem.wf = true := by
  unfold State.walkerReads
  refine State.foldl_wf (fun t x h => ?_) _ hw
  rw [State.portServed_mem, State.correct_mem, State.lineServe_mem]
  exact State.trace_wf _ h

/-! ### Launch -/

@[simp] theorem State.unitServe_wf {s : State} (vd : Nat) (cls : AccClass) (pa n mt : Nat) (w : s.mem.wf = true) :
    (s.unitServe vd cls pa n mt).mem.wf = true := by
  unfold State.unitServe
  dsimp only
  split
  · rw [State.ownFrame_mem, (State.runServe_keeps _ _ _ _ _).1]
    exact State.trace_wf _ w
  · rw [(State.runServe_keeps _ _ _ _ _).1]
    exact State.trace_wf _ w
@[simp] theorem State.unitWrite_wf {s : State} (vd pa mt : Nat) (ws : List Word) (w : s.mem.wf = true) :
    (s.unitWrite vd pa mt ws).mem.wf = true := State.pokeRun_wf _ _ _ _ (State.unitServe_wf _ _ _ _ _ w)
theorem State.enqueue_wf {s t : State} {vd key q : Nat} {words : List Word} (w : s.mem.wf = true)
    (h : (∃ id, s.enqueue vd key q words = .done id t) ∨ s.enqueue vd key q words = .wait t) : t.mem.wf = true := by
  unfold State.enqueue at h
  dsimp only at h
  split at h
  · rcases h with ⟨_, h⟩ | h <;> cases h; exact w
  split at h
  · rcases h with ⟨_, h⟩ | h <;> cases h; exact w
  split at h
  · split at h
    · rcases h with ⟨_, h⟩ | h <;> cases h; exact w
    · rcases h with ⟨_, h⟩ | h <;> cases h
      rw [State.updVd_mem]
      exact State.unitWrite_wf _ _ _ _ (State.unitWrite_wf _ _ _ _ w)
  · rcases h with ⟨_, h⟩ | h <;> cases h; rw [State.askDirect_mem]; exact w
  · rcases h with ⟨_, h⟩ | h <;> cases h; rw [State.askDirect_mem]; exact w
  · rcases h with ⟨_, h⟩ | h <;> cases h; exact w
@[simp] theorem State.tryEnqueue_wf {s : State} (vd : Nat) (e : Enqueue) (w : s.mem.wf = true) :
    (s.tryEnqueue vd e).mem.wf = true := by
  unfold State.tryEnqueue
  split
  · rename_i h; rw [State.enqueueAnswer_mem]; exact State.enqueue_wf w (.inl ⟨_, h⟩)
  · rename_i h; rw [State.updVd_mem]; exact State.enqueue_wf w (.inr h)
@[simp] theorem State.retryEnqueues_wf {s : State} (vd : Nat) (w : s.mem.wf = true) :
    (s.retryEnqueues vd).mem.wf = true := by
  unfold State.retryEnqueues
  split
  · exact w
  · exact State.foldl_wf (fun t e h => State.tryEnqueue_wf _ _ h) _ (by rw [State.updVd_mem]; exact w)
theorem State.completionWrite_wf {s t : State} {vd q id va : Nat} {record : Bool} {ws : List Word} (w : s.mem.wf = true)
    (h : s.completionWrite vd q id va record ws = .ok t ∨ s.completionWrite vd q id va record ws = .wait t) : t.mem.wf = true := by
  unfold State.completionWrite at h
  split at h
  · split at h <;> rcases h with h | h <;> cases h
    · exact w
    · exact State.unitWrite_wf _ _ _ _ w
  · rcases h with h | h <;> cases h
    exact State.ringEntry_wf _ _ _ _ w
  · rcases h with h | h <;> cases h
    rw [State.askDirect_mem]; exact w
@[simp] theorem State.completeLaunch_wf {s : State} (vd q idx id status : Nat) (fault : Option (List Word)) (count : Nat)
    (w : s.mem.wf = true) : (s.completeLaunch vd q idx id status fault count).mem.wf = true := by
  unfold State.completeLaunch
  dsimp only
  split
  · rename_i h
    split at h
    · cases h; rw [State.askDirect_mem]; exact w
    · split at h <;> cases h
      exact w
    · cases h
  split
  · rename_i h
    split at h
    · exact State.completionWrite_wf w (.inr h)
    · cases h
  · rename_i t h
    have ht : t.mem.wf = true := by
      split at h
      · exact State.completionWrite_wf w (.inl h)
      · cases h; exact w
    split
    · rename_i g; exact State.completionWrite_wf ht (.inr g)
    · rename_i g
      have hu := State.completionWrite_wf ht (.inl g)
      rw [State.updVd_mem]
      refine State.ite_wf ?_ ?_
      · split
        · exact State.ringEntry_wf _ _ _ _ hu
        · exact hu
      · rw [State.leaveLaunch_mem]
        split
        · exact State.ringEntry_wf _ _ _ _ hu
        · exact hu
/-- What one queue offers to the launch unit, added to what the queues before it offer. -/
theorem State.offers_wf {s : State} (vd : Nat) (v : VDev) (w : s.mem.wf = true) : (s.offers vd v).2.mem.wf = true := by
  unfold State.offers
  generalize tab 8 id = qs
  generalize ha : (([] : List Offer), s) = a
  replace w : a.2.mem.wf = true := by rw [← ha]; exact w
  clear ha
  induction qs generalizing a with
  | nil => exact w
  | cons q qs ih =>
    refine ih _ ?_
    dsimp only
    split
    · exact w
    · split
      · exact w
      · split
        · split
          · exact w
          · split
            · rw [State.updVd_mem, State.untold_mem]
              exact State.unitServe_wf _ _ _ _ _ w
            · rw [State.updVd_mem, State.untold_mem]
              exact State.foldl_wf (fun t i h => by rw [State.correct_mem]; exact h) _ (State.unitServe_wf _ _ _ _ _ w)
        · rw [State.updVd_mem, State.untold_mem]; exact w
        · rw [State.askDirect_mem]; exact w
@[simp] theorem State.completeBad_wf {s : State} (vd : Nat) (r : Nat × Nat × Nat) (w : s.mem.wf = true) :
    (s.completeBad vd r).mem.wf = true := by simp [State.completeBad, w]
@[simp] theorem State.retryFailing_wf {s : State} (vd : Nat) (w : s.mem.wf = true) : (s.retryFailing vd).mem.wf = true := by
  unfold State.retryFailing
  split
  · exact w
  · exact State.foldl_wf (fun t r h => State.completeBad_wf _ _ h) _ w

/-! ### Sequencer -/

@[simp] theorem State.lateCause_wf {s : State} (k lev act launch cause : Nat) (pc val addr : Word) (late : Bool)
    (w : s.mem.wf = true) : (s.lateCause k lev act launch cause pc val addr late).mem.wf = true := by
  unfold State.lateCause; dsimp only; (repeat' split) <;> simp [w]
@[simp] theorem State.lateRaise_wf {s : State} (k : Nat) (o : Op) (cause : Nat) (val addr : Word) (w : s.mem.wf = true) :
    (s.lateRaise k o cause val addr).mem.wf = true := by
  unfold State.lateRaise; split <;> simp [w]
@[simp] theorem State.unitFault_wf {s : State} (k src lev launch cause : Nat) (pc val addr : Word) (w : s.mem.wf = true) :
    (s.unitFault k src lev launch cause pc val addr).mem.wf = true := by simp [State.unitFault, w]
@[simp] theorem State.pushSlot_wf {s : State} (k off : Nat) (o : Op) (fcr : Word) (w : s.mem.wf = true) :
    (s.pushSlot k off o fcr).mem.wf = true := by
  unfold State.pushSlot; dsimp only; (repeat' split) <;> simp [w]
@[simp] theorem State.readRows_wf {s : State} (k off str n bytes : Nat) (cls : AccClass) (w : s.mem.wf = true) :
    (s.readRows k off str n bytes cls).mem.wf = true := by
  unfold State.readRows
  refine State.foldl_wf (fun t r h => ?_) _ (by rw [State.portServed_mem]; exact w)
  exact State.foldl_wf (fun u i g => by rw [State.correct_mem]; exact g) _ (State.trace_wf _ h)
@[simp] theorem State.discard_wf {s : State} (k cause : Nat) (val addr : Word) (w : s.mem.wf = true) :
    (s.discard k cause val addr).mem.wf = true := by
  unfold State.discard; dsimp only; (repeat' split) <;> simp [w]
@[simp] theorem State.stcPoke_wf {s : State} (k off n v : Nat) (w : s.mem.wf = true) :
    (s.stcPoke k off n v).mem.wf = true := by
  unfold State.stcPoke
  rw [State.settleOld_mem]
  exact State.poke_wf _ _ _ _ w

/-! ### Owner -/

@[simp] theorem State.windowStore_wf {s : State} (p : Packet) (a : Acc) (op : Nat) (w : s.mem.wf = true) :
    (s.windowStore p a op).mem.wf = true := by
  unfold State.windowStore
  dsimp only
  split
  · exact w
  · split
    · exact w
    · rw [State.reply_mem]
      have h : (((((s.dropPkt p.id).trace a).store a a.data).portServed p.dst p.input).countWrite
          (nodeKey p.dst.chip p.dst.node) a).mem.wf = true := by
        rw [State.countWrite_mem, State.portServed_mem]
        exact State.store_wf _ _ (State.trace_wf _ w)
      split
      · exact State.pushSlot_wf _ _ _ _ h
      · exact h
/-- The gates of a memory controller count, and move no byte (R453, R454). -/
theorem State.gate_mem {s t : State} {p : Packet} {a : Acc} (h : s.gate p a = .go t ∨ s.gate p a = .hold t)
    : t.mem = s.mem := by
  unfold State.gate at h
  dsimp only at h
  (repeat' split at h) <;> rcases h with h | h <;> cases h <;> simp
@[simp] theorem State.performPkt_wf {s : State} (p : Packet) (a : Acc) (op : Nat) (w : s.mem.wf = true) :
    (s.performPkt p a op).mem.wf = true := by
  unfold State.performPkt
  split
  · exact w
  split
  · exact w
  split
  · exact w
  split
  · split
    · exact State.windowStore_wf _ _ _ w
    · rw [State.reply_mem, State.portServed_mem]
      exact State.trace_wf _ w
  split
  · exact w
  split
  · rename_i h
    rw [State.gate_mem (.inr h)]; exact w
  · exact w
  · rename_i t h
    have ht : ((t.dropPkt p.id).portServed p.dst p.input).mem.wf = true := by
      rw [State.portServed_mem, State.dropPkt_mem, State.gate_mem (.inl h)]; exact w
    dsimp only
    generalize (t.dropPkt p.id).portServed p.dst p.input = u at ht
    have hu : (if u.populated a.pa then (u.trace a).l2Fill a.pa a.mt else u).mem.wf = true := by
      split
      · rw [State.l2Fill_mem]; exact State.trace_wf _ ht
      · exact ht
    generalize (if u.populated a.pa then (u.trace a).l2Fill a.pa a.mt else u) = x at hu
    split
    · simpa using hu
    · simpa using hu
    · rename_i h
      rw [State.reply_mem, State.afterAcc_mem]
      exact State.perform_wf hu h
    · split
      · split
        · split <;> exact hu
        · exact hu
      · exact hu
@[simp] theorem State.performAread_wf {s : State} (p : Packet) (pa len op : Nat) (w : s.mem.wf = true) :
    (s.performAread p pa len op).mem.wf = true := by
  unfold State.performAread
  dsimp only
  split
  · exact w
  split
  · exact w
  split
  · exact w
  split
  · rename_i h
    rw [State.gate_mem (.inr h)]; exact w
  · exact w
  · rename_i t h
    have ht : ((t.dropPkt p.id).portServed p.dst p.input).mem.wf = true := by
      rw [State.portServed_mem, State.dropPkt_mem, State.gate_mem (.inl h)]; exact w
    generalize (t.dropPkt p.id).portServed p.dst p.input = u at ht
    split
    · exact ht
    · generalize hx : State.l2Run _ pa len _ = x
      have hxw : x.mem.wf = true := by
        rw [← hx, State.l2Run_mem]
        split
        · exact State.trace_wf _ ht
        · rw [State.memServe_mem]; exact State.trace_wf _ ht
      split
      · rw [State.sendPkt_mem, State.eccSeen_mem]; exact hxw
      · rw [State.sendPkt_mem]
        exact State.foldl_wf (fun y i g => by rw [State.correct_mem]; exact g) _ hxw
@[simp] theorem State.copyWord_wf {s : State} (src : UnitId) (vd pa mt : Nat) (v : Word) (full : Option Bool)
    (w : s.mem.wf = true) : (s.copyWord src vd pa mt v full).mem.wf = true := by
  unfold State.copyWord
  dsimp only
  refine State.pokeRun_wf _ _ _ _ ?_
  rw [State.ownFrame_mem, State.lineServe_mem]
  exact State.trace_wf _ w
@[simp] theorem State.landCopy_wf {s : State} (p : Packet) (k part : Nat) (ws : List (Nat × Nat × Word × Option Bool))
    (w : s.mem.wf = true) : (s.landCopy p k part ws).mem.wf = true := by
  unfold State.landCopy
  dsimp only
  split
  · exact w
  split
  · exact w
  split
  · exact w
  · rw [State.sendPkt_mem, State.dropPkt_mem]
    exact State.foldl_wf (fun t x h => State.copyWord_wf _ _ _ _ _ _ h) _ (by rw [State.portServed_mem]; exact w)

/-! ### Complete -/

@[simp] theorem State.finish_wf {s : State} (k : Nat) (c : Coll) (w : s.mem.wf = true) : (s.finish k c).mem.wf = true := by
  unfold State.finish; dsimp only; (repeat' split) <;> simp [w]
@[simp] theorem State.gatherEnd_wf {s : State} (k : Nat) (c : Coll) (w : s.mem.wf = true) :
    (s.gatherEnd k c).mem.wf = true := by
  unfold State.gatherEnd; split <;> simp [w]
@[simp] theorem State.feed_wf {s : State} (k id part : Nat) (v : Word) (bad : Option (Nat × Word)) (w : s.mem.wf = true) :
    (s.feed k id part v bad).mem.wf = true := by
  unfold State.feed
  split
  · exact w
  · dsimp only
    split
    · exact State.gatherEnd_wf _ _ w
    · exact w
@[simp] theorem State.inlineChild_wf {s : State} (k : Nat) (o : Op) (pc : Word) (w : s.mem.wf = true) :
    (s.inlineChild k o pc).mem.wf = true := by
  unfold State.inlineChild; dsimp only; (repeat' split) <;> simp [w]
@[simp] theorem State.expire_wf {s : State} (k : Nat) (l : Level) (cause : Nat) (pc addr : Word) (w : s.mem.wf = true) :
    (s.expire k l cause pc addr).mem.wf = true := by simp [State.expire, w]
@[simp] theorem State.answered_wf {s : State} (k : Nat) (o : Op) (st : Nat) (v : Word)
    (line : Option (Nat × List Byte × List Nat))
    (w : s.mem.wf = true) : (s.answered k o st v line).mem.wf = true := by
  unfold State.answered; dsimp only; (repeat' split) <;> simp [w]
@[simp] theorem State.refused_wf {s : State} (k : Nat) (o : Op) (w : s.mem.wf = true) : (s.refused k o).mem.wf = true := by
  unfold State.refused; dsimp only; (repeat' split) <;> simp [w]
@[simp] theorem State.respond_wf {s : State} (k : Nat) (o : Op) (st : Nat) (v : Word)
    (line : Option (Nat × List Byte × List Nat)) (slotless : Bool)
    (w : s.mem.wf = true) : (s.respond k o st v line slotless).mem.wf = true := by
  unfold State.respond; dsimp only; (repeat' split) <;> simp [w]
@[simp] theorem State.takeAnswer_wf {s : State} (p : Packet) (w : s.mem.wf = true) : (s.takeAnswer p).mem.wf = true := by
  unfold State.takeAnswer; dsimp only; (repeat' split) <;> simp [w]

/-! ### VectorArith -/

@[simp] theorem State.vv_wf {s : State} (pg : PReg) (vb va vd : VName) (f : Lane → Lane → Lane) (w : s.mem.wf = true) :
    (s.vv pg vb va vd f).mem.wf = true := by simp [State.vv, w]
@[simp] theorem State.vvF_wf {s : State} (pg : PReg) (vb va vd : VName) (f : RMode → FVal → FVal → Flagged FVal)
    (w : s.mem.wf = true) : (s.vvF pg vb va vd f).mem.wf = true := by simp [State.vvF, w]
@[simp] theorem State.vfma_wf {s : State} (pg : PReg) (vb va vd : VName) (f : RMode → FVal → FVal → FVal → Flagged FVal)
    (w : s.mem.wf = true) : (s.vfma pg vb va vd f).mem.wf = true := by simp [State.vfma, w]
@[simp] theorem State.vvMinMax_wf {s : State} (pg : PReg) (vb va vd : VName) (f : Lane → Lane → Lane) (w : s.mem.wf = true) :
    (s.vvMinMax pg vb va vd f).mem.wf = true := by simp [State.vvMinMax, w]
@[simp] theorem State.vx_wf {s : State} (pg : PReg) (va vd : VName) (f : Lane → Lane) (w : s.mem.wf = true) :
    (s.vx pg va vd f).mem.wf = true := by simp [State.vx, w]
@[simp] theorem State.vxF_wf {s : State} (pg : PReg) (va vd : VName) (lam : Nat) (f : Modes → Lane → Flagged Lane)
    (w : s.mem.wf = true) : (s.vxF pg va vd lam f).mem.wf = true := by simp [State.vxF, w]
@[simp] theorem State.vcmp_wf {s : State} (pg : PReg) (vb va : VName) (pd : PReg) (f : Bool → Lane → Lane → Bool)
    (w : s.mem.wf = true) : (s.vcmp pg vb va pd f).mem.wf = true := by
  unfold State.vcmp
  split
  · rename_i h; exact State.vsrcs_wf w h
  · exact w
@[simp] theorem State.vred_wf {s : State} (pg : PReg) (va : VName) (rd : XReg)
    (f : Modes → List (Option Lane) → Flagged Word)
    (w : s.mem.wf = true) : (s.vred pg va rd f).mem.wf = true := by
  unfold State.vred
  split
  · rename_i h; exact State.vsrc_wf w h
  · exact w
@[simp] theorem State.vmove_wf {s : State} (srcs : List Nat) (vd : VName) (lam : Nat) (f : List VReg → VReg)
    (w : s.mem.wf = true) : (s.vmove srcs vd lam f).mem.wf = true := by
  unfold State.vmove
  split
  · rename_i h; exact State.vsrcs_wf w h
  · split
    · rename_i h; exact State.vdst_wf w h
    · exact State.vput_wf _ _ _ _ _ _ w

/-! ### VectorMem -/

@[simp] theorem State.vload_wf {s : State} (rsel : Bool) (kind : Kind) (sc : Scope) (p : Word) (idx : Nat → Int)
    (srcs : List Nat) (pg : PReg) (vd : VName)
    (w : s.mem.wf = true) : (s.vload rsel kind sc p idx srcs pg vd).mem.wf = true := by
  unfold State.vload
  split
  · exact State.raise_wf _ _ _ w
  · split
    · rename_i h; exact State.vdst_wf w h
    · split
      · exact State.raise_wf _ _ _ w
      · dsimp only
        split
        · exact State.raise_wf _ _ _ w
        · rw [State.awaitPages_mem]; exact w
        · exact State.vput_wf _ _ _ _ _ _ w
        · split
          · rw [State.replay_mem]; exact w
          · split
            · refine State.pump_wf _ ?_
              rw [State.retire_mem, State.share_mem, State.gather_mem]; exact w
            · split
              · rename_i h; exact State.pushCheck_wf w h
              · refine State.pump_wf _ ?_
                rw [State.retire_mem, State.share_mem, State.loadPush_mem]; exact w
@[simp] theorem State.vstore_wf {s : State} (rsel : Bool) (kind : Kind) (sc : Scope) (p : Word) (vs : VName)
    (val : VReg) (idx : Nat → Int) (srcs : List Nat) (pg : PReg)
    (w : s.mem.wf = true) : (s.vstore rsel kind sc p vs val idx srcs pg).mem.wf = true := by
  unfold State.vstore; dsimp only; (repeat' split) <;> simp [w]
theorem State.sliceCheck_wf {s : State} (mask : Word) (va : VReg) (w : s.mem.wf = true)
    {t : State} (h : s.sliceCheck mask va = some t) : t.mem.wf = true := by
  unfold State.sliceCheck at h
  dsimp only at h
  split at h
  · cases h; exact State.raise_wf _ _ _ w
  · split at h
    · cases h; exact State.raise_wf _ _ _ w
    · obtain ⟨i, -, rfl⟩ := Option.map_eq_some_iff.mp h
      exact State.raise_wf _ _ _ w

/-! ### MemMgt -/

@[simp] theorem State.cacheOp_wf {s : State} (off : BitVec 5) (ra : XReg) (w : Nat → Work) (hw : s.mem.wf = true) :
    (s.cacheOp off ra w).mem.wf = true := by
  unfold State.cacheOp; dsimp only; (repeat' split) <;> simp [hw]

/-! ### Cairn -/

@[simp] theorem State.spill_wf {s : State} (v : VDev) (node : Nat) (p : Packet) (q : Post) (op : Nat) (w : s.mem.wf = true) :
    (s.spill v node p q op).mem.wf = true := by
  unfold State.spill
  refine State.ite_wf (by simpa using w) ?_
  dsimp only
  split
  · simpa using w
  · simpa using w
  · simpa using w
  refine State.ite_wf (by simpa using w) (State.ite_wf (by simpa using w) (State.ite_wf w ?_))
  rw [State.ackPost_mem, State.updCairn_mem]
  refine State.pokeRun_wf _ _ _ _ ?_
  rw [State.ownFrame_mem, (State.runServe_keeps _ _ _ _ _).1]
  refine State.trace_wf _ ?_
  rw [State.updCairn_mem, State.ringTook_mem]
  exact w
@[simp] theorem State.takePost_wf {s : State} (v : VDev) (node : Nat) (p : Packet) (q : Post) (op : Nat)
    (w : s.mem.wf = true) :
    (s.takePost v node p q op).mem.wf = true := by
  have full : (s.ackPost p op 1 0).mem.wf = true := by rw [State.ackPost_mem]; exact w
  have ring := State.spill_wf v node p q op w
  unfold State.takePost
  refine State.ite_wf (State.ite_wf full ring) ?_
  split
  · rw [State.ackPost_mem, State.updClu_mem]; exact w
  · refine State.ite_wf ?_ (State.ite_wf full ring)
    rw [State.ackPost_mem, State.updCairn_mem, State.updClu_mem]; exact w
@[simp] theorem State.post_wf {s : State} (cls : Nat) (ra rb : XReg) (rope : Nat) (strict : Option Nat)
    (after : Nat → Lvl → Lvl)
    (w : s.mem.wf = true) : (s.post cls ra rb rope strict after).mem.wf = true := by
  unfold State.post; dsimp only; (repeat' split) <;> simp [w]
@[simp] theorem State.postAcked_wf {s : State} (k : Nat) (o : Op) (q : Post) (strict : Option Nat) (status outcome : Nat)
    (w : s.mem.wf = true) : (s.postAcked k o q strict status outcome).mem.wf = true := by
  unfold State.postAcked; dsimp only; (repeat' split) <;> simp [w]

/-! ### Activation -/

@[simp] theorem State.entryRead_wf {s : State} (k pa mt : Nat) (w : s.mem.wf = true) :
    (s.entryRead k pa mt).mem.wf = true := by
  have h := State.runServe_keeps
      (s.trace { pa := pa, size := 16, cls := .load, kind := .s, mt := mt, vd := (s.core k).owner, src := coreUnit k })
    (s.core k).owner pa 16 mt
  unfold State.entryRead
  rw [State.correct_mem, State.correct_mem, h.1]
  exact State.trace_wf _ w
@[simp] theorem State.startSlot_wf {s : State} (k : Nat) (l : Level) (i : Nat) (w : s.mem.wf = true) :
    (s.startSlot k l i).mem.wf = true := by
  unfold State.startSlot; dsimp only; (repeat' split) <;> simp [w]

/-! ### Copy -/

@[simp] theorem State.copyFail_wf {s : State} (k : Nat) (t : Xfer) (cause : Nat) (val addr : Word) (w : s.mem.wf = true) :
    (s.copyFail k t cause val addr).mem.wf = true := by simp [State.copyFail, w]
@[simp] theorem State.copyMove_wf {s : State} (k : Nat) (t : Xfer) (ps : List (Placed × Placed)) (w : s.mem.wf = true) :
    (s.copyMove k t ps).mem.wf = true := by
  unfold State.copyMove
  dsimp only
  generalize hs : List.foldl (fun (s : State) (w : Placed × Placed) => _) s ps = u
  have hu : u.mem.wf = true := by
    rw [← hs]
    refine State.foldl_wf (fun t x h => ?_) _ w
    rw [State.correct_mem, State.lineServe_mem]
    exact State.trace_wf _ h
  generalize hs : List.foldl (fun s x => State.copyWord s _ _ _ _ _ _) u _ = y
  have hy : y.mem.wf = true := by
    rw [← hs]
    exact State.foldl_wf (fun t x h => State.copyWord_wf _ _ _ _ _ _ h) _ hu
  have hf := fun (l : List UnitId) (f : State → UnitId → _) (g : State → UnitId → _) (h : State → UnitId → _) =>
    State.foldl_wf (fun t a ht => by rw [State.flyPart_mem t k a (f t a) (g t a) (h t a)]; exact ht) l hy
  exact State.ite_wf (by rw [State.sectorOver_mem]; exact hf _ _ _ _) (hf _ _ _ _)
@[simp] theorem State.copyAnswer_wf {s : State} (p : Packet) (k part st : Nat) (w : s.mem.wf = true) :
    (s.copyAnswer p k part st).mem.wf = true := by
  unfold State.copyAnswer; dsimp only; (repeat' split) <;> simp [w]
@[simp] theorem State.copySector_wf {s : State} (k : Nat) (t : Xfer) (w : s.mem.wf = true) :
    (s.copySector k t).mem.wf = true := by
  unfold State.copySector
  dsimp only
  split
  · rw [State.copyDone_mem]; exact w
  split
  · exact State.copyFail_wf _ _ _ _ _ w
  · have h := State.foldl_wf (fun (t : State) p (h : t.mem.wf = true) => by
      rw [State.askWalk_mem t (s.core k).owner p (.copyUnit (keyCluster k) k)]; exact h)
    split
    · rw [State.parkCopy_mem]; exact h _ w
    · exact h _ w
  · split
    · exact State.copyFail_wf _ _ _ _ _ w
    · split
      · rw [State.sectorAsk_mem]; exact w
      · split
        · exact State.copyFail_wf _ _ _ _ _ w
        · split
          · exact State.copyFail_wf _ _ _ _ _ (by rw [State.eccSeen_mem]; exact w)
          · exact State.copyMove_wf _ _ _ (by rw [State.sectorUse_mem]; exact w)

/-! ### Links -/

@[simp] theorem State.repairEntry_wf {s : State} (chip vd element num outcome : Nat) (lost : List Nat)
    (w : s.mem.wf = true) :
    (s.repairEntry chip vd element num outcome lost).mem.wf = true := State.ringEntry_wf _ _ _ _ w

/-! ### Multicast -/

@[simp] theorem State.storeLine_wf {s : State} (p : Packet) (m : Mcast) (data : List Byte) (line : Nat)
    (w : s.mem.wf = true) :
    (s.storeLine p m data line).mem.wf = true := by
  unfold State.storeLine
  dsimp only
  split
  · simpa using w
  split
  · simpa using w
  · simpa using w
  · simpa using w
  split
  · simpa using w
  split
  · simpa using w
  split
  · exact w
  · rw [State.memberSays_mem]
    refine State.pokeRun_wf _ _ _ _ ?_
    rw [State.ownFrame_mem, State.lineServe_mem, State.portServed_mem]
    exact State.trace_wf _ w
@[simp] theorem State.readLine_wf {s : State} (u : UnitId) (vd pa mt : Nat) (w : s.mem.wf = true) :
    (s.readLine u vd pa mt).2.2.mem.wf = true := by
  unfold State.readLine
  refine State.foldl_wf (fun t i h => by rw [State.correct_mem]; exact h) _ ?_
  rw [State.lineServe_mem]
  exact State.trace_wf _ w
@[simp] theorem State.sendLine_wf {s : State} (u : UnitId) (e : Merge) (line : Nat) (core : Option UnitId)
    (f : Merge → Merge)
    (w : s.mem.wf = true) : (s.sendLine u e line core f).mem.wf = true := by
  unfold State.sendLine
  dsimp only
  rw [State.updMerge_mem, State.sendHeld_mem]
  exact State.readLine_wf _ _ _ _ w
@[simp] theorem State.landLine_wf {s : State} (home : UnitId) (k g pa line : Nat) (data : List Byte) (bad : List Nat)
    (w : s.mem.wf = true) : (s.landLine home k g pa line data bad).2.2.mem.wf = true := by
  unfold State.landLine
  split
  · exact w
  · dsimp only
    split
    · simpa using w
    · rw [State.settleMcld_mem]
      exact State.pokeRun_wf _ _ _ _ (State.trace_wf _ w)

/-! ### Preempt -/

@[simp] theorem State.clearBlock_wf {s : State} (base size : Nat) (w : s.mem.wf = true) :
    (s.clearBlock base size).mem.wf = true := Memory.wf_clear _ _ w
@[simp] theorem State.restoreBlocks_wf {s : State} (vd : Nat) (v : VDev) (w : s.mem.wf = true) :
    (s.restoreBlocks vd v).mem.wf = true := by
  have hm : ∀ (cs : List (Nat × Byte)) (m : Memory), m.wf = true → Memory.wf (cs.foldl (fun (m : Memory) (c : Nat × Byte) =>
      match savedAt (s.vdBlocks vd v) c.1 with
      | some a => m.write a c.2
      | none => m) m) = true := by
    intro cs
    induction cs with
    | nil => exact fun _ h => h
    | cons c cs ih =>
      refine fun m h => ih _ ?_
      dsimp only
      split
      · exact Memory.wf_write _ _ h
      · exact h
  unfold State.restoreBlocks
  dsimp only
  refine State.foldl_wf (fun t x h => ?_) _ ?_
  · split
    · exact h
    · exact h
    · exact h
  · exact hm _ _ (State.foldl_wf (fun t b h => State.clearBlock_wf _ _ h) _ w)
@[simp] theorem State.resumeVd_wf {s : State} (vd : Nat) (v : VDev) (w : s.mem.wf = true) :
    (s.resumeVd vd v).mem.wf = true := by
  unfold State.resumeVd
  dsimp only
  rw [State.updVd_mem, State.foldl_mem (fun t i => State.resumeCluster_mem t vd v i),
    State.foldl_mem (fun t n => State.resumeCore_mem t vd v n)]
  split
  · exact w
  · exact State.restoreBlocks_wf _ _ w
@[simp] theorem State.bivouac_wf {s : State} (chip slot : Nat) (w : s.mem.wf = true) :
    (s.bivouac chip slot).mem.wf = true := by
  unfold State.bivouac
  dsimp only
  split
  · exact w
  · rename_i v _
    refine State.ite_wf w (State.ite_wf ?_ ?_)
    · rw [State.stopVd_mem, State.updVd_mem]
      exact State.poke_wf v.wakeAddr 8 0 0 w
    · rw [State.updVd_mem, State.updVd_mem]
      exact State.poke_wf v.wakeAddr 8 0 0 w
@[simp] theorem State.purgePosts_wf {s : State} (k : Nat) (w : s.mem.wf = true) : (s.purgePosts k).mem.wf = true := by
  unfold State.purgePosts
  dsimp only
  refine State.foldl_wf (fun t l h => ?_) _ w
  split
  · split
    · exact State.raiseAt_wf _ _ _ _ _ _ _ _ h
    · exact h
  · exact h
@[simp] theorem State.resetVd_wf {s : State} (vd : Nat) (v : VDev) (scope : List Nat) (w : s.mem.wf = true) :
    (s.resetVd vd v scope).mem.wf = true := by
  unfold State.resetVd
  dsimp only
  refine State.foldl_wf (fun t j h => State.completeLaunch_wf _ _ _ _ _ _ _ h) _ ?_
  rw [State.updVd_mem, State.dropWaits_mem, State.purgeRetry_mem, State.foldl_mem (fun t c => State.purgeChip_mem t vd c scope)]
  refine State.foldl_wf (fun t k h => ?_) _ w
  split
  · exact h
  · exact State.purgePosts_wf _ h
@[simp] theorem State.vdReset_wf {s : State} (chip slot : Nat) (w : s.mem.wf = true) :
    (s.vdReset chip slot).mem.wf = true := by
  unfold State.vdReset; dsimp only; (repeat' split) <;> simp [w]
@[simp] theorem State.resetMcast_wf {s : State} (vd k : Nat) (w : s.mem.wf = true) : (s.resetMcast vd k).mem.wf = true := by
  unfold State.resetMcast
  refine State.foldl_wf (fun t g h => ?_) _ w
  rw [State.abortMsg_mem]
  refine State.foldl_wf (fun u l hu => ?_) _ h
  dsimp only
  split
  · exact State.raiseAt_wf _ _ _ _ _ _ _ _ hu
  · exact hu
@[simp] theorem State.discardLines_wf {s : State} (vd : Nat) (w : s.mem.wf = true) : (s.discardLines vd).mem.wf = true := by
  unfold State.discardLines
  refine State.foldl_wf (fun t m h => ?_) _ w
  dsimp only
  split
  · exact h
  · exact Memory.wf_writeBytes _ _ (Memory.wf_clear _ _ h)
@[simp] theorem State.clearSram_wf {s : State} (vd : Nat) (v : VDev) (scope : List Nat) (w : s.mem.wf = true) :
    (s.clearSram vd v scope).mem.wf = true := by
  unfold State.clearSram
  dsimp only
  refine State.discardLines_wf _ ?_
  refine State.foldl_wf (fun t n h => ?_) _ (State.foldl_wf (fun t b h => State.clearBlock_wf _ _ h) _ w)
  split <;> exact h

/-! ### Repair -/

@[simp] theorem State.copySpare_wf {s : State} (src dst i : Nat) (w : s.mem.wf = true) :
    (s.copySpare src dst i).mem.wf = true := by
  unfold State.copySpare
  dsimp only
  split <;> exact State.poke_wf _ _ _ _ w

/-! ### Supervisor -/

@[simp] theorem State.vdCommand_wf {s : State} (chip slot : Nat) (w : Word) (hw : s.mem.wf = true) :
    (s.vdCommand chip slot w).mem.wf = true := by
  unfold State.vdCommand
  split
  · exact hw
  · split
    · exact State.vdReset_wf _ _ hw
    · exact State.bivouac_wf _ _ hw
    · rw [State.thaw_mem]; exact hw
    · exact hw
/-- What holds of either branch of a choice holds of what it answers. -/
theorem some_of_ite {α : Type} {c P : Prop} [Decidable c] {x y : Option α} {a : α} (h : (if c then x else y) = some a)
    (hx : x = some a → P) (hy : y = some a → P) : P := by
  by_cases hc : c
  · rw [if_pos hc] at h; exact hx h
  · rw [if_neg hc] at h; exact hy h

theorem State.slotWrite_wf {s t : State} {chip slot o : Nat} {x : Word} (w : s.mem.wf = true)
    (h : s.slotWrite chip slot o x = some t) : t.mem.wf = true := by
  have none_no : (none : Option State) = some t → t.mem.wf = true := fun h => nomatch h
  have upd : ∀ f, some (s.updSlot chip slot f) = some t → t.mem.wf = true := fun f h => by cases h; exact w
  unfold State.slotWrite at h
  refine some_of_ite h (fun h => some_of_ite h none_no (upd _)) fun h => ?_
  refine some_of_ite h (fun h => by rw [State.baseWrite_mem _ _ _ _ _ h]; exact w) fun h => ?_
  refine some_of_ite h (fun h => by rw [State.baseWrite_mem _ _ _ _ _ h]; exact w) fun h => ?_
  refine some_of_ite h (fun h => by cases h; exact State.vdCommand_wf _ _ _ w) fun h => ?_
  refine some_of_ite h (fun h => some_of_ite h none_no (upd _)) fun h => ?_
  refine some_of_ite h (fun h => by rw [State.dispinit_mem _ _ _ _ h]; exact w) fun h => ?_
  refine some_of_ite h (fun h => some_of_ite h none_no (upd _)) fun h => ?_
  refine some_of_ite h (fun h => by rw [State.queueWrite_mem _ _ _ _ _ h]; exact w) fun h => ?_
  refine some_of_ite h (upd _) fun h => ?_
  refine some_of_ite h (fun h => some_of_ite h none_no (upd _)) fun h => ?_
  refine some_of_ite h (fun h => by rw [State.capsWrite_mem _ _ _ _ _ h]; exact w) fun h => ?_
  refine some_of_ite h (fun h => by rw [State.injWrite_mem _ _ _ _ _ h]; exact w) fun h => ?_
  exact some_of_ite h (fun h => some_of_ite h none_no (upd _)) none_no
theorem State.supWrite_wf {s t : State} {chip off : Nat} {x : Word} (w : s.mem.wf = true)
    (h : s.supWrite chip off x = some t) : t.mem.wf = true := by
  unfold State.supWrite at h
  split at h
  · rw [State.chipWrite_mem _ _ _ _ h]; exact w
  split at h
  · split at h <;> cases h; exact w
  split at h
  · dsimp only at h
    split at h <;> cases h
    · rw [State.groupWrite_mem]; exact w
    · exact w
  split at h
  · exact State.slotWrite_wf w h
  · cases h

/-! ### HostLink -/

theorem State.hostPerform_wf {s t : State} {a : Acc} (w : s.mem.wf = true)
    (h : (∃ v, s.hostPerform a = .done v t) ∨ s.hostPerform a = .wait t ∨ ∃ st, s.hostPerform a = .fail st t) : t.mem.wf = true := by
  have ht : ((s.trace a).lineServe a.vd a.pa a.mt).mem.wf = true := by rw [State.lineServe_mem]; exact State.trace_wf _ w
  unfold State.hostPerform at h
  dsimp only at h
  split at h
  · rcases h with ⟨_, h⟩ | h | ⟨_, h⟩ <;> cases h; exact w
  split at h
  · rcases h with ⟨_, h⟩ | h | ⟨_, h⟩ <;> cases h; exact w
  split at h
  · rcases h with ⟨_, h⟩ | h | ⟨_, h⟩ <;> cases h; exact w
  split at h
  · rename_i u hp
    have hu := State.perform_wf ht hp
    rcases h with ⟨_, h⟩ | h | ⟨_, h⟩ <;> cases h
    split
    · rw [State.ownFrame_mem]; exact hu
    · exact hu
  · rcases h with ⟨_, h⟩ | h | ⟨_, h⟩ <;> cases h; exact w
  · rcases h with ⟨_, h⟩ | h | ⟨_, h⟩ <;> cases h; exact w
  · rcases h with ⟨_, h⟩ | h | ⟨_, h⟩ <;> cases h
    rw [State.eccSeen_mem]; exact ht
theorem State.hostAccess_wf {s t : State} {q : HostReq} {size need : Nat} {cls : AccClass} {data : Word}
    (w : s.mem.wf = true)
    (h : (∃ v, s.hostAccess q size need cls data = .done v t) ∨ s.hostAccess q size need cls data = .wait t ∨
      ∃ st, s.hostAccess q size need cls data = .fail st t) : t.mem.wf = true := by
  unfold State.hostAccess at h
  dsimp only at h
  split at h
  · rcases h with ⟨_, h⟩ | h | ⟨_, h⟩ <;> cases h; exact w
  split at h
  · rcases h with ⟨_, h⟩ | h | ⟨_, h⟩ <;> cases h
    rw [State.askDirect_mem]; exact w
  · rcases h with ⟨_, h⟩ | h | ⟨_, h⟩ <;> cases h; exact w
  · rcases h with ⟨_, h⟩ | h | ⟨_, h⟩ <;> cases h; exact w
  · exact State.hostPerform_wf w h
@[simp] theorem State.hostWriteStep_wf {s : State} (q : HostReq) (w : s.mem.wf = true) :
    (s.hostWriteStep q).mem.wf = true := by
  unfold State.hostWriteStep
  split
  · rw [State.hostAnswer_mem]; exact w
  · dsimp only
    split
    · rename_i h; rw [State.setHostReq_mem]; exact State.hostAccess_wf w (.inr (.inl h))
    · rename_i h; rw [State.hostAnswer_mem, State.untold_mem]; exact State.hostAccess_wf w (.inr (.inr ⟨_, h⟩))
    · rename_i h
      have ht := State.hostAccess_wf w (.inl ⟨_, h⟩)
      split
      · rw [State.hostAnswer_mem]; exact ht
      · exact ht
@[simp] theorem State.hostReadStep_wf {s : State} (q : HostReq) (w : s.mem.wf = true) :
    (s.hostReadStep q).mem.wf = true := by
  unfold State.hostReadStep
  split
  · rw [State.hostAnswer_mem]; exact w
  · dsimp only
    split
    · rename_i h; rw [State.setHostReq_mem]; exact State.hostAccess_wf w (.inr (.inl h))
    · rename_i h; rw [State.hostAnswer_mem, State.untold_mem]; exact State.hostAccess_wf w (.inr (.inr ⟨_, h⟩))
    · rename_i h
      have ht := State.hostAccess_wf w (.inl ⟨_, h⟩)
      split
      · rw [State.hostAnswer_mem]; exact ht
      · exact ht
@[simp] theorem State.supWriteRun_wf {s : State} (chip off : Nat) (ws : List Word) (w : s.mem.wf = true) :
    (s.supWriteRun chip off ws).2.mem.wf = true := by
  induction ws generalizing s off with
  | nil => exact w
  | cons x ws ih =>
    unfold State.supWriteRun
    split
    · rename_i h; exact ih _ (State.supWrite_wf w h)
    · exact w

/-! ### Power -/

@[simp] theorem State.powerDown_wf {s : State} (chip : Nat) (w : s.mem.wf = true) :
    (s.powerDown chip).mem.wf = true := Memory.wf_filter _ w
@[simp] theorem State.powerLoss_wf {s : State} (chip : Nat) (w : s.mem.wf = true) :
    (s.powerLoss chip).mem.wf = true := Memory.wf_filter _ (State.powerDown_wf _ w)

/-! ### Issue -/

@[simp] theorem State.useParcel_wf {s : State} (k : Nat) (u : ParcelUse) (w : s.mem.wf = true) :
    (s.useParcel k u).mem.wf = true := by
  unfold State.useParcel
  dsimp only
  split
  · rw [State.updClu_mem, State.correct_mem, State.lineServe_mem]
    exact State.trace_wf _ w
  · exact w
@[simp] theorem State.beginIssue_wf {s : State} (is_ : Issuer) (word : Nat) (uses : List ParcelUse) (w : s.mem.wf = true) :
    (s.beginIssue is_ word uses).mem.wf = true := by
  unfold State.beginIssue
  exact State.foldl_wf (fun t u h => State.useParcel_wf _ _ h) uses (s := { s with cur := is_, free := s.free + 4 }) w

end Sys2Proof.Machine
end

section
/-! The instructions and events, one by one: none of them breaks the canonical form of the memory. -/

namespace Sys2Proof.Machine

/-- The state that an instruction or event answers, if it answers one, has its memory in canonical form. -/
def KeepsForm (o : Outc) : Prop := ∀ t, o = .next t → t.mem.wf = true

theorem KeepsForm.next {t : State} (h : t.mem.wf = true) : KeepsForm (.next t) := fun _ e => by cases e; exact h
@[simp] theorem keepsForm_next {t : State} : KeepsForm (.next t) ↔ t.mem.wf = true := ⟨fun h => h t rfl, .next⟩
theorem KeepsForm.ite {c : Prop} [Decidable c] {x y : Outc} (hx : KeepsForm x) (hy : KeepsForm y) :
    KeepsForm (if c then x else y) := by split <;> assumption
theorem wf_of_mem {s t : State} (h : t.mem = s.mem) (w : s.mem.wf = true) : t.mem.wf = true := h ▸ w

/-! The same for the stores of a scratchpad's rows. It is said of what is answered, never of the answer's `mem`: unfolding that field
would evaluate the scratchpad's addresses. -/

theorem KeepsForm.wf {t : State} (h : KeepsForm (.next t)) : t.mem.wf = true := h t rfl
theorem KeepsForm.foldl {α : Type} {f : State → α → State}
    (h : ∀ s a, KeepsForm (.next s) → KeepsForm (.next (f s a))) (l : List α)
    {s : State} (w : KeepsForm (.next s)) : KeepsForm (.next (l.foldl f s)) := by
  induction l generalizing s with
  | nil => exact w
  | cons a l ih => exact ih (h s a w)
theorem State.stcPoke_keeps {s : State} (k off n v : Nat) (h : KeepsForm (.next s)) : KeepsForm
    (.next (s.stcPoke k off n v)) :=
  .next (State.stcPoke_wf k off n v h.wf)
theorem State.readRows_keeps {s : State} (k off str n bytes : Nat) (cls : AccClass) (h : KeepsForm (.next s)) :
    KeepsForm (.next (s.readRows k off str n bytes cls)) := .next (State.readRows_wf k off str n bytes cls h.wf)
theorem State.discard_keeps {s : State} (k cause : Nat) (v a : Word) (h : KeepsForm (.next s)) :
    KeepsForm (.next (s.discard k cause v a)) := .next (State.discard_wf k cause v a h.wf)
theorem State.updCore_keeps {s : State} (k : Nat) (f : Core → Core) (h : KeepsForm (.next s)) :
    KeepsForm (.next (s.updCore k f)) := .next (wf_of_mem (State.updCore_mem s k f) h.wf)

/-! ### Scalar -/

theorem execBins_wf {s : State} (width off : BitVec 6) (ra rd : BitVec 4) (w : s.mem.wf = true) :
    KeepsForm (execBins width off ra rd s) := by
  unfold execBins; refine .next ?_; (repeat' split) <;> simp [w]

/-! ### Control -/

theorem execJal_wf {s : State} (off : BitVec 22) (w : s.mem.wf = true) : KeepsForm (execJal off s) := by simp [execJal, w]
theorem execJalr_wf {s : State} (imm : BitVec 12) (ra rd : XReg) (w : s.mem.wf = true) : KeepsForm
    (execJalr imm ra rd s) := by
  unfold execJalr; refine .next ?_; (repeat' split) <;> simp [w]
theorem execLoop_wf {s : State} (off : BitVec 12) (stp : BitVec 5) (w : s.mem.wf = true) : KeepsForm
    (execLoop off stp s) := by
  unfold execLoop; dsimp only; (repeat' split) <;> simp [w]
theorem execHintAlign_wf {s : State} (w : s.mem.wf = true) : KeepsForm (execHintAlign s) := by simp [execHintAlign, w]
theorem execAlignTimeout_wf {s : State} (w : s.mem.wf = true) : KeepsForm (execAlignTimeout s) := by
  unfold execAlignTimeout; refine .next ?_; (repeat' split) <;> simp [w]
theorem execDone_wf {s : State} (w : s.mem.wf = true) : KeepsForm (execDone s) := by simp [execDone, w]
theorem execCDone_wf {s : State} (w : s.mem.wf = true) : KeepsForm (execCDone s) := by simp [execCDone, w]
theorem execTrap_wf {s : State} (code : BitVec 12) (w : s.mem.wf = true) : KeepsForm (execTrap code s)
    := by simp [execTrap, w]
theorem execTret_wf {s : State} (w : s.mem.wf = true) : KeepsForm (execTret s) := by
  unfold execTret
  dsimp only
  split
  all_goals refine .next ?_
  all_goals generalize hx : State.trapReturn _ = x
  · have hw : (if (s.lvl s.curKey 3).trappc.getLsbD 0 then s else s.tretOrder ‹Level›).mem.wf = true :=
      State.ite_wf w (by rw [State.tretOrder_mem]; exact w)
    cases x with
    | none => exact State.illegal_wf w
    | some t => exact State.pump_wf _ (State.trapReturn_wf hw hx)
  · cases x with
    | none => exact State.illegal_wf w
    | some t => exact State.pump_wf _ (State.trapReturn_wf w hx)
theorem execAbort_wf {s : State} (code : BitVec 12) (w : s.mem.wf = true) : KeepsForm (execAbort code s) := by
  unfold execAbort; dsimp only; (repeat' split) <;> simp [w]

/-! ### System -/

theorem execSleep_wf {s : State} (ra : XReg) (w : s.mem.wf = true) : KeepsForm (execSleep ra s) := by simp [execSleep, w]
theorem execSleepEnd_wf {s : State} (w : s.mem.wf = true) : KeepsForm (execSleepEnd s) := by
  unfold execSleepEnd; refine .next ?_; (repeat' split) <;> simp [w]
theorem execWaitx_wf {s : State} (ra : XReg) (w : s.mem.wf = true) : KeepsForm (execWaitx ra s) := by
  unfold execWaitx; refine .next ?_; (repeat' split) <;> simp [w]
theorem execLnch_wf {s : State} (queue : BitVec 3) (ra rd : XReg) (w : s.mem.wf = true) : KeepsForm
    (execLnch queue ra rd s) := by
  unfold execLnch; refine .next ?_; dsimp only; (repeat' split) <;> simp [w]
theorem execSlave_wf {s : State} (leader : BitVec 3) (w : s.mem.wf = true) : KeepsForm (execSlave leader s) := by
  unfold execSlave; refine .next ?_; (repeat' split) <;> simp [w]

/-! ### Memory -/

theorem execLdx_wf {s : State} (rsel : Bool) (ord : Sys2Proof.Ord) (zx : Bool) (size : Size) (rb ra rd : XReg)
    (w : s.mem.wf = true) :
    KeepsForm (execLdx rsel ord zx size rb ra rd s) := by simp [execLdx, w]
theorem execStx_wf {s : State} (rsel : Bool) (ord : Sys2Proof.Ord) (size : Size) (rb ra rs : XReg) (w : s.mem.wf = true) :
    KeepsForm (execStx rsel ord size rb ra rs s) := by simp [execStx, w]
theorem execAmoCas_wf {s : State} (rsel : Bool) (sc : Scope) (kind : Kind) (ra rd : XReg) (w : s.mem.wf = true) :
    KeepsForm (execAmoCas rsel sc kind ra rd s) := by
  unfold execAmoCas; refine .next ?_; (repeat' split) <;> simp [w]

/-! ### Order -/

theorem execFencef_wf {s : State} (sc : Scope) (rope : RopeName) (ra rs : XReg) (w : s.mem.wf = true) :
    KeepsForm (execFencef sc rope ra rs s) := by
  unfold execFencef; refine .next ?_; (repeat' split) <;> simp [w]
theorem execRopeFork_wf {s : State} (rpS rpD : RopeName) (w : s.mem.wf = true) : KeepsForm (execRopeFork rpS rpD s) := by
  unfold execRopeFork
  refine .next (State.ite_wf (State.illegal_wf w) ?_)
  split
  · exact State.noRope_wf _ w
  · split
    · rename_i h; exact wf_of_mem ((State.retire_mem ..).trans (State.newRope_mem _ _ _ _ h)) w
    · exact State.raise_wf _ _ _ w
theorem execRopeJoin_wf {s : State} (rpA rpD rpB : RopeName) (w : s.mem.wf = true) : KeepsForm
    (execRopeJoin rpA rpD rpB s) := by
  unfold execRopeJoin
  refine .next (State.ite_wf (State.illegal_wf w) ?_)
  split
  · exact State.noRope_wf _ w
  · exact State.noRope_wf _ w
  · dsimp only
    split
    · rename_i h; exact wf_of_mem ((State.retire_mem ..).trans (State.newRope_mem _ _ _ _ h)) w
    · exact State.raise_wf _ _ _ w
theorem execRopeXfer_wf {s : State} (rpS : RopeName) (rd : XReg) (w : s.mem.wf = true) : KeepsForm
    (execRopeXfer rpS rd s) := by
  unfold execRopeXfer; refine .next ?_; (repeat' split) <;> simp [w]
theorem execRopeAdopt_wf {s : State} (rpD : RopeName) (rs : XReg) (w : s.mem.wf = true) : KeepsForm
    (execRopeAdopt rpD rs s) := by
  unfold execRopeAdopt
  dsimp only
  refine .next
      (State.ite_wf (State.illegal_wf w) (State.ite_wf (State.raise_wf _ _ _ w) (State.ite_wf (State.raise_wf _ _ _ w) ?_)))
  split
  · exact State.raise_wf _ _ _ w
  · rename_i h
    refine State.pump_wf _ ?_
    have ht := wf_of_mem (State.newRope_mem _ _ _ _ h) w
    exact ht
theorem execRopeDrop_wf {s : State} (rope : RopeName) (w : s.mem.wf = true) : KeepsForm (execRopeDrop rope s) := by
  unfold execRopeDrop; refine .next ?_; (repeat' split) <;> simp [w]
theorem execRopeWait_wf {s : State} (rope : RopeName) (w : s.mem.wf = true) : KeepsForm (execRopeWait rope s) := by
  unfold execRopeWait; refine .next ?_; (repeat' split) <;> simp [w]

/-! ### Message -/

theorem execSend_wf {s : State} (rope : RopeName) (ra : XReg) (w : s.mem.wf = true) : KeepsForm (execSend rope ra s) := by
  unfold execSend; refine .next ?_; (repeat' split) <;> simp [w]
theorem execSendc_wf {s : State} (rope : RopeName) (rb ra : XReg) (w : s.mem.wf = true) : KeepsForm
    (execSendc rope rb ra s) := by
  unfold execSendc; refine .next ?_; (repeat' split) <;> simp [w]
theorem execSpawn_wf {s : State} (rope : RopeName) (rb ra : XReg) (w : s.mem.wf = true) : KeepsForm
    (execSpawn rope rb ra s) := by
  unfold execSpawn; refine .next ?_; (repeat' split) <;> simp [w]
theorem execAread_wf {s : State} (rope : RopeName) (rb ra : XReg) (w : s.mem.wf = true) : KeepsForm
    (execAread rope rb ra s) := by
  unfold execAread; refine .next ?_; (repeat' split) <;> simp [w]
theorem execTbind_wf {s : State} (rb ra : XReg) (w : s.mem.wf = true) : KeepsForm (execTbind rb ra s) := by
  unfold execTbind; refine .next ?_; dsimp only; (repeat' split) <;> simp [w]
theorem execMcst_wf {s : State} (rope : RopeName) (rb ra rc : XReg) (w : s.mem.wf = true) :
    KeepsForm (execMcst rope rb ra rc s) := by
  unfold execMcst; refine .next ?_; (repeat' split) <;> simp [w]
theorem execMcld_wf {s : State} (rope : RopeName) (rb ra rc : XReg) (w : s.mem.wf = true) :
    KeepsForm (execMcld rope rb ra rc s) := by
  unfold execMcld; refine .next ?_; (repeat' split) <;> simp [w]
theorem execMcjoin_wf {s : State} (rb ra : XReg) (w : s.mem.wf = true) : KeepsForm (execMcjoin rb ra s) := by
  unfold execMcjoin; refine .next ?_; dsimp only; (repeat' split) <;> simp [w]

/-! ### Translate -/

theorem execTableWalk_wf {s : State} (w : s.mem.wf = true) : KeepsForm (execTableWalk s) := by
  unfold execTableWalk
  split
  · exact .next w
  · dsimp only
    split
    · exact .next w
    · split
      · refine .next ?_
        rw [State.endWalk_mem]
        exact State.foldl_wf (fun t x h => by rw [State.fillTlb_mem]; exact h) _ (State.walkerReads_wf _ _ w)
      · refine .next (wf_of_mem ((State.endWalk_mem ..).trans (State.reportEntry_mem ..)) (State.walkerReads_wf _ _ w))
      · exact .next (wf_of_mem (State.endWalk_mem ..) (State.walkerReads_wf _ _ w))
      · refine .next (wf_of_mem (State.foldl_mem (fun t x => State.parkCopy_mem ..) _ _) ?_)
        exact State.tellPager_wf _ _ _ (State.walkerReads_wf _ _ w)
theorem execTlbInvalidationAck_wf {s : State} (w : s.mem.wf = true) : KeepsForm (execTlbInvalidationAck s) := by
  unfold execTlbInvalidationAck; dsimp only; (repeat' split) <;> simp [w]

/-! ### Launch -/

theorem execLaunchStart_wf {s : State} (w : s.mem.wf = true) : KeepsForm (execLaunchStart s) := by
  have h := State.retryFailing_wf s.arg.vd (State.retryEnqueues_wf s.arg.vd w)
  unfold execLaunchStart
  dsimp only
  split
  · exact .next h
  split
  · exact .next h
  · rename_i v _ _
    have ho := State.offers_wf s.arg.vd v h
    split
    · exact .next ho
    split
    · exact .next (wf_of_mem ((State.updVd_mem ..).trans (State.dropCode_mem ..)) ho)
    · exact .next (State.completeBad_wf _ _ (wf_of_mem (State.updVd_mem ..) ho))
theorem execEntryPresentation_wf {s : State} (w : s.mem.wf = true) : KeepsForm (execEntryPresentation s) := by
  unfold execEntryPresentation
  dsimp only
  split
  · exact .next w
  split
  · exact .next (wf_of_mem (State.dropEntry_mem ..) w)
  split
  · exact .next w
  split
  · rename_i h; exact .next (wf_of_mem (State.presentSent_mem _ _ _ _ _ h) w)
  split
  · exact .next w
  split
  · exact .next w
  split
  · exact .next (wf_of_mem (State.sendEntry_mem ..) w)
  split
  · exact .next w
  · exact .next (wf_of_mem ((State.updVd_mem ..).trans rfl) w)
theorem execLaunchCompletion_wf {s : State} (w : s.mem.wf = true) : KeepsForm (execLaunchCompletion s) := by
  unfold execLaunchCompletion; dsimp only; (repeat' split) <;> simp [w]

/-! ### Sequencer -/

theorem execMma_wf {s : State} (w : s.mem.wf = true) : KeepsForm (execMma s) := by
  unfold execMma
  dsimp only
  split
  · exact .next w
  split
  · exact .next w
  split
  · exact .next (wf_of_mem (State.rowsAsk_mem ..) w)
  split
  · exact .next (State.discard_wf _ _ _ _ w)
  · exact .next
      (wf_of_mem ((State.updCore_mem ..).trans ((State.updClu_mem ..).trans (State.cmdRead_mem ..))) (State.readRows_wf _ _ _ _ _ _ w))
theorem execLdb_wf {s : State} (w : s.mem.wf = true) : KeepsForm (execLdb s) := by
  unfold execLdb
  extract_lets k c
  split
  · exact .next w
  · refine .ite (.next w) (.ite (.next w) (.ite (.next (wf_of_mem (State.rowsAsk_mem ..) w)) ?_))
    split
    · exact .next (State.discard_wf _ _ _ _ w)
    · refine .next ?_
      rw [State.updCore_mem, State.cmdRead_mem]
      exact State.readRows_wf _ _ _ _ _ _ w
theorem execRotb_wf {s : State} (w : s.mem.wf = true) : KeepsForm (execRotb s) := by
  unfold execRotb; dsimp only; (repeat' split) <;> simp [w]
theorem execRingTransferEnd_wf {s : State} (w : s.mem.wf = true) : KeepsForm (execRingTransferEnd s) := by
  unfold execRingTransferEnd; dsimp only; (repeat' split) <;> simp [w]
theorem execStc_wf {s : State} (w : s.mem.wf = true) : KeepsForm (execStc s) := by
  unfold execStc
  extract_lets k c
  split
  · exact .next w
  · refine .ite (.next w) (.ite (.next (wf_of_mem (State.rowsAsk_mem ..) w)) ?_)
    extract_lets acc env md out fl off stop write t
    have hw : ∀ u : State, KeepsForm (.next u) → KeepsForm (.next (write u)) := fun u hu =>
      KeepsForm.foldl (fun _ _ h => State.stcPoke_keeps _ _ _ _ h) _ hu
    have ht : KeepsForm (.next t) := State.readRows_keeps _ _ _ _ _ _ (.next w)
    clear_value write stop t
    cases stop with
    | none => exact hw _ (State.updCore_keeps _ _ ht)
    | some n => exact State.discard_keeps _ _ _ _ (hw _ ht)
theorem execZc_wf {s : State} (w : s.mem.wf = true) : KeepsForm (execZc s) := by
  unfold execZc; dsimp only; (repeat' split) <;> simp [w]
theorem execMnote_wf {s : State} (w : s.mem.wf = true) : KeepsForm (execMnote s) := by
  unfold execMnote; dsimp only; (repeat' split) <;> simp [w]
theorem execMfen_wf {s : State} (w : s.mem.wf = true) : KeepsForm (execMfen s) := by
  unfold execMfen; dsimp only; (repeat' split) <;> simp [w]
theorem execMailboxLanding_wf {s : State} (w : s.mem.wf = true) : KeepsForm (execMailboxLanding s) := by
  unfold execMailboxLanding; refine .next ?_; (repeat' split) <;> simp [w]
theorem execCommandRetire_wf {s : State} (w : s.mem.wf = true) : KeepsForm (execCommandRetire s) := by
  unfold execCommandRetire; dsimp only; (repeat' split) <;> simp [w]
theorem execMatrixCommandDiscard_wf {s : State} (w : s.mem.wf = true) : KeepsForm (execMatrixCommandDiscard s) := by
  unfold execMatrixCommandDiscard; dsimp only; (repeat' split) <;> simp [w]
theorem execMxq_wf {s : State} (vs : VName) (rd : XReg) (w : s.mem.wf = true) : KeepsForm (execMxq vs rd s) := by
  unfold execMxq
  refine .next ?_
  split
  · rename_i h; exact State.vsrc_wf w h
  · dsimp only
    refine State.ite_wf (by rw [State.replay_mem]; exact w) (State.ite_wf (State.raise_wf _ _ _ w) ?_)
    rw [State.retire_mem, State.pushRecord_mem]; exact w
theorem execMxwait_wf {s : State} (ra : XReg) (w : s.mem.wf = true) : KeepsForm (execMxwait ra s) := by simp [execMxwait, w]
theorem execMxstatC_wf {s : State} (rd : XReg) (w : s.mem.wf = true) : KeepsForm (execMxstatC rd s)
    := by simp [execMxstatC, w]
theorem execRackTake_wf {s : State} (n : BitVec 4) (w : s.mem.wf = true) : KeepsForm (execRackTake n s) := by
  unfold execRackTake; refine .next ?_; (repeat' split) <;> simp [w]
theorem execRackGrant_wf {s : State} (w : s.mem.wf = true) : KeepsForm (execRackGrant s) := by
  unfold execRackGrant; dsimp only; (repeat' split) <;> simp [w]
theorem execRackGive_wf {s : State} (n : BitVec 4) (w : s.mem.wf = true) : KeepsForm (execRackGive n s) := by
  unfold execRackGive; refine .next ?_; (repeat' split) <;> simp [w]
theorem execRackQry_wf {s : State} (rd : XReg) (w : s.mem.wf = true) : KeepsForm (execRackQry rd s)
    := by simp [execRackQry, w]

/-! ### Owner -/

theorem execPerform_wf {s : State} (w : s.mem.wf = true) : KeepsForm (execPerform s) := by
  unfold execPerform; refine .next ?_; (repeat' split) <;> simp [w]
theorem execRetryListService_wf {s : State} (w : s.mem.wf = true) : KeepsForm (execRetryListService s) := by
  unfold execRetryListService
  refine .next ?_
  split
  · exact w
  · rename_i r _ _
    dsimp only
    split
    · rename_i h
      rw [State.sendPkt_mem, State.afterAcc_mem]
      exact State.perform_wf (s := { s with retry := s.retry.filter fun x => x.op != r.op }) w h
    · rw [State.sendPkt_mem, State.countWrite_mem, State.eccSeen_mem]; exact w
    · rw [State.sendPkt_mem, State.countWrite_mem]; exact w
    · exact w
theorem execFencefMarker_wf {s : State} (w : s.mem.wf = true) : KeepsForm (execFencefMarker s) := by
  unfold execFencefMarker; refine .next ?_; dsimp only; (repeat' split) <;> simp [w]
theorem execWithdrawal_wf {s : State} (w : s.mem.wf = true) : KeepsForm (execWithdrawal s) := by
  unfold execWithdrawal; refine .next ?_; (repeat' split) <;> simp [w]
theorem execStoreBufferDrain_wf {s : State} (w : s.mem.wf = true) : KeepsForm (execStoreBufferDrain s) := by
  unfold execStoreBufferDrain; refine .next ?_; (repeat' split) <;> simp [w]
theorem execNackResend_wf {s : State} (w : s.mem.wf = true) : KeepsForm (execNackResend s) := by
  unfold execNackResend; refine .next ?_; dsimp only; (repeat' split) <;> simp [w]

/-! ### Complete -/

theorem execWatchdog_wf {s : State} (w : s.mem.wf = true) : KeepsForm (execWatchdog s) := by
  unfold execWatchdog; refine .next ?_; (repeat' split) <;> simp [w]

/-! ### Group -/

theorem execGjoin_wf {s : State} (group : BitVec 6) (w : s.mem.wf = true) :
    KeepsForm (execGjoin group s) := by simp [execGjoin, w]
theorem execGleave_wf {s : State} (group : BitVec 6) (w : s.mem.wf = true) :
    KeepsForm (execGleave group s) := by simp [execGleave, w]
theorem execGbar_wf {s : State} (group : BitVec 6) (rd : XReg) (w : s.mem.wf = true) : KeepsForm (execGbar group rd s) := by
  unfold execGbar; refine .next ?_; (repeat' split) <;> simp [w]

/-! ### VectorArith -/

theorem execVsel_wf {s : State} (pg : PReg) (vb va vd : VName) (w : s.mem.wf = true) :
    KeepsForm (execVsel pg vb va vd s) := by simp [execVsel, w]
theorem execVcvtIF_wf {s : State} (pg : PReg) (va vd : VName) (w : s.mem.wf = true) :
    KeepsForm (execVcvtIF pg va vd s) := by simp [execVcvtIF, w]
theorem execVnarI8_wf {s : State} (pg : PReg) (va vd : VName) (w : s.mem.wf = true) :
    KeepsForm (execVnarI8 pg va vd s) := by simp [execVnarI8, w]
theorem execVraddF_wf {s : State} (pg : PReg) (va : VName) (rd : XReg) (w : s.mem.wf = true) :
    KeepsForm (execVraddF pg va rd s) := by simp [execVraddF, w]
theorem execVbcast_wf {s : State} (rs : XReg) (vd : VName) (w : s.mem.wf = true) :
    KeepsForm (execVbcast rs vd s) := by simp [execVbcast, w]
theorem execVext_wf {s : State} (lane : BitVec 6) (va : VName) (rd : XReg) (w : s.mem.wf = true) :
    KeepsForm (execVext lane va rd s) := by
  unfold execVext
  split
  · rename_i h; exact .next (State.vsrc_wf w h)
  · exact .next w
theorem execVins_wf {s : State} (lane : BitVec 6) (rs : XReg) (vd : VName) (w : s.mem.wf = true) :
    KeepsForm (execVins lane rs vd s) := by
  unfold execVins
  dsimp only
  split
  · rename_i h; exact .next (State.vdst_wf w h)
  · exact .next (State.vput_wf _ _ _ _ _ _ w)
theorem execVperm_wf {s : State} (vb va vd : VName) (w : s.mem.wf = true) :
    KeepsForm (execVperm vb va vd s) := by simp [execVperm, w]
theorem execVslideUp_wf {s : State} (lane : BitVec 6) (va vd : VName) (w : s.mem.wf = true) :
    KeepsForm (execVslideUp lane va vd s) := by simp [execVslideUp, w]
theorem execVslideDn_wf {s : State} (lane : BitVec 6) (va vd : VName) (w : s.mem.wf = true) :
    KeepsForm (execVslideDn lane va vd s) := by simp [execVslideDn, w]
theorem execVexpi_wf {s : State} (pg : PReg) (va vd : VName) (w : s.mem.wf = true) :
    KeepsForm (execVexpi pg va vd s) := by simp [execVexpi, w]

/-! ### VectorMem -/

theorem execVld_wf {s : State} (rsel : Bool) (ord : Sys2Proof.Ord) (pg : PReg) (ra : XReg) (vd : VName)
    (w : s.mem.wf = true) :
    KeepsForm (execVld rsel ord pg ra vd s) := by simp [execVld, w]
theorem execVst_wf {s : State} (rsel : Bool) (ord : Sys2Proof.Ord) (pg : PReg) (ra : XReg) (vd : VName)
    (w : s.mem.wf = true) :
    KeepsForm (execVst rsel ord pg ra vd s) := by
  unfold execVst
  refine .next ?_
  split
  · rename_i h; exact State.vsrc_wf w h
  · exact State.vstore_wf _ _ _ _ _ _ _ _ _ w
theorem execVgath_wf {s : State} (rsel : Bool) (pg : PReg) (vb : VName) (ra : XReg) (vd : VName) (w : s.mem.wf = true) :
    KeepsForm (execVgath rsel pg vb ra vd s) := by
  unfold execVgath
  refine .next ?_
  split
  · rename_i h; exact State.vsrc_wf w h
  · exact State.vload_wf _ _ _ _ _ _ _ _ w
theorem execVscat_wf {s : State} (rsel : Bool) (pg : PReg) (vb : VName) (ra : XReg) (vd : VName) (w : s.mem.wf = true) :
    KeepsForm (execVscat rsel pg vb ra vd s) := by
  unfold execVscat
  refine .next ?_
  split
  · rename_i h; exact State.vsrcs_wf w h
  · exact State.vstore_wf _ _ _ _ _ _ _ _ _ w
theorem execVldLs_wf {s : State} (pg : PReg) (va vd : VName) (w : s.mem.wf = true) : KeepsForm (execVldLs pg va vd s) := by
  unfold execVldLs
  refine .next ?_
  split
  · rename_i h; exact State.vsrc_wf w h
  · dsimp only
    split
    · rename_i h; exact State.vdst_wf w h
    · split
      · rename_i h; exact State.sliceCheck_wf _ _ w h
      · exact State.vput_wf _ _ _ _ _ _ (by rw [State.sliceCorrect_mem]; exact w)
theorem execVstLs_wf {s : State} (pg : PReg) (va vd : VName) (w : s.mem.wf = true) : KeepsForm (execVstLs pg va vd s) := by
  unfold execVstLs
  refine .next ?_
  split
  · rename_i h; exact State.vsrcs_wf w h
  · dsimp only
    split
    · rename_i h; exact State.sliceCheck_wf _ _ w h
    · rw [State.retire_mem, State.updCore_mem, State.sliceCorrect_mem]; exact w

/-! ### Stream -/

theorem execTmld_wf {s : State} (ra : XReg) (tm : TMap) (w : s.mem.wf = true) : KeepsForm (execTmld ra tm s) := by
  unfold execTmld; refine .next ?_; dsimp only; (repeat' split) <;> simp [w]
theorem execSopen_wf {s : State} (rope : RopeName) (tm : TMap) (vs : BitVec 2) (w : s.mem.wf = true) :
    KeepsForm (execSopen rope tm vs s) := by
  unfold execSopen; refine .next ?_; (repeat' split) <;> simp [w]
theorem execSclose_wf {s : State} (vs : BitVec 2) (w : s.mem.wf = true) : KeepsForm (execSclose vs s) := by
  unfold execSclose; refine .next ?_; dsimp only; (repeat' split) <;> simp [w]

/-! ### MemMgt -/

theorem execPref_wf {s : State} (off : BitVec 5) (ra : XReg) (w : s.mem.wf = true) : KeepsForm (execPref off ra s) := by
  unfold execPref
  refine .next ?_
  rw [State.retire_mem]
  refine State.ite_wf w ?_
  split
  · refine State.ite_wf ?_ w
    rw [State.lineServe_mem]
    exact State.trace_wf _ w
  · exact w

/-! ### Cairn -/

theorem execPost_wf {s : State} (w : s.mem.wf = true) : KeepsForm (execPost s) := by
  unfold execPost
  refine .next ?_
  split
  · split
    · dsimp only
      split
      · exact w
      · refine State.ite_wf (by rw [State.ackPost_mem]; exact w) (State.ite_wf (by rw [State.ackPost_mem]; exact w)
          (State.ite_wf w (State.ite_wf w ?_)))
        rw [State.unmark_mem, State.countStore_mem]
        exact State.takePost_wf _ _ _ _ _ (by rw [State.portCycle_mem]; exact w)
    · exact w
  · exact w
theorem execClaim_wf {s : State} (w : s.mem.wf = true) : KeepsForm (execClaim s) := by
  unfold execClaim; refine .next ?_; dsimp only; (repeat' split) <;> simp [w]
theorem execEventDelivery_wf {s : State} (w : s.mem.wf = true) : KeepsForm (execEventDelivery s)
    := by simp [execEventDelivery, w]
theorem execRefill_wf {s : State} (w : s.mem.wf = true) : KeepsForm (execRefill s) := by
  unfold execRefill
  refine .next ?_
  dsimp only
  split
  · exact w
  refine State.ite_wf w ?_
  split
  · refine State.ite_wf w ?_
    rw [State.unmark_mem, State.countStore_mem, State.updCairn_mem, State.place_mem, State.foldl_mem (fun t i => State.correct_mem ..),
      (State.runServe_keeps _ _ _ _ _).1]
    refine State.trace_wf _ ?_
    rw [State.updClu_mem, State.ringTook_mem]
    exact w
  · rw [State.askDirect_mem]; exact w
  · exact w
theorem execPostSend_wf {s : State} (w : s.mem.wf = true) : KeepsForm (execPostSend s) := by
  unfold execPostSend; refine .next ?_; dsimp only; (repeat' split) <;> simp [w]
theorem execPostAck_wf {s : State} (w : s.mem.wf = true) : KeepsForm (execPostAck s) := by
  unfold execPostAck; refine .next ?_; dsimp only; (repeat' split) <;> simp [w]
theorem execEvcfg_wf {s : State} (cls : BitVec 4) (ra : XReg) (w : s.mem.wf = true) : KeepsForm (execEvcfg cls ra s) := by
  unfold execEvcfg; refine .next ?_; dsimp only; (repeat' split) <;> simp [w]
theorem execEvflush_wf {s : State} (cls : BitVec 4) (w : s.mem.wf = true) : KeepsForm (execEvflush cls s) := by
  unfold execEvflush
  dsimp only
  refine .next (State.ite_wf (by rw [State.replay_mem]; exact w) ?_)
  rw [State.retire_mem]
  refine State.foldl_wf (fun t n h => ?_) _ w
  rw [State.unmark_mem, State.updCairn_mem]; exact h
theorem execEvcount_wf {s : State} (ra rd : XReg) (w : s.mem.wf = true) :
    KeepsForm (execEvcount ra rd s) := by simp [execEvcount, w]
theorem execQuiescenceSweep_wf {s : State} (w : s.mem.wf = true) : KeepsForm (execQuiescenceSweep s) := by
  unfold execQuiescenceSweep; refine .next ?_; (repeat' split) <;> simp [w]
theorem execEvquiet_wf {s : State} (ra rd : XReg) (w : s.mem.wf = true) :
    KeepsForm (execEvquiet ra rd s) := by simp [execEvquiet, w]
theorem execEvquietTimeout_wf {s : State} (w : s.mem.wf = true) : KeepsForm (execEvquietTimeout s) := by
  unfold execEvquietTimeout; refine .next ?_; (repeat' split) <;> simp [w]

/-! ### Activation -/

theorem execDispatchEntryFill_wf {s : State} (w : s.mem.wf = true) : KeepsForm (execDispatchEntryFill s) := by
  unfold execDispatchEntryFill; refine .next ?_; dsimp only; (repeat' split) <;> simp [w]
theorem execMessageArrival_wf {s : State} (w : s.mem.wf = true) : KeepsForm (execMessageArrival s) := by
  unfold execMessageArrival; refine .next ?_; dsimp only; (repeat' split) <;> simp [w]
theorem execActivationStart_wf {s : State} (w : s.mem.wf = true) : KeepsForm (execActivationStart s) := by
  unfold execActivationStart; refine .next ?_; (repeat' split) <;> simp [w]
theorem execAreadReply_wf {s : State} (w : s.mem.wf = true) : KeepsForm (execAreadReply s) := by
  unfold execAreadReply
  refine .next ?_
  split
  · split
    · dsimp only
      split
      · split
        · refine State.ite_wf w (State.pump_wf _ ?_)
          rw [State.updCore_mem, State.dropOp_mem]
          refine State.ite_wf ?_ w
          refine State.pokeRun_wf _ _ _ _ ?_
          rw [State.portServed_mem]
          exact State.trace_wf _ w
        · exact w
      · exact w
    · exact w
  · exact w
theorem execAdoptService_wf {s : State} (w : s.mem.wf = true) : KeepsForm (execAdoptService s)
    := by simp [execAdoptService, w]
theorem execAdoptAnswer_wf {s : State} (w : s.mem.wf = true) : KeepsForm (execAdoptAnswer s) := by simp [execAdoptAnswer, w]

/-! ### Copy -/

theorem execResponse_wf {s : State} (w : s.mem.wf = true) : KeepsForm (execResponse s) := by
  unfold execResponse; refine .next ?_; (repeat' split) <;> simp [w]
theorem execCopySector_wf {s : State} (w : s.mem.wf = true) : KeepsForm (execCopySector s) := by
  unfold execCopySector; refine .next ?_; (repeat' split) <;> simp [w]

/-! ### Fabric -/

theorem execInjectFlit_wf {s : State} (w : s.mem.wf = true) : KeepsForm (execInjectFlit s) := by
  unfold execInjectFlit; refine .next ?_; dsimp only; (repeat' split) <;> simp [w]
theorem execReassembly_wf {s : State} (w : s.mem.wf = true) : KeepsForm (execReassembly s) := by
  unfold execReassembly; refine .next ?_; dsimp only; (repeat' split) <;> simp [w]

/-! ### Links -/

theorem execLinkReceive_wf {s : State} (w : s.mem.wf = true) : KeepsForm (execLinkReceive s) := by
  unfold execLinkReceive; refine .next ?_; dsimp only; (repeat' split) <;> simp [w]
theorem execLinkReplay_wf {s : State} (w : s.mem.wf = true) : KeepsForm (execLinkReplay s) := by simp [execLinkReplay, w]
theorem execLinkAcknowledge_wf {s : State} (w : s.mem.wf = true) :
    KeepsForm (execLinkAcknowledge s) := by simp [execLinkAcknowledge, w]
theorem execLaneFailure_wf {s : State} (w : s.mem.wf = true) : KeepsForm (execLaneFailure s) := by
  unfold execLaneFailure; refine .next ?_; (repeat' split) <;> simp [w]
theorem execRetrainingEnd_wf {s : State} (w : s.mem.wf = true) : KeepsForm (execRetrainingEnd s)
    := by simp [execRetrainingEnd, w]
theorem execPortOutOfService_wf {s : State} (w : s.mem.wf = true) : KeepsForm (execPortOutOfService s) := by
  unfold execPortOutOfService; refine .next ?_; (repeat' split) <;> simp [w]

/-! ### Multicast -/

theorem execCombinedAck_wf {s : State} (w : s.mem.wf = true) : KeepsForm (execCombinedAck s) := by
  unfold execCombinedAck; refine .next ?_; (repeat' split) <;> simp [w]
theorem execMulticastStoreLanding_wf {s : State} (w : s.mem.wf = true) : KeepsForm (execMulticastStoreLanding s) := by
  unfold execMulticastStoreLanding; refine .next ?_; (repeat' split) <;> simp [w]
theorem execMcldRequest_wf {s : State} (w : s.mem.wf = true) : KeepsForm (execMcldRequest s) := by
  unfold execMcldRequest; refine .next ?_; dsimp only; (repeat' split) <;> simp [w]
theorem execMcldLineSend_wf {s : State} (w : s.mem.wf = true) : KeepsForm (execMcldLineSend s) := by
  unfold execMcldLineSend; refine .next ?_; (repeat' split) <;> simp [w]
theorem execMcldLineArrival_wf {s : State} (w : s.mem.wf = true) : KeepsForm (execMcldLineArrival s) := by
  unfold execMcldLineArrival; refine .next ?_; dsimp only; (repeat' split) <;> simp [w]
theorem execMergeReport_wf {s : State} (w : s.mem.wf = true) : KeepsForm (execMergeReport s) := by
  unfold execMergeReport; refine .next ?_; dsimp only; (repeat' split) <;> simp [w]

/-! ### Preempt -/

theorem execQuantumExpiry_wf {s : State} (w : s.mem.wf = true) : KeepsForm (execQuantumExpiry s) := by
  unfold execQuantumExpiry; refine .next ?_; dsimp only; (repeat' split) <;> simp [w]
theorem execContextSaveEnd_wf {s : State} (w : s.mem.wf = true) : KeepsForm (execContextSaveEnd s) := by
  unfold execContextSaveEnd; refine .next ?_; (repeat' split) <;> simp [w]
theorem execResume_wf {s : State} (w : s.mem.wf = true) : KeepsForm (execResume s) := by
  unfold execResume; refine .next ?_; dsimp only; (repeat' split) <;> simp [w]
theorem execBivouacEntered_wf {s : State} (w : s.mem.wf = true) : KeepsForm (execBivouacEntered s) := by
  unfold execBivouacEntered; refine .next ?_; (repeat' split) <;> simp [w]
theorem execWakeEnd_wf {s : State} (w : s.mem.wf = true) : KeepsForm (execWakeEnd s) := by
  unfold execWakeEnd; refine .next ?_; (repeat' split) <;> simp [w]
theorem execResetDrainEnd_wf {s : State} (w : s.mem.wf = true) : KeepsForm (execResetDrainEnd s) := by
  unfold execResetDrainEnd
  refine .next ?_
  dsimp only
  split
  · exact w
  · rename_i v _
    refine State.ite_wf w ?_
    rw [State.updVd_mem, State.foldl_mem (fun t c => State.takeFrames_mem ..), State.dropSaved_mem]
    refine State.clearSram_wf _ _ _ ?_
    rw [State.leaveEnded_mem, State.foldl_mem (fun t (a : Nat × Nat) => State.abortMsg_mem ..)]
    refine State.foldl_wf (fun t n h => State.ite_wf (State.resetMcast_wf _ _ h) h) _ ?_
    rw [State.foldl_mem (fun t (x : Nat × Group) => State.resetGroup_mem ..)]
    exact w

/-! ### Partition -/

theorem execPartSplit_wf {s : State} (w : s.mem.wf = true) : KeepsForm (execPartSplit s) := by
  intro t h
  refine State.partRun_keeps (P := (·.wf = true)) w (fun chip p u hu => ?_) h
  dsimp only at hu
  split at hu <;> cases hu
  exact w
theorem execPartMerge_wf {s : State} (w : s.mem.wf = true) : KeepsForm (execPartMerge s) := by
  intro t h
  refine State.partRun_keeps (P := (·.wf = true)) w (fun chip p u hu => ?_) h
  dsimp only at hu
  split at hu <;> cases hu
  exact w
theorem execVdCreate_wf {s : State} (w : s.mem.wf = true) : KeepsForm (execVdCreate s) := by
  intro t h
  refine State.partRun_keeps (P := (·.wf = true)) w (fun chip p u hu => ?_) h
  split at hu <;> cases hu
  exact wf_of_mem (State.create_mem ..) w
theorem execVdDestroy_wf {s : State} (w : s.mem.wf = true) : KeepsForm (execVdDestroy s) := by
  unfold execVdDestroy; refine .next ?_; dsimp only; (repeat' split) <;> simp [w]

/-! ### Repair -/

theorem execCoreRepair_wf {s : State} (w : s.mem.wf = true) : KeepsForm (execCoreRepair s) := by
  unfold execCoreRepair; refine .next ?_; (repeat' split) <;> simp [w]
theorem execCoreMapRewrite_wf {s : State} (w : s.mem.wf = true) : KeepsForm (execCoreMapRewrite s) := by
  unfold execCoreMapRewrite
  extract_lets k node u
  refine .next (State.ite_wf w ?_)
  split
  · exact w
  · rename_i slot _
    have hc := State.clearBlock_wf (scratchPa (coreKey s.arg.chip s.arg.node slot) 0) 0x10000 w
    rw [State.countRepair_mem]
    refine State.repairEntry_wf _ _ _ _ _ _ ?_
    rw [State.updClu_mem, State.updCore_mem, State.setCore_mem]
    exact State.foldl_wf (fun t i h => State.copySpare_wf _ _ _ h) _ hc
theorem execPseudoChannelRepair_wf {s : State} (w : s.mem.wf = true) : KeepsForm (execPseudoChannelRepair s) := by
  unfold execPseudoChannelRepair; refine .next ?_; (repeat' split) <;> simp [w]
theorem execPseudoChannelRemap_wf {s : State} (w : s.mem.wf = true) : KeepsForm (execPseudoChannelRemap s) := by
  unfold execPseudoChannelRemap; refine .next ?_; (repeat' split) <;> simp [w]
theorem execSupervisorFailover_wf {s : State} (w : s.mem.wf = true) : KeepsForm (execSupervisorFailover s) := by
  unfold execSupervisorFailover; refine .next ?_; (repeat' split) <;> simp [w]
theorem execSoftError_wf {s : State} (w : s.mem.wf = true) : KeepsForm (execSoftError s) := by
  unfold execSoftError; refine .next ?_; (repeat' split) <;> simp [w]
theorem execLineClear_wf {s : State} (w : s.mem.wf = true) : KeepsForm (execLineClear s) := by
  unfold execLineClear; refine .next ?_; (repeat' split) <;> simp [w]
theorem execRowThrottleEvent_wf {s : State} (w : s.mem.wf = true) :
    KeepsForm (execRowThrottleEvent s) := .next (State.ite_wf w (State.ringEntry_wf _ _ _ _ w))
theorem execThrottleEnd_wf {s : State} (w : s.mem.wf = true) : KeepsForm (execThrottleEnd s) := by simp [execThrottleEnd, w]
theorem execRefreshWindow_wf {s : State} (w : s.mem.wf = true) : KeepsForm (execRefreshWindow s)
    := by simp [execRefreshWindow, w]

/-! ### Supervisor -/

theorem execDispinit_wf {s : State} (w : s.mem.wf = true) : KeepsForm (execDispinit s) := by
  unfold execDispinit
  refine .next ?_
  cases h : s.dispinit s.arg.chip s.arg.index (s.arg.words.headD 0) with
  | none => exact w
  | some t => exact wf_of_mem (State.dispinit_mem _ _ _ _ h) w
theorem execSupervisorRegisterWrite_wf {s : State} (w : s.mem.wf = true) : KeepsForm (execSupervisorRegisterWrite s) := by
  unfold execSupervisorRegisterWrite
  dsimp only
  refine .next (State.ite_wf w ?_)
  split
  · rename_i h; rw [State.updChip_mem]; exact State.supWrite_wf w h
  · exact w

/-! ### HostLink -/

theorem execHostWrite_wf {s : State} (w : s.mem.wf = true) : KeepsForm (execHostWrite s) := by
  unfold execHostWrite
  refine .next (State.hostRequest_keeps (P := (·.wf = true)) w fun h t ht => ?_)
  rw [← ht] at w
  dsimp only
  split
  · simpa using w
  · exact State.hostWriteStep_wf _ w
theorem execHostRead_wf {s : State} (w : s.mem.wf = true) : KeepsForm (execHostRead s) := by
  unfold execHostRead
  refine .next (State.hostRequest_keeps (P := (·.wf = true)) w fun h t ht => ?_)
  rw [← ht] at w
  dsimp only
  split
  · simpa using w
  · exact State.hostReadStep_wf _ w
theorem execHostEnqueue_wf {s : State} (w : s.mem.wf = true) : KeepsForm (execHostEnqueue s) := by
  unfold execHostEnqueue
  refine .next (State.hostRequest_keeps (P := (·.wf = true)) w fun h t ht => ?_)
  rw [← ht] at w
  dsimp only
  split
  · simpa using w
  · exact State.tryEnqueue_wf _ _ w
theorem execHostWake_wf {orig : State} (w : orig.mem.wf = true) : KeepsForm (execHostWake orig) := by
  unfold execHostWake
  refine .next (State.hostRequest_keeps (P := (·.wf = true)) w fun h t ht => ?_)
  have wt : t.mem.wf = true := wf_of_mem ht w
  dsimp only
  split
  · simpa using wt
  · split
    · rename_i g; rw [State.hostAnswer_mem]; exact State.hostPerform_wf wt (.inl ⟨_, g⟩)
    · exact w
    · rename_i g; rw [State.hostAnswer_mem]; exact State.hostPerform_wf wt (.inr (.inr ⟨_, g⟩))
theorem execSupervisorSpaceRead_wf {s : State} (w : s.mem.wf = true) : KeepsForm (execSupervisorSpaceRead s) := by
  unfold execSupervisorSpaceRead
  refine .next (State.mgmtRequest_keeps (P := (·.wf = true)) w fun h t ht => ?_)
  rw [← ht] at w
  dsimp only
  split <;> simpa using w
theorem execSupervisorSpaceWrite_wf {s : State} (w : s.mem.wf = true) : KeepsForm (execSupervisorSpaceWrite s) := by
  unfold execSupervisorSpaceWrite
  refine .next (State.mgmtRequest_keeps (P := (·.wf = true)) w fun h t ht => ?_)
  rw [← ht] at w
  dsimp only
  split
  · simpa using w
  · rw [State.hostAnswer_mem]; exact State.supWriteRun_wf _ _ _ w

/-! ### Power -/

theorem execKeyInstall_wf {s : State} (w : s.mem.wf = true) : KeepsForm (execKeyInstall s) := by
  unfold execKeyInstall
  refine .next (State.mgmtRequest_keeps (P := (·.wf = true)) w fun h t ht => ?_)
  rw [← ht] at w
  dsimp only
  split <;> simpa using w
theorem execEnterOn_wf {s : State} (w : s.mem.wf = true) : KeepsForm (execEnterOn s) := by
  refine .next (wf_of_mem (State.trained_mem ..) ?_)
  exact State.powerCommand_keeps (P := (·.wf = true)) w fun t ht => wf_of_mem ht w
theorem execEnterStandby_wf {s : State} (w : s.mem.wf = true) :
    KeepsForm (execEnterStandby s) :=
    .next (State.powerCommand_keeps (P := (·.wf = true)) w fun t ht => State.powerDown_wf (s := t) _ (wf_of_mem ht w))
theorem execEnterOff_wf {s : State} (w : s.mem.wf = true) : KeepsForm (execEnterOff s) := by
  have h : (s.powerCommand 3 (fun s => (s.chip s.arg.chip).power == .standby) fun s =>
      s.updChip s.arg.chip fun c => { c with power := .off }).mem.wf = true :=
    State.powerCommand_keeps (P := (·.wf = true)) w fun t ht => wf_of_mem ht w
  exact .next (State.ite_wf (State.powerLoss_wf _ h) h)
theorem execSetModuleCap_wf {s : State} (w : s.mem.wf = true) :
    KeepsForm (execSetModuleCap s) := .next (State.powerCommand_keeps (P := (·.wf = true)) w fun _ ht => wf_of_mem ht w)
theorem execPowerOn_wf {s : State} (w : s.mem.wf = true) : KeepsForm (execPowerOn s) := by
  unfold execPowerOn; refine .next ?_; (repeat' split) <;> simp [w]
theorem execRecoveryImageWrite_wf {s : State} (w : s.mem.wf = true) : KeepsForm (execRecoveryImageWrite s) := by
  unfold execRecoveryImageWrite
  refine .next (State.hostRequest_keeps (P := (·.wf = true)) w fun h t ht => ?_)
  rw [← ht] at w
  dsimp only
  split <;> simpa using w
theorem execPowerSample_wf {s : State} (w : s.mem.wf = true) : KeepsForm (execPowerSample s) := by
  unfold execPowerSample; refine .next ?_; (repeat' split) <;> simp [w]
theorem execCoolantTrip_wf {s : State} (w : s.mem.wf = true) : KeepsForm (execCoolantTrip s) := by
  unfold execCoolantTrip; refine .next ?_; (repeat' split) <;> simp [w]

/-! ### Belay -/

theorem execBelayRead_wf {s : State} (w : s.mem.wf = true) : KeepsForm (execBelayRead s) := by
  unfold execBelayRead
  refine .next (wf_of_mem (State.belayRequest_mem fun m => ?_) w)
  dsimp only
  split
  · split <;> simp
  · simp
theorem execBelayAnswer_wf {s : State} (w : s.mem.wf = true) : KeepsForm (execBelayAnswer s) := by
  unfold execBelayAnswer; refine .next ?_; (repeat' split) <;> simp [w]
theorem execBelayEvent_wf {s : State} (w : s.mem.wf = true) : KeepsForm (execBelayEvent s) := by
  unfold execBelayEvent
  refine .next ?_
  split
  · dsimp only
    split
    · exact State.ringEntry_wf _ _ _ _ w
    · exact w
  · exact w

/-! ### Issue -/

theorem execRopePrefix_wf {s : State} (rope : RopeName) (w : s.mem.wf = true) :
    KeepsForm (execRopePrefix rope s) := by simp [execRopePrefix, w]
theorem execInstructionFetchFault_wf {s : State} (w : s.mem.wf = true) : KeepsForm (execInstructionFetchFault s) := by
  unfold execInstructionFetchFault; refine .next ?_; (repeat' split) <;> simp [w]

end Sys2Proof.Machine
end

section
/-! A step, whatever its turn, keeps the canonical form of the memory, and the memory at reset has it. -/

namespace Sys2Proof.Machine
/-- No instruction and no event breaks the canonical form. -/
theorem exec_wf (i : Instr) {s : State} (w : s.mem.wf = true) : KeepsForm (exec i s) := by
  cases i with
  | padd | psub => exact .next (State.ptrMove_wf _ _ _ w)
  | ptag | pget | pstrip | add | sub | and_ | or_ | xor_ | shl | shr | sra | rot | slt | sltn | min_ | max_ | minn | maxn
  | sel | clz | ctz | popc | brev | addi | andi | ori | xori | slti | shli | shri | srai | roti | lui | addpc | bxt | bxtn
  | div | divn | rem | remn | mfid | gcount | sstat | pcnt | pfirst | pgetPredicate | mxstat | cMv | cAdd | cSub | cAddi
  | cLi | cAnd | cOr | cShli | cShri => exact .next (wf_of_mem (State.alu_mem ..) w)
  | bins => exact execBins_wf _ _ _ _ w
  | mul | mulh | mulhn => exact .next (wf_of_mem (State.mulResult_mem ..) w)
  | beq | bne | blt | bge | blo | bhs | bz | bnz | j | cBnz | cJ => exact .next (wf_of_mem (State.branch_mem ..) w)
  | jal => exact execJal_wf _ w
  | jalr => exact execJalr_wf _ _ _ w
  | loop => exact execLoop_wf _ _ w
  | trap => exact execTrap_wf _ w
  | abort => exact execAbort_wf _ w
  | mfcr => exact .next (State.readCr_wf _ _ w)
  | mtcr => exact .next (State.writeCr_wf _ _ w)
  | sleep => exact execSleep_wf _ w
  | waitx => exact execWaitx_wf _ w
  | lnch => exact execLnch_wf _ _ _ w
  | slave => exact execSlave_wf _ w
  | ld | cLd => exact .next (State.loadX_wf _ _ _ _ _ _ _ _ w)
  | st | cSt => exact .next (State.storeX_wf _ _ _ _ _ _ _ w)
  | ldx => exact execLdx_wf _ _ _ _ _ _ _ w
  | stx => exact execStx_wf _ _ _ _ _ _ w
  | ldfeFf | ldfeFe | stfeEf | stfeXf | feq => exact .next (State.feAccess_wf _ _ _ _ _ _ _ w)
  | amoAdd | amoAnd | amoOr | amoXor | amoMin | amoMax | amoMinn | amoMaxn | amoSwap | amoFaddF32 | amoFmaxF32 =>
    exact .next (State.amo_wf _ _ _ _ _ _ _ w)
  | amoCas => exact execAmoCas_wf _ _ _ _ _ w
  | fence | fenceSc => exact .next (State.fenceWith_wf _ _ w)
  | fencef => exact execFencef_wf _ _ _ _ w
  | ropeFork => exact execRopeFork_wf _ _ w
  | ropeJoin => exact execRopeJoin_wf _ _ _ w
  | ropeXfer => exact execRopeXfer_wf _ _ w
  | ropeAdopt => exact execRopeAdopt_wf _ _ w
  | ropeDrop => exact execRopeDrop_wf _ w
  | ropeWait => exact execRopeWait_wf _ w
  | send => exact execSend_wf _ _ w
  | sendc => exact execSendc_wf _ _ _ w
  | spawn => exact execSpawn_wf _ _ _ w
  | aread => exact execAread_wf _ _ _ w
  | tbind => exact execTbind_wf _ _ w
  | mcld => exact execMcld_wf _ _ _ _ w
  | mcst => exact execMcst_wf _ _ _ _ w
  | mcjoin => exact execMcjoin_wf _ _ w
  | evpost | evposts => exact .next (State.post_wf _ _ _ _ _ _ w)
  | evcfg => exact execEvcfg_wf _ _ w
  | evflush => exact execEvflush_wf _ w
  | evquiet => exact execEvquiet_wf _ _ w
  | evcount => exact execEvcount_wf _ _ w
  | gjoin => exact execGjoin_wf _ w
  | gleave => exact execGleave_wf _ w
  | gbar => exact execGbar_wf _ _ w
  | pref => exact execPref_wf _ _ w
  | cflush | cinv => exact .next (State.cacheOp_wf _ _ _ w)
  | tlbinv | tlbinvAll => exact .next (wf_of_mem (State.invalCore_mem ..) w)
  | tlbinvB | tlbinvBAll => exact .next (wf_of_mem (State.invalAll_mem ..) w)
  | vaddF | vsubF | vmulF => exact .next (State.vvF_wf _ _ _ _ _ w)
  | vfmaF | vfmsF => exact .next (State.vfma_wf _ _ _ _ _ w)
  | vminF | vmaxF => exact .next (State.vvMinMax_wf _ _ _ _ _ w)
  | vaddI | vsubI | vmulI | vmulhI | vminI | vmaxI | vminn | vmaxn | vand | vandn | vor | vxor | vshl | vshr | vsra | vrot =>
    exact .next (State.vv_wf _ _ _ _ _ w)
  | vsel => exact execVsel_wf _ _ _ _ w
  | vmacI | vexpx | vrsq => exact .next (State.vlanes_wf _ _ _ _ _ _ _ w)
  | vcpy | vnegF | vabsF | vnot | vnegI | vabsI | vclz | vpopc => exact .next (State.vx_wf _ _ _ _ w)
  | vsqrtF | vcvtFI | vcvtFN | vnarBf16 | vnarFp16 | vnarE4m3 | vnarE5m2 | vnarE2m1 | vfexp2 | vrint | vrcp =>
    exact .next (State.vxF_wf _ _ _ _ _ w)
  | vcvtIF => exact execVcvtIF_wf _ _ _ w
  | vnarI8 => exact execVnarI8_wf _ _ _ w
  | vcmpFEq | vcmpFNe | vcmpFLt | vcmpFLe | vcmpFUn | vcmpIEq | vcmpINe | vcmpILt | vcmpILe | vcmpILo | vcmpILs =>
    exact .next (State.vcmp_wf _ _ _ _ _ w)
  | vld => exact execVld_wf _ _ _ _ _ w
  | vst => exact execVst_wf _ _ _ _ _ w
  | vldLs => exact execVldLs_wf _ _ _ w
  | vstLs => exact execVstLs_wf _ _ _ w
  | vgath => exact execVgath_wf _ _ _ _ _ w
  | vscat => exact execVscat_wf _ _ _ _ _ w
  | tmld => exact execTmld_wf _ _ w
  | sopen => exact execSopen_wf _ _ _ w
  | sclose => exact execSclose_wf _ w
  | pand | por | pxor | pnot | pset => exact .next (wf_of_mem (State.pred_mem ..) w)
  | vraddF => exact execVraddF_wf _ _ _ w
  | vrmaxF | vrminF | vraddI | vrmaxI | vrminI | vrand | vror | vrxor => exact .next (State.vred_wf _ _ _ _ w)
  | vbcast => exact execVbcast_wf _ _ w
  | vext => exact execVext_wf _ _ _ w
  | vins => exact execVins_wf _ _ _ w
  | vperm => exact execVperm_wf _ _ _ w
  | vslideUp => exact execVslideUp_wf _ _ _ w
  | vslideDn => exact execVslideDn_wf _ _ _ w
  | viota => exact .next (State.vmove_wf _ _ _ _ w)
  | vexpi => exact execVexpi_wf _ _ _ w
  | mxq => exact execMxq_wf _ _ w
  | mxwait => exact execMxwait_wf _ w
  | mxstatC => exact execMxstatC_wf _ w
  | rackTake => exact execRackTake_wf _ w
  | rackGive => exact execRackGive_wf _ w
  | rackQry => exact execRackQry_wf _ w
  | ropePrefix => exact execRopePrefix_wf _ w
  | nop | hintYield | unslave | cYield => exact .next (wf_of_mem (State.retire_mem ..) w)
  | hintAlign => exact execHintAlign_wf w
  | done_ => exact execDone_wf w
  | tret => exact execTret_wf w
  | cDone => exact execCDone_wf w
  | perform => exact execPerform_wf w
  | retryListService => exact execRetryListService_wf w
  | nackResend => exact execNackResend_wf w
  | withdrawal => exact execWithdrawal_wf w
  | watchdog => exact execWatchdog_wf w
  | storeBufferDrain => exact execStoreBufferDrain_wf w
  | response => exact execResponse_wf w
  | routeFlit => exact .next (wf_of_mem (State.routed_mem ..) w)
  | injectFlit => exact execInjectFlit_wf w
  | linkReceive => exact execLinkReceive_wf w
  | linkReplay => exact execLinkReplay_wf w
  | linkAcknowledge => exact execLinkAcknowledge_wf w
  | laneFailure => exact execLaneFailure_wf w
  | retrainingEnd => exact execRetrainingEnd_wf w
  | portOutOfService => exact execPortOutOfService_wf w
  | reassembly => exact execReassembly_wf w
  | messageArrival => exact execMessageArrival_wf w
  | dispatchEntryFill => exact execDispatchEntryFill_wf w
  | activationStart => exact execActivationStart_wf w
  | eventDelivery => exact execEventDelivery_wf w
  | tableWalk => exact execTableWalk_wf w
  | pageAnswer | pageansRetry | pageansDeny => exact .next (wf_of_mem (State.pageAnswer_mem ..) w)
  | tlbInvalidationAck => exact execTlbInvalidationAck_wf w
  | cpgoRead => exact .next (State.cpgo_wf _ w)
  | copySector => exact execCopySector_wf w
  | mma => exact execMma_wf w
  | ldb => exact execLdb_wf w
  | rotb => exact execRotb_wf w
  | stc => exact execStc_wf w
  | zc => exact execZc_wf w
  | mnote => exact execMnote_wf w
  | mfen => exact execMfen_wf w
  | ringTransferEnd => exact execRingTransferEnd_wf w
  | commandRetire => exact execCommandRetire_wf w
  | matrixCommandDiscard => exact execMatrixCommandDiscard_wf w
  | governorWindow | injectionCapWindow => exact .next (wf_of_mem (State.updClu_mem ..) w)
  | mailboxLanding => exact execMailboxLanding_wf w
  | rackGrant => exact execRackGrant_wf w
  | sleepEnd => exact execSleepEnd_wf w
  | adoptService => exact execAdoptService_wf w
  | adoptAnswer => exact execAdoptAnswer_wf w
  | fencefMarker => exact execFencefMarker_wf w
  | areadReply => exact execAreadReply_wf w
  | post => exact execPost_wf w
  | claim => exact execClaim_wf w
  | refill => exact execRefill_wf w
  | postSend => exact execPostSend_wf w
  | postAck => exact execPostAck_wf w
  | quiescenceSweep => exact execQuiescenceSweep_wf w
  | hostEnqueue => exact execHostEnqueue_wf w
  | launchStart => exact execLaunchStart_wf w
  | entryPresentation => exact execEntryPresentation_wf w
  | launchCompletion => exact execLaunchCompletion_wf w
  | quantumExpiry => exact execQuantumExpiry_wf w
  | resume => exact execResume_wf w
  | coreRepair => exact execCoreRepair_wf w
  | multicastStoreLanding => exact execMulticastStoreLanding_wf w
  | combinedAck => exact execCombinedAck_wf w
  | mcldRequest => exact execMcldRequest_wf w
  | mcldLineSend => exact execMcldLineSend_wf w
  | mcldLineArrival => exact execMcldLineArrival_wf w
  | mergeReport => exact execMergeReport_wf w
  | lineClear => exact execLineClear_wf w
  | budgetWindow => exact .next (wf_of_mem (State.updChip_mem ..) w)
  | rowThrottleEvent => exact execRowThrottleEvent_wf w
  | throttleEnd => exact execThrottleEnd_wf w
  | powerSample => exact execPowerSample_wf w
  | coolantTrip => exact execCoolantTrip_wf w
  | pseudoChannelRepair => exact execPseudoChannelRepair_wf w
  | supervisorFailover => exact execSupervisorFailover_wf w
  | partSplit => exact execPartSplit_wf w
  | partMerge => exact execPartMerge_wf w
  | vdCreate => exact execVdCreate_wf w
  | vdDestroy => exact execVdDestroy_wf w
  | s2invPage | s2invAll => exact .next (wf_of_mem (State.s2inv_mem ..) w)
  | rtswap => exact .next (wf_of_mem (State.rtswap_mem ..) w)
  | vdReset => exact .next (State.vdReset_wf _ _ w)
  | vdBivouac => exact .next (State.bivouac_wf _ _ w)
  | vdThaw => exact .next (wf_of_mem (State.thaw_mem ..) w)
  | dispinit => exact execDispinit_wf w
  | groupTableWrite => exact .next (wf_of_mem (State.groupWrite_mem ..) w)
  | supervisorRegisterWrite => exact execSupervisorRegisterWrite_wf w
  | dispbaseWrite => exact .next (State.writeDispbase_wf _ w)
  | tagbaseWrite => exact .next (State.writeTagbase_wf _ w)
  | rackfloorWrite => exact .next (State.writeRackfloor_wf _ w)
  | fcrWrite => exact .next (State.writeFcr_wf _ w)
  | mxgovWrite => exact .next (State.writeMxgov_wf _ w)
  | controlRegisterWrite => exact .next (State.writePlain_wf _ _ w)
  | hostWrite => exact execHostWrite_wf w
  | hostRead => exact execHostRead_wf w
  | hostWake => exact execHostWake_wf w
  | supervisorSpaceRead => exact execSupervisorSpaceRead_wf w
  | supervisorSpaceWrite => exact execSupervisorSpaceWrite_wf w
  | getVersion | getCapabilities | negotiateAlgorithms | getDigests | getCertificate | challenge | getMeasurements
  | keyExchange | finish | endSession => exact .next (wf_of_mem (State.spdmRequest_mem ..) w)
  | keyInstall => exact execKeyInstall_wf w
  | enterOn => exact execEnterOn_wf w
  | enterStandby => exact execEnterStandby_wf w
  | enterOff => exact execEnterOff_wf w
  | setModuleCap => exact execSetModuleCap_wf w
  | powerOn => exact execPowerOn_wf w
  | belayRead => exact execBelayRead_wf w
  | belayWrite => exact .next (wf_of_mem (State.belayRequest_mem fun _ => rfl) w)
  | belayAnswer => exact execBelayAnswer_wf w
  | belayEvent => exact execBelayEvent_wf w
  | illegalEncoding => exact .next (State.raise_wf _ _ _ w)
  | instructionFetchFault => exact execInstructionFetchFault_wf w
  | evquietTimeout => exact execEvquietTimeout_wf w
  | alignTimeout => exact execAlignTimeout_wf w
  | resetDrainEnd => exact execResetDrainEnd_wf w
  | contextSaveEnd => exact execContextSaveEnd_wf w
  | bivouacEntered => exact execBivouacEntered_wf w
  | wakeEnd => exact execWakeEnd_wf w
  | refreshWindow => exact execRefreshWindow_wf w
  | softError => exact execSoftError_wf w
  | coreMapRewrite => exact execCoreMapRewrite_wf w
  | pseudoChannelRemap => exact execPseudoChannelRemap_wf w
  | recoveryImageWrite => exact execRecoveryImageWrite_wf w


/-- The argument of a turn is no part of the memory. -/
theorem exec_withArg_wf (i : Instr) {s : State} (a : Arg) (w : s.mem.wf = true) : KeepsForm (exec i { s with arg := a }) :=
  exec_wf i w

theorem State.issueTurn_wf {s : State} (chip node slot : Nat) (w : s.mem.wf = true) : KeepsForm (s.issueTurn exec chip node slot) := by
  unfold State.issueTurn
  extract_lets k t
  have h : t.mem.wf = true := wf_of_mem (State.askFetches_mem s chip node slot) w
  refine .ite (.next w) ?_
  split
  · exact .next h
  · extract_lets is_ finish
    have hf : ∀ o old word, KeepsForm o → KeepsForm (finish o old word) := fun o old word ho => by
      cases o with
      | next t => exact .next (wf_of_mem (State.endIssue_mem ..) ho.wf)
      | fault r => exact fun _ e => nomatch e
      | refused r => exact fun _ e => nomatch e
    clear_value finish t
    split
    · exact .next h
    · exact .next h
    · rename_i word _
      extract_lets s1
      have hb : s1.mem.wf = true := State.beginIssue_wf _ _ _ h
      clear_value s1
      exact hf _ _ _ (exec_withArg_wf .illegalEncoding (s := s1) _ hb)
    · rename_i s1 _ _ _ _ _
      have hb : s1.mem.wf = true := State.beginIssue_wf _ _ _ h
      clear_value s1
      exact hf _ _ _ (exec_wf .instructionFetchFault (s := s1) hb)
    · rename_i word rope i uses _
      extract_lets s1
      have hb : s1.mem.wf = true := State.beginIssue_wf _ _ _ h
      clear_value s1
      split
      · exact .next (wf_of_mem (State.endIssue_mem ..) (State.raise_wf _ _ _ hb))
      · split
        · exact hf _ _ _ (exec_wf _ hb)
        · rename_i r _
          have hr := exec_wf (.ropePrefix r) hb
          split
          · rename_i u hu
            exact hf _ _ _ (exec_wf _ (hr u hu))
          · exact hr

theorem State.turn_wf {s : State} (t : Turn) (w : s.mem.wf = true) : KeepsForm (s.turn exec t) := by
  have stop : KeepsForm (.fault .noSuchUnit) := fun _ e => nomatch e
  unfold State.turn
  split
  · exact .ite stop (State.issueTurn_wf _ _ _ w)
  · exact .ite stop (exec_wf _ w)
  · exact .next (wf_of_mem (State.passCycle_mem ..) w)

theorem step_wf {s : State} (w : s.mem.wf = true) : KeepsForm (step s) := by
  unfold step State.stepWith
  split
  · exact State.turn_wf _ w
  · exact State.turn_wf _ w

/-- Settles O8: whatever the turn, the memory is left as it was or changed by writes of bytes, cleared ranges and bytes left out. -/
theorem memoryStaysCanonical : Obligations.MemoryStaysCanonical := by
  unfold Obligations.MemoryStaysCanonical
  exact fun s t w h => step_wf w t h

/-- Settles O7: no byte is listed at reset. -/
theorem resetMemoryCanonical : Obligations.ResetMemoryCanonical := by
  unfold Obligations.ResetMemoryCanonical
  exact ⟨State.reset_mem_wf, fun _ => ⟨rfl, rfl⟩⟩

end Sys2Proof.Machine
end

section
/-! What an access does at its owner (R65, R67, R76, R117, R136): the bytes and full/empty bits that are read after a line is made ready and after a word is written, and the obligation about it. -/

namespace Sys2Proof.Machine

/-! ### What the owners read -/

/-- Both states read the same bytes below the windows, and the same full/empty bits. -/
def SameContents (s t : State) : Prop := (∀ b, b < 2 ^ 56 → t.peek b 1 = s.peek b 1) ∧ ∀ b, t.isFull b = s.isFull b

theorem SameContents.trans {s t u : State} (h : SameContents s t) (g : SameContents t u) : SameContents s u :=
  ⟨fun b hb => (g.1 b hb).trans (h.1 b hb), fun b => (g.2 b).trans (h.2 b)⟩

/-- Memory, its full/empty bits and the clearing map are all that is read. -/
theorem SameContents.of_eq {s t : State} (hm : t.mem = s.mem) (hf : t.fe = s.fe) (hc : t.clear = s.clear) : SameContents s t :=
  ⟨fun _ hb => State.peek_congr_phys hm hc hb 1, fun b => by unfold State.isFull State.marked; rw [hf, hc]⟩

/-- Below the windows an owner reads its memory, or zero in a line that is still to be cleared (R76). -/
theorem State.peek_phys (s : State) {b : Nat} (hb : b < 2 ^ 56) (n : Nat) :
    s.peek b n = if s.marked b then 0 else s.mem.readNat b n := by
  have h56 : ¬ 2 ^ 56 ≤ b := Nat.not_le.mpr hb
  unfold State.peek
  split
  · rename_i k off h
    simp only [regionOf, if_neg h56] at h
    split_ifs at h
  · rfl

theorem Memory.readNat_one (m : Memory) (a : Nat) : m.readNat a 1 = (m.read a).toNat := by
  simp [Memory.readNat, Memory.readBytes, tab, tabFrom, leNat]

theorem mem_insertNat_iff (a b : Nat) (l : List Nat) : b ∈ insertNat a l ↔ b = a ∨ b ∈ l := by
  induction l with
  | nil => simp [insertNat]
  | cons k l ih =>
    unfold insertNat
    split_ifs with h1 h2
    · simp
    · simp [h2]
    · simp only [List.mem_cons, ih]
      exact or_left_comm

/-! ### A line made ready (R62, R75, R76) -/

theorem State.readyLine_unmarkedLine (s : State) (pa mt : Nat) (h : s.marked pa = false) :
    (s.readyLine pa mt).mem = s.mem ∧ (s.readyLine pa mt).fe = s.fe ∧ (s.readyLine pa mt).clear = s.clear := by
  have hm := s.l2Fill_mem pa mt
  have hf : (s.l2Fill pa mt).fe = s.fe := (congrArg State.fe (s.l2Fill_rest pa mt) :)
  have hc := s.l2Fill_clear pa mt
  unfold State.readyLine
  generalize s.l2Fill pa mt = u at hm hf hc
  extract_lets line u1 t1 t2 img
  have h1 : t1.mem = s.mem ∧ t1.fe = s.fe ∧ t1.clear = s.clear := by
    simp only [t1]; split <;> exact ⟨hm, hf, hc⟩
  have h2 : t2 = t1 := if_neg (by rw [State.marked, h1.2.2]; simpa [State.marked] using h)
  rw [h2]
  split <;> exact h1

theorem State.readyLine_markedLine (s : State) (pa mt : Nat) (h : s.marked pa = true) :
    (s.readyLine pa mt).mem = s.mem.clear (pa / 256 * 256) 256 ∧ (s.readyLine pa mt).fe = s.fe.filter (fun w => w / 32 != pa / 256) ∧
      (s.readyLine pa mt).clear = s.clear.filter (· != pa / 256) := by
  have hm := s.l2Fill_mem pa mt
  have hf : (s.l2Fill pa mt).fe = s.fe := (congrArg State.fe (s.l2Fill_rest pa mt) :)
  have hc := s.l2Fill_clear pa mt
  unfold State.readyLine
  generalize s.l2Fill pa mt = u at hm hf hc
  extract_lets line u1 t1 t2 img
  have h1 : t1.mem = s.mem ∧ t1.fe = s.fe ∧ t1.clear = s.clear := by
    simp only [t1]; split <;> exact ⟨hm, hf, hc⟩
  obtain ⟨hm1, hf1, hc1⟩ := h1
  have h2 : t2.mem = s.mem.clear (line * 256) 256 ∧ t2.fe = s.fe.filter (fun w => w / 32 != line) ∧
      t2.clear = s.clear.filter (· != line) := by
    simp only [t2]
    rw [if_pos (by rw [State.marked, hc1]; exact h), hm1, hf1, hc1]
    exact ⟨rfl, rfl, rfl⟩
  split <;> exact h2

/-- A line made ready has no clearing-map bit. -/
theorem State.readyLine_marked (s : State) (pa mt : Nat) : (s.readyLine pa mt).marked pa = false := by
  cases h : s.marked pa
  · rw [← h, State.marked, (s.readyLine_unmarkedLine pa mt h).2.2]; rfl
  · rw [State.marked, (s.readyLine_markedLine pa mt h).2.2]
    simp

/-- Nothing that is read changes when a line is made ready: the clearing that the map stood for is done. -/
theorem State.readyLine_contents (s : State) (pa mt : Nat) : SameContents s (s.readyLine pa mt) := by
  cases h : s.marked pa
  · obtain ⟨hm, hf, hc⟩ := s.readyLine_unmarkedLine pa mt h
    exact .of_eq hm hf hc
  · obtain ⟨hm, hf, hc⟩ := s.readyLine_markedLine pa mt h
    have hl : s.clear.contains (pa / 256) = true := h
    have mark : ∀ b, (s.readyLine pa mt).marked b = (s.marked b && b / 256 != pa / 256) := fun b => by
      rw [State.marked, hc, State.marked]
      apply Bool.eq_iff_iff.mpr
      simp
    refine ⟨fun b hb => ?_, fun b => ?_⟩
    · rw [State.peek_phys _ hb, State.peek_phys _ hb, mark, hm, Memory.readNat_one, Memory.readNat_one, Memory.read_clear]
      by_cases hbl : b / 256 = pa / 256
      · have hs : s.marked b = true := by rw [State.marked, hbl]; exact hl
        rw [if_pos (show pa / 256 * 256 ≤ b ∧ b < pa / 256 * 256 + 256 by omega)]
        simp [hbl, hs]
      · rw [if_neg (show ¬ (pa / 256 * 256 ≤ b ∧ b < pa / 256 * 256 + 256) by omega)]
        simp [hbl]
    · rw [State.isFull, hf, mark, State.isFull]
      by_cases hbl : b / 8 / 32 = pa / 256
      · have hs : s.marked b = true := by rw [State.marked, show b / 256 = pa / 256 by omega]; exact hl
        have : b / 8 ∉ s.fe.filter fun w => w / 32 != pa / 256 := by simp [hbl]
        simp [this, hs]
      · have hbl' : b / 256 ≠ pa / 256 := by omega
        apply Bool.eq_iff_iff.mpr
        simp [hbl, hbl']

/-! ### Words written -/

/-- The bytes of an access are written, and nothing else that is read changes. -/
def Writes (s t : State) (pa n v : Nat) : Prop :=
  t.peek pa n = v % 2 ^ (8 * n) ∧ (∀ b, b < 2 ^ 56 → b < pa ∨ pa + n ≤ b → t.peek b 1 = s.peek b 1) ∧ ∀ b, t.isFull b = s.isFull b

theorem Writes.after {s t u : State} {pa n v : Nat} (h : SameContents s t) (g : Writes t u pa n v) : Writes s u pa n v :=
  ⟨g.1, fun b hb ho => (g.2.1 b hb ho).trans (h.1 b hb), fun b => (g.2.2 b).trans (h.2 b)⟩

theorem State.poke_writes {s : State} {pa : Nat} (w : s.mem.wf = true) (hpa : pa < 2 ^ 56) (n v mt : Nat) :
    Writes s (s.poke pa n v mt) pa n v := by
  have hk := s.keepOld_rest pa n
  have kept : SameContents s (s.keepOld pa n) :=
    .of_eq (s.keepOld_mem pa n) (congrArg State.fe hk :) (congrArg State.clear hk :)
  have ready := kept.trans ((s.keepOld pa n).readyLine_contents pa mt)
  have hw := State.readyLine_wf pa mt (show (s.keepOld pa n).mem.wf = true by rw [State.keepOld_mem]; exact w)
  have hu := (s.keepOld pa n).readyLine_marked pa mt
  have h56 : ¬ 2 ^ 56 ≤ pa := Nat.not_le.mpr hpa
  refine .after ready ?_
  unfold State.poke
  split
  · rename_i k off h
    simp only [regionOf, if_neg h56] at h
    split_ifs at h
  · dsimp only
    generalize (s.keepOld pa n).readyLine pa mt = u at hw hu
    have hm := State.wakeWatch_mem { u with mem := u.mem.writeBytes pa (leBytes n v) } pa v
    have hf : (({ u with mem := u.mem.writeBytes pa (leBytes n v) } : State).wakeWatch pa v).fe = u.fe := by
      unfold State.wakeWatch; split <;> rfl
    have hc : (({ u with mem := u.mem.writeBytes pa (leBytes n v) } : State).wakeWatch pa v).clear = u.clear := by
      unfold State.wakeWatch; split <;> rfl
    generalize ({ u with mem := u.mem.writeBytes pa (leBytes n v) } : State).wakeWatch pa v = t at hm hf hc
    have mark : ∀ b, t.marked b = u.marked b := fun b => by rw [State.marked, hc]; rfl
    refine ⟨?_, fun b hb ho => ?_, fun b => by rw [State.isFull, hf, mark, State.isFull]⟩
    · rw [State.peek_phys _ hpa, mark, hu, hm]
      exact Memory.readNat_writeBytes hw pa n v
    · rw [State.peek_phys _ hb, State.peek_phys _ hb, mark, hm, Memory.readNat_one, Memory.readNat_one,
        Memory.read_writeBytes_out _ _ (by rw [leBytes_length]; exact ho)]

/-- A store writes its masked bytes; a word that has no error it leaves full or empty as it was (R65, R348). -/
theorem State.store_writes {s : State} {a : Acc} (w : s.mem.wf = true) (hpa : a.pa < 2 ^ 56)
    (hb : a.readsWord = true ∨ s.isBad a.pa = false) (v : Word) :
    Writes s (s.store a v) a.pa a.size (a.merged v (BitVec.ofNat 64 (s.peek a.pa a.size))).toNat := by
  have h := State.poke_writes w hpa a.size (a.merged v (BitVec.ofNat 64 (s.peek a.pa a.size))).toNat a.mt
  unfold State.store
  extract_lets old new bad t
  by_cases hr : a.readsWord = true
  · rw [if_pos hr]; exact h
  · rw [if_neg hr, if_neg (by simpa [bad] using hb.resolve_left hr)]; exact h

/-- Writing a word's full/empty bit changes that bit only. -/
theorem State.setFull_isFull (s : State) {pa : Nat} (h : s.marked pa = false) (f : Bool) :
    (s.setFull pa f).isFull pa = f ∧ ∀ b, b / 8 ≠ pa / 8 → (s.setFull pa f).isFull b = s.isFull b := by
  have hm : ∀ b, (s.setFull pa f).marked b = s.marked b := fun _ => rfl
  refine ⟨?_, fun b hb => ?_⟩ <;> rw [State.isFull, hm] <;> cases f <;> apply Bool.eq_iff_iff.mpr
  · simp [State.setFull]
  · simp [State.setFull, mem_insertNat_iff, h]
  · simp [State.setFull, State.isFull, hb]
  · simp [State.setFull, State.isFull, mem_insertNat_iff, hb]

theorem State.poke_marked {s : State} {pa : Nat} (hpa : pa < 2 ^ 56) (n v mt : Nat) : (s.poke pa n v mt).marked pa = false := by
  have h56 : ¬ 2 ^ 56 ≤ pa := Nat.not_le.mpr hpa
  have hu := (s.keepOld pa n).readyLine_marked pa mt
  unfold State.poke
  split
  · rename_i k off h
    simp only [regionOf, if_neg h56] at h
    split_ifs at h
  · dsimp only
    rw [← hu, State.marked, State.marked]
    unfold State.wakeWatch; split <;> rfl

theorem State.store_marked {s : State} {a : Acc} (hpa : a.pa < 2 ^ 56) (hb : a.readsWord = true ∨ s.isBad a.pa = false) (v : Word) :
    (s.store a v).marked a.pa = false := by
  have h := State.poke_marked (s := s) hpa a.size (a.merged v (BitVec.ofNat 64 (s.peek a.pa a.size))).toNat a.mt
  unfold State.store
  extract_lets old new bad t
  by_cases hr : a.readsWord = true
  · rw [if_pos hr]; exact h
  · rw [if_neg hr, if_neg (by simpa [bad] using hb.resolve_left hr)]; exact h

/-! ### An access at its owner -/

/-- The state in which an access performs: a correctable error in a word that it reads is gone (R65). -/
def State.readied (s : State) (a : Acc) : State := if a.readsWord then s.correct a.pa else s

theorem State.countSoft_fe (s : State) (pa : Nat) : (s.countSoft pa).fe = s.fe := by
  unfold State.countSoft; dsimp only; split <;> rfl

theorem State.readied_same (s : State) (a : Acc) :
    (s.readied a).mem = s.mem ∧ (s.readied a).fe = s.fe ∧ (s.readied a).clear = s.clear := by
  unfold State.readied
  split
  · refine ⟨s.correct_mem _, ?_, s.correct_clear _⟩
    unfold State.correct
    split
    · rw [State.countSoft_fe]; rfl
    · rfl
  · exact ⟨rfl, rfl, rfl⟩

theorem State.readied_window (s : State) (a : Acc) (k : Nat) : ((s.readied a).core k).mx.window = (s.core k).mx.window := by
  unfold State.readied State.correct
  split
  · split
    · rw [State.core, State.countSoft_cores]; rfl
    · rfl
  · rfl

/-- What an access does in the state in which it performs, by the value that its word had (R67, R117, R136). -/
def Acc.effect (a : Acc) (old : Word) (u : State) : Perf :=
  match a.cls with
  | .load => .done old u
  | .store => .done 0 (u.store a a.data)
  | .amo op => .done old (u.store { a with mask := -1 } (amoNew op old a.data a.data2))
  | .fe .ff => .done old u
  | .fe .fe => .done old ((u.readyLine a.pa a.mt).setFull a.pa false)
  | .fe .ef => .done 0 ((u.store a a.data).setFull a.pa true)
  | .fe .xf => .done 0 ((u.store a a.data).setFull a.pa true)
  | .feq => .done (if u.isFull a.pa then 1 else 0) u

section
variable {s : State} {a : Acc} (hp : s.populated a.pa = true) (hb : s.isBad a.pa = false)
include hp hb

theorem State.perform_wait (hh : s.holds a = false) : s.perform a = .wait := by
  have hf : s.pcFailed a.pa = false := (Bool.or_eq_false_iff.mp hb).2
  unfold State.perform
  rw [if_neg (by simp [hp]), if_neg (by simp [hb, hf]), if_pos (by simp [hh])]

/-- An access to populated memory without error, whose condition holds, performs. -/
theorem State.perform_done (hh : s.holds a = true) :
    s.perform a = a.effect (BitVec.ofNat 64 (s.peek a.pa a.size)) (s.readied a) := by
  have hf : s.pcFailed a.pa = false := (Bool.or_eq_false_iff.mp hb).2
  have hk : (s.readied a).peek a.pa a.size = s.peek a.pa a.size := by
    obtain ⟨hm, _, hc⟩ := s.readied_same a
    exact State.peek_congr hm hc (s.readied_window a) a.pa a.size
  unfold State.perform
  rw [if_neg (by simp [hp]), if_neg (by simp [hb, hf]), if_neg (by simp [hh])]
  exact congrArg (fun v => a.effect (BitVec.ofNat 64 v) (s.readied a)) hk

end

/-! ### Stores of an access that performs -/

section
variable {s : State} {a : Acc} (w : s.mem.wf = true) (hb : s.isBad a.pa = false) (hpa : a.pa < 2 ^ 56)
include hb

/-- A store that reads no word finds no error to clear away. -/
theorem State.readied_clean : a.readsWord = true ∨ (s.readied a).isBad a.pa = false := by
  unfold State.readied
  cases h : a.readsWord
  · exact .inr hb
  · exact .inl rfl

include w hpa

theorem State.readied_store_writes (v : Word) :
    Writes s ((s.readied a).store a v) a.pa a.size (a.merged v (BitVec.ofNat 64 (s.peek a.pa a.size))).toNat := by
  obtain ⟨hm, hf, hc⟩ := s.readied_same a
  have h := State.store_writes (by rw [hm]; exact w) hpa (State.readied_clean hb) v
  rw [State.peek_congr_phys hm hc hpa] at h
  exact h.after (.of_eq hm hf hc)

/-- A store that leaves its word full (R67). -/
theorem State.readied_fill_writes (v : Word) :
    let u := ((s.readied a).store a v).setFull a.pa true
    u.peek a.pa a.size = (a.merged v (BitVec.ofNat 64 (s.peek a.pa a.size))).toNat % 2 ^ (8 * a.size) ∧
      (∀ b, b < 2 ^ 56 → b < a.pa ∨ a.pa + a.size ≤ b → u.peek b 1 = s.peek b 1) ∧ u.isFull a.pa = true ∧
      ∀ b, b / 8 ≠ a.pa / 8 → u.isFull b = s.isFull b := by
  obtain ⟨hw, hr, hfull⟩ := State.readied_store_writes w hb hpa v
  obtain ⟨h1, h2⟩ := State.setFull_isFull _ (State.store_marked hpa (State.readied_clean hb) v) true
  exact ⟨hw, hr, h1, fun b hne => (h2 b hne).trans (hfull b)⟩

end

/-- The operators of the atomics, in terms of numbers (R136). -/
theorem amoNew_eq (op : AmoOp) (old v v' : Word) : amoNew op old v v' = (match op with
    | .add => old + v | .and => old &&& v | .or => old ||| v | .xor => old ^^^ v
    | .min => if old.toInt < v.toInt then old else v | .max => if old.toInt < v.toInt then v else old
    | .minn => if old.toNat < v.toNat then old else v
    | .maxn => if old.toNat < v.toNat then v else old
    | .swap => v | .cas => if old = v then v' else old
    | .faddF32 => (addF32 (old.setWidth 32) (v.setWidth 32)).setWidth 64
    | .fmaxF32 => (maxF32 (old.setWidth 32) (v.setWidth 32)).setWidth 64) := by
  cases op <;> simp [amoNew, BitVec.slt, BitVec.ult]

/-- Settles O30: each class of access from the state in which it performs, by what a written word reads. -/
theorem accessesPerform : Obligations.AccessesPerform := by
  unfold Obligations.AccessesPerform
  intro s a w hp hb hpa _ _
  extract_lets old reads rest bits full
  have done := fun hh => State.perform_done hp hb (a := a) hh
  obtain ⟨hm, hf, hc⟩ := s.readied_same a
  refine ⟨fun h => ?_, fun h => ?_, fun h => ?_, fun op h => ?_, fun h hfull => ?_, fun h hfull => ?_, fun h hmask hempty => ?_,
    fun h hmask => ?_, fun h hempty => State.perform_wait hp hb ?_, fun h hfull => State.perform_wait hp hb ?_⟩
  · exact ⟨_, (done (by simp [State.holds, h])).trans (by rw [Acc.effect, h]), hm, hf, hc⟩
  · refine ⟨_, (done (by simp [State.holds, h])).trans ?_, hm, hf⟩
    rw [Acc.effect, h]
    exact congrArg (fun b : Bool => Perf.done (if b then 1 else 0) (s.readied a)) ((SameContents.of_eq hm hf hc).2 a.pa)
  · obtain ⟨hw, hr, hbits⟩ := State.readied_store_writes w hb hpa a.data
    exact ⟨_, (done (by simp [State.holds, h])).trans (by rw [Acc.effect, h]), hr, ⟨hbits _, fun b _ => hbits b⟩, hw⟩
  · have hr' : s.readied a = s.readied { a with mask := -1 } := by simp [State.readied, Acc.readsWord, h]
    obtain ⟨hw, hr, hbits⟩ := State.readied_store_writes (a := { a with mask := -1 }) w hb hpa (amoNew op old a.data a.data2)
    rw [← hr'] at hw hr hbits
    rw [Acc.merged_whole rfl] at hw
    refine ⟨_, (done (by simp [State.holds, h])).trans (by rw [Acc.effect, h]), hr, ⟨hbits _, fun b _ => hbits b⟩, hw.trans ?_⟩
    rw [amoNew_eq] <;> rfl
  · exact ⟨_, (done (by simp [State.holds, h, hfull])).trans (by rw [Acc.effect, h]), hm, hf⟩
  · obtain ⟨hr, hbits⟩ := (SameContents.of_eq hm hf hc).trans ((s.readied a).readyLine_contents a.pa a.mt)
    obtain ⟨h1, h2⟩ := State.setFull_isFull _ ((s.readied a).readyLine_marked a.pa a.mt) false
    exact ⟨_, (done (by simp [State.holds, h, hfull])).trans (by rw [Acc.effect, h]), ⟨h1, fun b hne => (h2 b hne).trans (hbits b)⟩, hr⟩
  · obtain ⟨hw, hr, h1, h2⟩ := State.readied_fill_writes w hb hpa a.data
    rw [Acc.merged_whole hmask] at hw
    exact ⟨_, (done (by simp [State.holds, h, hempty])).trans (by rw [Acc.effect, h]), hr, ⟨h1, h2⟩, hw⟩
  · obtain ⟨hw, hr, h1, h2⟩ := State.readied_fill_writes w hb hpa a.data
    rw [Acc.merged_whole hmask] at hw
    exact ⟨_, (done (by simp [State.holds, h])).trans (by rw [Acc.effect, h]), hr, ⟨h1, h2⟩, hw⟩
  · rcases h with h | h <;> simp [State.holds, h, hempty]
  · simp [State.holds, h, hfull]

end Sys2Proof.Machine
end

section
/-! What letting held operations go leaves alone, also where a multicast store has its line to read: levels, operations of other numbers, packets. -/

namespace Sys2Proof.Machine

/-! ### What letting operations go leaves alone -/

/-- The level `y` is `x`, but that a wait that is no withdrawal may have ended. -/
def Lvl.WaitEnds (x y : Lvl) : Prop := { y with wait := x.wait } = x ∧ ∀ o n, x.wait = .gone o n → y.wait = .gone o n

theorem Lvl.WaitEnds.refl (x : Lvl) : x.WaitEnds x := ⟨rfl, fun _ _ h => h⟩
theorem Lvl.WaitEnds.of_eq {x y : Lvl} (h : y = x) : x.WaitEnds y := h ▸ .refl x
theorem Lvl.WaitEnds.trans {x y z : Lvl} (h : x.WaitEnds y) (g : y.WaitEnds z) : x.WaitEnds z := by
  refine ⟨?_, fun o n e => g.2 o n (h.2 o n e)⟩
  have e := h.1
  rw [← g.1] at e
  exact e

/-- Each operation of core `k` with number `i` stands as one of that number stood before. -/
def LeavesOp (k i : Nat) (s t : State) : Prop :=
  ∀ p ∈ (t.core k).ops, p.id = i → ∃ o ∈ (s.core k).ops, o.id = i ∧ p.st = o.st

/-- From `s` to `t` no level has changed but by the end of a wait that is no withdrawal, the operations of core `k` with number `i`
stand as they did, and packets have been added only, with new numbers. -/
structure Pumped (k i : Nat) (s t : State) : Prop where
  lvl : ∀ j l, (s.lvl j l).WaitEnds (t.lvl j l)
  vreg : ∀ j, (t.core j).vreg = (s.core j).vreg
  colls : ∀ j, (t.core j).colls = (s.core j).colls
  cur : t.cur = s.cur
  op : LeavesOp k i s t
  pkts : s.pkts <+: t.pkts
  fresh : ∀ q ∈ t.pkts, q ∈ s.pkts ∨ s.nextId ≤ q.id
  next : s.nextId ≤ t.nextId

namespace Pumped
variable {k i : Nat} {s t u : State}

theorem refl (k i : Nat) (s : State) : Pumped k i s s :=
  ⟨fun _ _ => .refl _, fun _ => rfl, fun _ => rfl, rfl, fun p hp hi => ⟨p, hp, hi, rfl⟩, List.prefix_refl _, fun _ h => .inl h, le_refl _⟩

theorem trans (h : Pumped k i s t) (g : Pumped k i t u) : Pumped k i s u := by
  refine ⟨fun j l => (h.lvl j l).trans (g.lvl j l), fun j => (g.vreg j).trans (h.vreg j), fun j => (g.colls j).trans (h.colls j),
    g.cur.trans h.cur, fun p hp hi => ?_, h.pkts.trans g.pkts, fun q hq => ?_, h.next.trans g.next⟩
  · obtain ⟨o, ho, hoi, e⟩ := g.op p hp hi
    obtain ⟨o', ho', hoi', e'⟩ := h.op o ho hoi
    exact ⟨o', ho', hoi', e.trans e'⟩
  · rcases g.fresh q hq with hq | hq
    · exact h.fresh q hq
    · exact .inr (h.next.trans hq)

/-- Accesses that are served change no level, no operation and no packet. -/
theorem of_served (h : Served s t) (hn : s.nextId ≤ t.nextId) : Pumped k i s t := by
  have hp : t.pkts = s.pkts := (congrArg State.pkts h.rest :)
  have ho : (t.core k).ops = (s.core k).ops := (congrArg Core.ops (h.core k) :)
  refine ⟨fun j l => .of_eq (h.lvl_eq j l), fun j => (congrArg Core.vreg (h.core j) :), fun j => (congrArg Core.colls (h.core j) :),
    (congrArg State.cur h.rest :), fun p hpo hi => ⟨p, by rwa [← ho], hi, rfl⟩, ?_, ?_, hn⟩
  · rw [hp]
  · rw [hp]; exact fun q hq => .inl hq

/-- A change of a core that leaves its levels. -/
theorem updCore (h : Pumped k i s t) (j : Nat) (f : Core → Core)
    (hl : ∀ c, (f c).lv = c.lv ∧ (f c).vreg = c.vreg ∧ (f c).colls = c.colls)
    (ho : ∀ c : Core, ∀ p ∈ (f c).ops, p.id = i → ∃ o ∈ c.ops, o.id = i ∧ p.st = o.st) : Pumped k i s (t.updCore j f) := by
  have hlvl : ∀ m l, (t.updCore j f).lvl m l = t.lvl m l := fun m l => by
    by_cases hm : m = j
    · subst hm; unfold State.lvl Core.lvl; rw [State.core_updCore, (hl _).1]
    · unfold State.lvl; rw [State.core_updCore_ne t f hm]
  have hrest : ∀ m, ((t.updCore j f).core m).vreg = (t.core m).vreg ∧ ((t.updCore j f).core m).colls = (t.core m).colls := fun m => by
    by_cases hm : m = j
    · subst hm; rw [State.core_updCore]; exact (hl _).2
    · rw [State.core_updCore_ne t f hm]; exact ⟨rfl, rfl⟩
  refine h.trans ⟨fun m l => .of_eq (hlvl m l), fun m => (hrest m).1, fun m => (hrest m).2, rfl, fun p hp hi => ?_, List.prefix_refl _,
    fun q hq => .inl hq, le_refl _⟩
  by_cases hk : k = j
  · subst hk; rw [State.core_updCore] at hp; exact ho _ p hp hi
  · rw [State.core_updCore_ne t f hk] at hp; exact ⟨p, hp, hi, rfl⟩

/-- A change of operations of another number. -/
theorem updOp (h : Pumped k i s t) {id : Nat} (hne : id ≠ i) (f : Op → Op) (hf : ∀ o, (f o).id = o.id := by intro o; rfl) :
    Pumped k i s (t.updOp k id f) := by
  refine h.updCore k _ (fun _ => ⟨rfl, rfl, rfl⟩) fun c p hp hi => ?_
  simp only [List.mem_map] at hp
  obtain ⟨o, ho, rfl⟩ := hp
  split at hi
  · rename_i e; rw [hf] at hi; exact absurd (e.symm.trans hi) hne
  · rename_i e; rw [if_neg e]; exact ⟨o, ho, hi, rfl⟩

/-- A change of operations that leaves their numbers and how they stand. -/
theorem updOp_st (h : Pumped k i s t) (id : Nat) (f : Op → Op) (hid : ∀ o, (f o).id = o.id := by intro o; rfl)
    (hst : ∀ o, (f o).st = o.st := by intro o; rfl) : Pumped k i s (t.updOp k id f) := by
  refine h.updCore k _ (fun _ => ⟨rfl, rfl, rfl⟩) fun c p hp hi => ?_
  simp only [List.mem_map] at hp
  obtain ⟨o, ho, rfl⟩ := hp
  refine ⟨o, ho, ?_, ?_⟩
  · rw [← hi]; split
    · rw [hid]
    · rfl
  · split
    · rw [hst]
    · rfl

theorem dropOp (h : Pumped k i s t) (id : Nat) : Pumped k i s (t.dropOp k id) :=
  h.updCore k _ (fun _ => ⟨rfl, rfl, rfl⟩) fun _ p hp hi => ⟨p, (List.mem_filter.mp hp).1, hi, rfl⟩

theorem l1Drop (h : Pumped k i s t) (line : Nat) : Pumped k i s (t.updCore k fun c => c.l1Drop line) := by
  refine h.updCore k _ (fun _ => ⟨rfl, rfl, rfl⟩) fun c p hp hi => ?_
  simp only [Core.l1Drop, List.mem_map] at hp
  obtain ⟨o, ho, rfl⟩ := hp
  refine ⟨o, ho, ?_, ?_⟩
  · rw [← hi]; split <;> rfl
  · split <;> rfl

theorem sendPkt (h : Pumped k i s t) (src dst : UnitId) (vd : Nat) (pl : Plane) (last : Nat) (p : Payload) :
    Pumped k i s (t.sendPkt src dst vd pl last p) := by
  refine h.trans ⟨fun _ _ => .refl _, fun _ => rfl, fun _ => rfl, rfl, fun p hp hi => ⟨p, hp, hi, rfl⟩, List.prefix_append _ _, fun q hq => ?_,
    Nat.le_succ _⟩
  rcases List.mem_append.mp hq with hq | hq
  · exact .inl hq
  · rw [List.mem_singleton.mp hq]; exact .inr (le_refl _)

theorem selfAnswer (h : Pumped k i s t) (o : Op) (st : Nat) (v : Word) : Pumped k i s (t.selfAnswer k o st v) := h.sendPkt _ _ _ _ _ _

theorem ite {c : Prop} [Decidable c] (h : Pumped k i s t) (g : Pumped k i s u) : Pumped k i s (if c then t else u) := by
  split <;> assumption

end Pumped

/-! ### The reading of the line of a multicast store -/

theorem State.countSoft_nextId (s : State) (pa : Nat) : s.nextId ≤ (s.countSoft pa).nextId := by
  unfold State.countSoft
  dsimp only
  split
  · exact Nat.le_succ s.nextId
  · exact le_refl _
theorem State.correct_nextId (s : State) (pa : Nat) : s.nextId ≤ (s.correct pa).nextId := by
  unfold State.correct
  split
  · exact State.countSoft_nextId (s.dropBad pa) pa
  · exact le_refl _

theorem State.readyLine_nextId (s : State) (pa mt : Nat) : (s.readyLine pa mt).nextId = s.nextId := by
  have h : (s.l2Fill pa mt).nextId = s.nextId := (congrArg State.nextId (s.l2Fill_rest pa mt) :)
  unfold State.readyLine
  dsimp only
  generalize s.l2Fill pa mt = u at h
  rw [← h]
  split <;> split <;> split <;> rfl

theorem State.poke_nextId (s : State) (pa n v mt : Nat) : (s.poke pa n v mt).nextId = s.nextId := by
  have hk : (s.keepOld pa n).nextId = s.nextId := (congrArg State.nextId (s.keepOld_rest pa n) :)
  have hr := (s.keepOld pa n).readyLine_nextId pa mt
  unfold State.poke
  split
  · rfl
  · rw [← hk, ← hr]
    unfold State.wakeWatch
    dsimp only
    split <;> rfl

theorem State.pokeRun_nextId (s : State) (pa mt : Nat) (ws : List Word) (bits : List (Option Bool)) :
    s.nextId ≤ (s.pokeRun pa mt ws bits).nextId := by
  induction ws generalizing s pa bits with
  | nil => exact le_refl _
  | cons w ws ih =>
    have hp := s.poke_nextId pa 8 w.toNat mt
    unfold State.pokeRun
    extract_lets bad t t1 t2
    have h1 : t1.nextId = s.nextId := by
      simp only [t1]; split
      · exact hp
      · split <;> exact hp
    have h2 : s.nextId ≤ t2.nextId := by
      rw [← h1]
      simp only [t2]; split
      · exact State.countSoft_nextId (t1.dropBad pa) pa
      · exact le_refl _
    exact h2.trans (ih _ _ _)

theorem State.traceCore_nextId (s : State) (k : Nat) (a : Acc) : s.nextId ≤ (s.traceCore k a).nextId := by
  unfold State.traceCore
  dsimp only
  split
  · exact State.pokeRun_nextId _ _ _ _ _
  · exact le_refl _

theorem State.updClu_nextId_le {s t : State} (h : s.nextId ≤ t.nextId) (k : Nat) (f : Cluster → Cluster) :
    s.nextId ≤ (t.updClu k f).nextId := h

theorem State.servedRun_nextId (s : State) (vd base mt : Nat) (ws : List Word) (bits : List (Option Bool)) :
    s.nextId ≤ (if s.pcFailed base then s else ((s.memServe vd base).ownFrame base vd).pokeRun base mt ws bits).nextId := by
  have h1 : (s.memServe vd base).nextId = s.nextId := (congrArg State.nextId (s.memServe_rest vd base) :)
  have h2 : ((s.memServe vd base).ownFrame base vd).nextId = (s.memServe vd base).nextId :=
    (congrArg State.nextId (State.ownFrame_rest _ base vd) :)
  split
  · exact le_refl _
  · rw [← h1, ← h2]; exact State.pokeRun_nextId _ _ _ _ _

theorem State.trace_nextId (s : State) (a : Acc) : s.nextId ≤ (s.trace a).nextId := by
  unfold State.trace
  split
  · exact State.traceCore_nextId _ _ _
  · exact State.traceCore_nextId _ _ _
  · exact le_refl _
  · dsimp only
    split
    · exact State.updClu_nextId_le (State.servedRun_nextId s _ _ _ _ _) _ _
    · exact le_refl _

theorem State.portServed_nextId (s : State) (u : UnitId) (input : Nat) : (s.portServed u input).nextId = s.nextId := by
  unfold State.portServed
  dsimp only
  split <;> rfl

/-- Words read one after the other are corrected in passing (R65). -/
theorem Pumped.corrects {k i : Nat} {s t : State} (h : Pumped k i s t) (as : List Nat) (f : Nat → Nat) :
    Pumped k i s (as.foldl (fun s a => s.correct (f a)) t) := by
  induction as generalizing t with
  | nil => exact h
  | cons a as ih => exact ih (h.trans (.of_served (.correct t _) (t.correct_nextId _)))

theorem Pumped.reads (k i : Nat) (s : State) (a : Acc) (u : UnitId) (input : Nat) : Pumped k i s ((s.trace a).portServed u input) :=
  (Pumped.of_served (.trace s a) (s.trace_nextId a)).trans (.of_served (.portServed _ u input) (State.portServed_nextId _ u input).ge)

theorem State.readMcst_pumped (s : State) {k i : Nat} (o : Op) (m : Mcast) (pa : Nat) (hi : o.id ≠ i) :
    Pumped k i s (s.readMcst k o m pa) := by
  unfold State.readMcst
  extract_lets vd t data u
  have ht : Pumped k i s t := .reads k i s _ _ _
  refine .ite ((Pumped.refl k i s).updOp hi _) (.ite (ht.sendPkt _ _ _ _ _ _) ?_)
  exact ((ht.corrects _ _).updOp hi _).sendPkt _ _ _ _ _ _

/-! ### An operation that leaves, and the letting go -/

theorem State.sendOp_pumped (s : State) {k i : Nat} (o : Op) (hi : o.id ≠ i) : Pumped k i s (s.sendOp k o) := by
  have h : Pumped k i s (s.updOp k o.id fun o => { o with st := .sent }) := (Pumped.refl k i s).updOp hi _
  unfold State.sendOp
  generalize (s.updOp k o.id fun o => { o with st := .sent }) = t at h
  dsimp only
  cases o.work <;> dsimp only
  case mem a =>
    refine .sendPkt (.updOp ?_ hi _) _ _ _ _ _ _
    split
    · exact h.l1Drop _
    · exact h
  case flag => exact (h.l1Drop _).sendPkt _ _ _ _ _ _
  case cinv => exact (h.l1Drop _).dropOp _
  case tret => exact (h.dropOp _).updCore _ _ (fun _ => ⟨rfl, rfl, rfl⟩) fun _ p hp e => ⟨p, hp, e, rfl⟩
  case mcst m pa line =>
    cases line with
    | none => exact h.trans (t.readMcst_pumped o m pa hi)
    | some d => exact h.sendPkt _ _ _ _ _ _
  all_goals exact h.sendPkt _ _ _ _ _ _

theorem State.goLoad_pumped (s : State) {k i : Nat} (o : Op) (a : Acc) (hi : o.id ≠ i) : Pumped k i s (s.goLoad k o a) := by
  have h := Pumped.refl k i s
  unfold State.goLoad
  dsimp only
  generalize (List.filter _ (s.core k).ops).getLast? = m
  cases m with
  | some p => exact .ite ((h.updOp hi _).selfAnswer _ _ _) h
  | none =>
    dsimp only
    split
    · exact (h.updOp hi _).selfAnswer _ _ _
    · split
      · rename_i l _
        have hit := (h.updOp hi fun x =>
          { x with st := (((s.core k).flyingStore x).map fun p => OpState.taking p.id).getD .sent }).updCore k (fun c => c.l1Hit l.addr)
            (fun _ => ⟨rfl, rfl, rfl⟩) fun _ p hp e => ⟨p, hp, e, rfl⟩
        split <;> exact hit.selfAnswer _ _ _
      · exact s.sendOp_pumped o hi

/-- Where no operation numbered `i` is held, the letting go of any number leaves them alone. -/
theorem State.tryOp_pumped (s : State) {k i : Nat} (id : Nat) (hi : ∀ o ∈ (s.core k).ops, o.id = i → o.st ≠ .held) :
    Pumped k i s (s.tryOp k id) := by
  have h := Pumped.refl k i s
  unfold State.tryOp
  dsimp only
  split
  · exact h
  · rename_i o hf
    have hid : o.id = id := by simpa using List.find?_some hf
    by_cases hh : o.st = .held
    · have ho : o.id ≠ i := fun e => hi o (List.mem_of_find?_eq_some hf) e hh
      have g := s.sendOp_pumped (k := k) o ho
      rw [if_neg (by simp [hh])]
      split
      · split
        · exact .ite (s.goLoad_pumped o _ ho) (.refl k i s)
        · exact .ite (.ite g (.ite (h.updOp (hid ▸ ho) _) h)) h
        · exact .ite g h
      · exact h
      · exact .ite g h
    · rw [if_pos (by simpa using hh)]; exact h

/-! ### The end of waits -/

/-- The settling of waits changes levels, and empties L1 after an acquire. -/
theorem Core.settleLvl_rest (c : Core) (l : Level) : (c.settleLvl l).vreg = c.vreg ∧ (c.settleLvl l).colls = c.colls := by
  unfold Core.settleLvl
  dsimp only
  split <;> (repeat' split) <;> exact ⟨rfl, rfl⟩

/-- Of the levels only waits that end are changed, and no wait for a withdrawal is. -/
theorem Core.settleLvl_lvl (c : Core) (l m : Level) : (c.lvl m).WaitEnds ((c.settleLvl l).lvl m) := by
  have ends : ∀ d : Core, (∀ o n, (c.lvl l).wait ≠ .gone o n) → d.lv = (c.setLvl l { c.lvl l with wait := .ready }).lv →
      (c.lvl m).WaitEnds (d.lvl m) := fun d hw e => by
    have e' : d.lvl m = (c.setLvl l { c.lvl l with wait := .ready }).lvl m := by rw [Core.lvl, e]; rfl
    by_cases hm : m = l
    · subst hm
      rw [e', Core.lvl_setLvl]
      exact ⟨rfl, fun o n h => absurd h (hw o n)⟩
    · exact .of_eq (e'.trans (Core.lvl_setLvl_ne c _ hm))
  unfold Core.settleLvl
  dsimp only
  split
  · rename_i uid hw
    split
    · exact .refl _
    · exact ends _ (fun o n h => by rw [hw] at h; cases h) rfl
  · rename_i po all acq hw
    have hne : ∀ o n, (c.lvl l).wait ≠ .gone o n := fun o n h => by rw [hw] at h; cases h
    split
    · exact .refl _
    · split
      · exact ends _ hne rfl
      · exact ends _ hne rfl
  · rename_i id hw
    split
    · exact .refl _
    · exact ends _ (fun o n h => by rw [hw] at h; cases h) rfl
  · exact .refl _

theorem Pumped.settleLvl {k i : Nat} {s t : State} (h : Pumped k i s t) (l : Level) :
    Pumped k i s (t.updCore k fun c => c.settleLvl l) := by
  have hrest : ∀ j, ((t.updCore k fun c => c.settleLvl l).core j).vreg = (t.core j).vreg ∧
      ((t.updCore k fun c => c.settleLvl l).core j).colls = (t.core j).colls := fun j => by
    by_cases hj : j = k
    · subst hj; rw [State.core_updCore]; exact Core.settleLvl_rest _ l
    · rw [State.core_updCore_ne t _ hj]; exact ⟨rfl, rfl⟩
  refine h.trans ⟨fun j m => ?_, fun j => (hrest j).1, fun j => (hrest j).2, rfl, fun p hp hi => ⟨p, ?_, hi, rfl⟩, List.prefix_refl _,
    fun _ hq => .inl hq, le_refl _⟩
  · unfold State.lvl
    by_cases hj : j = k
    · subst hj; rw [State.core_updCore]; exact (t.core j).settleLvl_lvl l m
    · rw [State.core_updCore_ne t _ hj]; exact .refl _
  · rwa [State.core_updCore, Core.settleLvl_ops] at hp

theorem State.updCore_updCore (s : State) (k : Nat) (f g : Core → Core) :
    (s.updCore k f).updCore k g = s.updCore k fun c => g (f c) := by
  have h : (s.updCore k f).core k = f (s.core k) := s.core_updCore k f
  unfold State.updCore at h ⊢
  rw [h]
  unfold State.setCore
  rw [AMap.put_put]

theorem Pumped.settle {k i : Nat} {s t : State} (h : Pumped k i s t) : Pumped k i s (t.updCore k Core.settle) := by
  have g := (((h.settleLvl 0).settleLvl 1).settleLvl 2).settleLvl 3
  simp only [State.updCore_updCore] at g
  exact g

/-- Letting held operations go leaves alone the operations whose number no held one has. -/
theorem State.pump_pumped (s : State) {k i : Nat} (hi : ∀ o ∈ (s.core k).ops, o.id = i → o.st ≠ .held) : Pumped k i s (s.pump k) := by
  unfold State.pump
  extract_lets ids t
  refine .settle ?_
  have h : ∀ (as : List Nat) (u : State), Pumped k i s u → Pumped k i s (as.foldl (fun s id => s.tryOp k id) u) := by
    intro as
    induction as with
    | nil => exact fun _ h => h
    | cons a as ih =>
      refine fun u h => ih _ (h.trans (u.tryOp_pumped a fun p hp e hs => ?_))
      obtain ⟨o, ho, hoi, e'⟩ := h.op p hp e
      exact hi o ho hoi (e'.symm.trans hs)
  exact h ids s (.refl k i s)

end Sys2Proof.Machine
end

section
/-! The state at reset, and operations that leave their core (R58, R72, R117). -/

namespace Sys2Proof.Machine

/-- Settles O1: nothing is written at reset, and each table of it is empty. -/
theorem resetState : Obligations.ResetState := by
  unfold Obligations.ResetState
  have quiet : ∀ k l, (State.reset.lvl k l).act = none ∧ (State.reset.lvl k l).pend = [] ∧ (State.reset.lvl k l).ilock = [] := fun k l => by
    fin_cases l <;> exact ⟨rfl, rfl, rfl⟩
  refine ⟨fun _ => rfl, rfl, rfl, fun a ha => ?_, fun _ => rfl, rfl, rfl, rfl, fun k l => ?_⟩
  · have h56 : ¬ 2 ^ 56 ≤ a := Nat.not_le.mpr ha
    unfold State.peek
    split
    · rename_i k off h
      simp only [regionOf, if_neg h56] at h
      split_ifs at h
    · rfl
  · obtain ⟨ha, hp, hi⟩ := quiet k l
    exact ⟨ha, hp, hi, rfl, rfl⟩

/-! ### Accesses that leave -/

section
variable (s : State) (k : Nat) {o : Op} {a : Acc} (hw : o.work = .mem a)
include hw

/-- The access that leaves is on its way to the owner of its word (R117). -/
theorem State.sendOp_access : ∃ q f, q ∈ (s.sendOp k o).pkts ∧ q.src = coreUnit k ∧ q.dst = ownerOf a.pa ∧ q.vd = (s.core k).owner ∧
    q.payload = .access { a with fill := f } o.id := by
  unfold State.sendOp
  dsimp only
  rw [hw]
  exact ⟨_, _, List.mem_append_right _ (List.mem_singleton.mpr rfl), rfl, rfl, rfl, rfl⟩

/-- And counts as sent. -/
theorem State.sendOp_sent : ∀ p ∈ ((s.sendOp k o).core k).ops, p.id = o.id → p.st = .sent := by
  have h : ∀ p ∈ ((s.updOp k o.id fun o => { o with st := .sent }).core k).ops, p.id = o.id → p.st = .sent := fun p hp hi => by
    simp only [State.updOp, State.core_updCore, List.mem_map] at hp
    obtain ⟨q, _, rfl⟩ := hp
    by_cases e : q.id = o.id
    · rw [if_pos e]
    · rw [if_neg e] at hi; exact absurd hi e
  have sent : ∀ {t u : State}, (∀ p ∈ (t.core k).ops, p.id = o.id → p.st = .sent) → Pumped k o.id t u →
      ∀ p ∈ (u.core k).ops, p.id = o.id → p.st = .sent := fun ht hu p hp hi => by
    obtain ⟨q, hq, hqi, e⟩ := hu.op p hp hi
    rw [e, ht q hq hqi]
  unfold State.sendOp
  generalize (s.updOp k o.id fun o => { o with st := .sent }) = t at h
  dsimp only
  rw [hw]
  refine sent h (.sendPkt (.updOp_st ?_ _ _) _ _ _ _ _ _)
  exact .ite ((Pumped.refl k o.id t).l1Drop _) (.refl k o.id t)

omit hw in
/-- So does the letting go of what was held leave it. -/
theorem State.pump_sent {s : State} {k : Nat} {id : Nat} (h : ∀ p ∈ (s.core k).ops, p.id = id → p.st = .sent) :
    ∀ p ∈ ((s.pump k).core k).ops, p.id = id → p.st = .sent := fun p hp hi => by
  obtain ⟨q, hq, hqi, e⟩ := (s.pump_pumped fun p hp hi => by rw [h p hp hi]; decide).op p hp hi
  rw [e, h q hq hqi]
end

theorem Core.l1Write_calm (c : Core) (a : Acc) (h : c.Calm) : (c.l1Write a).Calm := by
  unfold Core.l1Write
  dsimp only
  split
  · exact c.l1Drop_calm _ h
  · exact (c.l1Drop_calm _ h :)

theorem Core.l1Write_owner (c : Core) (a : Acc) : (c.l1Write a).owner = c.owner := by
  unfold Core.l1Write
  dsimp only
  split <;> rfl

theorem Op.readsLine_mem {o : Op} {a : Acc} (h : o.work = .mem a) : o.readsLine = false := by rw [Op.readsLine, h]

theorem execStoreBufferDrain_mem {s : State} {k : Nat} {o : Op} {a : Acc} (hw : o.work = .mem a)
    (hk : k = coreKey s.arg.chip s.arg.node s.arg.slot)
    (hf : ((s.core k).ops.find? fun p => p.id == s.arg.id && p.st == .buffered) = some o) :
    execStoreBufferDrain s = .next (((s.updCore k fun c => c.l1Write a).sendOp k o).pump k) := by
  subst hk
  unfold execStoreBufferDrain
  dsimp only
  rw [hf]
  dsimp only
  rw [hw]

theorem execNackResend_backoff {s : State} {k n : Nat} {o : Op} (ho : s.opOf s.arg.id = some (k, o)) (hst : o.st = .backoff n)
    (hs : s.sendsNow k = true) : execNackResend s = .next (if n ≤ s.now then s.sendOp k o else s) := by
  unfold execNackResend
  rw [ho]
  dsimp only
  rw [hst]
  simp [hs]

/-- Settles O34: the access is on its way, the letting go of others leaves it so, and memory is written when it performs only. -/
theorem operationsLeave : Obligations.OperationsLeave := by
  unfold Obligations.OperationsLeave
  intro s k o a hw
  extract_lets leaves
  refine ⟨fun hk hf _ => ?_, fun n ho hst hs => ⟨fun hn => ?_, fun hn => ?_⟩⟩
  · refine ⟨_, execStoreBufferDrain_mem hw hk hf, ?_⟩
    have ho : ((s.updCore k fun c => c.l1Write a).core k).owner = (s.core k).owner := by
      rw [State.core_updCore, Core.l1Write_owner]
    obtain ⟨q, f, hq, hsrc, hdst, hvd, hp⟩ := State.sendOp_access (s.updCore k fun c => c.l1Write a) k hw
    have hsent := State.sendOp_sent (s.updCore k fun c => c.l1Write a) k hw
    have hgo : LetsGo k s ((s.updCore k fun c => c.l1Write a).sendOp k o) :=
      ((LetsGo.refl k s).upd _ fun c => c.l1Write_calm a).trans (State.sendOp_letsGo _ k o (Op.readsLine_mem hw))
    generalize (s.updCore k fun c => c.l1Write a).sendOp k o = u at hq hsent hgo
    have hpump := u.pump_pumped (k := k) (i := o.id) fun p hp hi => by rw [hsent p hp hi]; decide
    refine ⟨⟨q, f, hpump.pkts.subset hq, hsrc, hdst, hvd.trans ho, hp⟩, State.pump_sent hsent, fun hc => ?_⟩
    exact (u.pump_letsGo k (hgo.2.2.2 hc)).mem.trans hgo.mem
  · refine ⟨_, (execNackResend_backoff ho hst hs).trans (by rw [if_pos hn]), State.sendOp_access s k hw, State.sendOp_sent s k hw, fun _ => ?_⟩
    exact (State.sendOp_letsGo s k o (Op.readsLine_mem hw)).mem
  · exact (execNackResend_backoff ho hst hs).trans (by rw [if_neg (by omega)])

end Sys2Proof.Machine
end

section
/-! The answer to an operation: its end, its result, its late fault, its back-off (R72, R105, R343, R345, R349). -/

namespace Sys2Proof.Machine

/-! ### An operation that has its answer -/

/-- The end of an operation changes the operations of its core only. -/
theorem State.opOver_eq (s : State) (k : Nat) (o : Op) :
    ∃ f : List Op → List Op, s.opOver k o = s.updCore k (fun c => { c with ops := f c.ops }) := by
  have drop : ∃ f : List Op → List Op, s.dropOp k o.id = s.updCore k (fun c => { c with ops := f c.ops }) := ⟨_, rfl⟩
  unfold State.opOver
  split
  · split
    · exact ⟨_, rfl⟩
    · exact drop
  · exact drop

theorem State.dropOp_gone (s : State) (k id : Nat) : ∀ y ∈ ((s.dropOp k id).core k).ops, y.id ≠ id := fun y hy => by
  simp only [State.dropOp, State.core_updCore, List.mem_filter, Bool.and_eq_true, bne_iff_ne] at hy
  exact hy.2.1

/-- What is known of operation `o` of core `k` once its answer is in: it is gone, or kept for the store whose value it took; nothing else
that is under way has changed, and no byte. -/
structure Settled (k : Nat) (o : Op) (s u : State) : Prop where
  gone : (∀ n, o.st ≠ .taking n) → ∀ y ∈ (u.core k).ops, y.id ≠ o.id
  kept : ∀ n, o.st = .taking n → ∀ y ∈ (u.core k).ops, y.id = o.id → y.st = .kept n
  calm : (s.core k).Calm → (u.core k).Calm
  pkts : u.pkts = s.pkts
  next : u.nextId = s.nextId
  mem : u.mem = s.mem

namespace Settled
variable {k : Nat} {o : Op} {s u t : State}

theorem opOver (s : State) (k : Nat) (o : Op) : Settled k o s (s.opOver k o) := by
  have rest : (s.opOver k o).pkts = s.pkts ∧ (s.opOver k o).nextId = s.nextId ∧ (s.opOver k o).mem = s.mem := by
    obtain ⟨f, hf⟩ := s.opOver_eq k o
    rw [hf]
    exact ⟨rfl, rfl, rfl⟩
  obtain ⟨hp, hn, hm⟩ := rest
  have calmDrop : (s.core k).Calm → ((s.dropOp k o.id).core k).Calm := ((LetsGo.refl k s).dropOp o.id).2.2.2
  refine ⟨fun hst => ?_, fun n hst => ?_, ?_, hp, hn, hm⟩ <;> unfold State.opOver
  · split
    · rename_i n e; exact absurd e (hst n)
    · exact s.dropOp_gone k o.id
  · rw [hst]
    dsimp only
    split
    · intro y hy hi
      simp only [State.updOp, State.core_updCore, List.mem_map] at hy
      obtain ⟨q, _, rfl⟩ := hy
      by_cases e : q.id = o.id
      · rw [if_pos e]
      · rw [if_neg e] at hi; exact absurd hi e
    · exact fun y hy hi => absurd hi (s.dropOp_gone k o.id y hy)
  · split
    · split
      · exact ((LetsGo.refl k s).updOp o.id _ fun _ e => by cases e).2.2.2
      · exact calmDrop
    · exact calmDrop

/-- What leaves the operations of the core, the packets and memory leaves this. -/
theorem of_same (h : Settled k o s u) (ho : (t.core k).ops = (u.core k).ops) (hp : t.pkts = u.pkts) (hn : t.nextId = u.nextId)
    (hm : t.mem = u.mem) : Settled k o s t :=
  ⟨fun a => ho ▸ h.gone a, fun n a => ho ▸ h.kept n a, fun c => by have := h.calm c; unfold Core.Calm at this ⊢; rwa [ho],
    hp.trans h.pkts, hn.trans h.next, hm.trans h.mem⟩

theorem updCore (h : Settled k o s u) (f : Core → Core) (ho : ∀ c, (f c).ops = c.ops) : Settled k o s (u.updCore k f) :=
  h.of_same (by rw [State.core_updCore, ho]) rfl rfl rfl

end Settled

/-! ### Answers with status OK -/

/-- The line of a fill changes L1 only, and takes a choice. -/
theorem State.keepLine_eq (s : State) (k : Nat) (o : Op) (line : Option (Nat × List Byte × List Nat)) :
    s.keepLine k o line = s ∨ ∃ l n, s.keepLine k o line = ({ s with free := s.free + 1 } : State).updCore k fun c => c.l1Fill l n := by
  unfold State.keepLine
  split
  · split
    · exact .inr ⟨_, _, rfl⟩
    · exact .inl rfl
  · exact .inl rfl

/-- The state in which an operation with status OK gives its value: it is over, an acquire has emptied L1, a filled line is kept. -/
def State.accepted (s : State) (k : Nat) (o : Op) (line : Option (Nat × List Byte × List Nat)) : State :=
  (if o.acquires then (s.opOver k o).updCore k Core.l1Empty else s.opOver k o).keepLine k o line

theorem State.lvl_updCore_lv (s : State) (k : Nat) (f : Core → Core) (hf : ∀ c, (f c).lv = c.lv := by intro c; rfl) (j : Nat) (l : Level) :
    (s.updCore k f).lvl j l = s.lvl j l := by
  unfold State.lvl
  by_cases hj : j = k
  · subst hj; rw [State.core_updCore, Core.lvl, hf]; rfl
  · rw [State.core_updCore_ne s f hj]

theorem State.opOver_lvl (s : State) (k : Nat) (o : Op) (j : Nat) (l : Level) : (s.opOver k o).lvl j l = s.lvl j l := by
  obtain ⟨f, hf⟩ := s.opOver_eq k o
  rw [hf]
  exact s.lvl_updCore_lv k _ (j := j) (l := l)

theorem State.accepted_settled (s : State) (k : Nat) (o : Op) (line : Option (Nat × List Byte × List Nat)) :
    Settled k o s (s.accepted k o line) ∧ ∀ j l, (s.accepted k o line).lvl j l = s.lvl j l := by
  have h0 : ∀ t : State, Settled k o s t → (∀ j l, t.lvl j l = s.lvl j l) →
      Settled k o s (t.keepLine k o line) ∧ ∀ j l, (t.keepLine k o line).lvl j l = s.lvl j l := fun t ht hl => by
    rcases t.keepLine_eq k o line with e | ⟨l, n, e⟩ <;> rw [e]
    · exact ⟨ht, hl⟩
    · refine ⟨(ht.of_same (t := { t with free := t.free + 1 }) rfl rfl rfl rfl).updCore _ fun _ => rfl, fun j m => ?_⟩
      exact (State.lvl_updCore_lv _ k _ (j := j) (l := m)).trans (hl j m)
  unfold State.accepted
  split
  · exact h0 _ ((Settled.opOver s k o).updCore _ fun _ => rfl) fun j l =>
      (State.lvl_updCore_lv _ k _ (j := j) (l := l)).trans (s.opOver_lvl k o j l)
  · exact h0 _ (.opOver s k o) (s.opOver_lvl k o)

section
variable {s : State} {k : Nat} {o : Op} {a : Acc} (hw : o.work = .mem a)
  (hn : ¬ ((s.lvl k (lvOf o.lev)).isAct o.act = true ∧ (s.lvl k (lvOf o.lev)).withdraws o.id = true))
include hw hn

theorem State.answered_drop (hd : o.dest = .drop) (v : Word) (line : Option (Nat × List Byte × List Nat)) :
    s.answered k o 0 v line = s.accepted k o line := by
  have hn' : ¬ (((s.opOver k o).lvl k (lvOf o.lev)).isAct o.act = true ∧ ((s.opOver k o).lvl k (lvOf o.lev)).withdraws o.id = true) := by
    rwa [s.opOver_lvl]
  unfold State.answered
  dsimp only
  rw [if_neg hn', if_pos rfl, hw, hd]
  rfl

theorem State.answered_reg {r size : Nat} {signed : Bool} (hd : o.dest = .reg r size signed) (v : Word)
    (line : Option (Nat × List Byte × List Nat)) :
    s.answered k o 0 v line = (s.accepted k o line).updCore k fun c => c.loadResult o r size signed v := by
  have hn' : ¬ (((s.opOver k o).lvl k (lvOf o.lev)).isAct o.act = true ∧ ((s.opOver k o).lvl k (lvOf o.lev)).withdraws o.id = true) := by
    rwa [s.opOver_lvl]
  unfold State.answered
  dsimp only
  rw [if_neg hn', if_pos rfl, hw, hd]
  rfl

theorem State.answered_fault {st : Nat} (hst : st ≠ 0) (hd : ∀ c i, o.dest ≠ .part c i) (v : Word)
    (line : Option (Nat × List Byte × List Nat)) :
    s.answered k o st v line = (s.opOver k o).lateRaise k o (statusCause st).1 (statusCause st).2 o.va := by
  have hn' : ¬ (((s.opOver k o).lvl k (lvOf o.lev)).isAct o.act = true ∧ ((s.opOver k o).lvl k (lvOf o.lev)).withdraws o.id = true) := by
    rwa [s.opOver_lvl]
  unfold State.answered
  dsimp only
  rw [if_neg hn', if_neg hst, hw]
  cases h : o.dest with
  | part c i => exact absurd h (hd c i)
  | drop => rfl
  | reg r size signed => rfl

omit hw in
theorem State.refused_keeps : s.refused k o = s.updOp k o.id fun o => { o with st := .backoff (s.backoffEnd o.nacks), nacks := o.nacks + 1 } := by
  unfold State.refused
  dsimp only
  rw [if_neg hn]

end

/-! ### Late faults -/

/-- The state with a cause in the trap registers of a level, whose outstanding results are dropped first (R434). -/
def State.caughtAt (s : State) (k : Nat) (l : Level) (cause : Nat) (pc val addr : Word) (late : Bool) : State :=
  s.setCore k (((s.core k).commitAll l).setLvl l { ((s.core k).commitAll l).lvl l with
    trapcause := BitVec.ofNat 64 ((if late then 0x400 else 0) + l.val * 256 + cause), trappc := pc, trapval := val, trapaddr := addr,
    pfx := none, xl := [], again := true })

/-- A cause that no handler takes ends the activation as a fault (R434, R438). -/
theorem State.raiseAt_untrappable (s : State) (k : Nat) (l : Level) {cause : Nat} (pc next val addr : Word) (late : Bool)
    (h : trappable cause = false) : s.raiseAt k l cause pc next val addr late = (s.caughtAt k l cause pc val addr late).fault k l := by
  unfold State.raiseAt
  dsimp only
  rw [if_neg (by simp [h])]
  rfl

theorem State.caughtAt_lvl (s : State) (k : Nat) (l : Level) (cause : Nat) (pc val addr : Word) (late : Bool) :
    (s.caughtAt k l cause pc val addr late).lvl k l = { ((s.core k).commitAll l).lvl l with
      trapcause := BitVec.ofNat 64 ((if late then 0x400 else 0) + l.val * 256 + cause), trappc := pc, trapval := val, trapaddr := addr,
      pfx := none, xl := [], again := true } := by
  rw [State.lvl, State.caughtAt, State.core_setCore, Core.lvl_setLvl]

theorem State.caughtAt_lvl_ne (s : State) (k : Nat) {l m : Level} (hm : m ≠ l) (cause : Nat) (pc val addr : Word) (late : Bool) :
    (s.caughtAt k l cause pc val addr late).lvl k m = s.lvl k m := by
  rw [State.lvl, State.caughtAt, State.core_setCore, Core.lvl_setLvl_ne _ _ hm, Core.commitAll_lvl_ne _ hm]
  rfl

/-- The state in which a late fault is raised: what the instruction still has outstanding raises none after it. -/
def State.hushed (s : State) (k : Nat) (o : Op) : State :=
  s.updCore k fun c => { c with ops := c.ops.map fun p =>
    if p.lev == o.lev && p.act == o.act && p.po == o.po then { p with quiet := true } else p }

theorem State.hushed_lvl (s : State) (k : Nat) (o : Op) (j : Nat) (l : Level) : (s.hushed k o).lvl j l = s.lvl j l :=
  s.lvl_updCore_lv k _ (j := j) (l := l)
theorem State.hushed_run (s : State) (k : Nat) (o : Op) : ((s.hushed k o).core k).run = (s.core k).run := by
  rw [State.hushed, State.core_updCore]
theorem State.opOver_run (s : State) (k : Nat) (o : Op) : ((s.opOver k o).core k).run = (s.core k).run := by
  obtain ⟨f, hf⟩ := s.opOver_eq k o
  rw [hf, State.core_updCore]

section
variable {s : State} {k : Nat} {o : Op} (hq : o.quiet = false) (cause : Nat) (val addr : Word)
include hq

/-- While the activation runs a late cause is in its trap registers, and ends it. -/
theorem State.lateRaise_live (ht : trappable cause = false) (ha : (s.lvl k (lvOf o.lev)).isAct o.act = true)
    (hr : (s.core k).run = .running) : s.lateRaise k o cause val addr =
      ((s.hushed k o).caughtAt k (lvOf o.lev) cause o.pc val addr true).fault k (lvOf o.lev) := by
  have hc : (((s.hushed k o).lvl k (lvOf o.lev)).isAct o.act && ((s.hushed k o).core k).run == .running) = true := by
    rw [s.hushed_lvl, s.hushed_run, ha, hr]; rfl
  unfold State.lateRaise
  rw [if_neg (by simp [hq])]
  unfold State.lateCause
  dsimp only
  exact (if_pos hc).trans (State.raiseAt_untrappable _ k _ _ _ _ _ true ht)

/-- Once it has ended, or its core has stopped, the cause goes to the launch. -/
theorem State.lateRaise_ended (h : (s.lvl k (lvOf o.lev)).isAct o.act = false ∨ (s.core k).run ≠ .running) :
    s.lateRaise k o cause val addr = (s.hushed k o).reportStop k 0 o.launch cause
      [faultWord0 k o.lev 0 (keySlot k) cause true, o.pc, val, addr] := by
  have hc : ¬ (((s.hushed k o).lvl k (lvOf o.lev)).isAct o.act && ((s.hushed k o).core k).run == .running) = true := by
    rw [s.hushed_lvl, s.hushed_run]
    rcases h with h | h <;> simp [h]
  unfold State.lateRaise
  rw [if_neg (by simp [hq])]
  unfold State.lateCause
  dsimp only
  exact if_neg hc

end

/-! ### The result of a load -/

/-- The value of a load in its register: extended from its size (R343). -/
def extended (size : Nat) (signed : Bool) (v : Word) : Word :=
  let m := v.toNat % 2 ^ (8 * size)
  if signed = true ∧ 2 ^ (8 * size - 1) ≤ m then BitVec.ofInt 64 ((m : Int) - 2 ^ (8 * size)) else BitVec.ofNat 64 m

theorem Core.loadResult_ended {c : Core} {o : Op} (h : (c.lvl (lvOf o.lev)).isAct o.act = false) (r size : Nat) (signed : Bool)
    (v : Word) : c.loadResult o r size signed v = c := by
  unfold Core.loadResult
  dsimp only
  rw [if_neg (by simp [h])]

theorem Core.loadResult_live {c : Core} {o : Op} (h : (c.lvl (lvOf o.lev)).isAct o.act = true) (r size : Nat) (signed : Bool)
    (v : Word) : c.loadResult o r size signed v =
      (c.setLvl (lvOf o.lev) ((c.lvl (lvOf o.lev)).unlock o.id)).land (lvOf o.lev) (.x r) (.word (extended size signed v)) := by
  unfold Core.loadResult
  dsimp only
  rw [if_pos h]
  rfl

/-- A word that lands in a general register is there, and is all that changes. -/
theorem Core.land_x (c : Core) (l : Level) {r : Nat} (hr : r < 32) (v : Word) :
    let d := c.land l (.x r) (.word v)
    (d.lvl l).rx (BitVec.ofNat 5 r) = (if r = 0 then 0 else v) ∧ (∀ q : XReg, q.toNat ≠ r → (d.lvl l).rx q = (c.lvl l).rx q) ∧
      { d.lvl l with x := (c.lvl l).x } = c.lvl l ∧ (∀ m, m ≠ l → d.lvl m = c.lvl m) ∧ { d with lv := c.lv } = c := by
  intro d
  have hmod : r % 32 = r := Nat.mod_eq_of_lt hr
  have hnat : (BitVec.ofNat 5 r).toNat = r := by rw [BitVec.toNat_ofNat]; exact hmod
  by_cases h0 : r = 0
  · subst h0
    exact ⟨rfl, fun _ _ => rfl, rfl, fun _ _ => rfl, rfl⟩
  · have hd : d = c.setLvl l { c.lvl l with x := (c.lvl l).x.set (r % 32) v (Nat.mod_lt r (by decide)) } := by
      simp only [d, Core.land, hmod, if_neg h0]
    have hne : BitVec.ofNat 5 r ≠ 0 := fun e => h0 (by rw [← hnat, e]; rfl)
    rw [hd, Core.lvl_setLvl]
    refine ⟨?_, fun q hq => ?_, rfl, fun m hm => Core.lvl_setLvl_ne c _ hm, rfl⟩
    · rw [if_neg h0, Lvl.rx, if_neg hne]
      show ((c.lvl l).x.set (r % 32) v (Nat.mod_lt r (by decide)))[(BitVec.ofNat 5 r).toNat] = v
      simp only [hnat, hmod, Vector.getElem_set_self]
    · unfold Lvl.rx
      split
      · rfl
      · show ((c.lvl l).x.set (r % 32) v (Nat.mod_lt r (by decide)))[q.toNat] = (c.lvl l).x[q.toNat]
        rw [Vector.getElem_set_ne]
        rw [hmod]; exact fun e => hq e.symm

theorem State.updCore_ended {u : State} {k : Nat} {o : Op} (h : (u.lvl k (lvOf o.lev)).isAct o.act = false) (r size : Nat) (signed : Bool)
    (v : Word) : (u.updCore k fun c => c.loadResult o r size signed v).core k = u.core k := by
  rw [State.core_updCore, Core.loadResult_ended h]

/-- A result of an activation that runs goes to its register and lifts the interlock, and nothing else of the core changes. -/
theorem State.updCore_result {u : State} {k : Nat} {o : Op} (h : (u.lvl k (lvOf o.lev)).isAct o.act = true) {r : Nat} (hr : r < 32)
    (size : Nat) (signed : Bool) (v : Word) :
    let l := lvOf o.lev
    let t := u.updCore k fun c => c.loadResult o r size signed v
    (t.lvl k l).rx (BitVec.ofNat 5 r) = (if r = 0 then 0 else extended size signed v) ∧
      (∀ q : XReg, q.toNat ≠ r → (t.lvl k l).rx q = (u.lvl k l).rx q) ∧ (t.lvl k l).p = (u.lvl k l).p ∧
      (t.lvl k l).pc = (u.lvl k l).pc ∧ (t.lvl k l).ilock = ((u.lvl k l).ilock.filter fun i => i.2 != o.id) ∧
      (∀ m, m ≠ l → t.lvl k m = u.lvl k m) ∧ (t.core k).ops = (u.core k).ops := by
  intro l t
  have hc : t.core k = ((u.core k).setLvl l ((u.lvl k l).unlock o.id)).land l (.x r) (.word (extended size signed v)) := by
    simp only [t, State.core_updCore]
    exact Core.loadResult_live h r size signed v
  obtain ⟨hrx, hrest, hl, hne, hcore⟩ := ((u.core k).setLvl l ((u.lvl k l).unlock o.id)).land_x l hr (extended size signed v)
  rw [← hc] at hrx hrest hl hne hcore
  rw [Core.lvl_setLvl] at hrest hl
  exact ⟨hrx, hrest, (congrArg Lvl.p hl :), (congrArg Lvl.pc hl :), (congrArg Lvl.ilock hl :),
    fun m hm => (hne m hm).trans (Core.lvl_setLvl_ne _ _ hm), (congrArg Core.ops hcore :)⟩

/-! ### The letting go after an answer -/

section
variable {k : Nat} {o : Op} {s u : State}

/-- After its answer, and the letting go of what waited for it, an operation is gone, or kept for a store; and memory is as it was where no
multicast store had its line to read. -/
theorem Settled.pump_ops (h : Settled k o s u) :
    ((∀ n, o.st ≠ .taking n) → ∀ y ∈ ((u.pump k).core k).ops, y.id ≠ o.id) ∧
      (∀ n, o.st = .taking n → ∀ y ∈ ((u.pump k).core k).ops, y.id = o.id → y.st = .kept n) ∧
      ((s.core k).Calm → (u.pump k).mem = s.mem) ∧ Pumped k o.id u (u.pump k) := by
  have notHeld : ∀ y ∈ (u.core k).ops, y.id = o.id → y.st ≠ .held := fun y hy hi => by
    by_cases hst : ∃ n, o.st = .taking n
    · obtain ⟨n, hn⟩ := hst
      rw [h.kept n hn y hy hi]; exact fun e => nomatch e
    · exact absurd hi (h.gone (fun n e => hst ⟨n, e⟩) y hy)
  have hp := u.pump_pumped notHeld
  refine ⟨fun hst y hy hi => ?_, fun n hst y hy hi => ?_, fun hc => (u.pump_letsGo k (h.calm hc)).mem.trans h.mem, hp⟩
  · obtain ⟨z, hz, hzi, -⟩ := hp.op y hy hi
    exact h.gone hst z hz hzi
  · obtain ⟨z, hz, hzi, e⟩ := hp.op y hy hi
    rw [e, h.kept n hst z hz hzi]

end

theorem Lvl.WaitEnds.rx {x y : Lvl} (h : x.WaitEnds y) (q : XReg) : y.rx q = x.rx q := by
  have e : y.x = x.x := (congrArg Lvl.x h.1 :)
  unfold Lvl.rx
  rw [e]
theorem Lvl.WaitEnds.x_eq {x y : Lvl} (h : x.WaitEnds y) : y.x = x.x := (congrArg Lvl.x h.1 :)
theorem Lvl.WaitEnds.p_eq {x y : Lvl} (h : x.WaitEnds y) : y.p = x.p := (congrArg Lvl.p h.1 :)
theorem Lvl.WaitEnds.pc_eq {x y : Lvl} (h : x.WaitEnds y) : y.pc = x.pc := (congrArg Lvl.pc h.1 :)
theorem Lvl.WaitEnds.ilock_eq {x y : Lvl} (h : x.WaitEnds y) : y.ilock = x.ilock := (congrArg Lvl.ilock h.1 :)

/-- An answer at a core: what the operation that waits for it does, and the letting go. -/
theorem execResponse_resp {s : State} {p : Packet} {op st : Nat} {v : Word} {line : Option (Nat × List Byte × List Nat)} {o : Op}
    (hp : s.arrivedPkt = some p) (hpl : p.payload = .resp op st v line) (hu : p.dst.unit < 9)
    (ho : ((s.core p.dst.core).ops.find? fun x => x.id == op) = some o) :
    exec .response s = .next (((s.dropPkt p.id).respond p.dst.core o st v line false).pump p.dst.core) := by
  have ho' : (((s.dropPkt p.id).core p.dst.core).ops.find? fun x => x.id == op) = some o := ho
  show execResponse s = _
  unfold execResponse
  rw [hp]
  dsimp only
  rw [if_neg (by omega)]
  unfold State.takeAnswer
  rw [hpl]
  dsimp only
  rw [ho']

theorem State.respond_mem {s : State} {k : Nat} {o : Op} {a : Acc} (hw : o.work = .mem a) (st : Nat) (v : Word)
    (line : Option (Nat × List Byte × List Nat)) :
    s.respond k o st v line false = if st = 1 then s.refused k o else s.answered k o st v line := by
  unfold State.respond
  rw [hw]

/-- The back-off of a refused operation lasts 64 to 1,024 cycles (R72). -/
theorem State.backoffEnd_bounds (s : State) (n : Nat) : s.now + 64 ≤ s.backoffEnd n ∧ s.backoffEnd n ≤ s.now + 1024 := by
  have h : 1 ≤ 2 ^ min n 4 := Nat.one_le_two_pow
  unfold State.backoffEnd
  omega

/-- A refused operation waits for the end of its back-off, whatever its core lets go meanwhile. -/
theorem State.backsOff_pump (s : State) (k : Nat) (o : Op) :
    let u := s.updOp k o.id fun o => { o with st := .backoff (s.backoffEnd o.nacks), nacks := o.nacks + 1 }
    (∀ y ∈ ((u.pump k).core k).ops, y.id = o.id → ∃ n, y.st = .backoff n ∧ s.now + 64 ≤ n ∧ n ≤ s.now + 1024) ∧
      (∀ m, (s.lvl k m).WaitEnds ((u.pump k).lvl k m)) ∧ ((s.core k).Calm → (u.pump k).mem = s.mem) := by
  intro u
  have hops : ∀ y ∈ (u.core k).ops, y.id = o.id → ∃ n, y.st = .backoff n ∧ s.now + 64 ≤ n ∧ n ≤ s.now + 1024 := fun y hy hi => by
    simp only [u, State.updOp, State.core_updCore, List.mem_map] at hy
    obtain ⟨q, _, rfl⟩ := hy
    by_cases e : q.id = o.id
    · rw [if_pos e]; exact ⟨_, rfl, s.backoffEnd_bounds q.nacks⟩
    · rw [if_neg e] at hi; exact absurd hi e
  have hgo : LetsGo k s u := (LetsGo.refl k s).updOp o.id _ fun _ e => by cases e
  have hp := u.pump_pumped (k := k) (i := o.id) fun y hy hi => by
    obtain ⟨n, hn, -⟩ := hops y hy hi
    rw [hn]; exact fun e => nomatch e
  have hlvl : ∀ m, u.lvl k m = s.lvl k m := fun m => s.lvl_updCore_lv k _ (j := k) (l := m)
  refine ⟨fun y hy hi => ?_, fun m => hlvl m ▸ hp.lvl k m, fun hc => (u.pump_letsGo k (hgo.2.2.2 hc)).mem.trans hgo.mem⟩
  obtain ⟨z, hz, hzi, e⟩ := hp.op y hy hi
  rw [e]
  exact hops z hz hzi

theorem State.opOver_rest (s : State) (k : Nat) (o : Op) :
    (∀ m, (s.opOver k o).lvl k m = s.lvl k m) ∧ (s.opOver k o).mem = s.mem ∧ ((s.opOver k o).core k).run = (s.core k).run :=
  ⟨s.opOver_lvl k o k, (Settled.opOver s k o).mem, s.opOver_run k o⟩

/-- The causes of the statuses that end an access (R105). -/
theorem statusCause_eq (st : Nat) : statusCause st =
    ((match st with
      | 2 => 0x07 | 4 => 0x0E | 5 => 0x11 | _ => 0x04), if st = 2 then denyVal 4 0 0 else 0) := by
  by_cases h2 : st = 2
  · subst h2; rfl
  by_cases h4 : st = 4
  · subst h4; rfl
  by_cases h5 : st = 5
  · subst h5; rfl
  simp only [statusCause, h2, if_false, Cause.access]

/-- None of them has a handler (R434). -/
theorem trappable_statusCause (st : Nat) : trappable (statusCause st).1 = false := by
  unfold statusCause
  split <;> rfl

/-- Settles O35: the state in which the answer has been dealt with, by status and destination, and what the letting go after it leaves. -/
theorem responseSettles : Obligations.ResponseSettles := by
  unfold Obligations.ResponseSettles
  intro s p op st v line o a hp hpl hu ho hw
  extract_lets k l x quiet gone cause val
  have hid : o.id = op := by simpa using List.find?_some ho
  subst hid
  have hexec := execResponse_resp hp hpl hu ho
  rw [State.respond_mem hw] at hexec
  generalize hs0 : s.dropPkt p.id = s0 at hexec
  have hlvl : ∀ j m, s0.lvl j m = s.lvl j m := fun _ _ => by rw [← hs0]; rfl
  have hmem : s0.mem = s.mem := by rw [← hs0]; rfl
  have hnow : s0.now = s.now := by rw [← hs0]; rfl
  have hrun : (s0.core k).run = (s.core k).run := by rw [← hs0]; rfl
  have hcalm : quiet → (s0.core k).Calm := fun h => by rw [← hs0]; exact h
  -- what an operation that has ended leaves, once the core has let go
  have ended : ∀ u, Settled k o s0 u → gone (u.pump k) ∧ ∀ j m, (u.lvl j m).WaitEnds ((u.pump k).lvl j m) := fun u h => by
    obtain ⟨hg, hk, hm, hpump⟩ := h.pump_ops
    refine ⟨⟨hg, hk, fun hn q hq e => ?_, fun hc => (hm (hcalm hc)).trans hmem⟩, hpump.lvl⟩
    rcases hpump.fresh q hq with hq | hq
    · rw [h.pkts, ← hs0] at hq
      simpa [e] using (List.mem_filter.mp hq).2
    · rw [h.next, ← hs0] at hq
      have : s.nextId ≤ q.id := hq
      omega
  have stays : x.isAct o.act = false ∨ x.withdraws o.id = false →
      ¬ ((s0.lvl k l).isAct o.act = true ∧ (s0.lvl k l).withdraws o.id = true) := fun h => by
    rw [hlvl]
    show ¬ (x.isAct o.act = true ∧ x.withdraws o.id = true)
    rcases h with h | h <;> simp [h]
  obtain ⟨hset, hsame⟩ := s0.accepted_settled k o line
  have same : ∀ j m, (s0.accepted k o line).lvl j m = s.lvl j m := fun j m => (hsame j m).trans (hlvl j m)
  refine ⟨fun r size signed hst hd hact hwd hr _ _ => ?_, fun r size signed hst hd hact => ?_, fun hst hd h => ?_, fun hst h => ?_,
    fun h0 h1 hd hq h => ?_⟩
  · -- the value goes to its register
    extract_lets m w
    subst hst
    rw [if_neg (by decide), State.answered_reg hw (stays (.inr hwd)) hd] at hexec
    obtain ⟨hrx, hrest, hpr, hpc, hil, hne, hops⟩ :=
      State.updCore_result (u := s0.accepted k o line) (by rw [same]; exact hact) hr size signed v
    have hset' := hset.of_same (t := (s0.accepted k o line).updCore k fun c => c.loadResult o r size signed v) hops rfl rfl rfl
    obtain ⟨hg, hl⟩ := ended _ hset'
    rw [same] at hpr hpc hil
    refine ⟨_, hexec, hg, ((hl k l).rx _).trans hrx, fun q hq => ?_, (hl k l).p_eq.trans hpr, (hl k l).pc_eq.trans hpc, fun e he => ?_,
      fun m' hm' => ?_⟩
    · rw [(hl k l).rx, hrest q hq, same]
    · rw [(hl k l).ilock_eq, hil] at he
      simpa using (List.mem_filter.mp he).2
    · rw [(hl k m').x_eq, hne m' hm', same]
  · subst hst
    rw [if_neg (by decide), State.answered_reg hw (stays (.inl hact)) hd] at hexec
    have hc := State.updCore_ended (u := s0.accepted k o line) (by rw [same]; exact hact) r size signed v
    have hset' := hset.of_same (t := (s0.accepted k o line).updCore k fun c => c.loadResult o r size signed v) (by rw [hc]) rfl rfl rfl
    obtain ⟨hg, hl⟩ := ended _ hset'
    refine ⟨_, hexec, hg, fun m' => (hl k m').x_eq.trans ?_⟩
    rw [State.lvl, hc, ← same]
    rfl
  · subst hst
    rw [if_neg (by decide), State.answered_drop hw (stays h) hd] at hexec
    obtain ⟨hg, hl⟩ := ended _ hset
    refine ⟨_, hexec, hg, fun m' => ?_⟩
    rw [(hl k m').x_eq, (hl k m').pc_eq, same]
    exact ⟨rfl, rfl⟩
  · -- BUSY
    subst hst
    rw [if_pos rfl, State.refused_keeps (stays h)] at hexec
    obtain ⟨hops, hl, hm⟩ := s0.backsOff_pump k o
    refine ⟨_, hexec, fun hc => (hm (hcalm hc)).trans hmem, fun m' => (hl m').x_eq.trans (by rw [hlvl]), fun y hy hi => ?_⟩
    rw [hnow] at hops
    exact hops y hy hi
  · rw [if_neg h1, State.answered_fault hw (stays h) h0 hd] at hexec
    have hcause : statusCause st = (cause, val) := statusCause_eq st
    rw [hcause] at hexec
    obtain ⟨h1l, h1m, h1r⟩ := s0.opOver_rest k o
    have ht : trappable cause = false := by
      have := trappable_statusCause st
      rwa [hcause] at this
    refine ⟨fun ha hr => ?_, fun he => ?_⟩
    · rw [State.lateRaise_live hq cause val o.va ht (by rw [h1l, hlvl]; exact ha) (by rw [h1r, hrun]; exact hr)] at hexec
      have hx : (((s0.opOver k o).hushed k o).core k).lvl l = x := by
        show ((s0.opOver k o).hushed k o).lvl k l = x
        rw [State.hushed_lvl, h1l, hlvl]
      have hu := ((s0.opOver k o).hushed k o).caughtAt_lvl k l cause o.pc val o.va true
      refine ⟨_, hexec, ?_⟩
      rw [hu]
      refine ⟨rfl, rfl, rfl, rfl, ?_, fun hp => ?_, fun m' hm' => ?_, h1m.trans hmem⟩
      · exact (Core.commitAll_act _ l).trans (congrArg Lvl.act hx)
      · exact (Core.commitAll_regs _ l (by rw [hx]; exact hp)).1.trans (congrArg Lvl.x hx)
      · rw [State.caughtAt_lvl_ne _ k hm', State.hushed_lvl, h1l, hlvl]
    · rw [State.lateRaise_ended hq cause val o.va (by rw [h1l, h1r, hlvl, hrun]; exact he)] at hexec
      exact ⟨_, hexec, fun m' => by rw [State.hushed_lvl, h1l, hlvl], h1m.trans hmem⟩

end Sys2Proof.Machine
end

section
/-! The watchdog's and the cairn's obligations fail: each at a state that the model evaluates. -/

namespace Sys2Proof.Machine

/-- An activation past its limit that waits at the barrier of a group of one, in a state that no run reaches: its pair has arrived and is
queued for the next barrier too. To withdraw the arrival starts that barrier, which its one member completes. -/
def queuedTwice : State :=
  let s := late []
  { (s.updLvl 0 0 fun l => { l.wx 5 7 with wait := .gbar 1 5 }) with
    vds := s.vds.map fun e => (e.1, { e.2 with groups := [(1, { members := [(0, 0)], arrived := [(0, 0)], waiting := [(0, 0)] })] }) }

/-- The barrier's status replaces the 7 in the destination register of GBAR, although no result was outstanding. -/
theorem queuedTwice_loses_register :
    (match exec .watchdog queuedTwice with
     | .next t => (t.lvl 0 0).x == (queuedTwice.lvl 0 0).x
     | _ => true) = false := by decide

/-- Refutes O36: the registers of an activation that its watchdog ends need not stay. Where its pair is queued behind its own arrival at a
barrier, withdrawing the arrival completes the next barrier, and the status of that overwrites GBAR's destination register. -/
theorem not_watchdogExpires : ¬ Obligations.WatchdogExpires := by
  unfold Obligations.WatchdogExpires
  intro h
  obtain ⟨expires, -⟩ := h
  obtain ⟨-, -, -, ends, -⟩ := expires queuedTwice (anAct 0 1 false) ((queuedTwice.vdev? 1).getD (fetchVd State.reset)) (by decide)
    (by decide) (by decide) (fun o n e => nomatch (show Wait.gbar 1 5 = .gone o n from e))
  obtain ⟨t, ht, ⟨-, -, -, -, kept⟩, -⟩ := ends (by decide) (.inr (by decide)) (by decide)
  have same : (t.lvl 0 0).x = (queuedTwice.lvl 0 0).x := kept (by decide)
  have lost : ((t.lvl 0 0).x == (queuedTwice.lvl 0 0).x) = false := by
    have h := queuedTwice_loses_register
    rwa [ht] at h
  rw [same, beq_self_eq_true] at lost
  exact absurd lost (by decide)

/-- A core that VIOLATION has frozen: the activation of its level 0 stands (R443), and waits for the answer to its EVPOSTS. The answer has
arrived and is BUSY. -/
def frozenPoster : State :=
  ((arriving (outstanding (classed 0) (anOp 7 (.post aPost (some 5)) .drop .sent)) (.postAck 7 1 1)).setLvl 0 0
    { act := some (anAct 0 0 false), wait := .evposts 7 5 }).updCore 0 fun c => { c with run := .frozen }

/-- The answer, arrived at core 0. -/
def busyAck : Packet := ⟨5, coreUnit 1, coreUnit 0, 1, .control, 0, .postAck 7 1 1, .arrived, 0, 0, 0⟩

theorem frozenPoster_takes_no_trap :
    (match exec .postAck frozenPoster with
     | .next t => (t.lvl 0 0).trapcause == 0
     | _ => true) = true := by decide

/-- Refutes O50: BUSY raises EV_NACK_STRICT at a level that runs only. On a frozen core the activation stands, but the cause goes to its
launch's record, and the level's trap registers stay. -/
theorem not_cairnEvents : ¬ Obligations.CairnEvents := by
  unfold Obligations.CairnEvents
  intro h
  obtain ⟨-, -, -, -, -, acks, -⟩ := h frozenPoster (fetchVd State.reset) busyAck
  obtain ⟨-, -, -, raises⟩ := acks 7 1 1 (anOp 7 (.post aPost (some 5)) .drop .sent) aPost (some 5) (by decide) rfl (by decide) rfl
  obtain ⟨t, ht, hc, -⟩ := raises rfl (by decide) (by decide) rfl
  have hc : (t.lvl 0 0).trapcause = BitVec.ofNat 64 (0x400 + 0x12) := hc
  have none : ((t.lvl 0 0).trapcause == 0) = true := by
    have h := frozenPoster_takes_no_trap
    rwa [ht] at h
  rw [hc] at none
  exact absurd none (by decide)

end Sys2Proof.Machine
end

section
/-! Operations that a level issues (R114, R123): the core they leave, and every byte as it was when a calm core lets them go. -/

namespace Sys2Proof.Machine

/-! ### Windows while operations go -/

namespace SameWindows
variable {k : Nat} {s t u : State}

theorem upd (h : SameWindows s t) (f : Core → Core) (hf : ∀ c : Core, (f c).mx.window = c.mx.window := by intro c; rfl) :
    SameWindows s (t.updCore k f) := h.trans (updCore t k f hf)
theorem send (h : SameWindows s t) (src dst : UnitId) (vd : Nat) (pl : Plane) (last : Nat) (p : Payload) :
    SameWindows s (t.sendPkt src dst vd pl last p) := h.trans (of_cores rfl)
theorem ite {c : Prop} [Decidable c] (h : SameWindows s t) (g : SameWindows s u) : SameWindows s (if c then t else u) := by
  split <;> assumption

end SameWindows

theorem State.sendOp_windows (s : State) (k : Nat) (o : Op) (ho : o.readsLine = false) : SameWindows s (s.sendOp k o) := by
  have h : SameWindows s (s.updOp k o.id fun o => { o with st := .sent }) := (SameWindows.refl s).upd _
  unfold State.sendOp
  generalize (s.updOp k o.id fun o => { o with st := .sent }) = t at h
  unfold Op.readsLine at ho
  dsimp only
  cases hw : o.work <;> dsimp only
  case mem a => exact (SameWindows.upd (.ite (h.upd _) h) _).send _ _ _ _ _ _
  case flag => exact (h.upd _).send _ _ _ _ _ _
  case cinv => exact (h.upd _).upd _
  case tret => exact (h.upd _).upd _
  case mcst m pa line =>
    cases line with
    | none => simp [hw] at ho
    | some d => exact h.send _ _ _ _ _ _
  all_goals exact h.send _ _ _ _ _ _

theorem State.goLoad_windows (s : State) (k : Nat) (o : Op) (a : Acc) (ho : o.readsLine = false) : SameWindows s (s.goLoad k o a) := by
  have h := SameWindows.refl s
  unfold State.goLoad
  dsimp only
  generalize (List.filter _ (s.core k).ops).getLast? = m
  cases m with
  | some p => exact .ite ((h.upd _).send _ _ _ _ _ _) h
  | none =>
    dsimp only
    split
    · exact (h.upd _).send _ _ _ _ _ _
    · split
      · split <;> exact ((h.upd _).upd _).send _ _ _ _ _ _
      · exact s.sendOp_windows k o ho

theorem State.tryOp_windows (s : State) (k id : Nat) (hc : (s.core k).Calm) : SameWindows s (s.tryOp k id) := by
  have h := SameWindows.refl s
  unfold State.tryOp
  dsimp only
  split
  · exact h
  · rename_i o hf
    by_cases hh : o.st = .held
    · have ho := hc o (List.mem_of_find?_eq_some hf) hh
      have g := s.sendOp_windows k o ho
      rw [if_neg (by simp [hh])]
      split
      · split
        · exact .ite (s.goLoad_windows k o _ ho) h
        · exact .ite (.ite g (.ite (h.upd _) h)) h
        · exact .ite g h
      · exact h
      · exact .ite g h
    · rw [if_pos (by simpa using hh)]; exact h

theorem Core.settle_mx (c : Core) : c.settle.mx = c.mx := by
  have h : ∀ (c : Core) l, (c.settleLvl l).mx = c.mx := fun c l => by
    unfold Core.settleLvl
    dsimp only
    split <;> (repeat' split) <;> rfl
  simp only [Core.settle, h]

/-- The letting go of a calm core leaves the bytes of every matrix queue window, and with them every byte. -/
theorem State.pump_sameBytes (s : State) (k : Nat) (hc : (s.core k).Calm) : SameBytes s (s.pump k) := by
  have hgo := s.pump_letsGo k hc
  have hw : SameWindows s (s.pump k) := by
    unfold State.pump
    extract_lets ids t
    refine SameWindows.upd ?_ _ fun c => by rw [Core.settle_mx]
    have h : ∀ (as : List Nat) (u : State), (u.core k).Calm → SameWindows s u →
        SameWindows s (as.foldl (fun s id => s.tryOp k id) u) := by
      intro as
      induction as with
      | nil => exact fun _ _ h => h
      | cons a as ih =>
        exact fun u hu h => ih _ ((u.tryOp_letsGo k a hu).2.2.2 hu) (h.trans (u.tryOp_windows k a hu))
    exact h ids s hc (.refl s)
  exact fun a => State.peek_congr hgo.mem (congrArg State.clear hgo.1 :) hw a 1

/-! ### Operations issued (R114, R123) -/

/-- Level `l` of a core has issued the operations `new` on the rope of a slot: they are the core's last, and beside them only that rope
and what the ordering rules keep of the level has changed. -/
structure Core.Issued (l : Level) (slot : Nat) (c d : Core) (new : List Op) : Prop where
  ops : d.ops = c.ops ++ new
  same : (d.lvl l).Same (c.lvl l)
  lvl : ∀ m, m ≠ l → d.lvl m = c.lvl m
  vreg : d.vreg = c.vreg
  owner : d.owner = c.owner
  mx : d.mx = c.mx
  uid : (d.ropeAt slot).uid = (c.ropeAt slot).uid
  issued : (d.ropeAt slot).issued = (c.ropeAt slot).issued + new.length

theorem Lvl.Same.refl (x : Lvl) : x.Same x := rfl
theorem Lvl.Same.trans {x y z : Lvl} (h : y.Same x) (g : z.Same y) : z.Same x := by
  have e : ({ z with readPts := y.readPts, strongs := y.strongs } : Lvl) = y := g
  have f : ({ y with readPts := x.readPts, strongs := x.strongs } : Lvl) = x := h
  rw [← e] at f
  exact f

theorem Core.Issued.refl (l : Level) (slot : Nat) (c : Core) : c.Issued l slot c [] :=
  ⟨(List.append_nil _).symm, .refl _, fun _ _ => rfl, rfl, rfl, rfl, rfl, rfl⟩
theorem Core.Issued.trans {l : Level} {slot : Nat} {c d e : Core} {new more : List Op} (h : c.Issued l slot d new)
    (g : d.Issued l slot e more) : c.Issued l slot e (new ++ more) :=
  ⟨by rw [g.ops, h.ops, List.append_assoc], h.same.trans g.same, fun m hm => (g.lvl m hm).trans (h.lvl m hm), g.vreg.trans h.vreg,
    g.owner.trans h.owner, g.mx.trans h.mx, g.uid.trans h.uid, by rw [g.issued, h.issued, List.length_append]; omega⟩

@[simp] theorem Core.ropeAt_setRope (c : Core) (slot : Nat) (r : Rope) : (c.setRope slot r).ropeAt slot = r := AMap.get_put_self ..

theorem Core.strongAfter_issued (c : Core) (l : Level) (slot : Nat) (o : Op) : c.Issued l slot (c.strongAfter l slot o) [] := by
  unfold Core.strongAfter
  extract_lets x r same
  have hr : r.uid = (c.ropeAt slot).uid ∧ r.issued = (c.ropeAt slot).issued := ⟨rfl, rfl⟩
  refine ⟨(List.append_nil _).symm, .refl _, fun _ _ => rfl, rfl, rfl, rfl, ?_, ?_⟩ <;> rw [Core.ropeAt_setRope] <;> split
  · exact hr.1
  · exact hr.1
  · exact hr.2
  · exact hr.2

theorem Core.tlbHit_issued (c : Core) (l : Level) (slot : Nat) (e : Option TlbEntry) : c.Issued l slot (c.tlbHit e) [] := by
  unfold Core.tlbHit
  split
  · split
    · exact ⟨(List.append_nil _).symm, .refl _, fun _ _ => rfl, rfl, rfl, rfl, rfl, rfl⟩
    · exact .refl ..
  · exact .refl ..

theorem Core.addTo_issued (c : Core) (l : Level) (slot : Nat) (o : Op) : c.Issued l slot (c.addTo l slot o) [o] := by
  unfold Core.addTo
  extract_lets r r1 c0 d x x1 old
  have hd : d.ropeAt slot = r1 := Core.ropeAt_setRope c slot r1
  have hx : x1.Same (c.lvl l) := by
    simp only [x1]; split <;> rfl
  refine ⟨rfl, ?_, fun m hm => Core.lvl_setLvl_ne _ _ hm, rfl, rfl, rfl, ?_, ?_⟩
  · rw [Core.lvl_setLvl]
    split
    · exact hx.trans (y := x1) rfl
    · exact hx
  · exact (congrArg Rope.uid hd :)
  · exact (congrArg Rope.issued hd :)

theorem Core.issueOp_issued (c : Core) (l : Level) (slot : Nat) (o : Op) : c.Issued l slot (c.issueOp l slot o) [o] :=
  ((c.strongAfter_issued l slot o).trans (Core.tlbHit_issued _ l slot o.xl)).trans (Core.addTo_issued _ l slot o)

theorem Core.issueOps_issued (c : Core) (l : Level) (slot : Nat) (os : List Op) :
    c.Issued l slot (os.foldl (fun c o => c.issueOp l slot o) c) os := by
  induction os generalizing c with
  | nil => exact .refl ..
  | cons o os ih => exact (c.issueOp_issued l slot o).trans (ih _)

end Sys2Proof.Machine
end

section
/-! Stores of lanes (R147, R289, R291, R376): the operations issued for their elements, at once or once the scales are read. -/

namespace Sys2Proof.Machine

/-- The issuing level has issued the operations `new` on the rope of a slot: of the state only its core and the next number changed. -/
structure State.Issued (slot : Nat) (s u : State) (new : List Op) : Prop where
  core : s.curCore.Issued s.cur.lev slot (u.core s.curKey) new
  rest : { u with cores := s.cores, nextId := s.nextId } = s
  others : ∀ j, j ≠ s.curKey → u.core j = s.core j

namespace State.Issued
variable {slot : Nat} {s t u : State} {new more : List Op}

theorem cur_eq (h : s.Issued slot u new) : u.cur = s.cur := (congrArg State.cur h.rest :)
theorem curKey_eq (h : s.Issued slot u new) : u.curKey = s.curKey := by rw [State.curKey, h.cur_eq]; rfl
theorem curCore_eq (h : s.Issued slot u new) : u.curCore = u.core s.curKey := by rw [State.curCore, h.curKey_eq]
theorem same (h : s.Issued slot u new) : u.curLvl.Same s.curLvl := by
  rw [State.curLvl, h.curCore_eq, h.cur_eq]
  exact h.core.same

theorem refl (slot : Nat) (s : State) : s.Issued slot s [] := ⟨.refl .., rfl, fun _ _ => rfl⟩
theorem trans (h : s.Issued slot t new) (g : t.Issued slot u more) : s.Issued slot u (new ++ more) := by
  refine ⟨?_, ?_, fun j hj => (g.others j (by rw [h.curKey_eq]; exact hj)).trans (h.others j hj)⟩
  · have hc := g.core
    rw [h.curCore_eq, h.cur_eq, h.curKey_eq] at hc
    exact h.core.trans hc
  · have e := h.rest
    rw [← g.rest] at e
    exact e

theorem nextId (s : State) (slot n : Nat) : s.Issued slot { s with nextId := n } [] := ⟨.refl .., rfl, fun _ _ => rfl⟩

theorem issueOps (s : State) (slot : Nat) (os : List Op) : s.Issued slot (s.issueOps slot os) os := by
  refine ⟨?_, rfl, fun j hj => State.core_updCore_ne s (fun c => os.foldl (fun c o => c.issueOp s.cur.lev slot o) c) hj⟩
  have hc : (s.issueOps slot os).core s.curKey = os.foldl (fun c o => c.issueOp s.cur.lev slot o) (s.core s.curKey) :=
    State.core_updCore s s.curKey fun c => os.foldl (fun c o => c.issueOp s.cur.lev slot o) c
  rw [hc]
  exact Core.issueOps_issued ..

/-- What an operation of the level is does not depend on those issued with it, but for its place on the rope. -/
theorem nthOp (h : s.Issued slot u new) {j : Nat} {o : Op} (g : NthOp u slot j o) : NthOp s slot (new.length + j) o := by
  obtain ⟨hlev, hrope, hidx, hpo, hla, hpc⟩ := g
  have e := h.same
  rw [h.curCore_eq] at hrope hidx
  refine ⟨by rw [hlev, h.cur_eq], hrope.trans h.core.uid, ?_, hpo.trans (congrArg Lvl.po e :), hla.trans (congrArg Lvl.launch e :),
    hpc.trans (congrArg Lvl.ipc e :)⟩
  rw [hidx, h.core.issued]
  exact Nat.add_assoc ..

theorem accFor (h : s.Issued slot u new) (name : Nat) (kind : Kind) (q : Placed) :
    u.accFor slot name kind q = s.accFor slot name kind q := by
  have hv : u.curVd = s.curVd := by rw [State.curVd, h.curCore_eq, h.core.owner]; rfl
  have hf : u.curLvl.fcr = s.curLvl.fcr := (congrArg Lvl.fcr h.same :)
  unfold State.accFor
  rw [hv, h.curKey_eq, hf, h.curCore_eq, h.core.uid]

theorem makes (h : s.Issued slot u new) {name : Nat} {kind : Kind} {q : Placed} {o : Op} (g : Makes u slot name kind q o) :
    Makes s slot name kind q o := ⟨g.1, g.2.trans (by rw [h.accFor])⟩

end State.Issued

/-! ### Parts of a gathering -/

/-- One operation asked for is issued, next on its rope. -/
theorem State.addOp_issued (s : State) (a : Ask) (it : Item) :
    ∃ o, s.Issued a.slot (s.addOp a it) [o] ∧ NthOp s a.slot 0 o ∧ o.va = it.va ∧ o.work = it.work ∧ o.dest = it.dest ∧ o.st = it.st ∧
      o.kind = a.kind ∧ o.scope = a.scope := by
  let r := s.curCore.ropeAt a.slot
  let o : Op := { id := s.nextId, lev := s.cur.lev.val, act := s.curLvl.acts, launch := s.curLvl.launch, po := s.curLvl.po, rope := r.uid,
                  name := a.name, idx := r.issued, kind := a.kind, scope := a.scope, pc := s.curLvl.ipc, va := it.va, work := it.work,
                  dest := it.dest, st := it.st, fence := s.curLvl.fence, xl := it.xl, ev := s.curLvl.isEvent }
  exact ⟨o, .issueOps s a.slot [o], ⟨rfl, rfl, rfl, rfl, rfl, rfl⟩, rfl, rfl, rfl, rfl, rfl, rfl⟩

/-- The loads that a gathering asks for, one after the other. -/
theorem State.addParts (s : State) (a : Ask) (coll : Nat) (ps : List Placed) :
    ∃ new, s.Issued a.slot (ps.foldl (fun s p => s.addOp a ⟨p.el.va, .mem (s.accOf a p), .part coll p.el.part, p.xl, .held⟩) s) new ∧
      Parts s a.slot a.name coll a.kind a.kind a.scope ps new := by
  induction ps generalizing s with
  | nil => exact ⟨[], .refl .., rfl, fun j o q h => by simp at h⟩
  | cons p ps ih =>
    obtain ⟨o, ho, hn, hva, hw, hd, hst, hk, hsc⟩ := s.addOp_issued a ⟨p.el.va, .mem (s.accOf a p), .part coll p.el.part, p.xl, .held⟩
    obtain ⟨new, hnew, hlen, hparts⟩ := ih (s.addOp a ⟨p.el.va, .mem (s.accOf a p), .part coll p.el.part, p.xl, .held⟩)
    refine ⟨o :: new, ho.trans hnew, by simp [hlen], fun j x q hx hq => ?_⟩
    cases j with
    | zero =>
      simp only [List.getElem?_cons_zero, Option.some.injEq] at hx hq
      subst hx hq
      exact ⟨hn, ⟨hva, hw⟩, hst, hk, hsc, hd⟩
    | succ j =>
      simp only [List.getElem?_cons_succ] at hx hq
      obtain ⟨g1, g2, g3⟩ := hparts j x q hx hq
      have g1' := ho.nthOp g1
      rw [List.length_singleton, Nat.add_comm] at g1'
      exact ⟨g1', ho.makes g2, g3⟩

/-! ### Writes of lanes (R147, R289, R291) -/

/-- A write of a placed element by the level: the `j`-th from here on the rope, with its value still to come. -/
def WritesPlaced (s : State) (a : Ask) (j : Nat) (q : Placed) (x : LaneOp) : Prop :=
  x.lane = q.el.lane ∧ x.high = (q.el.mask == 0xF0) ∧ x.op.st = .held ∧ x.op.kind = a.kind ∧ x.op.scope = a.scope ∧ x.op.dest = .drop ∧
    NthOp s a.slot j x.op ∧ Makes s a.slot a.name a.kind q x.op

theorem State.laneOps_live (s : State) (a : Ask) (ps : List Placed) :
    ((s.laneOps a ps).filter LaneOp.live).length = (topWrites ps).length ∧
      ∀ (j : Nat) (x : LaneOp) (q : Placed), ((s.laneOps a ps).filter LaneOp.live)[j]? = some x → (topWrites ps)[j]? = some q →
        WritesPlaced s a j q x := by
  unfold State.laneOps
  extract_lets x r mk top
  have live : ∀ i p, (mk true i p).live = true := fun _ _ => rfl
  have dead : ∀ i p, (mk false i p).live = false := fun _ _ => rfl
  have h : (top.mapIdx (mk true) ++ (ps.filter fun p => !top.contains p).map (mk false 0)).filter LaneOp.live = top.mapIdx (mk true) := by
    rw [List.filter_append, List.filter_eq_self.mpr, List.filter_eq_nil_iff.mpr, List.append_nil]
    · simp only [List.mem_map]
      rintro _ ⟨p, _, rfl⟩
      simp [dead]
    · intro y hy
      obtain ⟨i, hi, rfl⟩ := List.mem_mapIdx.mp hy
      exact live _ _
  rw [h]
  refine ⟨List.length_mapIdx, fun j y q hy hq => ?_⟩
  rw [List.getElem?_mapIdx, show top[j]? = some q from hq, Option.map_some, Option.some.injEq] at hy
  subst hy
  exact ⟨rfl, rfl, rfl, rfl, rfl, rfl, ⟨rfl, rfl, rfl, rfl, rfl, rfl⟩, ⟨rfl, rfl⟩⟩

theorem topWrites_sublist (ps : List Placed) : (topWrites ps).Sublist ps := by
  induction ps with
  | nil => exact .slnil
  | cons p ps ih =>
    unfold topWrites
    split
    · exact ih.cons p
    · exact ih.cons_cons p

/-- Of writes that differ every one is in the list, issued or not. -/
theorem State.laneOps_length (s : State) (a : Ask) {ps : List Placed} (h : ps.Nodup) : (s.laneOps a ps).length = ps.length := by
  have hsub := topWrites_sublist ps
  have hperm : (ps.filter fun p => (topWrites ps).contains p).Perm (topWrites ps) := by
    refine (List.perm_ext_iff_of_nodup (h.filter _) (h.sublist hsub)).mpr fun q => ?_
    simp only [List.mem_filter, List.contains_iff_mem]
    exact ⟨And.right, fun hq => ⟨hsub.subset hq, hq⟩⟩
  have hsplit := List.length_eq_length_filter_add (l := ps) fun p => (topWrites ps).contains p
  unfold State.laneOps
  simp only [List.length_append, List.length_mapIdx, List.length_map]
  rw [hperm.length_eq] at hsplit
  omega

/-! ### Values filled in, and the flags of their conversions -/

/-- The flags that a list of conversions raises together. -/
def flagsOf {α : Type} (g : α → Flags) (as : List α) : Flags := as.foldl (fun x a => x ||| g a) 0

theorem getLsbD_foldl_or {α : Type} (g : α → Flags) (as : List α) (x : Flags) (b : Nat) :
    (as.foldl (fun x a => x ||| g a) x).getLsbD b = true ↔ x.getLsbD b = true ∨ ∃ a ∈ as, (g a).getLsbD b = true := by
  induction as generalizing x with
  | nil => simp
  | cons a as ih => simp [ih, or_assoc]

/-- They depend on which conversions are made, not on their order or number. -/
theorem flagsOf_congr {α β : Type} {g : α → Flags} {h : β → Flags} {as : List α} {bs : List β}
    (hab : ∀ a ∈ as, ∃ b ∈ bs, g a = h b) (hba : ∀ b ∈ bs, ∃ a ∈ as, g a = h b) : flagsOf g as = flagsOf h bs := by
  refine BitVec.eq_of_getLsbD_eq fun i _ => Bool.eq_iff_iff.mpr ?_
  unfold flagsOf
  rw [getLsbD_foldl_or, getLsbD_foldl_or]
  refine or_congr_right ⟨?_, ?_⟩
  · rintro ⟨a, ha, hi⟩
    obtain ⟨b, hb, e⟩ := hab a ha
    exact ⟨b, hb, e ▸ hi⟩
  · rintro ⟨b, hb, hi⟩
    obtain ⟨a, ha, e⟩ := hba b hb
    exact ⟨a, ha, e ▸ hi⟩

/-- The operation that an element write becomes once its value is known, with the flags of the conversion. -/
def LaneOp.filled (f : Fmt) (vals : VReg) (scales : AMap Word) (md : Modes) (o : LaneOp) : Flagged Op :=
  o.fill f (vals.lane o.lane) (AMap.get scales 0 (4 * o.lane + 3)) md

theorem fillOps_eq (ops : List LaneOp) (f : Fmt) (vals : VReg) (scales : AMap Word) (md : Modes) :
    fillOps ops f vals scales md = ((ops.filter LaneOp.live).map fun o => (o.filled f vals scales md).1,
      flagsOf (fun o => (o.filled f vals scales md).2) ops) := by
  have h : ∀ (os : List LaneOp) (acc : List Op × Flags),
      os.foldl (fun acc o => (if o.live then acc.1 ++ [(o.filled f vals scales md).1] else acc.1, acc.2 ||| (o.filled f vals scales md).2)) acc =
        (acc.1 ++ (os.filter LaneOp.live).map fun o => (o.filled f vals scales md).1,
          os.foldl (fun x o => x ||| (o.filled f vals scales md).2) acc.2) := by
    intro os
    induction os with
    | nil => intro acc; simp
    | cons o os ih =>
      intro acc
      rw [List.foldl_cons, ih]
      cases hl : o.live <;> simp [hl]
  exact h ops ([], 0)

/-- A write of no block takes the code of its lane in the format. -/
theorem LaneOp.filled_plain {f : Fmt} (hf : f.block = none) {o : LaneOp} (hh : o.high = false) {a : Acc} (hw : o.op.work = .mem a)
    (vals : VReg) (scales : AMap Word) (md : Modes) :
    o.filled f vals scales md = ({ o.op with work := .mem { a with data := BitVec.ofNat 64 (storeCode f (vals.lane o.lane) md).1 } },
      (storeCode f (vals.lane o.lane) md).2) := by
  unfold LaneOp.filled LaneOp.fill
  cases f <;> simp_all [Fmt.block]

/-- The writes of a format without blocks: all whole elements, of which those that no higher lane replaces are issued. -/
theorem State.fillOps_plain (s : State) (a : Ask) {f : Fmt} (hf : f.block = none) {ps : List Placed}
    (hm : ∀ p ∈ ps, p.el.mask = -1) (vals : VReg) (md : Modes) :
    let r := fillOps (s.laneOps a ps) f vals [] md
    r.2 = flagsOf (fun q => (storeCode f (vals.lane q.el.lane) md).2) ps ∧ r.1.length = (topWrites ps).length ∧
      ∀ (j : Nat) (o : Op) (q : Placed), r.1[j]? = some o → (topWrites ps)[j]? = some q →
        NthOp s a.slot j o ∧ o.st = .held ∧ o.kind = a.kind ∧ o.scope = a.scope ∧ o.dest = .drop ∧
          Makes s a.slot a.name a.kind { q with el := { q.el with data := BitVec.ofNat 64 (storeCode f (vals.lane q.el.lane) md).1 } } o := by
  obtain ⟨hlen, hlive⟩ := s.laneOps_live a ps
  have hhigh : ∀ q ∈ ps, (q.el.mask == 0xF0) = false := fun q hq => by rw [hm q hq]; decide
  have hplain : ∀ x ∈ s.laneOps a ps, ∃ q ∈ ps, x.lane = q.el.lane ∧ x.high = (q.el.mask == 0xF0) ∧ ∃ acc, x.op.work = .mem acc := by
    intro x hx
    unfold State.laneOps at hx
    dsimp only at hx
    rcases List.mem_append.mp hx with hx | hx
    · obtain ⟨i, hi, rfl⟩ := List.mem_mapIdx.mp hx
      exact ⟨_, (topWrites_sublist ps).subset (List.getElem_mem hi), rfl, rfl, _, rfl⟩
    · obtain ⟨p, hp, rfl⟩ := List.mem_map.mp hx
      exact ⟨p, (List.mem_filter.mp hp).1, rfl, rfl, _, rfl⟩
  have hall : ∀ q ∈ ps, ∃ x ∈ s.laneOps a ps, x.lane = q.el.lane := by
    intro q hq
    unfold State.laneOps
    dsimp only
    by_cases ht : q ∈ topWrites ps
    · obtain ⟨i, hi, rfl⟩ := List.mem_iff_getElem.mp ht
      exact ⟨_, List.mem_append_left _ (List.mem_mapIdx.mpr ⟨i, hi, rfl⟩), rfl⟩
    · exact ⟨_, List.mem_append_right _ (List.mem_map.mpr ⟨q, List.mem_filter.mpr ⟨hq, by simpa using ht⟩, rfl⟩), rfl⟩
  have code : ∀ x ∈ s.laneOps a ps, ∀ q : Placed, x.lane = q.el.lane → (x.filled f vals [] md).2 = (storeCode f (vals.lane q.el.lane) md).2 := by
    intro x hx q hq
    obtain ⟨p, hp, -, hxh, acc, hw⟩ := hplain x hx
    rw [LaneOp.filled_plain hf (hxh.trans (hhigh p hp)) hw, hq]
  intro r
  have hr : r = _ := fillOps_eq (s.laneOps a ps) f vals [] md
  rw [hr]
  refine ⟨flagsOf_congr (fun x hx => ?_) fun (q : Placed) hq => ?_, by rw [List.length_map, hlen], fun j o q ho hq => ?_⟩
  · obtain ⟨q, hq, hl, -⟩ := hplain x hx
    exact ⟨q, hq, code x hx q hl⟩
  · obtain ⟨x, hx, hl⟩ := hall q hq
    exact ⟨x, hx, code x hx q hl⟩
  · rw [List.getElem?_map] at ho
    obtain ⟨x, hx, rfl⟩ := Option.map_eq_some_iff.mp ho
    obtain ⟨hl, hh, hst, hk, hsc, hd, hn, hva, hw⟩ := hlive j x q hx hq
    have hqm : q ∈ ps := (topWrites_sublist ps).subset (List.mem_of_getElem? hq)
    rw [LaneOp.filled_plain hf (hh.trans (hhigh q hqm)) hw, hl]
    exact ⟨hn, hst, hk, hsc, hd, hva, rfl⟩

/-! ### Stores of lanes -/

/-- The state once operations of the level are issued, with flags of their values raised and its place in program order one on. -/
def State.passed (u : State) (fl : Flags) : State := u.setCurLvl { u.curLvl.flag fl with po := u.curLvl.po + 1 }

section
variable (s : State) (a : Ask) (vals : VReg) {f : Fmt} {ps : List Placed}

/-- A store in a format without blocks: whole elements, each with its value. -/
theorem State.storeLanes_plain (hf : f.block = none) (hc : ∀ p ∈ ps, p.el.cls = .store) (hm : ∀ p ∈ ps, p.el.mask = -1) :
    ∃ u new, s.Issued a.slot u new ∧
      s.storeLanes a f vals ps = u.passed (flagsOf (fun q => (storeCode f (vals.lane q.el.lane) (modesOf s.curLvl.fcr)).2) ps) ∧
      new.length = (topWrites ps).length ∧
      ∀ (j : Nat) (o : Op) (q : Placed), new[j]? = some o → (topWrites ps)[j]? = some q →
        NthOp s a.slot j o ∧ o.st = .held ∧ o.kind = a.kind ∧ o.scope = a.scope ∧ o.dest = .drop ∧
          Makes s a.slot a.name a.kind
            { q with el := { q.el with data := BitVec.ofNat 64 (storeCode f (vals.lane q.el.lane) (modesOf s.curLvl.fcr)).1 } } o := by
  have hw : (ps.filter fun p => p.el.cls == .store) = ps := List.filter_eq_self.mpr fun p hp => by rw [hc p hp]; rfl
  have hs : (ps.filter fun p => p.el.cls == .load) = [] := List.filter_eq_nil_iff.mpr fun p hp => by rw [hc p hp]; decide
  let s1 : State := { s with nextId := s.nextId + 1 }
  have h1 : s.Issued a.slot s1 [] := .nextId s a.slot _
  obtain ⟨hflags, hlen, hops⟩ := s1.fillOps_plain a hf hm vals (modesOf s.curLvl.fcr)
  refine ⟨s1.issueOps a.slot (fillOps (s1.laneOps a ps) f vals [] (modesOf s.curLvl.fcr)).1, _, h1.trans (.issueOps s1 a.slot _), ?_, hlen,
    fun j o q ho hq => ?_⟩
  · rw [← hflags]
    unfold State.storeLanes
    rw [hw, hs]
    rfl
  · obtain ⟨hn, hst, hk, hsc, hd, hma⟩ := hops j o q ho hq
    have hn' := h1.nthOp hn
    rw [List.length_nil, Nat.zero_add] at hn'
    exact ⟨hn', hst, hk, hsc, hd, h1.makes hma⟩

/-- A store of no elements. -/
theorem State.storeLanes_nil : ∃ u, s.Issued a.slot u [] ∧ s.storeLanes a f vals [] = u.passed 0 :=
  ⟨({ s with nextId := s.nextId + 1 } : State).issueOps a.slot [], (State.Issued.nextId s a.slot _).trans (.issueOps _ a.slot []), rfl⟩

/-- The gathering of the scales of a block store, made once its operations are issued at `w`. -/
def State.scalesFor (s w : State) (vals : VReg) (f : Fmt) (n : Nat) (ops : List LaneOp) : Coll :=
  ⟨s.nextId, w.cur.lev.val, w.curLvl.acts, w.curLvl.launch, w.curLvl.ipc, n, [], .vstore f vals w.curLvl.fcr ops, none, []⟩

/-- The run of a store with scales: `t` is the state with their loads issued, `u` that with the writes, too. -/
theorem State.storeLanes_of_scales (hs : (ps.filter fun p => p.el.cls == .load) ≠ []) {sa : Ask} {t u : State}
    (ha : sa = { a with kind := if a.kind = .w then .w else .s })
    (ht : (ps.filter fun p => p.el.cls == .load).foldl
      (fun s1 p => s1.addOp sa ⟨p.el.va, .mem (s1.accOf sa p), .part s.nextId p.el.part, p.xl, .held⟩) { s with nextId := s.nextId + 1 } = t)
    (hu : t.issueOps a.slot ((liveOps (t.laneOps a (ps.filter fun p => p.el.cls == .store))).map fun o => { o with st := .awaiting }) = u) :
    let w := u.setCurLvl { u.curLvl with po := u.curLvl.po + 1 }
    s.storeLanes a f vals ps = w.updCore s.curKey fun x => { x with colls := x.colls ++
      [s.scalesFor w vals f (ps.filter fun p => p.el.cls == .load).length (t.laneOps a (ps.filter fun p => p.el.cls == .store))] } := by
  subst ha ht hu
  exact if_neg hs

/-- A store in a block format: the scales are read first, and the writes wait for them (R291). -/
theorem State.storeLanes_scaled (hs : (ps.filter fun p => p.el.cls == .load) ≠ []) (hn : (ps.filter fun p => p.el.cls == .store).Nodup) :
    let scales := ps.filter fun p => p.el.cls == .load
    let all := ps.filter fun p => p.el.cls == .store
    let weak := if a.kind = .w then Kind.w else .s
    ∃ u reads writes ops, s.Issued a.slot u (reads ++ writes) ∧ Parts s a.slot a.name s.nextId weak weak a.scope scales reads ∧
      writes.length = (topWrites all).length ∧
      (∀ (j : Nat) (o : Op) (q : Placed), writes[j]? = some o → (topWrites all)[j]? = some q →
        NthOp s a.slot (scales.length + j) o ∧ Makes s a.slot a.name a.kind q o ∧ o.st = .awaiting ∧ o.kind = a.kind ∧ o.scope = a.scope ∧
          o.dest = .drop) ∧
      ops.length = all.length ∧
      (∀ (j : Nat) (x : LaneOp) (q : Placed), (ops.filter LaneOp.live)[j]? = some x → (topWrites all)[j]? = some q →
        x.lane = q.el.lane ∧ x.high = (q.el.mask == 0xF0) ∧ x.op.st = .held ∧ Makes s a.slot a.name a.kind q x.op) ∧
      ∃ c : Coll, c.id = s.nextId ∧ c.left = scales.length ∧ c.finish = .vstore f vals s.curLvl.fcr ops ∧
        s.storeLanes a f vals ps = (u.passed 0).updCore s.curKey fun x => { x with colls := x.colls ++ [c] } := by
  intro scales all weak
  let s1 : State := { s with nextId := s.nextId + 1 }
  have h1 : s.Issued a.slot s1 [] := .nextId s a.slot _
  let sa : Ask := { a with kind := weak }
  obtain ⟨reads, hreads, hlen, hparts⟩ := s1.addParts sa s.nextId scales
  generalize ht : scales.foldl (fun s1 p => s1.addOp sa ⟨p.el.va, .mem (s1.accOf sa p), .part s.nextId p.el.part, p.xl, .held⟩)
    s1 = t at hreads
  have h2 : s.Issued a.slot t reads := h1.trans hreads
  obtain ⟨hlivelen, hlive⟩ := t.laneOps_live a all
  let writes := (liveOps (t.laneOps a all)).map fun o => { o with st := .awaiting }
  have h3 : s.Issued a.slot (t.issueOps a.slot writes) (reads ++ writes) := h2.trans (.issueOps t a.slot writes)
  have hfcr : ∀ l : Lvl, l.flag 0 = l := fun l => by
    unfold Lvl.flag
    rw [show (0 : Flags).setWidth 64 = 0#64 from rfl, BitVec.or_zero]
  have hcl : ((t.issueOps a.slot writes).passed 0).curLvl.fcr = s.curLvl.fcr := by
    rw [State.passed, State.curLvl_setCurLvl, hfcr]
    exact (congrArg Lvl.fcr h3.same :)
  refine ⟨t.issueOps a.slot writes, reads, writes, t.laneOps a all, h3, ⟨hlen, fun j o q ho hq => ?_⟩, ?_, fun j o q ho hq => ?_,
    t.laneOps_length a hn, fun j x q hx hq => ?_, ?_⟩
  · obtain ⟨g1, g2, g3⟩ := hparts j o q ho hq
    have g1' := h1.nthOp g1
    rw [List.length_nil, Nat.zero_add] at g1'
    exact ⟨g1', h1.makes g2, g3⟩
  · simp only [writes, liveOps, List.length_map]
    exact hlivelen
  · simp only [writes, liveOps, List.getElem?_map, Option.map_eq_some_iff] at ho
    obtain ⟨_, ⟨x, hx, rfl⟩, rfl⟩ := ho
    obtain ⟨-, -, -, hk, hsc, hd, hnth, hm⟩ := hlive j x q hx hq
    have hnth' := h2.nthOp hnth
    rw [hlen] at hnth'
    exact ⟨hnth', h2.makes hm, rfl, hk, hsc, hd⟩
  · obtain ⟨hl, hh, hst, -, -, -, -, hm⟩ := hlive j x q hx hq
    exact ⟨hl, hh, hst, h2.makes hm⟩
  · refine ⟨s.scalesFor ((t.issueOps a.slot writes).passed 0) vals f scales.length (t.laneOps a all), rfl, rfl, ?_, ?_⟩
    · rw [← hcl]; rfl
    · have hw : (t.issueOps a.slot writes).passed 0 = (t.issueOps a.slot writes).setCurLvl
          { (t.issueOps a.slot writes).curLvl with po := (t.issueOps a.slot writes).curLvl.po + 1 } := by
        simp only [State.passed, hfcr]
      rw [hw]
      exact s.storeLanes_of_scales a vals hs rfl ht rfl

end

end Sys2Proof.Machine
end

section
/-! Vector results (R391): a value for a register, and a value pushed into a write stream with the operations it issues. -/

namespace Sys2Proof.Machine

/-! ### Streams that are popped and pushed (R391) -/

/-- The streams of a level with one of them a chunk on. -/
def advanced (ss : List (Option Stream)) (n : Nat) : List (Option Stream) :=
  match if n < 4 then ss.getD n none else none with
  | some st => ss.set n (some { st with pos := st.pos + 1, done := st.done + chunkLanes st.desc st.pos, buf := none, asked := false })
  | none => ss

theorem Lvl.advance_eq (l : Lvl) (n : Nat) : l.advance n = { l with streams := advanced l.streams n } := by
  unfold Lvl.advance Lvl.stream advanced
  generalize (if n < 4 then l.streams.getD n none else none) = o
  cases o <;> rfl

theorem Lvl.popAll_eq (l : Lvl) (ns : List Nat) : l.popAll ns = { l with streams := ns.eraseDups.foldl advanced l.streams } := by
  unfold Lvl.popAll
  induction ns.eraseDups generalizing l with
  | nil => rfl
  | cons n ns ih => rw [List.foldl_cons, ih, Lvl.advance_eq]; rfl

/-! ### The state a store of lanes leaves -/

/-- From `u`, where core `k` has issued its operations, to `w`: flags are raised and the place in program order is one on, and the core
has taken up the gatherings `cs`. -/
structure State.PassedWith (u : State) (k : Nat) (fl : Flags) (cs : List Coll) (w : State) : Prop where
  core : w.core k = { (u.passed fl).core k with colls := ((u.passed fl).core k).colls ++ cs }
  rest : { w with cores := u.cores } = u
  others : ∀ j, j ≠ k → w.core j = u.core j

theorem State.PassedWith.none {u w : State} {fl : Flags} (h : w = u.passed fl) : u.PassedWith u.curKey fl [] w := by
  subst h
  exact ⟨by rw [List.append_nil], rfl, fun _ hj => State.core_setLvl_ne u _ _ hj⟩

theorem State.PassedWith.one {u w : State} {fl : Flags} {c : Coll}
    (h : w = (u.passed fl).updCore u.curKey fun x => { x with colls := x.colls ++ [c] }) : u.PassedWith u.curKey fl [c] w := by
  subst h
  exact ⟨State.core_updCore .., rfl, fun _ hj => (State.core_updCore_ne _ _ hj).trans (State.core_setLvl_ne u _ _ hj)⟩

/-- What a pushing instruction makes of its level beside raising the flags of the stored lanes. -/
def Lvl.pushed (l : Lvl) (srcs : List Nat) (n : Nat) (fl : Flags) : Lvl := { (((l.popAll srcs).advance n).flag fl) with xl := [] }

theorem Lvl.Same.pushed {x : Lvl} {s : State} (h : x.Same s.curLvl) (ns : List VName) (n : Nat) (fs fl : Flags) :
    ((({ x.flag fs with po := x.po + 1 } : Lvl).pushed (ns.map BitVec.toNat) n fl).step 4).Same
      { ((s.vecPast ns).advance n) with fcr := s.curLvl.fcr ||| fs.setWidth 64 ||| fl.setWidth 64, po := s.curLvl.po + 1 } := by
  unfold State.vecPast
  rw [← h]
  simp only [Lvl.pushed, Lvl.popAll_eq, Lvl.advance_eq]
  rfl

/-! ### The issuing level of another state -/

section
variable {s t : State} (h : t.cur = s.cur)
include h

theorem State.curKey_of_cur : t.curKey = s.curKey := by unfold State.curKey; rw [h]
theorem State.curCore_of_cur : t.curCore = t.core s.curKey := by rw [State.curCore, State.curKey_of_cur h]
theorem State.curLvl_of_cur : t.curLvl = t.lvl s.curKey s.cur.lev := by rw [State.curLvl, State.curCore_of_cur h, h]; rfl

end

/-! ### What an instruction has issued once it lets operations go -/

section
variable {i : Instr} {s u w : State} {slot : Nat} {new : List Op} {P : List Op → Prop} {fs : Flags} {cs : List Coll}

/-- The state before operations are let go, its level replaced by `y`. -/
theorem State.PassedWith.retired (h : u.PassedWith u.curKey fs cs w) (y : Lvl) :
    (w.setCurLvl y).curCore = { u.curCore.setLvl u.cur.lev y with colls := u.curCore.colls ++ cs } := by
  have hcur : w.cur = u.cur := (congrArg State.cur h.rest :)
  have hc : w.curCore = w.core u.curKey := by rw [State.curCore, State.curKey, hcur]; rfl
  rw [State.curCore_setCurLvl, hc, h.core, hcur, State.passed]
  have hp : (u.setCurLvl { u.curLvl.flag fs with po := u.curLvl.po + 1 }).core u.curKey =
      u.curCore.setLvl u.cur.lev { u.curLvl.flag fs with po := u.curLvl.po + 1 } := State.curCore_setCurLvl ..
  rw [hp]
  unfold Core.setLvl
  simp only [Vector.set_set]

theorem State.PassedWith.curLvl_eq (h : u.PassedWith u.curKey fs cs w) : w.curLvl = { u.curLvl.flag fs with po := u.curLvl.po + 1 } := by
  have hcur : w.cur = u.cur := (congrArg State.cur h.rest :)
  rw [State.curLvl_of_cur hcur, State.lvl, h.core]
  exact State.curLvl_setCurLvl ..

/-- Some number that no operation of a core has. -/
theorem Core.exists_free_id (c : Core) : ∃ n, ∀ o ∈ c.ops, o.id ≠ n := by
  obtain ⟨n, hn⟩ := Infinite.exists_notMem_finset (c.ops.map Op.id).toFinset
  exact ⟨n, fun o ho e => hn (List.mem_toFinset.mpr (List.mem_map.mpr ⟨o, ho, e⟩))⟩

/-- An instruction that has issued operations, gone on to the level `y'` and let operations go. -/
theorem Issues.of_issued {y y' : Lvl} (hu : s.Issued slot u new) (hP : P new) (hw : u.PassedWith u.curKey fs cs w) (hy : y'.Same y)
    (he : exec i s = .next ((w.setCurLvl y').pump s.curKey)) :
    Issues i s y P ∧ ∀ c ∈ cs, ∃ t, exec i s = .next t ∧ c ∈ t.curCore.colls := by
  have hk := hu.curKey_eq
  have hcurw : w.cur = s.cur := ((congrArg State.cur hw.rest :) : w.cur = u.cur).trans hu.cur_eq
  have hcore := hw.retired y'
  have hcur : (w.setCurLvl y').cur = s.cur := hcurw
  have hlv : (w.setCurLvl y').curLvl = y' := State.curLvl_setCurLvl ..
  generalize hv : w.setCurLvl y' = v at he hcore hcur hlv
  have hcore' := (State.curCore_of_cur hcur).symm.trans hcore
  have hlvl := (State.curLvl_of_cur hcur).symm.trans hlv
  have hrest : { v with cores := s.cores, nextId := s.nextId } = s := by
    have e := hu.rest
    rw [← hw.rest] at e
    rw [← hv]
    exact e
  have hothers : ∀ j, j ≠ s.curKey → v.core j = s.core j := fun j hj => by
    rw [← hv, State.setCurLvl, State.setCurCore, State.core_setCore_ne _ _ (by rw [State.curKey_of_cur hcurw]; exact hj)]
    exact (hw.others j (by rw [hk]; exact hj)).trans (hu.others j hj)
  have huv : ∀ m, m ≠ s.cur.lev → v.lvl s.curKey m = s.lvl s.curKey m := fun m hm => by
    rw [State.lvl, hcore', hu.cur_eq]
    exact (Core.lvl_setLvl_ne _ _ hm).trans (by rw [hu.curCore_eq]; exact hu.core.lvl m hm)
  have hvreg : v.curCore.vreg = s.curCore.vreg := by
    rw [hcore, hu.curCore_eq]; exact hu.core.vreg
  have hmx : ∀ j, (v.core j).mx = (s.core j).mx := fun j => by
    by_cases hj : j = s.curKey
    · subst hj; rw [hcore', hu.curCore_eq]; exact hu.core.mx
    · rw [hothers j hj]
  obtain ⟨n, hn⟩ := (v.core s.curKey).exists_free_id
  have hp : Pumped s.curKey n v (v.pump s.curKey) := v.pump_pumped fun o ho e => absurd e (hn o ho)
  have hcurp : (v.pump s.curKey).cur = s.cur := hp.cur.trans hcur
  have hcp := State.curCore_of_cur hcurp
  have hvc := State.curCore_of_cur hcur
  have hwait := (hp.lvl s.curKey s.cur.lev).1
  rw [← State.curLvl_of_cur hcurp, hlvl] at hwait
  refine ⟨⟨v, new, he, ?_, hP, hlv ▸ hy, hrest, hothers, huv, hvreg, ?_, ?_, ?_, ?_, ?_, fun hc => ?_⟩, fun c hc => ⟨_, he, ?_⟩⟩
  · rw [hcore, hu.curCore_eq]; exact hu.core.ops
  · exact (congrArg Lvl.x hwait :).trans (congrArg Lvl.x hy :)
  · exact (congrArg Lvl.p hwait :).trans (congrArg Lvl.p hy :)
  · exact (congrArg Lvl.pc hwait :).trans (congrArg Lvl.pc hy :)
  · exact (congrArg Lvl.fcr hwait :).trans (congrArg Lvl.fcr hy :)
  · rw [hcp, hp.vreg, ← hvc, hvreg]
  · have hmem : v.mem = s.mem := (congrArg State.mem hrest :)
    have hclear : v.clear = s.clear := (congrArg State.clear hrest :)
    have hsv : SameBytes s v := fun a => State.peek_congr hmem hclear (fun j => by rw [hmx]) a 1
    exact fun a => (v.pump_sameBytes s.curKey (hvc ▸ hc) a).trans (hsv a)
  · rw [hcp, hp.colls, ← hvc, hcore]
    exact List.mem_append_right _ hc

end

/-! ### The elements of a store -/

/-- The placed elements are the checked ones, in their order. -/
theorem State.check_els {s : State} {k launch : Nat} {tlb : List TlbEntry} {xl : List (Nat × Xlate)} {win : Bool} {els : List El}
    {ps : List Placed} (h : s.check k launch tlb xl win els = .ok ps) : ps.map Placed.el = els := by
  unfold State.check at h
  dsimp only at h
  split at h
  · cases h
  · split at h
    · cases h
    · split at h
      · cases h
      · split at h
        · cases h
        · cases h
          rw [List.map_map, List.map_map, List.map_map]
          refine (List.map_congr_left fun e _ => ?_).trans (List.map_id _)
          dsimp only [Function.comp]
          split
          · rename_i h; split at h <;> rfl
          · split <;> rfl

/-- Without blocks an element is one whole write. -/
theorem storeEls_plain {f : Fmt} (hf : f.block = none) (p : Word) (i : Nat) (e : Int) :
    ∃ w : El, storeEls p f i e = [w] ∧ w.lane = i ∧ w.cls = .store ∧ w.mask = -1 := by
  unfold storeEls
  rw [hf]
  exact ⟨_, rfl, rfl, rfl, rfl⟩

/-- A block element is written, and its scale read. -/
theorem storeEls_block {f : Fmt} (hf : f.block ≠ none) (p : Word) (i : Nat) (e : Int) :
    ∃ w r : El, storeEls p f i e = [w, r] ∧ w.lane = i ∧ r.lane = i ∧ w.cls = .store ∧ r.cls = .load := by
  obtain ⟨b, hb⟩ := Option.ne_none_iff_exists'.mp hf
  unfold storeEls
  rw [hb]
  exact ⟨_, _, rfl, rfl, rfl, rfl, rfl⟩

theorem storeEls_scale {f : Fmt} (hf : f.block ≠ none) (p : Word) (i : Nat) (e : Int) : ∃ el ∈ storeEls p f i e, el.cls = .load := by
  obtain ⟨w, r, hw, -, -, -, hr⟩ := storeEls_block hf p i e
  exact ⟨r, by rw [hw]; simp, hr⟩

theorem storeEls_lane {p : Word} {f : Fmt} {i : Nat} {e : Int} {el : El} (h : el ∈ storeEls p f i e) : el.lane = i := by
  by_cases hf : f.block = none
  · obtain ⟨w, hw, hl, -⟩ := storeEls_plain hf p i e
    rw [hw, List.mem_singleton] at h
    rw [h, hl]
  · obtain ⟨w, r, hw, hl, hr, -⟩ := storeEls_block hf p i e
    rw [hw, List.mem_pair] at h
    rcases h with rfl | rfl <;> assumption

theorem storeEls_nodup (p : Word) (f : Fmt) (i : Nat) (e : Int) : (storeEls p f i e).Nodup := by
  by_cases hf : f.block = none
  · obtain ⟨w, hw, -⟩ := storeEls_plain hf p i e
    rw [hw]
    exact List.nodup_singleton w
  · obtain ⟨w, r, hw, -, -, hs, hl⟩ := storeEls_block hf p i e
    have hne : w ≠ r := fun e => by rw [e, hl] at hs; cases hs
    rw [hw]
    simpa using hne

theorem activeLanes_nodup (mask : Word) : (activeLanes mask).Nodup := by
  have h : tab 64 id = List.range 64 := rfl
  unfold activeLanes
  rw [h]
  exact List.nodup_range.filter _

/-- The elements of lanes are all different. -/
theorem storedEls_nodup (p : Word) (f : Fmt) (mask : Word) (idx : Nat → Int) :
    ((activeLanes mask).flatMap fun j => storeEls p f j (idx j)).Nodup := by
  refine List.nodup_flatMap.mpr ⟨fun j _ => storeEls_nodup .., (activeLanes_nodup mask).imp fun {i j} hij => ?_⟩
  exact fun el hi hj => hij ((storeEls_lane hi).symm.trans (storeEls_lane hj))

/-! ### Stores of lanes, issued -/

/-- What decides that an instruction stores lanes: a failing check raises its cause, and once the checks pass it issues what the store
makes and goes on to the level that the flags of the lanes give. -/
theorem StoresLanes.of_issues {i : Instr} {s : State} (a : Ask) {f : Fmt} {val : VReg} {after : Flags → Lvl} {p mask : Word}
    {idx : Nat → Int} {els : List El} (he : els = (activeLanes mask).flatMap fun j => storeEls p f j (idx j))
    (hfail : ∀ c v a, s.checkCur false els = .fail c v a → Raises i s c v a)
    (hdone : ∀ ps, s.checkCur false els = .ok ps → s.curCore.ropeRoom a.slot ps.length = true →
      ∀ {u : State} {new : List Op} {fs : Flags} {cs : List Coll} {P : List Op → Prop}, s.Issued a.slot u new → P new →
        u.PassedWith u.curKey fs cs (s.storeLanes a f val ps) → Issues i s { after fs with po := s.curLvl.po + 1 } P ∧
          ∀ c ∈ cs, ∃ t, exec i s = .next t ∧ c ∈ t.curCore.colls) :
    StoresLanes i s a.slot a.name a.kind a.scope f val els after := by
  refine ⟨hfail, fun ps hps hroom => ?_⟩
  have issues := @hdone ps hps hroom
  have hmap : ps.map Placed.el = els := State.check_els hps
  have hmem : ∀ q ∈ ps, ∃ j, q.el ∈ storeEls p f j (idx j) := fun q hq => by
    have hq' : q.el ∈ els := hmap ▸ List.mem_map_of_mem hq
    rw [he] at hq'
    obtain ⟨j, -, hj⟩ := List.mem_flatMap.mp hq'
    exact ⟨j, hj⟩
  intro all ws code
  refine ⟨fun hf => ?_, fun hf hne => ?_, fun hf hnil => ?_⟩
  · have hplain : ∀ q ∈ ps, q.el.cls = .store ∧ q.el.mask = -1 := fun q hq => by
      obtain ⟨j, hj⟩ := hmem q hq
      obtain ⟨w, hw, -, hc, hm⟩ := storeEls_plain hf p j (idx j)
      rw [hw, List.mem_singleton] at hj
      rw [hj]
      exact ⟨hc, hm⟩
    have hall : all = ps := List.filter_eq_self.mpr fun q hq => by rw [(hplain q hq).1]; rfl
    obtain ⟨u, new, hu, hw, hlen, hops⟩ := s.storeLanes_plain a val hf (fun q hq => (hplain q hq).1) fun q hq => (hplain q hq).2
    rw [show ws = topWrites ps from congrArg topWrites hall, hall]
    exact (issues hu ⟨hlen, hops⟩ (.none hw)).1
  · have hscales : (ps.filter fun q => q.el.cls == .load) ≠ [] := by
      obtain ⟨el, hel⟩ := List.exists_mem_of_ne_nil _ hne
      rw [he] at hel
      obtain ⟨j, hj, -⟩ := List.mem_flatMap.mp hel
      obtain ⟨r, hr, hcls⟩ := storeEls_scale hf p j (idx j)
      have hr' : r ∈ ps.map Placed.el := by rw [hmap, he]; exact List.mem_flatMap.mpr ⟨j, hj, hr⟩
      obtain ⟨q, hq, rfl⟩ := List.mem_map.mp hr'
      exact List.ne_nil_of_mem (List.mem_filter.mpr ⟨hq, by rw [hcls]; rfl⟩)
    have hnodup : ps.Nodup := List.Nodup.of_map Placed.el (hmap ▸ he ▸ storedEls_nodup p f mask idx)
    obtain ⟨u, reads, writes, ops, hu, hreads, hwlen, hwrites, holen, hops, c, hid, hleft, hfin, hw⟩ :=
      s.storeLanes_scaled a val hscales (hnodup.filter _)
    rw [← hu.curKey_eq] at hw
    obtain ⟨t, ht, hc⟩ := (issues (P := fun _ => True) hu trivial (.one hw)).2 c (List.mem_singleton.mpr rfl)
    exact ⟨(issues hu ⟨reads, writes, rfl, hreads, hwlen, hwrites⟩ (.one hw)).1, t, c, ops, ht, hc, hid, hleft, hfin, holen, hops⟩
  · have hps0 : ps = [] := List.map_eq_nil_iff.mp (hmap.trans hnil)
    subst hps0
    obtain ⟨u, hu, hw⟩ := s.storeLanes_nil a val (f := f)
    exact (issues (P := fun new => new = []) hu rfl (.none hw)).1

/-! ### Pushes (R391) -/

section
variable {i : Instr} {s : State} {ns : List VName} {n : VName} {st : Stream} {mask : Word} {v : VReg} {fl : Flags} {lam : Nat}

/-- A push whose checks pass. -/
theorem State.vput_push {f : Fmt} {row : Word} {ps : List Placed} (h : s.pushCheck st mask = .ok (f, row, ps)) (srcs : List Nat) (k : Nat) :
    let w := s.storeLanes ⟨st.rope, 0, .w, .c⟩ f v ps
    s.vput (.push k st) srcs mask v fl lam = (w.retire 4 fun l => l.pushed srcs k fl).pump w.curKey := by
  unfold State.vput
  simp only [h, Lvl.pushed]

theorem State.vput_stop {t : State} (h : s.pushCheck st mask = .stop t) (srcs : List Nat) (k : Nat) :
    s.vput (.push k st) srcs mask v fl lam = t := by
  unfold State.vput
  simp only [h]

/-- What a push accesses once its row is known and its rounding mode good. -/
def pushEls (st : Stream) (mask row : Word) : List El :=
  (activeLanes (mask &&& chunkMask st.desc st.pos)).flatMap fun j => storeEls row (fmtOf row) j (chunkIdx st.desc st.pos j)

theorem State.pushCheck_none (hr : chunkRow st.desc st.pos = none) : s.pushCheck st mask = .stop (s.raise Cause.ptrOvf (tmapBase st.desc) 0) := by
  unfold State.pushCheck
  simp only [hr]

section
variable {row : Word} (hr : chunkRow st.desc st.pos = some row)
include hr

theorem State.pushCheck_badRm (hf : (fmtOf row).rounds = true) (hb : badRm s.curLvl.fcr = true) :
    s.pushCheck st mask = .stop (s.raise Cause.illegal s.curLvl.fcr 0) := by
  unfold State.pushCheck
  simp only [hr, hf, hb, Bool.and_self, if_true]

variable (hrm : ((fmtOf row).rounds && badRm s.curLvl.fcr) = false)
include hrm

theorem State.pushCheck_fail {c : Nat} {x a : Word} (hc : s.checkCur false (pushEls st mask row) = .fail c x a) :
    s.pushCheck st mask = .stop (s.raise c x a) := by
  unfold pushEls at hc
  unfold State.pushCheck
  simp only [hr, hrm, hc, Bool.false_eq_true, if_false]

theorem State.pushCheck_ok {ps : List Placed} (hc : s.checkCur false (pushEls st mask row) = .ok ps)
    (hroom : s.curCore.ropeRoom st.rope ps.length = true) : s.pushCheck st mask = .ok (fmtOf row, row, ps) := by
  unfold pushEls at hc
  unfold State.pushCheck
  simp only [hr, hrm, hc, hroom, Bool.false_eq_true, if_false, if_true]

end

/-- A vector instruction that puts its value into a write stream pushes it. -/
theorem Pushes.of_exec (h : exec i s = .next (s.vput (.push n.toNat st) (ns.map BitVec.toNat) mask v fl lam)) :
    Pushes i s ns n st mask v fl := by
  have stops : ∀ {c : Nat} {x a : Word}, s.pushCheck st mask = .stop (s.raise c x a) → Raises i s c x a := fun hc =>
    .of_exec (h.trans (congrArg _ (State.vput_stop hc _ _)))
  refine ⟨fun hr => stops (State.pushCheck_none hr), fun row hr => ?_⟩
  intro f
  refine ⟨fun h1 h2 => stops (State.pushCheck_badRm hr h1 h2), fun hrm => ?_⟩
  have hrm' : ((fmtOf row).rounds && badRm s.curLvl.fcr) = false := by rcases hrm with h | h <;> simp [show fmtOf row = f from rfl, h]
  change StoresLanes i s st.rope 0 .w .c f v (pushEls st mask row) _
  refine .of_issues ⟨st.rope, 0, .w, .c⟩ rfl (fun c x a hc => stops (State.pushCheck_fail hr hrm' hc)) fun ps hps hroom u new fs cs P hu hP hw => ?_
  have hkey : (s.storeLanes ⟨st.rope, 0, .w, .c⟩ f v ps).curKey = s.curKey :=
    State.curKey_of_cur (((congrArg State.cur hw.rest :) : _ = u.cur).trans hu.cur_eq)
  have hexec := h.trans (congrArg _ (State.vput_push (State.pushCheck_ok hr hrm' hps hroom) _ _))
  rw [hkey] at hexec
  exact Issues.of_issued hu hP hw (hu.same.pushed ns n.toNat fs fl) (by rw [← hw.curLvl_eq]; exact hexec)

/-! ### Vector results -/

/-- A vector result for a register: the level past the instruction, with the value outstanding. -/
theorem State.vput_place (s : State) (k : Nat) :
    s.vput (.place k) (ns.map BitVec.toNat) mask v fl lam = s.setCurLvl { s.vecPast ns with
      pend := s.curLvl.pend ++ [⟨.v k, .vec v, lam, 0⟩], fcr := s.curLvl.fcr ||| fl.setWidth 64 } := by
  have h : s.vput (.place k) (ns.map BitVec.toNat) mask v fl lam = s.setCurLvl
      (({ ((s.curLvl.popAll (ns.map BitVec.toNat)).flag fl).wvLat k v lam with xl := [] } : Lvl).step 4) := rfl
  rw [h]
  unfold State.vecPast
  rw [Lvl.popAll_eq]
  rfl

theorem State.vdst_place {k : Nat} {old : Bool} (hs : s.curLvl.stream n.toNat = none) (hk : s.curLvl.place n.toNat = some k) :
    s.vdst n.toNat old = .ok (.place k) := by
  unfold State.vdst; rw [hs]; dsimp only; rw [hk]

theorem State.vdst_push {old : Bool} (hs : s.curLvl.stream n.toNat = some st) (hd : tmapDir st.desc = true) (ho : old = false)
    (hp : st.pos < tmapChunks st.desc) : s.vdst n.toNat old = .ok (.push n.toNat st) := by
  unfold State.vdst; rw [hs]; simp [hd, ho, Nat.not_le.mpr hp]

/-- An instruction that puts a value made from the destination's old one with `vput` writes it as `VecWrites` says. -/
theorem VecWrites.of_exec {old : Bool} {R : VReg → VReg → Flags → Prop} (val : VReg → VReg) (flg : VReg → Flags)
    (hR : ∀ c, R c (val c) (flg c))
    (h : ∀ d, s.vdst n.toNat old = .ok d →
      exec i s = .next (s.vput d (ns.map BitVec.toNat) mask (val (s.oldOf d)) (flg (s.oldOf d)) lam)) :
    VecWrites i s ns n old mask lam R := by
  refine ⟨fun k hs hk => ⟨_, _, hR _, ?_⟩, fun st hs hd ho hp => ⟨_, _, hR _, .of_exec (h _ (State.vdst_push hs hd ho hp))⟩⟩
  have he := h _ (State.vdst_place hs hk)
  rw [State.vput_place] at he
  exact ⟨_, he, State.curLvl_setCurLvl .., s.setCurLvl_only _⟩

end

end Sys2Proof.Machine
end

section
/-! Vector sources and destinations by name (R232), the checks of a lane-slice access (R65, R386), and slices written. -/

namespace Sys2Proof.Machine

/-! ### Vector sources and destinations by name (R232, R391) -/

section
variable {i : Instr} {s : State} {n : VName} {ns : List VName} {old : Bool}

theorem VecReads.vsrc {v : VReg} (h : VecReads s n v) : s.vsrc n.toNat = .ok v := by
  unfold State.vsrc
  rcases h with ⟨hs, k, hk, rfl⟩ | ⟨st, hs, hd, hp, hb⟩
  · rw [hs]; dsimp only; rw [hk]
  · rw [hs]; simp [hd, Nat.not_le.mpr hp, hb]

theorem VecUnreadable.vsrc (h : VecUnreadable s n) : s.vsrc n.toNat = .stop (s.illegalV n.toNat) := by
  unfold State.vsrc
  rcases h with ⟨hs, hk⟩ | ⟨st, hs, hd⟩
  · rw [hs]; dsimp only; rw [hk]
  · rw [hs]; exact if_pos (by simpa using hd)

theorem VecWritable.vdst (h : VecWritable s n old) : ∃ d, s.vdst n.toNat old = .ok d := by
  rcases h with ⟨hs, hk⟩ | ⟨st, hs, hd, ho, hp⟩
  · obtain ⟨k, hk⟩ := Option.isSome_iff_exists.mp hk
    exact ⟨_, State.vdst_place hs hk⟩
  · exact ⟨_, State.vdst_push hs hd ho hp⟩

theorem State.vdst_stop (h : ¬ VecWritable s n old) : s.vdst n.toNat old = .stop (s.illegalV n.toNat) := by
  unfold VecWritable at h
  unfold State.vdst
  cases hs : s.curLvl.stream n.toNat with
  | some st =>
    refine if_pos (by_contra fun hc => h (.inr ⟨st, hs, ?_⟩))
    simpa [and_assoc] using hc
  | none =>
    cases hk : s.curLvl.place n.toNat with
    | some k => exact absurd (.inl ⟨hs, by rw [hk]; rfl⟩) h
    | none => rfl

/-- A name that stops an instruction raises ILLEGAL. -/
theorem Raises.of_illegalV (h : exec i s = .next (s.illegalV n.toNat)) : Raises i s 0x01 (BitVec.ofNat 64 (0x40 + n.toNat)) 0 :=
  .of_exec h

theorem VecSources.vsrcs {vs : List VReg} (h : VecSources s ns vs) : s.vsrcs (ns.map BitVec.toNat) = .ok vs := by
  induction ns generalizing vs with
  | nil => rw [List.length_eq_zero_iff.mp h.1]; rfl
  | cons n ns ih =>
    obtain ⟨hlen, hreads⟩ := h
    cases vs with
    | nil => cases hlen
    | cons v vs =>
      have hn := (hreads 0 n v rfl rfl).vsrc
      have hns := ih ⟨Nat.succ.inj hlen, fun j m w hm hw => hreads (j + 1) m w hm hw⟩
      rw [List.map_cons, State.vsrcs, hn, hns]

/-- The first name of a list that gives no value stops the reading of them all. -/
theorem VecSources.vsrcs_stop {pre post : List VName} {vs : List VReg} (h : VecSources s pre vs) (hn : VecUnreadable s n) :
    s.vsrcs ((pre ++ n :: post).map BitVec.toNat) = .stop (s.illegalV n.toNat) := by
  induction pre generalizing vs with
  | nil => rw [List.nil_append, List.map_cons, State.vsrcs, hn.vsrc]
  | cons m pre ih =>
    obtain ⟨hlen, hreads⟩ := h
    cases vs with
    | nil => cases hlen
    | cons v vs =>
      have hm := (hreads 0 m v rfl rfl).vsrc
      rw [List.cons_append, List.map_cons, State.vsrcs, hm, ih ⟨Nat.succ.inj hlen, fun j m w hm hw => hreads (j + 1) m w hm hw⟩]

/-- An instruction that answers with the stop of its sources raises ILLEGAL for the first that gives none. -/
theorem VecStops.of_vsrcs (h : ∀ t, s.vsrcs (ns.map BitVec.toNat) = .stop t → exec i s = .next t) : VecStops i s ns := by
  rintro pre post n vs rfl hpre hn
  exact .of_illegalV (h _ (hpre.vsrcs_stop hn))

theorem State.vsrcs_one_stop {k : Nat} {t : State} (h : s.vsrcs [k] = .stop t) : s.vsrc k = .stop t := by
  unfold State.vsrcs State.vsrcs at h
  split at h
  · rename_i u hu; cases h; exact hu
  · cases h

end

/-! ### Lanes -/

/-- A lane of a register made lane by lane. -/
theorem VReg.lane_tab (f : Nat → Lane) {j : Nat} (h : j < 64) : (VReg.tab f).lane j = f j := by
  have hl : (VReg.tab f).toList = (List.range 64).map f := rfl
  rw [VReg.lane, hl, List.getD_eq_getElem _ _ (by simpa using h), List.getElem_map, List.getElem_range]

theorem activeLanes_eq (mask : Word) : activeLanes mask = (List.range 64).filter fun j => mask.getLsbD j := rfl

theorem mem_activeLanes {mask : Word} {j : Nat} : j ∈ activeLanes mask ↔ j < 64 ∧ mask.getLsbD j = true := by
  rw [activeLanes_eq, List.mem_filter, List.mem_range]

/-- The lowest active lane of which something holds. -/
theorem find_activeLanes {mask : Word} {p : Nat → Bool} {j : Nat} (hj : j < 64 ∧ mask.getLsbD j = true) (hp : p j = true)
    (hlow : ∀ i, i < j → i < 64 ∧ mask.getLsbD i = true → p i = false) : (activeLanes mask).find? p = some j := by
  rw [activeLanes_eq, List.find?_filter, List.find?_range_eq_some]
  refine ⟨by simp [hj.2, hp], List.mem_range.mpr hj.1, fun i hi => ?_⟩
  cases hm : mask.getLsbD i with
  | false => rfl
  | true => simp [hlow i hi ⟨hi.trans hj.1, hm⟩]

theorem find_activeLanes_none {mask : Word} {p : Nat → Bool} (h : ∀ j, j < 64 ∧ mask.getLsbD j = true → p j = false) :
    (activeLanes mask).find? p = none :=
  List.find?_eq_none.mpr fun j hj => by simp [h j (mem_activeLanes.mp hj)]

/-! ### The checks of a lane-slice access (R65, R386) -/

section
variable {s : State} {mask : Word} {a : VReg}

theorem State.sliceCheck_misalign {j : Nat} (hj : j < 64 ∧ mask.getLsbD j = true) (hp : (a.lane j).toNat % 4 ≠ 0)
    (hlow : ∀ i, i < j → i < 64 ∧ mask.getLsbD i = true → (a.lane i).toNat % 4 = 0) :
    s.sliceCheck mask a = some (s.raise Cause.misalign 0 (BitVec.ofNat 64 (a.lane j).toNat)) := by
  unfold State.sliceCheck
  dsimp only
  rw [find_activeLanes hj (by simpa using hp) fun i hi hm => by simpa using hlow i hi hm]

variable (hal : ∀ j, j < 64 ∧ mask.getLsbD j = true → (a.lane j).toNat % 4 = 0)
include hal

theorem State.sliceCheck_access {j : Nat} (hj : j < 64 ∧ mask.getLsbD j = true) (hp : 252 < (a.lane j).toNat)
    (hlow : ∀ i, i < j → i < 64 ∧ mask.getLsbD i = true → ¬ 252 < (a.lane i).toNat) :
    s.sliceCheck mask a = some (s.raise Cause.access 0 (BitVec.ofNat 64 (a.lane j).toNat)) := by
  unfold State.sliceCheck
  dsimp only
  rw [find_activeLanes_none fun j hj => by simpa using hal j hj]
  dsimp only
  rw [find_activeLanes hj (by simpa using hp) fun i hi hm => by simpa using hlow i hi hm]

theorem State.sliceCheck_words (hin : ∀ j, j < 64 ∧ mask.getLsbD j = true → (a.lane j).toNat ≤ 252) :
    s.sliceCheck mask a = ((activeLanes mask).find? fun i => s.curCore.lanesBad.contains (sliceWord i (a.lane i).toNat)).map fun i =>
      s.raise Cause.eccUncorr 0 (BitVec.ofNat 64 (a.lane i).toNat) := by
  unfold State.sliceCheck
  dsimp only
  rw [find_activeLanes_none fun j hj => by simpa using hal j hj]
  dsimp only
  rw [find_activeLanes_none fun j hj => by simpa using hin j hj]

end

/-! ### Words corrected in passing (R65) -/

section
variable (s : State) (mask : Word) (a : VReg)

/-- Single-bit errors counted change no core, no byte of memory and not which level issues. -/
theorem State.countSofts (as : List Nat) (f : State → Nat) :
    let t := as.foldl (fun (s : State) _ => s.countSoft (f s)) s
    t.cores = s.cores ∧ t.mem = s.mem ∧ t.cur = s.cur := by
  induction as generalizing s with
  | nil => exact ⟨rfl, rfl, rfl⟩
  | cons _ as ih =>
    obtain ⟨hc, hm, hcur⟩ := ih (s.countSoft (f s))
    exact ⟨hc.trans (s.countSoft_cores _), hm.trans (s.countSoft_mem _),
      hcur.trans (congrArg State.cur (Served.countSoft s (f s)).rest :)⟩

/-- From `s` to `t` the lane slices of the issuing core have become `m` and their marks may have changed; the rest of the cores and
memory have not. -/
structure State.SlicesTo (s : State) (m : Memory) (t : State) : Prop where
  cur : t.cur = s.cur
  mem : t.mem = s.mem
  core : { t.core s.curKey with lanesBad := s.curCore.lanesBad, lanes := s.curCore.lanes } = s.curCore
  lanes : (t.core s.curKey).lanes = m
  others : ∀ j, j ≠ s.curKey → t.core j = s.core j

theorem State.sliceCorrect_slices : s.SlicesTo s.curCore.lanes (s.sliceCorrect mask a) := by
  unfold State.sliceCorrect
  extract_lets hit n
  split
  · exact ⟨rfl, rfl, rfl, rfl, fun _ _ => rfl⟩
  · generalize hu : (s.updCore s.curKey fun c => { c with lanesBad := c.lanesBad.filter fun w => !hit.contains w }) = u
    obtain ⟨hc, hm, hcur⟩ := u.countSofts (tab n id) fun s => scratchPa s.curKey 0
    have hcore : ∀ j, State.core ((tab n id).foldl (fun (s : State) _ => s.countSoft (scratchPa s.curKey 0)) u) j = u.core j := fun j => by
      unfold State.core; rw [hc]
    subst hu
    refine ⟨hcur, hm, ?_, ?_, fun j hj => (hcore j).trans (State.core_updCore_ne s _ hj)⟩ <;> rw [hcore, State.core_updCore] <;> rfl

/-- Where no word read is marked nothing happens. -/
theorem State.sliceCorrect_none {s : State} {mask : Word} {a : VReg}
    (h : ∀ j, j < 64 ∧ mask.getLsbD j = true → 2048 + (32 * j + (a.lane j).toNat / 8) ∉ s.curCore.lanesBad) : s.sliceCorrect mask a = s := by
  have hhit : ((activeLanes mask).map fun i => 2048 + sliceWord i (a.lane i).toNat).filter s.curCore.lanesBad.contains = [] := by
    refine List.filter_eq_nil_iff.mpr fun w hw => ?_
    obtain ⟨j, hj, rfl⟩ := List.mem_map.mp hw
    simpa [sliceWord] using h j (mem_activeLanes.mp hj)
  unfold State.sliceCorrect
  rw [hhit]
  rfl

end

/-! ### Slices written -/

section
variable (off x : Nat → Nat)

/-- The lane slices with the four bytes of each lane of a list written at its offset. -/
def slicesWith (m : Memory) (js : List Nat) : Memory :=
  js.foldl (fun (m : Memory) j => m.writeBytes (256 * j + off j) (leBytes 4 (x j))) m

theorem slicesWith_wf {m : Memory} (js : List Nat) (w : m.wf = true) : (slicesWith off x m js).wf = true := by
  induction js generalizing m with
  | nil => exact w
  | cons j js ih => exact ih (Memory.wf_writeBytes _ _ w)

theorem slicesWith_read_out (m : Memory) {js : List Nat} {n : Nat} (h : ∀ j ∈ js, n < 256 * j + off j ∨ 256 * j + off j + 4 ≤ n) :
    (slicesWith off x m js).read n = m.read n := by
  induction js generalizing m with
  | nil => rfl
  | cons j js ih =>
    refine (ih _ fun i hi => h i (List.mem_cons_of_mem _ hi)).trans (Memory.read_writeBytes_out m _ ?_)
    rw [leBytes_length]
    exact h j List.mem_cons_self

/-- Each lane reads what was written for it: the slices do not overlap. -/
theorem slicesWith_readNat {m : Memory} (w : m.wf = true) {js : List Nat} (hn : js.Nodup) (ho : ∀ j ∈ js, off j ≤ 252)
    (hx : ∀ j, x j < 2 ^ 32) {j : Nat} (hj : j ∈ js) : (slicesWith off x m js).readNat (256 * j + off j) 4 = x j := by
  induction js generalizing m with
  | nil => cases hj
  | cons i js ih =>
    obtain ⟨hi, hn'⟩ := List.nodup_cons.mp hn
    have ho' : ∀ j ∈ js, off j ≤ 252 := fun j hj => ho j (List.mem_cons_of_mem _ hj)
    rcases List.mem_cons.mp hj with rfl | hj'
    · have hout : ∀ n, 256 * j + off j ≤ n → n < 256 * j + off j + 4 → ∀ i ∈ js, n < 256 * i + off i ∨ 256 * i + off i + 4 ≤ n := by
        intro n h1 h2 i hij
        have hne : i ≠ j := fun e => hi (e ▸ hij)
        have := ho' i hij
        have := ho j List.mem_cons_self
        omega
      refine (Memory.readNat_congr fun n h1 h2 => slicesWith_read_out off x _ (hout n h1 h2)).trans ?_
      rw [Memory.readNat_writeBytes w]
      exact Nat.mod_eq_of_lt (hx j)
    · exact ih (Memory.wf_writeBytes _ _ w) hn' ho' hj'

end

end Sys2Proof.Machine
end

section
/-! VLD.ls and VST.ls: what they do once their sources are read, and the obligation about them (R49, R50, R386). -/

namespace Sys2Proof.Machine

section
variable {s : State} {pg : PReg} {va vd : VName} {a v : VReg} {i : Instr}

/-! ### VLD.ls and VST.ls once their sources are read -/

/-- What VLD.ls puts into its destination of old value `old`: the words read under the mask, the old lanes elsewhere. -/
def sliceLoad (s : State) (mask : Word) (a old : VReg) : VReg := VReg.tab fun j =>
  if active mask j then BitVec.ofNat 32 (s.curCore.lanes.readNat (256 * j + (a.lane j).toNat) 4) else old.lane j

theorem VecReads.exec_vldLs_stop (ha : VecReads s va a) {t : State} (hd : s.vdst vd.toNat false = .stop t) :
    exec (.vldLs pg va vd) s = .next t := by
  change Host.Outcome.next _ = _
  simp only [ha.vsrc, hd]

theorem VecReads.exec_vldLs_fault (ha : VecReads s va a) {d : VDest} {t : State} (hd : s.vdst vd.toNat false = .ok d)
    (hc : s.sliceCheck (s.curLvl.rp pg) a = some t) : exec (.vldLs pg va vd) s = .next t := by
  change Host.Outcome.next _ = _
  simp only [ha.vsrc, hd, hc]

theorem VecReads.exec_vldLs (ha : VecReads s va a) {d : VDest} (hd : s.vdst vd.toNat false = .ok d)
    (hc : s.sliceCheck (s.curLvl.rp pg) a = none) : exec (.vldLs pg va vd) s =
      .next ((s.sliceCorrect (s.curLvl.rp pg) a).vput d ([va].map BitVec.toNat) (s.curLvl.rp pg)
        (sliceLoad s (s.curLvl.rp pg) a (s.oldOf d)) 0 1) := by
  change Host.Outcome.next _ = _
  simp only [ha.vsrc, hd, hc, sliceLoad, List.map_cons, List.map_nil]

theorem VecReads.exec_vstLs_fault (ha : VecReads s va a) (hv : VecReads s vd v) {t : State}
    (hc : s.sliceCheck (s.curLvl.rp pg) a = some t) : exec (.vstLs pg va vd) s = .next t := by
  have h : s.vsrcs [vd.toNat, va.toNat] = .ok [v, a] := (vecSources_two hv ha).vsrcs
  change Host.Outcome.next _ = _
  simp only [h, List.getD_cons_succ, List.getD_cons_zero, hc]

theorem VecReads.exec_vstLs (ha : VecReads s va a) (hv : VecReads s vd v) (hc : s.sliceCheck (s.curLvl.rp pg) a = none) :
    let t := s.sliceCorrect (s.curLvl.rp pg) a
    exec (.vstLs pg va vd) s = .next ((t.updCore t.curKey fun c => { c with
      lanes := slicesWith (fun j => (a.lane j).toNat) (fun j => (v.lane j).toNat) c.lanes (activeLanes (s.curLvl.rp pg)) }).retire 4
        fun l => l.popAll [vd.toNat, va.toNat]) := by
  have h : s.vsrcs [vd.toNat, va.toNat] = .ok [v, a] := (vecSources_two hv ha).vsrcs
  change Host.Outcome.next _ = _
  simp only [h, List.getD_cons_succ, List.getD_cons_zero, hc, slicesWith]

/-- The faults of a lane-slice access, for an instruction that answers with the one its checks find. -/
theorem slice_raises (h : ∀ t, s.sliceCheck (s.curLvl.rp pg) a = some t → exec i s = .next t) :
    let mask := s.curLvl.rp pg
    let on := fun (j : Nat) => j < 64 ∧ mask.getLsbD j = true
    let off := fun (j : Nat) => (a.lane j).toNat
    let torn := fun (j : Nat) => (32 * j + off j / 8) ∈ s.curCore.lanesBad
    let first := fun (bad : Nat → Prop) (j : Nat) => on j ∧ bad j ∧ ∀ i, i < j → on i → ¬ bad i
    (∀ j, first (fun n => off n % 4 ≠ 0) j → Raises i s 0x03 0 (BitVec.ofNat 64 (off j))) ∧
      ((∀ j, on j → off j % 4 = 0) → ∀ j, first (fun n => 252 < off n) j → Raises i s 0x04 0 (BitVec.ofNat 64 (off j))) ∧
      ((∀ j, on j → off j % 4 = 0 ∧ off j ≤ 252) → ∀ j, first torn j → Raises i s 0x0E 0 (BitVec.ofNat 64 (off j))) := by
  intro mask on off torn first
  refine ⟨fun j ⟨hj, hb, hl⟩ => .of_exec (h _ ?_), fun hal j ⟨hj, hb, hl⟩ => .of_exec (h _ ?_), fun hin j ⟨hj, hb, hl⟩ => .of_exec (h _ ?_)⟩
  · exact State.sliceCheck_misalign hj hb fun i hi hm => not_not.mp (hl i hi hm)
  · exact State.sliceCheck_access hal hj hb hl
  · rw [State.sliceCheck_words (fun j hj => (hin j hj).1) fun j hj => (hin j hj).2,
      find_activeLanes hj (by simpa [sliceWord] using hb) fun i hi hm => by simpa [sliceWord] using hl i hi hm]
    rfl

/-- Clean offsets pass the checks. -/
theorem State.sliceCheck_clean {mask : Word} (h : ∀ j, j < 64 ∧ mask.getLsbD j = true →
    (a.lane j).toNat % 4 = 0 ∧ (a.lane j).toNat ≤ 252 ∧ ¬ (32 * j + (a.lane j).toNat / 8) ∈ s.curCore.lanesBad) :
    s.sliceCheck mask a = none := by
  rw [State.sliceCheck_words (fun j hj => (h j hj).1) fun j hj => (h j hj).2.1,
    find_activeLanes_none fun j hj => by simpa [sliceWord] using (h j hj).2.2]
  rfl

end

namespace State.SlicesTo
variable {s t : State} {m : Memory} (h : s.SlicesTo m t)
include h

theorem curKey_eq : t.curKey = s.curKey := State.curKey_of_cur h.cur
theorem curCore_eq : { t.curCore with lanesBad := s.curCore.lanesBad, lanes := s.curCore.lanes } = s.curCore := by
  rw [State.curCore_of_cur h.cur]; exact h.core
theorem lvl_eq (n : Level) : t.lvl s.curKey n = s.lvl s.curKey n := (congrArg (fun c => Core.lvl c n) h.core :)
theorem curLvl_eq : t.curLvl = s.curLvl := (State.curLvl_of_cur h.cur).trans (h.lvl_eq _)

/-- Slices written. -/
theorem updLanes (g : Memory → Memory) : s.SlicesTo (g m) (t.updCore t.curKey fun c => { c with lanes := g c.lanes }) := by
  rw [h.curKey_eq]
  refine ⟨h.cur, h.mem, ?_, ?_, fun j hj => (State.core_updCore_ne t _ hj).trans (h.others j hj)⟩
  · rw [State.core_updCore]; exact h.core
  · rw [State.core_updCore]; exact congrArg g h.lanes

/-- What is left alone when the issuing level of such a state moves on. -/
theorem setCurLvl_quiet (x : Lvl) : ((t.setCurLvl x).mem = s.mem ∧
    (∀ n, n ≠ s.cur.lev → (t.setCurLvl x).lvl s.curKey n = s.lvl s.curKey n) ∧
    ∀ k, k ≠ s.curKey → (t.setCurLvl x).core k = s.core k) ∧
    (t.setCurLvl x).curCore.vreg = s.curCore.vreg ∧ (t.setCurLvl x).curCore.lanes = m := by
  obtain ⟨⟨-, hcore⟩, -, hlvl, -⟩ := t.setCurLvl_only x
  rw [h.curKey_eq] at hcore hlvl
  rw [State.curCore_setCurLvl]
  refine ⟨⟨h.mem, fun n hn => (hlvl n (h.cur ▸ hn)).trans (h.lvl_eq n), fun k hk => (hcore k hk).trans (h.others k hk)⟩, ?_, ?_⟩
  · exact (congrArg Core.vreg h.curCore_eq :)
  · rw [State.curCore_of_cur h.cur]; exact h.lanes

end State.SlicesTo

/-- The level past an instruction that puts a value into a register and raises no flags. -/
theorem State.SlicesTo.vecPast_eq {s t : State} {m : Memory} (h : s.SlicesTo m t) (ns : List VName) (e : Pend) :
    ({ t.vecPast ns with pend := t.curLvl.pend ++ [e], fcr := t.curLvl.fcr ||| (0 : Flags).setWidth 64 } : Lvl) =
      { s.vecPast ns with pend := s.curLvl.pend ++ [e] } := by
  unfold State.vecPast
  rw [h.curLvl_eq, show (0 : Flags).setWidth 64 = 0#64 from rfl, BitVec.or_zero, Lvl.popAll_eq]
  rfl

/-- Settles O46: the checks find the lowest failing lane; past them a load puts its lanes with `vput`, and a store writes slices that do not
overlap. -/
theorem laneSlices : Obligations.LaneSlices := by
  unfold Obligations.LaneSlices
  intro s pg va vd a v
  refine ⟨.of_vsrcs fun t ht => ?_, .of_vsrcs fun t ht => ?_, fun ha => ?_⟩
  · change Host.Outcome.next _ = _
    rw [State.vsrcs_one_stop ht]
  · change Host.Outcome.next _ = _
    rw [show s.vsrcs [vd.toNat, va.toNat] = .stop t from ht]
  intro l mask on off torn clean first stops quiet
  refine ⟨fun hw => ?_, fun hw => ?_, fun k hs hk hc => ?_, fun hc hsoft => ?_, fun hv => ?_, fun hv hc => ?_⟩
  · obtain ⟨d, hd⟩ := hw.vdst
    exact slice_raises fun t ht => ha.exec_vldLs_fault hd ht
  · exact .of_illegalV (ha.exec_vldLs_stop (State.vdst_stop hw))
  · have hcor := s.sliceCorrect_slices mask a
    have he := ha.exec_vldLs (State.vdst_place hs hk) (State.sliceCheck_clean hc)
    rw [State.vput_place] at he
    obtain ⟨hq, hvreg, hlanes⟩ := hcor.setCurLvl_quiet { (s.sliceCorrect mask a).vecPast [va] with
      pend := (s.sliceCorrect mask a).curLvl.pend ++ [⟨.v k, .vec (sliceLoad s mask a (s.curCore.rv k)), 1, 0⟩],
      fcr := (s.sliceCorrect mask a).curLvl.fcr ||| (0 : Flags).setWidth 64 }
    exact ⟨_, _, he, (State.curLvl_setCurLvl ..).trans (hcor.vecPast_eq [va] _), hq, hvreg, hlanes, fun j hj => VReg.lane_tab _ hj⟩
  · refine .of_exec (sliceLoad s mask a) (fun _ => 0) (fun c => ⟨rfl, fun j hj => VReg.lane_tab _ hj⟩) fun d hd => ?_
    have he := ha.exec_vldLs hd (State.sliceCheck_clean hc)
    rwa [State.sliceCorrect_none hsoft] at he
  · exact slice_raises fun t ht => ha.exec_vstLs_fault hv ht
  · have hcor := (s.sliceCorrect_slices mask a).updLanes fun m => slicesWith off (fun j => (v.lane j).toNat) m (activeLanes mask)
    have he := ha.exec_vstLs hv (State.sliceCheck_clean hc)
    dsimp only at he
    rw [State.retire_eq, hcor.curLvl_eq] at he
    obtain ⟨hq, hvreg, hlanes⟩ := hcor.setCurLvl_quiet ((l.popAll [vd.toNat, va.toNat]).step 4)
    refine ⟨_, he, State.curLvl_setCurLvl .., hq, hvreg, hlanes, fun hwf => ?_⟩
    rw [hlanes]
    refine ⟨slicesWith_wf _ _ _ hwf, fun j hj => ?_, fun n hn => ?_⟩
    · exact slicesWith_readNat _ _ hwf (activeLanes_nodup mask) (fun i hi => (hc i (mem_activeLanes.mp hi)).2.1) (fun i => (v.lane i).isLt)
        (mem_activeLanes.mpr hj)
    · exact slicesWith_read_out _ _ _ fun j hj => hn j (mem_activeLanes.mp hj)

end Sys2Proof.Machine
end

section
/-! SPLIT, MERGE and CREATE, and the ends of partition commands (R449 to R452, R468). -/

namespace Sys2Proof.Machine

/-! ### The end of a command -/

section
variable {s : State}

/-- From `s` to `t` the command at the head of the package's queue is finished: carried out, or refused. -/
def State.Ended (s t : State) (refused : Bool) : Prop :=
  (t.chip s.arg.chip).partq = (s.chip s.arg.chip).partq.tail ∧ (t.chip s.arg.chip).partRef = refused ∧
    (t.chip s.arg.chip).partDone = ((s.chip s.arg.chip).partDone + 1) % 2 ^ 32

/-- The instruction refuses the command at the head of the package's queue and changes nothing else. -/
def State.TurnedAway (s : State) (i : Instr) : Prop :=
  ∃ t, exec i s = .next t ∧ s.Ended t true ∧ t.mem = s.mem ∧ t.cores = s.cores ∧ t.vds = s.vds ∧
    (t.chip s.arg.chip).blocks = (s.chip s.arg.chip).blocks ∧ (t.chip s.arg.chip).slots = (s.chip s.arg.chip).slots

theorem State.partEnd_chip (t : State) (chip : Nat) (refused : Bool) : (t.partEnd chip refused).chip chip =
    { t.chip chip with partq := (t.chip chip).partq.tail, partRef := refused, partDone := ((t.chip chip).partDone + 1) % 2 ^ 32 } :=
  State.chip_updChip ..

/-- A change of the package that leaves its queue alone, then the end of the command. -/
theorem State.partEnd_ended {t : State} (hq : (t.chip s.arg.chip).partq = (s.chip s.arg.chip).partq)
    (hd : (t.chip s.arg.chip).partDone = (s.chip s.arg.chip).partDone) (refused : Bool) :
    s.Ended (t.partEnd s.arg.chip refused) refused := by
  rw [State.Ended, State.partEnd_chip]
  exact ⟨congrArg List.tail hq, rfl, by rw [hd]⟩

theorem State.turnedAway_of_exec {i : Instr} (h : exec i s = .next (s.partEnd s.arg.chip true)) : s.TurnedAway i :=
  ⟨_, h, State.partEnd_ended rfl rfl true, rfl, rfl, rfl, by rw [State.partEnd_chip], by rw [State.partEnd_chip]⟩

/-! ### A command carried out or refused -/

variable {cmd : Nat} {f : Nat → PartCmd → Option State} {p : PartCmd}

theorem State.partRun_none (h : s.partHead s.arg.chip cmd = none) : s.partRun cmd f = .next s := by
  simp only [State.partRun, h]

theorem State.partRun_done (h : s.partHead s.arg.chip cmd = some p) (hk : p.ok = true) {t : State} (hf : f s.arg.chip p = some t) :
    s.partRun cmd f = .next (t.partEnd s.arg.chip false) := by
  simp only [State.partRun, h, hk, if_true, hf]

theorem State.partRun_refused (h : s.partHead s.arg.chip cmd = some p) (hf : p.ok = true → f s.arg.chip p = none) :
    s.partRun cmd f = .next (s.partEnd s.arg.chip true) := by
  have : (if p.ok = true then f s.arg.chip p else none) = none := by
    split
    · exact hf ‹_›
    · rfl
  simp only [State.partRun, h, this]

/-- Each of the three commands is run from the head of the queue. -/
theorem exec_partCommand {i : Instr} (h : (i, cmd) ∈ [(Instr.partSplit, 1), (.partMerge, 2), (.vdCreate, 3)]) :
    ∃ f, exec i s = s.partRun cmd f := by
  simp only [List.mem_cons, Prod.mk.injEq, List.not_mem_nil, or_false] at h
  obtain ⟨rfl, rfl⟩ | ⟨rfl, rfl⟩ | ⟨rfl, rfl⟩ := h
  · exact ⟨_, show execPartSplit s = _ from rfl⟩
  · exact ⟨_, show execPartMerge s = _ from rfl⟩
  · exact ⟨_, show execVdCreate s = _ from rfl⟩

/-! ### SPLIT and MERGE (R449) -/

/-- What lies at a block of the package's tree. -/
def State.block (s t : State) (log base : Nat) : Option Block := AMap.find? (t.chip s.arg.chip).blocks (blockKey log base)

/-- The upper half of a block. -/
def PartCmd.high (p : PartCmd) : Nat := p.base + 2 ^ (p.log - 1)

/-- The package's tree with a block split. -/
def State.splitBlock (s : State) (p : PartCmd) : State :=
  s.updChip s.arg.chip fun c => { c with
    blocks := AMap.put (AMap.put (AMap.put c.blocks (blockKey p.log p.base) .split) (blockKey (p.log - 1) p.base) .free)
      (blockKey (p.log - 1) p.high) .free }

/-- And with a split block free again. -/
def State.mergeBlock (s : State) (p : PartCmd) : State :=
  s.updChip s.arg.chip fun c => { c with
    blocks := AMap.put (AMap.del (AMap.del c.blocks (blockKey (p.log - 1) p.base)) (blockKey (p.log - 1) p.high))
      (blockKey p.log p.base) .free }

theorem exec_partSplit (h : s.partHead s.arg.chip 1 = some p) (hk : p.ok = true) (hf : s.block s p.log p.base = some .free)
    (hl : 1 ≤ p.log) : exec .partSplit s = .next ((s.splitBlock p).partEnd s.arg.chip false) := by
  show execPartSplit s = _
  unfold execPartSplit
  exact State.partRun_done h hk (if_pos ⟨hf, hl⟩)

theorem exec_partSplit_refused (h : s.partHead s.arg.chip 1 = some p) (hb : s.block s p.log p.base ≠ some .free ∨ p.log = 0) :
    exec .partSplit s = .next (s.partEnd s.arg.chip true) := by
  show execPartSplit s = _
  unfold execPartSplit
  exact State.partRun_refused h fun _ => if_neg fun ⟨hf, hl⟩ => hb.elim (· hf) fun h0 => by omega

theorem exec_partMerge (h : s.partHead s.arg.chip 2 = some p) (hk : p.ok = true) (hs : s.block s p.log p.base = some .split)
    (hl : s.block s (p.log - 1) p.base = some .free) (hh : s.block s (p.log - 1) p.high = some .free) :
    exec .partMerge s = .next ((s.mergeBlock p).partEnd s.arg.chip false) := by
  show execPartMerge s = _
  unfold execPartMerge
  exact State.partRun_done h hk (if_pos ⟨hs, hl, hh⟩)

theorem exec_partMerge_refused (h : s.partHead s.arg.chip 2 = some p) (hb : s.block s p.log p.base ≠ some .split ∨
    s.block s (p.log - 1) p.base ≠ some .free ∨ s.block s (p.log - 1) p.high ≠ some .free) :
    exec .partMerge s = .next (s.partEnd s.arg.chip true) := by
  show execPartMerge s = _
  unfold execPartMerge
  exact State.partRun_refused h fun _ => if_neg fun ⟨h1, h2, h3⟩ => hb.elim (· h1) (Or.elim · (· h2) (· h3))

/-- Only the tree changes when a command on it ends. -/
theorem State.block_partEnd (t : State) (refused : Bool) (log base : Nat) :
    s.block (t.partEnd s.arg.chip refused) log base = s.block t log base := by
  rw [State.block, State.partEnd_chip, State.block]

/-- The halves of a block are blocks of their own, beside each other. -/
theorem PartCmd.halves_ne (hk : p.ok = true) (hl : 1 ≤ p.log) : blockKey p.log p.base ≠ blockKey (p.log - 1) p.base ∧
    blockKey p.log p.base ≠ blockKey (p.log - 1) p.high ∧ blockKey (p.log - 1) p.base ≠ blockKey (p.log - 1) p.high := by
  simp only [PartCmd.ok, Bool.and_eq_true, decide_eq_true_eq] at hk
  have h1 : 2 ^ (p.log - 1) ≤ 2 ^ 9 := Nat.pow_le_pow_right (by decide) (by omega)
  have h0 : 0 < 2 ^ (p.log - 1) := Nat.two_pow_pos _
  simp only [blockKey, PartCmd.high]
  omega

theorem partSplit_halves (h : s.partHead s.arg.chip 1 = some p) (hk : p.ok = true) (hf : s.block s p.log p.base = some .free)
    (hl : 1 ≤ p.log) : ∃ t, exec .partSplit s = .next t ∧ s.Ended t false ∧ t.mem = s.mem ∧ t.cores = s.cores ∧
      s.block t p.log p.base = some .split ∧ s.block t (p.log - 1) p.base = some .free ∧ s.block t (p.log - 1) p.high = some .free := by
  obtain ⟨h1, h2, h3⟩ := PartCmd.halves_ne hk hl
  have hb : ((s.splitBlock p).chip s.arg.chip).blocks = AMap.put (AMap.put (AMap.put (s.chip s.arg.chip).blocks
      (blockKey p.log p.base) .split) (blockKey (p.log - 1) p.base) .free) (blockKey (p.log - 1) p.high) .free :=
    congrArg Chip.blocks (State.chip_updChip ..)
  refine ⟨_, exec_partSplit h hk hf hl, State.partEnd_ended ?_ ?_ false, rfl, rfl, ?_, ?_, ?_⟩
  · rw [State.splitBlock, State.chip_updChip]
  · rw [State.splitBlock, State.chip_updChip]
  · rw [State.block_partEnd, State.block, hb, AMap.find?_put_ne _ _ h2, AMap.find?_put_ne _ _ h1, AMap.find?_put_self]
  · rw [State.block_partEnd, State.block, hb, AMap.find?_put_ne _ _ h3, AMap.find?_put_self]
  · rw [State.block_partEnd, State.block, hb, AMap.find?_put_self]

theorem partMerge_joins (h : s.partHead s.arg.chip 2 = some p) (hk : p.ok = true) (hs : s.block s p.log p.base = some .split)
    (hl : s.block s (p.log - 1) p.base = some .free) (hh : s.block s (p.log - 1) p.high = some .free) :
    ∃ t, exec .partMerge s = .next t ∧ s.Ended t false ∧ t.mem = s.mem ∧ t.cores = s.cores ∧ s.block t p.log p.base = some .free := by
  refine ⟨_, exec_partMerge h hk hs hl hh, State.partEnd_ended ?_ ?_ false, rfl, rfl, ?_⟩
  · rw [State.mergeBlock, State.chip_updChip]
  · rw [State.mergeBlock, State.chip_updChip]
  · rw [State.block_partEnd, State.block, State.mergeBlock, State.chip_updChip, AMap.find?_put_self]

/-! ### CREATE (R449, R452) -/

theorem exec_vdCreate (h : s.partHead s.arg.chip 3 = some p) (hk : p.ok = true) (hc : s.createOk s.arg.chip p = true) :
    exec .vdCreate s = .next ((s.create s.arg.chip p).partEnd s.arg.chip false) := by
  show execVdCreate s = _
  unfold execVdCreate
  exact State.partRun_done h hk (if_pos hc)

theorem exec_vdCreate_refused (h : s.partHead s.arg.chip 3 = some p) (hc : s.createOk s.arg.chip p = false) :
    exec .vdCreate s = .next (s.partEnd s.arg.chip true) := by
  show execVdCreate s = _
  unfold execVdCreate
  exact State.partRun_refused h fun _ => if_neg (Bool.eq_false_iff.1 hc)

theorem mem_insertNat_of_mem {a b : Nat} {l : List Nat} (h : b ∈ l) : b ∈ insertNat a l := by
  induction l with
  | nil => cases h
  | cons k l ih =>
    unfold insertNat
    split
    · exact List.mem_cons_of_mem _ h
    · split
      · exact h
      · rcases List.mem_cons.1 h with rfl | h
        · exact List.mem_cons_self
        · exact List.mem_cons_of_mem _ (ih h)

/-- The virtual device of a creation as it stands before it, and with one more chip. -/
def State.described (s : State) (x : VdSlot) : VDev := (s.vdev? (descVd x.desc)).getD (descVdev x.desc x.chipList)
def VDev.onChip (v : VDev) (chip : Nat) (p : PartCmd) : VDev :=
  { v with slot := AMap.put v.slot chip p.slot, base := AMap.put v.base chip p.base, created := insertNat chip v.created }

/-- The slot of a creation. -/
def State.slotAt (s : State) (n : Nat) : VdSlot := AMap.get (s.chip s.arg.chip).slots {} n
def VdSlot.created (x : VdSlot) (p : PartCmd) : VdSlot :=
  { x with vd := descVd x.desc, grants := tab (2 ^ p.log) fun i => p.base + i, keyed := false, refused := false,
           queue0 := List.replicate 8 0, s1base := 0, s2base := 0 }

theorem State.create_vdev? : (s.create s.arg.chip p).vdev? (descVd (s.slotAt p.slot).desc) =
    some ((s.described (s.slotAt p.slot)).onChip s.arg.chip p) := AMap.find?_put_self ..

theorem State.create_chip : (s.create s.arg.chip p).chip s.arg.chip = { s.chip s.arg.chip with
    blocks := AMap.put (s.chip s.arg.chip).blocks (blockKey p.log p.base) .assigned
    slots := AMap.put (s.chip s.arg.chip).slots p.slot ((s.slotAt p.slot).created p) } := by
  simp only [State.create, State.updSlot, State.chip_updChip]
  rfl

theorem vdCreate_creates (h : s.partHead s.arg.chip 3 = some p) (hk : p.ok = true) (hc : s.createOk s.arg.chip p = true) :
    let x := s.slotAt p.slot
    let w := s.described x
    ∃ t v y, exec .vdCreate s = .next t ∧ s.Ended t false ∧ t.mem = s.mem ∧ t.cores = s.cores ∧
      s.block t p.log p.base = some .assigned ∧ t.vdev? (descVd x.desc) = some v ∧ s.arg.chip ∈ v.created ∧
      (∀ c ∈ w.created, c ∈ v.created) ∧ AMap.get v.base 0 s.arg.chip = p.base ∧ AMap.get v.slot 0 s.arg.chip = p.slot ∧
      v = { w with slot := v.slot, base := v.base, created := v.created } ∧
      AMap.find? (t.chip s.arg.chip).slots p.slot = some y ∧ y.vd = descVd x.desc ∧ y.keyed = false ∧
      y.grants = (tab (2 ^ p.log) fun i => p.base + i) := by
  intro x w
  refine ⟨_, w.onChip s.arg.chip p, x.created p, exec_vdCreate h hk hc, State.partEnd_ended ?_ ?_ false, rfl, rfl, ?_,
    State.create_vdev?, mem_insertNat _ _, fun c => mem_insertNat_of_mem, AMap.get_put_self .., AMap.get_put_self .., rfl, ?_,
    rfl, rfl, rfl⟩
  · rw [State.create_chip]
  · rw [State.create_chip]
  · rw [State.block_partEnd, State.block, State.create_chip, AMap.find?_put_self]
  · rw [State.partEnd_chip, State.create_chip, AMap.find?_put_self]

end

end Sys2Proof.Machine
end

section
/-! What a reset of a virtual device leaves alone: the packages' queues of partition commands, and which reset is under way (R446,
R449). -/

namespace Sys2Proof.Machine

/-- The reset step under way and its scope. -/
def VDev.resetting (v : VDev) : Nat × List Nat := (v.reset, v.scope)

/-- From `s` to `t` every package keeps its queue of partition commands, and every virtual device its reset. -/
structure SameResets (s t : State) : Prop where
  queue : ∀ c, (t.chip c).partq = (s.chip c).partq
  reset : ∀ vd, (t.vdev? vd).map VDev.resetting = (s.vdev? vd).map VDev.resetting

namespace SameResets

theorem refl (s : State) : SameResets s s := ⟨fun _ => rfl, fun _ => rfl⟩
theorem trans {s t u : State} (h : SameResets s t) (g : SameResets t u) : SameResets s u :=
  ⟨fun c => (g.queue c).trans (h.queue c), fun vd => (g.reset vd).trans (h.reset vd)⟩
theorem of_eq {s t : State} (hc : t.chips = s.chips) (hv : t.vds = s.vds) : SameResets s t :=
  ⟨fun c => by simp only [State.chip, hc], fun vd => by simp only [State.vdev?, hv]⟩

theorem updChip (s : State) (n : Nat) (f : Chip → Chip) (hf : ∀ c : Chip, (f c).partq = c.partq) : SameResets s (s.updChip n f) := by
  refine ⟨fun c => ?_, fun _ => rfl⟩
  by_cases hc : c = n
  · subst hc; rw [State.chip_updChip, hf]
  · rw [State.chip_updChip_ne s f hc]
theorem updVd (s : State) (n : Nat) (f : VDev → VDev) (hf : ∀ v : VDev, (f v).resetting = v.resetting) : SameResets s (s.updVd n f) := by
  refine ⟨fun c => by rw [State.chip, State.updVd_chips, State.chip], fun vd => ?_⟩
  by_cases hv : vd = n
  · subst hv; rw [State.vdev?_updVd, Option.map_map]; exact congrArg (Option.map · _) (funext hf)
  · rw [State.vdev?_updVd_ne s f hv]
theorem updCore (s : State) (k : Nat) (f : Core → Core) : SameResets s (s.updCore k f) := of_eq rfl rfl
theorem updClu (s : State) (k : Nat) (f : Cluster → Cluster) : SameResets s (s.updClu k f) := of_eq rfl rfl

theorem foldl {α : Type} {f : State → α → State} (hf : ∀ s a, SameResets s (f s a)) (as : List α) (s : State) :
    SameResets s (as.foldl f s) := by
  induction as generalizing s with
  | nil => exact refl s
  | cons a as ih => exact (hf s a).trans (ih _)

/-! ### Accesses of units -/

theorem lineAccess (s : State) (vd pa : Nat) : SameResets s (s.lineAccess vd pa) := by
  refine updChip s _ _ fun c => ?_
  dsimp only
  split <;> rfl
theorem memServe (s : State) (vd pa : Nat) : SameResets s (s.memServe vd pa) := by
  unfold State.memServe
  split
  · exact refl s
  · exact lineAccess s vd pa
theorem ownFrame (s : State) (pa vd : Nat) : SameResets s (s.ownFrame pa vd) := by
  unfold State.ownFrame
  split
  · exact updChip s _ _ fun _ => rfl
  · exact refl s
theorem writeBack (s : State) (line : Nat) : SameResets s (s.writeBack line) := by
  unfold State.writeBack
  split
  · dsimp only
    split
    · refine SameResets.trans ?_ (lineAccess _ _ _)
      exact of_eq rfl rfl
    · exact of_eq rfl rfl
  · exact refl s
theorem l2Fill (s : State) (pa mt : Nat) : SameResets s (s.l2Fill pa mt) := by
  unfold State.l2Fill
  dsimp only
  split
  · exact refl s
  · split
    · exact of_eq rfl rfl
    · exact ((of_eq rfl rfl : SameResets s s.freeNat.2).trans (writeBack _ _)).trans (of_eq rfl rfl)
theorem lineServe (s : State) (vd pa mt : Nat) : SameResets s (s.lineServe vd pa mt) := (memServe s vd pa).trans (l2Fill _ pa mt)
theorem runServe (s : State) (vd pa n mt : Nat) : SameResets s (s.runServe vd pa n mt) :=
  foldl (fun s a => lineServe s vd a mt) _ s
theorem keepOld (s : State) (pa n : Nat) : SameResets s (s.keepOld pa n) :=
  of_eq (congrArg State.chips (s.keepOld_rest pa n) :) (congrArg State.vds (s.keepOld_rest pa n) :)
theorem readyLine (s : State) (pa mt : Nat) : SameResets s (s.readyLine pa mt) := by
  refine (l2Fill s pa mt).trans ?_
  unfold State.readyLine
  dsimp only
  generalize s.l2Fill pa mt = u
  split <;> split <;> split <;> exact of_eq rfl rfl
theorem wakeWatch (s : State) (pa : Nat) (v : Word) : SameResets s (s.wakeWatch pa v.toNat) := by
  refine ⟨fun c => ?_, fun vd => ?_⟩
  · unfold State.wakeWatch; split <;> rfl
  · have hw : s.vds.map (wakes pa v) = s.vds.map fun x => (x.1, (wakes pa v x).2) :=
      List.map_congr_left fun x _ => by unfold wakes; split <;> rfl
    rw [State.vdev?, State.wakeWatch_vds, hw]
    rw [AMap.find?_map (fun k d => (wakes pa v (k, d)).2), Option.map_map]
    refine congrArg (Option.map · _) (funext fun d => ?_)
    unfold wakes
    simp only [Function.comp]
    split <;> rfl
theorem poke (s : State) (pa n : Nat) (v : Word) (mt : Nat) : SameResets s (s.poke pa n v.toNat mt) := by
  unfold State.poke
  split
  · exact updCore s _ _
  · refine SameResets.trans ?_ (wakeWatch _ pa v)
    exact ((keepOld s pa n).trans (readyLine _ pa mt)).trans (of_eq rfl rfl)
theorem belayEvent (s : State) (chip die stop code : Nat) (data : Word) : SameResets s (s.belayEvent chip die stop code data) := by
  unfold State.belayEvent
  dsimp only
  generalize hu : s.updChip chip _ = u
  have h : SameResets s u := by subst hu; exact updChip s chip _ fun _ => rfl
  exact h.trans (of_eq rfl rfl)
theorem countSoft (s : State) (pa : Nat) : SameResets s (s.countSoft pa) := by
  have h := updChip s (fld pa 47 9) (fun c => { c with softErrs := (s.chip (fld pa 47 9)).softErrs + 1 }) fun _ => rfl
  unfold State.countSoft
  dsimp only
  split
  · exact h.trans (belayEvent _ _ _ _ _ _)
  · exact h
theorem setFull (s : State) (pa : Nat) (b : Bool) : SameResets s (s.setFull pa b) := of_eq rfl rfl
theorem dropBad (s : State) (pa : Nat) : SameResets s (s.dropBad pa) := of_eq rfl rfl
theorem pokeRun (s : State) (pa mt : Nat) (ws : List Word) (bits : List (Option Bool)) : SameResets s (s.pokeRun pa mt ws bits) := by
  induction ws generalizing s pa bits with
  | nil => exact refl s
  | cons w ws ih =>
    refine (poke s pa 8 w mt).trans (SameResets.trans ?_ (ih _ (pa + 8) bits.tail))
    cases bits.headD none with
    | none =>
      dsimp only
      split
      · exact ((setFull _ _ _).trans (dropBad _ _)).trans (countSoft _ _)
      · exact dropBad _ _
    | some b =>
      dsimp only
      split
      · exact ((setFull _ _ _).trans (dropBad _ _)).trans (countSoft _ _)
      · exact (setFull _ _ _).trans (dropBad _ _)
theorem traceCore (s : State) (k : Nat) (a : Acc) : SameResets s (s.traceCore k a) := by
  unfold State.traceCore
  dsimp only
  split
  · exact (pokeRun s _ _ _ _).trans (updCore _ _ _)
  · exact refl s
/-- A record in a ring that a home slice keeps. -/
theorem sliceRun (s : State) (vd base mt : Nat) (ws : List Word) (bits : List (Option Bool)) :
    SameResets s (if s.pcFailed base then s else ((s.memServe vd base).ownFrame base vd).pokeRun base mt ws bits) := by
  split
  · exact refl s
  · exact ((memServe s _ _).trans (ownFrame _ _ _)).trans (pokeRun _ _ _ _ _)
theorem trace (s : State) (a : Acc) : SameResets s (s.trace a) := by
  unfold State.trace
  split
  · exact traceCore _ _ _
  · exact traceCore _ _ _
  · exact refl s
  · dsimp only
    split
    · exact (sliceRun s _ _ _ _ _).trans (updClu _ _ _)
    · exact refl s

/-! ### Groups (R225 to R228) -/

theorem gbarResume (s : State) (v : VDev) (status : Word) (m : Nat × Nat) : SameResets s (s.gbarResume v status m) := by
  unfold State.gbarResume
  dsimp only
  split
  · exact of_eq rfl rfl
  · exact refl s
theorem setGroup (s : State) (vd g : Nat) (grp : Group) : SameResets s (s.setGroup vd g grp) := updVd s vd _ fun _ => rfl
theorem barrierFuel (n : Nat) (s : State) (vd g : Nat) (status : Word) : SameResets s (State.barrierFuel n s vd g status) := by
  induction n generalizing s status with
  | zero => exact refl s
  | succ n ih =>
    unfold State.barrierFuel
    split
    · exact refl s
    · dsimp only
      split
      · exact ((foldl (fun s m => gbarResume s _ _ m) _ s).trans (setGroup _ vd g _)).trans (ih _ _)
      · exact refl s
theorem barrier (s : State) (vd g : Nat) : SameResets s (s.barrier vd g) := barrierFuel _ s vd g 0
theorem gleave (s : State) (vd g : Nat) (m : Nat × Nat) (deferred : Bool) : SameResets s (s.gleave vd g m deferred) := by
  unfold State.gleave
  split
  · exact refl s
  · dsimp only
    split
    · exact setGroup s vd g _
    · split
      · split
        · split
          · exact setGroup s vd g _
          · exact refl s
        · exact (setGroup s vd g _).trans (barrier _ vd g)
      · exact refl s
theorem leaveAll (s : State) (vd : Nat) (m : Nat × Nat) : SameResets s (s.leaveAll vd m) := by
  unfold State.leaveAll
  split
  · exact refl s
  · exact foldl (fun s g => gleave s vd _ m true) _ s
theorem leaveLaunch (s : State) (vd n : Nat) : SameResets s (s.leaveLaunch vd n) := by
  unfold State.leaveLaunch
  split
  · exact refl s
  · exact foldl (fun s (g : Nat × Group) => foldl (fun s (o : (Nat × Nat) × Nat) => gleave s vd g.1 o.1 true) _ s) _ s

/-! ### Faults and causes (R431 to R443) -/

theorem ringEntry (s : State) (chip ty vd : Nat) (body : List Word) : SameResets s (s.ringEntry chip ty vd body) := by
  unfold State.ringEntry
  dsimp only
  split
  · refine ⟨fun c => ?_, fun _ => rfl⟩
    by_cases hc : c = chip
    · subst hc; rw [State.chip_updChip]
    · rw [State.chip_updChip_ne s _ hc]
  · exact (of_eq rfl rfl : SameResets s (s.pokeWords _ _)).trans (updChip _ _ _ fun _ => rfl)
theorem returnPosts (k : Nat) (ps : List Post) (s : State) : SameResets s (ps.foldl (fun s p => s.returnPost k p) s) :=
  foldl (fun s p => (of_eq rfl rfl : SameResets s (s.returnPost k p))) ps s
theorem report (s : State) (vd launch : Nat) (record : List Word) : SameResets s (s.report vd launch record) := by
  unfold State.report
  split
  · exact refl s
  · dsimp only
    split
    · refine SameResets.trans ?_ (foldl (fun s kc => ?_) _ _)
      · exact updVd s vd _ fun _ => rfl
      · split
        · exact (updCore s kc.1 _).trans (returnPosts kc.1 _ _)
        · exact refl s
    · exact ringEntry s _ _ _ _
theorem freeze (s : State) (k master : Nat) : SameResets s (s.freeze k master) := by
  unfold State.freeze
  refine SameResets.trans ?_ (belayEvent _ _ _ _ _ _)
  exact (updCore s k _).trans (updVd _ _ _ fun _ => rfl)
theorem isoStop (s : State) (k : Nat) (record : List Word) (cause : Nat) : SameResets s (s.isoStop k record cause) := by
  unfold State.isoStop
  dsimp only
  split
  · exact refl s
  · refine SameResets.trans ?_ (belayEvent _ _ _ _ _ _)
    refine SameResets.trans ?_ (foldl (fun s i => leaveAll s _ _) _ _)
    refine SameResets.trans ?_ (updVd _ _ _ fun _ => rfl)
    exact (updCore s k _).trans (returnPosts k _ _)
theorem reportStop (s : State) (k src launch cause : Nat) (record : List Word) :
    SameResets s (s.reportStop k src launch cause record) := by
  unfold State.reportStop
  dsimp only
  split
  · exact (freeze s k src).trans (report _ _ _ _)
  · split
    · exact (report s _ _ _).trans (isoStop _ _ _ _)
    · exact report s _ _ _
theorem faultLevel (s : State) (k : Nat) (l : Level) : SameResets s (s.faultLevel k l) := by
  unfold State.faultLevel
  dsimp only
  split
  · exact refl s
  · split
    · exact reportStop s _ _ _ _ _
    · exact (reportStop s _ _ _ _ _).trans (updCore _ k _)
theorem fault (s : State) (k : Nat) (l : Level) : SameResets s (s.fault k l) := by
  unfold State.fault
  dsimp only
  split
  · unfold State.faultForward
    dsimp only
    split
    · exact faultLevel s k 3
    · exact ((report s _ _ _).trans (faultLevel _ k 3)).trans (updCore _ k _)
  · refine SameResets.trans ?_ (faultLevel _ k l)
    split
    · exact updCore s k _
    · exact refl s
theorem raiseAt (s : State) (k : Nat) (l : Level) (cause : Nat) (pc next val addr : Word) (late : Bool) :
    SameResets s (s.raiseAt k l cause pc next val addr late) := by
  unfold State.raiseAt
  dsimp only
  split
  · exact of_eq rfl rfl
  · exact (of_eq rfl rfl : SameResets s (s.setCore k _)).trans (fault _ k l)

/-! ### Launches (R241, R248) -/

theorem askDirect (s : State) (w : Walker) (vd va : Nat) : SameResets s (s.askDirect w vd va) := by
  unfold State.askDirect State.askWalk
  split <;> exact of_eq rfl rfl
theorem unitServe (s : State) (vd : Nat) (cls : AccClass) (pa n mt : Nat) : SameResets s (s.unitServe vd cls pa n mt) := by
  unfold State.unitServe
  dsimp only
  split
  · exact ((trace s _).trans (runServe _ _ _ _ _)).trans (ownFrame _ _ _)
  · exact (trace s _).trans (runServe _ _ _ _ _)
theorem unitWrite (s : State) (vd pa mt : Nat) (ws : List Word) : SameResets s (s.unitWrite vd pa mt ws) :=
  (unitServe s vd _ pa _ mt).trans (pokeRun _ pa mt ws [])

/-- A completion write, whether it is done or waits. -/
theorem completionWrite {s t : State} {vd q id va : Nat} {record : Bool} {ws : List Word}
    (h : s.completionWrite vd q id va record ws = .ok t ∨ s.completionWrite vd q id va record ws = .wait t) : SameResets s t := by
  unfold State.completionWrite at h
  split at h
  · split at h <;> obtain h | h := h <;> cases h
    exacts [refl s, unitWrite s vd _ _ ws]
  · obtain h | h := h <;> cases h
    exact ringEntry s _ _ _ _
  · obtain h | h := h <;> cases h
    exact askDirect s _ _ _

/-- A fault record, where a completion has one. -/
theorem recordWrite {s t : State} {vd q id va : Nat} {f : Option (List Word)} (h : (match f with
    | some f => s.completionWrite vd q id va true f
    | none => .ok s) = .ok t ∨ (match f with
    | some f => s.completionWrite vd q id va true f
    | none => .ok s) = .wait t) : SameResets s t := by
  cases f with
  | some f => exact completionWrite h
  | none => obtain h | h := h <;> cases h; exact refl s

theorem leaveLaunchIf {s t : State} (h : SameResets s t) (b : Bool) (vd id : Nat) :
    SameResets s (if b then t else t.leaveLaunch vd id) := by
  split
  · exact h
  · exact h.trans (leaveLaunch t vd id)

theorem completeLaunch (s : State) (vd q idx id status : Nat) (fault : Option (List Word)) (count : Nat) :
    SameResets s (s.completeLaunch vd q idx id status fault count) := by
  unfold State.completeLaunch
  dsimp only
  split
  next u hu =>
    split at hu
    · cases hu; exact askDirect s _ _ _
    · split at hu
      · cases hu; exact refl s
      · cases hu
    · cases hu
  · split
    next u hu => exact recordWrite (.inr hu)
    next u hu =>
      refine (recordWrite (.inl hu)).trans ?_
      split
      next w hw => exact completionWrite (.inr hw)
      next w hw =>
        refine (completionWrite (.inl hw)).trans (SameResets.trans ?_ (updVd _ vd _ fun _ => rfl))
        generalize hx : w.untold _ = x
        have hwx : SameResets w x := by subst hx; exact of_eq rfl rfl
        refine hwx.trans ?_
        refine leaveLaunchIf ?_ _ vd id
        split
        · exact ringEntry x _ _ _ _
        · exact refl x

/-! ### What a reset purges (R446) -/

theorem purgePosts (s : State) (k : Nat) : SameResets s (s.purgePosts k) := by
  refine (updCore s k Core.purgePosts).trans (foldl (fun s l => ?_) _ _)
  split
  · split
    · exact raiseAt s _ _ _ _ _ _ _ _
    · exact refl s
  · exact refl s
theorem purgeReasm (s : State) (vd node : Nat) (scope : List Nat) : SameResets s (s.purgeReasm vd node scope) := by
  refine foldl (fun s r => ?_) _ s
  dsimp only
  split
  · exact refl s
  · split <;> exact of_eq rfl rfl
theorem purgeChip (s : State) (vd chip : Nat) (scope : List Nat) : SameResets s (s.purgeChip vd chip scope) := by
  unfold State.purgeChip
  dsimp only
  generalize hu : State.updChip _ chip _ = u
  have h : SameResets s u := by
    subst hu
    exact (foldl (fun s n => purgeReasm s vd n scope) _ s).trans (updChip _ chip _ fun _ => rfl)
  exact h.trans (of_eq rfl rfl)
theorem purgeRetry (s : State) (vd : Nat) (scope : List Nat) : SameResets s (s.purgeRetry vd scope) := by
  unfold State.purgeRetry
  refine SameResets.trans ?_ (foldl (fun s w => ?_) _ _)
  · exact of_eq rfl rfl
  · split
    · exact refl s
    · exact of_eq rfl rfl
theorem dropWaits (s : State) (vd : Nat) (keys : List Nat) : SameResets s (s.dropWaits vd keys) := of_eq rfl rfl

end SameResets

/-- What a reset begins: its step, its scope, and no package's queue of partition commands changed. -/
theorem State.resetVd_begins {s : State} {vd : Nat} {v : VDev} (hv : s.vdev? vd = some v) (scope : List Nat) :
    (∃ w, (s.resetVd vd v scope).vdev? vd = some w ∧ w.reset = 3 ∧ w.scope = scope) ∧
      ∀ c, ((s.resetVd vd v scope).chip c).partq = (s.chip c).partq := by
  unfold State.resetVd
  dsimp only
  generalize hu : State.dropWaits _ _ _ = u
  have h1 : SameResets s u := by
    subst hu
    refine SameResets.trans ?_ (SameResets.dropWaits _ _ _)
    refine SameResets.trans ?_ (SameResets.purgeRetry _ vd scope)
    refine SameResets.trans ?_ (SameResets.foldl (fun s c => SameResets.purgeChip s vd c scope) _ _)
    refine SameResets.foldl (fun s k => ?_) _ s
    split
    · exact SameResets.updCore s k _
    · exact SameResets.purgePosts s k
  obtain ⟨w, hw, -⟩ : ∃ w, u.vdev? vd = some w ∧ w.resetting = v.resetting := by
    have := h1.reset vd
    rw [hv] at this
    exact Option.map_eq_some_iff.1 this
  generalize hx : u.updVd vd _ = x
  have h2 : ∃ w, x.vdev? vd = some w ∧ w.resetting = (3, scope) := by
    subst hx; rw [State.vdev?_updVd, hw]; exact ⟨_, rfl, rfl⟩
  have h3 : ∀ c, (x.chip c).partq = (u.chip c).partq := fun c => by subst hx; rw [State.chip, State.updVd_chips, State.chip]
  have h4 := SameResets.foldl (fun t (j : Launch) => SameResets.completeLaunch t vd j.queue j.idx j.id 0x02
    (some (resetRecord (s.vdCoreKey v 0))) (max j.count 1)) v.launches x
  constructor
  · obtain ⟨w, hw, hr⟩ := h2
    have := h4.reset vd
    rw [hw] at this
    obtain ⟨y, hy, hyr⟩ := Option.map_eq_some_iff.1 this
    rw [hr] at hyr
    exact ⟨y, hy, congrArg Prod.fst hyr, congrArg Prod.snd hyr⟩
  · exact fun c => (h4.queue c).trans ((h3 c).trans (h1.queue c))

end Sys2Proof.Machine
end

section
/-! DESTROY (R449, R459): the drain of a reset first, and then the virtual device gone from the chip. -/

namespace Sys2Proof.Machine

/-! ### Sparse tables without a key -/

/-- A key of a table with rising keys, once it is deleted. -/
theorem AMap.find?_del_self {α : Type} {m : AMap α} (h : (m.map Prod.fst).Pairwise (· < ·)) (k : Nat) :
    AMap.find? (AMap.del m k) k = none := by
  induction m with
  | nil => rfl
  | cons e m ih =>
    obtain ⟨n, v⟩ := e
    obtain ⟨hn, hm⟩ := List.pairwise_cons.1 h
    unfold AMap.del
    split
    next hk =>
      subst hk
      exact AMap.find?_none fun x hx hxk => absurd (hn x.1 (List.mem_map_of_mem hx)) (by simp [hxk])
    next hk => rw [AMap.find?, if_neg hk, ih hm]

/-! ### Frames and keys taken back (R459) -/

/-- A package without the frames of a virtual device, and without its key. -/
def Chip.withoutFrames (c : Chip) (vd : Nat) : Chip := { c with frames := List.filter (fun (f : Nat × Nat) => !(f.2 == vd && true)) c.frames }
def Chip.withoutKey (c : Chip) (vd : Nat) : Chip :=
  { c with keys := c.keys.filter (· != vd), slots := c.slots.map fun (y : Nat × VdSlot) =>
      if y.2.vd = vd then (y.1, { y.2 with keyed := false }) else y }

theorem State.takeFrames_chip (s : State) (c vd n : Nat) : (s.takeFrames c vd fun _ => true).chip n =
    if n = c then (s.chip n).withoutFrames vd else s.chip n := by
  by_cases h : n = c
  · subst h; rw [if_pos rfl]; exact State.chip_updChip ..
  · rw [if_neg h]; exact State.chip_updChip_ne _ _ h

/-- What taking frames back leaves alone of a package. -/
structure Chip.Unframed (vd : Nat) (c d : Chip) : Prop where
  rest : { d with frames := c.frames } = c
  gone : (∀ f ∈ c.frames, f.2 ≠ vd) → ∀ f ∈ d.frames, f.2 ≠ vd

theorem Chip.Unframed.trans {vd : Nat} {c d e : Chip} (h : c.Unframed vd d) (g : d.Unframed vd e) : c.Unframed vd e := by
  refine ⟨?_, g.gone ∘ h.gone⟩
  have h1 := h.rest
  rw [← g.rest] at h1
  exact h1

theorem State.takeFrames_unframed (s : State) (c vd n : Nat) : (s.chip n).Unframed vd ((s.takeFrames c vd fun _ => true).chip n) := by
  rw [State.takeFrames_chip]
  split
  · exact ⟨rfl, fun h f hf => h f (List.mem_filter.1 hf).1⟩
  · exact ⟨rfl, id⟩

theorem State.foldl_takeFrames_unframed (vd n : Nat) (cs : List Nat) (s : State) :
    (s.chip n).Unframed vd ((cs.foldl (fun s c => s.takeFrames c vd fun _ => true) s).chip n) := by
  induction cs generalizing s with
  | nil => exact ⟨rfl, id⟩
  | cons c cs ih => exact (s.takeFrames_unframed c vd n).trans (ih _)

theorem State.foldl_takeFrames_gone {n : Nat} {cs : List Nat} (h : n ∈ cs) (vd : Nat) (s : State) :
    ∀ f ∈ ((cs.foldl (fun s c => s.takeFrames c vd fun _ => true) s).chip n).frames, f.2 ≠ vd := by
  induction cs generalizing s with
  | nil => cases h
  | cons c cs ih =>
    by_cases hm : n ∈ cs
    · exact ih hm _
    · have hc : n = c := (List.mem_cons.1 h).resolve_right hm
      refine (State.foldl_takeFrames_unframed vd n cs _).gone fun f hf => ?_
      rw [State.takeFrames_chip, if_pos hc] at hf
      simpa using (List.mem_filter.1 hf).2

theorem State.foldl_takeFrames_rest (vd : Nat) (cs : List Nat) (s : State) :
    (cs.foldl (fun s c => s.takeFrames c vd fun _ => true) s).vds = s.vds ∧
      (cs.foldl (fun s c => s.takeFrames c vd fun _ => true) s).cores = s.cores := by
  induction cs generalizing s with
  | nil => exact ⟨rfl, rfl⟩
  | cons c cs ih => exact ih _

theorem State.eraseKey_chip (s : State) (vd n : Nat) : (s.eraseKey vd).chip n = (s.chip n).withoutKey vd := by
  have h : (s.eraseKey vd).chips = s.chips.map fun x => (x.1, Chip.withoutKey x.2 vd) := rfl
  rw [State.chip, AMap.get, h, AMap.find?_map fun _ c => Chip.withoutKey c vd, State.chip, AMap.get]
  cases AMap.find? s.chips n <;> rfl

/-- A package that holds anything has an entry. -/
theorem State.mem_chips {s : State} {n : Nat} (h : (s.chip n).partq ≠ []) : n ∈ s.chips.map Prod.fst := by
  by_contra hn
  refine h ?_
  rw [State.chip, AMap.get, AMap.find?_none fun x hx he => hn (List.mem_map.2 ⟨x, hx, he⟩)]
  rfl

/-! ### Enqueues answered (R240) -/

/-- What answering an enqueue leaves alone: packages, virtual devices, and whose each core is. -/
structure Answering (s t : State) : Prop where
  chips : t.chips = s.chips
  vds : t.vds = s.vds
  owner : ∀ k, (t.core k).owner = (s.core k).owner

theorem Core.land_owner (c : Core) (l : Level) (r : Reg) (v : RVal) : (c.land l r v).owner = c.owner :=
  (congrArg Core.owner (c.land_landsIn l r v).rest :)

theorem State.enqueueAnswer_answering (s : State) (e : Enqueue) (id : Nat) : Answering s (s.enqueueAnswer e id) := by
  unfold State.enqueueAnswer
  split
  · exact ⟨rfl, rfl, fun _ => rfl⟩
  · refine ⟨rfl, rfl, fun k => ?_⟩
    by_cases hk : k = e.core
    · subst hk
      rw [State.core_updCore]
      dsimp only
      split
      · rw [Core.land_owner]; rfl
      · rfl
    · rw [State.core_updCore_ne s _ hk]

theorem State.foldl_enqueueAnswer_answering (es : List Enqueue) (s : State) :
    Answering s (es.foldl (fun s e => s.enqueueAnswer e 0) s) := by
  induction es generalizing s with
  | nil => exact ⟨rfl, rfl, fun _ => rfl⟩
  | cons e es ih =>
    have h := s.enqueueAnswer_answering e 0
    have g := ih (s.enqueueAnswer e 0)
    exact ⟨g.chips.trans h.chips, g.vds.trans h.vds, fun k => (g.owner k).trans (h.owner k)⟩

/-! ### The virtual device gone from a chip -/

section
variable (s : State) (chip slot vd : Nat) (v : VDev)

/-- Its key erased, its frames marked, and what was on its way for it gone. -/
def State.stripped : State :=
  let t := (List.map Prod.fst s.chips).foldl (fun s c => s.takeFrames c vd fun _ => true) (s.eraseKey vd)
  { t with pkts := t.pkts.filter (fun (p : Packet) => p.vd != vd), invals := t.invals.filter (fun (i : Inval) => i.vd != vd),
           told := t.told.filter fun (x : Walker × Nat × Xlate) => !x.1.serves vd }

/-- The chips that it is left on. -/
def VDev.leftOf : List Nat := v.created.filter (· != chip)

/-- Its entry gone, or without the chip. -/
def State.parted : State :=
  if (v.leftOf chip) = [] then v.enqueueWait.foldl (fun s e => s.enqueueAnswer e 0) { s.stripped vd with vds := AMap.del (s.stripped vd).vds vd }
  else (s.stripped vd).updVd vd fun w => { w with created := v.leftOf chip, dying := false, saved := [], scratch := [], words := [],
                                                  launches := [], failing := [], aborts := [] }

/-- Its cores on the chip as after reset. -/
def State.coresFreed : State :=
  { s with cores := s.cores.map fun (x : Nat × Core) => if x.2.owner = vd ∧ keyChip x.1 = chip then (x.1, ({} : Core)) else x }

theorem State.destroy_eq : s.destroy chip slot v =
    let u := (s.parted chip (s.slotVd chip slot) v).coresFreed chip (s.slotVd chip slot)
    u.updChip chip fun c => { c with
      slots := AMap.put c.slots slot {}
      blocks := (if (u.onBlock chip (AMap.get v.base 0 chip) v.plog) = []
        then AMap.put c.blocks (blockKey v.plog (AMap.get v.base 0 chip)) .free else c.blocks) } := rfl

theorem State.stripped_vds : (s.stripped vd).vds = s.vds := (State.foldl_takeFrames_rest vd _ (s.eraseKey vd)).1
theorem State.stripped_cores : (s.stripped vd).cores = s.cores := (State.foldl_takeFrames_rest vd _ (s.eraseKey vd)).2

theorem State.stripped_unframed (n : Nat) : ((s.chip n).withoutKey vd).Unframed vd ((s.stripped vd).chip n) := by
  rw [← State.eraseKey_chip]
  exact State.foldl_takeFrames_unframed vd n _ _

theorem State.stripped_frames (h : (s.chip chip).partq ≠ []) : ∀ f ∈ ((s.stripped vd).chip chip).frames, f.2 ≠ vd :=
  State.foldl_takeFrames_gone (State.mem_chips h) vd _

theorem State.parted_chips : (s.parted chip vd v).chips = (s.stripped vd).chips := by
  unfold State.parted
  split
  · exact (State.foldl_enqueueAnswer_answering _ _).chips
  · exact State.updVd_chips _ _ _

theorem State.parted_owner (k : Nat) : ((s.parted chip vd v).core k).owner = (s.core k).owner := by
  unfold State.parted
  split
  · refine ((State.foldl_enqueueAnswer_answering _ _).owner k).trans ?_
    exact congrArg (fun m : AMap Core => (AMap.get m {} k).owner) (s.stripped_cores vd)
  · rw [State.core, State.updVd_cores, State.stripped_cores, State.core]

theorem State.parted_vdev?_none (h : v.leftOf chip = []) (hs : (s.vds.map Prod.fst).Pairwise (· < ·)) :
    (s.parted chip vd v).vdev? vd = none := by
  rw [State.parted, if_pos h, State.vdev?, (State.foldl_enqueueAnswer_answering _ _).vds]
  exact AMap.find?_del_self (by rw [State.stripped_vds]; exact hs) vd

theorem State.parted_vdev?_some (h : v.leftOf chip ≠ []) (hv : s.vdev? vd = some v) :
    ∃ w, (s.parted chip vd v).vdev? vd = some w ∧ w.created = v.leftOf chip := by
  have hw : (s.stripped vd).vdev? vd = some v := by rw [State.vdev?, State.stripped_vds]; exact hv
  rw [State.parted, if_neg h, State.vdev?_updVd, hw]
  exact ⟨_, rfl, rfl⟩

theorem State.coresFreed_core {k : Nat} (hk : keyChip k = chip) (ho : (s.core k).owner = vd) :
    (s.coresFreed chip vd).core k = {} := by
  have h : (s.coresFreed chip vd).cores = s.cores.map fun x =>
      (x.1, if x.2.owner = vd ∧ keyChip x.1 = chip then ({} : Core) else x.2) :=
    List.map_congr_left fun x _ => by split <;> rfl
  rw [State.core, AMap.get, h, AMap.find?_map fun j (c : Core) => if c.owner = vd ∧ keyChip j = chip then ({} : Core) else c]
  rw [State.core, AMap.get] at ho
  cases hf : AMap.find? s.cores k with
  | none => rfl
  | some c =>
    rw [hf] at ho
    exact if_pos ⟨ho, hk⟩

end

/-! ### The command -/

section
variable {s : State} {w : Word} {rest : List Word} (hq : (s.chip s.arg.chip).partq = w :: rest)

theorem exec_vdDestroy_idle (h : (s.chip s.arg.chip).partq = []) : exec .vdDestroy s = .next s := by
  simp only [exec, execVdDestroy, h]

include hq

theorem exec_vdDestroy_other (h : 1 ≤ (partCmd w).cmd ∧ (partCmd w).cmd ≤ 3) : exec .vdDestroy s = .next s := by
  simp only [exec, execVdDestroy, hq, if_pos h]

theorem exec_vdDestroy_refused (h : ¬ (1 ≤ (partCmd w).cmd ∧ (partCmd w).cmd ≤ 3)) (hd : s.destroyable s.arg.chip (partCmd w) = none) :
    exec .vdDestroy s = .next (s.partEnd s.arg.chip true) := by
  simp only [exec, execVdDestroy, hq, if_neg h, hd]

/-- The conditions of a DESTROY. -/
def VDev.destroyableBy (v : VDev) (chip : Nat) (p : PartCmd) : Prop :=
  p.ok = true ∧ v.running = false ∧ chip ∈ v.created ∧ v.plog = p.log ∧ AMap.get v.base 0 chip = p.base

omit hq in
theorem State.destroyable_some {chip : Nat} {p : PartCmd} {v : VDev} (hc : p.cmd = 4) (hv : s.vdev? (s.slotVd chip p.slot) = some v)
    (h : v.destroyableBy chip p) : s.destroyable chip p = some v := by
  obtain ⟨h1, h2, h3, h4, h5⟩ := h
  simp [State.destroyable, hv, hc, h1, h2, h3, h4, h5]

omit hq in
theorem State.destroyable_none {chip : Nat} {p : PartCmd}
    (h : p.cmd ≠ 4 ∨ ∀ v, s.vdev? (s.slotVd chip p.slot) = some v → ¬ v.destroyableBy chip p) : s.destroyable chip p = none := by
  unfold State.destroyable
  cases hv : s.vdev? (s.slotVd chip p.slot) with
  | none => rfl
  | some v =>
    refine if_neg fun ⟨h1, h2, h3, h4, h5, h6⟩ => h.elim (· h1) fun g => g v hv ⟨h2, ?_, ?_, h5, h6⟩
    · simpa using h3
    · simpa using h4

section
variable {v : VDev} (hc : (partCmd w).cmd = 4) (hv : s.vdev? (s.slotVd s.arg.chip (partCmd w).slot) = some v)
  (hm : v.destroyableBy s.arg.chip (partCmd w))
include hc hv hm

theorem exec_vdDestroy_begins (hd : v.dying = false) : exec .vdDestroy s =
    .next ((s.resetVd (s.slotVd s.arg.chip (partCmd w).slot) v v.chips).updVd (s.slotVd s.arg.chip (partCmd w).slot)
      fun v => { v with dying := true }) := by
  simp [exec, execVdDestroy, hq, hc, State.destroyable_some hc hv hm, hd]

theorem exec_vdDestroy_waits (hd : v.dying = true) (hr : v.reset ≠ 0) : exec .vdDestroy s = .next s := by
  simp [exec, execVdDestroy, hq, hc, State.destroyable_some hc hv hm, hd, hr]

theorem exec_vdDestroy_ends (hd : v.dying = true) (hr : v.reset = 0) : exec .vdDestroy s =
    .next ((s.destroy s.arg.chip (partCmd w).slot v).partEnd s.arg.chip false) := by
  simp [exec, execVdDestroy, hq, hc, State.destroyable_some hc hv hm, hd, hr]

theorem vdDestroy_begins (hd : v.dying = false) : ∃ t v', exec .vdDestroy s = .next t ∧
    t.vdev? (s.slotVd s.arg.chip (partCmd w).slot) = some v' ∧ v'.dying = true ∧ v'.reset = 3 ∧ v'.scope = v.chips ∧
    (t.chip s.arg.chip).partq = (s.chip s.arg.chip).partq := by
  obtain ⟨⟨x, hx, hr, hs⟩, hp⟩ := State.resetVd_begins hv v.chips
  refine ⟨_, { x with dying := true }, exec_vdDestroy_begins hq hc hv hm hd, ?_, rfl, hr, hs, ?_⟩
  · rw [State.vdev?_updVd, hx]; rfl
  · rw [State.chip, State.updVd_chips]; exact hp _

theorem vdDestroy_ends (hd : v.dying = true) (hr : v.reset = 0) :
    let vd := s.slotVd s.arg.chip (partCmd w).slot
    ∃ t, exec .vdDestroy s = .next t ∧ s.Ended t false ∧ (∀ f ∈ (t.chip s.arg.chip).frames, f.2 ≠ vd) ∧
      (∀ k ∈ (t.chip s.arg.chip).keys, k ≠ vd) ∧ AMap.find? (t.chip s.arg.chip).slots (partCmd w).slot = some {} ∧
      (∀ k, keyChip k = s.arg.chip → (s.core k).owner = vd → t.core k = {}) ∧
      ((s.vds.map Prod.fst).Pairwise (· < ·) → (∀ c ∈ v.created, c = s.arg.chip) → t.vdev? vd = none) ∧
      ((∃ c ∈ v.created, c ≠ s.arg.chip) → ∃ v', t.vdev? vd = some v' ∧ v'.created = v.created.filter (· != s.arg.chip)) := by
  intro vd
  let y := (s.parted s.arg.chip vd v).coresFreed s.arg.chip vd
  have hchip : (s.destroy s.arg.chip (partCmd w).slot v).chip s.arg.chip = { (s.stripped vd).chip s.arg.chip with
      slots := AMap.put ((s.stripped vd).chip s.arg.chip).slots (partCmd w).slot {}
      blocks := ((s.destroy s.arg.chip (partCmd w).slot v).chip s.arg.chip).blocks } := by
    have hy : y.chip s.arg.chip = (s.stripped vd).chip s.arg.chip :=
      congrArg (fun m : AMap Chip => AMap.get m {} s.arg.chip) (s.parted_chips s.arg.chip vd v)
    rw [State.destroy_eq, State.chip_updChip, ← hy]
  have hu := s.stripped_unframed vd s.arg.chip
  have hvdev : ∀ n, ((s.destroy s.arg.chip (partCmd w).slot v).partEnd s.arg.chip false).vdev? n =
      (s.parted s.arg.chip vd v).vdev? n := fun _ => rfl
  refine ⟨_, exec_vdDestroy_ends hq hc hv hm hd hr, State.partEnd_ended ?_ ?_ false, ?_, ?_, ?_, fun k hk ho => ?_, fun hs ha => ?_,
    fun ⟨c, hcm, hne⟩ => ?_⟩
  · rw [hchip]; exact (congrArg Chip.partq hu.rest :)
  · rw [hchip]; exact (congrArg Chip.partDone hu.rest :)
  · rw [State.partEnd_chip, hchip]
    exact s.stripped_frames s.arg.chip vd (by rw [hq]; exact List.cons_ne_nil _ _)
  · rw [State.partEnd_chip, hchip]
    have hk : ((s.stripped vd).chip s.arg.chip).keys = (s.chip s.arg.chip).keys.filter (· != vd) := (congrArg Chip.keys hu.rest :)
    dsimp only
    rw [hk]
    exact fun k h => by simpa using (List.mem_filter.1 h).2
  · rw [State.partEnd_chip, hchip]; exact AMap.find?_put_self ..
  · refine (s.parted s.arg.chip vd v).coresFreed_core _ _ hk ?_
    rw [State.parted_owner]; exact ho
  · rw [hvdev]
    exact s.parted_vdev?_none _ _ _ (List.filter_eq_nil_iff.2 fun c h => by simpa using ha c h) hs
  · rw [hvdev]
    exact s.parted_vdev?_some _ _ _ (fun h => List.filter_eq_nil_iff.1 h c hcm (by simpa using hne)) hv

end

end

end Sys2Proof.Machine
end

section
/-! Supervisor space (R465 to R472): RTSWAP, group entries, DISPINIT, register writes and reads, and the host's runs of words (R478). -/

namespace Sys2Proof.Machine

/-! ### Routing tables, group entries and DISPINIT -/

/-- A package whose shadow is in force. -/
def State.swapped (s : State) (c : Chip) : Chip :=
  { c with table := AMap.put c.shadow s.arg.chip 0, lag := some (s.now, s.free, c.table), swaps := (c.swaps + 1) % 2 ^ 32 }

theorem State.rtswap_chip (s : State) : (s.rtswap s.arg.chip).chip s.arg.chip = s.swapped (s.chip s.arg.chip) :=
  State.chip_updChip ..

theorem State.groupWrite_groups (s : State) (chip g : Nat) (w : Word) : ((s.groupWrite chip g w).chip chip).groups =
    AMap.put (s.chip chip).groups g (w :: (AMap.get (s.chip chip).stage (s.groupEntry chip g) g).tail) := by
  rw [State.groupWrite, State.chip_updChip]
  exact congrArg Chip.groups (State.chip_updChip ..)

theorem State.groupWrite_self (s : State) (chip g : Nat) (w : Word) : (s.groupWrite chip g w).groupEntry chip g =
    w :: (AMap.get (s.chip chip).stage (s.groupEntry chip g) g).tail := by
  rw [State.groupEntry, State.groupWrite_groups, AMap.get_put_self]
theorem State.groupWrite_other (s : State) (chip : Nat) {g j : Nat} (h : j ≠ g) (w : Word) :
    (s.groupWrite chip g w).groupEntry chip j = s.groupEntry chip j := by
  rw [State.groupEntry, State.groupWrite_groups, AMap.get_put_ne _ _ _ h, State.groupEntry]

section
variable {s : State} {chip slot : Nat} {w : Word}

/-- A word that is a table's base. -/
def goodBase (w : Word) : Prop := w.toNat / 2 ^ 56 = 0 ∧ w.toNat % 2 ^ 12 = 0

theorem State.dispinit_bad (h : ¬ goodBase w) : s.dispinit chip slot w = none :=
  if_pos (by unfold goodBase at h; tauto)

theorem State.dispinit_running {v : VDev} (hv : s.vdev? (s.slotVd chip slot) = some v) (hr : v.running = true) :
    s.dispinit chip slot w = none := by
  rw [State.slotVd] at hv
  simp only [State.dispinit, hv, hr, if_true, ite_self]

theorem not_or_of_goodBase (h : goodBase w) : ¬ (w.toNat / 2 ^ 56 ≠ 0 ∨ w.toNat % 2 ^ 12 ≠ 0) := by
  obtain ⟨h1, h2⟩ := h
  tauto

theorem State.dispinit_none (h : goodBase w) (hv : s.vdev? (s.slotVd chip slot) = none) :
    s.dispinit chip slot w = some (s.updSlot chip slot fun x => { x with dispinit := w }) := by
  rw [State.slotVd] at hv
  simp only [State.dispinit, if_neg (not_or_of_goodBase h), hv]

/-- The cores of a virtual device on a chip, each with the value of DISPINIT. -/
def State.dispTaken (s : State) (chip vd : Nat) (w : Word) (ks : List (Nat × Nat)) : State :=
  ks.foldl (fun s n => if keyChip n.2 = chip ∧ (s.core n.2).owner = vd then s.updCore n.2 fun c => c.takeDispbase w else s) s

/-- The slot and the saved contexts with the value of DISPINIT. -/
def State.dispSaved (s : State) (chip slot : Nat) (w : Word) : State :=
  (s.updSlot chip slot fun x => { x with dispinit := w }).updVd (s.slotVd chip slot) fun v => { v with
    saved := v.saved.map fun (y : Nat × Core) => if (v.place (y.1 / 8)).1 = chip then (y.1, y.2.takeDispbase w) else y }

theorem State.dispinit_some (h : goodBase w) {v : VDev} (hv : s.vdev? (s.slotVd chip slot) = some v) (hr : v.running = false) :
    s.dispinit chip slot w = some ((s.dispSaved chip slot w).dispTaken chip (s.slotVd chip slot) w
      ((s.dispSaved chip slot w).vdKeys v)) := by
  rw [State.slotVd] at hv
  simp only [State.dispinit, if_neg (not_or_of_goodBase h), hv, hr, Bool.false_eq_true, if_false]
  rfl

theorem State.dispTaken_chips (vd : Nat) (ks : List (Nat × Nat)) (s : State) : (s.dispTaken chip vd w ks).chips = s.chips := by
  induction ks generalizing s with
  | nil => rfl
  | cons n ks ih =>
    refine (ih _).trans ?_
    dsimp only
    split <;> rfl

/-- A core that has taken the value keeps it, and its owner. -/
theorem State.dispTaken_keeps (vd : Nat) {k : Nat} (ks : List (Nat × Nat)) {s : State} (hb : (s.core k).dispbase = w) :
    ((s.dispTaken chip vd w ks).core k).dispbase = w := by
  induction ks generalizing s with
  | nil => exact hb
  | cons n ks ih =>
    refine ih ?_
    dsimp only
    split
    · by_cases hk : k = n.2
      · rw [hk, State.core_updCore]; rfl
      · rw [State.core_updCore_ne s _ hk]; exact hb
    · exact hb

theorem State.dispTaken_takes {vd k : Nat} (hk : keyChip k = chip) {ks : List (Nat × Nat)} (hm : k ∈ ks.map Prod.snd) {s : State}
    (ho : (s.core k).owner = vd) : ((s.dispTaken chip vd w ks).core k).dispbase = w := by
  induction ks generalizing s with
  | nil => cases hm
  | cons n ks ih =>
    by_cases hn : k = n.2
    · refine State.dispTaken_keeps vd ks ?_
      dsimp only
      rw [if_pos ⟨hn ▸ hk, hn ▸ ho⟩, ← hn, State.core_updCore]
      rfl
    · refine ih ((List.mem_cons.1 hm).resolve_left hn) ?_
      dsimp only
      split
      · rw [State.core_updCore_ne s _ hn]; exact ho
      · exact ho

theorem State.updSlot_slot (s : State) (chip slot : Nat) (f : VdSlot → VdSlot) :
    AMap.get ((s.updSlot chip slot f).chip chip).slots {} slot = f (AMap.get (s.chip chip).slots {} slot) := by
  rw [State.updSlot, State.chip_updChip, AMap.get_put_self]

theorem State.dispTaken_slot (v : VDev) (ks : List (Nat × Nat)) :
    (AMap.get (((s.dispSaved chip slot w).dispTaken chip (s.slotVd chip slot) w ks).chip chip).slots {} slot).dispinit = w := by
  rw [State.chip, State.dispTaken_chips, State.dispSaved, State.updVd_chips, ← State.chip, State.updSlot_slot]

theorem State.dispTaken_core {v : VDev} {n : Nat} (hn : n < v.cores) (hk : keyChip (s.vdCoreKey v n) = chip)
    (ho : (s.core (s.vdCoreKey v n)).owner = s.slotVd chip slot) :
    (((s.dispSaved chip slot w).dispTaken chip (s.slotVd chip slot) w ((s.dispSaved chip slot w).vdKeys v)).core
      (s.vdCoreKey v n)).dispbase = w := by
  have hclu : (s.dispSaved chip slot w).clus = s.clus := State.updVd_clus _ _ _
  have hkeys : (s.dispSaved chip slot w).vdKeys v = s.vdKeys v := by
    simp only [State.vdKeys, State.vdCoreKey, State.clu, hclu]
  have hcores : (s.dispSaved chip slot w).cores = s.cores := State.updVd_cores _ _ _
  refine State.dispTaken_takes hk ?_ (by rw [State.core, hcores]; exact ho)
  rw [hkeys]
  exact List.mem_map.2 ⟨(n, s.vdCoreKey v n), mem_tab.2 ⟨n, hn, rfl⟩, rfl⟩

end

/-! ### The hypervisor's register writes (R465) -/

section
variable {s : State}

/-- The write at `off` raises no cause and leaves the package as `c`. -/
def State.SupWrites (s : State) (off : Nat) (c : Chip) : Prop :=
  s.arg.value = 8 → s.arg.addr = off → ∃ t, exec .supervisorRegisterWrite s = .next t ∧
    t.chip s.arg.chip = { c with supCause := none } ∧ t.mem = s.mem ∧ t.cores = s.cores ∧ t.vds = s.vds

/-- The write changes nothing and raises ACCESS. -/
def State.SupDenied (s : State) : Prop :=
  exec .supervisorRegisterWrite s = .next (s.updChip s.arg.chip fun c => { c with supCause := some Cause.access })
def State.SupIgnores (s : State) (off : Nat) : Prop := s.arg.value = 8 → s.arg.addr = off → s.SupDenied

/-- The word written, where it is all of a word. -/
def State.supWord (s : State) : Word := s.arg.words.headD 0

/-- A write of the `n` low bytes at an offset. -/
theorem exec_supervisorRegisterWrite_narrow (hn : s.arg.value ∈ [1, 2, 4, 8]) (ha : s.arg.addr % s.arg.value = 0) {w : Word}
    (hw : ((s.supRead s.arg.chip (s.arg.addr / 8 * 8)).2 &&& ~~~(BitVec.ofNat 64 ((2 ^ (8 * s.arg.value) - 1) * 2 ^ (8 * (s.arg.addr % 8))))) |||
      ((s.supWord <<< (8 * (s.arg.addr % 8))) &&& BitVec.ofNat 64 ((2 ^ (8 * s.arg.value) - 1) * 2 ^ (8 * (s.arg.addr % 8)))) = w) :
    exec .supervisorRegisterWrite s = .next (match s.supWrite s.arg.chip (s.arg.addr / 8 * 8) w with
      | some t => t.updChip s.arg.chip fun c => { c with supCause := none }
      | none => s.updChip s.arg.chip fun c => { c with supCause := some Cause.access }) := by
  subst hw
  have : ¬ ((!([1, 2, 4, 8].contains s.arg.value)) = true ∨ s.arg.addr % s.arg.value ≠ 0) := by
    simp only [List.contains_eq_mem, decide_eq_true hn, Bool.not_true, Bool.false_eq_true, false_or, not_not]
    exact ha
  exact congrArg Host.Outcome.next (if_neg this)

theorem exec_supervisorRegisterWrite_denied (h : s.arg.addr % s.arg.value ≠ 0 ∨ s.arg.value ∉ [1, 2, 4, 8]) : s.SupDenied := by
  refine congrArg Host.Outcome.next (if_pos ?_)
  simpa only [List.contains_eq_mem, Bool.not_eq_true', decide_eq_false_iff_not] using h.symm

/-- A write of a whole word. -/
theorem exec_supervisorRegisterWrite {off : Nat} (hn : s.arg.value = 8) (ha : s.arg.addr = off) (h8 : off % 8 = 0) :
    exec .supervisorRegisterWrite s = .next (match s.supWrite s.arg.chip off s.supWord with
      | some t => t.updChip s.arg.chip fun c => { c with supCause := none }
      | none => s.updChip s.arg.chip fun c => { c with supCause := some Cause.access }) := by
  subst ha
  have hb : s.arg.addr / 8 * 8 = s.arg.addr := by omega
  have := exec_supervisorRegisterWrite_narrow (s := s) (w := s.supWord) (by simp [hn]) (by rw [hn]; exact h8) (by
    rw [hn, h8]
    generalize (s.supRead s.arg.chip _).2 = x
    show (x &&& ~~~(BitVec.allOnes 64)) ||| ((s.supWord <<< 0) &&& BitVec.allOnes 64) = s.supWord
    simp only [BitVec.shiftLeft_zero, BitVec.and_allOnes, BitVec.not_allOnes, BitVec.and_zero, BitVec.zero_or])
  rwa [hb] at this

/-- A whole word accepted, by a change of the package alone. -/
theorem State.supWrites_of {off : Nat} {f : Chip → Chip} (h8 : off % 8 = 0)
    (h : s.supWrite s.arg.chip off s.supWord = some (s.updChip s.arg.chip f)) : s.SupWrites off (f (s.chip s.arg.chip)) := by
  intro hn ha
  refine ⟨_, exec_supervisorRegisterWrite hn ha h8, ?_⟩
  rw [h]
  dsimp only
  refine ⟨?_, rfl, rfl, rfl⟩
  rw [State.chip_updChip, State.chip_updChip]

theorem State.supIgnores_of {off : Nat} (h8 : off % 8 = 0) (h : s.supWrite s.arg.chip off s.supWord = none) : s.SupIgnores off := by
  intro hn ha
  have he := exec_supervisorRegisterWrite hn ha h8
  rw [h] at he
  exact he

/-! #### The registers of a package (R466 to R468) -/

theorem State.supWrite_register {off : Nat} (h : off < 0x1000) (chip : Nat) (w : Word) : s.supWrite chip off w = s.chipWrite chip off w :=
  if_pos h

theorem supWrites_register {off : Nat} (ho : off < 0x1000) (h8 : off % 8 = 0) {f : Chip → Chip}
    (h : s.chipWrite s.arg.chip off s.supWord = some (s.updChip s.arg.chip f)) : s.SupWrites off (f (s.chip s.arg.chip)) :=
  State.supWrites_of h8 ((State.supWrite_register ho _ _).trans h)

theorem supIgnores_register {off : Nat} (ho : off < 0x1000) (h8 : off % 8 = 0) (h : s.chipWrite s.arg.chip off s.supWord = none) :
    s.SupIgnores off := State.supIgnores_of h8 ((State.supWrite_register ho _ _).trans h)

theorem supWrites_rtswap (h : s.supWord = 1) : s.SupWrites 0x020 (s.swapped (s.chip s.arg.chip)) := by
  intro hn ha
  refine ⟨_, exec_supervisorRegisterWrite hn ha (by decide), ?_⟩
  have hw : s.supWrite s.arg.chip 0x020 s.supWord = some (s.rtswap s.arg.chip) := if_pos h
  rw [hw]
  refine ⟨?_, rfl, rfl, rfl⟩
  rw [State.chip_updChip, State.rtswap_chip]

theorem supIgnores_rtswap (h : s.supWord ≠ 1) : s.SupIgnores 0x020 := State.supIgnores_of (by decide) (if_neg h)

theorem supWrites_evbase (h1 : fld s.supWord.toNat 56 8 = 0) (h2 : fld s.supWord.toNat 5 7 = 0) :
    s.SupWrites 0x028 { s.chip s.arg.chip with evbase := s.supWord } :=
  State.supWrites_of (by decide) (f := fun c => { c with evbase := s.supWord }) (if_neg (not_or.2 ⟨not_not.2 h1, not_not.2 h2⟩))

theorem supIgnores_evbase (h : fld s.supWord.toNat 56 8 ≠ 0 ∨ fld s.supWord.toNat 5 7 ≠ 0) : s.SupIgnores 0x028 :=
  State.supIgnores_of (by decide) (if_pos h)

theorem supIgnores_partcmd (h : fld s.supWord.toNat 0 32 ≠ 0) : s.SupIgnores 0x008 := State.supIgnores_of (by decide) (if_pos h)

theorem supWrites_partcmd (h : fld s.supWord.toNat 0 32 = 0) (hf : (s.chip s.arg.chip).partq.length < 16) :
    s.SupWrites 0x008 { s.chip s.arg.chip with partq := (s.chip s.arg.chip).partq ++ [s.supWord] } :=
  State.supWrites_of (by decide) (f := fun c => { c with partq := c.partq ++ [s.supWord] })
    ((if_neg (not_not.2 h)).trans (if_neg (Nat.not_le.2 hf)))

theorem supWrites_partcmd_full (h : fld s.supWord.toNat 0 32 = 0) (hf : ¬ (s.chip s.arg.chip).partq.length < 16) :
    s.SupWrites 0x008 { s.chip s.arg.chip with partRef := true } :=
  State.supWrites_of (by decide) (f := fun c => { c with partRef := true })
    ((if_neg (not_not.2 h)).trans (if_pos (Nat.not_lt.1 hf)))

/-- A write of the shadow's entry for a chip. -/
theorem State.supWrite_shadow (chip : Nat) {c : Nat} (hc : c < 512) (w : Word) : s.supWrite chip (0x1000 + 8 * c) w =
    if w.toNat / 2 ^ 12 ≠ 0 then none
    else some (s.updChip chip fun d => { d with shadow := AMap.put d.shadow c (if c = chip then 0 else w) }) := by
  have h : (0x1000 + 8 * c - 0x1000) / 8 = c := by omega
  rw [State.supWrite, if_neg (by omega), if_pos (by omega), h]

theorem supWrites_shadow {c : Nat} (hc : c < 512) (h : s.supWord.toNat < 2 ^ 12) : s.SupWrites (0x1000 + 8 * c)
    { s.chip s.arg.chip with shadow := AMap.put (s.chip s.arg.chip).shadow c (if c = s.arg.chip then 0 else s.supWord) } := by
  refine State.supWrites_of (by omega) (f := fun d => { d with shadow := AMap.put d.shadow c (if c = s.arg.chip then 0 else s.supWord) }) ?_
  rw [State.supWrite_shadow _ hc, if_neg (by omega)]

theorem supIgnores_shadow {c : Nat} (hc : c < 512) (h : 2 ^ 12 ≤ s.supWord.toNat) : s.SupIgnores (0x1000 + 8 * c) := by
  refine State.supIgnores_of (by omega) ?_
  rw [State.supWrite_shadow _ hc, if_pos (by omega)]

/-! #### The registers of a slot (R469, R470) -/

/-- A package with a slot changed. -/
def Chip.putSlot (c : Chip) (slot : Nat) (y : VdSlot) : Chip := { c with slots := AMap.put c.slots slot y }

/-- Where a slot's registers begin. -/
def slotBase (slot : Nat) : Nat := 0x1000000 + 0x2000 * slot

theorem State.supWrite_slot (chip : Nat) {slot o : Nat} (hs : slot < 2 ^ 14) (ho : o < 0x2000) (w : Word) :
    s.supWrite chip (slotBase slot + o) w = s.slotWrite chip slot o w := by
  have h1 : (slotBase slot + o - 0x1000000) / 0x2000 = slot := by unfold slotBase; omega
  have h2 : (slotBase slot + o - 0x1000000) % 0x2000 = o := by unfold slotBase; omega
  rw [State.supWrite, h1, h2]
  unfold slotBase
  rw [if_neg (by omega), if_neg (by omega), if_neg (by omega), if_pos (by omega)]

variable {slot : Nat} (hs : slot < 2 ^ 14)
include hs

theorem supWrites_slot {o : Nat} (ho : o < 0x2000) (h8 : o % 8 = 0) {f : VdSlot → VdSlot}
    (h : s.slotWrite s.arg.chip slot o s.supWord = some (s.updSlot s.arg.chip slot f)) : s.SupWrites (slotBase slot + o)
      ((s.chip s.arg.chip).putSlot slot (f (s.slotAt slot))) := by
  refine State.supWrites_of (by unfold slotBase; omega) (f := fun c => c.putSlot slot (f (AMap.get c.slots {} slot))) ?_
  rw [State.supWrite_slot _ hs ho]
  exact h

theorem supIgnores_slot {o : Nat} (ho : o < 0x2000) (h8 : o % 8 = 0) (h : s.slotWrite s.arg.chip slot o s.supWord = none) :
    s.SupIgnores (slotBase slot + o) :=
  State.supIgnores_of (by unfold slotBase; omega) ((State.supWrite_slot _ hs ho _).trans h)

omit hs in
theorem State.slotWrite_desc {i : Nat} (hi : i < 4) (chip : Nat) (w : Word) : s.slotWrite chip slot (8 * i) w =
    if (AMap.get (s.chip chip).slots {} slot).vd ≠ 0 then none
    else some (s.updSlot chip slot fun x => { x with desc := x.desc.set i w }) := by
  have h : 8 * i / 8 = i := by omega
  simp only [State.slotWrite, if_pos (show 8 * i < 0x20 by omega), h]

theorem supWrites_desc {i : Nat} (hi : i < 4) (hv : (s.slotAt slot).vd = 0) : s.SupWrites (slotBase slot + 8 * i)
    ((s.chip s.arg.chip).putSlot slot { s.slotAt slot with desc := (s.slotAt slot).desc.set i s.supWord }) := by
  refine supWrites_slot hs (by omega) (by omega) (f := fun x => { x with desc := x.desc.set i s.supWord }) ?_
  exact (State.slotWrite_desc hi _ _).trans (if_neg (not_not.2 hv))

theorem supIgnores_desc {i : Nat} (hi : i < 4) (hv : (s.slotAt slot).vd ≠ 0) : s.SupIgnores (slotBase slot + 8 * i) :=
  supIgnores_slot hs (by omega) (by omega) ((State.slotWrite_desc hi _ _).trans (if_pos hv))

theorem supWrites_cmdarg (h1 : s.supWord.toNat < 2 ^ 18) (h2 : fld s.supWord.toNat 14 2 = 0) : s.SupWrites (slotBase slot + 0x40)
    ((s.chip s.arg.chip).putSlot slot { s.slotAt slot with cmdarg := s.supWord }) :=
  supWrites_slot hs (by decide) (by decide) (f := fun x => { x with cmdarg := s.supWord }) (if_neg (not_or.2 ⟨not_not.2 (Nat.div_eq_of_lt h1), not_not.2 h2⟩))

theorem supWrites_tracecfg (h1 : fld s.supWord.toNat 56 7 = 0) (h2 : fld s.supWord.toNat 0 23 = 0) : s.SupWrites (slotBase slot + 0x50)
    ((s.chip s.arg.chip).putSlot slot { s.slotAt slot with tracecfg := s.supWord }) :=
  supWrites_slot hs (by decide) (by decide) (f := fun x => { x with tracecfg := s.supWord }) (if_neg (not_or.2 ⟨not_not.2 h1, not_not.2 h2⟩))

theorem supIgnores_tracecfg (h : fld s.supWord.toNat 56 7 ≠ 0 ∨ fld s.supWord.toNat 0 23 ≠ 0) : s.SupIgnores (slotBase slot + 0x50) :=
  supIgnores_slot hs (by decide) (by decide) (if_pos h)

theorem supIgnores_grants {i : Nat} (hi : i < 16) {v : VDev} (hv : s.vdev? (s.slotAt slot).vd = some v) (hr : v.running = true) :
    s.SupIgnores (slotBase slot + 0x200 + 8 * i) := by
  rw [Nat.add_assoc]
  refine supIgnores_slot hs (by omega) (by omega) ?_
  rw [State.slotAt] at hv
  simp only [State.slotWrite, hv, Option.map_some, Option.getD_some, hr, if_true]
  rw [if_neg (by omega), if_neg (by omega), if_neg (by omega), if_neg (by omega), if_neg (by omega), if_neg (by omega), if_neg (by omega),
    if_neg (by omega), if_neg (by omega), if_pos (by omega)]

end

/-- The upper half of EVHEAD written. -/
theorem supWrites_evhead_high {s : State} (hn : s.arg.value = 4) (ha : s.arg.addr = 0x034) :
    ∃ t, exec .supervisorRegisterWrite s = .next t ∧ t.chip s.arg.chip = { s.chip s.arg.chip with
      evhead := ((s.chip s.arg.chip).evhead &&& 0xFFFFFFFF) ||| (s.supWord <<< 32), supCause := none } ∧ t.mem = s.mem ∧
      t.cores = s.cores := by
  have hbits : ∀ x y : Word, (x &&& ~~~0xFFFFFFFF00000000#64) ||| ((y <<< 32) &&& 0xFFFFFFFF00000000#64) =
      (x &&& 0xFFFFFFFF#64) ||| (y <<< 32) := fun x y => by
    rw [show ~~~0xFFFFFFFF00000000#64 = 0xFFFFFFFF#64 by decide, show 0xFFFFFFFF00000000#64 = BitVec.allOnes 64 <<< 32 by decide,
      ← BitVec.shiftLeft_and_distrib, BitVec.and_allOnes]
  have he := exec_supervisorRegisterWrite_narrow (s := s)
    (w := ((s.chip s.arg.chip).evhead &&& 0xFFFFFFFF) ||| (s.supWord <<< 32)) (by simp [hn]) (by rw [hn, ha]) (by
      rw [hn, ha]
      exact hbits _ _)
  rw [ha] at he
  refine ⟨_, he, ?_, rfl, rfl⟩
  exact (State.chip_updChip ..).trans (by rw [State.chip_updChip])

/-! ### Inspection windows (R472) -/

theorem State.supRead_inspects (s : State) (chip : Nat) {off : Nat} (h1 : 0x10000000 ≤ off) (h2 : off < 0x12400000) :
    s.supRead chip off = if (s.core (windowCore chip ((off - 0x10000000) / 0x1000))).inspected
      then (0, (s.core (windowCore chip ((off - 0x10000000) / 0x1000))).inspect (off % 0x1000)) else (1, 0) := by
  have a1 : ¬ off < 0x1000 := by omega
  have a2 : ¬ off < 0x2000 := by omega
  have a3 : ¬ (0x10000 ≤ off ∧ off < 0x20000) := by omega
  have a4 : ¬ (0x1000000 ≤ off ∧ off < 0x9000000) := by omega
  unfold State.supRead
  exact (if_neg a1).trans ((if_neg a2).trans ((if_neg a3).trans ((if_neg a4).trans (if_pos ⟨h1, h2⟩))))

/-- Where a word of a core's window lies. -/
def windowAt (w o : Nat) : Nat := 0x10000000 + 0x1000 * w + o

theorem State.supRead_window (s : State) (chip : Nat) {w o : Nat} (hw : w < 9216) (ho : o < 0x1000) :
    s.supRead chip (windowAt w o) = if (s.core (windowCore chip w)).inspected
      then (0, (s.core (windowCore chip w)).inspect o) else (1, 0) := by
  have h1 : (windowAt w o - 0x10000000) / 0x1000 = w := by unfold windowAt; omega
  have h2 : windowAt w o % 0x1000 = o := by unfold windowAt; omega
  have h := s.supRead_inspects chip (off := windowAt w o) (by unfold windowAt; omega) (by unfold windowAt; omega)
  rwa [h1, h2] at h

/-! ### The host's runs of words (R478) -/

section
variable {s : State}

/-- What a read of supervisor space answers and leaves unchanged. -/
theorem supervisorSpaceRead_refused (h : s.takesMgmt 1 0x1FFF#56) (hr : supRun s.arg.addr (fld (s.arg.words.headD 0).toNat 0 13) = false) :
    exec .supervisorSpaceRead s = .next s.denied := by
  simp only [exec, execSupervisorSpaceRead, State.mgmtRequest_taken h]
  exact congrArg Host.Outcome.next (if_pos (by rw [show s.linked.arg = s.arg from rfl, hr]; rfl))

theorem State.supRead_linked (s : State) (chip off : Nat) : s.linked.supRead chip off = s.supRead chip off := by
  have hchip : s.linked.chip = s.chip := rfl
  have hcore : s.linked.core = s.core := rfl
  have hslot : s.linked.slotRead = s.slotRead := rfl
  have hentry : s.linked.groupEntry = s.groupEntry := rfl
  unfold State.supRead
  rw [hchip, hcore, hslot, hentry]

/-- A run of one word. -/
theorem State.supReadRun_one (s : State) (chip off : Nat) : s.supReadRun chip 1 off 0 [] =
    ((s.supRead chip off).1, if (s.supRead chip off).1 ≤ 1 then [(s.supRead chip off).2] else []) := by
  rw [State.supReadRun]
  split
  next w h => rw [h]; rfl
  next w h => rw [h]; rfl
  next e w h0 h1 h =>
    have h2 : ¬ e ≤ 1 := fun hle => by
      obtain rfl | rfl : e = 0 ∨ e = 1 := by omega
      exacts [h0 rfl, h1 rfl]
    rw [h]
    exact congrArg (Prod.mk e) (if_neg h2).symm

/-- What a read of one word answers. -/
def readWords (r : Nat × Word) : List Word := if r.1 ≤ 1 then [r.2] else []

theorem State.supReadRun_linked (s : State) : s.linked.supReadRun s.arg.chip 1 (s.arg.addr - supBase) 0 [] =
    ((s.supRead s.arg.chip (s.arg.addr - supBase)).1, readWords (s.supRead s.arg.chip (s.arg.addr - supBase))) := by
  generalize s.arg.addr - supBase = off
  rw [State.supReadRun_one, State.supRead_linked]
  rfl

theorem exec_supervisorSpaceRead_one (h : s.takesMgmt 1 0x1FFF#56)
    (hr : supRun s.arg.addr (fld (s.arg.words.headD 0).toNat 0 13) = true) (hn : fld (s.arg.words.headD 0).toNat 0 13 = 8) :
    exec .supervisorSpaceRead s = .next (s.linked.hostAnswer (s.header opMgmt) (s.supRead s.arg.chip (s.arg.addr - supBase)).1
      (readWords (s.supRead s.arg.chip (s.arg.addr - supBase))) []) := by
  show execSupervisorSpaceRead s = _
  unfold execSupervisorSpaceRead
  rw [State.mgmtRequest_taken h]
  refine congrArg Host.Outcome.next ((if_neg ?_).trans ?_)
  · rw [show s.linked.arg = s.arg from rfl, hr]; decide
  · rw [show s.linked.arg = s.arg from rfl, hn, show 8 / 8 = 1 from rfl, State.supReadRun_linked]

theorem supervisorSpaceWrite_refused (h : s.takesMgmt 2 0#56) (hr : supRun s.arg.addr (8 * s.arg.words.tail.length) = false) :
    exec .supervisorSpaceWrite s = .next s.denied := by
  simp only [exec, execSupervisorSpaceWrite, State.mgmtRequest_taken h]
  exact congrArg Host.Outcome.next (if_pos (by rw [show s.linked.arg = s.arg from rfl, hr]; rfl))

theorem exec_supervisorSpaceWrite_one (h : s.takesMgmt 2 0#56) {w : Word} (hw : s.arg.words.tail = [w]) {off : Nat}
    (ha : s.arg.addr = supBase + off) (h8 : off % 8 = 0) (ho : off < 0x1000) : exec .supervisorSpaceWrite s =
      .next (match s.linked.chipWrite s.arg.chip off w with
        | some t => t.hostAnswer (s.header opMgmt) 0 [] []
        | none => s.denied) := by
  simp only [exec, execSupervisorSpaceWrite, State.mgmtRequest_taken h]
  refine congrArg Host.Outcome.next ((if_neg ?_).trans ?_)
  · rw [show s.linked.arg = s.arg from rfl, hw, ha]
    simp only [supRun, List.length_singleton, Bool.not_eq_true', decide_eq_false_iff_not, not_not]
    unfold supBase
    exact ⟨by omega, trivial, by decide, by decide, by omega, by omega⟩
  · rw [show s.linked.arg = s.arg from rfl, hw, ha, Nat.add_sub_cancel_left, State.supWriteRun]
    rw [State.supWrite_register ho]
    cases s.linked.chipWrite s.arg.chip off w <;> rfl

end

end Sys2Proof.Machine
end

section
/-! The partition commands and supervisor space (R102, R449 to R452, R465 to R470, R478). -/

namespace Sys2Proof.Machine

section
variable {s : State}

theorem vdDestroy_refused {w : Word} {rest : List Word} (hq : (s.chip s.arg.chip).partq = w :: rest)
    (h : ¬ (1 ≤ (partCmd w).cmd ∧ (partCmd w).cmd ≤ 3)) (hd : s.destroyable s.arg.chip (partCmd w) = none) : s.TurnedAway .vdDestroy :=
  State.turnedAway_of_exec (exec_vdDestroy_refused hq h hd)

theorem partCommand_refused {i : Instr} {cmd : Nat} {p : PartCmd} (hi : (i, cmd) ∈ [(Instr.partSplit, 1), (.partMerge, 2), (.vdCreate, 3)])
    (h : s.partHead s.arg.chip cmd = some p) (hk : p.ok = false) : s.TurnedAway i := by
  obtain ⟨f, hf⟩ := exec_partCommand (s := s) hi
  exact State.turnedAway_of_exec (hf.trans (State.partRun_refused h fun hok => by rw [hk] at hok; cases hok))

/-- What DISPINIT does with a good value for a virtual device that does not run. -/
theorem dispinit_takes (h : goodBase s.supWord) {v : VDev} (hv : s.vdev? (s.slotVd s.arg.chip s.arg.index) = some v) (hr : v.running = false) :
    ∃ t, exec .dispinit s = .next t ∧ (AMap.get (t.chip s.arg.chip).slots {} s.arg.index).dispinit = s.supWord ∧
      ∀ n, n < v.cores → keyChip (s.vdCoreKey v n) = s.arg.chip → (s.core (s.vdCoreKey v n)).owner = s.slotVd s.arg.chip s.arg.index →
        (t.core (s.vdCoreKey v n)).dispbase = s.supWord :=
  ⟨_, congrArg (fun o => Host.Outcome.next (Option.getD o s)) (State.dispinit_some h hv hr), State.dispTaken_slot v _,
    fun _ hn hk ho => State.dispTaken_core hn hk ho⟩

theorem dispinit_slot (h : goodBase s.supWord) (hv : s.vdev? (s.slotVd s.arg.chip s.arg.index) = none) :
    ∃ t, exec .dispinit s = .next t ∧ (AMap.get (t.chip s.arg.chip).slots {} s.arg.index).dispinit = s.supWord ∧ t.mem = s.mem ∧
      t.cores = s.cores := by
  refine ⟨s.updSlot s.arg.chip s.arg.index fun x => { x with dispinit := s.supWord }, ?_, ?_, rfl, rfl⟩
  · exact congrArg (fun o => Host.Outcome.next (Option.getD o s)) (State.dispinit_none h hv)
  · rw [State.updSlot_slot]

theorem exec_dispinit_none (h : s.dispinit s.arg.chip s.arg.index s.supWord = none) : exec .dispinit s = .next s :=
  congrArg (fun o => Host.Outcome.next (Option.getD o s)) h

/-- The registers of a slot. -/
theorem supWrites_slots (slot : Nat) (hs : slot < 2 ^ 14) :
    let x := s.slotAt slot
    let w := s.supWord
    let sets := fun (o : Nat) (y : VdSlot) => s.SupWrites (slotBase slot + o)
      ((s.chip s.arg.chip).putSlot slot y)
    (∀ i, i < 4 → (x.vd = 0 → sets (8 * i) { x with desc := x.desc.set i w }) ∧ (x.vd ≠ 0 → s.SupIgnores (slotBase slot + 8 * i))) ∧
    (w.toNat < 2 ^ 18 → fld w.toNat 14 2 = 0 → sets 0x40 { x with cmdarg := w }) ∧
    (fld w.toNat 56 7 = 0 → fld w.toNat 0 23 = 0 → sets 0x50 { x with tracecfg := w }) ∧
    (fld w.toNat 56 7 ≠ 0 ∨ fld w.toNat 0 23 ≠ 0 → s.SupIgnores (slotBase slot + 0x50)) ∧
    s.SupIgnores (slotBase slot + 0x30) ∧ s.SupIgnores (slotBase slot + 0x58) ∧
    (∀ v i, s.vdev? x.vd = some v → v.running = true → i < 16 → s.SupIgnores (slotBase slot + 0x200 + 8 * i)) :=
  ⟨fun _ hi => ⟨supWrites_desc hs hi, supIgnores_desc hs hi⟩, supWrites_cmdarg hs, supWrites_tracecfg hs, supIgnores_tracecfg hs,
    supIgnores_slot hs (by decide) (by decide) rfl, supIgnores_slot hs (by decide) (by decide) rfl,
    fun _ _ hv hr hi => supIgnores_grants hs hi hv hr⟩

/-- A run that answers a read: nothing but the link changes. -/
theorem State.linkOnly_frame {t : State} (h : LinkOnly s t) : t.mem = s.mem ∧ t.cores = s.cores ∧ t.vds = s.vds :=
  ⟨h.mem, h.cores, (congrArg State.vds h :)⟩

theorem State.denied_frame : s.denied.mem = s.mem ∧ s.denied.cores = s.cores ∧ s.denied.vds = s.vds :=
  State.linkOnly_frame s.denied_link

theorem supervisorSpaceRead_one (h : s.takesMgmt 1 0x1FFF#56)
    (hr : supRun s.arg.addr (fld (s.arg.words.headD 0).toNat 0 13) = true) (hn : fld (s.arg.words.headD 0).toNat 0 13 = 8) :
    ∃ t, exec .supervisorSpaceRead s = .next t ∧ (t.mem = s.mem ∧ t.cores = s.cores ∧ t.vds = s.vds) ∧
      let r := s.supRead s.arg.chip (s.arg.addr - supBase)
      Answered s t opMgmt r.1 (readWords r) [] :=
  ⟨_, exec_supervisorSpaceRead_one h hr hn, State.linkOnly_frame (s.linked_link.trans (State.hostAnswer_link _ _ _ _ _)),
    State.answered_of h.1 s.linked rfl rfl rfl _ _ _⟩

theorem supervisorSpaceWrite_evhead (h : s.takesMgmt 2 0#56) (w : Word) (hw : s.arg.words.tail = [w]) (ha : s.arg.addr = supBase + 0x030) :
    ∃ t, exec .supervisorSpaceWrite s = .next t ∧ Answered s t opMgmt 0 [] [] ∧ (t.mem = s.mem ∧ t.cores = s.cores ∧ t.vds = s.vds) ∧
      t.chip s.arg.chip = { s.chip s.arg.chip with evhead := w } := by
  have he := exec_supervisorSpaceWrite_one h hw ha (by decide) (by decide)
  rw [show s.linked.chipWrite s.arg.chip 0x030 w = some (s.linked.updChip s.arg.chip fun c => { c with evhead := w }) from rfl] at he
  refine ⟨s.grants fun c => { c with evhead := w }, he, State.grants_answered h.1 _, ⟨State.grants_mem _, State.grants_cores _, ?_⟩,
    State.grants_chip _⟩
  exact (congrArg State.vds (State.grants_link fun c => { c with evhead := w }) :)

theorem supervisorSpaceWrite_readOnly (h : s.takesMgmt 2 0#56) (w : Word) (hw : s.arg.words.tail = [w])
    (ha : s.arg.addr = supBase ∨ s.arg.addr = supBase + 0x038) :
    ∃ t, exec .supervisorSpaceWrite s = .next t ∧ Answered s t opMgmt 3 [] [] ∧ (t.mem = s.mem ∧ t.cores = s.cores ∧ t.vds = s.vds) ∧
      t.chip s.arg.chip = s.chip s.arg.chip := by
  refine ⟨s.denied, ?_, State.denied_answered h.1, State.denied_frame, s.denied_link.chip _⟩
  obtain ha | ha := ha
  · exact exec_supervisorSpaceWrite_one (off := 0) h hw ha (by decide) (by decide)
  · exact exec_supervisorSpaceWrite_one h hw ha (by decide) (by decide)

end

/-- The conditions of a partition command with a word at the head of the queue that is not SPLIT, MERGE or CREATE. -/
theorem vdDestroy_cases {s : State} (w : Word) (rest : List Word) (hq : (s.chip s.arg.chip).partq = w :: rest) :
    let p := partCmd w
    let vd := s.slotVd s.arg.chip p.slot
    (1 ≤ p.cmd → p.cmd ≤ 3 → exec .vdDestroy s = .next s) ∧
    (p.cmd = 0 ∨ 4 < p.cmd → s.TurnedAway .vdDestroy) ∧
    (p.cmd = 4 → s.vdev? vd = none → s.TurnedAway .vdDestroy) ∧
    ∀ v, p.cmd = 4 → s.vdev? vd = some v → ¬ v.destroyableBy s.arg.chip p → s.TurnedAway .vdDestroy := by
  refine ⟨fun h1 h2 => exec_vdDestroy_other hq ⟨h1, h2⟩, fun h => ?_, fun h hv => ?_, fun v h hv hm => ?_⟩
  · exact vdDestroy_refused hq (by omega) (State.destroyable_none (.inl (by omega)))
  · exact vdDestroy_refused hq (by omega) (State.destroyable_none (.inr fun u hu => by rw [hv] at hu; cases hu))
  · exact vdDestroy_refused hq (by omega) (State.destroyable_none (.inr fun u hu => by rw [hv] at hu; cases hu; exact hm))

/-- Settles O59: each command through what ends it, each register write through what its word is accepted or refused for. -/
theorem partitionsAndSupervisorSpace : Obligations.PartitionsAndSupervisorSpace := by
  unfold Obligations.PartitionsAndSupervisorSpace
  intro s
  dsimp only
  refine ⟨?_, ?_, ?_, ?_, ?_, ?_, ?_, ?_, ?_, ?_, ?_, rfl, rfl, rfl, rfl, rfl, rfl, ?_, ?_, ?_, ?_⟩
  · exact fun i cmd hi h => (exec_partCommand hi).elim fun _ hf => hf.trans (State.partRun_none h)
  · exact fun i cmd p hi h hk => partCommand_refused hi h hk
  · exact fun p h hk => ⟨partSplit_halves h hk, fun hb => State.turnedAway_of_exec (exec_partSplit_refused h hb)⟩
  · exact fun p h hk => ⟨partMerge_joins h hk, fun hb => State.turnedAway_of_exec (exec_partMerge_refused h hb)⟩
  · exact fun p h hk => ⟨vdCreate_creates h hk, fun hc => State.turnedAway_of_exec (exec_vdCreate_refused h hc)⟩
  · exact exec_vdDestroy_idle
  · intro w rest hq
    obtain ⟨h1, h2, h3, h4⟩ := vdDestroy_cases w rest hq
    exact ⟨h1, h2, h3, fun v hc hv => ⟨h4 v hc hv, vdDestroy_begins hq hc hv, exec_vdDestroy_waits hq hc hv, vdDestroy_ends hq hc hv⟩⟩
  · exact ⟨_, rfl, s.rtswap_chip, rfl, rfl⟩
  · exact ⟨_, rfl, State.groupWrite_self _ _ _ _, fun j hj => State.groupWrite_other _ _ hj _, rfl, rfl⟩
  · exact ⟨fun h => exec_dispinit_none (State.dispinit_bad h), fun v hv hr => exec_dispinit_none (State.dispinit_running hv hr),
      dispinit_slot, fun v h => dispinit_takes h⟩
  · refine ⟨?_, ?_, ?_, supIgnores_evbase, supWrites_rtswap, supIgnores_rtswap, ?_, ?_, ?_, ?_, ?_, supWrites_slots, ?_, ?_⟩
    · exact supWrites_register (by decide) (by decide) (f := fun c => { c with evhead := s.supWord }) rfl
    · exact supWrites_register (by decide) (by decide) (f := fun c => { c with evlost := 0 }) rfl
    · exact supWrites_evbase
    · exact supIgnores_register (by decide) (by decide) rfl
    · exact supIgnores_register (by decide) (by decide) rfl
    · exact supIgnores_register (by decide) (by decide) rfl
    · exact ⟨supIgnores_partcmd, supWrites_partcmd, supWrites_partcmd_full⟩
    · exact fun c hc => ⟨supWrites_shadow hc, supIgnores_shadow hc⟩
    · exact supWrites_evhead_high
    · exact exec_supervisorRegisterWrite_denied
  · intro w hw hi
    exact congrArg Prod.fst ((State.supRead_window s s.arg.chip (o := 0) hw (by decide)).trans (if_neg (by simp [hi])))
  · exact fun w o hw ho hi => (State.supRead_window s s.arg.chip hw ho).trans (if_pos hi)
  · exact fun h => ⟨fun hr => ⟨_, supervisorSpaceRead_refused h hr, State.denied_answered h.1, State.denied_frame⟩,
      supervisorSpaceRead_one h⟩
  · exact fun h => ⟨fun hr => ⟨_, supervisorSpaceWrite_refused h hr, State.denied_answered h.1, State.denied_frame⟩,
      supervisorSpaceWrite_evhead h, supervisorSpaceWrite_readOnly h⟩

end Sys2Proof.Machine
end

section
/-! Packets that are on their way, and a line at the routers of its tree (R107 to R111). -/

namespace Sys2Proof.Machine

/-! ### A packet on its way -/

/-- There is a packet from one unit to another with this payload. -/
def State.Carries (t : State) (a b : UnitId) (vd : Nat) (pay : Payload) : Prop :=
  ∃ x ∈ t.pkts, x.src = a ∧ x.dst = b ∧ x.vd = vd ∧ x.payload = pay

section
variable {s t : State} {a b : UnitId} {vd : Nat} {pay : Payload}

theorem State.sendPkt_carries (s : State) (a b : UnitId) (vd : Nat) (plane : Plane) (last : Nat) (pay : Payload) :
    (s.sendPkt a b vd plane last pay).Carries a b vd pay :=
  ⟨_, List.mem_append_right _ List.mem_cons_self, rfl, rfl, rfl, rfl⟩

theorem State.Carries.of_mem (h : s.Carries a b vd pay) (hp : ∀ x ∈ s.pkts, x ∈ t.pkts) : t.Carries a b vd pay :=
  let ⟨x, hx, hr⟩ := h
  ⟨x, hp x hx, hr⟩

end

/-! ### Registers of a cluster's tables -/

theorem AMap.del_put_of_none {α : Type} {m : AMap α} {k : Nat} (h : AMap.find? m k = none) (v : α) : AMap.del (AMap.put m k v) k = m := by
  induction m with
  | nil => simp [AMap.put, AMap.del]
  | cons e m ih =>
    obtain ⟨n, w⟩ := e
    unfold AMap.find? at h
    split at h
    · cases h
    next hn =>
      unfold AMap.put
      split
      · simp [AMap.del]
      · rw [AMap.del, if_neg hn, ih h]

/-! ### A register at a router (R110) -/

section
variable {s : State} {u : UnitId} {r : Comb}

theorem State.combSend_open (h : r.expect ≠ 0) : s.combSend u r = s := if_pos h

/-- A router's registers without those of a line. -/
def Cluster.combless (c : Cluster) (r : Comb) : Cluster :=
  { c with combs := c.combs.filter fun x => !(x.group == r.group && x.line == r.line && x.vd == r.vd) }

theorem Cluster.combless_comb? (c : Cluster) (r : Comb) : (c.combless r).comb? r.group r.line r.vd = none := by
  refine List.find?_eq_none.2 fun x hx => ?_
  have h := (List.mem_filter.1 hx).2
  rwa [Bool.not_eq_true', ← Bool.not_eq_true] at h

/-- The state without the registers of a line at a router. -/
def State.combless (s : State) (u : UnitId) (r : Comb) : State := s.updClu (nodeKey u.chip u.node) fun c => c.combless r

theorem State.combSend_upstream (h : r.expect = 0) (hr : r.root = none) : s.combSend u r =
    (s.combless u r).sendPkt u r.up.1 r.vd .control 0 (.comb r.group r.line r.pos r.neg r.first r.up.1) := by
  unfold State.combSend
  rw [if_neg (not_not.2 h), hr]
  rfl

theorem State.combSend_issuer (h : r.expect = 0) {op : Nat} {issuer : UnitId} (hr : r.root = some (op, issuer)) : s.combSend u r =
    ((s.combless u r).rootFree u r.group op).sendPkt u issuer r.vd .control 0 (.mcDone op r.pos r.neg r.first) := by
  unfold State.combSend
  rw [if_neg (not_not.2 h), hr]
  rfl

theorem State.rootFree_cores (s : State) (u : UnitId) (g key : Nat) : (s.rootFree u g key).cores = s.cores := by
  unfold State.rootFree; split <;> rfl
theorem State.combSend_cores (s : State) (u : UnitId) (r : Comb) : (s.combSend u r).cores = s.cores := by
  unfold State.combSend
  split
  · rfl
  · split
    · exact State.rootFree_cores ..
    · rfl

/-- Whatever freeing a root does, it takes no packet and no register. -/
theorem State.rootFree_clu (s : State) (u : UnitId) (g key : Nat) (n : Nat) :
    { (s.rootFree u g key).clu n with root := (s.clu n).root } = s.clu n := by
  unfold State.rootFree
  split
  · show { (s.updClu (nodeKey u.chip u.node) fun c => { c with root := AMap.del c.root g }).clu n with root := (s.clu n).root } = s.clu n
    by_cases hn : n = nodeKey u.chip u.node
    · subst hn; rw [State.clu_updClu]
    · rw [State.clu_updClu_ne s _ hn]
  · rfl

theorem State.rootFree_held {g key : Nat} (h : AMap.find? (s.clu (nodeKey u.chip u.node)).root g = some key) :
    ((s.rootFree u g key).clu (nodeKey u.chip u.node)).root = AMap.del (s.clu (nodeKey u.chip u.node)).root g := by
  rw [State.rootFree, if_pos h]
  exact congrArg Cluster.root (State.clu_updClu s (nodeKey u.chip u.node) fun c => { c with root := AMap.del c.root g })

/-- A register whose responses are all in is gone. -/
theorem State.combSend_comb? (h : r.expect = 0) :
    ((s.combSend u r).clu (nodeKey u.chip u.node)).comb? r.group r.line r.vd = none := by
  have hc : ((s.combless u r).clu (nodeKey u.chip u.node)).comb? r.group r.line r.vd = none := by
    rw [State.combless, State.clu_updClu]; exact Cluster.combless_comb? _ r
  cases hr : r.root with
  | none => rw [State.combSend_upstream h hr]; exact hc
  | some x =>
    rw [State.combSend_issuer h hr, Cluster.comb?]
    have hk : (((s.combless u r).rootFree u r.group x.1).clu (nodeKey u.chip u.node)).combs =
        ((s.combless u r).clu (nodeKey u.chip u.node)).combs :=
      (congrArg Cluster.combs ((s.combless u r).rootFree_clu u r.group x.1 (nodeKey u.chip u.node)) :)
    rw [Cluster.comb?] at hc
    rw [← hc, ← hk]
    rfl

theorem State.combSend_root (h : r.expect = 0) {op : Nat} {issuer : UnitId} (hr : r.root = some (op, issuer))
    (hk : AMap.find? (s.clu (nodeKey u.chip u.node)).root r.group = some op) :
    ((s.combSend u r).clu (nodeKey u.chip u.node)).root = AMap.del (s.clu (nodeKey u.chip u.node)).root r.group := by
  have hc : ((s.combless u r).clu (nodeKey u.chip u.node)).root = (s.clu (nodeKey u.chip u.node)).root := by
    rw [State.combless, State.clu_updClu, Cluster.combless]
  rw [State.combSend_issuer h hr, ← hc]
  exact State.rootFree_held (hc ▸ hk)

theorem State.combSend_upstream_root (hr : r.root = none) (n : Nat) : ((s.combSend u r).clu n).root = (s.clu n).root := by
  by_cases h : r.expect = 0
  · rw [State.combSend_upstream h hr]
    show ((s.updClu (nodeKey u.chip u.node) fun c => c.combless r).clu n).root = (s.clu n).root
    by_cases hn : n = nodeKey u.chip u.node
    · subst hn; rw [State.clu_updClu]; rfl
    · rw [State.clu_updClu_ne s _ hn]
  · rw [State.combSend_open h]

theorem State.combSend_carries_issuer (h : r.expect = 0) {op : Nat} {issuer : UnitId} (hr : r.root = some (op, issuer)) :
    (s.combSend u r).Carries u issuer r.vd (.mcDone op r.pos r.neg r.first) := by
  rw [State.combSend_issuer h hr]; exact State.sendPkt_carries ..

theorem State.combSend_carries_upstream (h : r.expect = 0) (hr : r.root = none) :
    (s.combSend u r).Carries u r.up.1 r.vd (.comb r.group r.line r.pos r.neg r.first r.up.1) := by
  rw [State.combSend_upstream h hr]; exact State.sendPkt_carries ..

/-! ### A response at a router -/

variable {g line vd : Nat}

/-- The register that a response finds is its own. -/
theorem Cluster.comb?_some {c : Cluster} (h : c.comb? g line vd = some r) : r ∈ c.combs ∧ r.group = g ∧ r.line = line ∧ r.vd = vd := by
  have hp := List.find?_some h
  simp only [Bool.and_eq_true, beq_iff_eq] at hp
  exact ⟨List.mem_of_find?_eq_some h, hp.1.1, hp.1.2, hp.2⟩

/-- The state with a register changed at a router. -/
def State.combPut (s : State) (u : UnitId) (g line vd : Nat) (r : Comb) : State :=
  s.updClu (nodeKey u.chip u.node) fun c =>
    { c with combs := c.combs.map fun (x : Comb) => if x.group = g ∧ x.line = line ∧ x.vd = vd then r else x }

variable {pos neg first : Nat}

theorem State.combTake_none (h : (s.clu (nodeKey u.chip u.node)).comb? g line vd = none) :
    s.combTake u g line vd pos neg first = s := by
  simp only [State.combTake, h]

theorem State.combTake_some (h : (s.clu (nodeKey u.chip u.node)).comb? g line vd = some r) :
    s.combTake u g line vd pos neg first = (s.combPut u g line vd (r.add pos neg first)).combSend u (r.add pos neg first) := by
  simp only [State.combTake, h]
  rfl

theorem State.combTake_open (h : (s.clu (nodeKey u.chip u.node)).comb? g line vd = some r) (he : r.expect - 1 ≠ 0) :
    r.add pos neg first ∈ ((s.combTake u g line vd pos neg first).clu (nodeKey u.chip u.node)).combs := by
  obtain ⟨hm, hr⟩ := Cluster.comb?_some h
  rw [State.combTake_some h, State.combSend_open he, State.combPut, State.clu_updClu]
  exact List.mem_map.2 ⟨r, hm, if_pos hr⟩

section
variable (h : (s.clu (nodeKey u.chip u.node)).comb? g line vd = some r) (he : r.expect - 1 = 0)
include h he

theorem State.combTake_last : ((s.combTake u g line vd pos neg first).clu (nodeKey u.chip u.node)).comb? g line vd = none := by
  obtain ⟨-, rfl, rfl, rfl⟩ := Cluster.comb?_some h
  rw [State.combTake_some h]
  exact State.combSend_comb? (r := r.add pos neg first) he

theorem State.combTake_issuer {op : Nat} {issuer : UnitId} (hr : r.root = some (op, issuer)) :
    let a := r.add pos neg first
    (s.combTake u g line vd pos neg first).Carries u issuer vd (.mcDone op a.pos a.neg a.first) ∧
      (AMap.find? (s.clu (nodeKey u.chip u.node)).root g = some op →
        ((s.combTake u g line vd pos neg first).clu (nodeKey u.chip u.node)).root = AMap.del (s.clu (nodeKey u.chip u.node)).root g) := by
  obtain ⟨-, rfl, rfl, rfl⟩ := Cluster.comb?_some h
  intro a
  rw [State.combTake_some h]
  refine ⟨State.combSend_carries_issuer (r := a) he hr, fun hk => ?_⟩
  have hc : ((s.combPut u r.group r.line r.vd a).clu (nodeKey u.chip u.node)).root = (s.clu (nodeKey u.chip u.node)).root := by
    rw [State.combPut, State.clu_updClu]
  rw [← hc] at hk ⊢
  exact State.combSend_root (r := a) he hr hk

theorem State.combTake_upstream (hr : r.root = none) :
    let a := r.add pos neg first
    (s.combTake u g line vd pos neg first).Carries u r.up.1 vd (.comb g line a.pos a.neg a.first r.up.1) := by
  obtain ⟨-, rfl, rfl, rfl⟩ := Cluster.comb?_some h
  intro a
  rw [State.combTake_some h]
  exact State.combSend_carries_upstream (r := a) he hr

end

end

/-! ### Copies (R107, R108) -/

/-- From `s` to `t` copies have been added. -/
structure State.Copied (s t : State) : Prop where
  rest : { t with pkts := s.pkts, flits := s.flits, nextId := s.nextId } = s
  pkts : ∀ x ∈ s.pkts, x ∈ t.pkts
  flits : ∀ f ∈ s.flits, f ∈ t.flits

theorem State.Copied.trans {s t u : State} (h : s.Copied t) (h' : t.Copied u) : s.Copied u := by
  refine ⟨?_, fun x hx => h'.pkts x (h.pkts x hx), fun f hf => h'.flits f (h.flits f hf)⟩
  have e := h.rest
  rw [← h'.rest] at e
  exact e

section
variable {p : Packet} {chip n entry age : Nat}

theorem State.addCopy_copied (s : State) (p : Packet) (chip n entry age port : Nat) : s.Copied (s.addCopy p chip n entry age port) :=
  ⟨rfl, fun _ h => List.mem_append_left _ h, fun _ h => List.mem_append_left _ h⟩

theorem State.foldl_addCopy_copied (qs : List Nat) (s : State) : s.Copied (qs.foldl (fun s q => s.addCopy p chip n entry age q) s) := by
  induction qs generalizing s with
  | nil => exact ⟨rfl, fun _ h => h, fun _ h => h⟩
  | cons q qs ih => exact (s.addCopy_copied p chip n entry age q).trans (ih _)

/-- A copy leaves by a port. -/
def State.CopyBy (t : State) (p : Packet) (n age q : Nat) : Prop :=
  ∃ x ∈ t.pkts, x.payload = p.payload ∧ x.vd = p.vd ∧
    ∃ f ∈ t.flits, f.pkt = x.id ∧ f.node = n ∧ f.rnode = some n ∧ f.up = 1 + q ∧ f.age = age

theorem State.foldl_addCopy_by {q : Nat} {qs : List Nat} (hq : q ∈ qs) (s : State) :
    (qs.foldl (fun s q => s.addCopy p chip n entry age q) s).CopyBy p n age q := by
  induction qs generalizing s with
  | nil => cases hq
  | cons k qs ih =>
    rcases List.mem_cons.1 hq with rfl | hq
    · have h := State.foldl_addCopy_copied (p := p) (chip := chip) (n := n) (entry := entry) (age := age) qs (s.addCopy p chip n entry age q)
      exact ⟨_, h.pkts _ (List.mem_append_right _ List.mem_cons_self), rfl, rfl,
        _, h.flits _ (List.mem_append_right _ List.mem_cons_self), rfl, rfl, rfl, rfl, rfl⟩
    · exact ih hq _

end

/-! ### A line at the root of its group (R108, R111) -/

/-- The ports that a line leaves the root by, and how many responses they and the members there give. -/
def State.rootPorts (s : State) (u : UnitId) (g : Nat) : List Nat := treePorts (s.treeEntry u.chip g) u.node u.node
def State.rootExpect (s : State) (u : UnitId) (g : Nat) : Nat :=
  ((s.rootPorts u g).filter (· != 5)).length + (membersAt (s.treeEntry u.chip g) u.node).length

section
variable {s : State} {p : Packet} {u : UnitId} {up : UnitId × Bool} {root : Option (Nat × UnitId)} {g line : Nat}

/-- The state with the register that a line opens at its root, and that register. -/
def State.rootComb (s : State) (p : Packet) (u : UnitId) (up : UnitId × Bool) (root : Option (Nat × UnitId)) (g line : Nat) : Comb :=
  ⟨g, line, p.vd, s.rootExpect u g, 0, 0, 0, up, root⟩
def Cluster.opened (c : Cluster) (r : Comb) : Cluster :=
  { c with combs := c.combs.filter (fun x => !(x.group == r.group && x.line == r.line && x.vd == r.vd)) ++ [r] }
def State.rootOpened (s : State) (p : Packet) (u : UnitId) (up : UnitId × Bool) (root : Option (Nat × UnitId)) (g line : Nat) : State :=
  s.updClu (nodeKey u.chip u.node) fun c => c.opened (s.rootComb p u up root g line)

theorem State.enterTree_eq (hg : p.payload.mcGroup = (g, line)) : s.enterTree p u up root =
    (s.rootPorts u g).foldl (fun s q => s.addCopy p u.chip u.node u.node p.age q)
      ((s.rootOpened p u up root g line).combSend ⟨u.chip, u.node, 13⟩ (s.rootComb p u up root g line)) := by
  simp only [State.enterTree, State.replicate, hg]
  rfl

/-- What a line leaves at the root of its group. -/
theorem State.enterTree_planted (hg : p.payload.mcGroup = (g, line)) :
    let t := s.enterTree p u up root
    t.mem = s.mem ∧ t.cores = s.cores ∧ (s.rootExpect u g ≠ 0 → s.rootComb p u up root g line ∈ (t.clu (nodeKey u.chip u.node)).combs ∧
      ∀ q ∈ s.rootPorts u g, t.CopyBy p u.node p.age q) := by
  intro t
  have ht : t = _ := State.enterTree_eq hg
  have hc := State.foldl_addCopy_copied (p := p) (chip := u.chip) (n := u.node) (entry := u.node) (age := p.age) (s.rootPorts u g)
    ((s.rootOpened p u up root g line).combSend ⟨u.chip, u.node, 13⟩ (s.rootComb p u up root g line))
  rw [← ht] at hc
  refine ⟨State.replicate_mem .., ?_, fun he => ⟨?_, fun q hq => ?_⟩⟩
  · exact (congrArg State.cores hc.rest :).trans ((State.combSend_cores ..).trans rfl)
  · rw [State.combSend_open (show (s.rootComb p u up root g line).expect ≠ 0 from he)] at hc
    have h1 : t.clus = (s.rootOpened p u up root g line).clus := (congrArg State.clus hc.rest :)
    rw [State.clu, h1, ← State.clu, State.rootOpened, State.clu_updClu]
    exact List.mem_append_right _ List.mem_cons_self
  · rw [ht]; exact State.foldl_addCopy_by hq _

/-- The lock of the root's group after a line has entered its tree with no member or copy to answer for. -/
theorem State.enterTree_empty (hg : p.payload.mcGroup = (g, line)) (hp : s.rootPorts u g = []) :
    s.enterTree p u up root = (s.rootOpened p u up root g line).combSend ⟨u.chip, u.node, 13⟩ (s.rootComb p u up root g line) := by
  rw [State.enterTree_eq hg, hp]; rfl

theorem State.enterTree_root (hg : p.payload.mcGroup = (g, line)) (h : s.rootExpect u g ≠ 0 ∨ root = none) (n : Nat) :
    ((s.enterTree p u up root).clu n).root = (s.clu n).root := by
  have hc := State.foldl_addCopy_copied (p := p) (chip := u.chip) (n := u.node) (entry := u.node) (age := p.age) (s.rootPorts u g)
    ((s.rootOpened p u up root g line).combSend ⟨u.chip, u.node, 13⟩ (s.rootComb p u up root g line))
  rw [← State.enterTree_eq hg] at hc
  have h1 : (s.enterTree p u up root).clus = _ := (congrArg State.clus hc.rest :)
  have h2 : (((s.rootOpened p u up root g line).combSend ⟨u.chip, u.node, 13⟩ (s.rootComb p u up root g line)).clu n).root =
      ((s.rootOpened p u up root g line).clu n).root := by
    obtain h | h := h
    · rw [State.combSend_open (show (s.rootComb p u up root g line).expect ≠ 0 from h)]
    · exact State.combSend_upstream_root h n
  rw [State.clu, h1, ← State.clu, h2, State.rootOpened]
  by_cases hn : n = nodeKey u.chip u.node
  · subst hn; rw [State.clu_updClu, Cluster.opened]
  · rw [State.clu_updClu_ne s _ hn]

end

end Sys2Proof.Machine
end

section
/-! Multicast stores and the responses to them, and the requests of an MCLD (R109 to R112, R360, R361). -/

namespace Sys2Proof.Machine

variable {s : State} {p : Packet}

/-! ### What an instruction leaves -/

/-- The instruction sends one packet and leaves the memory and the clusters. -/
def State.Replies (s : State) (i : Instr) (a b : UnitId) (vd : Nat) (pay : Payload) : Prop :=
  ∃ t, exec i s = .next t ∧ t.mem = s.mem ∧ t.clus = s.clus ∧ t.Carries a b vd pay

theorem State.replies_of {i : Instr} {a b : UnitId} {vd : Nat} {pay : Payload}
    (h : exec i s = .next ((s.dropPkt p.id).sendPkt a b vd .control 0 pay)) : s.Replies i a b vd pay :=
  ⟨_, h, rfl, rfl, State.sendPkt_carries ..⟩

/-! ### At the root (R111) -/

section
variable {m : Mcast} {data : List Byte} {op : Nat} (ha : s.arrivedPkt = some p) (hp : p.payload = .mcst m data op)
include ha hp

theorem exec_multicastStoreLanding_root : exec .multicastStoreLanding s = .next (s.storeAtRoot p m data op) := by
  simp only [exec, execMulticastStoreLanding, ha, hp]

variable (hd : s.draining p.vd p.src p.dst = false)
include hd

theorem multicastStoreLanding_notRoot (hr : s.isRoot m.group p.vd p.dst = false) :
    s.Replies .multicastStoreLanding p.dst p.src p.vd (.mcDone op 0 1 (negative 6 p.dst.chip p.dst.node p.dst.unit)) := by
  refine State.replies_of (p := p) ((exec_multicastStoreLanding_root ha hp).trans ?_)
  simp only [State.storeAtRoot, hd, hr, Bool.false_eq_true, if_false, Bool.not_false, if_true]

theorem multicastStoreLanding_busy (hr : s.isRoot m.group p.vd p.dst = true) {x : Nat}
    (hx : AMap.find? (s.clu (nodeKey p.dst.chip p.dst.node)).root m.group = some x) :
    s.Replies .multicastStoreLanding p.dst p.src p.vd (.resp op 1 0 none) := by
  refine State.replies_of (p := p) ((exec_multicastStoreLanding_root ha hp).trans ?_)
  simp only [State.storeAtRoot, hd, hr, hx, Bool.false_eq_true, if_false, Bool.not_true, Option.isSome_some, if_true, State.reply]
  rfl

/-- The root taken for a store. -/
def State.taken (s : State) (p : Packet) (g key : Nat) : State :=
  (s.dropPkt p.id).updClu (nodeKey p.dst.chip p.dst.node) fun c => { c with root := AMap.put c.root g key }

omit ha hp hd in
theorem State.taken_root (g key : Nat) : ((s.taken p g key).clu (nodeKey p.dst.chip p.dst.node)).root =
    AMap.put (s.clu (nodeKey p.dst.chip p.dst.node)).root g key := congrArg Cluster.root (State.clu_updClu ..)

omit ha hp hd in
theorem State.isRoot_router {g vd : Nat} {u : UnitId} (h : s.isRoot g vd u = true) : u = ⟨u.chip, u.node, 13⟩ := by
  simp only [State.isRoot, Bool.and_eq_true, beq_iff_eq] at h
  obtain ⟨-, hu⟩ := h
  rw [← hu]

theorem exec_multicastStoreLanding_taken (hr : s.isRoot m.group p.vd p.dst = true)
    (hx : AMap.find? (s.clu (nodeKey p.dst.chip p.dst.node)).root m.group = none) : exec .multicastStoreLanding s =
      .next ((s.taken p m.group op).enterTree { p with payload := .mcData m data 0 p.dst } p.dst (p.src, true) (some (op, p.src))) := by
  refine (exec_multicastStoreLanding_root ha hp).trans ?_
  simp only [State.storeAtRoot, hd, hr, hx, Bool.false_eq_true, if_false, Bool.not_true, Option.isSome_none]
  rfl

omit ha hp hd in
/-- A store that no router and no member answers is answered at once, and its group is free. -/
theorem enterTree_answered (hr : s.isRoot m.group p.vd p.dst = true)
    (hx : AMap.find? (s.clu (nodeKey p.dst.chip p.dst.node)).root m.group = none)
    (hports : s.rootPorts p.dst m.group = []) (hmem : membersAt (s.treeEntry p.dst.chip m.group) p.dst.node = []) :
    let t := (s.taken p m.group op).enterTree { p with payload := .mcData m data 0 p.dst } p.dst (p.src, true) (some (op, p.src))
    t.Carries p.dst p.src p.vd (.mcDone op 0 0 0) ∧ AMap.find? (t.clu (nodeKey p.dst.chip p.dst.node)).root m.group = none := by
  intro t
  let q : Packet := { p with payload := .mcData m data 0 p.dst }
  let y := s.taken p m.group op
  let z := y.rootOpened q p.dst (p.src, true) (some (op, p.src)) m.group 0
  let r := y.rootComb q p.dst (p.src, true) (some (op, p.src)) m.group 0
  have ht : t = z.combSend ⟨p.dst.chip, p.dst.node, 13⟩ r := State.enterTree_empty (g := m.group) (line := 0) rfl hports
  have he : r.expect = 0 := by
    show ((y.rootPorts p.dst m.group).filter (· != 5)).length + (membersAt (y.treeEntry p.dst.chip m.group) p.dst.node).length = 0
    rw [show y.rootPorts p.dst m.group = [] from hports, show membersAt (y.treeEntry p.dst.chip m.group) p.dst.node = [] from hmem]
    rfl
  have hroot : (z.clu (nodeKey p.dst.chip p.dst.node)).root = AMap.put (s.clu (nodeKey p.dst.chip p.dst.node)).root m.group op := by
    rw [← State.taken_root]
    show ((y.updClu (nodeKey p.dst.chip p.dst.node) fun c => c.opened r).clu (nodeKey p.dst.chip p.dst.node)).root = _
    rw [State.clu_updClu, Cluster.opened]
  constructor
  · have h := State.combSend_carries_issuer (s := z) (u := ⟨p.dst.chip, p.dst.node, 13⟩) (r := r) he rfl
    rw [ht]
    rw [← State.isRoot_router hr] at h ⊢
    exact h
  · have hk : AMap.find? (z.clu (nodeKey p.dst.chip p.dst.node)).root r.group = some op := by rw [hroot]; exact AMap.find?_put_self ..
    have := State.combSend_root (s := z) (u := ⟨p.dst.chip, p.dst.node, 13⟩) he rfl hk
    rw [ht, this, hroot]
    show AMap.find? (AMap.del (AMap.put _ m.group op) m.group) m.group = none
    rw [AMap.del_put_of_none hx, hx]

omit ha hp hd in
theorem enterTree_held (hmem : membersAt (s.treeEntry p.dst.chip m.group) p.dst.node ≠ []) :
    AMap.find? (((s.taken p m.group op).enterTree { p with payload := .mcData m data 0 p.dst } p.dst (p.src, true)
      (some (op, p.src))).clu (nodeKey p.dst.chip p.dst.node)).root m.group = some op := by
  have he : (s.taken p m.group op).rootExpect p.dst m.group ≠ 0 := by
    have h : 0 < (membersAt (s.treeEntry p.dst.chip m.group) p.dst.node).length := List.length_pos_of_ne_nil hmem
    show ((s.rootPorts p.dst m.group).filter (· != 5)).length + (membersAt (s.treeEntry p.dst.chip m.group) p.dst.node).length ≠ 0
    omega
  rw [State.enterTree_root (g := m.group) (line := 0) rfl (.inl he), State.taken_root, AMap.find?_put_self]

end

/-! ### At a member (R109) -/

section
variable {m : Mcast} {data : List Byte} {line : Nat} {root : UnitId}

/-- What a member's response says, to the router of its node. -/
def State.Said (t : State) (p : Packet) (g line pos neg first : Nat) : Prop :=
  t.Carries p.dst ⟨p.dst.chip, p.dst.node, 13⟩ p.vd (.comb g line pos neg first ⟨p.dst.chip, p.dst.node, 13⟩)

theorem State.memberSays_positive (t : State) (p : Packet) (g line pos st : Nat) :
    (t.memberSays p g line pos 0 st).Said p g line pos 0 0 := State.sendPkt_carries ..
theorem State.memberSays_negative (t : State) (p : Packet) (g line pos st : Nat) :
    (t.memberSays p g line pos 1 st).Said p g line pos 1 (negative st p.dst.chip p.dst.node p.dst.unit) := State.sendPkt_carries ..

variable (ha : s.arrivedPkt = some p) (hp : p.payload = .mcData m data line root) (hd : s.draining p.vd p.src p.dst = false)
include ha hp hd

/-- The state in which a landing has its translation. -/
def State.translated (s : State) (p : Packet) (m : Mcast) : State :=
  (s.untold p.lander).updClu (nodeKey p.dst.chip p.dst.node) fun c => c.tlbHit (tlbFind c.tlb p.vd (m.rb.toNat % 2 ^ 57))

/-- A landing is refused with a status. -/
def State.LandingFails (s : State) (p : Packet) (g line st : Nat) : Prop :=
  ∃ t, exec .multicastStoreLanding s = .next t ∧ t.mem = s.mem ∧ t.Said p g line 0 1 (negative st p.dst.chip p.dst.node p.dst.unit)

omit ha hp hd in
theorem State.landingFails_of (t : State) {st : Nat} (h : exec .multicastStoreLanding s = .next (t.memberSays p m.group line 0 1 st))
    (ht : t.mem = s.mem) : s.LandingFails p m.group line st :=
  ⟨_, h, (State.memberSays_mem ..).trans ht, State.memberSays_negative ..⟩

theorem exec_multicastStoreLanding_member : exec .multicastStoreLanding s =
    .next (match s.landingWay p (m.rb.toNat % 2 ^ 57) with
      | .ask => s.askDirect p.lander p.vd (m.rb.toNat % 2 ^ 57)
      | .denied _ => (s.untold p.lander).memberSays p m.group line 0 1 2
      | .lost c => (s.untold p.lander).memberSays p m.group line 0 1 (lostStatus c)
      | .ok pa mt =>
        if !s.populated pa then (s.translated p m).memberSays p m.group line 0 1 3
        else if s.pcFailed pa then (s.translated p m).memberSays p m.group line 0 1 4
        else if s.owed pa 256 || s.memWaits p.vd pa || s.copying (ownerOf pa) || !s.unitTurn (ownerOf pa) (lineInput pa) then s
        else
          let r := (s.translated p m).trace { pa := pa, size := 256, cls := .store, mt := mt, vd := p.vd, src := ⟨p.dst.chip, p.dst.node, 9⟩ }
          ((((r.portServed (ownerOf pa) (lineInput pa)).lineServe p.vd pa mt).ownFrame pa p.vd).pokeRun pa mt (lineWords data)
            []).memberSays p m.group line 1 0 0) := by
  simp only [exec, execMulticastStoreLanding, ha, hp, State.storeLine, hd, Bool.false_eq_true, if_false]
  rfl

theorem multicastStoreLanding_denied {v : Word} (h : s.landingWay p (m.rb.toNat % 2 ^ 57) = .denied v) : s.LandingFails p m.group line 2 :=
  State.landingFails_of (s.untold p.lander) ((exec_multicastStoreLanding_member ha hp hd).trans (by rw [h])) rfl

theorem multicastStoreLanding_lost {c : Nat} (h : s.landingWay p (m.rb.toNat % 2 ^ 57) = .lost c) :
    s.LandingFails p m.group line (lostStatus c) :=
  State.landingFails_of (s.untold p.lander) ((exec_multicastStoreLanding_member ha hp hd).trans (by rw [h])) rfl

variable {pa mt : Nat} (h : s.landingWay p (m.rb.toNat % 2 ^ 57) = .ok pa mt)
include h

theorem multicastStoreLanding_unpopulated (hpop : s.populated pa = false) : s.LandingFails p m.group line 3 :=
  State.landingFails_of (s.translated p m) ((exec_multicastStoreLanding_member ha hp hd).trans (by
    rw [h]; dsimp only; rw [if_pos (by rw [hpop]; rfl)])) rfl

variable (hpop : s.populated pa = true)
include hpop

theorem multicastStoreLanding_failed (hpc : s.pcFailed pa = true) : s.LandingFails p m.group line 4 :=
  State.landingFails_of (s.translated p m) ((exec_multicastStoreLanding_member ha hp hd).trans (by
    rw [h]; dsimp only; rw [if_neg (by rw [hpop]; decide), if_pos hpc])) rfl

variable (hpc : s.pcFailed pa = false)
include hpc

theorem multicastStoreLanding_waits
    (hw : (s.owed pa 256 || s.memWaits p.vd pa || s.copying (ownerOf pa) || !s.unitTurn (ownerOf pa) (lineInput pa)) = true) :
    exec .multicastStoreLanding s = .next s := by
  rw [exec_multicastStoreLanding_member ha hp hd, h]
  dsimp only
  rw [if_neg (by rw [hpop]; decide), if_neg (by rw [hpc]; decide), if_pos hw]

theorem multicastStoreLanding_lands
    (hw : (s.owed pa 256 || s.memWaits p.vd pa || s.copying (ownerOf pa) || !s.unitTurn (ownerOf pa) (lineInput pa)) = false) :
    let r := (s.translated p m).trace
        { pa := pa, size := 256, cls := .store, mt := mt, vd := p.vd, src := ⟨p.dst.chip, p.dst.node, 9⟩ }
    ∃ t, exec .multicastStoreLanding s = .next t ∧ t.Said p m.group line 1 0 0 ∧ t.mem =
      ((((r.portServed (ownerOf pa) (lineInput pa)).lineServe p.vd pa mt).ownFrame pa p.vd).pokeRun pa mt (lineWords data) []).mem := by
  intro r
  refine ⟨_, (exec_multicastStoreLanding_member ha hp hd).trans ?_, State.memberSays_positive _ p m.group line 1 0,
    State.memberSays_mem ..⟩
  rw [h]
  dsimp only
  rw [if_neg (by rw [hpop]; decide), if_neg (by rw [hpc]; decide), if_neg (by rw [hw]; decide)]

end

/-! ### Responses (R110, R488) -/

/-- A merge entry of a slice after a change of its group's entries. -/
theorem State.updMerge_mem_merges {t : State} {u : UnitId} {e : Merge} {f : Merge → Merge}
    (h : e ∈ (t.clu (nodeKey u.chip u.node)).merges) :
    f e ∈ ((t.updMerge u e.group f).clu (nodeKey u.chip u.node)).merges := by
  rw [State.updMerge, State.clu_updClu]
  exact List.mem_map.2 ⟨e, h, if_pos rfl⟩

section
variable (ha : s.arrivedPkt = some p)
include ha

/-- What a response makes of a merge entry. -/
def Merge.answered (e : Merge) (src : Option UnitId) (line pos neg first : Nat) : Merge :=
  { e with buf := e.buf.filter fun x => !(x.line == line && x.to_ == src), pos := e.pos + pos, neg := e.neg + neg,
           first := if e.first = 0 then first else e.first }

section
variable {g line pos neg first : Nat} {dst : UnitId} (hp : p.payload = .comb g line pos neg first dst)
include hp

theorem exec_combinedAck_slice (hu : p.dst.unit = 10) : exec .combinedAck s = .next ((s.dropPkt p.id).updMerge p.dst g fun m =>
    m.answered p.src.unicast line pos neg first) := by
  simp only [exec, execCombinedAck, ha, hp, if_pos hu, Merge.answered]

theorem exec_combinedAck_router (hu : p.dst.unit ≠ 10) :
    exec .combinedAck s = .next ((s.dropPkt p.id).combTake p.dst g line p.vd pos neg first) := by
  simp only [exec, execCombinedAck, ha, hp, if_neg hu]

theorem combinedAck_slice (hu : p.dst.unit = 10) {e : Merge} (he : e ∈ (s.clu (nodeKey p.dst.chip p.dst.node)).merges) (hg : e.group = g) :
    ∃ t, exec .combinedAck s = .next t ∧ t.mem = s.mem ∧
      e.answered p.src.unicast line pos neg first ∈ (t.clu (nodeKey p.dst.chip p.dst.node)).merges := by
  subst hg
  exact ⟨_, exec_combinedAck_slice ha hp hu, rfl, State.updMerge_mem_merges (t := s.dropPkt p.id) he⟩

theorem combinedAck_stray (hu : p.dst.unit ≠ 10) (hr : (s.clu (nodeKey p.dst.chip p.dst.node)).comb? g line p.vd = none) :
    ∃ t, exec .combinedAck s = .next t ∧ t.mem = s.mem ∧ t.clus = s.clus :=
  ⟨_, (exec_combinedAck_router ha hp hu).trans (congrArg _ (State.combTake_none (s := s.dropPkt p.id) hr)), rfl, rfl⟩

theorem combinedAck_counts (hu : p.dst.unit ≠ 10) {r : Comb} (hr : (s.clu (nodeKey p.dst.chip p.dst.node)).comb? g line p.vd = some r)
    (he : r.expect - 1 ≠ 0) : ∃ t, exec .combinedAck s = .next t ∧ t.mem = s.mem ∧
      r.add pos neg first ∈ (t.clu (nodeKey p.dst.chip p.dst.node)).combs :=
  ⟨_, exec_combinedAck_router ha hp hu, State.combTake_mem .., State.combTake_open (s := s.dropPkt p.id) hr he⟩

theorem combinedAck_last (hu : p.dst.unit ≠ 10) {r : Comb} (hr : (s.clu (nodeKey p.dst.chip p.dst.node)).comb? g line p.vd = some r)
    (he : r.expect - 1 = 0) : ∃ t, exec .combinedAck s = .next t ∧ t.mem = s.mem ∧
      (t.clu (nodeKey p.dst.chip p.dst.node)).comb? g line p.vd = none ∧
      let a := r.add pos neg first
      (∀ op issuer, r.root = some (op, issuer) → t.Carries p.dst issuer p.vd (.mcDone op a.pos a.neg a.first) ∧
        (AMap.find? (s.clu (nodeKey p.dst.chip p.dst.node)).root g = some op →
          (t.clu (nodeKey p.dst.chip p.dst.node)).root = AMap.del (s.clu (nodeKey p.dst.chip p.dst.node)).root g)) ∧
      (r.root = none → t.Carries p.dst r.up.1 p.vd (.comb g line a.pos a.neg a.first r.up.1)) :=
  ⟨_, exec_combinedAck_router ha hp hu, State.combTake_mem .., State.combTake_last (s := s.dropPkt p.id) hr he,
    fun _ _ hroot => State.combTake_issuer (s := s.dropPkt p.id) hr he hroot, State.combTake_upstream (s := s.dropPkt p.id) hr he⟩

end

/-- A line of a send buffer whose back-off a refusal has begun. -/
def State.refuseLine (s : State) (src : Option UnitId) (line : Nat) (x : SentLine) : SentLine :=
  if x.line = line ∧ x.to_ = src then { x with again := some (s.backoffEnd x.nacks), nacks := x.nacks + 1 } else x

theorem exec_combinedAck_lineBusy {g line : Nat} (hp : p.payload = .lineBusy g line) : exec .combinedAck s =
    .next ((s.dropPkt p.id).updMerge p.dst g fun m => { m with buf := m.buf.map (s.refuseLine p.src.unicast line) }) := by
  simp only [exec, execCombinedAck, ha, hp]
  rfl

theorem combinedAck_lineBusy {g line : Nat} (hp : p.payload = .lineBusy g line) {e : Merge}
    (he : e ∈ (s.clu (nodeKey p.dst.chip p.dst.node)).merges) (hg : e.group = g) : ∃ t, exec .combinedAck s = .next t ∧ t.mem = s.mem ∧
      ∃ d ∈ (t.clu (nodeKey p.dst.chip p.dst.node)).merges, { d with buf := e.buf } = e ∧
        (∀ x ∈ e.buf, ¬ (x.line = line ∧ x.to_ = p.src.unicast) → x ∈ d.buf) ∧
        ∀ x ∈ e.buf, x.line = line → x.to_ = p.src.unicast → ∃ y ∈ d.buf, ∃ n, y.line = x.line ∧ y.to_ = x.to_ ∧ y.data = x.data ∧
          y.bad = x.bad ∧ y.again = some n ∧ s.now + 64 ≤ n ∧ n ≤ s.now + 1024 := by
  subst hg
  refine ⟨_, exec_combinedAck_lineBusy ha hp, rfl, _, State.updMerge_mem_merges (t := s.dropPkt p.id) he, rfl, fun x hx hn => ?_,
    fun x hx hl hs => ?_⟩
  · exact List.mem_map.2 ⟨x, hx, if_neg hn⟩
  · refine ⟨_, List.mem_map_of_mem hx, s.backoffEnd x.nacks, ?_⟩
    rw [State.refuseLine, if_pos ⟨hl, hs⟩]
    exact ⟨rfl, rfl, rfl, rfl, rfl, s.backoffEnd_bounds _⟩

/-! ### Requests of an MCLD (R112, R361) -/

section
variable {m : Mcast} {pa op : Nat} {lines : List (Nat × Nat)} (hp : p.payload = .mcldReq m pa lines op)
include hp

theorem mcldRequest_drains (hd : s.draining p.vd p.src p.dst = true) :
    s.Replies .mcldRequest p.dst p.src p.vd (.mcldAnswer op 5) := by
  refine State.replies_of (p := p) ?_
  simp only [exec, execMcldRequest, ha, hp, hd, if_true]

variable (hd : s.draining p.vd p.src p.dst = false)
include hd

theorem mcldRequest_invalid (hv : s.treeValid p.dst.chip m.group p.vd = false) :
    s.Replies .mcldRequest p.dst p.src p.vd (.mcldAnswer op 6) := by
  refine State.replies_of (p := p) ?_
  simp only [exec, execMcldRequest, ha, hp, hd, hv, Bool.false_eq_true, if_false, Bool.not_false, if_true]

variable (hv : s.treeValid p.dst.chip m.group p.vd = true)
include hv

theorem mcldRequest_nowhere (hl : ¬ ∀ l ∈ lines, s.populated l.2 = true) :
    s.Replies .mcldRequest p.dst p.src p.vd (.mcldAnswer op 3) := by
  have hany : (lines.any fun l => !s.populated l.2) = true := by
    simpa [List.any_eq_true] using hl
  refine State.replies_of (p := p) ?_
  simp only [exec, execMcldRequest, ha, hp, hd, hv, hany, Bool.false_eq_true, if_false, Bool.not_true, if_true]

variable (hl : ∀ l ∈ lines, s.populated l.2 = true)
include hl

theorem exec_mcldRequest_there : exec .mcldRequest s = .next (match (s.clu (nodeKey p.dst.chip p.dst.node)).merges.find? fun e => e.group == m.group with
    | some e => if e.pa = pa ∧ e.vd = p.vd then (s.dropPkt p.id).updMerge p.dst m.group fun e => e.join p.src lines else s
    | none => (s.dropPkt p.id).updClu (nodeKey p.dst.chip p.dst.node) fun c =>
        { c with merges := c.merges ++ [⟨m.group, p.vd, pa, m.rb, lines, [], [], [], 0, 0, 0, m.mt⟩] }) := by
  have hany : (lines.any fun l => !s.populated l.2) = false := by
    simpa [List.any_eq_false] using hl
  simp only [exec, execMcldRequest, ha, hp, hd, hv, hany, Bool.false_eq_true, if_false, Bool.not_true] <;> rfl

theorem mcldRequest_opens (hf : ((s.clu (nodeKey p.dst.chip p.dst.node)).merges.find? fun e => e.group == m.group) = none) :
    ∃ t, exec .mcldRequest s = .next t ∧ t.mem = s.mem ∧ (t.clu (nodeKey p.dst.chip p.dst.node)).merges =
      (s.clu (nodeKey p.dst.chip p.dst.node)).merges ++ [⟨m.group, p.vd, pa, m.rb, lines, [], [], [], 0, 0, 0, m.mt⟩] := by
  have he := exec_mcldRequest_there ha hp hd hv hl
  rw [hf] at he
  exact ⟨_, he, rfl, congrArg Cluster.merges (State.clu_updClu ..)⟩

variable {e : Merge} (hf : ((s.clu (nodeKey p.dst.chip p.dst.node)).merges.find? fun e => e.group == m.group) = some e)
include hf

theorem mcldRequest_joins (h1 : e.pa = pa) (h2 : e.vd = p.vd) : ∃ t, exec .mcldRequest s = .next t ∧ t.mem = s.mem ∧
    e.join p.src lines ∈ (t.clu (nodeKey p.dst.chip p.dst.node)).merges := by
  have he := exec_mcldRequest_there ha hp hd hv hl
  rw [hf] at he
  dsimp only at he
  have hg : e.group = m.group := by simpa using List.find?_some hf
  rw [if_pos ⟨h1, h2⟩, ← hg] at he
  exact ⟨_, he, rfl, State.updMerge_mem_merges (t := s.dropPkt p.id) (List.mem_of_find?_eq_some hf)⟩

theorem mcldRequest_waits (h : e.pa ≠ pa ∨ e.vd ≠ p.vd) : exec .mcldRequest s = .next s := by
  rw [exec_mcldRequest_there ha hp hd hv hl, hf]
  dsimp only
  rw [if_neg (by tauto)]

end

end

end Sys2Proof.Machine
end

section
/-! The lines of an MCLD: sent by their slice, at their root and at a core, and the end of their entry (R112, R361, R487 to R489). -/

namespace Sys2Proof.Machine

variable {s : State}

/-! ### A slice that sends (R487, R488) -/

section
variable {u : UnitId} {e : Merge}

/-- Reading a line serves an access. -/
theorem State.readLine_served (s : State) (u : UnitId) (vd pa mt : Nat) : Served s (s.readLine u vd pa mt).2.2 := by
  unfold State.readLine
  dsimp only
  refine Served.trans ?_ (Served.foldl (fun t i => Served.correct t (pa + 8 * i)) _ _)
  exact (Served.trace s _).trans (Served.lineServe _ vd pa mt)

theorem Served.merges {s t : State} (h : Served s t) (n : Nat) : (t.clu n).merges = (s.clu n).merges := (congrArg Cluster.merges (h.clu n) :)
theorem Served.mclds {s t : State} (h : Served s t) (k : Nat) : (t.core k).mclds = (s.core k).mclds := (congrArg Core.mclds (h.core k) :)
theorem Served.owner {s t : State} (h : Served s t) (k : Nat) : (t.core k).owner = (s.core k).owner := (congrArg Core.owner (h.core k) :)

theorem State.updMerge_pkts (t : State) (u : UnitId) (g : Nat) (f : Merge → Merge) : (t.updMerge u g f).pkts = t.pkts := rfl

/-- Sending a line changes no cluster. -/
theorem State.sendHeld_clus (s : State) (u : UnitId) (e : Merge) (x : SentLine) : (s.sendHeld u e x).clus = s.clus := by
  unfold State.sendHeld
  dsimp only
  split
  · rfl
  · split <;> rfl

/-- The payload of a line that is sent. -/
def Merge.sends (e : Merge) (u : UnitId) (x : SentLine) : Payload :=
  .mcldLine e.group (e.lineAt x.line) x.data x.bad x.line x.to_.isSome u

theorem Merge.sends_mk (e : Merge) (u : UnitId) (line : Nat) (to_ : Option UnitId) (data : List Byte) (bad : List Nat) :
    e.sends u { line := line, to_ := to_, data := data, bad := bad } =
      .mcldLine e.group (e.lineAt line) data bad line to_.isSome u := rfl

theorem State.sendHeld_carries {x : SentLine} {r : UnitId} (h : x.to_ = some r ∨ (x.to_ = none ∧ s.groupRoot u.chip e.group e.vd = some r)) :
    (s.sendHeld u e x).Carries u r e.vd (e.sends u x) := by
  unfold State.sendHeld Merge.sends
  obtain h | ⟨h, hr⟩ := h
  · rw [h]; exact State.sendPkt_carries ..
  · rw [h, hr]; exact State.sendPkt_carries ..

/-- A line as its slice holds it after it has read it. -/
def State.readHeld (s : State) (u : UnitId) (e : Merge) (line : Nat) (to_ : Option UnitId) : SentLine :=
  { line := line, to_ := to_, data := (s.readLine u e.vd (e.lineAt line) e.mt).1, bad := (s.readLine u e.vd (e.lineAt line) e.mt).2.1 }

theorem State.sendLine_eq (s : State) (u : UnitId) (e : Merge) (line : Nat) (core : Option UnitId) (f : Merge → Merge) :
    s.sendLine u e line core f = ((s.readLine u e.vd (e.lineAt line) e.mt).2.2.sendHeld u e (s.readHeld u e line core)).updMerge u e.group
      fun d => { f d with buf := d.buf ++ [s.readHeld u e line core] } := by
  rcases h : s.readLine u e.vd (e.lineAt line) e.mt with ⟨data, bad, y⟩
  simp only [State.sendLine, State.readHeld, h]

variable {line : Nat} {to_ : Option UnitId} {f : Merge → Merge} {r : UnitId}

/-- A line that is read and sent: to its unit, from the memory as reading it leaves it, and its data held. -/
theorem State.sendLine_sent (hr : to_ = some r ∨ (to_ = none ∧
      (s.readLine u e.vd (e.lineAt line) e.mt).2.2.groupRoot u.chip e.group e.vd = some r))
    (he : e ∈ (s.clu (nodeKey u.chip u.node)).merges) :
    (s.sendLine u e line to_ f).mem = (s.readLine u e.vd (e.lineAt line) e.mt).2.2.mem ∧
      (s.sendLine u e line to_ f).Carries u r e.vd (e.sends u (s.readHeld u e line to_)) ∧
      { f e with buf := e.buf ++ [s.readHeld u e line to_] } ∈ ((s.sendLine u e line to_ f).clu (nodeKey u.chip u.node)).merges := by
  rw [State.sendLine_eq]
  have hc := State.sendHeld_carries (x := s.readHeld u e line to_) hr
  refine ⟨(State.updMerge_mem ..).trans (State.sendHeld_mem ..), hc.of_mem fun x hx => ?_, ?_⟩
  · rw [State.updMerge_pkts]; exact hx
  · refine State.updMerge_mem_merges (f := fun d => { f d with buf := d.buf ++ [s.readHeld u e line to_] }) ?_
    rw [State.clu, State.sendHeld_clus, ← State.clu, (s.readLine_served ..).merges]
    exact he

end

section
/-- The slice that the event names. -/
def State.argSlice (s : State) : UnitId := ⟨s.arg.chip, s.arg.node, 10⟩

/-- The first line that a merge entry has not sent. -/
def Merge.unsent (e : Merge) : Option Nat := (tab 32 id).find? fun i => (e.lines.any fun l => l.1 == i) && !e.sent.contains i

/-- The line of a send buffer whose back-off is over. -/
def State.dueAgain (s : State) (e : Merge) : Option SentLine := e.buf.find? fun x => x.again.any fun t => decide (t ≤ s.now)

variable {e : Merge} (he : ((s.clu (nodeKey s.arg.chip s.arg.node)).merges.find? fun e => e.group == s.arg.index) = some e)
include he

theorem exec_mcldLineSend : exec .mcldLineSend s = .next (match s.dueAgain e with
    | some x => (s.sendHeld s.argSlice e x).updMerge s.argSlice e.group fun e => { e with buf := e.buf.map fun y =>
        if y.line = x.line ∧ y.to_ = x.to_ then { y with again := none } else y }
    | none => match e.unsent with
      | some line => if s.lineWaits e line then s else s.sendLine s.argSlice e line none fun e => { e with sent := e.sent ++ [line] }
      | none => match e.owed with
        | (c, line) :: rest => if s.lineWaits e line then s else s.sendLine s.argSlice e line (some c) fun e => { e with owed := rest }
        | [] => s) := by
  simp only [exec, execMcldLineSend, he]
  rfl

theorem mem_merges_of_find : e ∈ (s.clu (nodeKey s.arg.chip s.arg.node)).merges := List.mem_of_find?_eq_some he

theorem mcldLineSend_again {x : SentLine} {r : UnitId} (hx : s.dueAgain e = some x)
    (hr : x.to_.isSome ∨ s.groupRoot s.arg.chip e.group e.vd = some r) : ∃ t q, exec .mcldLineSend s = .next t ∧ t.mem = s.mem ∧
      q ∈ t.pkts ∧ q.src = s.argSlice ∧ q.dst = x.to_.getD r ∧ q.payload = e.sends s.argSlice x := by
  have hx' := exec_mcldLineSend he
  rw [hx] at hx'
  have hc : (s.sendHeld s.argSlice e x).Carries s.argSlice (x.to_.getD r) e.vd (e.sends s.argSlice x) := by
    refine State.sendHeld_carries ?_
    cases hto : x.to_ with
    | some c => exact .inl rfl
    | none => exact .inr ⟨rfl, hr.resolve_left (by simp [hto])⟩
  obtain ⟨q, hq, hsrc, hdst, -, hpay⟩ := hc
  exact ⟨_, q, hx', State.sendHeld_mem .., hq, hsrc, hdst, hpay⟩

/-- What sending a line leaves: the memory as reading it leaves it, and the packet. -/
def State.LineSent (s : State) (t : State) (u : UnitId) (e : Merge) (line : Nat) (uni : Bool) (r : UnitId) : Prop :=
  t.mem = (s.readLine u e.vd (e.lineAt line) e.mt).2.2.mem ∧ ∃ x ∈ t.pkts, x.src = u ∧ x.dst = r ∧
    x.payload = .mcldLine e.group (e.lineAt line) (s.readLine u e.vd (e.lineAt line) e.mt).1 (s.readLine u e.vd (e.lineAt line) e.mt).2.1
      line uni u

omit he in
theorem mcldLineSend_waits {line : Nat} (hw : s.owed (e.lineAt line) 256 = true ∨ s.memWaits e.vd (e.lineAt line) = true) :
    s.lineWaits e line = true := by
  simpa [State.lineWaits] using hw

variable {u : UnitId} (hslice : u = s.argSlice)
include hslice

theorem mcldLineSend_next (hd : s.dueAgain e = none) {line : Nat} (hl : e.unsent = some line) :
    (s.owed (e.lineAt line) 256 = true ∨ s.memWaits e.vd (e.lineAt line) = true → exec .mcldLineSend s = .next s) ∧
    ∀ r, s.owed (e.lineAt line) 256 = false → s.memWaits e.vd (e.lineAt line) = false →
      (s.readLine u e.vd (e.lineAt line) e.mt).2.2.groupRoot s.arg.chip e.group e.vd = some r →
      ∃ t, exec .mcldLineSend s = .next t ∧ s.LineSent t u e line false r ∧
        { e with sent := e.sent ++ [line], buf := e.buf ++ [s.readHeld u e line none] } ∈
          (t.clu (nodeKey s.arg.chip s.arg.node)).merges := by
  subst hslice
  have hx := exec_mcldLineSend he
  rw [hd, hl] at hx
  dsimp only at hx
  refine ⟨fun hw => ?_, fun r h1 h2 hr => ?_⟩
  · rwa [if_pos (mcldLineSend_waits hw)] at hx
  · rw [if_neg (by simp [State.lineWaits, h1, h2])] at hx
    obtain ⟨hm, ⟨q, hq, hsrc, hdst, -, hpay⟩, hmem⟩ := State.sendLine_sent (s := s) (u := s.argSlice) (line := line)
      (f := fun e => { e with sent := e.sent ++ [line] }) (.inr ⟨rfl, hr⟩) (mem_merges_of_find he)
    rw [State.readHeld, Merge.sends_mk] at hpay
    exact ⟨_, hx, ⟨hm, q, hq, hsrc, hdst, hpay⟩, hmem⟩

omit he hslice in
/-- Every line wanted has been sent. -/
theorem Merge.unsent_none {e : Merge} (h : ∀ i, i < 32 → (∃ l ∈ e.lines, l.1 = i) → i ∈ e.sent) : e.unsent = none := by
  refine List.find?_eq_none.2 fun i hi hc => ?_
  obtain ⟨j, hj, rfl⟩ := mem_tab.1 hi
  simp only [Bool.and_eq_true, List.any_eq_true, beq_iff_eq, Bool.not_eq_true', List.contains_eq_mem, decide_eq_false_iff_not] at hc
  obtain ⟨⟨l, hl, hli⟩, hn⟩ := hc
  exact hn (h _ hj ⟨l, hl, hli⟩)

theorem mcldLineSend_owed (hd : s.dueAgain e = none) (hl : ∀ i, i < 32 → (∃ l ∈ e.lines, l.1 = i) → i ∈ e.sent) {c : UnitId} {line : Nat}
    {rest : List (UnitId × Nat)} (ho : e.owed = (c, line) :: rest) :
    (s.owed (e.lineAt line) 256 = true ∨ s.memWaits e.vd (e.lineAt line) = true → exec .mcldLineSend s = .next s) ∧
    (s.owed (e.lineAt line) 256 = false → s.memWaits e.vd (e.lineAt line) = false → ∃ t, exec .mcldLineSend s = .next t ∧
      s.LineSent t u e line true c ∧ { e with owed := rest, buf := e.buf ++ [s.readHeld u e line (some c)] } ∈
        (t.clu (nodeKey s.arg.chip s.arg.node)).merges) := by
  subst hslice
  have hx := exec_mcldLineSend he
  rw [hd, Merge.unsent_none hl, ho] at hx
  dsimp only at hx
  refine ⟨fun hw => ?_, fun h1 h2 => ?_⟩
  · rwa [if_pos (mcldLineSend_waits hw)] at hx
  · rw [if_neg (by simp [State.lineWaits, h1, h2])] at hx
    obtain ⟨hm, ⟨q, hq, hsrc, hdst, -, hpay⟩, hmem⟩ := State.sendLine_sent (s := s) (u := s.argSlice) (line := line)
      (f := fun e => { e with owed := rest }) (.inl rfl) (mem_merges_of_find he)
    rw [State.readHeld, Merge.sends_mk] at hpay
    exact ⟨_, hx, ⟨hm, q, hq, hsrc, hdst, hpay⟩, hmem⟩

omit hslice

/-! ### The end of an entry (R489) -/

/-- The state without a group's merge entry at a slice, its root free. -/
def State.merged (s : State) (u : UnitId) (e : Merge) : State :=
  let t := s.updClu (nodeKey u.chip u.node) fun c => { c with merges := c.merges.filter fun (x : Merge) => x.group != e.group }
  match t.groupRoot u.chip e.group e.vd with
  | some r => t.rootFree r e.group (mcldKey u)
  | none => t

omit he in
theorem State.merged_mem (s : State) (u : UnitId) (e : Merge) : (s.merged u e).mem = s.mem := by
  unfold State.merged
  dsimp only
  split
  · exact State.rootFree_mem ..
  · rfl

omit he in
theorem State.merged_merges (s : State) (u : UnitId) (e : Merge) :
    ∀ x ∈ ((s.merged u e).clu (nodeKey u.chip u.node)).merges, x.group ≠ e.group := by
  have h : ((s.merged u e).clu (nodeKey u.chip u.node)).merges =
      (s.clu (nodeKey u.chip u.node)).merges.filter fun (x : Merge) => x.group != e.group := by
    unfold State.merged
    dsimp only
    split
    · refine (congrArg Cluster.merges (State.rootFree_clu _ _ e.group (mcldKey u) (nodeKey u.chip u.node)) :).trans ?_
      exact congrArg Cluster.merges (State.clu_updClu ..)
    · exact congrArg Cluster.merges (State.clu_updClu ..)
  intro x hx
  rw [h] at hx
  simpa using (List.mem_filter.1 hx).2

theorem exec_mergeReport : exec .mergeReport s = .next (
    if e.buf ≠ [] ∨ e.owed ≠ [] ∨ !(e.lines.all fun l => e.sent.contains l.1) then s
    else match (entryMembers (s.treeEntry s.arg.chip e.group)).head? with
      | some m =>
        if s.treeValid s.arg.chip e.group e.vd = true ∧ m.2 < 9 then
          (s.merged s.argSlice e).sendPkt s.argSlice ⟨s.arg.chip, m.1, m.2⟩ e.vd .control 0 (.merge 3 e.pos e.group e.neg e.first e.rb 1)
        else s.merged s.argSlice e
      | none => s.merged s.argSlice e) := by
  simp only [exec, execMergeReport, he]
  rfl

theorem mergeReport_waits (h : e.buf ≠ [] ∨ e.owed ≠ [] ∨ ∃ l ∈ e.lines, l.1 ∉ e.sent) : exec .mergeReport s = .next s := by
  rw [exec_mergeReport he, if_pos]
  refine h.imp id (Or.imp id fun ⟨l, hl, hn⟩ => ?_)
  rw [Bool.not_eq_true', List.all_eq_false]
  exact ⟨l, hl, by simpa using hn⟩

theorem mergeReport_ends (hb : e.buf = []) (ho : e.owed = []) (hl : ∀ l ∈ e.lines, l.1 ∈ e.sent) : ∃ t, exec .mergeReport s = .next t ∧
    t.mem = s.mem ∧ (∀ x ∈ (t.clu (nodeKey s.arg.chip s.arg.node)).merges, x.group ≠ e.group) ∧
    ∀ m rest, entryMembers (s.treeEntry s.arg.chip e.group) = m :: rest → s.treeValid s.arg.chip e.group e.vd = true → m.2 < 9 →
      ∃ x ∈ t.pkts, x.src = s.argSlice ∧ x.dst = ⟨s.arg.chip, m.1, m.2⟩ ∧ x.payload = .merge 3 e.pos e.group e.neg e.first e.rb 1 := by
  have hx := exec_mergeReport he
  have hall : (e.lines.all fun l => e.sent.contains l.1) = true :=
    List.all_eq_true.2 fun l h => by simpa using hl l h
  rw [if_neg (by rw [hb, ho, hall]; decide)] at hx
  refine ⟨_, hx, ?_, ?_, fun m rest hm hv h9 => ?_⟩
  · split
    · split <;> exact s.merged_mem ..
    · exact s.merged_mem ..
  · split
    · split <;> exact s.merged_merges s.argSlice e
    · exact s.merged_merges s.argSlice e
  · rw [hm]
    dsimp only [List.head?]
    rw [if_pos ⟨hv, h9⟩]
    exact ⟨_, List.mem_append_right _ List.mem_cons_self, rfl, rfl, rfl⟩

end

/-! ### A line at its root (R111) -/

section
variable {p : Packet} {g pa line : Nat} {data : List Byte} {bad : List Nat} {uni : Bool} {home : UnitId}
  (ha : s.arrivedPkt = some p) (hp : p.payload = .mcldLine g pa data bad line uni home)
include ha hp

section
variable (hu : p.dst.unit = 13)
include hu

theorem exec_mcldLineArrival_root : exec .mcldLineArrival s = .next (
    if !s.isRoot g p.vd p.dst then
      (s.dropPkt p.id).sendPkt p.dst home p.vd .control 0 (.comb g line 0 1 (negative 6 p.dst.chip p.dst.node p.dst.unit) home)
    else if (AMap.find? (s.clu (nodeKey p.dst.chip p.dst.node)).root g).isSome ∧
        AMap.find? (s.clu (nodeKey p.dst.chip p.dst.node)).root g ≠ some (mcldKey home) then
      (s.dropPkt p.id).sendPkt p.dst home p.vd .control 0 (.lineBusy g line)
    else (s.taken p g (mcldKey home)).enterTree p p.dst (home, true) none) := by
  simp only [exec, execMcldLineArrival, ha, hp, if_pos hu]
  rfl

theorem mcldLineArrival_notRoot (hr : s.isRoot g p.vd p.dst = false) : s.Replies .mcldLineArrival p.dst home p.vd
    (.comb g line 0 1 (negative 6 p.dst.chip p.dst.node p.dst.unit) home) :=
  State.replies_of (p := p) ((exec_mcldLineArrival_root ha hp hu).trans (by rw [if_pos (by rw [hr]; rfl)]))

theorem mcldLineArrival_busy (hr : s.isRoot g p.vd p.dst = true) {x : Nat}
    (hx : AMap.find? (s.clu (nodeKey p.dst.chip p.dst.node)).root g = some x) (hne : x ≠ mcldKey home) :
    s.Replies .mcldLineArrival p.dst home p.vd (.lineBusy g line) :=
  State.replies_of (p := p) ((exec_mcldLineArrival_root ha hp hu).trans (by
    rw [if_neg (by rw [hr]; decide), if_pos (by rw [hx]; exact ⟨rfl, fun h => hne (Option.some.inj h)⟩)]))

theorem exec_mcldLineArrival_taken (hr : s.isRoot g p.vd p.dst = true)
    (hx : AMap.find? (s.clu (nodeKey p.dst.chip p.dst.node)).root g = none ∨
      AMap.find? (s.clu (nodeKey p.dst.chip p.dst.node)).root g = some (mcldKey home)) :
    exec .mcldLineArrival s = .next ((s.taken p g (mcldKey home)).enterTree p p.dst (home, true) none) := by
  rw [exec_mcldLineArrival_root ha hp hu, if_neg (by rw [hr]; decide), if_neg]
  rintro ⟨h1, h2⟩
  obtain h | h := hx
  · rw [h] at h1; cases h1
  · exact h2 h

end

/-! ### A line at a core (R361, R488) -/

section
variable (hu : p.dst.unit < 9)
include hu

/-- The register of a core that still wants the line. -/
def State.wants (s : State) (k g pa line : Nat) : Option McldReg :=
  (s.core k).mclds.find? fun r => r.m.group == g && r.left.contains line && r.lines.contains (line, pa)

theorem mcldLineArrival_copied (h1 : uni = true) (h2 : s.copying p.dst = true) :
    exec .mcldLineArrival s = .next ((s.dropPkt p.id).sendPkt p.dst home p.vd .control 0 (.lineBusy g line)) := by
  simp only [exec, execMcldLineArrival, ha, hp, if_neg (show ¬ p.dst.unit = 13 by omega), h1, h2, Bool.and_self, if_true]

/-- The answer of a core to a line: to the slice for a unicast, else to the router of its node. -/
def State.answerLine (t : State) (p : Packet) (uni : Bool) (home : UnitId) (g line pos neg : Nat) : State :=
  if uni then (t.dropPkt p.id).sendPkt p.dst home p.vd .control 0 (.comb g line pos neg
    (if neg = 0 then 0 else negative 4 p.dst.chip p.dst.node p.dst.unit) home)
  else t.memberSays p g line pos neg 4

omit ha hp hu in
theorem State.answerLine_mem (t : State) (p : Packet) (uni : Bool) (home : UnitId) (g line pos neg : Nat) :
    (t.answerLine p uni home g line pos neg).mem = t.mem := by
  unfold State.answerLine
  split
  · rfl
  · exact State.memberSays_mem ..
omit ha hp hu in
theorem State.answerLine_cores (t : State) (p : Packet) (uni : Bool) (home : UnitId) (g line pos neg : Nat) :
    (t.answerLine p uni home g line pos neg).cores = t.cores := by
  unfold State.answerLine
  split <;> rfl

/-- What it says. -/
def State.AnswersLine (t : State) (p : Packet) (uni : Bool) (home : UnitId) (g line pos neg first : Nat) : Prop :=
  if uni then t.Carries p.dst home p.vd (.comb g line pos neg first home) else t.Said p g line pos neg first

omit ha hp hu in
theorem State.answerLine_answers (t : State) (p : Packet) (uni : Bool) (home : UnitId) (g line pos neg : Nat) :
    (t.answerLine p uni home g line pos neg).AnswersLine p uni home g line pos neg
      (if neg = 0 then 0 else negative 4 p.dst.chip p.dst.node p.dst.unit) := by
  unfold State.answerLine State.AnswersLine
  split
  · exact State.sendPkt_carries ..
  · exact State.sendPkt_carries ..

theorem exec_mcldLineArrival_core (hc : uni = false ∨ s.copying p.dst = false) : exec .mcldLineArrival s = .next (
    if s.landingWaits p then s
    else
      let y := (if (s.landsAt p).isSome then s.portServed p.dst p.input else s).landLine home p.dst.core g pa line data bad
      y.2.2.answerLine p uni home g line y.1 y.2.1) := by
  have hn : (uni && s.copying p.dst) = false := by
    obtain h | h := hc <;> simp [h]
  simp only [exec, execMcldLineArrival, ha, hp, if_neg (show ¬ p.dst.unit = 13 by omega), hn, Bool.false_eq_true, if_false, if_pos hu]
  rfl

omit ha in
/-- Where a line with all its words lands. -/
theorem State.landsAt_line (hb : bad = []) : s.landsAt p = (s.wants p.dst.core g pa line).map fun r =>
    (scratchPa p.dst.core (r.m.rc + 256 * line), 256) := by
  subst hb
  simp only [State.landsAt, hp, if_pos hu, State.wants]

omit ha hu in
theorem State.landsAt_bad (hb : bad ≠ []) : s.landsAt p = none := by
  cases bad with
  | nil => exact absurd rfl hb
  | cons b bs => simp only [State.landsAt, hp]

omit ha hp hu in
theorem State.landLine_unwanted {t : State} {k : Nat} (h : t.wants k g pa line = none) : t.landLine home k g pa line data bad = (0, 0, t) := by
  rw [State.wants] at h
  simp only [State.landLine, h]

/-- The state in which a line has been written at a core, and the register that has taken it. -/
def State.lineWritten (t : State) (k vd : Nat) (home : UnitId) (r : McldReg) (line : Nat) (data : List Byte) : State :=
  (t.trace { pa := scratchPa k (r.m.rc + 256 * line), size := 256, cls := .store, vd := vd, src := home }).pokeRun
    (scratchPa k (r.m.rc + 256 * line)) 2 (lineWords data) []
def McldReg.landed (r : McldReg) (line : Nat) : McldReg := { r with left := r.left.filter (· != line), pos := r.pos + 1 }

omit ha hp hu in
theorem State.lineWritten_served (t : State) (k vd : Nat) (home : UnitId) (r : McldReg) (line : Nat) (data : List Byte) :
    Served t (t.lineWritten k vd home r line data) := (Served.trace t _).trans (Served.pokeRun _ _ _ _ _)

omit ha hp hu in
/-- A line that lands. -/
theorem State.landLine_lands {t : State} {k : Nat} {r : McldReg} (h : t.wants k g pa line = some r) :
    t.landLine home k g pa line data [] = (1, 0, (t.lineWritten k (t.core k).owner home r line data).settleMcld k (r.landed line)) := by
  rw [State.wants] at h
  simp only [State.landLine, h]
  rfl

omit ha hp hu in
/-- A line with a bad word. -/
theorem State.landLine_bad {t : State} {k : Nat} {r : McldReg} (h : t.wants k g pa line = some r) (hb : bad ≠ []) :
    ∃ r', t.landLine home k g pa line data bad = (0, 1, t.settleMcld k r') := by
  rw [State.wants] at h
  simp only [State.landLine, h, if_pos hb]
  exact ⟨_, rfl⟩

omit ha hp hu in
theorem State.wants_served {t : State} (h : Served s t) (k : Nat) : t.wants k g pa line = s.wants k g pa line := by
  rw [State.wants, h.mclds, State.wants]

theorem mcldLineArrival_unwanted (hc : uni = false ∨ s.copying p.dst = false) (hw : s.wants p.dst.core g pa line = none) :
    ∃ t, exec .mcldLineArrival s = .next t ∧ t.AnswersLine p uni home g line 0 0 0 ∧ t.mem = s.mem ∧ t.cores = s.cores := by
  have hl : s.landsAt p = none := by
    by_cases hb : bad = []
    · rw [State.landsAt_line hp hu hb, hw]; rfl
    · exact State.landsAt_bad hp hb
  have hx := exec_mcldLineArrival_core ha hp hu hc
  rw [State.landingWaits, hl] at hx
  simp only [Option.any_none, Bool.false_eq_true, if_false, Option.isSome_none, State.landLine_unwanted hw] at hx
  exact ⟨_, hx, State.answerLine_answers s p uni home g line 0 0, State.answerLine_mem .., State.answerLine_cores ..⟩

variable {r : McldReg} (hr : s.wants p.dst.core g pa line = some r)
include hr

omit hr in
theorem mcldLineArrival_waits (hc : uni = false ∨ s.copying p.dst = false) (hw : s.landingWaits p = true) :
    exec .mcldLineArrival s = .next s := by
  rw [exec_mcldLineArrival_core ha hp hu hc, if_pos hw]

theorem mcldLineArrival_bad (hc : uni = false ∨ s.copying p.dst = false) (hb : bad ≠ []) : ∃ t, exec .mcldLineArrival s = .next t ∧
    t.AnswersLine p uni home g line 0 1 (negative 4 p.dst.chip p.dst.node p.dst.unit) ∧ t.mem = s.mem := by
  have hx := exec_mcldLineArrival_core ha hp hu hc
  obtain ⟨r', hr'⟩ := State.landLine_bad (home := home) (data := data) hr hb
  rw [State.landingWaits, State.landsAt_bad hp hb] at hx
  simp only [Option.any_none, Bool.false_eq_true, if_false, Option.isSome_none, hr'] at hx
  exact ⟨_, hx, State.answerLine_answers _ p uni home g line 0 1, (State.answerLine_mem ..).trans (State.settleMcld_mem ..)⟩

omit ha hp hu hr in
theorem State.mcastDone_mclds (t : State) (k : Nat) (m : Mcast) (lev launch pos neg first count : Nat) :
    ((t.mcastDone k m lev launch pos neg first count).core k).mclds = (t.core k).mclds := by
  unfold State.mcastDone
  dsimp only
  split
  · rw [State.core_updCore, State.core_updCore]; rfl
  · show ((t.updCore k fun c => { c with mcOut := c.mcOut.filter (· != m.group) }).core k).mclds = _
    rw [State.core_updCore]

omit ha hp hu hr in
/-- A register of a core after its change: gone when nothing is left, else as it has become. -/
theorem State.settleMcld_done {t : State} {k : Nat} (h : r.left = []) : ∀ x ∈ ((t.settleMcld k r).core k).mclds, x.op ≠ r.op := by
  have hm : ((t.settleMcld k r).core k).mclds = (t.core k).mclds.filter fun x => x.op != r.op := by
    rw [State.settleMcld, if_pos h, State.mcldDone, State.mcastDone_mclds, State.dropOp, State.core_updCore, State.core_updCore]
  intro x hx
  rw [hm] at hx
  simpa using (List.mem_filter.1 hx).2

omit ha hp hu hr in
theorem State.settleMcld_left {t : State} {k : Nat} {x : McldReg} (h : r.left ≠ []) (hx : x ∈ (t.core k).mclds) (ho : x.op = r.op) :
    r ∈ ((t.settleMcld k r).core k).mclds := by
  rw [State.settleMcld, if_neg h, State.core_updCore]
  exact List.mem_map.2 ⟨x, hx, if_pos ho⟩

theorem exec_mcldLineArrival_lands (hc : uni = false ∨ s.copying p.dst = false) (hw : s.landingWaits p = false) (hb : bad = []) :
    exec .mcldLineArrival s = .next ((((s.portServed p.dst p.input).lineWritten p.dst.core (s.core p.dst.core).owner home r line
      data).settleMcld p.dst.core (r.landed line)).answerLine p uni home g line 1 0) := by
  have hl : (s.landsAt p).isSome = true := by rw [State.landsAt_line hp hu hb, hr]; rfl
  subst hb
  have hserved := Served.portServed s p.dst p.input
  have hr' : (s.portServed p.dst p.input).wants p.dst.core g pa line = some r := by rw [State.wants_served hserved]; exact hr
  have hland := State.landLine_lands (home := home) (data := data) hr'
  rw [hserved.owner] at hland
  rw [exec_mcldLineArrival_core ha hp hu hc, if_neg (by rw [hw]; decide), if_pos hl, hland]

theorem mcldLineArrival_lands (hc : uni = false ∨ s.copying p.dst = false) (hw : s.landingWaits p = false) (hb : bad = []) :
    ∃ t, exec .mcldLineArrival s = .next t ∧ t.AnswersLine p uni home g line 1 0 0 ∧
      t.mem = (((s.portServed p.dst p.input).trace
        { pa := scratchPa p.dst.core (r.m.rc + 256 * line), size := 256, cls := .store, vd := (s.core p.dst.core).owner,
          src := home }).pokeRun (scratchPa p.dst.core (r.m.rc + 256 * line)) 2 (lineWords data) []).mem ∧
      (r.left.filter (· != line) = [] → ∀ x ∈ (t.core p.dst.core).mclds, x.op ≠ r.op) ∧
      (r.left.filter (· != line) ≠ [] → r.landed line ∈ (t.core p.dst.core).mclds) := by
  have hcores : ∀ t : State, (t.answerLine p uni home g line 1 0).core p.dst.core = t.core p.dst.core := fun t => by
    rw [State.core, State.answerLine_cores, State.core]
  have hserved := (Served.portServed s p.dst p.input).trans
    (State.lineWritten_served _ p.dst.core (s.core p.dst.core).owner home r line data)
  have hx := exec_mcldLineArrival_lands ha hp hu hr hc hw hb
  rw [State.lineWritten] at hx hserved
  refine ⟨_, hx, State.answerLine_answers _ p uni home g line 1 0, (State.answerLine_mem ..).trans (State.settleMcld_mem ..),
    fun h => ?_, fun h => ?_⟩
  · rw [hcores]
    exact State.settleMcld_done (r := r.landed line) h
  · rw [hcores]
    refine State.settleMcld_left (r := r.landed line) h (x := r) ?_ rfl
    rw [hserved.mclds]
    exact List.mem_of_find?_eq_some hr

end

end

end Sys2Proof.Machine
end

section
/-! Multicast at its root, its members and its home slice (R106 to R112, R360, R361, R487 to R489). -/

namespace Sys2Proof.Machine

/-- Settles O57: each packet through what its receiver makes of it, each line of an MCLD from its slice to its answer. -/
theorem multicastTrees : Obligations.MulticastTrees := by
  unfold Obligations.MulticastTrees
  intro s p
  dsimp only
  refine ⟨fun m data op ha hp hd => ⟨?_, ?_, ?_⟩, fun m data line root ha hp hd => ⟨?_, ?_, ?_⟩, fun g line pos neg first dst ha hp => ⟨?_, ?_, ?_⟩,
    ?_, fun m pa lines op ha hp => ⟨?_, fun hd => ⟨?_, ?_, ?_, ?_⟩⟩, fun e he => ⟨?_, ?_, ?_, ?_, ?_⟩, fun g pa data bad line uni home ha hp =>
    ⟨?_, ?_, ?_, ?_, ?_⟩⟩
  -- a multicast store at its root
  · exact multicastStoreLanding_notRoot ha hp hd
  · exact fun x hr hx => multicastStoreLanding_busy ha hp hd hr hx
  · exact fun hr hx => ⟨_, exec_multicastStoreLanding_taken ha hp hd hr hx, State.enterTree_planted rfl,
      enterTree_answered hr hx, enterTree_held⟩
  -- and at a member
  · exact fun v h => multicastStoreLanding_denied ha hp hd h
  · exact fun c h => multicastStoreLanding_lost ha hp hd h
  · exact fun pa mt h => ⟨multicastStoreLanding_unpopulated ha hp hd h, multicastStoreLanding_failed ha hp hd h,
      multicastStoreLanding_waits ha hp hd h, multicastStoreLanding_lands ha hp hd h⟩
  -- responses
  · exact fun e hu he hg => combinedAck_slice ha hp hu he hg
  · exact combinedAck_stray ha hp
  · exact fun r hu hr => ⟨combinedAck_counts ha hp hu hr, combinedAck_last ha hp hu hr⟩
  · exact fun g line e ha hp he hg => combinedAck_lineBusy ha hp he hg
  -- requests of an MCLD
  · exact mcldRequest_drains ha hp
  · exact mcldRequest_invalid ha hp hd
  · exact mcldRequest_nowhere ha hp hd
  · exact mcldRequest_opens ha hp hd
  · exact fun e hv hl hf => ⟨mcldRequest_joins ha hp hd hv hl hf, mcldRequest_waits ha hp hd hv hl hf⟩
  -- its lines at their slice
  · exact fun x r hx hr => mcldLineSend_again he hx hr
  · exact fun line hd hl => mcldLineSend_next he rfl hd hl
  · exact fun c line rest hd hl ho => mcldLineSend_owed he rfl hd hl ho
  · exact mergeReport_waits he
  · exact mergeReport_ends he
  -- at their root
  · exact fun hu hr => let ⟨t, ht, hm, _, hc⟩ := mcldLineArrival_notRoot ha hp hu hr; ⟨t, ht, hm, hc⟩
  · exact fun x hu hr hx hne => mcldLineArrival_busy ha hp hu hr hx hne
  · intro hu hr hx
    refine ⟨_, exec_mcldLineArrival_taken ha hp hu hr hx, ?_, ?_⟩
    · obtain ⟨hm, hc, hk⟩ := State.enterTree_planted (s := s.taken p g (mcldKey home)) (p := p) (u := p.dst) (up := (home, true)) (root := none)
        (g := g) (line := line) (by rw [hp]; rfl)
      rw [← hp]
      exact ⟨hm, hc, hk⟩
    · rw [State.enterTree_root (g := g) (line := line) (by rw [hp]; rfl) (.inr rfl), State.taken_root, AMap.find?_put_self]
  -- and at a core
  · exact fun hu h1 h2 => ⟨_, mcldLineArrival_copied ha hp hu h1 h2, rfl, rfl, State.sendPkt_carries ..⟩
  · exact fun hu hc => ⟨mcldLineArrival_unwanted ha hp hu hc, fun r hr => ⟨mcldLineArrival_waits ha hp hu hc,
      mcldLineArrival_lands ha hp hu hr hc, mcldLineArrival_bad ha hp hu hr hc⟩⟩

end Sys2Proof.Machine
end

section
/-! A router's cycle: what it may change, where it sends a flit, and how it places one flit or two (R83, R88, R89). -/

namespace Sys2Proof.Machine

/-! ### What the fabric may change -/

/-- From `s` to `t` flits and packets have moved: clusters and packages hold other counts and stores, and all else stands. -/
def FabricOnly (s t : State) : Prop :=
  { t with pkts := s.pkts, flits := s.flits, clus := s.clus, chips := s.chips, nextId := s.nextId } = s

namespace FabricOnly

variable {s t : State}

theorem trans {u : State} (h : FabricOnly s t) (g : FabricOnly t u) : FabricOnly s u := by
  have e : FabricOnly s t := h
  unfold FabricOnly at e
  rw [← g] at e
  exact e

theorem mem (h : FabricOnly s t) : t.mem = s.mem := (congrArg State.mem h :)
theorem cores (h : FabricOnly s t) : t.cores = s.cores := (congrArg State.cores h :)
theorem same (h : FabricOnly s t) : t.mem = s.mem ∧ t.cores = s.cores := ⟨h.mem, h.cores⟩

theorem foldl {α : Type} {f : State → α → State} (hf : ∀ s a, FabricOnly s (f s a)) (as : List α) (s : State) :
    FabricOnly s (as.foldl f s) := by
  induction as generalizing s with
  | nil => rfl
  | cons a as ih => exact (hf s a).trans (ih _)

theorem sendPkt (s : State) (src dst : UnitId) (vd : Nat) (pl : Plane) (last : Nat) (p : Payload) :
    FabricOnly s (s.sendPkt src dst vd pl last p) := rfl
theorem addCopy (s : State) (p : Packet) (chip n entry age port : Nat) : FabricOnly s (s.addCopy p chip n entry age port) := rfl
theorem rootFree (s : State) (u : UnitId) (g key : Nat) : FabricOnly s (s.rootFree u g key) := by
  unfold State.rootFree
  split <;> rfl
theorem combSend (s : State) (u : UnitId) (r : Comb) : FabricOnly s (s.combSend u r) := by
  by_cases h : r.expect = 0
  · cases hr : r.root with
    | none => rw [State.combSend_upstream h hr]; rfl
    | some x => rw [State.combSend_issuer h hr]; exact FabricOnly.trans (t := s.combless u r) rfl ((rootFree _ u r.group x.1).trans (sendPkt ..))
  · rw [State.combSend_open h]; rfl
theorem replicate (s : State) (p : Packet) (chip n entry age : Nat) (up : UnitId × Bool) (root : Option (Nat × UnitId)) :
    FabricOnly s (s.replicate p chip n entry age up root) :=
  FabricOnly.trans (t := s.updClu _ _) rfl ((combSend _ _ _).trans (foldl (fun s q => addCopy s p chip n entry age q) _ _))
theorem eject (s : State) (f : Flit) (p : Packet) (port : Nat) : FabricOnly s (s.eject f p port) := by
  unfold State.eject
  dsimp only
  split
  · exact FabricOnly.trans (t := { s.dropFlit f.id with pkts := _ }) rfl (foldl (fun s _ => sendPkt s _ _ _ _ _ _) _ _)
  · split
    · rfl
    · split <;> rfl
theorem move (s : State) (f : Flit) (p : Packet) (used : List Nat) (w : Way) : FabricOnly s (s.move f p used w) := by
  cases w with
  | eject => exact eject ..
  | torus d => rfl
  | scaleUp q => rfl
  | stay => rfl
theorem placeFlit (s : State) (f : Flit) (due : Nat) : FabricOnly s (s.placeFlit f due) := by
  unfold State.placeFlit
  split
  · rfl
  · exact move s f _ _ _
theorem resumeTree (s : State) (chip n : Nat) (pl : Plane) : FabricOnly s (s.resumeTree chip n pl) := by
  refine foldl (fun s f => ?_) _ s
  split
  · split
    · rfl
    · exact FabricOnly.trans (t := { s.dropFlit f.id with pkts := _ }) rfl (replicate ..)
  · rfl

/-- Flits placed one after another. -/
theorem foldl_placeFlit (fs : List Flit) (t : State × Nat) : FabricOnly t.1 (fs.foldl (fun (t : State × Nat) f =>
    let due := if f.port < 4 then t.2 - 1 else t.2
    (t.1.placeFlit f due, due)) t).1 := by
  induction fs generalizing t with
  | nil => rfl
  | cons f fs ih => exact (placeFlit t.1 f _).trans (ih _)
theorem routed (s : State) (chip n : Nat) (pl : Plane) : FabricOnly s (s.routed chip n pl) := by
  unfold State.routed
  dsimp only
  split
  · rfl
  · exact (resumeTree s chip n pl).trans (foldl_placeFlit _ _)

end FabricOnly

/-! ### Where a flit goes (R88) -/

theorem towards_eq (n t : Nat) (used : List Nat) : towards n t used =
    match (productive n t ++ torusOrder).find? (fun d => !used.contains d) with
    | some d => .torus d
    | none => .stay := by
  rw [List.find?_append, towards]
  cases (productive n t).find? fun d => !used.contains d with
  | some d => rfl
  | none => rfl

theorem mem_torusOrder {d : Nat} : d ∈ torusOrder ↔ d < 4 := by
  simp only [torusOrder, List.mem_cons, List.not_mem_nil, or_false]
  omega

theorem axisWay_lt {v t plus d : Nat} (h : d ∈ (axisWay v t plus).2) : d = plus ∨ d = plus + 1 := by
  unfold axisWay at h
  dsimp only at h
  split at h
  · cases h
  · split at h
    · exact .inl (List.mem_singleton.1 h)
    · split at h
      · simpa using h
      · exact .inr (List.mem_singleton.1 h)

theorem productive_lt {n t d : Nat} (h : d ∈ productive n t) : d < 4 := by
  have key : d ∈ (axisWay (n % 32) (t % 32) 0).2 ∨ d ∈ (axisWay (n / 32) (t / 32) 2).2 := by
    unfold productive at h
    dsimp only at h
    split at h
    · exact (List.mem_append.1 h).symm
    · exact List.mem_append.1 h
  rcases key with h | h <;> rcases axisWay_lt h with rfl | rfl <;> omega

/-- The port that a router gives a flit: the first free one that shortens its way, else the first free one. -/
def wayTo (n t : Nat) (used : List Nat) : Nat := ((productive n t ++ [0, 2, 1, 3]).find? fun d => !used.contains d).getD 0

theorem towards_free {n t d : Nat} {used : List Nat} (h : towards n t used = .torus d) : d < 4 ∧ d ∉ used := by
  rw [towards_eq] at h
  cases hf : (productive n t ++ torusOrder).find? (fun d => !used.contains d) with
  | none => rw [hf] at h; cases h
  | some e =>
    rw [hf] at h
    cases h
    refine ⟨?_, by simpa using List.find?_some hf⟩
    rcases List.mem_append.1 (List.mem_of_find?_eq_some hf) with hm | hm
    · exact productive_lt hm
    · exact mem_torusOrder.1 hm

theorem deflect_free {d : Nat} {used : List Nat} (h : deflect used = .torus d) : d < 4 ∧ d ∉ used := by
  unfold deflect at h
  split at h
  next e hf =>
    cases h
    exact ⟨mem_torusOrder.1 (List.mem_of_find?_eq_some hf), by simpa using List.find?_some hf⟩
  · cases h

theorem wayTo_lt (n t : Nat) (used : List Nat) : wayTo n t used < 4 := by
  unfold wayTo
  cases hf : (productive n t ++ [0, 2, 1, 3]).find? (fun d => !used.contains d) with
  | none => decide
  | some d =>
    rcases List.mem_append.1 (List.mem_of_find?_eq_some hf) with hm | hm
    · exact productive_lt hm
    · exact mem_torusOrder.1 hm

/-- With a free port a flit that goes on takes one. -/
theorem towards_some {n t e : Nat} {used : List Nat} (he : e < 4) (hu : e ∉ used) : towards n t used = .torus (wayTo n t used) := by
  rw [towards_eq, wayTo, show ([0, 2, 1, 3] : List Nat) = torusOrder from rfl]
  cases hf : (productive n t ++ torusOrder).find? (fun d => !used.contains d) with
  | some d => rfl
  | none =>
    have := List.find?_eq_none.1 hf e (List.mem_append_right _ (mem_torusOrder.2 he))
    simp [hu] at this

/-- Without one it stays. -/
theorem towards_none {n t : Nat} {used : List Nat} (h : ∀ d, d < 4 → d ∈ used) : towards n t used = .stay := by
  cases ht : towards n t used with
  | torus d => exact absurd (h d (towards_free ht).1) (towards_free ht).2
  | stay => rfl
  | eject =>
    rw [towards_eq] at ht
    split at ht <;> cases ht
  | scaleUp q =>
    rw [towards_eq] at ht
    split at ht <;> cases ht

theorem torusFree_pos {used : List Nat} {d : Nat} (hd : d < 4) (hu : d ∉ used) : 0 < torusFree used := by
  refine List.length_pos_of_mem (List.mem_filter.2 ⟨mem_torusOrder.2 hd, ?_⟩)
  simpa using hu

/-- One port taken leaves a router at least three. -/
theorem two_le_torusFree_singleton (d : Nat) : 2 ≤ torusFree [d] := by
  unfold torusFree
  by_cases h0 : d = 0
  · subst h0; decide
  · by_cases h1 : d = 2
    · subst h1; decide
    · have h0' : ¬ 0 = d := fun h => h0 h.symm
      have h1' : ¬ 2 = d := fun h => h1 h.symm
      simp [torusOrder, List.filter_cons, h0', h1']

section
variable {s : State} {f : Flit} {p : Packet} {used : List Nat} (hr : f.rnode = none)
include hr

theorem State.way_onward (hc : p.dst.chip = f.chip) (hn : p.dst.node ≠ f.node) : s.way f p used = towards f.node p.dst.node used := by
  simp only [State.way, hr, if_pos hc, if_neg hn]

theorem State.way_eject (hc : p.dst.chip = f.chip) (hn : p.dst.node = f.node) (hu : (used.filter (· == 6)).length < 2) :
    s.way f p used = .eject := by
  simp only [State.way, hr, if_pos hc, if_pos hn, if_pos hu]

/-- A free port, whatever the flit's way. -/
theorem State.way_free {d : Nat} (h : s.way f p used = .torus d) : d < 4 ∧ d ∉ used := by
  simp only [State.way, hr] at h
  split at h
  · split at h
    · split at h
      · cases h
      · exact deflect_free h
    · exact towards_free h
  · split at h
    · cases h
    · split at h
      · exact towards_free h
      · exact deflect_free h

theorem State.way_scaleUp {q : Nat} (hc : p.dst.chip ≠ f.chip) (hq : portAt f.node = some q)
    (hb : (AMap.get ((s.chip f.chip).tableAt s.now f.node) 0 p.dst.chip).getLsbD (q / 2) = true)
    (ho : ((s.chip f.chip).port q).open (planeIx f.plane) = true) (h4 : 4 ∉ used) : s.way f p used = .scaleUp q := by
  have hfld : (fld (AMap.get ((s.chip f.chip).tableAt s.now f.node) 0 p.dst.chip).toNat (q / 2) 1 == 1) = true := by
    rw [beq_iff_eq, fld, Nat.pow_one]
    rw [BitVec.getLsbD, Nat.testBit_eq_decide_div_mod_eq, decide_eq_true_eq] at hb
    exact hb
  have h4' : used.contains 4 = false := by simpa using h4
  simp only [State.way, hr, if_neg hc, hq, Option.filter_some, hfld, ho, h4', Bool.not_false, Bool.and_self, if_true]

end

/-! ### A flit placed -/

/-- A router's record of a flit that took a way. -/
def Cluster.passed (c : Cluster) (pl : Nat) (w : Way) (age : Nat) : Cluster :=
  { c with used := c.used.set pl (c.used.getD pl [] ++ w.taken), old := c.old.set pl (c.old.getD pl false || decide (1024 ≤ age)) }

/-- The ports of a router that are taken in this router cycle. -/
def State.portsUsed (s : State) (chip n : Nat) (pl : Plane) : List Nat := (s.clu (nodeKey chip n)).used.getD (planeIx pl) []

/-- A flit sent its way, and its router's record. -/
def State.sent (s : State) (f : Flit) (p : Packet) (w : Way) : State :=
  (s.move f p (s.portsUsed f.chip f.node f.plane) w).updClu (nodeKey f.chip f.node) fun c => c.passed (planeIx f.plane) w f.age

theorem FabricOnly.sent (s : State) (f : Flit) (p : Packet) (w : Way) : FabricOnly s (s.sent f p w) :=
  (FabricOnly.move s f p _ w).trans rfl

section
variable {s : State} {f : Flit} {p : Packet} (hp : s.pktOf f = some p)
include hp

theorem State.placeFlit_sent {due : Nat} {w : Way} (hw : s.way f p (s.portsUsed f.chip f.node f.plane) = w)
    (hd : ∀ d, w = .torus d → f.port = 5 → due < torusFree (s.portsUsed f.chip f.node f.plane)) : s.placeFlit f due = s.sent f p w := by
  rw [State.portsUsed] at hw hd
  unfold State.placeFlit
  rw [hp]
  cases w with
  | torus d =>
    simp only [hw]
    rw [if_neg fun h => absurd (hd d rfl h.1) (Nat.not_lt.2 h.2)]
    rfl
  | eject => simp only [hw]; rfl
  | scaleUp q => simp only [hw]; rfl
  | stay => simp only [hw]; rfl

/-- With no arrival still to be placed a flit goes its way. -/
theorem State.placeFlit_zero (hr : f.rnode = none) :
    s.placeFlit f 0 = s.sent f p (s.way f p (s.portsUsed f.chip f.node f.plane)) :=
  State.placeFlit_sent hp rfl fun _ hd _ => torusFree_pos (State.way_free hr hd).1 (State.way_free hr hd).2

end

/-- A flit one hop on. -/
def Flit.hopped (f : Flit) (d : Nat) : Flit :=
  { f with node := hopTo f.node d, port := opposite d,
           age := older f.age ((if f.plane = .control then 2 else 4) + if dieEdge f.node d then 16 else 0) }

section
variable {s : State} {f : Flit} {p : Packet} {d : Nat} {used : List Nat} (hr : f.rnode = none)
include hr

theorem State.move_torus : s.move f p used (.torus d) = { s.dropFlit f.id with flits := (s.dropFlit f.id).flits ++ [f.hopped d] } := by
  unfold State.move
  dsimp only
  rw [if_neg (by rw [hr]; rintro ⟨h, -⟩; cases h)]
  rfl

theorem State.sent_torus_flits : (s.sent f p (.torus d)).flits = s.flits.filter (fun x => x.id != f.id) ++ [f.hopped d] := by
  rw [State.sent, State.move_torus hr]; rfl
theorem State.sent_torus_pkts : (s.sent f p (.torus d)).pkts = s.pkts := by
  rw [State.sent, State.move_torus hr]; rfl
theorem State.sent_torus_chips : (s.sent f p (.torus d)).chips = s.chips := by
  rw [State.sent, State.move_torus hr]; rfl
theorem State.sent_torus_nextId : (s.sent f p (.torus d)).nextId = s.nextId := by
  rw [State.sent, State.move_torus hr]; rfl
theorem State.sent_torus_clu : (s.sent f p (.torus d)).clu (nodeKey f.chip f.node) =
    (s.clu (nodeKey f.chip f.node)).passed (planeIx f.plane) (.torus d) f.age := by
  rw [State.sent, State.clu_updClu, State.move_torus hr]; rfl

end

/-! ### The router's cycle over the flits at it -/

/-- The mark that a router cycle has passed. -/
def State.cycled (s : State) (chip n : Nat) (pl : Plane) : State :=
  s.updClu (nodeKey chip n) fun c => { c with used := c.used.set (planeIx pl) (c.used.getD (planeIx pl) [] ++ [98]) }

section
variable {s : State} {chip n : Nat} {pl : Plane}

theorem State.resumeTree_same (h : ∀ f ∈ s.heads chip n pl, f.rnode = none) : s.resumeTree chip n pl = s := by
  unfold State.resumeTree
  generalize s.heads chip n pl = fs at h
  induction fs with
  | nil => rfl
  | cons f fs ih =>
    rw [List.foldl_cons, if_neg fun hf => by rw [h f List.mem_cons_self] at hf; cases hf.1]
    exact ih fun x hx => h x (List.mem_cons_of_mem f hx)

theorem State.routed_passed (h : 98 ∈ s.portsUsed chip n pl) : s.routed chip n pl = s := by
  have h' : ((s.clu (nodeKey chip n)).used.getD (planeIx pl) []).contains 98 = true := by
    rw [List.contains_eq_mem]; exact decide_eq_true h
  unfold State.routed
  dsimp only
  rw [if_pos h']

/-- The flits in the router's order, each placed with the number of arrivals after it. -/
def State.placed (s : State) (fs : List Flit) : State :=
  (fs.foldl (fun (t : State × Nat) f =>
    let due := if f.port < 4 then t.2 - 1 else t.2
    (t.1.placeFlit f due, due)) (s, (fs.filter fun f => decide (f.port < 4)).length)).1

theorem State.routed_plain (hm : 98 ∉ s.portsUsed chip n pl) (h : ∀ f ∈ s.heads chip n pl, f.rnode = none) :
    s.routed chip n pl = (s.placed (sortBy (fun a b => decide (s.flitKey a ≤ s.flitKey b)) (s.heads chip n pl))).cycled chip n pl := by
  have h' : ¬ ((s.clu (nodeKey chip n)).used.getD (planeIx pl) []).contains 98 = true := by
    rw [List.contains_eq_mem]; exact fun h => hm (of_decide_eq_true h)
  unfold State.routed
  dsimp only
  rw [if_neg h', State.resumeTree_same h]
  rfl

theorem State.placed_one (s : State) (f : Flit) : s.placed [f] = s.placeFlit f 0 := by
  unfold State.placed
  by_cases h : f.port < 4 <;> simp [h]

/-- One flit at the router: it goes its way. -/
theorem State.routed_one {f : Flit} {p : Packet} (hm : 98 ∉ s.portsUsed chip n pl) (hh : s.heads chip n pl = [f]) (hr : f.rnode = none)
    (hp : s.pktOf f = some p) :
    s.routed chip n pl = (s.sent f p (s.way f p (s.portsUsed f.chip f.node f.plane))).cycled chip n pl := by
  rw [State.routed_plain hm (by rw [hh]; simpa using hr), hh, ← State.placeFlit_zero hp hr, ← State.placed_one]
  rfl

theorem sortBy_pair {α : Type} {le : α → α → Bool} {a b : α} (hab : le a b = true) (hba : le b a = false) :
    sortBy le [a, b] = [a, b] ∧ sortBy le [b, a] = [a, b] := by
  simp [sortBy, sortBy.insertFirst, hab, hba]

/-- Two flits at the router: the first in the order chooses first. -/
theorem State.routed_two {f g : Flit} (hm : 98 ∉ s.portsUsed chip n pl) (hh : s.heads chip n pl = [f, g] ∨ s.heads chip n pl = [g, f])
    (hk : s.flitKey f < s.flitKey g) (hf : f.rnode = none) (hg : g.rnode = none) :
    ∃ d e, d ≤ 1 ∧ e ≤ 1 ∧ s.routed chip n pl = ((s.placeFlit f d).placeFlit g e).cycled chip n pl := by
  have hmem : ∀ x ∈ s.heads chip n pl, x.rnode = none := by
    intro x hx
    rcases hh with h | h <;> rw [h] at hx <;> simp only [List.mem_cons, List.not_mem_nil, or_false] at hx <;>
      rcases hx with rfl | rfl <;> assumption
  have hsort : sortBy (fun a b => decide (s.flitKey a ≤ s.flitKey b)) (s.heads chip n pl) = [f, g] := by
    have := sortBy_pair (le := fun a b => decide (s.flitKey a ≤ s.flitKey b)) (a := f) (b := g) (decide_eq_true (by omega))
      (decide_eq_false (by omega))
    rcases hh with h | h <;> rw [h]
    exacts [this.1, this.2]
  rw [State.routed_plain hm hmem, hsort]
  refine ⟨_, _, ?_, ?_, rfl⟩
  · by_cases h1 : f.port < 4 <;> by_cases h2 : g.port < 4 <;> simp [h1, h2]
  · by_cases h1 : f.port < 4 <;> by_cases h2 : g.port < 4 <;> simp [h1, h2]

end

/-! ### ROUTE_FLIT -/

section
variable {s : State} {f : Flit} {p : Packet}

theorem State.mem_pkts_of_pktOf (h : s.pktOf f = some p) : p ∈ s.pkts := List.mem_of_find?_eq_some h

/-- The packets that a flit's ejection leaves, and the flits. -/
theorem State.eject_discards (hr : f.rnode = none) (hu : p.dst.unit = 15) (port : Nat) :
    s.eject f p port = { (s.dropFlit f.id).updClu (nodeKey f.chip f.node) fun c => { c with lost := c.lost + 1 } with
      pkts := s.pkts.filter fun (q : Packet) => q.id != p.id } := by
  simp only [State.eject, hr, if_pos hu]
  rfl
theorem State.eject_delivers (hr : f.rnode = none) (hu : p.dst.unit ≠ 15) (hl : p.last = 0) (port : Nat) :
    s.eject f p port = (s.dropFlit f.id).deliver { p with eject := port, age := f.age } := by
  simp only [State.eject, hr, if_neg hu, if_pos hl]
theorem State.eject_collects (hr : f.rnode = none) (hu : p.dst.unit ≠ 15) (hl : p.last ≠ 0) (port : Nat) :
    s.eject f p port = { s.dropFlit f.id with
      flits := (s.dropFlit f.id).flits ++ [{ f with port := 6 }],
      pkts := s.pkts.map fun (q : Packet) => if q.id = p.id then { q with eject := port, age := f.age } else q } := by
  simp only [State.eject, hr, if_neg hu, if_neg hl]
  rfl

theorem State.dropFlit_gone (t : State) (id : Nat) : ∀ x ∈ (t.dropFlit id).flits, x.id ≠ id := fun x hx => by
  simpa using (List.mem_filter.1 hx).2

variable {chip n : Nat} {pl : Plane} (hm : s.portsUsed chip n pl = []) (hh : s.heads chip n pl = [f]) (hr : f.rnode = none)
  (hchip : f.chip = chip) (hnode : f.node = n) (hplane : f.plane = pl) (hp : s.pktOf f = some p)
include hm hh hr hchip hnode hplane hp

theorem State.routed_way {w : Way} (hw : s.way f p [] = w) : s.routed chip n pl = (s.sent f p w).cycled chip n pl := by
  rw [State.routed_one (by rw [hm]; exact List.not_mem_nil) hh hr hp, hchip, hnode, hplane, hm, hw]

theorem State.routed_onward (hc : p.dst.chip = chip) (hn : p.dst.node ≠ n) :
    f.hopped (wayTo f.node p.dst.node []) ∈ (s.routed chip n pl).flits ∧ (s.routed chip n pl).pkts = s.pkts := by
  have hw : s.way f p [] = .torus (wayTo f.node p.dst.node []) := by
    rw [State.way_onward hr (hc.trans hchip.symm) (by rw [hnode]; exact hn)]
    exact towards_some (e := 0) (by decide) List.not_mem_nil
  rw [State.routed_way hm hh hr hchip hnode hplane hp hw]
  constructor
  · show _ ∈ (s.sent f p _).flits
    rw [State.sent_torus_flits hr]
    exact List.mem_append_right _ List.mem_cons_self
  · exact State.sent_torus_pkts (s := s) (p := p) (d := wayTo f.node p.dst.node []) hr

/-- An ejection by the first port. -/
theorem State.routed_ejects (hc : p.dst.chip = chip) (hn : p.dst.node = n) :
    s.routed chip n pl = (((s.eject f p 0).updClu (nodeKey chip n) fun c => c.passed (planeIx pl) .eject f.age)).cycled chip n pl := by
  have hw : s.way f p [] = .eject := State.way_eject hr (hc.trans hchip.symm) (hn.trans hnode.symm) (by decide)
  rw [State.routed_way hm hh hr hchip hnode hplane hp hw, State.sent, hchip, hnode, hplane, hm]
  rfl

theorem State.routed_discards (hc : p.dst.chip = chip) (hn : p.dst.node = n) (hu : p.dst.unit = 15) :
    (∀ x ∈ (s.routed chip n pl).flits, x.id ≠ f.id) ∧ (∀ x ∈ (s.routed chip n pl).pkts, x.id ≠ p.id) ∧
      ((s.routed chip n pl).clu (nodeKey chip n)).lost = (s.clu (nodeKey chip n)).lost + 1 := by
  rw [State.routed_ejects hm hh hr hchip hnode hplane hp hc hn, State.eject_discards hr hu]
  refine ⟨s.dropFlit_gone f.id, fun x hx => by simpa using (List.mem_filter.1 hx).2, ?_⟩
  rw [State.cycled, State.clu_updClu, State.clu_updClu, hchip, hnode]
  exact congrArg Cluster.lost (State.clu_updClu (s.dropFlit f.id) (nodeKey chip n) fun c => { c with lost := c.lost + 1 })

theorem State.routed_delivers (hc : p.dst.chip = chip) (hn : p.dst.node = n) (hu : p.dst.unit ≠ 15) (hl : p.last = 0) :
    (∀ x ∈ (s.routed chip n pl).flits, x.id ≠ f.id) ∧
      { p with stage := .arrived, eject := 0, age := f.age } ∈ (s.routed chip n pl).pkts := by
  rw [State.routed_ejects hm hh hr hchip hnode hplane hp hc hn, State.eject_delivers hr hu hl]
  exact ⟨s.dropFlit_gone f.id, List.mem_append_right _ List.mem_cons_self⟩

theorem State.routed_collects (hc : p.dst.chip = chip) (hn : p.dst.node = n) (hu : p.dst.unit ≠ 15) (hl : p.last ≠ 0) :
    { f with port := 6 } ∈ (s.routed chip n pl).flits ∧ { p with eject := 0, age := f.age } ∈ (s.routed chip n pl).pkts := by
  rw [State.routed_ejects hm hh hr hchip hnode hplane hp hc hn, State.eject_collects hr hu hl]
  exact ⟨List.mem_append_right _ List.mem_cons_self,
    List.mem_map.2 ⟨p, State.mem_pkts_of_pktOf hp, if_pos rfl⟩⟩

theorem State.routed_leaves (hc : p.dst.chip ≠ chip) {q : Nat} (hq : portAt n = some q)
    (hb : (AMap.get ((s.chip chip).tableAt s.now n) 0 p.dst.chip).getLsbD (q / 2) = true)
    (ho : ((s.chip chip).port q).open (planeIx pl) = true) :
    (∀ x ∈ (s.routed chip n pl).flits, x.id ≠ f.id) ∧
      (planeIx pl < ((s.chip chip).port q).store.length → ∃ g, g.pkt = f.pkt ∧ g.idx = f.idx ∧
        (((s.routed chip n pl).chip chip).port q).store.getD (planeIx pl) [] = ((s.chip chip).port q).store.getD (planeIx pl) [] ++
          [(((s.chip chip).port q).seqOut.getD (planeIx pl) 0, g)]) := by
  subst hchip hnode hplane
  have hw : s.way f p [] = .scaleUp q := State.way_scaleUp hr hc hq hb ho List.not_mem_nil
  rw [State.routed_way hm hh hr rfl rfl rfl hp hw]
  refine ⟨s.dropFlit_gone f.id, fun hl => ⟨{ f with age := older f.age ((if f.plane = .control then 2 else 4) + 250) }, rfl, rfl, ?_⟩⟩
  have hport : (((s.sent f p (.scaleUp q)).cycled f.chip f.node f.plane).chip f.chip).port q =
      ((s.chip f.chip).port q).send (planeIx f.plane) { f with age := older f.age ((if f.plane = .control then 2 else 4) + 250) } := by
    have hc : ((s.sent f p (.scaleUp q)).cycled f.chip f.node f.plane).chip f.chip = _ :=
      State.chip_updChip (s.dropFlit f.id) f.chip fun c => { c with ports := AMap.put c.ports q ((c.port q).send (planeIx f.plane)
        { f with age := older f.age ((if f.plane = .control then 2 else 4) + 250) }) }
    rw [hc]
    exact AMap.get_put_self ..
  rw [hport, Port.send]
  simp [List.getD_eq_getElem?_getD, hl]

end

/-- Two flits that go on: the second takes a port that the first has left free. -/
theorem State.routed_both {s : State} {f g : Flit} {p q : Packet} {chip n : Nat} {pl : Plane} (hm : s.portsUsed chip n pl = [])
    (hlen : planeIx pl < (s.clu (nodeKey chip n)).used.length)
    (hh : s.heads chip n pl = [f, g] ∨ s.heads chip n pl = [g, f]) (hid : f.id ≠ g.id) (hk : s.flitKey f < s.flitKey g)
    (hf : f.rnode = none) (hg : g.rnode = none) (hfc : f.chip = chip) (hgc : g.chip = chip) (hfn : f.node = n) (hgn : g.node = n)
    (hfp : f.plane = pl) (hgp : g.plane = pl) (hp : s.pktOf f = some p) (hq : s.pktOf g = some q) (hpc : p.dst.chip = chip)
    (hqc : q.dst.chip = chip) (hpn : p.dst.node ≠ n) (hqn : q.dst.node ≠ n) :
    let d := wayTo f.node p.dst.node []
    (s.routed chip n pl).pkts = s.pkts ∧ f.hopped d ∈ (s.routed chip n pl).flits ∧
      g.hopped (wayTo g.node q.dst.node [d]) ∈ (s.routed chip n pl).flits := by
  intro d
  subst hfc hfn hfp
  obtain ⟨a, b, ha, hb, he⟩ := State.routed_two (by rw [hm]; exact List.not_mem_nil) hh hk hf hg
  have hw1 : s.way f p (s.portsUsed f.chip f.node f.plane) = .torus d := by
    rw [hm, State.way_onward hf hpc hpn]
    exact towards_some (e := 0) (by decide) List.not_mem_nil
  have hplace1 : s.placeFlit f a = s.sent f p (.torus d) :=
    State.placeFlit_sent hp hw1 fun _ _ _ => by rw [hm]; exact Nat.lt_of_le_of_lt ha (by decide)
  have hused : (s.sent f p (.torus d)).portsUsed g.chip g.node g.plane = [d] := by
    rw [hgc, hgn, hgp, State.portsUsed, State.sent_torus_clu hf, Cluster.passed]
    rw [State.portsUsed] at hm
    rw [hm]
    simp [List.getD_eq_getElem?_getD, hlen, Way.taken]
  have hq' : (s.sent f p (.torus d)).pktOf g = some q := by
    rw [State.pktOf, State.sent_torus_pkts hf]; exact hq
  obtain ⟨e, he4, hed⟩ : ∃ e, e < 4 ∧ e ∉ [d] := by
    by_cases h : d = 0
    · exact ⟨1, by decide, by simp [h]⟩
    · exact ⟨0, by decide, by simpa using fun h' => h h'.symm⟩
  have hw2 : (s.sent f p (.torus d)).way g q [d] = .torus (wayTo g.node q.dst.node [d]) := by
    rw [State.way_onward hg (hqc.trans hgc.symm) (by rw [hgn]; exact hqn)]
    exact towards_some he4 hed
  have hfree : 1 < torusFree [d] := two_le_torusFree_singleton d
  have hplace2 : (s.sent f p (.torus d)).placeFlit g b = (s.sent f p (.torus d)).sent g q (.torus (wayTo g.node q.dst.node [d])) :=
    State.placeFlit_sent hq' (by rw [hused]; exact hw2) fun _ _ _ => by rw [hused]; exact Nat.lt_of_le_of_lt hb hfree
  rw [he, hplace1, hplace2]
  refine ⟨?_, ?_, ?_⟩
  · show ((s.sent f p _).sent g q _).pkts = s.pkts
    rw [State.sent_torus_pkts hg, State.sent_torus_pkts hf]
  · show _ ∈ ((s.sent f p _).sent g q _).flits
    rw [State.sent_torus_flits hg, State.sent_torus_flits hf]
    refine List.mem_append_left _ (List.mem_filter.2 ⟨List.mem_append_right _ List.mem_cons_self, ?_⟩)
    exact bne_iff_ne.2 hid
  · show _ ∈ ((s.sent f p _).sent g q _).flits
    rw [State.sent_torus_flits hg]
    exact List.mem_append_right _ List.mem_cons_self

end Sys2Proof.Machine
end

section
/-! Injection, the caps of a virtual device, and reassembly (R92, R98 to R100, R262). -/

namespace Sys2Proof.Machine

/-! ### Injection -/

section
variable {s : State}

/-- The node that the event names, and its cluster. -/
def State.argNode (s : State) : Nat := nodeKey s.arg.chip s.arg.node

theorem exec_injectFlit_idle (h : s.turnOf s.arg.chip s.arg.node s.arg.plane = none) : exec .injectFlit s = .next s := by
  simp only [exec, execInjectFlit, h]

/-- The flit that a node would inject. -/
def State.fresh (s t : State) (p : Packet) (i : Nat) : Flit :=
  { id := t.nextId, pkt := p.id, idx := i, plane := s.arg.plane, age := 0, chip := s.arg.chip, node := s.arg.node, port := 5 }

/-- Whether a flit may be injected into a router's cycle. -/
def State.mayInject (s t : State) (p : Packet) : Prop :=
  let c := t.clu s.argNode
  let cap := s.injCap p.vd s.arg.chip s.arg.node (planeIx s.arg.plane)
  s.dark s.arg.chip = false ∧ 99 ∉ c.used.getD (planeIx s.arg.plane) [] ∧ c.old.getD (planeIx s.arg.plane) false = false ∧
    (cap = 0 ∨ (c.injIn s.now).getD (planeIx s.arg.plane) 0 < cap)

/-- The packet of a flit that has been injected. -/
def Packet.injected (q : Packet) (p : Packet) (i : Nat) : Packet :=
  if q.id = p.id then { q with stage := if i = p.last then Stage.flying else Stage.outbox (i + 1) } else q

/-- The state with a flit at its router, with its packet's next stage. -/
def State.launched (t : State) (f : Flit) (p : Packet) (i : Nat) : State :=
  { t with nextId := t.nextId + 1, flits := t.flits ++ [f], pkts := t.pkts.map fun q => q.injected p i }
/-- The node's counts with an injection. -/
def State.counted (s : State) (p : Packet) (c : Cluster) : Cluster :=
  { c with
    used := c.used.set (planeIx s.arg.plane) (c.used.getD (planeIx s.arg.plane) [] ++ [99]),
    inj := (c.injIn s.now).set (planeIx s.arg.plane)
      ((c.injIn s.now).getD (planeIx s.arg.plane) 0 + (s.ownsNode p.vd s.arg.chip s.arg.node).toNat),
    injWin := s.now / 64, injUnit := c.injUnit.set (planeIx s.arg.plane) p.src.unit }
def State.countInjected (s t : State) (p : Packet) : State := t.updClu s.argNode (s.counted p)

variable {p : Packet} {i : Nat} (ht : s.turnOf s.arg.chip s.arg.node s.arg.plane = some (p, i))
include ht

theorem exec_injectFlit :
    let t := s.routed s.arg.chip s.arg.node s.arg.plane
    let c := t.clu s.argNode
    let cap := s.injCap p.vd s.arg.chip s.arg.node (planeIx s.arg.plane)
    exec .injectFlit s = .next (
      if s.dark s.arg.chip || (c.used.getD (planeIx s.arg.plane) []).contains 99 || c.old.getD (planeIx s.arg.plane) false ||
        (cap != 0 && decide (cap ≤ (c.injIn s.now).getD (planeIx s.arg.plane) 0)) then t
      else match t.way (s.fresh t p i) p (c.used.getD (planeIx s.arg.plane) []) with
        | .stay => t
        | _ => s.countInjected ((t.launched (s.fresh t p i) p i).placeFlit (s.fresh t p i) 0) p) := by
  simp only [exec, execInjectFlit, ht]
  rfl

omit ht in
/-- The guards of the instruction. -/
theorem State.mayInject_iff (s t : State) (p : Packet) :
    (s.dark s.arg.chip || ((t.clu s.argNode).used.getD (planeIx s.arg.plane) []).contains 99 || (t.clu s.argNode).old.getD (planeIx s.arg.plane) false ||
      (s.injCap p.vd s.arg.chip s.arg.node (planeIx s.arg.plane) != 0 && decide (s.injCap p.vd s.arg.chip s.arg.node (planeIx s.arg.plane) ≤
        ((t.clu s.argNode).injIn s.now).getD (planeIx s.arg.plane) 0))) = false ↔ s.mayInject t p := by
  simp only [State.mayInject, Bool.or_eq_false_iff, Bool.and_eq_false_iff, bne_eq_false_iff_eq, decide_eq_false_iff_not, Nat.not_le,
    List.contains_eq_mem, and_assoc]

theorem injectFlit_holds (h : ¬ s.mayInject (s.routed s.arg.chip s.arg.node s.arg.plane) p ∨
    (s.routed s.arg.chip s.arg.node s.arg.plane).way (s.fresh (s.routed s.arg.chip s.arg.node s.arg.plane) p i) p
      (((s.routed s.arg.chip s.arg.node s.arg.plane).clu s.argNode).used.getD (planeIx s.arg.plane) []) = .stay) :
    exec .injectFlit s = .next (s.routed s.arg.chip s.arg.node s.arg.plane) := by
  rw [exec_injectFlit ht]
  split
  · rfl
  next hg =>
    rcases h with h | h
    · exact absurd ((s.mayInject_iff _ p).1 (Bool.eq_false_iff.2 hg)) h
    · rw [h]

omit ht in
/-- The packet of a launched flit. -/
theorem State.launched_pktOf {t : State} (hp : t.pktOf (s.fresh t p i) = some p) :
    (t.launched (s.fresh t p i) p i).pktOf (s.fresh t p i) = some (p.injected p i) := by
  have hid : ∀ q : Packet, (q.injected p i).id = q.id := fun q => by unfold Packet.injected; split <;> rfl
  unfold State.pktOf at hp ⊢
  show (t.pkts.map fun (q : Packet) => q.injected p i).find? _ = _
  rw [List.find?_map]
  have : ((fun q : Packet => q.id == (s.fresh t p i).pkt) ∘ fun (q : Packet) => q.injected p i) =
      fun (q : Packet) => q.id == (s.fresh t p i).pkt :=
    funext fun q => by rw [Function.comp_apply, hid]
  rw [this, hp]
  rfl

omit ht in
/-- A launched flit that leaves by a torus port. -/
theorem State.launched_placed {t : State} (hp : t.pktOf (s.fresh t p i) = some p) {d : Nat}
    (hw : t.way (s.fresh t p i) p ((t.clu s.argNode).used.getD (planeIx s.arg.plane) []) = .torus d) :
    (t.launched (s.fresh t p i) p i).placeFlit (s.fresh t p i) 0 =
      (t.launched (s.fresh t p i) p i).sent (s.fresh t p i) (p.injected p i) (.torus d) := by
  have hdst : (p.injected p i).dst = p.dst := by unfold Packet.injected; split <;> rfl
  have hw' : (t.launched (s.fresh t p i) p i).way (s.fresh t p i) (p.injected p i)
      ((t.launched (s.fresh t p i) p i).portsUsed s.arg.chip s.arg.node s.arg.plane) = .torus d := by
    rw [← hw]
    simp only [State.way, hdst]
    rfl
  rw [State.placeFlit_zero (State.launched_pktOf hp) rfl]
  exact congrArg _ hw'

theorem exec_injectFlit_torus (hmay : s.mayInject (s.routed s.arg.chip s.arg.node s.arg.plane) p) {d : Nat}
    (hw : (s.routed s.arg.chip s.arg.node s.arg.plane).way (s.fresh (s.routed s.arg.chip s.arg.node s.arg.plane) p i) p
      (((s.routed s.arg.chip s.arg.node s.arg.plane).clu s.argNode).used.getD (planeIx s.arg.plane) []) = .torus d)
    (hp : (s.routed s.arg.chip s.arg.node s.arg.plane).pktOf (s.fresh (s.routed s.arg.chip s.arg.node s.arg.plane) p i) = some p) :
    let t := s.routed s.arg.chip s.arg.node s.arg.plane
    exec .injectFlit s =
      .next (s.countInjected ((t.launched (s.fresh t p i) p i).sent (s.fresh t p i) (p.injected p i) (.torus d)) p) := by
  intro t
  rw [exec_injectFlit ht, if_neg (Bool.eq_false_iff.1 ((s.mayInject_iff _ p).2 hmay)), hw, ← State.launched_placed hp hw]

omit ht in
/-- What an injection leaves in its window's counts. -/
theorem State.countInjected_counts {u : State} {c : Cluster} {w : Way} {age : Nat}
    (hu : u.clu s.argNode = c.passed (planeIx s.arg.plane) w age) :
    let pl := planeIx s.arg.plane
    let inj := c.injIn s.now
    let c' := (s.countInjected u p).clu s.argNode
    (pl < inj.length → c'.inj.getD pl 0 = inj.getD pl 0 + (if s.ownsNode p.vd s.arg.chip s.arg.node = true then 1 else 0)) ∧
      c'.injWin = s.now / 64 ∧ (pl < c.injUnit.length → c'.injUnit.getD pl 14 = p.src.unit) := by
  intro pl inj c'
  have hc : c' = s.counted p (c.passed pl w age) := (State.clu_updClu u s.argNode (s.counted p)).trans (congrArg _ hu)
  rw [hc]
  refine ⟨fun hl => ?_, rfl, fun hl => ?_⟩
  · show (inj.set pl _).getD pl 0 = _
    rw [List.getD_eq_getElem?_getD, List.getElem?_set_self hl, Option.getD_some]
    exact congrArg (inj.getD pl 0 + ·) (by cases s.ownsNode p.vd s.arg.chip s.arg.node <;> rfl)
  · show (c.injUnit.set pl _).getD pl 14 = _
    rw [List.getD_eq_getElem?_getD, List.getElem?_set_self hl, Option.getD_some]

omit ht in
/-- What an injection leaves of its flit and of its packet. -/
theorem State.launched_sent (t : State) (p : Packet) (i d : Nat) :
    let u := (t.launched (s.fresh t p i) p i).sent (s.fresh t p i) (p.injected p i) (.torus d)
    FabricOnly t u ∧ u.nextId = t.nextId + 1 ∧
      (∀ x ∈ t.pkts, x.id = p.id → { x with stage := if i = p.last then .flying else .outbox (i + 1) } ∈ u.pkts) ∧
      u.clu s.argNode = (t.clu s.argNode).passed (planeIx s.arg.plane) (.torus d) 0 ∧ (s.fresh t p i).hopped d ∈ u.flits := by
  intro u
  refine ⟨FabricOnly.trans (t := t.launched (s.fresh t p i) p i) rfl (FabricOnly.sent ..), State.sent_torus_nextId rfl,
    fun x hx hid => ?_, State.sent_torus_clu rfl, ?_⟩
  · show _ ∈ u.pkts
    rw [State.sent_torus_pkts rfl]
    exact List.mem_map.2 ⟨x, hx, if_pos hid⟩
  · rw [State.sent_torus_flits rfl]
    exact List.mem_append_right _ List.mem_cons_self

theorem injectFlit_injects (hmay : s.mayInject (s.routed s.arg.chip s.arg.node s.arg.plane) p) {d : Nat}
    (hw : (s.routed s.arg.chip s.arg.node s.arg.plane).way (s.fresh (s.routed s.arg.chip s.arg.node s.arg.plane) p i) p
      (((s.routed s.arg.chip s.arg.node s.arg.plane).clu s.argNode).used.getD (planeIx s.arg.plane) []) = .torus d)
    (hp : (s.routed s.arg.chip s.arg.node s.arg.plane).pktOf (s.fresh (s.routed s.arg.chip s.arg.node s.arg.plane) p i) = some p) :
    let t := s.routed s.arg.chip s.arg.node s.arg.plane
    let c := t.clu s.argNode
    let pl := planeIx s.arg.plane
    let inj := c.injIn s.now
    ∃ u, exec .injectFlit s = .next u ∧ (u.mem = s.mem ∧ u.cores = s.cores) ∧ u.nextId = t.nextId + 1 ∧
      (∀ x ∈ t.pkts, x.id = p.id → { x with stage := if i = p.last then .flying else .outbox (i + 1) } ∈ u.pkts) ∧
      (pl < inj.length → (u.clu s.argNode).inj.getD pl 0 =
        inj.getD pl 0 + (if s.ownsNode p.vd s.arg.chip s.arg.node = true then 1 else 0)) ∧
      (u.clu s.argNode).injWin = s.now / 64 ∧ (pl < c.injUnit.length → (u.clu s.argNode).injUnit.getD pl 14 = p.src.unit) ∧
      ∃ y ∈ u.flits, y.pkt = p.id ∧ y.idx = i ∧ y.node = hopTo s.arg.node d ∧ y.port = opposite d := by
  intro t c pl inj
  have hfab : FabricOnly s t := FabricOnly.routed ..
  have he := exec_injectFlit_torus ht hmay hw hp
  obtain ⟨hsent, hid, hpkts, hclu, hflit⟩ := State.launched_sent (s := s) t p i d
  obtain ⟨hinj, hwin, hunit⟩ := State.countInjected_counts (p := p) hclu
  exact ⟨_, he, (hfab.trans hsent).same, hid, hpkts, hinj, hwin, hunit, _, hflit, rfl, rfl, rfl, rfl⟩

end

theorem injectionCapWindow_counts (s : State) : ∃ t, exec .injectionCapWindow s = .next t ∧ (t.mem = s.mem ∧ t.cores = s.cores) ∧
    t.clu s.argNode = { s.clu s.argNode with inj := (s.clu s.argNode).injIn s.now, injWin := s.now / 64 } ∧
    ∀ j, j ≠ s.argNode → t.clu j = s.clu j :=
  ⟨_, rfl, ⟨rfl, rfl⟩, State.clu_updClu .., fun _ hj => State.clu_updClu_ne s _ hj⟩

/-! ### Reassembly (R98 to R100) -/

section
variable {s : State} {f : Flit} {p : Packet}
  (hf : (s.flits.find? fun f => f.id == s.arg.id && f.port == 6 && f.chip == s.arg.chip && f.node == s.arg.node) = some f)
  (hp : s.pktOf f = some p)
include hf

theorem arrived_place : f.chip = s.arg.chip ∧ f.node = s.arg.node := by
  have h := List.find?_some hf
  simp only [Bool.and_eq_true, beq_iff_eq] at h
  exact ⟨h.1.2, h.2⟩

include hp

section
variable (hr : (s.clu s.argNode).reasm.find? (fun r => r.src == p.src && r.tag == p.tag) = none)
include hr

theorem exec_reassembly_first : exec .reassembly s = .next (s.takeSlot p f) := by
  have hr' : (s.clu (nodeKey s.arg.chip s.arg.node)).reasm.find? (fun r => r.src == p.src && r.tag == p.tag) = none := hr
  simp only [exec, execReassembly, hf, hp, hr']

/-- A slot for a message's first flit. -/
def State.slotted (s : State) (p : Packet) (f : Flit) (shared : Bool) : State :=
  (s.dropFlit f.id).updClu (nodeKey f.chip f.node) fun c => { c with reasm := c.reasm ++ [⟨p.src, p.tag, p.vd, [f.idx], shared⟩] }

/-- How many slots of its floor a virtual device holds at the node, and how many shared ones are held. -/
def State.floorHeld (s : State) (vd : Nat) : Nat := ((s.clu s.argNode).reasm.filter fun r => r.vd == vd && !r.shared).length
def State.sharedHeld (s : State) : Nat := ((s.clu s.argNode).reasm.filter fun r => r.shared).length

/-- The message is refused with BUSY. -/
def State.slotless (s : State) (p : Packet) (f : Flit) : State :=
  { s.dropFlit f.id with pkts := s.pkts.filter fun (q : Packet) => q.id != p.id }.sendPkt ⟨f.chip, f.node, p.dst.unit⟩ p.src p.vd .control 0
    (.nack p.tag false)

omit hp hr in
theorem State.takeSlot_eq (p : Packet) : s.takeSlot p f =
    if s.floorHeld p.vd < s.floorOf p.vd s.arg.chip s.arg.node then s.slotted p f false
    else if s.sharedHeld < 256 - s.floorsAt s.arg.chip s.arg.node then s.slotted p f true else s.slotless p f := by
  obtain ⟨h1, h2⟩ := arrived_place hf
  simp only [State.takeSlot, h1, h2]
  simp only [State.slotted, State.slotless, h1, h2]
  rfl

omit hp hr in
theorem State.slotted_reasm (p : Packet) (shared : Bool) : ((s.slotted p f shared).clu s.argNode).reasm =
    (s.clu s.argNode).reasm ++ [⟨p.src, p.tag, p.vd, [f.idx], shared⟩] := by
  obtain ⟨h1, h2⟩ := arrived_place hf
  rw [State.slotted, h1, h2]
  exact congrArg Cluster.reasm (State.clu_updClu ..)

theorem reassembly_floor (h : s.floorHeld p.vd < s.floorOf p.vd s.arg.chip s.arg.node) : ∃ t, exec .reassembly s = .next t ∧
    (t.mem = s.mem ∧ t.cores = s.cores) ∧ (∀ x ∈ t.flits, x.id ≠ f.id) ∧
    (t.clu s.argNode).reasm = (s.clu s.argNode).reasm ++ [⟨p.src, p.tag, p.vd, [f.idx], false⟩] :=
  ⟨s.slotted p f false, (exec_reassembly_first hf hp hr).trans (congrArg _ ((State.takeSlot_eq hf p).trans (if_pos h))), ⟨rfl, rfl⟩,
    s.dropFlit_gone f.id, State.slotted_reasm hf p false⟩

theorem reassembly_shared (h : s.floorOf p.vd s.arg.chip s.arg.node ≤ s.floorHeld p.vd)
    (hs : s.sharedHeld < 256 - s.floorsAt s.arg.chip s.arg.node) : ∃ t, exec .reassembly s = .next t ∧
    (t.mem = s.mem ∧ t.cores = s.cores) ∧ (∀ x ∈ t.flits, x.id ≠ f.id) ∧
    (t.clu s.argNode).reasm = (s.clu s.argNode).reasm ++ [⟨p.src, p.tag, p.vd, [f.idx], true⟩] :=
  ⟨s.slotted p f true, (exec_reassembly_first hf hp hr).trans
    (congrArg _ ((State.takeSlot_eq hf p).trans ((if_neg (Nat.not_lt.2 h)).trans (if_pos hs)))), ⟨rfl, rfl⟩,
    s.dropFlit_gone f.id, State.slotted_reasm hf p true⟩

theorem reassembly_busy (h : s.floorOf p.vd s.arg.chip s.arg.node ≤ s.floorHeld p.vd)
    (hs : 256 - s.floorsAt s.arg.chip s.arg.node ≤ s.sharedHeld) : ∃ t a, exec .reassembly s = .next t ∧
    (t.mem = s.mem ∧ t.cores = s.cores) ∧ (∀ x ∈ t.flits, x.id ≠ f.id) ∧ a ∈ t.pkts ∧ a.dst = p.src ∧ a.payload = .nack p.tag false ∧
    (t.clu s.argNode).reasm = (s.clu s.argNode).reasm :=
  ⟨s.slotless p f, _, (exec_reassembly_first hf hp hr).trans
    (congrArg _ ((State.takeSlot_eq hf p).trans ((if_neg (Nat.not_lt.2 h)).trans (if_neg (Nat.not_lt.2 hs))))), ⟨rfl, rfl⟩,
    s.dropFlit_gone f.id, List.mem_append_right _ List.mem_cons_self, rfl, rfl, rfl⟩

end

/-- A flit that joins its message. -/
theorem reassembly_joins {r : Reasm} (hr : (s.clu s.argNode).reasm.find? (fun r => r.src == p.src && r.tag == p.tag) = some r) :
    let got := insertNat f.idx r.got
    ∃ t, exec .reassembly s = .next t ∧ (t.mem = s.mem ∧ t.cores = s.cores) ∧ (∀ x ∈ t.flits, x.id ≠ f.id) ∧
      (p.last < got.length → { p with stage := .arrived } ∈ t.pkts ∧ ∀ x ∈ (t.clu s.argNode).reasm, x ≠ r) ∧
      (got.length ≤ p.last → t.pkts = s.pkts ∧ { r with got := got } ∈ (t.clu s.argNode).reasm) := by
  intro got
  have hr' : (s.clu (nodeKey s.arg.chip s.arg.node)).reasm.find? (fun r => r.src == p.src && r.tag == p.tag) = some r := hr
  by_cases hl : p.last < got.length
  · refine ⟨((s.dropFlit f.id).updClu s.argNode fun c => { c with reasm := c.reasm.filter fun x => x != r }).deliver p, ?_, ⟨rfl, rfl⟩,
      s.dropFlit_gone f.id, fun _ => ⟨List.mem_append_right _ List.mem_cons_self, fun x hx => ?_⟩, fun h => absurd hl (Nat.not_lt.2 h)⟩
    · simp only [exec, execReassembly, hf, hp, hr']
      exact congrArg Host.Outcome.next (if_pos hl)
    · have hc : x ∈ (((s.dropFlit f.id).updClu s.argNode fun c => { c with reasm := c.reasm.filter fun x => x != r }).clu s.argNode).reasm := hx
      rw [State.clu_updClu] at hc
      simpa using (List.mem_filter.1 hc).2
  · refine ⟨(s.dropFlit f.id).updClu s.argNode fun c => { c with
      reasm := c.reasm.map fun (x : Reasm) => if x = r then { x with got := got } else x }, ?_, ⟨rfl, rfl⟩, s.dropFlit_gone f.id,
      fun h => absurd h hl, fun _ => ⟨rfl, ?_⟩⟩
    · simp only [exec, execReassembly, hf, hp, hr']
      exact congrArg Host.Outcome.next (if_neg hl)
    · rw [State.clu_updClu]
      exact List.mem_map.2 ⟨r, List.mem_of_find?_eq_some hr, if_pos rfl⟩

end

end Sys2Proof.Machine
end

section
/-! What a port receives from its link (R94 to R97). -/

namespace Sys2Proof.Machine

/-! ### The ports of a package -/

theorem State.port_updPort (s : State) (chip q : Nat) (f : Port → Port) :
    ((s.updPort chip q f).chip chip).port q = f ((s.chip chip).port q) := by
  rw [State.updPort, State.chip_updChip]
  exact AMap.get_put_self ..

theorem State.port_updPort_ne (s : State) {chip q c j : Nat} (f : Port → Port) (h : j ≠ q) :
    ((s.updPort chip q f).chip c).port j = (s.chip c).port j := by
  by_cases hc : c = chip
  · subst hc
    rw [State.updPort, State.chip_updChip]
    exact AMap.get_put_ne _ _ _ h
  · rw [State.updPort, State.chip_updChip_ne _ _ hc]

theorem opposite_ne (q : Nat) : opposite q ≠ q := by
  unfold opposite
  split <;> omega

theorem farPort_ne (q : Nat) : farPort q ≠ q := by
  have := opposite_ne (q / 2)
  unfold farPort
  omega

theorem hopTo_ne (n d : Nat) : hopTo n d ≠ n := by
  unfold hopTo
  dsimp only
  split <;> omega

/-- What an element of a list is after the element before it was set. -/
theorem getD_set_self {α : Type} {l : List α} {i : Nat} (h : i < l.length) (a d : α) : (l.set i a).getD i d = a := by
  rw [List.getD_eq_getElem?_getD, List.getElem?_set_self h, Option.getD_some]

/-! ### LINK_RECEIVE -/

section
variable (s : State)

/-- The event's port, and the one at the other end of its link. -/
def State.argPort : Port := (s.chip s.arg.chip).port s.arg.port
def State.farEnd : Port := (s.chip (neighbour s.arg.chip (s.arg.port / 2))).port (farPort s.arg.port)

/-- A port that receives: in service, trained and alive, in a package with power. -/
def State.receives : Prop :=
  s.dark s.arg.chip = false ∧ s.argPort.inService = true ∧ s.argPort.training = false ∧ s.argPort.dead = false

theorem State.receives_iff :
    (s.dark s.arg.chip || !s.argPort.inService || s.argPort.training || s.argPort.dead) = false ↔ s.receives := by
  simp only [State.receives, Bool.or_eq_false_iff, Bool.not_eq_false', and_assoc]

/-- The event's link without the flit that it takes. -/
def State.untilWire (rest : List (Nat × Flit)) : State :=
  s.updPort (neighbour s.arg.chip (s.arg.port / 2)) (farPort s.arg.port) fun p => { p with wire := p.wire.set (planeIx s.arg.plane) rest }

/-- The ports that the router of the event's port has used. -/
def State.portUses : List Nat := s.portsUsed s.arg.chip (Machine.attach s.arg.port) s.arg.plane

theorem State.untilWire_argPort (rest : List (Nat × Flit)) : (s.untilWire rest).argPort = s.argPort :=
  State.port_updPort_ne s _ (farPort_ne _).symm

theorem State.untilWire_wire (rest : List (Nat × Flit)) (h : planeIx s.arg.plane < s.farEnd.wire.length) :
    (s.untilWire rest).farEnd.wire.getD (planeIx s.arg.plane) [] = rest := by
  have hp : (s.untilWire rest).farEnd = { s.farEnd with wire := s.farEnd.wire.set (planeIx s.arg.plane) rest } :=
    State.port_updPort s _ _ _
  rw [hp]
  exact getD_set_self h ..

/-- The state with a flit counted in, and then at its router. -/
def State.countsIn (m : Nat) : State :=
  s.updPort s.arg.chip s.arg.port fun p => { p with seqIn := p.seqIn.set (planeIx s.arg.plane) ((m + 1) % 4096) }
def State.admits (m : Nat) (f : Flit) : State := (s.countsIn m).enterChip s.arg.chip s.arg.port f

end

section
variable {s : State}

theorem exec_linkReceive_idle (h : s.farEnd.wire.getD (planeIx s.arg.plane) [] = []) : exec .linkReceive s = .next s := by
  have h' : ((s.chip (neighbour s.arg.chip (s.arg.port / 2))).port (farPort s.arg.port)).wire.getD (planeIx s.arg.plane) [] = [] := h
  simp only [exec, execLinkReceive, h']

variable {m : Nat} {f : Flit} {rest : List (Nat × Flit)} (h : s.farEnd.wire.getD (planeIx s.arg.plane) [] = (m, f) :: rest)
include h

/-- What the port does with the next flit of its link. -/
theorem exec_linkReceive : exec .linkReceive s = .next (
    if s.dark s.arg.chip || !s.argPort.inService || s.argPort.training || s.argPort.dead then s.untilWire rest
    else if s.portUses.contains 98 then s
    else if m ≠ s.argPort.seqIn.getD (planeIx s.arg.plane) 0 then s.untilWire rest
    else
      let t := ((s.untilWire rest).admits m f).resumeTree s.arg.chip (attach s.arg.port) s.arg.plane
      let u := t.routed s.arg.chip (attach s.arg.port) s.arg.plane
      if t.sentOut u s.arg.chip (attach s.arg.port) s.arg.plane s.nextId then u
      else (s.untilWire rest).routed s.arg.chip (attach s.arg.port) s.arg.plane) := by
  show execLinkReceive s = _
  unfold execLinkReceive
  rw [State.farEnd] at h
  dsimp only
  rw [h]
  rfl

theorem exec_linkReceive_deaf (hup : ¬ s.receives) : exec .linkReceive s = .next (s.untilWire rest) := by
  rw [exec_linkReceive h, if_pos (by rwa [← State.receives_iff, Bool.not_eq_false] at hup)]

variable (hup : s.receives)
include hup

theorem exec_linkReceive_passed (hm : 98 ∈ s.portUses) : exec .linkReceive s = .next s := by
  rw [exec_linkReceive h, if_neg (Bool.eq_false_iff.1 (s.receives_iff.2 hup)), if_pos (by rw [List.contains_eq_mem]; exact decide_eq_true hm)]

variable (hm : 98 ∉ s.portUses)
include hm

theorem exec_linkReceive_loses (hn : m ≠ s.argPort.seqIn.getD (planeIx s.arg.plane) 0) :
    exec .linkReceive s = .next (s.untilWire rest) := by
  rw [exec_linkReceive h, if_neg (Bool.eq_false_iff.1 (s.receives_iff.2 hup)),
    if_neg (by rw [List.contains_eq_mem]; exact fun h => hm (of_decide_eq_true h)), if_pos hn]

end

/-! ### A flit accepted -/

/-- A flit at the scale-up input of a chip-edge router. -/
def Flit.entered (f : Flit) (chip q : Nat) : Flit := { f with chip := chip, node := attach q, port := 4 }

theorem State.enterChip_plain {s : State} {f : Flit} {k : Packet} (hr : f.rnode = none) (hp : s.pktOf f = some k) (chip q : Nat) :
    s.enterChip chip q f = { s with flits := s.flits ++ [f.entered chip q] } := by
  obtain ⟨id, pkt, idx, pl, age, c, n, port, rnode, up, entry⟩ := f
  cases hr
  unfold State.enterChip
  rw [hp]
  rfl

/-- A flit that arrives at an idle router is alone there. -/
theorem State.heads_arrival {s : State} {chip n : Nat} {pl : Plane} (h : s.heads chip n pl = []) {g : Flit} (hc : g.chip = chip)
    (hn : g.node = n) (hp : g.plane = pl) (h4 : g.port = 4) : { s with flits := s.flits ++ [g] }.heads chip n pl = [g] := by
  have hg : (g.chip == chip && g.node == n && g.plane == pl) = true := by simp [hc, hn, hp]
  unfold State.heads at h ⊢
  dsimp only at h ⊢
  rw [List.filter_append, List.filter_singleton, hg]
  generalize s.flits.filter (fun f => f.chip == chip && f.node == n && f.plane == pl) = here at h ⊢
  obtain ⟨hin, hcopy⟩ := List.append_eq_nil_iff.1 h
  have hnone : ∀ p ∈ ([0, 1, 2, 3, 4] : List Nat), here.find? (fun f => f.port == p) = none := List.filterMap_eq_nil_iff.1 hin
  simp only [List.mem_cons, List.not_mem_nil, or_false, forall_eq_or_imp, forall_eq] at hnone
  obtain ⟨h0, h1, h2, h3, h4'⟩ := hnone
  simp [List.find?_append, h0, h1, h2, h3, h4', h4, hcopy]

/-- Whether the one flit at a router is gone from it. -/
theorem State.sentOut_one {t u : State} {chip n new : Nat} {pl : Plane} {g : Flit} (h : t.heads chip n pl = [g]) (h4 : g.port = 4) :
    t.sentOut u chip n pl new = !u.flits.any fun x => x.id == g.id && x.chip == chip && x.node == n && x.port != 6 := by
  simp [State.sentOut, h, h4]

/-- A flit that its router ejects whole. -/
theorem State.sent_eject {s : State} {f : Flit} {k : Packet} (hr : f.rnode = none) (hu : k.dst.unit ≠ 15) (hl : k.last = 0) :
    (∀ x ∈ (s.sent f k .eject).flits, x.id ≠ f.id) ∧ (s.sent f k .eject).chips = s.chips ∧
      { k with stage := .arrived, eject := ((s.portsUsed f.chip f.node f.plane).filter (· == 6)).length, age := f.age } ∈
        (s.sent f k .eject).pkts := by
  have hm : s.move f k (s.portsUsed f.chip f.node f.plane) .eject = _ := State.eject_delivers hr hu hl _
  rw [State.sent, hm]
  exact ⟨s.dropFlit_gone f.id, rfl, List.mem_append_right _ List.mem_cons_self⟩

/-- A port admits the next flit of its link to an idle router of its package. -/
structure Admission (s : State) (m : Nat) (f : Flit) (rest : List (Nat × Flit)) (k : Packet) : Prop where
  wire : s.farEnd.wire.getD (planeIx s.arg.plane) [] = (m, f) :: rest
  up : s.receives
  waits : 98 ∉ s.portUses
  next : m = s.argPort.seqIn.getD (planeIx s.arg.plane) 0
  plain : f.rnode = none
  plane : f.plane = s.arg.plane
  pkt : s.pktOf f = some k
  here : k.dst.chip = s.arg.chip
  idle : s.heads s.arg.chip (attach s.arg.port) s.arg.plane = []

namespace Admission

variable {s : State} {m : Nat} {f : Flit} {rest : List (Nat × Flit)} {k : Packet} (h : Admission s m f rest k)
include h

theorem admits_eq : (s.untilWire rest).admits m f =
    { (s.untilWire rest).countsIn m with flits := s.flits ++ [f.entered s.arg.chip s.arg.port] } := by
  have hp : ((s.untilWire rest).countsIn m).pktOf f = some k := h.pkt
  exact State.enterChip_plain h.plain hp ..

/-- The admitting port counts the flit. -/
theorem admits_seqIn (hl : planeIx s.arg.plane < s.argPort.seqIn.length) {t : State}
    (ht : t.chips = ((s.untilWire rest).admits m f).chips) :
    ((t.chip s.arg.chip).port s.arg.port).seqIn.getD (planeIx s.arg.plane) 0 = (m + 1) % 4096 := by
  have hc : t.chips = ((s.untilWire rest).countsIn m).chips := by rw [ht, h.admits_eq]
  have hp : (t.chip s.arg.chip).port s.arg.port =
      { s.argPort with seqIn := s.argPort.seqIn.set (planeIx s.arg.plane) ((m + 1) % 4096) } := by
    rw [State.chip, hc, ← s.untilWire_argPort rest]
    exact State.port_updPort (s.untilWire rest) ..
  rw [hp]
  exact getD_set_self hl ..

theorem admits_pktOf : ((s.untilWire rest).admits m f).pktOf (f.entered s.arg.chip s.arg.port) = some k := by
  rw [h.admits_eq]
  exact h.pkt

theorem admits_fabric : FabricOnly s ((s.untilWire rest).admits m f) := by
  rw [h.admits_eq]
  rfl

theorem admits_portsUsed : ((s.untilWire rest).admits m f).portsUsed s.arg.chip (attach s.arg.port) s.arg.plane = s.portUses := by
  rw [h.admits_eq]
  rfl

theorem admits_heads : ((s.untilWire rest).admits m f).heads s.arg.chip (attach s.arg.port) s.arg.plane =
    [f.entered s.arg.chip s.arg.port] := by
  rw [h.admits_eq]
  exact State.heads_arrival (s := s) h.idle rfl rfl h.plane rfl

/-- The state in which the router has sent the flit its way. -/
theorem routed {w : Way} (hw : ((s.untilWire rest).admits m f).way (f.entered s.arg.chip s.arg.port) k s.portUses = w) :
    ((s.untilWire rest).admits m f).routed s.arg.chip (attach s.arg.port) s.arg.plane =
      (((s.untilWire rest).admits m f).sent (f.entered s.arg.chip s.arg.port) k w).cycled s.arg.chip (attach s.arg.port) s.arg.plane := by
  have hplane : (f.entered s.arg.chip s.arg.port).plane = s.arg.plane := h.plane
  rw [State.routed_one (by rw [h.admits_portsUsed]; exact h.waits) h.admits_heads h.plain h.admits_pktOf, hplane]
  have hu : ((s.untilWire rest).admits m f).portsUsed (f.entered s.arg.chip s.arg.port).chip (f.entered s.arg.chip s.arg.port).node
      s.arg.plane = s.portUses := h.admits_portsUsed
  rw [hu, hw]

/-- Once the router has placed the flit, it has left or not. -/
theorem exec_eq {w : Way} (hw : ((s.untilWire rest).admits m f).way (f.entered s.arg.chip s.arg.port) k s.portUses = w) :
    let t := (s.untilWire rest).admits m f
    let g := f.entered s.arg.chip s.arg.port
    let u := (t.sent g k w).cycled s.arg.chip (attach s.arg.port) s.arg.plane
    exec .linkReceive s = .next (
      if !u.flits.any fun x => x.id == g.id && x.chip == s.arg.chip && x.node == attach s.arg.port && x.port != 6 then u
      else (s.untilWire rest).routed s.arg.chip (attach s.arg.port) s.arg.plane) := by
  intro t g u
  rw [exec_linkReceive h.wire, if_neg (Bool.eq_false_iff.1 (s.receives_iff.2 h.up)),
    if_neg (by rw [List.contains_eq_mem]; exact fun hm => h.waits (of_decide_eq_true hm)), if_neg (not_not.2 h.next)]
  have hres : t.resumeTree s.arg.chip (attach s.arg.port) s.arg.plane = t :=
    State.resumeTree_same fun x hx => by rw [h.admits_heads, List.mem_singleton] at hx; rw [hx]; exact h.plain
  dsimp only
  rw [hres, h.routed hw, State.sentOut_one h.admits_heads rfl]

theorem entered_plain : (f.entered s.arg.chip s.arg.port).rnode = none := h.plain

/-- Where the flit goes, if its destination is another node. -/
theorem way_onward (hn : k.dst.node ≠ attach s.arg.port) :
    ((s.untilWire rest).admits m f).way (f.entered s.arg.chip s.arg.port) k s.portUses = towards (attach s.arg.port) k.dst.node s.portUses :=
  State.way_onward h.entered_plain h.here hn

/-- The flit has left its router. -/
theorem exec_gone {w : Way} (hw : ((s.untilWire rest).admits m f).way (f.entered s.arg.chip s.arg.port) k s.portUses = w)
    (hg : ∀ x ∈ (((s.untilWire rest).admits m f).sent (f.entered s.arg.chip s.arg.port) k w).flits, x.id = f.id → x.node ≠ attach s.arg.port) :
    exec .linkReceive s = .next ((((s.untilWire rest).admits m f).sent (f.entered s.arg.chip s.arg.port) k w).cycled s.arg.chip
      (attach s.arg.port) s.arg.plane) := by
  rw [h.exec_eq hw, if_pos]
  rw [Bool.not_eq_true', List.any_eq_false]
  intro x hx he
  simp only [Bool.and_eq_true, beq_iff_eq] at he
  obtain ⟨⟨⟨hid, -⟩, hn⟩, -⟩ := he
  exact hg x hx hid hn

/-- A flit that finds no free port is lost; the router's cycle passes without it. -/
theorem stays (hn : k.dst.node ≠ attach s.arg.port) (hall : ∀ d, d < 4 → d ∈ s.portUses) :
    exec .linkReceive s = .next ((s.untilWire rest).routed s.arg.chip (attach s.arg.port) s.arg.plane) := by
  have hw : ((s.untilWire rest).admits m f).way (f.entered s.arg.chip s.arg.port) k s.portUses = .stay :=
    (h.way_onward hn).trans (towards_none hall)
  rw [h.exec_eq hw, if_neg]
  rw [Bool.not_eq_true', Bool.not_eq_false, List.any_eq_true]
  refine ⟨{ f.entered s.arg.chip s.arg.port with age := _ }, List.mem_map.2 ⟨f.entered s.arg.chip s.arg.port, ?_, if_pos rfl⟩, ?_⟩
  · rw [h.admits_eq]
    exact List.mem_append_right _ List.mem_cons_self
  · simp [Flit.entered]

/-- A flit for a unit of the node is ejected. -/
theorem ejects (hn : k.dst.node = attach s.arg.port) (hu : k.dst.unit ≠ 15) (hl : k.last = 0)
    (h6 : (s.portUses.filter (· == 6)).length < 2) (hlen : planeIx s.arg.plane < s.argPort.seqIn.length) :
    ∃ t, exec .linkReceive s = .next t ∧ (t.mem = s.mem ∧ t.cores = s.cores) ∧
      ((t.chip s.arg.chip).port s.arg.port).seqIn.getD (planeIx s.arg.plane) 0 = (m + 1) % 4096 ∧
      { k with stage := .arrived, eject := (s.portUses.filter (· == 6)).length, age := f.age } ∈ t.pkts := by
  have hw : ((s.untilWire rest).admits m f).way (f.entered s.arg.chip s.arg.port) k s.portUses = .eject :=
    State.way_eject h.entered_plain h.here hn h6
  have hplane : (f.entered s.arg.chip s.arg.port).plane = s.arg.plane := h.plane
  have hsent := State.sent_eject (s := (s.untilWire rest).admits m f) h.entered_plain hu hl
  have hused : ((s.untilWire rest).admits m f).portsUsed (f.entered s.arg.chip s.arg.port).chip (f.entered s.arg.chip s.arg.port).node
      (f.entered s.arg.chip s.arg.port).plane = s.portUses := by rw [hplane]; exact h.admits_portsUsed
  obtain ⟨hgone, hchips, hpkt⟩ := hsent
  rw [hused] at hpkt
  exact ⟨_, h.exec_gone hw fun x hx hid => absurd hid (hgone x hx), (h.admits_fabric.trans (FabricOnly.sent ..)).same,
    h.admits_seqIn hlen hchips, hpkt⟩

/-- A flit that goes on leaves by the first free port that shortens its way. -/
theorem goesOn {d : Nat} (hn : k.dst.node ≠ attach s.arg.port) (hd : d = wayTo (attach s.arg.port) k.dst.node s.portUses)
    (hfree : d ∉ s.portUses) (hlen : planeIx s.arg.plane < s.argPort.seqIn.length) :
    ∃ t, exec .linkReceive s = .next t ∧ (t.mem = s.mem ∧ t.cores = s.cores) ∧
      ((t.chip s.arg.chip).port s.arg.port).seqIn.getD (planeIx s.arg.plane) 0 = (m + 1) % 4096 ∧
      (f.entered s.arg.chip s.arg.port).hopped d ∈ t.flits := by
  have hw : ((s.untilWire rest).admits m f).way (f.entered s.arg.chip s.arg.port) k s.portUses = .torus d :=
    (h.way_onward hn).trans ((towards_some (by rw [hd]; exact wayTo_lt ..) hfree).trans (congrArg Way.torus hd.symm))
  refine ⟨_, h.exec_gone hw ?_, ?_, ?_, ?_⟩
  · intro x hx hid
    rw [State.sent_torus_flits h.entered_plain] at hx
    rcases List.mem_append.1 hx with hx | hx
    · exact absurd hid (bne_iff_ne.1 (List.mem_filter.1 hx).2)
    · rw [List.mem_singleton.1 hx]
      exact hopTo_ne _ d
  · exact (h.admits_fabric.trans (FabricOnly.sent ..)).same
  · have hc : ((((s.untilWire rest).admits m f).sent (f.entered s.arg.chip s.arg.port) k (.torus d)).cycled s.arg.chip
        (attach s.arg.port) s.arg.plane).chips = ((s.untilWire rest).admits m f).chips :=
      State.sent_torus_chips (s := (s.untilWire rest).admits m f) (p := k) (d := d) h.entered_plain
    exact h.admits_seqIn hlen hc
  · show _ ∈ (((s.untilWire rest).admits m f).sent (f.entered s.arg.chip s.arg.port) k (.torus d)).flits
    rw [State.sent_torus_flits h.entered_plain]
    exact List.mem_append_right _ List.mem_cons_self

end Admission

end Sys2Proof.Machine
end

section
/-! Replay, acknowledgement, lanes, retraining and the end of a port (R94 to R97). -/

namespace Sys2Proof.Machine

/-! ### Replay -/

section
variable (s : State)

/-- What the far end of the event's link has not accepted. -/
def State.unread (pl : Nat) : List (Nat × Flit) := unaccepted (s.farNext s.arg.chip s.arg.port pl) (s.argPort.store.getD pl [])

theorem linkReplay_resends : ∃ t, exec .linkReplay s = .next t ∧ (t.mem = s.mem ∧ t.cores = s.cores) ∧
    ((t.chip s.arg.chip).port s.arg.port).store = s.argPort.store ∧ ((t.chip s.arg.chip).port s.arg.port).wire =
      if s.argPort.inService = true ∧ s.argPort.training = false ∧ s.argPort.dead = false then
        s.argPort.wire.set (planeIx s.arg.plane) (s.unread (planeIx s.arg.plane)) else s.argPort.wire := by
  refine ⟨_, rfl, ⟨rfl, rfl⟩, ?_⟩
  rw [State.port_updPort]
  simp only [Bool.and_eq_true, Bool.not_eq_true', and_assoc]
  rw [← State.argPort]
  by_cases h : s.argPort.inService = true ∧ s.argPort.training = false ∧ s.argPort.dead = false
  · rw [if_pos h, if_pos h]
    exact ⟨rfl, rfl⟩
  · rw [if_neg h, if_neg h]
    exact ⟨rfl, rfl⟩

theorem linkAcknowledge_forgets : ∃ t, exec .linkAcknowledge s = .next t ∧ (t.mem = s.mem ∧ t.cores = s.cores) ∧
    ((t.chip s.arg.chip).port s.arg.port).store = s.argPort.store.set (planeIx s.arg.plane) (s.unread (planeIx s.arg.plane)) ∧
    ((t.chip s.arg.chip).port s.arg.port).wire = s.argPort.wire := by
  refine ⟨_, rfl, ⟨rfl, rfl⟩, ?_⟩
  rw [State.port_updPort]
  exact ⟨rfl, rfl⟩

end

/-! ### LANE_FAILURE -/

section
variable (p : Port) (lane now : Nat)

/-- Whether the spare takes over from a lane, and the port without the lane. -/
def Port.spareTakes : Bool := p.spare.isNone && p.lanes.getD 8 true && decide (lane < 8)
def Port.without : Port := { p with lanes := p.lanes.set lane false, spare := if p.spareTakes lane then some lane else p.spare }

/-- The cycle since which a port has been away, if it goes in this one. -/
def Port.awaySince : Nat := if p.inService && !p.training then now else p.since

/-- The port after the failure of a lane. -/
def Port.weaker : Port :=
  if (p.without lane).controlLost then { p.without lane with inService := false, since := p.awaySince now }
  else if p.spareTakes lane then { p.without lane with training := true, since := p.awaySince now } else p.without lane

theorem Port.weaker_lanes : (p.weaker lane now).lanes = (p.without lane).lanes ∧ (p.weaker lane now).spare = (p.without lane).spare := by
  unfold Port.weaker
  split
  · exact ⟨rfl, rfl⟩
  · split <;> exact ⟨rfl, rfl⟩

theorem Port.weaker_dataLanes : (p.weaker lane now).dataLanes = (p.without lane).dataLanes := by
  obtain ⟨h1, h2⟩ := p.weaker_lanes lane now
  unfold Port.dataLanes Port.carries
  rw [h1, h2]

theorem Port.weaker_service : (p.weaker lane now).inService = (p.inService && !(p.without lane).controlLost) ∧
    (p.weaker lane now).training = (p.training || (!(p.without lane).controlLost && p.spareTakes lane)) ∧
    (p.weaker lane now).since =
      if (((p.without lane).controlLost || p.spareTakes lane) && p.inService && !p.training) = true then now else p.since := by
  unfold Port.weaker
  cases hl : (p.without lane).controlLost with
  | true => simp [Port.awaySince, Port.without]
  | false =>
    cases ht : p.spareTakes lane with
    | true => simp [Port.awaySince, Port.without]
    | false => simp [Port.without, ht]

end

/-- An EVENT for the lead supervisor: its data, and its code at bit 32 (R474). -/
theorem State.belayEvent_chip (s : State) (chip die stop code : Nat) (data : Word) : ∃ e,
    (s.belayEvent chip die stop code data).chip chip = { s.chip chip with belay := (s.chip chip).belay ++ [e] } ∧ e.w1 = data ∧
      (code < 64 → fld e.w0.toNat 32 6 = code) := by
  let w0 := 3 * 2 ^ 60 + die * 2 ^ 58 + stop * 2 ^ 49 + ((s.chip chip).lead / 4) * 2 ^ 47 + (256 + (s.chip chip).lead % 4) * 2 ^ 38 +
    code * 2 ^ 32
  refine ⟨⟨s.nextId, BitVec.ofNat 64 w0, data⟩, ?_, rfl, fun hcode => ?_⟩
  · show (s.updChip chip fun c => { c with belay := c.belay ++ [⟨s.nextId, BitVec.ofNat 64 w0, data⟩] }).chip chip = _
    rw [State.chip_updChip]
  · rw [fld, BitVec.toNat_ofNat]
    omega

theorem SameRing.trans {chip : Nat} {s t u : State} (h : SameRing chip s t) (g : SameRing chip t u) : SameRing chip s u :=
  ⟨g.mem.trans h.mem, g.base.trans h.base, g.head.trans h.head, g.tail.trans h.tail⟩

theorem SameRing.belayEvent (s : State) (chip die stop code : Nat) (data : Word) : SameRing chip s (s.belayEvent chip die stop code data) := by
  obtain ⟨e, h, -⟩ := s.belayEvent_chip chip die stop code data
  refine ⟨rfl, ?_, ?_, ?_⟩ <;> rw [h]

theorem FabricOnly.updPort (s : State) (chip q : Nat) (f : Port → Port) : FabricOnly s (s.updPort chip q f) := rfl
theorem FabricOnly.belayEvent (s : State) (chip die stop code : Nat) (data : Word) :
    FabricOnly s (s.belayEvent chip die stop code data) := rfl

section
variable {s : State}

/-- The state with the port of a lane that has failed, and the event that tells of it. -/
def State.weakened (s : State) : State :=
  (s.updPort s.arg.chip s.arg.port fun _ => s.argPort.weaker s.arg.lane s.now).belayEvent s.arg.chip (portStop s.arg.port).1
    (portStop s.arg.port).2 0x03 (BitVec.ofNat 64 ((s.argPort.weaker s.arg.lane s.now).dataLanes * 16 + s.arg.port))

/-- How a repair of a lane ends. -/
def State.laneOutcome (s : State) : Nat :=
  if (s.argPort.without s.arg.lane).controlLost then 4 else if s.argPort.spareTakes s.arg.lane then 1 else 2

theorem exec_laneFailure_idle (h : s.argPort.lanes.getD s.arg.lane true = false) : exec .laneFailure s = .next s := by
  show execLaneFailure s = _
  unfold execLaneFailure
  exact congrArg Host.Outcome.next (if_pos (by rw [Bool.not_eq_true']; exact h))

theorem exec_laneFailure (h : s.argPort.lanes.getD s.arg.lane true = true) :
    exec .laneFailure s = .next (s.weakened.reported s.arg.chip 0 3 s.arg.port s.laneOutcome []) := by
  show execLaneFailure s = _
  unfold execLaneFailure
  exact congrArg Host.Outcome.next (if_neg (by rw [Bool.not_eq_true', Bool.not_eq_false]; exact h))

theorem State.weakened_ring : SameRing s.arg.chip s s.weakened :=
  (SameRing.updChip s s.arg.chip _ fun _ => rfl).trans (SameRing.belayEvent ..)

/-- The package of a port that has lost a lane. -/
theorem State.weakened_chip : ∃ e, s.weakened.chip s.arg.chip = { s.chip s.arg.chip with
      ports := AMap.put (s.chip s.arg.chip).ports s.arg.port (s.argPort.weaker s.arg.lane s.now),
      belay := (s.chip s.arg.chip).belay ++ [e] } ∧
    e.w1 = BitVec.ofNat 64 ((s.argPort.without s.arg.lane).dataLanes * 16 + s.arg.port) ∧ fld e.w0.toNat 32 6 = 3 := by
  obtain ⟨e, hchip, hw1, hw0⟩ := State.belayEvent_chip (s.updPort s.arg.chip s.arg.port fun _ => s.argPort.weaker s.arg.lane s.now)
    s.arg.chip (portStop s.arg.port).1 (portStop s.arg.port).2 0x03
    (BitVec.ofNat 64 ((s.argPort.weaker s.arg.lane s.now).dataLanes * 16 + s.arg.port))
  rw [Port.weaker_dataLanes] at hw1
  refine ⟨e, ?_, hw1, hw0 (by decide)⟩
  rw [State.weakened, hchip, State.updPort, State.chip_updChip]

theorem laneFailure_weakens (h : s.argPort.lanes.getD s.arg.lane true = true) : ∃ t e, exec .laneFailure s = .next t ∧
    t.cores = s.cores ∧ t.mem = (s.repairEntry s.arg.chip 0 3 s.arg.port s.laneOutcome []).mem ∧
    (t.chip s.arg.chip).repairs = (s.chip s.arg.chip).repairs + 1 ∧
    (t.chip s.arg.chip).port s.arg.port = s.argPort.weaker s.arg.lane s.now ∧ e ∈ (t.chip s.arg.chip).belay ∧
    e.w1 = BitVec.ofNat 64 ((s.argPort.without s.arg.lane).dataLanes * 16 + s.arg.port) ∧ fld e.w0.toNat 32 6 = 3 := by
  obtain ⟨e, hchip, he⟩ := s.weakened_chip
  have hrep := s.weakened.reported_chip s.arg.chip 0 3 s.arg.port s.laneOutcome []
  rw [hchip] at hrep
  have hport := (congrArg (fun c : Chip => AMap.get c.ports {} s.arg.port) hrep :)
  have hbelay := (congrArg Chip.belay hrep :)
  exact ⟨_, e, exec_laneFailure h, State.reported_cores .., State.weakened_ring.reported_mem .., (congrArg Chip.repairs hrep :),
    hport.trans (AMap.get_put_self ..), hbelay ▸ List.mem_append_right _ List.mem_cons_self, he⟩

end

/-! ### RETRAINING_END -/

theorem State.trained_port (s : State) (chip q : Nat) : ((s.trained chip).chip chip).port q = (s.chip chip).port q := by
  rw [State.trained_chip]
  split <;> rfl
theorem State.trained_belay (s : State) (chip : Nat) : ((s.trained chip).chip chip).belay = (s.chip chip).belay := by
  rw [State.trained_chip]
  split <;> rfl

/-- A package whose ports have all retrained is ON. -/
theorem State.trained_on (s : State) (chip : Nat) (h : (s.chip chip).power = .training)
    (hq : ∀ j, j < 12 → (((s.trained chip).chip chip).port j).training = false) : ((s.trained chip).chip chip).power = .on := by
  have hall : ((tab 12 id).all fun q => !((s.chip chip).port q).training) = true := by
    refine List.all_eq_true.2 fun q hm => ?_
    obtain ⟨j, hj, rfl⟩ := mem_tab.1 hm
    have := hq j hj
    rw [State.trained_port] at this
    simpa using this
  rw [State.trained_chip, if_pos ⟨h, hall⟩]

theorem FabricOnly.trained (s : State) (chip : Nat) : FabricOnly s (s.trained chip) := by
  unfold State.trained
  dsimp only
  split <;> rfl

section
variable (s : State)

/-- A port after its retraining. -/
def Port.retrained (p : Port) (back : List (List (Nat × Flit))) : Port :=
  if p.training = true ∧ ¬ p.dead = true then { p with training := false, wire := back } else p

theorem exec_retrainingEnd : exec .retrainingEnd s = .next ((s.updPort s.arg.chip s.arg.port fun p =>
    p.retrained [unaccepted (s.farNext s.arg.chip s.arg.port 0) (p.store.getD 0 []),
      unaccepted (s.farNext s.arg.chip s.arg.port 1) (p.store.getD 1 [])]).trained s.arg.chip) := rfl

theorem retrainingEnd_returns : ∃ t, exec .retrainingEnd s = .next t ∧ (t.mem = s.mem ∧ t.cores = s.cores) ∧
    (s.argPort.training = true → s.argPort.dead = false → ((t.chip s.arg.chip).port s.arg.port).training = false ∧
      ((t.chip s.arg.chip).port s.arg.port).wire = [s.unread 0, s.unread 1]) ∧
    (s.argPort.training = false ∨ s.argPort.dead = true → (t.chip s.arg.chip).port s.arg.port = s.argPort) ∧
    ((s.chip s.arg.chip).power = .training → (∀ j, j < 12 → ((t.chip s.arg.chip).port j).training = false) →
      (t.chip s.arg.chip).power = .on) := by
  refine ⟨_, exec_retrainingEnd s, ((FabricOnly.updPort ..).trans (FabricOnly.trained ..)).same, ?_⟩
  rw [State.trained_port, State.port_updPort]
  refine ⟨fun h1 h2 => ?_, fun h => if_neg ?_, fun hp hq => State.trained_on _ _ ?_ hq⟩
  · have hr : ∀ back, s.argPort.retrained back = { s.argPort with training := false, wire := back } :=
      fun _ => if_pos ⟨h1, by rw [h2]; decide⟩
    exact ⟨(congrArg Port.training (hr _) :), (congrArg Port.wire (hr _) :)⟩
  · rintro ⟨h1, h2⟩
    rcases h with h | h
    · exact Bool.false_ne_true (h.symm.trans h1)
    · exact h2 h
  · rw [State.updPort, State.chip_updChip]
    exact hp

/-! ### PORT_OUT_OF_SERVICE -/

/-- A port that has given up its link, with what its replay stores keep. -/
def Port.dying (p : Port) (left : List (List (Nat × Flit))) : Port :=
  { p with dead := true, training := false, inService := false, store := left, wire := [[], []] }

theorem State.portDies_eq (chip q : Nat) : s.portDies chip q = ((s.updPort chip q fun p =>
    p.dying [unaccepted (s.farNext chip q 0) (p.store.getD 0 []), unaccepted (s.farNext chip q 1) (p.store.getD 1 [])]).belayEvent chip
      (portStop q).1 (portStop q).2 0x06 (BitVec.ofNat 64 q)).trained chip := rfl

theorem exec_portOutOfService : exec .portOutOfService s = .next (
    if s.argPort.dead then (s.moveStored s.arg.chip s.arg.port 0).moveStored s.arg.chip s.arg.port 1
    else if (s.argPort.inService && !s.argPort.training) || decide (s.now < s.argPort.since + portBound) then s
    else s.portDies s.arg.chip s.arg.port) := rfl

variable {s}

theorem exec_portOutOfService_waits (hd : s.argPort.dead = false)
    (h : (s.argPort.inService = true ∧ s.argPort.training = false) ∨ s.now < s.argPort.since + portBound) :
    exec .portOutOfService s = .next s := by
  rw [exec_portOutOfService, if_neg (Bool.eq_false_iff.1 hd), if_pos]
  simpa using h

theorem portOutOfService_dies (hd : s.argPort.dead = false) (h : s.argPort.inService = false ∨ s.argPort.training = true)
    (ht : s.argPort.since + portBound ≤ s.now) : ∃ t e, exec .portOutOfService s = .next t ∧ (t.mem = s.mem ∧ t.cores = s.cores) ∧
      (t.chip s.arg.chip).port s.arg.port = s.argPort.dying [s.unread 0, s.unread 1] ∧
      e ∈ (t.chip s.arg.chip).belay ∧ e.w1 = BitVec.ofNat 64 s.arg.port ∧ fld e.w0.toNat 32 6 = 6 := by
  have he : exec .portOutOfService s = .next (s.portDies s.arg.chip s.arg.port) := by
    rw [exec_portOutOfService, if_neg (Bool.eq_false_iff.1 hd), if_neg]
    rcases h with h | h <;> simp [h, ht]
  obtain ⟨e, hchip, hw1, hw0⟩ := State.belayEvent_chip (s.updPort s.arg.chip s.arg.port fun p => p.dying
    [unaccepted (s.farNext s.arg.chip s.arg.port 0) (p.store.getD 0 []), unaccepted (s.farNext s.arg.chip s.arg.port 1) (p.store.getD 1 [])])
    s.arg.chip (portStop s.arg.port).1 (portStop s.arg.port).2 0x06 (BitVec.ofNat 64 s.arg.port)
  refine ⟨_, e, he, ((FabricOnly.updPort ..).trans ((FabricOnly.belayEvent ..).trans (FabricOnly.trained ..))).same, ?_, ?_, hw1, hw0 (by decide)⟩
  · rw [State.portDies_eq, State.trained_port, hchip]
    exact State.port_updPort s ..
  · rw [State.portDies_eq, State.trained_belay, hchip]
    exact List.mem_append_right _ List.mem_cons_self

end

/-! ### The flits of a dead port -/

section
variable {s : State} {chip q pl : Nat}

theorem FabricOnly.moveStored (s : State) (chip q pl : Nat) : FabricOnly s (s.moveStored chip q pl) := by
  unfold State.moveStored
  split
  · rfl
  · split <;> rfl

theorem State.moveStored_eq {x : Nat × Flit} {rest : List (Nat × Flit)} (hs : ((s.chip chip).port q).store.getD pl [] = x :: rest)
    (ho : ((s.chip chip).port (opposite q)).open pl = true) : s.moveStored chip q pl =
      (s.updPort chip q fun p => { p with store := p.store.set pl rest }).updPort chip (opposite q) fun o => o.send pl x.2 := by
  unfold State.moveStored
  rw [hs]
  exact if_pos ho

/-- The ports of a direction after a flit has moved from the one to the other. -/
theorem State.moveStored_ports {x : Nat × Flit} {rest : List (Nat × Flit)} (hs : ((s.chip chip).port q).store.getD pl [] = x :: rest)
    (ho : ((s.chip chip).port (opposite q)).open pl = true) :
    ((s.moveStored chip q pl).chip chip).port q = { (s.chip chip).port q with store := ((s.chip chip).port q).store.set pl rest } ∧
      ((s.moveStored chip q pl).chip chip).port (opposite q) = ((s.chip chip).port (opposite q)).send pl x.2 := by
  rw [State.moveStored_eq hs ho]
  refine ⟨?_, ?_⟩
  · rw [State.port_updPort_ne _ _ (opposite_ne q).symm, State.port_updPort]
  · rw [State.port_updPort, State.port_updPort_ne _ _ (opposite_ne q)]

/-- A flit that has moved is the last of the other port's store. -/
theorem State.moveStored_moves {x : Nat × Flit} {rest : List (Nat × Flit)} (hs : ((s.chip chip).port q).store.getD pl [] = x :: rest)
    (ho : ((s.chip chip).port (opposite q)).open pl = true) (hl : pl < ((s.chip chip).port q).store.length)
    (hl' : pl < ((s.chip chip).port (opposite q)).store.length) :
    (((s.moveStored chip q pl).chip chip).port q).store.getD pl [] = rest ∧
      ((((s.moveStored chip q pl).chip chip).port (opposite q)).store.getD pl []).map Prod.snd =
        (((s.chip chip).port (opposite q)).store.getD pl []).map Prod.snd ++ [x.2] := by
  obtain ⟨h1, h2⟩ := State.moveStored_ports hs ho
  rw [h1, h2]
  refine ⟨getD_set_self hl .., ?_⟩
  rw [Port.send]
  dsimp only
  rw [getD_set_self hl', List.map_append]
  rfl

/-- A move on one plane leaves the other plane of both ports as it was. -/
theorem State.moveStored_keeps (s : State) (chip q : Nat) {pl j : Nat} (hj : j ≠ pl) :
    (((s.moveStored chip q pl).chip chip).port q).store.getD j [] = ((s.chip chip).port q).store.getD j [] ∧
      (((s.moveStored chip q pl).chip chip).port q).store.length = ((s.chip chip).port q).store.length ∧
      (((s.moveStored chip q pl).chip chip).port (opposite q)).store.getD j [] = ((s.chip chip).port (opposite q)).store.getD j [] ∧
      (((s.moveStored chip q pl).chip chip).port (opposite q)).store.length = ((s.chip chip).port (opposite q)).store.length ∧
      (((s.moveStored chip q pl).chip chip).port (opposite q)).open j = ((s.chip chip).port (opposite q)).open j := by
  cases hs : ((s.chip chip).port q).store.getD pl [] with
  | nil =>
    have he : s.moveStored chip q pl = s := by rw [State.moveStored, hs]
    rw [he]
    exact ⟨rfl, rfl, rfl, rfl, rfl⟩
  | cons x rest =>
    by_cases ho : ((s.chip chip).port (opposite q)).open pl = true
    · obtain ⟨h1, h2⟩ := State.moveStored_ports hs ho
      have hset : ∀ (l : List (List (Nat × Flit))) a, (l.set pl a).getD j [] = l.getD j [] := fun l a => by
        rw [List.getD_eq_getElem?_getD, List.getElem?_set_ne hj.symm, List.getD_eq_getElem?_getD]
      rw [h1, h2]
      refine ⟨hset .., List.length_set .., hset .., List.length_set .., ?_⟩
      rw [Port.open, Port.open, Port.send]
      dsimp only
      rw [hset]
    · have he : s.moveStored chip q pl = s := by rw [State.moveStored, hs]; exact if_neg ho
      rw [he]
      exact ⟨rfl, rfl, rfl, rfl, rfl⟩

end

theorem portOutOfService_moves {s : State} (hd : s.argPort.dead = true) : ∃ t, exec .portOutOfService s = .next t ∧
    (t.mem = s.mem ∧ t.cores = s.cores) ∧ ∀ i x rest, i < 2 → s.argPort.store.length = 2 →
      ((s.chip s.arg.chip).port (opposite s.arg.port)).store.length = 2 → s.argPort.store.getD i [] = x :: rest →
      ((s.chip s.arg.chip).port (opposite s.arg.port)).open i = true →
      ((t.chip s.arg.chip).port s.arg.port).store.getD i [] = rest ∧
        (((t.chip s.arg.chip).port (opposite s.arg.port)).store.getD i []).map Prod.snd =
          (((s.chip s.arg.chip).port (opposite s.arg.port)).store.getD i []).map Prod.snd ++ [x.2] := by
  refine ⟨_, (exec_portOutOfService s).trans (congrArg Host.Outcome.next (if_pos hd)),
    ((FabricOnly.moveStored ..).trans (FabricOnly.moveStored ..)).same, fun i x rest hi hl hl' hs ho => ?_⟩
  match i, hi with
  | 0, _ =>
    obtain ⟨h1, -, h2, -, -⟩ := State.moveStored_keeps (s.moveStored s.arg.chip s.arg.port 0) s.arg.chip s.arg.port (pl := 1) (j := 0) (by decide)
    rw [h1, h2]
    exact State.moveStored_moves hs ho (hl ▸ by decide) (hl' ▸ by decide)
  | 1, _ =>
    obtain ⟨h1, h2, h3, h4, h5⟩ := State.moveStored_keeps s s.arg.chip s.arg.port (pl := 0) (j := 1) (by decide)
    rw [← h3]
    exact State.moveStored_moves (h1.trans hs) (h5.trans ho) (by rw [h2]; exact hl ▸ by decide) (by rw [h4]; exact hl' ▸ by decide)

end Sys2Proof.Machine
end

section
/-! The settlement of O56. -/

namespace Sys2Proof.Machine

theorem exec_routeFlit (s : State) : exec .routeFlit s = .next (s.routed s.arg.chip s.arg.node s.arg.plane) := rfl

/-- Settles O56, clause by clause: a router's cycle, injection, reassembly, and the events of the links. -/
theorem fabricAndLinks : Obligations.FabricAndLinks := by
  unfold Obligations.FabricAndLinks
  intro s chip n key pl moved toward sameMem
  refine ⟨fun h => ?_, fun f p hm hh hr hchip hnode hplane hp => ?_,
    fun f g p q hm hl hh hid hk hf hg hfc hgc hfn hgn hfp hgp hp hq hpc hqc hpn hqn => ?_, exec_injectFlit_idle,
    fun p i ht => ⟨injectFlit_holds ht, fun d hmay hw hp => injectFlit_injects ht hmay hw hp⟩, injectionCapWindow_counts s,
    fun f p hf hp => ⟨fun hr => ⟨reassembly_floor hf hp hr, reassembly_shared hf hp hr, reassembly_busy hf hp hr⟩,
      fun r hr => reassembly_joins hf hp hr⟩, ?_⟩
  · have hm : 98 ∈ s.portsUsed chip n s.arg.plane := by
      rw [List.contains_eq_mem] at h
      exact of_decide_eq_true h
    rw [exec_routeFlit, State.routed_passed hm]
  · exact ⟨_, exec_routeFlit s, (FabricOnly.routed ..).same, State.routed_onward hm hh hr hchip hnode hplane hp,
      State.routed_discards hm hh hr hchip hnode hplane hp, State.routed_delivers hm hh hr hchip hnode hplane hp,
      State.routed_collects hm hh hr hchip hnode hplane hp,
      fun q hc hq hb ho => State.routed_leaves hm hh hr hchip hnode hplane hp hc hq hb ho⟩
  · exact ⟨_, exec_routeFlit s, (FabricOnly.routed ..).same,
      State.routed_both hm hl hh hid hk hf hg hfc hgc hfn hgn hfp hgp hp hq hpc hqc hpn hqn⟩
  · intro q port p far next back
    refine ⟨exec_linkReceive_idle, fun up hm => ?_, fun m f rest hup hwire hl => ?_, fun m f rest hwire hl => ?_, linkReplay_resends s,
      linkAcknowledge_forgets s, exec_laneFailure_idle, fun h _ => ?_, retrainingEnd_returns s, exec_portOutOfService_waits,
      fun hd h ht => ?_, portOutOfService_moves⟩
    · cases hwire : s.farEnd.wire.getD pl [] with
      | nil => exact exec_linkReceive_idle hwire
      | cons x rest => exact exec_linkReceive_passed hwire up hm
    · exact ⟨_, exec_linkReceive_deaf hwire hup, ⟨rfl, rfl⟩, rfl, congrArg Port.seqIn (s.untilWire_argPort rest),
        s.untilWire_wire rest hl⟩
    · intro used s' g up hm
      refine ⟨fun hn => ⟨_, exec_linkReceive_loses hwire up hm hn, ⟨rfl, rfl⟩, rfl, congrArg Port.seqIn (s.untilWire_argPort rest),
        s.untilWire_wire rest hl⟩, fun k hnext hplain hplane hp hc hidle => ?_⟩
      have hadm : Admission s m f rest k := ⟨hwire, up, hm, hnext, hplain, hplane, hp, hc, hidle⟩
      exact ⟨hadm.stays, hadm.ejects, fun d hn hd hfree hlen => hadm.goesOn hn hd hfree hlen⟩
    · obtain ⟨t, e, he, hcores, hmem, hrep, hport, hbelay, hw1, hw0⟩ := laneFailure_weakens h
      obtain ⟨hlanes, hspare⟩ := s.argPort.weaker_lanes s.arg.lane s.now
      obtain ⟨hin, htrain, hsince⟩ := s.argPort.weaker_service s.arg.lane s.now
      refine ⟨t, e, he, hcores, hmem, hrep, ?_, ?_, ?_, ?_, ?_, hbelay, hw1, hw0⟩
      · exact (congrArg Port.since hport).trans hsince
      · exact (congrArg Port.lanes hport).trans hlanes
      · exact (congrArg Port.spare hport).trans hspare
      · exact (congrArg Port.inService hport).trans hin
      · exact (congrArg Port.training hport).trans htrain
    · obtain ⟨t, e, he, hsame, hport, hbelay, hw1, hw0⟩ := portOutOfService_dies hd h ht
      exact ⟨t, e, he, hsame, congrArg Port.dead hport, congrArg Port.inService hport, congrArg Port.store hport,
        congrArg Port.wire hport, hbelay, hw1, hw0⟩

end Sys2Proof.Machine
end
